-- ==== Sys2Proof/Word.lean ====
section
/-! DEFINITION. The word types of the ZN64 model, the indices of its units and the type of a
sparse table. -/

namespace Sys2Proof

/-- A register, a vector element or half of a scalar. -/
abbrev Word32 := BitVec 32

/-- A scalar register, a stored SRAM word or an instruction word. -/
abbrev Word64 := BitVec 64

abbrev Byte := BitVec 8

/-- Stack s (R13), core c of its stack (R18), slot g of its core (R61). -/
abbrev StackId := Fin 24
abbrev CoreId := Fin 16
abbrev SlotId := Fin 8

/-- Stream-engine channel n of its stack (R242). -/
abbrev ChanId := Fin 32

/-- HBM stack and Shore-M m, link port p (R14). -/
abbrev HbmId := Fin 8
abbrev PortId := Fin 8

/-- A table of values by number in one canonical form: keys strictly rising, and no entry equal
to what an unlisted key reads as. -/
abbrev SMap (α : Type) := List (Nat × α)

end Sys2Proof
end

