-- ==== Sys2Proof/Machine/Sparse.lean ====
section
/-! DEFINITION. Sparse tables in canonical form (keys strictly rising, no entry equal to what an
unlisted key reads as), and the plain bit and byte helpers every unit uses. -/

namespace Sys2Proof.Machine

/-- What key `k` reads as: its entry, or `d k`. -/
def sget {α : Type} (d : Nat → α) : SMap α → Nat → α
  | [], k => d k
  | (k', v) :: t, k => if k = k' then v else sget d t k

/-- Put `v` at key `k`, an entry or not, with no regard to what `d` says of it. -/
def sput {α : Type} : SMap α → Nat → α → SMap α
  | [], k, v => [(k, v)]
  | (k', v') :: t, k, v =>
    if k = k' then (k, v) :: t
    else if k < k' then (k, v) :: (k', v') :: t
    else (k', v') :: sput t k v

/-- Remove the entry of key `k`. -/
def sdel {α : Type} (m : SMap α) (k : Nat) : SMap α := m.filter fun e => e.1 != k

/-- Write `v` at key `k`, keeping the canonical form: the value an unlisted key reads as removes
the entry. -/
def sset {α : Type} [DecidableEq α] (d : Nat → α) (m : SMap α) (k : Nat) (v : α) : SMap α :=
  if v = d k then sdel m k else sput m k v

/-- The canonical form, given a lower bound (exclusive) on the keys that may still come. -/
def swfFrom {α : Type} [DecidableEq α] (d : Nat → α) (lo : Option Nat) : SMap α → Bool
  | [] => true
  | (k, v) :: t =>
    (match lo with | none => true | some b => decide (b < k)) && !decide (v = d k) &&
      swfFrom d (some k) t

/-- The canonical form: keys strictly rising, and no entry equal to what an unlisted key reads as. -/
def swf {α : Type} [DecidableEq α] (d : Nat → α) (m : SMap α) : Bool := swfFrom d none m

/-- Drop every entry whose key satisfies `p`. -/
def sdrop {α : Type} (p : Nat → Bool) (m : SMap α) : SMap α := m.filter fun e => !p e.1

/-- Apply `f` to every entry, keeping the canonical form. -/
def smapv {α : Type} [DecidableEq α] (d : Nat → α) (f : Nat → α → α) (m : SMap α) : SMap α :=
  (m.map fun e => (e.1, f e.1 e.2)).filter fun e => !decide (e.2 = d e.1)

/-! ### Bits -/

/-- Bits [lo + n - 1 : lo] of a natural number. -/
def bitsOf (v lo n : Nat) : Nat := (v >>> lo) % 2 ^ n

/-- Bit `i` of a natural number. -/
def bitOf (v i : Nat) : Bool := (v >>> i) % 2 == 1

/-- `v` with bits [lo + n - 1 : lo] replaced by the low `n` bits of `x`. -/
def putBits (v lo n x : Nat) : Nat :=
  v - (bitsOf v lo n <<< lo) + ((x % 2 ^ n) <<< lo)

/-- The two's-complement value of the low `n` bits of `v`. -/
def signedOf (n v : Nat) : Int :=
  let m := v % 2 ^ n
  if n = 0 then 0 else if m < 2 ^ (n - 1) then m else (m : Int) - 2 ^ n

/-- Round `a` up to a multiple of `m`. -/
def roundUp (a m : Nat) : Nat := if m = 0 then a else (a + m - 1) / m * m

/-- Division rounded up. -/
def ceilDiv (a m : Nat) : Nat := if m = 0 then 0 else (a + m - 1) / m

def floorLog2 (n : Nat) : Nat := Nat.log2 n

/-- `xs` with entry `i` replaced (out of range: unchanged). -/
def putAt {α : Type} (xs : List α) (i : Nat) (v : α) : List α := xs.set i v

/-- Little-endian value of a byte list. -/
def leNat : List Byte → Nat
  | [] => 0
  | b :: t => b.toNat + 256 * leNat t

/-- The `n` bytes of `v`, least significant first. -/
def leBytes : Nat → Nat → List Byte
  | 0, _ => []
  | n + 1, v => BitVec.ofNat 8 v :: leBytes n (v / 256)

/-- Insert into a strictly rising list of numbers, keeping no repeats. -/
def insertNat (x : Nat) : List Nat → List Nat
  | [] => [x]
  | y :: t => if x = y then y :: t else if x < y then x :: y :: t else y :: insertNat x t

/-- The smallest element below `n` satisfying `p`. -/
def firstBelow (n : Nat) (p : Nat → Bool) : Option Nat := (List.range n).find? p

end Sys2Proof.Machine
end

