-- ==== Sys2Proof/Machine/CoreState.lean ====
section
/-! DEFINITION. The state of one core: its slots, queues, tensor array, instruction cache and
local memory side (Tables 3-1, 6-1, R140, R221-R225). -/

namespace Sys2Proof.Machine

/-! ### Slots (Table 3-2) -/

/-- States of a slot, Table 3-2. An armed slot waits for boundary 0 of the next job (LAUNCH_JOB)
or for the next boundary of any kind (LAUNCH_NOW), R65. -/
inductive SlotState where
  | empty
  | armedJob
  | armedNow
  | running
  | tickWait
  | halted
  deriving DecidableEq, Repr

/-- One entry of one thread's queue (R72): present with its value, or reserved by the load whose
number it carries. -/
inductive QEntry where
  | present (v : Word32)
  | reserved (load : Nat)
  deriving DecidableEq, Repr

/-- What a running group's issue waits for (R86): nothing, the line of its next instruction
(R141), a fence (R134, R135), or the completion of ENDT (R136) or EXIT (R137). -/
inductive SlotWait where
  | none
  | fetch (line : Nat)
  | fence (scope : Nat) (base len : Nat)
  | tfence (issue : Bool)
  | endt
  | exit
  deriving DecidableEq, Repr

/-- A slot and the group in it (R61, R63, R81, R82, R167). `queues` is keyed by 64 q + t, `scal`
by register, `pred` by mask number. `seeded` is whether the generator started from a seed. -/
structure Slot where
  state : SlotState := .empty
  trapped : Bool := false
  pc : BitVec 40 := 0
  queues : SMap (List QEntry) := []
  scal : SMap Word64 := []
  pred : SMap Word64 := []
  sr : BitVec 16 := 0
  seeded : Bool := false
  wait : SlotWait := .none
  deriving DecidableEq, Repr

/-- A slot that nothing has launched into: its generator holds 0 (DESIGN CHOICE, log entry 77). -/
def Slot.reset : Slot := {}

/-! ### Core-wide queues -/

/-- One entry of a core-wide queue: 256 B as 64 words, element t in word t (R78, R79). -/
structure Entry where
  words : List Word32
  deriving DecidableEq, Repr

/-- The structures of a core whose words carry the code of R280 and have no address: its queue file, its scalar
file, the queues TA, TB, TD and QI, the accumulator and the stationary buffers (Table 10-1). -/
inductive Inner where
  | queues
  | scalars
  | wide
  | acc
  | tiles
  deriving DecidableEq, Repr

/-! ### Loads and stores in flight -/

/-- What a read took from one stored SRAM or DRAM word on its way to a load: the 64-bit word as
stored, the deviation of its check bits, where it is stored (an SRAM word number, or the HBM line of
a DRAM word) and what kind of store that is (SRC of Table 10-2; 0: no code left to check); `mask`: the
bytes of the word it gives; `syms`: the symbols of a DRAM line stored in error. `bad`: a code word already found
uncorrectable or poisoned (DEDUCED, log entry 20). -/
structure Fetched where
  word : Word64
  mask : BitVec 8 := 0xFF
  dev : Byte := 0
  syms : List (Nat × Byte) := []
  at_ : Nat := 0
  src : Nat := 0
  bad : Bool := false
  deriving DecidableEq, Repr

/-- One thread's part of a load or atomic in flight: the thread, its address, what the L1 held of its word
when the request left the core (R218, R233), and what the levels gave, farthest first, once they have. -/
structure LoadLane where
  thread : Nat
  addr : Nat
  near : List Fetched := []
  got : Option (List Fetched) := none
  deriving DecidableEq, Repr

/-- A load or atomic in flight (R72): its number, slot, instruction address, queue, size in bytes,
sign extension, and its lanes. `last`: the line is marked dead after the access (R130). -/
structure Load where
  id : Nat
  slot : Nat
  pc : BitVec 40
  queue : Nat
  size : Nat
  sx : Bool
  aclass : Nat
  last : Bool
  lanes : List LoadLane
  deriving DecidableEq, Repr

/-! ### Tensor array (Table 6-1) -/

/-- A T-class command in the tensor command queue or started (Table 4-13). -/
inductive TOp where
  | tldt (count fmtb qsel : Nat)
  | tswap
  | trun (count row fmta amode : Nat) (mir : Bool) (qsel : Nat)
  | tdrn (count row : Nat) (pair : Bool) (qsel : Nat)
  | tclr (count row : Nat)
  deriving DecidableEq, Repr

structure TCmd where
  id : Nat
  slot : Nat
  op : TOp
  deriving DecidableEq, Repr

/-- A stationary buffer (R181, R188): format code, elements keyed 128 r + n (both elements of a
4-bit cell in one byte), ZS8 scale bytes keyed 128 j + n, the block size of the scales (0: none)
and the number of loaded rows. -/
structure Tile where
  fmt : Nat := 7
  cells : SMap (BitVec 16) := []
  scales : SMap Byte := []
  blk : Nat := 0
  rows : Nat := 0
  deriving DecidableEq, Repr

/-- The reset state of a stationary buffer (R208): code 0x00, format INT8, no scales. -/
def Tile.reset : Tile := {}

/-- One accumulator entry (R176, R178, R199): hi, lo (pairs only) and the fresh flag. -/
structure AccEntry where
  hi : Word32 := 0
  lo : Word32 := 0
  fresh : Bool := true
  deriving DecidableEq, Repr

def AccEntry.reset : AccEntry := {}

/-- A TLDT the loader has started: the entries it needs, and those it has taken so far, in order. -/
structure Loading where
  cmd : TCmd
  need : Nat
  taken : List Entry := []
  deriving DecidableEq, Repr

/-- A TRUN the streamer has started, with the rows entered so far. -/
structure Streaming where
  cmd : TCmd
  entered : Nat := 0
  deriving DecidableEq, Repr

/-- A row that has entered band 0 and has not updated its accumulator row yet: the command, the
row's number, its element codes and scale bytes, the tile it entered with and the block size of
its scales. -/
structure RowFlight where
  cmd : TCmd
  index : Nat
  codes : List Nat
  scales : List Nat
  blk : Nat
  tile : Tile
  deriving DecidableEq, Repr

/-- States of the array's activity ramp (R204), with the cycles left of a ramp under way. -/
inductive Ramp where
  | idle
  | up (left : Nat)
  | active
  | down (left : Nat)
  deriving DecidableEq, Repr

/-- The tensor array of a core. `tdrn` is the TDRN started with the entries it has pushed;
`holding` is whether the hold of R205 runs. The buffers' entries of TA, TB and TD are oldest first. -/
structure Tensor where
  cmdq : List TCmd := []
  nextId : Nat := 0
  ta : SMap (List Entry) := []
  tb : SMap (List Entry) := []
  td : SMap (List Entry) := []
  front : Tile := {}
  back : Tile := {}
  acc : SMap AccEntry := []
  loading : Option Loading := none
  streaming : Option Streaming := none
  rows : List RowFlight := []
  tdrn : Option (TCmd × Nat) := none
  tclr : Option TCmd := none
  ramp : Ramp := .idle
  holding : Bool := false
  hold : Nat := 0
  deriving DecidableEq, Repr

def Tensor.reset : Tensor := {}

/-! ### Instruction cache (R140-R146) -/

/-- A valid line: tag, pinned flag, its 16 words, and for each the difference of its stored 72
bits from the correct code word (R142). -/
structure ICLine where
  tag : Nat
  pinned : Bool
  words : List Word64
  dev : SMap (BitVec 72) := []
  refetched : Bool := false
  deriving DecidableEq, Repr

/-- A line fetch outstanding (R141): its line, whether it is the refetch of R142, and the address of a word its
source has already found uncorrectable. -/
structure ICFetch where
  line : Nat
  refetch : Bool := false
  bad : Option Nat := none
  deriving DecidableEq, Repr

/-- The instruction cache: lines keyed 8 × set + way, round-robin pointers by set, line fetches
outstanding, lines an uncorrectable error has invalidated whose refetch has not begun (R142), and the preload
under way: the lines left to request. -/
structure ICache where
  lines : SMap (Option ICLine) := []
  rr : SMap Nat := []
  fetches : List ICFetch := []
  again : List Nat := []
  preload : Option (List Nat) := none
  preloadPin : Bool := false
  deriving DecidableEq, Repr

def ICache.reset : ICache := {}

/-! ### Local memory side (R211-R225) -/

/-- A cache line of the L1 or of a stack L2: its line number (address bits [39:7]), byte valid and
dirty masks, low-inserted flag, the class that allocated it and bytes keyed by offset (R222, R230); for a line of an L1,
the deviations of its words' check bits, keyed by place in the line (R280). -/
structure CLine where
  line : Nat
  valid : BitVec 128 := 0
  dirty : BitVec 128 := 0
  low : Bool := false
  aclass : Nat := 0
  data : SMap Byte := []
  dev : SMap Byte := []
  deriving DecidableEq, Repr

/-- Bytes to be stored, keyed by address. -/
abbrev StoreBytes := SMap Byte

/-- One request of a quarter that left the core and waits on a miss register (R224): lanes of a
load (the load's number and the threads), or a store's bytes with its class and slot. -/
inductive L1Waiter where
  | lanes (load : Nat) (threads : List Nat)
  | store (slot : Nat) (bytes : StoreBytes) (aclass : Nat) (last : Bool)
  deriving DecidableEq, Repr

/-- A miss register in use (R224): what it is for, its line, its class, its waiters in attach
order (none: a store the stack L2 holds back), and the classes of the dead-block marks that wait for the fill (R226). `ready`: the line's source has its
data (the stack L2 or the target itself); `bad`: that data is uncorrectable or refused. -/
structure MissReg where
  id : Nat
  line : Nat
  aclass : Nat
  fill : Bool
  waiters : List L1Waiter
  marks : List Nat := []
  ready : Bool := false
  bad : Bool := false
  deriving DecidableEq, Repr

/-- A quarter's request that waits for a miss register or a waiter place (R224, step 3). -/
structure MissReq where
  line : Nat
  aclass : Nat
  fill : Bool
  waiter : L1Waiter
  deriving DecidableEq, Repr

/-- A fence in progress needs the write-backs that were due when it issued; the L1 keeps lines
keyed 8 × set + way, round-robin pointers by set, the write-back buffer (oldest first), the miss
registers, the requests that wait for one, and the number of the next register to be taken (none is used twice). -/
structure L1 where
  lines : SMap (Option CLine) := []
  rr : SMap Nat := []
  wb : List CLine := []
  miss : List MissReg := []
  waiting : List MissReq := []
  nextMiss : Nat := 1
  deriving DecidableEq, Repr

def L1.reset : L1 := {}

/-! ### The core -/

/-- One core (Table 3-1). `rp` is the scheduler's pointer (R87); `trapSlot` the slot of the captured trap that halted
the core (R93); `qi` the inbound stream queues; `l1szPend` an accepted L1SZ that waits for its boundary (R213);
`stopCount` the instructions the counted slot has issued toward K in this tick, `stopNow` whether the K-th has just
issued, `stopDrain` whether the snapshot is still to come and `kept` what boundaries passed meanwhile have taken from
the digest slots (R410, R411); `glint` the live digest slots (R406); `inner` the inverted bits that the next reads of
its structures without addresses meet, oldest first (R280) (DESIGN CHOICE, log entry 10). -/
structure Core where
  slots : SMap Slot := []
  rp : Nat := 0
  trapSlot : Option Nat := none
  ic : ICache := {}
  l1 : L1 := {}
  loads : List Load := []
  nextLoad : Nat := 0
  qi : SMap (List Entry) := []
  tns : Tensor := {}
  l1sz : Nat := 0
  l1szPend : Option Nat := none
  stopCount : Nat := 0
  stopDrain : Bool := false
  stopNow : Bool := false
  kept : SMap Word64 := []
  glint : SMap Word64 := []
  inner : List (Inner × BitVec 72) := []
  deriving DecidableEq, Repr

def Core.reset : Core := {}

/-- A core that has lost its supply or returned: its L1 size, and its digests (R408), are kept; the numbers of loads
and miss registers go on, so that a late answer meets none of them. -/
def Core.cleared (c : Core) : Core :=
  { Core.reset with l1sz := c.l1sz, l1szPend := c.l1szPend, glint := c.glint, nextLoad := c.nextLoad,
                    l1 := { L1.reset with nextMiss := c.l1.nextMiss } }

end Sys2Proof.Machine
end

