-- ==== Sys2Proof/Machine/MemState.lean ====
section
/-! DEFINITION. The memory side of a stack and the HBM controllers: stack L2, slab merge buffers,
checker, scrubber, bonds; HBM training, refresh and patrol (R227-R239, R284-R304, R309-R322). -/

namespace Sys2Proof.Machine

/-! ### Stack L2 -/

/-- Who waits on a DRAM fetch of the stack L2 (R229): lanes of a load, a fill of an L1, an instruction fetch, or a
store with its owner, the miss register it holds (0: none), its master and the deadline it carries. -/
inductive L2Waiter where
  | lanes (core load : Nat) (threads : List Nat)
  | l1 (core miss : Nat)
  | fetch (core : Nat)
  | store (owner miss master : Nat) (deadline : Option Nat) (bytes : StoreBytes) (aclass : Nat) (last : Bool)
  deriving DecidableEq, Repr

/-- A DRAM fetch of a home slab (R229). `mark`: a dead-block mark waits for the fill (R226). -/
structure L2Fetch where
  slab : Nat
  line : Nat
  aclass : Nat
  waiters : List L2Waiter
  mark : Bool := false
  deriving DecidableEq, Repr

/-- A line waiting to be written back (R229): its home slab, the master whose fill evicted it (R263), the line. -/
structure L2Out where
  slab : Nat
  master : Nat
  line : CLine
  deriving DecidableEq, Repr

/-- The stack L2: lines keyed 32 × (set + 16384 × slab) + way, round-robin pointers by
set + 16384 × slab, fetches (at most 64 per slab), requests that wait for a fetch place, and the
write-back buffers (oldest first, at most 16 per slab). `res` is the split in
force and `resPend` an accepted one (R216). -/
structure L2 where
  lines : SMap (Option CLine) := []
  rr : SMap Nat := []
  fetches : List L2Fetch := []
  waiting : List L2Fetch := []
  wb : List L2Out := []
  res : Nat := 8
  resPend : Option Nat := none
  deriving DecidableEq, Repr

/-- A merge-buffer entry of a slab port (R284): word number (address / 8), byte mask, bytes. -/
structure MergeEntry where
  word : Nat
  mask : BitVec 8
  data : Word64
  deriving DecidableEq, Repr

/-! ### Bonds (chapter 11) -/

/-- States of a bond in the dead-bond table, Table 11-2. -/
inductive BondState where
  | spareLost
  | substituted
  | pending
  | unrepaired
  deriving DecidableEq, Repr

/-- A bond of a stack (R309): slab, lane group 0-575 of its core, lane 0-33. -/
structure Bond where
  slab : Nat
  group : Nat
  lane : Nat
  deriving DecidableEq, Repr

/-- An entry of the dead-bond table (R313): the bond, its state, the word position it carried when
it died (a data lane carries its own number; a spare what is steered onto it; none for a spare
that carried nothing). -/
structure DeadBond where
  bond : Bond
  state : BondState
  pos : Option Nat
  deriving DecidableEq, Repr

/-- An entry of the candidate table (R310): hits, the local address of the last, the granules they came from (at most
two are kept), least recently hit first in the table. -/
structure Candidate where
  bond : Bond
  hits : Nat
  last : Nat := 0
  granules : List Nat
  deriving DecidableEq, Repr

/-- A steering of a word position of a lane group onto a spare lane (R309). -/
structure Steer where
  slab : Nat
  group : Nat
  pos : Nat
  lane : Nat
  deriving DecidableEq, Repr

/-- Clock, control and test bonds (R320): signals 0-6551 with a masked copy. -/
structure BondUnit where
  dead : List DeadBond := []
  cand : List Candidate := []
  steer : List Steer := []
  masked : SMap (Option Nat) := []
  loop : Option (Nat × Nat) := none
  fenced : List (Nat × Nat) := []
  lost : Bool := false
  deriving DecidableEq, Repr

/-! ### Stream engine (chapter 8) -/

/-- Where a channel stands in the procedure of R257: fetching the descriptor at CUR, executing it,
writing STATUS and RESULT, clearing OWN. -/
inductive ChPhase where
  | idle
  | fetch
  | exec
  | status
  | own
  | halted
  deriving DecidableEq, Repr

/-- A burst (R241) from the issue of its read until its write is accepted: its number, place in
the transferred stream, length, source and destination (fabric address, or place in a queue side),
the data that has arrived (all of it: `len` bytes), whether its write has been issued, the bytes a
queue has taken, the timebase at the issue of its read or write (R276), the Ozmond message tag it waits on, and the
time at which the access under way times out (R259; a wait for a queue has none). -/
structure Burst where
  id : Nat
  pos : Nat
  len : Nat
  src : Nat := 0
  dst : Nat := 0
  data : List Byte := []
  written : Bool := false
  acc : Nat := 0
  issued : Nat := 0
  tag : Option Nat := none
  due : Option Nat := none
  deriving DecidableEq, Repr

/-- The descriptor being processed, as fetched (16 words of 32 bits, Table 8-1). -/
abbrev Desc := List Word32

/-- A stream-engine channel. `held`: a pending trigger (`some t`: t, it is a timer's); `timer`: the
activation was started by the tick timer; `fired`: the timer has had its event of this tick; `late`: its OFFSET had
passed when it was written, or lay beyond the nominal end; `done`:
descriptors processed in this activation, of at most `budget`; `born`: the boundary of the tick it started
in; `granted`: the descriptor's guarantee
request has been admitted; `running`: the descriptor has started (it holds `crcUnit`, sampled as
`crcParam`: W, P, I, X, RI, RO); `crc` the running check register and `stored` the check bytes read
for a verify; `srcPos`, `foldPos`: bytes whose bursts have been created, and whose data has been
folded in payload order; `listing`: its gather and scatter lists are being read; `mix`: the first free value of an
overlapping copy, and `kept` the bytes it has replaced there, by fabric address; `qin`, `qout`: the unfinished entry
of a source or destination queue;
`fold` the Glint terms with the bytes of an unfinished word; `code`, `detail`, `epoch`, `result` the
outcome to be written; `tags`: messages of the fetch or write under way not answered yet; `got` its
answer (code, detail, data); `due` when it times out; `spoilt` the inverted bits that the next reads of its buffer
slots meet, oldest first (R280) (DESIGN CHOICE, log entry 10). -/
structure Chan where
  phase : ChPhase := .idle
  held : Option Bool := none
  timer : Bool := false
  fired : Bool := false
  late : Bool := false
  done : Nat := 0
  budget : Nat := 0
  born : Nat := 0
  desc : Desc := []
  granted : Bool := false
  running : Bool := false
  crcUnit : Option Nat := none
  crcParam : List Nat := []
  crc : Nat := 0
  stored : List Byte := []
  srcPos : Nat := 0
  foldPos : Nat := 0
  bursts : List Burst := []
  nextBurst : Nat := 0
  listing : Bool := false
  mix : Nat := 0
  kept : List (Nat × Byte) := []
  srcList : List (Nat × Nat) := []
  dstList : List (Nat × Nat) := []
  qin : List Byte := []
  qout : List Byte := []
  fold : Word64 := 0
  foldTail : List Byte := []
  code : Nat := 0
  detail : Nat := 0
  epoch : Nat := 0
  result : Nat := 0
  abort : Bool := false
  tags : List Nat := []
  got : Option (Nat × Nat × List Byte) := none
  due : Option Nat := none
  spoilt : List (BitVec 72) := []
  deriving DecidableEq, Repr

def Chan.reset : Chan := {}

/-! ### Claim queues (R395-R400) -/

/-- A claim queue: items returned this round, items returned to each claimer (R396, R397), bytes
accepted into each slot of an arrival queue, the slots posted and not claimed yet in posting order,
and the slots posted this round (R398, R399). -/
structure ClaimQ where
  returned : Nat := 0
  perCore : SMap Nat := []
  bytes : SMap Nat := []
  posted : List Nat := []
  everPosted : List Nat := []
  deriving DecidableEq, Repr

def ClaimQ.reset : ClaimQ := {}

/-! ### A stack -/

/-- One stack beyond its cores: its L2, merge buffers keyed 8 × slab + port, granules
(slab, granule) cleared since the last boundary (R301), bonds, scrubber position, stream engine with the last channel each
engine served per priority, claim queues. -/
structure Stack where
  l2 : L2 := {}
  merge : SMap (List MergeEntry) := []
  bonds : BondUnit := {}
  scrubPos : Nat := 0
  granLeaving : List (Nat × Nat) := []
  chans : SMap Chan := []
  lastRd : SMap Nat := []
  lastWr : SMap Nat := []
  glint : Word64 := 0
  claims : SMap ClaimQ := []
  deriving DecidableEq, Repr

def Stack.reset : Stack := {}

/-! ### HBM stacks -/

/-- An HBM controller (R237-R239, R286-R304): poisoned 64 B lines (address / 64), the symbols of lines stored in error
with their error values (R286), patrol position, last device error counts by SID, banks and remap
entries cleared since the last boundary (R303, R304). -/
structure Hbm where
  poison : List Nat := []
  syms : SMap (List (Nat × Byte)) := []
  patrol : Nat := 0
  ecs : SMap Nat := []
  banksLeaving : List Nat := []
  remapsLeaving : List (Nat × Nat) := []
  deriving DecidableEq, Repr

def Hbm.reset : Hbm := {}

end Sys2Proof.Machine
end

