-- ==== Sys2Proof/Machine/PkgState.lean ====
section
/-! DEFINITION. The state of the package's shared blocks: bandwidth regulator, Ozmond Link, tick
unit, power, thermal, boot, roles, faults, host and management interfaces. -/

namespace Sys2Proof.Machine

/-! ### Bandwidth regulator (chapter 9) -/

/-- A request at a point (R272, R275): master, bytes, deadline (time of the local clock; none: no
deadline), whether it left on guarantee tokens alone, and its age. -/
structure BwrReq where
  master : Nat
  bytes : Nat
  deadline : Option Nat := none
  gOnly : Bool := false
  age : Nat := 0
  deriving DecidableEq, Repr

/-- A regulated point (R263-R279): guarantees by master, guarantee and shared buckets by master in
1/10,240 of a token, requests that wait at their source and in the queue, bytes served by master in
the window under way, the masters backlogged since the window began, and the requests seen so far. -/
structure Point where
  guar : SMap Nat := []
  gBucket : SMap Nat := []
  sBucket : SMap Nat := []
  share : Nat := 1024
  cap : Nat := 0
  eff : Nat := 0
  waiting : List BwrReq := []
  queue : List BwrReq := []
  served : SMap Nat := []
  backlog : List Nat := []
  seen : Nat := 0
  deriving DecidableEq, Repr

def Point.reset : Point := {}

/-! ### Ozmond Link (chapter 12) -/

/-- A message (Table 12-8). `body` holds bytes 32-63 of the header flit, little-endian; `data` the
LEN data bytes. Beside it: `stamp` the timebase at its arrival, `req` the age of its request at the egress point while
it is queued there. -/
structure Msg where
  type : Nat
  hops : Nat := 15
  dst : Nat
  src : Nat
  addr : Nat := 0
  role : Nat := 0xFFFF
  epoch : Nat := 0
  deadline : Nat := 0
  sgen : Nat := 0
  tag : Nat := 0
  len : Nat := 0
  body : Nat := 0
  data : List Byte := []
  stamp : Nat := 0
  req : Option Nat := none
  deriving DecidableEq, Repr

/-- A 64 B flit: a message's header, or up to 64 of its data bytes (R339). -/
inductive Flit where
  | head (m : Msg)
  | data (bytes : List Byte)
  deriving DecidableEq, Repr

/-- A frame (R333, Table 12-6): its 16 flit slots (none: VALID bit 0) and its trailer. -/
structure Frame where
  slots : List (Option Flit)
  seq : Nat
  ackseq : Nat
  nak : Bool := false
  credit : List Nat := [0, 0, 0, 0]
  crc : Word32 := 0
  deriving DecidableEq, Repr

/-- Link states, Table 12-3, in code order. -/
inductive LinkState where
  | disabled
  | detect
  | train
  | align
  | ident
  | active
  | incompat
  | down
  deriving DecidableEq, Repr

/-- A link l = 4p + k (R325-R338): state and the time it was entered, trained lanes, the lane sets
still to try and the one being tried (R327); frames held for replay with the times they were last sent
(oldest first), how often each has been resent, the sequence numbers of frames to send again, those of
the next frame to send and of the next to accept; whether it waits for that frame, the time of its last NAK, whether a NAK is
due; credit counts raised here, and received, and flits sent, by VC; messages queued, the flits left of the
one on the wire, the frame last sent; the flits of the message coming in; whether the partner's IDENT, and
one with ACKED, has come and one with ACKED has been accepted by the partner, the time of the last IDENT sent and how many more are
due; the time of the last good frame; whether the link left ACTIVE since the last boundary. -/
structure Link where
  state : LinkState := .disabled
  since : Nat := 0
  lanes : Nat := 0
  tries : List (List Nat) := []
  tryLanes : List Nat := []
  replay : List (Nat × Frame) := []
  replays : SMap Nat := []
  resend : List Nat := []
  nextSeq : Nat := 0
  expect : Nat := 0
  nakWait : Bool := false
  nakAt : Nat := 0
  nakDue : Bool := false
  freed : List Nat := [0, 0, 0, 0]
  credit : List Nat := [0, 0, 0, 0]
  sent : List Nat := [0, 0, 0, 0]
  queue : List Msg := []
  wire : List Flit := []
  wireVc : Nat := 0
  last : Option Frame := none
  rx : List Flit := []
  gotIdent : Bool := false
  gotAcked : Bool := false
  sentAcked : Bool := false
  identAt : Nat := 0
  identLeft : Nat := 0
  lastGood : Nat := 0
  lost : Bool := false
  deriving DecidableEq, Repr

def Link.reset : Link := {}

/-- What the service controller's neighbour table holds of a link (R331, R432); `known`: an identity has been
recorded; `first`, `changed`: the tick indices at which the partner was first seen and last changed. -/
structure Nbr where
  state : LinkState := .disabled
  serial : Nat := 0
  pkg : Nat := 0
  jobgrp : Nat := 0
  gen : Nat := 0
  rclass : Nat := 0
  feat : Nat := 0
  rev : Nat := 0
  known : Bool := false
  first : Nat := 0
  changed : Nat := 0
  deriving DecidableEq, Repr

def Nbr.reset : Nbr := {}

/-- The time-sync member's exchange under way and its correction (R354-R356), all in 1/8 ns: `slew` is spread over an
interval of `span`, of which `left` is to come, and `drift` is the rate trim in 1/8 ns per `span`, with the fraction of
`frac / (span × 10^6)` not given yet; `hold` is what the timebase has still to stand still for; `osc` is how far, in
parts per million, the internal oscillator that stands in for SERDES_REFCLK is off (R492). -/
structure Tsync where
  t1 : Nat := 0
  waiting : Bool := false
  sentAt : Nat := 0
  span : Nat := 512000
  slew : Int := 0
  left : Nat := 0
  drift : Int := 0
  osc : Int := 0
  frac : Nat := 0
  hold : Nat := 0
  last : Option Int := none
  offset : Int := 0
  deriving DecidableEq, Repr

/-! ### Tick unit (chapter 2) -/

/-- A release formed or received for the coming boundary (R39): index, time (8 ns units), period
and stop flag; `fault`, `invalid`: the stop follows a tick fault (R51) or a trap (R53); `byEnd`: END_EN caused
the stop (R409). -/
structure Release where
  index : Nat
  time : Nat
  period : Nat
  stop : Bool
  fault : Bool := false
  invalid : Bool := false
  byEnd : Bool := false
  deriving DecidableEq, Repr

/-- The tick unit. Times are of the timebase in 8 ns units: `bnd` the most recent boundary,
`period` the period of the tick under way, `pend` a written period waiting (R34), `index` the index of the
most recent boundary; `started`: a boundary has passed since reset; `restart`: the next free-mode boundary
counts from 0 again (R54); `rel` the release of the coming boundary (R39); `ready`, `done` the members heard
(root), `badDone` whether one of them reported invalid results; `doneSent` whether this package's done message has gone, `ovr`
whether this tick's overrun has been counted (R49), `invalid` a trap not told to the root yet (R53); `startAt` the time at which START was
accepted, `fromFree` whether STATE was free then; `unreach` members named unreachable (R51). -/
structure Tick where
  bnd : Nat := 0
  period : Nat := 12500
  pend : Option Nat := none
  index : Nat := 0
  started : Bool := false
  restart : Bool := false
  rel : Option Release := none
  ready : List Nat := []
  done : List Nat := []
  badDone : Bool := false
  doneSent : Bool := false
  ovr : Bool := false
  invalid : Bool := false
  startAt : Nat := 0
  fromFree : Bool := true
  unreach : List Nat := []
  deriving DecidableEq, Repr

/-! ### Power (chapter 13) -/

/-- Supply state of one core and its slab (R360). -/
structure Gate where
  coreOn : Bool := true
  slabOn : Bool := true
  slabClosing : Bool := false
  deriving DecidableEq, Repr

def Gate.reset : Gate := {}

/-- A member's LEND REPORT as the coordinator holds it (Table 13-4). -/
structure LendReport where
  bound : Nat
  slack : Int
  delta : Int
  base : Nat
  limit : Nat
  need : Nat
  floor : Nat
  deriving DecidableEq, Repr

/-- A round of the lending coordinator (R376): its boundary, the receivers (packages) with their needs in
order, and the DECs not answered yet with their tags and g. -/
structure LendRound where
  bound : Nat
  recv : List (Nat × Nat)
  decs : List (Nat × Nat)
  phase2 : Bool := false
  deriving DecidableEq, Repr

/-- The power manager. `step`, `cap` (W) and `ctl` the clock step, base cap and PWR_CTL in force; `ctlPend`
and `capPend` written values waiting for a boundary; `delta` lending in force (W); `dec`/`inc` held
changes with their boundary; `allow` each stack's allowance in mW times `allowDen` (R366); `cut` whether
VIN_CORE current cut the compute grant; `grantL`, `grantM`, `grantC` in 1/700 W; `gates` by core;
`staging` the domains each stack still has to turn on (slab?, core of the stack), the first of them being
turned on; `hold` stacks in hold-back by their power, `shaded` stacks held back by their shade level until
the boundary, `holdFrom` since when each counts hold-back cycles; `clamped` cores whose clamp is engaged, `calmFrom` since
when all their sensors read near the target, `skipFrom` since when a core's clock skips periods; `vout` the output of each
domain's regulator in mV; `leak` each domain's leakage of the last evaluation in mW, `leakJ` its leakage energy of the
tick up to `leakFrom`, in mW for 1/8 ns; `doneSlack` the slack of the tick under way once
the package is done, `slack` of the last tick, in ns; the coordinator's pool, reports by package, deltas of
INCs sent since, and round; `reported`: this tick's REPORT has gone; `vinMv`: VIN_CORE as measured at the last
boundary; `linkSlots`, `memSlots`: slots of every 16 that the classes may use (R367); `eJob` the live sum of the
job's energy in µJ (R372). -/
structure Power where
  step : Nat := 0
  cap : Nat := 2900
  ctl : Word32 := 0x90
  ctlPend : Option Word32 := none
  capPend : Option Nat := none
  delta : Int := 0
  dec : Option (Nat × Int) := none
  inc : Option (Nat × Int) := none
  allow : SMap Nat := []
  allowDen : Nat := 0
  cut : Bool := false
  grantL : Nat := 0
  grantM : Nat := 0
  grantC : Nat := 0
  gates : SMap Gate := []
  staging : SMap (List (Bool × Nat)) := []
  hold : List Nat := []
  shaded : List Nat := []
  clamped : List Nat := []
  vout : SMap Nat := []
  leak : SMap Nat := []
  leakJ : SMap Nat := []
  leakFrom : Nat := 0
  holdFrom : SMap (Option Nat) := []
  calmFrom : SMap (Option Nat) := []
  skipFrom : SMap (Option Nat) := []
  doneSlack : Option Int := none
  slack : Int := 0
  pool : Int := 0
  reports : SMap (Option LendReport) := []
  incSent : SMap Int := []
  round : Option LendRound := none
  reported : Bool := false
  vinMv : Nat := 0
  linkSlots : Nat := 16
  memSlots : Nat := 16
  eJob : Nat := 0
  deriving DecidableEq, Repr

/-! ### Thermal (chapter 14) -/

/-- Sensing of one die (R380-R387): oscillator offsets (1/8 °C) by number, broken oscillators, diode
broken, region reading of its own sensors (1/4 °C), warning and fast sampling; `boot`: the number its boot calibration
drew, from which its oscillators take part in readings (R382, R392). -/
structure Die where
  offs : SMap Int := []
  broken : List Nat := []
  diodeBad : Bool := false
  reading : Int := 0
  warn : Bool := false
  fast : Bool := false
  boot : Option Nat := none
  deriving DecidableEq, Repr

def Die.reset : Die := {}

/-- A level of R388 or R390: level, rise count and the time its fall timer started. -/
structure Level where
  level : Nat := 0
  rise : Nat := 0
  fall : Option Nat := none
  deriving DecidableEq, Repr

def Level.reset : Level := {}

/-- The thermal block. Dies by index d of Table 14-7; `lv` levels: stacks 0-23, Shore-M 24-31,
Shore-L 32-39, HBM stacks 40-47; `shade` the latched level of each stack (R389); HBM readings:
consecutive failures, in warning, last reading (1/4 °C). `shut`: the shutdown latch of R391. -/
structure Thermal where
  dies : SMap Die := []
  lv : SMap Level := []
  shade : SMap Nat := []
  hbmFails : SMap Nat := []
  hbmWarn : List Nat := []
  hbmTemp : SMap Int := []
  shut : Bool := false
  deriving DecidableEq, Repr

/-! ### Boot and service controller (chapter 16) -/

/-- The reset under way (R412, R413). -/
inductive ResetKind where
  | cold
  | warm
  | compute
  deriving DecidableEq, Repr

/-- Where an image's bytes lie: a flash slot, or the service controller's RAM (R420). -/
inductive ImageHome where
  | slotA (off : Nat)
  | slotB (off : Nat)
  | ram
  deriving DecidableEq, Repr

/-- A control message of this package that no ACK or NACK has answered (R340, R352): its tag, type and role, and the time
it left; `given`: its sender has given up on it. -/
structure Wait where
  tag : Nat
  type : Nat
  role : Nat
  at_ : Nat
  given : Bool := false
  deriving DecidableEq, Repr

/-- The service controller and bring-up. `flash`, `ram`, `window` are byte-addressed, `flashBad` the flash bytes whose
reads fail (R476) (DESIGN CHOICE, log entry 88), `ramLen` the bytes an IMG_BOOT has brought; `resetting` the reset in progress; `image` the running image, with its FLAGS and SVN,
its JOB records (KIND, body) and its DATA sections (offset, length, digest); `imgSlot` the slot IMG_BEGIN
erased last; `configAll` the CONFIG records (offset, value, mask, wait) and `config` those still to apply,
`configWait` whether the first of them waits for a free-mode boundary; `retire` the RETIRE records (kind 0
granule, 1 remap, 2 bank, and three fields); `linkSec` the bytes of its LINK section; `routes` the image's route entries (d, LO, HI), with `reroute`
and `mgmtAllow` the rest of the link policy; `recSeq` the repair record's sequence number; `recDirty` whether a
declaration, fence or stack loss waits to be counted at a boundary and `recDue` when the record must be written
(R319); `rdel` retired regions to delete at the next cold reset (R317); `minSvn` the fused minimum; exclusions of
R426, with the cores BIST took out, the RATE each HBM stack trained to (0: failed) and the ports kept DISABLED; `trained`
HBM stacks heard from, `bistDone`, `katDone` and `postKat` whether a free-mode boundary has passed since; `heldKat` the
known-answer results of a reset whose CONFIG waits (cores, stacks, ports, HBM stacks, package); `jobDone`: the
resident job has been started or has failed; `autoStep` the step of R429 that waits, `autoMb` whether a mailbox
command started it; `mbReply` the MGMT request whose mailbox command still runs (R431); generations of stacks and cores
(R441), those pending and those admitted (R442); `waits` the FAULT and control messages not answered yet. -/
structure Boot where
  flash : SMap Byte := []
  flashBad : List Nat := []
  ram : SMap Byte := []
  ramLen : Nat := 0
  window : SMap Byte := []
  resetting : Option ResetKind := some .cold
  image : Option ImageHome := none
  flags : Nat := 0
  svn : Nat := 0
  job : List (Nat × List Byte) := []
  dataSecs : List (Nat × Nat × Nat) := []
  imgSlot : Option Nat := none
  configAll : List (Nat × Nat × Nat × Bool) := []
  config : List (Nat × Nat × Nat × Bool) := []
  configWait : Bool := false
  retire : List (Nat × Nat × Nat × Nat) := []
  linkSec : Option (List Byte) := none
  routes : List (Nat × Nat × Nat) := []
  reroute : Bool := false
  mgmtAllow : List Nat := []
  recSeq : Nat := 0
  recDue : Option Nat := none
  recDirty : Bool := false
  rdel : List (Nat × Nat × Nat) := []
  minSvn : Nat := 0
  exclCores : List Nat := []
  exclStacks : List Nat := []
  exclHbm : List Nat := []
  bistCores : List Nat := []
  hbmRate : SMap Nat := []
  exclPorts : List Nat := []
  trained : List Nat := []
  bistDone : Bool := false
  katDone : Bool := false
  postKat : Bool := false
  heldKat : Option (List Nat × List Nat × List Nat × List Nat × Bool) := none
  jobDone : Bool := false
  autoStep : Option Nat := none
  autoMb : Bool := false
  mbReply : Option Msg := none
  stackGen : SMap Nat := []
  coreGen : SMap Nat := []
  stackPend : List Nat := []
  corePend : List Nat := []
  stackIn : List Nat := []
  coreIn : List Nat := []
  nbrs : SMap Nbr := []
  nextTag : Nat := 0
  waits : List Wait := []
  deriving DecidableEq, Repr

/-! ### Roles and membership (chapter 17) -/

/-- Role banks by role ID (values of GCTL_ROLE_VAL), `prev` the active bank of the last tick (R372), the epoch in force, the armed commit (boundary,
epoch); membership entries (LO, HI words). -/
structure Roles where
  active : SMap Word32 := []
  prev : SMap Word32 := []
  staged : SMap Word32 := []
  epoch : Nat := 0
  commit : Option (Nat × Nat) := none
  membLo : SMap Word32 := []
  membHi : SMap Word32 := []
  jobgrp : Nat := 0
  deriving DecidableEq, Repr

/-- What a boundary keeps of the tick it ended for the energy model (R368, R370): the number it drew, the step and the
voltage that were in force, the tick's length in 1/8 ns, and each domain's leakage energy. -/
structure Meas where
  n : Nat
  step : Nat
  mv : Nat
  span : Nat
  leakJ : SMap Nat := []
  deriving DecidableEq, Repr

/-- What a freeze holds of the TL fields (R60): the registers, `meas` of the boundary in force, and the role bank
of the tick that ended there. -/
structure Frozen where
  regs : SMap Word32
  meas : Option Meas
  prev : SMap Word32
  deriving DecidableEq, Repr

/-! ### Fault concentrator (R447-R454) -/

/-- A fault report before it meets a record: subject, class, detail, reporter's member index (none:
not listed, R450), whether it came in a FAULT message. -/
structure Report where
  subj : Nat
  cls : Nat
  detail : Nat
  reporter : Option Nat
  remote : Bool := false
  deriving DecidableEq, Repr

/-- What the concentrator holds of a record beyond its registers: boundaries left until its window
closes (0: closed), whether it was forwarded in the current window, whether it was made from a
local report. Keyed by record 0-63 in `recs` and by class in `floods`. -/
structure RecLife where
  left : Nat := 0
  sent : Bool := false
  deriving DecidableEq, Repr

def RecLife.reset : RecLife := {}

structure Faults where
  recs : SMap RecLife := []
  floods : SMap RecLife := []
  deriving DecidableEq, Repr

/-! ### Error log (R293-R296) -/

/-- A key of the 16-key filter of R296 with the free-running index of its entry. -/
structure LogKey where
  key : List Nat
  index : Nat
  deriving DecidableEq, Repr

/-- The ring (8 words an entry, keyed by index mod 256) and the filter, oldest key first. -/
structure Erl where
  ring : SMap (List Word32) := []
  filter : List LogKey := []
  deriving DecidableEq, Repr

/-! ### Host and management interfaces (chapter 18) -/

/-- The six paths of R463. -/
inductive Path where
  | pcie
  | svc
  | mspi
  | smb
  | mgmt
  | group
  deriving DecidableEq, Repr

/-- The identity that configuration space reports (R456, Table 18-2): that of a ZN64-A. -/
structure PcieIdent where
  vendor : Nat := 0x1FA5
  device : Nat := 0x0064
  revision : Nat := 0x04
  classCode : Nat := 0x120000
  subVendor : Nat := 0x1FA5
  subsystem : Nat := 0x0A01
  deriving DecidableEq, Repr

/-- One base address register pair of the function (R457): the number of its first register, its size and whether it is
prefetchable. Each is 64 bits. -/
structure PcieBar where
  first : Nat
  size : Nat
  prefetch : Bool
  deriving DecidableEq, Repr

/-- The identity configuration space reports and the BARs (R456, R457); MSI-X: the table (32 entries of 16 B as bytes),
conditions as last seen, pending bits, masks, messages sent (vector numbers, newest first) (R461, R462); whether the
PCIe link is up (PRESUMED, log entry 51). -/
structure Pcie where
  ident : PcieIdent := {}
  bars : List PcieBar := [⟨0, 2 ^ 26, false⟩, ⟨2, 2 ^ 32, true⟩, ⟨4, 2 ^ 13, false⟩]
  table : SMap Byte := []
  unmasked : List Nat := []
  pba : List Nat := []
  cond : List Nat := []
  sent : List Nat := []
  up : Bool := false
  deriving DecidableEq, Repr

/-- What an access answers: on PCIe a completion status, elsewhere its path's status. -/
inductive Answer where
  | none
  | data (bytes : List Byte)
  | poisoned (bytes : List Byte)
  | done
  | ur
  | ca
  | error
  | nack
  deriving DecidableEq, Repr

/-- The SMBus/I3C target (R469-R471): its offset registers by command code, I3C mode, dynamic
address. -/
structure Smb where
  offs : SMap Nat := []
  i3c : Bool := false
  dyn : Option Nat := none
  deriving DecidableEq, Repr

/-- JTAG instructions (R478-R480). -/
inductive JtagInstr where
  | bypass
  | idcode
  | sample
  | extest
  | extestPulse
  | extestTrain
  | clamp
  | highz
  deriving DecidableEq, Repr

/-- Test access port: the instruction loaded, what it acts as, its data register; boundary cells
preloaded and whether they drive the lands (PRESUMED, log entry 51). -/
structure Jtag where
  loaded : JtagInstr := .idcode
  acts : JtagInstr := .idcode
  dr : Word32 := 0
  cells : List Bool := []
  driving : Bool := false
  deriving DecidableEq, Repr

/-! ### Lands and clocks (chapter 19) -/

/-- Lands, rails and clocks the board drives, and outputs (R485-R493): RST_N, PWR_OK, WARM_RST_N, VIN_CORE applied and in
range, the times between which the last pulse of TICK_OUT is high, the last edge of TICK_IN taken, and whether SERDES_REFCLK
and REFCLK_100 are absent (DESIGN CHOICE, log entry 3). -/
structure Lands where
  rstN : Bool := true
  pwrOk : Bool := true
  warmN : Bool := true
  vinOk : Bool := true
  vinDip : Bool := false
  driven : Bool := true
  hbmReset : Bool := false
  tickOutFrom : Nat := 0
  tickOutUntil : Nat := 0
  tickInAt : Option Nat := none
  intOsc : Bool := false
  pcieLost : Bool := false
  deriving DecidableEq, Repr

/-- Factory fuses and records: grade (false: ZN64-A), serial number, key hashes, revoked slots (DESIGN CHOICE, log entry 3). -/
structure Fuses where
  gradeE : Bool := false
  serial : Word64 := 0
  keyHash : List Nat := [0, 0, 0, 0]
  revoked : List Nat := []
  deriving DecidableEq, Repr

end Sys2Proof.Machine
end

