-- ==== Sys2Proof/Syntax.lean ====
section
/-! DEFINITION. The commands of the ZN64 block: one constructor of Instr per row of the opcode
table, with the operands of the row. An instruction of a group is commanded with the slot it issues
from and its encoded fields (Table 4-1); an event is commanded with what the outside world or the
silicon brings to it; a register write with its path and value. -/

namespace Sys2Proof

open Sys2Proof.Machine

/-- Core c of stack s (R18). -/
structure Cid where
  s : StackId
  c : CoreId
  deriving DecidableEq, Repr

/-- Slot g of core c of stack s. -/
structure Gid where
  s : StackId
  c : CoreId
  g : SlotId
  deriving DecidableEq, Repr

/-- The register layout of Table 4-1 below CLASS and OP. -/
structure RegForm where
  pred : BitVec 3 := 0
  pneg : BitVec 1 := 0
  dst : BitVec 6 := 0x1F
  a : BitVec 7 := 0x60
  b : BitVec 7 := 0x60
  c : BitVec 7 := 0x60
  mod : BitVec 22 := 0
  deriving DecidableEq, Repr

/-- The immediate layout of Table 4-1 below CLASS and OP. -/
structure ImmForm where
  pred : BitVec 3 := 0
  pneg : BitVec 1 := 0
  dst : BitVec 6 := 0x1F
  a : BitVec 7 := 0x60
  cond : BitVec 4 := 0
  imm : BitVec 32 := 0
  deriving DecidableEq, Repr

/-- Stored bits that have flipped by the time of one step: for words of slabs and scratch (address / 8), of a core's
L1 (core, address / 8) and of lines an instruction cache takes in (address / 8) the 72-bit pattern of inverted
code-word bits (R281); for DRAM lines (address / 64) the symbols and their error values (R287); the patterns that
the next reads of a core's inner structures (core, structure) and of a channel's buffer slots (stack, channel) meet
(DESIGN CHOICE, log entry 10). -/
structure Upsets where
  sram : List (Nat × BitVec 72) := []
  l1 : List (Nat × Nat × BitVec 72) := []
  icache : List (Nat × BitVec 72) := []
  dram : List (Nat × List (Nat × Byte)) := []
  core : List (Nat × Machine.Inner × BitVec 72) := []
  buf : List (Nat × Nat × BitVec 72) := []
  deriving DecidableEq, Repr

/-- Link l = 4p + k (R325). -/
abbrev LinkId := Fin 32

/-- Where a message came in: link l, or 32 for a message of the package to itself. -/
abbrev InLink := Fin 33

/-- One sample of a die's sensors (R380): the diode in 1/4 °C, the oscillator counts. -/
structure DieRead where
  diode : Int
  osc : List Nat
  deriving DecidableEq, Repr

/-- Units that fail their known-answer test (R425, Table 12 of chapter 16): global cores, stacks,
ports, HBM stacks; `pkgFails`: a package-level self-test failed. -/
structure Kat where
  coreFails : List Nat := []
  stackFails : List Nat := []
  portFails : List Nat := []
  hbmFails : List Nat := []
  pkgFails : Bool := false
  deriving DecidableEq, Repr

/-- What BIST finds (R424): cell faults (SRC of Table 10-2, stack, unit, address), failing bonds
(stack, slab, group, lane), cores whose structures fail, and whether every fabric edge trained. -/
structure Bist where
  cells : List (Nat × Nat × Nat × Nat) := []
  bonds : List (Nat × Nat × Nat × Nat) := []
  cores : List Nat := []
  fabricOk : Bool := true
  deriving DecidableEq, Repr

/-- What starts a cold reset (R412, R485). -/
inductive ColdCause where
  | rstN
  | pwrOk
  | vinApplied
  deriving DecidableEq, Repr

/-- An SMBus or I3C transaction (R470, R471): the bytes written, the byte count given, whether its
packet error check passes, and in I3C whether a command code precedes. -/
structure SmbXfer where
  bytes : List Byte := []
  count : Nat := 0
  pecOk : Bool := true
  hasCode : Bool := true
  knownCode : Bool := true
  deriving DecidableEq, Repr

/-- The header and edge count of a management SPI frame (R473, R474); `late`: the payload words not
ready by their first edge (R475). -/
structure MspiHead where
  op : BitVec 4
  len : BitVec 4
  off : BitVec 24
  edges : Nat
  late : Bool := false
  deriving DecidableEq, Repr

/-- The commands of the block, one constructor per row of the opcode table. -/
inductive Instr where
  /-- TICK_BOUNDARY (R46): At boundary time T the package applies the boundary effects of Table 2-5 in order on every stack. -/
  | tickBoundary (vin : Nat)
  /-- STOPPING_BOUNDARY (R54): A boundary carrying a stop halts groups and channels, applies only effects 1, 2, 3a, 3b and 3f, and sets STATE to stopped. -/
  | stoppingBoundary (vin : Nat)
  /-- TICK_OVERRUN (R49): At the nominal end of a tick a package that is not done sets OVERRUN, counts and reports an overrun fault. -/
  | tickOverrun
  /-- PACKAGE_DONE (R38): Once every core, channel and send of the tick has finished, the package sends its done message to the root. -/
  | packageDone
  /-- TICK_FAULT_TIMEOUT (R51): The root declares a tick fault when 4 periods pass after the nominal end without every done message. -/
  | tickFaultTimeout
  /-- RELEASE_LOST (R52): A member with no release by nominal end plus 4 periods plus 2 x rel_lat declares a tick fault and opens a stopping boundary. -/
  | releaseLost
  /-- START_TIMEOUT (R45): A member whose START was accepted and who sees no RELEASE for boundary 0 within 200 ms abandons the start. -/
  | startTimeout
  /-- START_ABANDON (R445): The root abandons a start when a member has not sent READY within 100 ms. -/
  | startAbandon
  /-- TICK_START (R44): A write of TICK_CTL.START is judged under the START checks and begins job start. -/
  | tickStart (path : Path)
  /-- TICK_STOP (R44): A write of TICK_CTL.STOP on the root in job state arms a clean stop at the boundary R44 names. -/
  | tickStop (path : Path)
  /-- TICK_CNT_CLR (R49): A write of TICK_CTL.CNT_CLR clears TICK_OVR_CNT and TICK_LATE_CNT. -/
  | tickCntClr (path : Path)
  /-- TICK_PERIOD_WRITE (R34): A write of TICK_PERIOD is checked for range and role and staged for its boundary. -/
  | tickPeriodWrite (path : Path) (v : Word32)
  /-- TICK_REL_LAT_WRITE (R42): A write of TICK_REL_LAT is accepted only outside job and starting state and at 8 or above. -/
  | tickRelLatWrite (path : Path) (v : Word32)
  /-- TICK_SNAP_FREEZE (R60): A write of TICK_SNAP_CTL freezes or releases the host or management view of TL fields. -/
  | tickSnapFreeze (path : Path) (v : Word32)
  /-- TICK_IN_EDGE (R37): A rising edge on TICK_IN sets the timebase phase of a package that is its own root. -/
  | tickInEdge
  /-- TICK_READY (R44): A READY message at the root counts a member ready and, when all are ready, sends the release for boundary 0. -/
  | tickReady (l : InLink)
  /-- TICK_DONE (R40): A DONE message at the root counts the member done and, when it is the last, forms the release and sets the boundary time. -/
  | tickDone (l : InLink)
  /-- TICK_RELEASE (R39): A RELEASE message from the named root sets the member's next boundary, period and stop flag. -/
  | tickRelease (l : InLink)
  /-- TSYNC_INTERVAL (R354): Every INTERVAL x 8 us a member sends TSYNC_REQ on its UP link. -/
  | tsyncInterval
  /-- TSYNC_REQ (R354): A received TSYNC_REQ is answered with TSYNC_RSP carrying t1, t2, t3 and the responder's offset. -/
  | tsyncReq (l : InLink)
  /-- TSYNC_RSP (R355): A received TSYNC_RSP gives theta and delta, and the member steps or slews its timebase. -/
  | tsyncRsp (l : InLink)
  /-- LAUNCH_JOB (R65): CORE_Gg_CTL.LAUNCH_JOB arms an empty slot for boundary 0 of the next job after binding checks. -/
  | launchJob (path : Path) (g : Gid)
  /-- LAUNCH_NOW (R65): CORE_Gg_CTL.LAUNCH_NOW arms an empty slot for the next boundary of any kind. -/
  | launchNow (path : Path) (g : Gid)
  /-- ABANDON (R69): CORE_CTL.ABANDON empties every slot of the core in free or stopped state. -/
  | abandon (path : Path) (c : Cid)
  /-- MOV (R108): V-class move of a to the destination queue. -/
  | mov (g : Gid) (f : RegForm)
  /-- SELP (R108): Selects a or b per thread by a predicate bit. -/
  | selp (g : Gid) (f : RegForm)
  /-- AND (R108): Bitwise AND of a and b. -/
  | and (g : Gid) (f : RegForm)
  /-- OR (R108): Bitwise OR of a and b. -/
  | or (g : Gid) (f : RegForm)
  /-- XOR (R108): Bitwise XOR of a and b. -/
  | xor (g : Gid) (f : RegForm)
  /-- ANDN (R108): a AND NOT b. -/
  | andn (g : Gid) (f : RegForm)
  /-- SHL (R117): Shift left by b[4:0]. -/
  | shl (g : Gid) (f : RegForm)
  /-- SHR (R117): Logical shift right by b[4:0]. -/
  | shr (g : Gid) (f : RegForm)
  /-- SAR (R117): Arithmetic shift right by b[4:0]. -/
  | sar (g : Gid) (f : RegForm)
  /-- CLZ (R108): Counts leading zeros of a. -/
  | clz (g : Gid) (f : RegForm)
  /-- POPC (R108): Counts one bits of a. -/
  | popc (g : Gid) (f : RegForm)
  /-- IADD (R117): Integer add modulo 2^32. -/
  | iadd (g : Gid) (f : RegForm)
  /-- ISUB (R117): Integer subtract modulo 2^32. -/
  | isub (g : Gid) (f : RegForm)
  /-- IMIN (R108): Integer minimum by TYPE. -/
  | imin (g : Gid) (f : RegForm)
  /-- IMAX (R108): Integer maximum by TYPE. -/
  | imax (g : Gid) (f : RegForm)
  /-- ICMP (R118): Integer compare writing predicate bits in active threads. -/
  | icmp (g : Gid) (f : RegForm)
  /-- IMUL (R117): Low 32 bits of the integer product. -/
  | imul (g : Gid) (f : RegForm)
  /-- IMULH (R117): High 32 bits of the signed or unsigned product. -/
  | imulh (g : Gid) (f : RegForm)
  /-- IMAD (R117): Integer multiply-add modulo 2^32. -/
  | imad (g : Gid) (f : RegForm)
  /-- FADD (R115): Binary32 addition, round to nearest even. -/
  | fadd (g : Gid) (f : RegForm)
  /-- FSUB (R115): Binary32 subtraction. -/
  | fsub (g : Gid) (f : RegForm)
  /-- FMUL (R115): Binary32 multiplication. -/
  | fmul (g : Gid) (f : RegForm)
  /-- FMA (R115): Fused multiply-add with one rounding. -/
  | fma (g : Gid) (f : RegForm)
  /-- FMIN (R115): minimumNumber of a and b. -/
  | fmin (g : Gid) (f : RegForm)
  /-- FMAX (R115): maximumNumber of a and b. -/
  | fmax (g : Gid) (f : RegForm)
  /-- FCMP (R118): Floating compare writing predicate bits, NaN unordered. -/
  | fcmp (g : Gid) (f : RegForm)
  /-- FABS (R115): Clears bit 31 of a. -/
  | fabs (g : Gid) (f : RegForm)
  /-- FNEG (R115): Inverts bit 31 of a. -/
  | fneg (g : Gid) (f : RegForm)
  /-- FSCALE (R115): a x 2^b with one rounding. -/
  | fscale (g : Gid) (f : RegForm)
  /-- FRCP (R116): Correctly rounded reciprocal. -/
  | frcp (g : Gid) (f : RegForm)
  /-- FRSQ (R116): Correctly rounded reciprocal square root. -/
  | frsq (g : Gid) (f : RegForm)
  /-- FSQRT (R116): Correctly rounded square root. -/
  | fsqrt (g : Gid) (f : RegForm)
  /-- FEXP2 (R116): Correctly rounded 2^a. -/
  | fexp2 (g : Gid) (f : RegForm)
  /-- FLOG2 (R116): Correctly rounded log2 a. -/
  | flog2 (g : Gid) (f : RegForm)
  /-- CVTN (R160): Converts F32 a to format FMT under RND into element AUX of b. -/
  | cvtn (g : Gid) (f : RegForm)
  /-- CVTW (R119): Widens element AUX of a to F32 exactly. -/
  | cvtw (g : Gid) (f : RegForm)
  /-- CVTFI (R119): Converts F32 to a saturated integer under RND. -/
  | cvtfi (g : Gid) (f : RegForm)
  /-- CVTIF (R115): Converts an integer to F32, ties to even. -/
  | cvtif (g : Gid) (f : RegForm)
  /-- SNOP (R109): Scalar no-operation occupying SU. -/
  | snop (g : Gid) (f : RegForm)
  /-- SADD (R109): 64-bit scalar add. -/
  | sadd (g : Gid) (f : RegForm)
  /-- SSUB (R109): 64-bit scalar subtract. -/
  | ssub (g : Gid) (f : RegForm)
  /-- SMUL (R109): Low 64 bits of the scalar product. -/
  | smul (g : Gid) (f : RegForm)
  /-- SAND (R109): Scalar AND. -/
  | sand (g : Gid) (f : RegForm)
  /-- SOR (R109): Scalar OR. -/
  | sor (g : Gid) (f : RegForm)
  /-- SXOR (R109): Scalar XOR. -/
  | sxor (g : Gid) (f : RegForm)
  /-- SSHL (R109): Scalar shift left by b[5:0]. -/
  | sshl (g : Gid) (f : RegForm)
  /-- SSHR (R109): Scalar logical shift right. -/
  | sshr (g : Gid) (f : RegForm)
  /-- SSAR (R109): Scalar arithmetic shift right. -/
  | ssar (g : Gid) (f : RegForm)
  /-- SMIN (R109): Signed scalar minimum. -/
  | smin (g : Gid) (f : RegForm)
  /-- SMAX (R109): Signed scalar maximum. -/
  | smax (g : Gid) (f : RegForm)
  /-- SCMP (R109): Writes 1 or 0 by condition COND on a and b. -/
  | scmp (g : Gid) (f : RegForm)
  /-- PGET (R109): Copies a predicate mask into a scalar. -/
  | pget (g : Gid) (f : RegForm)
  /-- PSET (R109): Writes a scalar mask into a predicate. -/
  | pset (g : Gid) (f : RegForm)
  /-- SLI (R109): Loads a sign-extended immediate. -/
  | sli (g : Gid) (f : ImmForm)
  /-- SLIH (R109): Replaces the high 32 bits with IMM32. -/
  | slih (g : Gid) (f : ImmForm)
  /-- SADDI (R109): Adds a sign-extended immediate. -/
  | saddi (g : Gid) (f : ImmForm)
  /-- SPC (R109): Writes the instruction address plus IMM32 x 8. -/
  | spc (g : Gid) (f : ImmForm)
  /-- RANY (R121): Scalar 1 if any active thread's a is non-zero. -/
  | rany (g : Gid) (f : RegForm)
  /-- RALL (R121): Scalar 1 if every active thread's a is non-zero. -/
  | rall (g : Gid) (f : RegForm)
  /-- RSUM (R121): Sum over active threads by the fixed pairwise tree. -/
  | rsum (g : Gid) (f : RegForm)
  /-- RMAX (R121): Maximum over active threads by the fixed tree. -/
  | rmax (g : Gid) (f : RegForm)
  /-- RSIGN (R122): Sign of the exact sum over active threads. -/
  | rsign (g : Gid) (f : RegForm)
  /-- XSHFL (R123): Thread t receives a of thread b[5:0]. -/
  | xshfl (g : Gid) (f : RegForm)
  /-- XROT (R123): Thread t receives a of thread (t + b) mod 64. -/
  | xrot (g : Gid) (f : RegForm)
  /-- XBFLY (R123): Thread t receives a of thread t XOR b. -/
  | xbfly (g : Gid) (f : RegForm)
  /-- QTOS (R124): Writes a of one thread, widened, to a scalar. -/
  | qtos (g : Gid) (f : RegForm)
  /-- LD (R126): Forms and checks addresses and issues the load, reserving queue entries. -/
  | ld (g : Gid) (f : RegForm)
  /-- ST (R126): Forms and checks addresses and stores SIZE bytes per active thread. -/
  | st (g : Gid) (f : RegForm)
  /-- PF (R128): Prefetches a line under ACLASS and never traps. -/
  | pf (g : Gid) (f : RegForm)
  /-- DBM (R226): Marks the line dead, dropping it without write-back where the class allocates. -/
  | dbm (g : Gid) (f : RegForm)
  /-- AADD (R129): Atomic add to a scratch word, pushing the old value. -/
  | aadd (g : Gid) (f : RegForm)
  /-- AMAX (R129): Atomic maximum on a scratch word. -/
  | amax (g : Gid) (f : RegForm)
  /-- AMIN (R129): Atomic minimum on a scratch word. -/
  | amin (g : Gid) (f : RegForm)
  /-- LOAD_RETURN (R72): Returned load data makes its reserved queue entries present, or traps ACCESS on uncorrectable data. -/
  | loadReturn (c : Cid) (load : Nat) (u : Upsets)
  /-- TLDT (R112): T-class issue of a load-tile command into the tensor command queue after range checks. -/
  | tldt (g : Gid) (f : RegForm)
  /-- TSWAP (R112): T-class issue of a buffer-swap command. -/
  | tswap (g : Gid) (f : RegForm)
  /-- TRUN (R184): T-class issue of a stream command into the tensor command queue. -/
  | trun (g : Gid) (f : RegForm)
  /-- TDRN (R112): T-class issue of a drain command. -/
  | tdrn (g : Gid) (f : RegForm)
  /-- TCLR (R112): T-class issue of an accumulator clear command. -/
  | tclr (g : Gid) (f : RegForm)
  /-- BR (R131): Conditional branch on a scalar and zero. -/
  | br (g : Gid) (f : ImmForm)
  /-- JR (R132): Jump to the address in a scalar. -/
  | jr (g : Gid) (f : RegForm)
  /-- FENCE (R134): Stops the group's issue until the named scope is complete. -/
  | fence (g : Gid) (f : RegForm)
  /-- FENCE_COMPLETE (R134): The fence scope's accesses and write-backs finish and the group resumes. -/
  | fenceComplete (g : Gid)
  /-- TFENCE (R135): Waits for the group's tensor commands to finish or consume operands. -/
  | tfence (g : Gid) (f : RegForm)
  /-- TFENCE_COMPLETE (R135): The tensor commands waited on finish and the group resumes. -/
  | tfenceComplete (g : Gid)
  /-- ENDT (R136): End-of-tick instruction for the group. -/
  | endt (g : Gid) (f : RegForm)
  /-- ENDT_COMPLETE (R136): ENDT's conditions hold and the slot enters tick-wait. -/
  | endtComplete (g : Gid)
  /-- EXIT (R137): End of the group's program. -/
  | exit (g : Gid) (f : RegForm)
  /-- EXIT_COMPLETE (R137): EXIT's conditions hold and the slot becomes empty. -/
  | exitComplete (g : Gid)
  /-- ICACHE_FILL (R141): A missing instruction line arrives, is checked and installed, and the waiting group resumes. -/
  | icacheFill (c : Cid) (line : BitVec 33) (u : Upsets)
  /-- IC_PRELOAD (R144): CORE_IC_CTL.PRELOAD starts loading LINES consecutive lines, pinning them when PIN is 1. -/
  | icPreload (path : Path) (c : Cid) (pin : Bool)
  /-- IC_PRELOAD_LINE (R144): A preload line fetch completes and the line is loaded, counted unpinned or flagged in error. -/
  | icPreloadLine (c : Cid) (u : Upsets)
  /-- IC_UNPIN_ALL (R144): CORE_IC_CTL.UNPIN_ALL unpins every line. -/
  | icUnpinAll (path : Path) (c : Cid)
  /-- IC_INVAL (R143): CORE_IC_CTL.INVAL invalidates and unpins every line. -/
  | icInval (path : Path) (c : Cid)
  /-- CORE_NUM_CTL_WRITE (R157): A write of CORE_NUM_CTL is accepted only with empty or armed slots and an empty command queue. -/
  | coreNumCtlWrite (path : Path) (c : Cid) (v : Word32)
  /-- CORE_SR_SEED_WRITE (R171): A non-zero seed write with slots empty or armed sets SEED and SEEDED. -/
  | coreSrSeedWrite (path : Path) (c : Cid) (v : Word32)
  /-- CORE_MEM_CFG_WRITE (R213): A write of L1SZ is checked and made pending for its boundary. -/
  | coreMemCfgWrite (path : Path) (c : Cid) (v : Word32)
  /-- TLDT_START (R189): A TLDT at the queue head starts loading the back buffer from TB. -/
  | tldtStart (c : Cid)
  /-- TLDT_COMPLETE (R189): The TLDT takes its last entry and the back buffer records format, scales and rows. -/
  | tldtComplete (c : Cid)
  /-- TSWAP_START (R190): A TSWAP starts and exchanges front and back buffers in that cycle. -/
  | tswapStart (c : Cid)
  /-- TRUN_START (R182): A TRUN leaves the command queue and starts in the streamer. -/
  | trunStart (c : Cid)
  /-- TRUN_ROW_ENTER (R193): An A row enters band 0 once its data, the array and the accumulator rows are ready. -/
  | trunRowEnter (c : Cid)
  /-- TRUN_ROW_UPDATE (R176): A row's accumulation completes and its accumulator entries are updated by the mode's function. -/
  | trunRowUpdate (c : Cid)
  /-- TDRN_START (R202): A TDRN starts in the accumulator unit. -/
  | tdrnStart (c : Cid)
  /-- TDRN_PUSH (R202): A drain pushes entries into the TD queue when the row is readable and the queue has room. -/
  | tdrnPush (c : Cid)
  /-- TCLR_START (R201): A TCLR clears accumulator rows once earlier updates and drains of them have finished. -/
  | tclrStart (c : Cid)
  /-- ARRAY_ACTIVE (R204): Ramp-up completes 32 cycles after it starts and the array becomes active. -/
  | arrayActive (c : Cid)
  /-- HOLD_EXPIRY (R205): The hold count expires and ramp-down starts. -/
  | holdExpiry (c : Cid)
  /-- ARRAY_IDLE (R205): Ramp-down completes and the array becomes idle. -/
  | arrayIdle (c : Cid)
  /-- SE_TIMER_TRIGGER (R244): The tick timer reaches boundary plus OFFSET and triggers the channel. -/
  | seTimerTrigger (s : StackId) (n : ChanId)
  /-- SE_DOORBELL (R244): A write of STK_SE_CHn_DB.RING triggers the channel. -/
  | seDoorbell (path : Path) (s : StackId) (n : ChanId)
  /-- SE_DESC_FETCH (R257): A descriptor fetch returns, ending the activation on OWN 0 or proceeding to execute. -/
  | seDescFetch (s : StackId) (n : ChanId) (u : Upsets)
  /-- SE_NOP (R249): NOP descriptor: moves nothing and completes OK. -/
  | seNop (s : StackId) (n : ChanId)
  /-- SE_COPY (R250): COPY descriptor moves the payload stream from source to destinations. -/
  | seCopy (s : StackId) (n : ChanId) (u : Upsets)
  /-- SE_FILL (R252): FILL descriptor writes the address-fixed CTX pattern. -/
  | seFill (s : StackId) (n : ChanId)
  /-- SE_FLUSH (R254): FLUSH descriptor writes back, and optionally invalidates, stack L2 lines over a range. -/
  | seFlush (s : StackId) (n : ChanId)
  /-- SE_CHECK (R253): CHECK descriptor computes or verifies a check value and writes nothing. -/
  | seCheck (s : StackId) (n : ChanId) (u : Upsets)
  /-- SE_SEND (R256): SEND descriptor sends the payload to the holder of ROLE with the epoch. -/
  | seSend (s : StackId) (n : ChanId) (u : Upsets)
  /-- SE_GUARANTEE_REQUEST (R255): A GSET descriptor requests a guarantee at every selected point before its payload. -/
  | seGuaranteeRequest (s : StackId) (n : ChanId)
  /-- SE_BURST_READ (R243): The read engine issues one burst read for a ready channel. -/
  | seBurstRead (s : StackId)
  /-- SE_BURST_ARRIVE (R243): A burst's read data arrives at its slot. -/
  | seBurstArrive (s : StackId) (n : ChanId) (burst : Nat) (u : Upsets)
  /-- SE_BURST_WRITE (R243): The write engine issues one burst write whose data has arrived. -/
  | seBurstWrite (s : StackId)
  /-- SE_BURST_ACCEPT (R257): A burst write is accepted at its destination and frees its slot. -/
  | seBurstAccept (s : StackId) (n : ChanId) (burst : Nat)
  /-- SE_STATUS_WRITE (R257): The STATUS and RESULT write of a descriptor is accepted. -/
  | seStatusWrite (s : StackId) (n : ChanId)
  /-- SE_OWN_WRITE (R257): The OWN-clearing write is accepted and the channel continues, halts or ends. -/
  | seOwnWrite (s : StackId) (n : ChanId)
  /-- SE_ACCESS_TIMEOUT (R259): An access not completed within TIMEOUT us halts the channel with BUS_TIMEOUT. -/
  | seAccessTimeout (s : StackId) (n : ChanId)
  /-- SE_ABORT (R261): STK_SE_CHn_CTL.ABORT stops issue and writes ABORTED. -/
  | seAbort (path : Path) (s : StackId) (n : ChanId)
  /-- SE_CLEAR (R260): STK_SE_CHn_CTL.CLEAR returns a halted channel to idle. -/
  | seClear (path : Path) (s : StackId) (n : ChanId)
  /-- SE_HEAD_WRITE (R246): A write of HEAD while idle or halted also sets CUR. -/
  | seHeadWrite (path : Path) (s : StackId) (n : ChanId) (hi : Bool) (v : Word32)
  /-- SE_RSV_WRITE (R242): A write of STK_SE_CHn_RSV reserves slots unless the 192-slot sum would be broken. -/
  | seRsvWrite (path : Path) (s : StackId) (n : ChanId) (v : Word32)
  /-- BWR_GVAL_WRITE (R269): A write of BWR_GVAL is a guarantee request judged for the selected master and point. -/
  | bwrGvalWrite (path : Path) (v : Word32)
  /-- BWR_FEEDBACK (R273): Every 64 ns each point compares occupancy with LEVEL and adjusts SHARE. -/
  | bwrFeedback
  /-- BWR_REQUEST_SERVE (R275): A point serves the next request in deadline, guarantee, oldest order. -/
  | bwrRequestServe (p : Fin 40)
  /-- BWR_MISS_WINDOW (R277): At the end of each 1,024 ns window a backlogged guarantee short of its bytes counts a miss. -/
  | bwrMissWindow
  /-- L1_FILL (R225): An L1 fill installs and serves its waiters in attach order. -/
  | l1Fill (c : Cid) (miss : Nat) (u : Upsets)
  /-- L2_FILL (R229): DRAM data returns to the home slab and is installed or reported uncorrectable. -/
  | l2Fill (s : StackId) (slab : CoreId) (line : BitVec 33) (u : Upsets)
  /-- L2_WRITEBACK_ACK (R229): The HBM controller acknowledges an L2 write-back and frees its buffer entry. -/
  | l2WritebackAck (s : StackId) (slab : CoreId)
  /-- L1_WRITEBACK_ACK (R223): A target acknowledges an L1 write-back and frees its buffer entry. -/
  | l1WritebackAck (c : Cid)
  /-- HBM_REFRESH (R239): Per-bank refresh runs at the rate of the temperature multiplier. -/
  | hbmRefresh (m : HbmId)
  /-- HBM_TEMP_READ (R239): Every 1 ms the device temperature is read and the refresh multiplier set. -/
  | hbmTempRead (m : HbmId) (temp : BitVec 8)
  /-- MERGE_ENTRY_TIMEOUT (R284): A merge entry still partial after 8 cycles is written by read-modify-write. -/
  | mergeEntryTimeout (s : StackId) (slab : CoreId) (port : Fin 8) (u : Upsets)
  /-- MERE_SCRUB_READ (R290): The Mere scrubber reads the next code word, writing back corrections. -/
  | mereScrubRead (s : StackId) (u : Upsets)
  /-- HBM_PATROL_READ (R291): The HBM patrol scrubber reads the next line and writes back corrections. -/
  | hbmPatrolRead (m : HbmId) (u : Upsets)
  /-- HBM_ECS_POLL (R288): Every 1 s the controller reads each device's error count and logs any rise. -/
  | hbmEcsPoll (m : HbmId) (counts : List Nat)
  /-- CHK_RAW_WRITE (R292): Checker RAW_WRITE writes a slab word with given check bits. -/
  | chkRawWrite (path : Path) (s : StackId)
  /-- CHK_RAW_READ (R292): Checker RAW_READ loads a stored word's 72 bits without correction. -/
  | chkRawRead (path : Path) (s : StackId)
  /-- ERL_RD_WRITE (R293): A write of ERL_RD consumes entries, or is ignored and sets IGN. -/
  | erlRdWrite (path : Path) (v : Word32)
  /-- SCRUB_PERIOD_WRITE (R290): A write of STK_MERE_SCRUB sets the pass time and restarts the pass from offset 0. -/
  | scrubPeriodWrite (path : Path) (s : StackId) (v : Word32)
  /-- GRANULE_RETIRE_WRITE (R301): A write of STK_MERE_GRETi retires a granule at once or clears it at the next boundary. -/
  | granuleRetireWrite (path : Path) (s : StackId) (i : Fin 64) (v : Word32)
  /-- REMAP_WRITE (R303): A write of MCm_REMAPi_HI makes a page remap valid or is refused. -/
  | remapWrite (path : Path) (m : HbmId) (i : Fin 256) (v : Word32)
  /-- BANK_DISABLE_WRITE (R304): A write of MCm_BANK_DIS disables banks at once or clears them at the next boundary. -/
  | bankDisableWrite (path : Path) (m : HbmId) (hi : Bool) (v : Word32)
  /-- CRC_CFG_WRITE (R307): A write of a programmable check-value unit's parameters, ignored for an invalid WIDTH. -/
  | crcCfgWrite (path : Path) (u : Fin 56) (reg : Fin 8) (v : Word32)
  /-- MERE_SPLIT_WRITE (R216): A write of STK_MERE_SPLIT is accepted in free or stopped state and pends for its boundary. -/
  | mereSplitWrite (path : Path) (s : StackId) (v : Word32)
  /-- BOND_LOOPBACK (R312): STK_BOND_LB.START runs a loopback test on one slab port. -/
  | bondLoopback (path : Path) (s : StackId) (slab : CoreId) (port : Fin 8)
  /-- LOOPBACK_DONE (R312): After 4,096 port-cycles the loopback ends and failing bonds are declared dead. -/
  | loopbackDone (s : StackId) (fails : List (Nat × Nat))
  /-- CTRL_COPY_MASK (R320): A control-bond copy disagreeing for 4 cycles is masked and a bond fault reported. -/
  | ctrlCopyMask (s : StackId) (sig : Fin 6552) (copy : Fin 3)
  /-- STACK_LOST (R320): Disagreeing remaining copies lose the stack: cores trap, channels abort, domains gate off. -/
  | stackLost (s : StackId) (sig : Fin 6552)
  /-- REPAIR_RECORD_WRITE (R319): Within 50 ms after a counted change the service controller writes the repair record. -/
  | repairRecordWrite (readBackOk : Bool)
  /-- LINK_CTL_WRITE (R326): A write of LNKp_CTL enables, disables or splits a port. -/
  | linkCtlWrite (path : Path) (p : PortId) (v : Word32)
  /-- LINK_RETRAIN (R326): LNKp_CTL.RETRAIN moves every link of the port to DOWN. -/
  | linkRetrain (path : Path) (p : PortId)
  /-- LINK_DETECT (R326): Signal appears on every lane and the link moves to TRAIN. -/
  | linkDetect (l : LinkId)
  /-- LINK_TRAIN_DONE (R326): Every lane trains and the link moves to ALIGN. -/
  | linkTrainDone (l : LinkId)
  /-- LINK_TRAIN_FAIL (R326): A training attempt reaches 200 ms or cannot converge and the link goes DOWN or narrows. -/
  | linkTrainFail (l : LinkId) (mismatch : Bool)
  /-- LINK_ALIGNED (R326): Valid frames for 1 us move the link to IDENT. -/
  | linkAligned (l : LinkId)
  /-- LINK_DOWN_EXPIRY (R326): 10 ms after entering DOWN the link moves to DETECT or DISABLED. -/
  | linkDownExpiry (l : LinkId)
  /-- LINK_LOSS (R328): An ACTIVE link loses signal, replays or frames and moves to DOWN, discarding traffic. -/
  | linkLoss (l : LinkId)
  /-- IDENT_SEND (R329): Every 1 us in IDENT, or on a field change, the package sends IDENT. -/
  | identSend (l : LinkId)
  /-- IDENT (R330): A received IDENT negotiates revision and features and updates the neighbour table. -/
  | ident (l : InLink)
  /-- FRAME_SEND (R333): The link sends a frame of 16 flit slots and a trailer. -/
  | frameSend (l : LinkId)
  /-- FRAME_RECEIVE (R336): A received frame is checked, accepted in sequence or NAKed, and its credits and ACKSEQ used. -/
  | frameReceive (l : LinkId) (fr : Frame) (fecFixed : Nat) (fecBad : Bool)
  /-- REPLAY_TIMEOUT (R336): The oldest unacknowledged frame waits RTO and every frame from it is resent. -/
  | replayTimeout (l : LinkId)
  /-- NAK_RESEND (R336): Every 256 ns while waiting for the expected frame the receiver sends NAK again. -/
  | nakResend (l : LinkId)
  /-- LINK_WRITE (R341): A whole WRITE message is checked, written as link ingress and acknowledged. -/
  | linkWrite (l : InLink)
  /-- LINK_READ (R341): A whole READ message is checked, read and answered with RDRESP or NACK. -/
  | linkRead (l : InLink) (u : Upsets)
  /-- RDRESP (R341): A read response delivers data to the requesting channel. -/
  | rdresp (l : InLink)
  /-- LINK_SEND (R351): A SEND message is role-checked, written at DST and acknowledged. -/
  | linkSend (l : InLink)
  /-- ACK (R340): An ACK acknowledges the tagged message to its sender. -/
  | ack (l : InLink)
  /-- NACK (R342): A NACK gives the sender its outcome by reason. -/
  | nack (l : InLink)
  /-- LOSS (R350): A LOSS message at the root marks listed members unreachable and declares a tick fault. -/
  | loss (l : InLink)
  /-- MESSAGE_FORWARD (R347): A whole message for another package is forwarded by the route table or dropped at HOPS 0. -/
  | messageForward (l : InLink)
  /-- ROUTE_STAGE (R349): A write of LNK_RTd_HI stages the entry for the next boundary. -/
  | routeStage (path : Path) (d : Fin 4096) (v : Word32)
  /-- STACK_HOLDBACK (R369): A stack above its allowance over 1 us, or shaded above its latched level, enters hold-back. -/
  | stackHoldback (s : StackId) (mw : Nat)
  /-- HOLDBACK_EXIT (R369): Power at or below 95 % of allowance for 1 us ends hold-back. -/
  | holdbackExit (s : StackId) (mw : Nat)
  /-- PACKAGE_HOLDBACK (R369): Package power or VIN_CORE current over its limit puts every stack in hold-back. -/
  | packageHoldback (mw : Nat) (ma : Nat)
  /-- REGULATOR_SAMPLE (R358): Every 4 ns a regulator samples its sensors and steers its output. -/
  | regulatorSample (dom : Fin 816) (sensors : List Nat)
  /-- SHUNT_CLAMP (R359): A sensor more than 30 mV below target engages the clamp and may stretch the clock. -/
  | shuntClamp (c : Cid) (sensors : List Nat)
  /-- CORE_PWR_GATE (R360): A write of CORE_PWR_CTL gates or ungates the core and slab domains. -/
  | corePwrGate (path : Path) (c : Cid) (v : Word32)
  /-- DOMAIN_POWER_ON (R360): A domain's staged header switches complete and it becomes a returning unit. -/
  | domainPowerOn (s : StackId)
  /-- SLAB_POWER_OFF (R360): The slab's L2 write-back completes and the slab domain turns off. -/
  | slabPowerOff (c : Cid)
  /-- LEAKAGE_EVAL (R370): Every 1 ms leakage is evaluated from voltage and temperature. -/
  | leakageEval
  /-- LEND_REPORT (R375): A member sends, and the coordinator receives, its slack, delta and need after each boundary. -/
  | lendReport (send : Bool) (l : InLink)
  /-- LEND_ROUND (R376): The coordinator runs a round, sending DECs to donors. -/
  | lendRound
  /-- LEND_PHASE2 (R376): When DECs are answered or t2 passes, the coordinator sends INCs. -/
  | lendPhase2
  /-- LEND_DEC (R378): A member holds a DEC for its boundary and acknowledges it. -/
  | lendDec (l : InLink)
  /-- LEND_INC (R378): A member holds an INC for its boundary and acknowledges it. -/
  | lendInc (l : InLink)
  /-- THERMAL_SAMPLE (R384): A die or stack pair samples its sensors and updates warning, levels and shutdown. -/
  | thermalSample (i : Fin 40) (reads : List DieRead)
  /-- HBM_THERMAL_READ (R390): An HBM temperature reading updates hd and access level, or counts a readout failure. -/
  | hbmThermalRead (m : HbmId) (temp : Option Int)
  /-- SENSOR_CALIBRATION (R382): Every 1 s oscillator offsets move toward the diode. -/
  | sensorCalibration (d : Fin 64) (read : DieRead)
  /-- CLAIM_TAKE (R395): A read of STK_CLAIMq_TAKE claims an item or slot, or returns WAIT or NONE. -/
  | claimTake (s : StackId) (q : Fin 4) (core : Fin 17)
  /-- CLAIM_REARM (R400): STK_CLAIMq_STAT.REARM re-arms the queue. -/
  | claimRearm (path : Path) (s : StackId) (q : Fin 4)
  /-- CLAIM_CFG_WRITE (R400): A write of CLAIM CFG, CORES or BASE in free or stopped state re-arms the queue. -/
  | claimCfgWrite (path : Path) (s : StackId) (q : Fin 4) (reg : Fin 4) (v : Word32)
  /-- CORE_STOP_HIT (R410): The K-th instruction of the armed slot issues and the core stops. -/
  | coreStopHit (c : Cid)
  /-- GLINT_SNAPSHOT (R411): After issued work completes, or 65,536 cycles pass, digest slots are copied to the stop registers. -/
  | glintSnapshot (c : Cid) (late : Bool)
  /-- COLD_RESET (R412): RST_N or PWR_OK low, or VIN_CORE applied, resets everything, and bring-up runs at deassertion. -/
  | coldReset (cause : ColdCause)
  /-- WARM_RESET (R412): WARM_RST_N or GCTL_RST.WARM starts a warm reset and bring-up. -/
  | warmReset (byLand : Bool) (path : Path) (kat : Kat)
  /-- COMPUTE_RESET (R412): GCTL_RST.COMPUTE or the mailbox command starts a compute-only reset. -/
  | computeReset (path : Path) (kat : Kat)
  /-- HBM_TRAIN_DONE (R237): HBM initialisation and training finishes at a data rate or fails. -/
  | hbmTrainDone (m : HbmId) (rate : Fin 3)
  /-- BIST_DONE (R424): BIST finishes, logging cell faults, declaring bonds and excluding cores. -/
  | bistDone (bist : Bist) (kat : Kat)
  /-- PACKAGE_READY (R427): All conditions hold and GCTL_BOOT.STAGE reads READY. -/
  | packageReady
  /-- AUTO_JOB_START (R429): With FLAGS.AUTO the service controller loads and starts the resident job. -/
  | autoJobStart
  /-- CONFIG_LOCK (R428): GCTL_LOCK.LOCK makes every RWL field read-only. -/
  | configLock (path : Path)
  /-- PKG_ID_WRITE (R30): A write of GCTL_PKG_ID before the lock sets PKG_ID and SET. -/
  | pkgIdWrite (path : Path) (v : Word32)
  /-- IMG_BEGIN (R430): Mailbox IMG_BEGIN erases an image slot. -/
  | imgBegin (path : Path)
  /-- IMG_DATA (R430): Mailbox IMG_DATA writes window bytes to the slot. -/
  | imgData (path : Path)
  /-- IMG_END (R430): Mailbox IMG_END checks the slot and updates the directory on success. -/
  | imgEnd (path : Path)
  /-- IMG_BOOT (R420): Mailbox IMG_BOOT boots a host-supplied image from RAM in FAILED state. -/
  | imgBoot (path : Path)
  /-- NBR_READ (R432): Mailbox NBR_READ copies the neighbour table to the window. -/
  | nbrRead (path : Path)
  /-- RETIRE_DELETE (R317): Mailbox RETIRE_DELETE deletes a retired-region entry at the next cold reset. -/
  | retireDelete (path : Path)
  /-- RECORD_READ (R430): Mailbox RECORD_READ copies the repair record to the window. -/
  | recordRead (path : Path)
  /-- SVN_RAISE (R430): Mailbox SVN_RAISE raises the fused minimum SVN irreversibly. -/
  | svnRaise (path : Path)
  /-- JOB_START (R429): Mailbox JOB_START runs the autonomous job start procedure. -/
  | jobStart (path : Path)
  /-- HOST_TAKE (R429): Mailbox HOST_TAKE returns control to the host and clears AUTO. -/
  | hostTake (path : Path)
  /-- MGMT_REG_READ (R431): A MGMT REG_READ is carried out by the service controller and answered in a REPLY. -/
  | mgmtRegRead (l : InLink)
  /-- MGMT_REG_WRITE (R431): A MGMT REG_WRITE is carried out as a host write. -/
  | mgmtRegWrite (l : InLink)
  /-- MGMT_MB_CMD (R431): A MGMT MB_CMD runs a mailbox command on the receiver. -/
  | mgmtMbCmd (l : InLink)
  /-- MGMT_REPLY (R431): A MGMT REPLY returns a remote read or command result. -/
  | mgmtReply (l : InLink)
  /-- FAULT (R453): A received FAULT message is one report to the collector's concentrator. -/
  | fault (l : InLink)
  /-- GCTL_MODE_WRITE (R158): A write of GCTL_MODE changes mode bits only in free or stopped state, resetting accumulators on a PAIR change. -/
  | gctlModeWrite (path : Path) (v : Word32)
  /-- ROLE_STAGE_WRITE (R439): A write of GCTL_ROLE_VAL writes an entry of the staged bank unless a commit is pending. -/
  | roleStageWrite (path : Path) (v : Word32)
  /-- ROLE_COMMIT (R439): A write of GCTL_ROLE_CMT_HI arms a commit for boundary B or discards it as late. -/
  | roleCommit (path : Path) (v : Word32)
  /-- MEMBERSHIP_WRITE (R443): A membership entry write in free or stopped state updates the table. -/
  | membershipWrite (path : Path) (hi : Bool) (v : Word32)
  /-- FAULT_RECORD_FREE (R449): Writing 1 to a record's VALID frees it and clears its pending bit. -/
  | faultRecordFree (path : Path) (r : Fin 128)
  /-- HOST_WINDOW_WRITE (R458): A BAR2 write is translated through its window and written or refused. -/
  | hostWindowWrite (off : Word32) (data : List Byte)
  /-- HOST_WINDOW_READ (R458): A BAR2 read is translated through its window and completed or refused. -/
  | hostWindowRead (off : Word32) (len : Nat) (u : Upsets)
  /-- PCIE_COMPLETION_TIMEOUT (R459): A non-posted request unanswered within 1 ms completes as Completer Abort. -/
  | pcieCompletionTimeout (off : Word32)
  /-- PCIE_FUNCTION_RESET (R460): FLR, hot reset or link down resets the endpoint's configuration, windows and MSI-X state. -/
  | pcieFunctionReset (cause : Fin 3)
  /-- MSIX_UNMASK (R462): Unmasking a vector with its pending bit set sends one message. -/
  | msixUnmask (v : Fin 32)
  /-- REGISTER_WRITE (R465): A write to a register with no row of its own, judged for width and access code. -/
  | registerWrite (path : Path) (off : BitVec 26) (data : List Byte)
  /-- SMB_SET_OFFSET (R470): SMBus or I3C SET_OFFSET sets the offset. -/
  | smbSetOffset (x : SmbXfer)
  /-- SMB_READ (R470): SMBus or I3C READ returns a register and advances the offset. -/
  | smbRead (x : SmbXfer)
  /-- SMB_WRITE (R470): SMBus or I3C WRITE writes a register and advances the offset. -/
  | smbWrite (x : SmbXfer)
  /-- SMB_READ64 (R470): SMBus or I3C READ64 reads a pair coherently. -/
  | smbRead64 (x : SmbXfer)
  /-- SMB_STATUS (R470): SMBus or I3C STATUS returns MSMB_STAT. -/
  | smbStatus (x : SmbXfer)
  /-- I3C_ENTRY (R469): The first I3C broadcast address puts the target in I3C mode. -/
  | i3cEntry
  /-- I3C_DAA (R469): ENTDAA or SETDASA assigns the target's dynamic address. -/
  | i3cDaa (setdasa : Bool) (static dyn : BitVec 7)
  /-- I3C_TARGET_RESET (R469): An I3C target reset action returns the target to SMBus mode. -/
  | i3cTargetReset
  /-- SMBUS_TIMEOUT (R469): SCL held low for 25 ms resets the target's transaction. -/
  | smbusTimeout
  /-- MSPI_READ (R473): A management SPI READ frame returns LEN words if its edge count is exact. -/
  | mspiRead (h : MspiHead)
  /-- MSPI_WRITE (R474): A management SPI WRITE frame applies its words at release if its edge count is exact. -/
  | mspiWrite (h : MspiHead) (words : List Word32)
  /-- MSPI_STATUS (R473): A management SPI STATUS frame returns MSPI_STAT. -/
  | mspiStatus (h : MspiHead)
  /-- JTAG_BYPASS (R478): JTAG BYPASS instruction. -/
  | jtagBypass
  /-- JTAG_IDCODE (R479): JTAG IDCODE returns 0x4006_4547. -/
  | jtagIdcode
  /-- JTAG_SAMPLE_PRELOAD (R478): JTAG SAMPLE/PRELOAD instruction. -/
  | jtagSamplePreload (cells : List Bool)
  /-- JTAG_EXTEST (R480): JTAG EXTEST, effective only while RST_N is asserted. -/
  | jtagExtest
  /-- JTAG_EXTEST_PULSE (R478): IEEE 1149.6 EXTEST_PULSE on the AC-coupled link lanes. -/
  | jtagExtestPulse
  /-- JTAG_EXTEST_TRAIN (R478): IEEE 1149.6 EXTEST_TRAIN on the AC-coupled link lanes. -/
  | jtagExtestTrain
  /-- JTAG_CLAMP (R480): JTAG CLAMP, effective only while RST_N is asserted. -/
  | jtagClamp
  /-- JTAG_HIGHZ (R480): JTAG HIGHZ, effective only while RST_N is asserted. -/
  | jtagHighz
  /-- JTAG_TRST (R478): TRST_N resets the test access port asynchronously. -/
  | jtagTrst
  /-- POWER_DOWN (R487): RST_N or PWR_OK driven low before rails fall puts HBM in reset and releases lands. -/
  | powerDown
  /-- VIN_CORE_DIP (R488): VIN_CORE below 1.55 V for over 1 us acts as RST_N asserted. -/
  | vinCoreDip
  /-- SERDES_REFCLK_LOSS (R492): SERDES_REFCLK absent or off frequency loses every link and runs the timebase on an internal oscillator. -/
  | serdesRefclkLoss
  /-- SERDES_REFCLK_RETURN (R492): The returning SERDES_REFCLK is taken back by the timebase without a step. -/
  | serdesRefclkReturn
  /-- PCIE_REFCLK_LOSS (R492): REFCLK_100 absent for over 1 us takes the PCIe link down. -/
  | pcieRefclkLoss
  /-- THERMTRIP_CLEAR (R490): VIN_CORE below 0.30 V for 10 ms clears the shutdown latch and releases THERMTRIP_N. -/
  | thermtripClear
  /-- COLD_BRINGUP_START (R485): When RST_N and PWR_OK are both high, and after a dip once VIN_CORE has been back in range for 1 ms, cold bring-up begins. -/
  | coldBringupStart
  /-- WARM_RST_N_RELEASE (R412): Deassertion of WARM_RST_N starts warm bring-up of a package held in warm reset by the land. -/
  | warmRstNRelease (kat : Kat)
  /-- PCIE_REFCLK_RETURN (R492): REFCLK_100 returns, PCIE_LOST clears and the PCIe link can come up again. -/
  | pcieRefclkReturn
  /-- UNDEFINED_OPCODE (R114): An instruction with CLASS 0b110 or 0b111, or an OP not listed for its class, traps ILLEGAL when it becomes its group's next instruction. -/
  | undefinedOpcode (g : Gid) (word : Word64)
  /-- RESERVED_TYPE_MESSAGE (R340): A whole message of a reserved TYPE is discarded at its receiver and counted in LNKp_CNT_BADMSG. -/
  | reservedTypeMessage (l : InLink)
  deriving DecidableEq, Repr

end Sys2Proof
end

