-- ==== Sys2Proof/Decode.lean ====
section
/-! DEFINITION. The command a word spells by the opcode table's bits. The table gives no row any
bits, so no word spells a command. -/

namespace Sys2Proof

/-- The command that word `w` of `nbits` bits spells: the table has no row with bits (DESIGN CHOICE, log entry 4). -/
def decodeTableWord (_nbits _w : Nat) : Option Instr := none

end Sys2Proof
end

