-- ==== Sys2Proof/Machine/Numerics.lean ====
section
/-! DEFINITION. Number formats and arithmetic: binary32 operations (R115, R116), conversions
(R159-R165), the stochastic generator (R167) and the tensor array's dot product (R172-R178). -/

namespace Sys2Proof.Machine

open Sys2Proof

/-! ### binary32 -/

/-- A decoded floating-point number: the value of `fin s m e` is (-1)^s × m × 2^e; a zero keeps its
sign. -/
inductive Fp where
  | nan
  | inf (s : Bool)
  | fin (s : Bool) (m : Nat) (e : Int)
  deriving DecidableEq, Repr

/-- The canonical quiet NaN (R115). -/
def qNaN : Word32 := 0x7FC00000

def decF32 (w : Word32) : Fp :=
  let s := w.getLsbD 31
  let x := bitsOf w.toNat 23 8
  let f := bitsOf w.toNat 0 23
  if x = 255 then if f = 0 then .inf s else .nan
  else if x = 0 then .fin s f (-149)
  else .fin s (2 ^ 23 + f) (x - 150)

def infF32 (s : Bool) : Word32 := if s then 0xFF800000 else 0x7F800000

def zeroF32 (s : Bool) : Word32 := if s then 0x80000000 else 0

/-- The magnitude m × 2^e divided by 2^q: quotient, twice the remainder compared with the divisor,
and whether there is a remainder. -/
def splitAt (m : Nat) (e q : Int) : Nat × Ordering × Bool :=
  if q ≤ e then (m * 2 ^ (e - q).toNat, .lt, false)
  else
    let d := (q - e).toNat
    let r := m % 2 ^ d
    (m / 2 ^ d, compare (2 * r) (2 ^ d), r != 0)

/-- Round (-1)^s × (m + a little more if `sticky`) × 2^e to binary32, nearest, ties to even,
subnormals kept (R115). -/
def roundF32 (s : Bool) (m : Nat) (e : Int) (sticky : Bool := false) : Word32 :=
  if m = 0 then zeroF32 s
  else
    let q := max ((floorLog2 m : Int) + e) (-126) - 23
    let (n, half, _) := splitAt m e q
    let up := match half with
      | .gt => true
      | .eq => sticky || n % 2 == 1
      | .lt => false
    let n := if up then n + 1 else n
    let bits := (q + 149).toNat * 2 ^ 23 + n
    if 0x7F800000 ≤ bits then infF32 s else BitVec.ofNat 32 ((if s then 2 ^ 31 else 0) + bits)

/-- Round the exact value z × 2^e; an exact zero is +0. -/
def roundDy (z : Int) (e : Int) : Word32 := roundF32 (decide (z < 0)) z.natAbs e

/-- The signed significand of a finite number aligned to exponent `e`, at most its own. -/
def alignTo (s : Bool) (m : Nat) (x e : Int) : Int :=
  let v : Int := (m : Int) * 2 ^ (x - e).toNat
  if s then -v else v

/-- a + b of two decoded numbers, one rounding. -/
def addFp : Fp → Fp → Word32
  | .nan, _ => qNaN
  | _, .nan => qNaN
  | .inf s, .inf t => if s = t then infF32 s else qNaN
  | .inf s, _ => infF32 s
  | _, .inf t => infF32 t
  | .fin s m x, .fin t n y =>
    if m = 0 ∧ n = 0 then zeroF32 (s && t)
    else
      let e := min x y
      roundDy (alignTo s m x e + alignTo t n y e) e

/-- The exact product. -/
def mulFp : Fp → Fp → Fp
  | .nan, _ => .nan
  | _, .nan => .nan
  | .inf s, .inf t => .inf (s != t)
  | .inf s, .fin t n _ => if n = 0 then .nan else .inf (s != t)
  | .fin s m _, .inf t => if m = 0 then .nan else .inf (s != t)
  | .fin s m x, .fin t n y => .fin (s != t) (m * n) (x + y)

/-- A decoded number rounded to binary32. -/
def packF32 : Fp → Word32
  | .nan => qNaN
  | .inf s => infF32 s
  | .fin s m e => roundF32 s m e

def fadd (a b : Word32) : Word32 := addFp (decF32 a) (decF32 b)

def fneg (a : Word32) : Word32 := a ^^^ 0x80000000

def fabs (a : Word32) : Word32 := a &&& 0x7FFFFFFF

def fsub (a b : Word32) : Word32 :=
  match decF32 b with
  | .nan => qNaN
  | .inf s => addFp (decF32 a) (.inf !s)
  | .fin s m e => addFp (decF32 a) (.fin (!s) m e)

def fmul (a b : Word32) : Word32 := packF32 (mulFp (decF32 a) (decF32 b))

def fma (a b c : Word32) : Word32 := addFp (mulFp (decF32 a) (decF32 b)) (decF32 c)

def isNaN (a : Word32) : Bool := decF32 a == .nan

/-- A key that orders binary32 values with -0 below +0. -/
def orderKey (a : Word32) : Int :=
  if a.getLsbD 31 then -(bitsOf a.toNat 0 31 : Int) - 1 else bitsOf a.toNat 0 31

/-- minimumNumber and maximumNumber with -0 below +0; NaN only from two NaNs (R115). -/
def fmin (a b : Word32) : Word32 :=
  if isNaN a then if isNaN b then qNaN else b
  else if isNaN b then a
  else if orderKey b < orderKey a then b else a

def fmax (a b : Word32) : Word32 :=
  if isNaN a then if isNaN b then qNaN else b
  else if isNaN b then a
  else if orderKey a < orderKey b then b else a

/-- The ordering of two values; `none`: unordered. -/
def fcompare (a b : Word32) : Option Ordering :=
  if isNaN a || isNaN b then none
  else
    let k (w : Word32) : Int := if w.getLsbD 31 then -(bitsOf w.toNat 0 31 : Int) else bitsOf w.toNat 0 31
    some (compare (k a) (k b))

/-- a × 2^b, one rounding; beyond ±600 the result is past every finite value or rounds to zero. -/
def fscale (a b : Word32) : Word32 :=
  match decF32 a with
  | .fin s m e => roundF32 s m (e + max (-600) (min 600 b.toInt))
  | x => packF32 x

/-! ### Correctly rounded functions (R116) -/

/-- 1 / a. -/
def frcp (a : Word32) : Word32 :=
  match decF32 a with
  | .nan => qNaN
  | .inf s => zeroF32 s
  | .fin s m e =>
    if m = 0 then infF32 s
    else
      let k := 80 + floorLog2 m
      roundF32 s (2 ^ k / m) (-(k : Int) - e) (2 ^ k % m != 0)

/-- The integer square root, from bit `n` - 1 down. -/
def isqrtGo : Nat → Nat → Nat → Nat
  | 0, _, r => r
  | n + 1, v, r =>
    let c := r + 2 ^ n
    isqrtGo n v (if c * c ≤ v then c else r)

/-- The integer square root of `v`. -/
def isqrt (v : Nat) : Nat := isqrtGo (floorLog2 v / 2 + 1) v 0

/-- A positive finite number as m × 2^e with e even. -/
def evenExp (m : Nat) (e : Int) : Nat × Int := if e % 2 = 0 then (m, e) else (2 * m, e - 1)

/-- √a. -/
def fsqrt (a : Word32) : Word32 :=
  match decF32 a with
  | .nan => qNaN
  | .inf s => if s then qNaN else infF32 false
  | .fin s m e =>
    if m = 0 then zeroF32 s
    else if s then qNaN
    else
      let (m, e) := evenExp m e
      let v := m * 2 ^ 80
      let r := isqrt v
      roundF32 false r (e / 2 - 40) (r * r != v)

/-- 1 / √a. -/
def frsq (a : Word32) : Word32 :=
  match decF32 a with
  | .nan => qNaN
  | .inf s => if s then qNaN else zeroF32 false
  | .fin s m e =>
    if m = 0 then infF32 s
    else if s then qNaN
    else
      let (m, e) := evenExp m e
      let r := isqrt (2 ^ 160 / m)
      roundF32 false r (-80 - e / 2) (r * r * m != 2 ^ 160)

/-- 2^(2^-i) × 2^128 rounded down, i = 1 to 53. -/
def exp2Table : List Nat :=
  [0x16A09E667F3BCC908B2FB1366EA957D3E, 0x1306FE0A31B7152DE8D5A46305C85EDEC, 0x1172B83C7D517ADCDF7C8C50EB14A7920] ++
  [0x10B5586CF9890F6298B92B71842A98364, 0x1059B0D31585743AE7C548EB68CA417FE, 0x102C9A3E778060EE6F7CACA4F7A29BDE9] ++
  [0x10163DA9FB33356D84A66AE336DCDFA40, 0x100B1AFA5ABCBED6129AB13EC11DC9544, 0x10058C86DA1C09EA1FF19D294CF2F679C] ++
  [0x1002C605E2E8CEC506D21BFC89A23A010, 0x100162F3904051FA128BCA9C55C31E5E0, 0x1000B175EFFDC76BA38E31671CA939726] ++
  [0x100058BA01FB9F96D6CACD4B180917C3E, 0x10002C5CC37DA9491D0985C348C68E7B3, 0x1000162E525EE054754457D5995292026] ++
  [0x10000B17255775C040618BF4A4ADE83FC, 0x1000058B91B5BC9AE2EED81E9B7D4CFAC, 0x100002C5C89D5EC6CA4D7C8ACC017B7C9] ++
  [0x10000162E43F4F831060E02D839A9D16D, 0x100000B1721BCFC99D9F890EA06911763, 0x10000058B90CF1E6D97F9CA14DBCC1628] ++
  [0x1000002C5C863B73F016468F6BAC5CA2C, 0x100000162E430E5A18F6119E3C02282A5, 0x1000000B1721835514B86E6D96EFD1BFF] ++
  [0x100000058B90C0B48C6BE5DF846C5B2F0, 0x10000002C5C8601CC6B9E94213C72737A, 0x1000000162E42FFF037DF38AA2B219F06] ++
  [0x10000000B17217FBA9C739AA5819F44F9, 0x1000000058B90BFCDEE5ACD3C1CEDC823, 0x100000002C5C85FE31F35A6A30DA1BE50] ++
  [0x10000000162E42FF0999CE3541B9FFFCF, 0x100000000B17217F80F4EF5AADDA45554, 0x10000000058B90BFBF8479BD5A81B51AD] ++
  [0x1000000002C5C85FDF84BD62AE30A74CC, 0x100000000162E42FEFB2FED257559BDAA, 0x1000000000B17217F7D5A7716BBA4A9AF] ++
  [0x100000000058B90BFBE9DDBAC5E109CCF, 0x10000000002C5C85FDF4B15DE6F17EB0D, 0x1000000000162E42FEFA494F1478FDE05] ++
  [0x10000000000B17217F7D20CF927C8E94C, 0x1000000000058B90BFBE8F71CB4E4B33E, 0x100000000002C5C85FDF477B662B26945] ++
  [0x10000000000162E42FEFA3AE53369388C, 0x100000000000B17217F7D1D351A389D40, 0x10000000000058B90BFBE8E8B2D3D4EDE] ++
  [0x1000000000002C5C85FDF4741BEA6E77F, 0x100000000000162E42FEFA39FE95583C3, 0x1000000000000B17217F7D1CFB72B45E2] ++
  [0x100000000000058B90BFBE8E7CC35C3F1, 0x10000000000002C5C85FDF473E242EA38, 0x1000000000000162E42FEFA39F02B772C] ++
  [0x10000000000000B17217F7D1CF7D83C1A, 0x1000000000000058B90BFBE8E7BDCBE2E]

/-- 2^(f / 2^53) × 2^128, within 2^8 below, for 0 ≤ f < 2^53. -/
def exp2Frac (f : Nat) : Nat :=
  exp2Table.zipIdx.foldl (fun v (c, i) => if bitOf f (52 - i) then v * c / 2 ^ 128 else v) (2 ^ 128)

/-- 2^a: exact for integers; otherwise irrational, so never a tie, and rounded from 120 bits. -/
def fexp2 (a : Word32) : Word32 :=
  match decF32 a with
  | .nan => qNaN
  | .inf s => if s then 0 else infF32 false
  | .fin s m e =>
    if m = 0 then 0x3F800000
    else if (floorLog2 m : Int) + e < -30 then 0x3F800000
    else if 10 < (floorLog2 m : Int) + e then if s then 0 else infF32 false
    else
      let z : Int := if s then -(m * 2 ^ (e + 53).toNat : Nat) else (m * 2 ^ (e + 53).toNat : Nat)
      let n := z / 2 ^ 53
      let f := (z % 2 ^ 53).toNat
      if f = 0 then roundF32 false 1 n
      else roundF32 false (exp2Frac f + 2 ^ 7) (n - 128) true

/-- Bits of log₂ y for y in [1, 2) given as y × 2^256: `n` bits, most significant first. -/
def log2Bits : Nat → Nat → Nat → Nat
  | 0, _, acc => acc
  | n + 1, y, acc =>
    let y2 := y * y / 2 ^ 256
    if 2 ^ 257 ≤ y2 then log2Bits n (y2 / 2) (2 * acc + 1) else log2Bits n y2 (2 * acc)

/-- log₂ a: exact for powers of two; otherwise irrational, rounded from 110 fraction bits. -/
def flog2 (a : Word32) : Word32 :=
  match decF32 a with
  | .nan => qNaN
  | .inf s => if s then qNaN else infF32 false
  | .fin s m e =>
    if m = 0 then infF32 true
    else if s then qNaN
    else
      let k := floorLog2 m
      let x : Int := (k : Int) + e
      if m = 2 ^ k then roundDy x 0
      else
        let z : Int := x * 2 ^ 110 + (log2Bits 110 (m * 2 ^ (256 - k)) 0 : Nat)
        roundF32 (decide (z < 0)) (2 * z + 3).natAbs (-111) true

/-! ### Integer conversions -/

/-- CVTIF: an integer to binary32, ties to even. -/
def cvtif (signed : Bool) (a : Word32) : Word32 := roundDy (if signed then a.toInt else (a.toNat : Int)) 0

/-- A magnitude rounded to an integer: nearest even or toward zero. -/
def toInteger (trunc : Bool) (m : Nat) (e : Int) : Nat :=
  if e ≥ 40 then 2 ^ 40
  else
    let (n, half, _) := splitAt m e 0
    if !trunc && (half == .gt || (half == .eq && n % 2 == 1)) then n + 1 else n

/-- CVTFI: saturating; NaN gives 0 (R119). -/
def cvtfi (signed trunc : Bool) (a : Word32) : Word32 :=
  let sat (s : Bool) (n : Nat) : Word32 :=
    if signed then
      if s then BitVec.ofInt 32 (-(min n (2 ^ 31) : Nat)) else BitVec.ofNat 32 (min n (2 ^ 31 - 1))
    else if s then 0 else BitVec.ofNat 32 (min n (2 ^ 32 - 1))
  match decF32 a with
  | .nan => 0
  | .inf s => sat s (2 ^ 40)
  | .fin s m e => sat s (toInteger trunc m e)

/-! ### Formats (Tables 4-6 and 5-1) -/

/-- A format code's exponent bits, fraction bits and bias; integers have none. -/
structure Fmt where
  eb : Nat
  mb : Nat
  bias : Int
  bits : Nat
  deriving DecidableEq, Repr

/-- Formats 1 to 6 by code. -/
def fmtOf : Nat → Fmt
  | 1 => ⟨8, 7, 127, 16⟩
  | 2 => ⟨5, 10, 15, 16⟩
  | 3 => ⟨4, 3, 7, 8⟩
  | 4 => ⟨5, 2, 15, 8⟩
  | 5 => ⟨3, 2, 3, 6⟩
  | 6 => ⟨2, 1, 1, 4⟩
  | _ => ⟨0, 0, 0, 8⟩

/-- Elements of a lane word by format code (Table 4-6); 0: reserved. -/
def fmtElems : Nat → Nat
  | 0 => 1
  | 1 => 2
  | 2 => 2
  | 3 => 4
  | 4 => 4
  | 5 => 4
  | 6 => 8
  | 7 => 4
  | 8 => 8
  | _ => 0

/-- Width of an element and the spacing of elements in a lane word. -/
def fmtBits : Nat → Nat
  | 1 => 16
  | 2 => 16
  | 5 => 6
  | 6 => 4
  | 8 => 4
  | _ => 8

def fmtStride (f : Nat) : Nat := 32 / fmtElems f

/-- Is the format FP16 or BF16? -/
def fmtLong (f : Nat) : Bool := f == 1 || f == 2

/-- Is it INT8 or INT4? -/
def fmtInt (f : Nat) : Bool := f == 7 || f == 8

/-! ### Narrowing (R160-R165) -/

/-- How a conversion rounds: to nearest even, toward zero, or stochastically with a draw (R169). -/
inductive Rnd where
  | rne
  | rtz
  | sr (r16 : Nat)
  deriving DecidableEq, Repr

/-- A magnitude rounded on the grid 2^q. -/
def roundGrid (r : Rnd) (m : Nat) (e q : Int) : Nat :=
  let (n, half, _) := splitAt m e q
  let up : Bool := match r with
    | .rne => half == .gt || (half == .eq && n % 2 == 1)
    | .rtz => false
    | .sr d =>
      if q ≤ e then false
      else
        let w := (q - e).toNat
        decide (65536 ≤ (m % 2 ^ w) * 65536 / 2 ^ w + d)
  if up then n + 1 else n

/-- Compare n × 2^q with k × 2^x. -/
def dyLt (n : Nat) (q : Int) (k : Nat) (x : Int) : Bool :=
  let e := min q x
  decide (n * 2 ^ (q - e).toNat < k * 2 ^ (x - e).toNat)

/-- CVTN of `a` to format `f` under rounding `r`; `nanMode` is GCTL_MODE.OVF. The code, and whether
the conversion overflowed or saturated (R160-R165). -/
def narrow (f : Nat) (nanMode : Bool) (r : Rnd) (a : Word32) : Nat × Bool :=
  if fmtInt f then
    let b := fmtBits f
    let sat (s : Bool) (n : Nat) : Nat × Bool :=
      let top := if s then 2 ^ (b - 1) else 2 ^ (b - 1) - 1
      let v := min n top
      (if s then (2 ^ b - v) % 2 ^ b else v, decide (top < n))
    match decF32 a with
    | .nan => (0, false)
    | .inf s => sat s (2 ^ 40)
    | .fin s m e => if 40 ≤ e then sat s (2 ^ 40) else sat s (roundGrid r m e 0)
  else
    let F := fmtOf f
    let sbit := 2 ^ (F.eb + F.mb)
    let q0 : Int := 1 - F.bias - F.mb
    if fmtLong f then
      let infCode := (2 ^ F.eb - 1) * 2 ^ F.mb
      let sg (s : Bool) (c : Nat) : Nat × Bool := ((if s then sbit else 0) + c, false)
      match decF32 a with
      | .nan => (infCode + 2 ^ (F.mb - 1), false)
      | .inf s => sg s infCode
      | .fin s m e =>
        if m = 0 then sg s 0
        else
          let q := max ((floorLog2 m : Int) + e) (1 - F.bias) - F.mb
          let n := roundGrid r m e q
          let code := (q - q0).toNat * 2 ^ F.mb + n
          if code < infCode then sg s code else if r = .rtz then sg s (infCode - 1) else sg s infCode
    else
      let vmax := sbit - 1
      let ovf (s : Bool) : Nat × Bool := (if nanMode then sbit else if s then sbit + vmax else vmax, true)
      match decF32 a with
      | .nan => (sbit, false)
      | .inf s => ovf s
      | .fin s m e =>
        if m = 0 then (0, false)
        else
          let q := max ((floorLog2 m : Int) + e) (1 - F.bias) - F.mb
          let n := roundGrid r m e q
          -- the largest code is (2^(mb+1) - 1) × 2^qv; halfway above it is (2^(mb+2) - 1) × 2^(qv-1)
          let qv : Int := 2 ^ F.eb - 1 - F.bias - F.mb
          let half := r == .rne && !dyLt m e (2 ^ (F.mb + 2) - 1) (qv - 1) && !dyLt (2 ^ (F.mb + 2) - 1) (qv - 1) m e
          if half then ((if s then sbit else 0) + vmax, false)
          else if dyLt (2 ^ (F.mb + 1) - 1) qv n q then ovf s
          else if n = 0 then (0, false)
          else ((if s then sbit else 0) + ((q - q0).toNat * 2 ^ F.mb + n), false)

/-! ### Widening (R159) -/

/-- The value of a code of format `f`, as binary32. -/
def widen (f code : Nat) : Word32 :=
  if fmtInt f then roundDy (signedOf (fmtBits f) code) 0
  else
    let F := fmtOf f
    let s := bitOf code (F.eb + F.mb)
    let x := bitsOf code F.mb F.eb
    let n := bitsOf code 0 F.mb
    if fmtLong f && x == 2 ^ F.eb - 1 then if n = 0 then infF32 s else qNaN
    else if x = 0 ∧ n = 0 then if s && !fmtLong f then qNaN else zeroF32 s
    else if x = 0 then roundF32 s n (1 - F.bias - F.mb)
    else roundF32 s (2 ^ F.mb + n) ((x : Int) - F.bias - F.mb)

/-! ### The stochastic generator (R167, R168) -/

def srStep (s : BitVec 16) : BitVec 16 := if s.getLsbD 0 then (s >>> 1) ^^^ 0xB400 else s >>> 1

def srAdvance : Nat → BitVec 16 → BitVec 16
  | 0, s => s
  | n + 1, s => srAdvance n (srStep s)

/-- The draws of one stochastic CVTN: thread t takes entry t. -/
def srDraws : Nat → BitVec 16 → List Nat
  | 0, _ => []
  | n + 1, s => (srStep s).toNat :: srDraws n (srStep s)

/-! ### The tensor array's arithmetic (R172-R178) -/

/-- The internal form of an operand element (R172): `fin s e m` is (-1)^s × m × 2^(e - 11) with m
from 2,048 to 4,095. -/
inductive Elem where
  | zero
  | fin (s : Bool) (e : Int) (m : Nat)
  | inf (s : Bool)
  | nan
  deriving DecidableEq, Repr

/-- normalise of R173. -/
def normElem (s : Bool) (q : Nat) (x : Int) : Elem :=
  let k := floorLog2 q
  .fin s (x + k) (q * 2 ^ (11 - k))

/-- decode of R173: `zs` is the ZS8 code of the element's block. -/
def decodeElem (f code : Nat) (zs : Option Nat) : Elem :=
  let F := fmtOf f
  let v :=
    if fmtInt f then
      let i := signedOf (fmtBits f) code
      if i = 0 then .zero else normElem (decide (i < 0)) i.natAbs 0
    else
      let s := bitOf code (F.eb + F.mb)
      let x := bitsOf code F.mb F.eb
      let n := bitsOf code 0 F.mb
      if fmtLong f && x == 2 ^ F.eb - 1 then if n = 0 then .inf s else .nan
      else if x = 0 ∧ n = 0 then if s && !fmtLong f then .nan else .zero
      else if x = 0 then normElem s n (1 - F.bias - F.mb)
      else normElem s (2 ^ F.mb + n) ((x : Int) - F.bias - F.mb)
  match zs with
  | none => v
  | some z =>
    if fmtLong f then v
    else if z = 0xFF then .nan
    else match v with
      | .fin s e m => .fin s (e + z - 127) m
      | w => w

/-- The value of a group sum (R175). -/
inductive GSum where
  | empty
  | nan
  | inf (s : Bool)
  | val (sum : Int) (emax : Int)
  deriving DecidableEq, Repr

/-- product of R175, as (class, sign, exponent, significand). -/
def prodElem : Elem → Elem → Elem
  | .nan, _ => .nan
  | _, .nan => .nan
  | .inf s, .inf t => .inf (s != t)
  | .inf _, .zero => .nan
  | .zero, .inf _ => .nan
  | .inf s, .fin t _ _ => .inf (s != t)
  | .fin s _ _, .inf t => .inf (s != t)
  | .zero, _ => .zero
  | _, .zero => .zero
  | .fin s e m, .fin t f n => .fin (s != t) (e + f) (m * n)

/-- group_sum of R175 over at most 32 products. -/
def groupSum (ps : List Elem) : GSum :=
  if ps.contains .nan then .nan
  else if ps.contains (.inf false) && ps.contains (.inf true) then .nan
  else if ps.contains (.inf false) then .inf false
  else if ps.contains (.inf true) then .inf true
  else
    let fins := ps.filterMap fun p => match p with | .fin s e m => some (s, e, m) | _ => none
    match fins with
    | [] => .empty
    | (_, e0, _) :: _ =>
      let emax := fins.foldl (fun a p => max a p.2.1) e0
      .val (fins.foldl (fun t (s, e, m) =>
        let sh := e - emax + 5
        let a : Nat := if 0 ≤ sh then m * 2 ^ sh.toNat else m / 2 ^ (-sh).toNat
        if s then t - a else t + a) 0) emax

/-- acc_add of R175. -/
def accAdd (acc : Word32) (g : GSum) : Word32 :=
  match g with
  | .empty => acc
  | .nan => qNaN
  | .inf s => addFp (decF32 acc) (.inf s)
  | .val z emax =>
    match decF32 acc with
    | .nan => qNaN
    | .inf _ => acc
    | .fin s m x =>
      if z = 0 then acc
      else
        let e := min x (emax - 27)
        roundDy (alignTo s m x e + z * 2 ^ (emax - 27 - e).toNat) e

/-- pair_add of R178. -/
def pairAdd (hi lo : Word32) (g : GSum) : Word32 × Word32 :=
  match g with
  | .empty => (hi, lo)
  | .val z emax =>
    if z = 0 then (hi, lo)
    else
      let h := accAdd hi g
      match decF32 hi, decF32 h with
      | .fin s m x, .fin s' m' x' =>
        match decF32 lo with
        | .fin t n y =>
          let e := min (min x x') (min y (emax - 27))
          let r := alignTo s m x e + z * 2 ^ (emax - 27 - e).toNat - alignTo s' m' x' e
          (h, roundDy (alignTo t n y e + r) e)
        | _ => (h, lo)
      | _, _ => (h, 0)
  | _ => (accAdd hi g, 0)

end Sys2Proof.Machine
end

