-- ==== Sys2Proof/Config.lean ====
section
/-! DEFINITION. What the spec leaves to the implementation or leaves open: the free values, each an
opaque constant that no proof can see into. -/

namespace Sys2Proof.Config

/-- The n-th free value drawn, of w bits (DESIGN CHOICE, log entry 2). -/
opaque free (w n : Nat) : BitVec w

/-- What a counter of cycles, or the measurement of energy, gives the TL register at offset `reg` at the
boundary that drew number `n` (R91, R371) (DESIGN CHOICE, log entry 8). -/
opaque measured (n reg : Nat) : BitVec 32

/-- How far the part's trimmed voltage of clock step `k` lies below nominal, in mV (R361) (PRESUMED, log entry 9). -/
opaque vfTrim (k : Nat) : Nat

/-- Word `j` of the read-only table of coefficients at PWR+0x1000: that of event class `j` in pJ (R370) (DESIGN CHOICE,
log entry 8). -/
opaque coeff (j : Nat) : BitVec 32

/-- The events of class `j` of unit `u` that no register counts, in the tick that ended at the boundary that drew number
`n` (R370) (DESIGN CHOICE, log entry 8). -/
opaque events (n u j : Nat) : Nat

/-- The energy in µJ attributed to no unit in the tick that ended at the boundary that drew number `n` (R371) (DESIGN
CHOICE, log entry 8). -/
opaque restEnergy (n : Nat) : Nat

/-- The calibrated full-activity dynamic power of stack `s` at step `k`, in mW (R368) (DESIGN CHOICE, log entry 8). -/
opaque fullPower (s k : Nat) : Nat

/-- The factory table's leakage of supply domain `d` at `mv` mV and `t` quarter degrees, in mW (R370) (DESIGN CHOICE, log
entry 8). -/
opaque leakage (d mv : Nat) (t : Int) : Nat

/-- The temperature in 1/8 °C that a count of oscillator `j` of die `d` gives at `mv` mV by its factory
slope and voltage coefficient, before its offset (R382) (PRESUMED, log entry 9). -/
opaque oscTemp (d j mv count : Nat) : Int

/-- The offset in 1/8 °C that the boot calibration that drew number `n` gives oscillator `j` of die `d`: what makes it
read as the diode then (R382) (DESIGN CHOICE, log entry 89). -/
opaque bootOffset (n d j : Nat) : Int

/-- The factory range of an oscillator's counts: the lowest, and how far above it the highest is (R382) (PRESUMED, log
entry 9). -/
opaque oscRange (d j : Nat) : Nat × Nat

/-! ### The Smizeov image

The codings of the LINK, RETIRE and JOB section bodies, and the cryptographic functions of other standards, are
not in the spec. -/

/-- SHA-384 of a byte list, little-endian (R419) (PRESUMED, log entry 9). -/
opaque sha384 (bs : List Byte) : Nat

/-- Does ECDSA P-384 accept the signature (r, s) of `digest` under `key` (R419)? (PRESUMED, log entry 9). -/
opaque ecdsaOk (key r s : List Byte) (digest : Nat) : Bool

/-- The records of a RETIRE section: kind (0 granule, 1 remap, 2 bank) and three fields (Table 16-9) (PRESUMED, log entry 9). -/
opaque retireOf (body : List Byte) : List (Nat × Nat × Nat × Nat)

/-- LNKp_CTL of port `p` as a LINK section sets it: ENABLE, SPLIT and DEGRADE_EN (R422) (PRESUMED, log entry 9). -/
opaque linkPort (body : List Byte) (p : Nat) : Word32

/-- LNK_FEAT_EN of a LINK section (PRESUMED, log entry 9). -/
opaque linkFeat (body : List Byte) : Word32

/-- LNK_TSYNC of a LINK section (PRESUMED, log entry 9). -/
opaque linkTsync (body : List Byte) : Word32

/-- The route entries of a LINK section: d and the words of LNK_RTd_LO and LNK_RTd_HI (PRESUMED, log entry 9). -/
opaque linkRoutes (body : List Byte) : List (Nat × Nat × Nat)

/-- The MGMT allow list of a LINK section (PRESUMED, log entry 9). -/
opaque linkMgmt (body : List Byte) : List Nat

/-- The REROUTE flag of a LINK section (PRESUMED, log entry 9). -/
opaque linkReroute (body : List Byte) : Bool

/-- Field `i` of the body of a JOB record of a kind, the fields of Table 16-11 counted in order (PRESUMED, log entry 9). -/
opaque jobField (kind : Nat) (body : List Byte) (i : Nat) : Nat

/-- The 32 B of a neighbour entry (R432), from link state, SERIAL, PKG, GEN, JOBGRP, RCLASS, REV, FEAT and the
two tick indices, as a number (PRESUMED, log entry 9). -/
opaque nbrBytes (fields : List Nat) : Nat

/-- Bits [47:33] of the provisioned ID on I3C, the maker's code (R469) (DEDUCED, log entry 50). -/
opaque i3cMaker : BitVec 15

/-- What ARG0 of RETIRE_DELETE names: stack, slab and port (Table 16-13) (PRESUMED, log entry 9). -/
opaque retireArg (arg : Word32) : Nat × Nat × Nat

/-- Does unit `i` of a kind (0 core, 1 stack, 2 port, 3 HBM stack, 4 package) fail the known-answer tests of the reset
that drew number `n` (R425)? (PRESUMED, log entry 9). -/
opaque katFails (n kind i : Nat) : Bool

end Sys2Proof.Config
end

