-- ==== Sys2Proof/Machine/Regs.lean ====
section
/-! DEFINITION. The register map: the offset of every register from the start of BAR0
(Table 1-7 and the register tables of every chapter), its fields, and for each register the
bits of each access code of R9, its reset value and whether it is whole-write (R465). -/


namespace Sys2Proof.Machine

/-- A field of a 32-bit register: its lowest bit and its width. -/
structure Fld where
  lo : Nat
  width : Nat
  deriving DecidableEq, Repr


/-! ### Offsets from the start of BAR0 -/

namespace Reg

/-- GCTL_ID, Table 16-14. -/
def GCTL_ID : Nat := 0
/-- GCTL_MODE, Table 17-1. -/
def GCTL_MODE : Nat := 4
/-- GCTL_LOCK, Table 16-15. -/
def GCTL_LOCK : Nat := 8
/-- GCTL_PKG_ID, Table 1-8. -/
def GCTL_PKG_ID : Nat := 0x10
/-- GCTL_DECODE_ERR_LO, Table 1-9. -/
def GCTL_DECODE_ERR_LO : Nat := 0x20
/-- GCTL_DECODE_ERR_HI, Table 1-10. -/
def GCTL_DECODE_ERR_HI : Nat := 0x24
/-- GCTL_BOOT, Table 16-16. -/
def GCTL_BOOT : Nat := 0x40
/-- GCTL_RST, Table 16-17. -/
def GCTL_RST : Nat := 0x48
/-- GCTL_EXCL, Table 16-18. -/
def GCTL_EXCL : Nat := 0x50
/-- GCTL_CORE_EXCLk, Table 16-18. -/
def GCTL_CORE_EXCLk (k : Nat) : Nat := 0x60 + k * 4
/-- GCTL_GEN, Table 17-5. -/
def GCTL_GEN : Nat := 0x90
/-- GCTL_ROLE_SEL, Table 17-5. -/
def GCTL_ROLE_SEL : Nat := 0xA0
/-- GCTL_ROLE_VAL, Table 17-5. -/
def GCTL_ROLE_VAL : Nat := 0xA4
/-- GCTL_ROLE_CMT_LO, Table 17-5. -/
def GCTL_ROLE_CMT_LO : Nat := 0xA8
/-- GCTL_ROLE_CMT_HI, Table 17-5. -/
def GCTL_ROLE_CMT_HI : Nat := 0xAC
/-- GCTL_ROLE_STAT, Table 17-5. -/
def GCTL_ROLE_STAT : Nat := 0xB0
/-- GCTL_MEMB_SEL, Table 17-5. -/
def GCTL_MEMB_SEL : Nat := 0xC0
/-- GCTL_MEMB_VAL_LO, Table 17-5. -/
def GCTL_MEMB_VAL_LO : Nat := 0xC4
/-- GCTL_MEMB_VAL_HI, Table 17-5. -/
def GCTL_MEMB_VAL_HI : Nat := 0xC8
/-- GCTL_MEMB_STAT, Table 17-5. -/
def GCTL_MEMB_STAT : Nat := 0xCC
/-- GCTL_JOBFEAT, Table 17-5. -/
def GCTL_JOBFEAT : Nat := 0xD0
/-- GCTL_ACC_ERR_LO, Table 18-5. -/
def GCTL_ACC_ERR_LO : Nat := 0x100
/-- GCTL_ACC_ERR_HI, Table 18-5. -/
def GCTL_ACC_ERR_HI : Nat := 0x104
/-- GCTL_HWINw, Table 18-6. -/
def GCTL_HWINw (w : Nat) : Nat := 0x110 + w * 4
/-- GCTL_INT_STAT, Table 18-6. -/
def GCTL_INT_STAT : Nat := 0x120
/-- GCTL_CLK_STAT, Table 19-6. -/
def GCTL_CLK_STAT : Nat := 0x140
/-- MSPI_STAT, Table 18-10. -/
def MSPI_STAT : Nat := 0x180
/-- MSMB_CFG, Table 18-8. -/
def MSMB_CFG : Nat := 0x190
/-- MSMB_STAT, Table 18-8. -/
def MSMB_STAT : Nat := 0x194
/-- TICK_CTL, Table 2-4. -/
def TICK_CTL : Nat := 0x10000
/-- TICK_PERIOD, Table 2-1. -/
def TICK_PERIOD : Nat := 0x10004
/-- TICK_REL_LAT, Table 2-3. -/
def TICK_REL_LAT : Nat := 0x10008
/-- TICK_STAT, Table 2-8. -/
def TICK_STAT : Nat := 0x1000C
/-- TICK_INDEX_LO, Table 2-10. -/
def TICK_INDEX_LO : Nat := 0x10010
/-- TICK_INDEX_HI, Table 2-10. -/
def TICK_INDEX_HI : Nat := 0x10014
/-- TICK_LAST, Table 2-11. -/
def TICK_LAST : Nat := 0x10018
/-- TICK_BND, Table 2-6. -/
def TICK_BND : Nat := 0x1001C
/-- TICK_OVR_CNT, Table 2-7. -/
def TICK_OVR_CNT : Nat := 0x10020
/-- TICK_LATE_CNT, Table 2-7. -/
def TICK_LATE_CNT : Nat := 0x10024
/-- TICK_SYNC, Table 2-2. -/
def TICK_SYNC : Nat := 0x10028
/-- TICK_SNAP_CTL, Table 2-12. -/
def TICK_SNAP_CTL : Nat := 0x1002C
/-- TICK_STOP_AT_LO, Table 15-5. -/
def TICK_STOP_AT_LO : Nat := 0x10030
/-- TICK_STOP_AT_HI, Table 15-5. -/
def TICK_STOP_AT_HI : Nat := 0x10034
/-- TICK_STOP_CTL, Table 15-5. -/
def TICK_STOP_CTL : Nat := 0x10038
/-- TICK_ROOT_ID, Table 02 registers. -/
def TICK_ROOT_ID : Nat := 0x10040
/-- SVC_MB_CMD, Table 16-19. -/
def SVC_MB_CMD : Nat := 0x20000
/-- SVC_MB_STAT, Table 16-19. -/
def SVC_MB_STAT : Nat := 0x20004
/-- SVC_EVT, Table 16-19. -/
def SVC_EVT : Nat := 0x20008
/-- SVC_CTL, Table 16-19. -/
def SVC_CTL : Nat := 0x2000C
/-- SVC_MB_ARGk, Table 16-19. -/
def SVC_MB_ARGk (k : Nat) : Nat := 0x20010 + k * 4
/-- FLT_CTL, Table 17-10. -/
def FLT_CTL : Nat := 0x30000
/-- FLT_CFG, Table 17-10. -/
def FLT_CFG : Nat := 0x30004
/-- FLT_STAT, Table 17-10. -/
def FLT_STAT : Nat := 0x30008
/-- FLT_PEND_LO, Table 17-10. -/
def FLT_PEND_LO : Nat := 0x30010
/-- FLT_PEND_HI, Table 17-10. -/
def FLT_PEND_HI : Nat := 0x30014
/-- FLT_FPEND_LO, Table 17-10. -/
def FLT_FPEND_LO : Nat := 0x30018
/-- FLT_FPEND_HI, Table 17-10. -/
def FLT_FPEND_HI : Nat := 0x3001C
/-- FLT_RECi_SUBJ, Table 17-10. -/
def FLT_RECi_SUBJ (i : Nat) : Nat := 0x31000 + i * 0x40
/-- FLT_RECi_CLS, Table 17-10. -/
def FLT_RECi_CLS (i : Nat) : Nat := 0x31004 + i * 0x40
/-- FLT_RECi_CNT, Table 17-10. -/
def FLT_RECi_CNT (i : Nat) : Nat := 0x31008 + i * 0x40
/-- FLT_RECi_FIRST, Table 17-10. -/
def FLT_RECi_FIRST (i : Nat) : Nat := 0x3100C + i * 0x40
/-- FLT_RECi_LAST, Table 17-10. -/
def FLT_RECi_LAST (i : Nat) : Nat := 0x31010 + i * 0x40
/-- FLT_RECi_MAPk, Table 17-10. -/
def FLT_RECi_MAPk (i k : Nat) : Nat := 0x31020 + i * 0x40 + k * 4
/-- FLT_FLOODc_SUBJ, Table 17-10. -/
def FLT_FLOODc_SUBJ (c : Nat) : Nat := 0x32000 + c * 0x40
/-- FLT_FLOODc_CLS, Table 17-10. -/
def FLT_FLOODc_CLS (c : Nat) : Nat := 0x32004 + c * 0x40
/-- FLT_FLOODc_CNT, Table 17-10. -/
def FLT_FLOODc_CNT (c : Nat) : Nat := 0x32008 + c * 0x40
/-- FLT_FLOODc_FIRST, Table 17-10. -/
def FLT_FLOODc_FIRST (c : Nat) : Nat := 0x3200C + c * 0x40
/-- FLT_FLOODc_LAST, Table 17-10. -/
def FLT_FLOODc_LAST (c : Nat) : Nat := 0x32010 + c * 0x40
/-- FLT_FLOODc_MAPk, Table 17-10. -/
def FLT_FLOODc_MAPk (c k : Nat) : Nat := 0x32020 + c * 0x40 + k * 4
/-- PWR_CTL, Table 13-6. -/
def PWR_CTL : Nat := 0x40000
/-- PWR_CAP, Table 13-7. -/
def PWR_CAP : Nat := 0x40004
/-- PWR_LIMIT, Table 13-8. -/
def PWR_LIMIT : Nat := 0x40008
/-- PWR_STAT, Table 13-9. -/
def PWR_STAT : Nat := 0x4000C
/-- PWR_LEND, Table 13-10. -/
def PWR_LEND : Nat := 0x40010
/-- PWR_LEND_CFG, Table 13-10. -/
def PWR_LEND_CFG : Nat := 0x40014
/-- PWR_EVT, Table 13-11. -/
def PWR_EVT : Nat := 0x40018
/-- PWR_E_PKG, Table 13-13. -/
def PWR_E_PKG : Nat := 0x40020
/-- PWR_E_MEAS, Table 13-13. -/
def PWR_E_MEAS : Nat := 0x40024
/-- PWR_E_JOB_LO, Table 13-13. -/
def PWR_E_JOB_LO : Nat := 0x40028
/-- PWR_E_JOB_HI, Table 13-13. -/
def PWR_E_JOB_HI : Nat := 0x4002C
/-- PWR_ROLE_SEL, Table 13-12. -/
def PWR_ROLE_SEL : Nat := 0x40030
/-- PWR_ROLE_E, Table 13-13. -/
def PWR_ROLE_E : Nat := 0x40034
/-- PWR_E_LNKp, Table 13-13. -/
def PWR_E_LNKp (p : Nat) : Nat := 0x40040 + p * 4
/-- PWR_E_MCm, Table 13-13. -/
def PWR_E_MCm (m : Nat) : Nat := 0x40060 + m * 4
/-- PWR_VFk, Table 13-12. -/
def PWR_VFk (k : Nat) : Nat := 0x40080 + k * 4
/-- THM_CTL, Table 14-3. -/
def THM_CTL : Nat := 0x50000
/-- THM_EVT, Table 14-4. -/
def THM_EVT : Nat := 0x50004
/-- THM_STAT, Table 14-5. -/
def THM_STAT : Nat := 0x50008
/-- THM_HBMm, Table 14-6. -/
def THM_HBMm (m : Nat) : Nat := 0x50020 + m * 4
/-- THM_DIEd, Table 14-7. -/
def THM_DIEd (d : Nat) : Nat := 0x50100 + d * 4
/-- THM_PEAKd, Table 14-7. -/
def THM_PEAKd (d : Nat) : Nat := 0x50200 + d * 4
/-- BWR_CTL, Table 9-4. -/
def BWR_CTL : Nat := 0x60000
/-- BWR_STAT, Table 9-5. -/
def BWR_STAT : Nat := 0x60004
/-- BWR_GSEL, Table 9-6. -/
def BWR_GSEL : Nat := 0x60010
/-- BWR_GVAL, Table 9-7. -/
def BWR_GVAL : Nat := 0x60014
/-- BWR_LASTMISS, Table 9-8. -/
def BWR_LASTMISS : Nat := 0x60018
/-- BWR_Pp_CAP, Table 9-9. -/
def BWR_Pp_CAP (p : Nat) : Nat := 0x60100 + p * 0x20
/-- BWR_Pp_CFG, Table 9-10. -/
def BWR_Pp_CFG (p : Nat) : Nat := 0x60104 + p * 0x20
/-- BWR_Pp_STAT, Table 9-11. -/
def BWR_Pp_STAT (p : Nat) : Nat := 0x60108 + p * 0x20
/-- BWR_Pp_CNT_GMISS, Table 9-12. -/
def BWR_Pp_CNT_GMISS (p : Nat) : Nat := 0x6010C + p * 0x20
/-- BWR_Pp_CNT_DLMISS, Table 9-12. -/
def BWR_Pp_CNT_DLMISS (p : Nat) : Nat := 0x60110 + p * 0x20
/-- BWR_Pp_CNT_DLPAST, Table 9-12. -/
def BWR_Pp_CNT_DLPAST (p : Nat) : Nat := 0x60114 + p * 0x20
/-- BWR_MISSk, Table 9-13. -/
def BWR_MISSk (k : Nat) : Nat := 0x60800 + k * 4
/-- LNKp_CTL, Table 12-11. -/
def LNKp_CTL (p : Nat) : Nat := 0x80000 + p * 0x10000
/-- LNKp_EVT, Table 12-12. -/
def LNKp_EVT (p : Nat) : Nat := 0x80008 + p * 0x10000
/-- LNKp_LSTATk, Table 12-13. -/
def LNKp_LSTATk (p k : Nat) : Nat := 0x80010 + p * 0x10000 + k * 4
/-- LNKp_FEATk, Table 12-14. -/
def LNKp_FEATk (p k : Nat) : Nat := 0x80020 + p * 0x10000 + k * 4
/-- LNKp_PIDk, Table 12-14. -/
def LNKp_PIDk (p k : Nat) : Nat := 0x80030 + p * 0x10000 + k * 4
/-- LNKp_PJOBk, Table 12-14. -/
def LNKp_PJOBk (p k : Nat) : Nat := 0x80040 + p * 0x10000 + k * 4
/-- LNKp_RTTk, Table 12-14. -/
def LNKp_RTTk (p k : Nat) : Nat := 0x80050 + p * 0x10000 + k * 4
/-- LNKp_PSERk_LO, Table 12-15. -/
def LNKp_PSERk_LO (p k : Nat) : Nat := 0x80060 + p * 0x10000 + k * 8
/-- LNKp_PSERk_HI, Table 12-15. -/
def LNKp_PSERk_HI (p k : Nat) : Nat := 0x80064 + p * 0x10000 + k * 8
/-- LNKp_CNT_TXFLIT, Table 12-16. -/
def LNKp_CNT_TXFLIT (p : Nat) : Nat := 0x80100 + p * 0x10000
/-- LNKp_CNT_RXFLIT, Table 12-16. -/
def LNKp_CNT_RXFLIT (p : Nat) : Nat := 0x80104 + p * 0x10000
/-- LNKp_CNT_FECC, Table 12-16. -/
def LNKp_CNT_FECC (p : Nat) : Nat := 0x80108 + p * 0x10000
/-- LNKp_CNT_FECU, Table 12-16. -/
def LNKp_CNT_FECU (p : Nat) : Nat := 0x8010C + p * 0x10000
/-- LNKp_CNT_CRC, Table 12-16. -/
def LNKp_CNT_CRC (p : Nat) : Nat := 0x80110 + p * 0x10000
/-- LNKp_CNT_REPLAY, Table 12-16. -/
def LNKp_CNT_REPLAY (p : Nat) : Nat := 0x80114 + p * 0x10000
/-- LNKp_CNT_DOWN, Table 12-16. -/
def LNKp_CNT_DOWN (p : Nat) : Nat := 0x80118 + p * 0x10000
/-- LNKp_CNT_DISC, Table 12-16. -/
def LNKp_CNT_DISC (p : Nat) : Nat := 0x8011C + p * 0x10000
/-- LNKp_CNT_GENDROP, Table 12-16. -/
def LNKp_CNT_GENDROP (p : Nat) : Nat := 0x80120 + p * 0x10000
/-- LNKp_CNT_HOPDROP, Table 12-16. -/
def LNKp_CNT_HOPDROP (p : Nat) : Nat := 0x80124 + p * 0x10000
/-- LNKp_CNT_NOROUTE, Table 12-16. -/
def LNKp_CNT_NOROUTE (p : Nat) : Nat := 0x80128 + p * 0x10000
/-- LNKp_CNT_STALE, Table 12-16. -/
def LNKp_CNT_STALE (p : Nat) : Nat := 0x8012C + p * 0x10000
/-- LNKp_CNT_BADMSG, Table 12-16. -/
def LNKp_CNT_BADMSG (p : Nat) : Nat := 0x80130 + p * 0x10000
/-- LNK_TSYNC, Table 12-17. -/
def LNK_TSYNC : Nat := 0x80200
/-- LNK_REV, Table 12-18. -/
def LNK_REV : Nat := 0x80204
/-- LNK_FEAT_EN, Table 12-18. -/
def LNK_FEAT_EN : Nat := 0x80208
/-- LNK_LASTNACK_LO, Table 12-19. -/
def LNK_LASTNACK_LO : Nat := 0x80210
/-- LNK_LASTNACK_HI, Table 12-19. -/
def LNK_LASTNACK_HI : Nat := 0x80214
/-- LNK_RTd_LO, Table 12-20. -/
def LNK_RTd_LO (d : Nat) : Nat := 0x88000 + d * 8
/-- LNK_RTd_HI, Table 12-20. -/
def LNK_RTd_HI (d : Nat) : Nat := 0x88004 + d * 8
/-- MCm_STAT, Table 7-10. -/
def MCm_STAT (m : Nat) : Nat := 0x100000 + m * 0x10000
/-- MCm_CNT_RD, Table 7-11. -/
def MCm_CNT_RD (m : Nat) : Nat := 0x100010 + m * 0x10000
/-- MCm_CNT_WR, Table 7-11. -/
def MCm_CNT_WR (m : Nat) : Nat := 0x100014 + m * 0x10000
/-- MCm_CNT_RMW, Table 7-11. -/
def MCm_CNT_RMW (m : Nat) : Nat := 0x100018 + m * 0x10000
/-- MCm_BANK_DIS_LO, Table 10-11. -/
def MCm_BANK_DIS_LO (m : Nat) : Nat := 0x100020 + m * 0x10000
/-- MCm_BANK_DIS_HI, Table 10-11. -/
def MCm_BANK_DIS_HI (m : Nat) : Nat := 0x100024 + m * 0x10000
/-- MCm_CAP, Table 10-12. -/
def MCm_CAP (m : Nat) : Nat := 0x100028 + m * 0x10000
/-- MCm_SCRUB, Table 10-12. -/
def MCm_SCRUB (m : Nat) : Nat := 0x10002C + m * 0x10000
/-- MCm_REMAPi_LO, Table 10-13. -/
def MCm_REMAPi_LO (m i : Nat) : Nat := 0x100100 + m * 0x10000 + i * 8
/-- MCm_REMAPi_HI, Table 10-13. -/
def MCm_REMAPi_HI (m i : Nat) : Nat := 0x100104 + m * 0x10000 + i * 8
/-- ERL_CTL, Table 10-3. -/
def ERL_CTL : Nat := 0x200000
/-- ERL_STAT, Table 10-4. -/
def ERL_STAT : Nat := 0x200004
/-- ERL_WR, Table 10-5. -/
def ERL_WR : Nat := 0x200008
/-- ERL_RD, Table 10-5. -/
def ERL_RD : Nat := 0x20000C
/-- ERL_CNT_CE, Table 10-6. -/
def ERL_CNT_CE : Nat := 0x200010
/-- ERL_CNT_UE, Table 10-6. -/
def ERL_CNT_UE : Nat := 0x200014
/-- ERL_CNT_LOST, Table 10-6. -/
def ERL_CNT_LOST : Nat := 0x200018
/-- CRC_u_CFG, Table 10-14. -/
def CRC_u_CFG (u : Nat) : Nat := 0x300000 + u * 0x1000
/-- CRC_u_POLY_LO, Table 10-14. -/
def CRC_u_POLY_LO (u : Nat) : Nat := 0x300008 + u * 0x1000
/-- CRC_u_POLY_HI, Table 10-14. -/
def CRC_u_POLY_HI (u : Nat) : Nat := 0x30000C + u * 0x1000
/-- CRC_u_INIT_LO, Table 10-14. -/
def CRC_u_INIT_LO (u : Nat) : Nat := 0x300010 + u * 0x1000
/-- CRC_u_INIT_HI, Table 10-14. -/
def CRC_u_INIT_HI (u : Nat) : Nat := 0x300014 + u * 0x1000
/-- CRC_u_XOR_LO, Table 10-14. -/
def CRC_u_XOR_LO (u : Nat) : Nat := 0x300018 + u * 0x1000
/-- CRC_u_XOR_HI, Table 10-14. -/
def CRC_u_XOR_HI (u : Nat) : Nat := 0x30001C + u * 0x1000
/-- CRC_u_STAT, Table 10-14. -/
def CRC_u_STAT (u : Nat) : Nat := 0x300020 + u * 0x1000
/-- STK_CNT_L2Hk, Table 7-13. -/
def STK_CNT_L2Hk (s k : Nat) : Nat := 0x1000100 + s * 0x100000 + k * 4
/-- STK_CNT_L2Mk, Table 7-13. -/
def STK_CNT_L2Mk (s k : Nat) : Nat := 0x1000120 + s * 0x100000 + k * 4
/-- STK_CNT_L2WB, Table 7-13. -/
def STK_CNT_L2WB (s : Nat) : Nat := 0x1000140 + s * 0x100000
/-- STK_CNT_L2DROP, Table 7-13. -/
def STK_CNT_L2DROP (s : Nat) : Nat := 0x1000144 + s * 0x100000
/-- STK_PWR_STAT, Table 13-14. -/
def STK_PWR_STAT (s : Nat) : Nat := 0x1000200 + s * 0x100000
/-- STK_E_TICK, Table 13-13. -/
def STK_E_TICK (s : Nat) : Nat := 0x1000204 + s * 0x100000
/-- STK_CNT_HOLD, Table 13-16. -/
def STK_CNT_HOLD (s : Nat) : Nat := 0x1000208 + s * 0x100000
/-- STK_GEN, Table 17-5. -/
def STK_GEN (s : Nat) : Nat := 0x1000300 + s * 0x100000
/-- STK_CLAIMq_CFG, Table 15-9. -/
def STK_CLAIMq_CFG (s q : Nat) : Nat := 0x1000400 + s * 0x100000 + q * 0x20
/-- STK_CLAIMq_CORES, Table 15-9. -/
def STK_CLAIMq_CORES (s q : Nat) : Nat := 0x1000404 + s * 0x100000 + q * 0x20
/-- STK_CLAIMq_BASE_LO, Table 15-9. -/
def STK_CLAIMq_BASE_LO (s q : Nat) : Nat := 0x1000408 + s * 0x100000 + q * 0x20
/-- STK_CLAIMq_BASE_HI, Table 15-9. -/
def STK_CLAIMq_BASE_HI (s q : Nat) : Nat := 0x100040C + s * 0x100000 + q * 0x20
/-- STK_CLAIMq_TAKE, Table 15-9. -/
def STK_CLAIMq_TAKE (s q : Nat) : Nat := 0x1000410 + s * 0x100000 + q * 0x20
/-- STK_CLAIMq_STAT, Table 15-9. -/
def STK_CLAIMq_STAT (s q : Nat) : Nat := 0x1000414 + s * 0x100000 + q * 0x20
/-- STK_SE_CFG, Table 8-7. -/
def STK_SE_CFG (s : Nat) : Nat := 0x1010000 + s * 0x100000
/-- STK_SE_IRQ_DONE, Table 8-8. -/
def STK_SE_IRQ_DONE (s : Nat) : Nat := 0x1010004 + s * 0x100000
/-- STK_SE_IRQ_HALT, Table 8-8. -/
def STK_SE_IRQ_HALT (s : Nat) : Nat := 0x1010008 + s * 0x100000
/-- STK_SE_GLINT_LO, Table 15-8. -/
def STK_SE_GLINT_LO (s : Nat) : Nat := 0x1010010 + s * 0x100000
/-- STK_SE_GLINT_HI, Table 15-8. -/
def STK_SE_GLINT_HI (s : Nat) : Nat := 0x1010014 + s * 0x100000
/-- STK_SE_CHn_CTL, Table 8-9. -/
def STK_SE_CHn_CTL (s n : Nat) : Nat := 0x1010100 + s * 0x100000 + n * 0x40
/-- STK_SE_CHn_TIMER, Table 8-10. -/
def STK_SE_CHn_TIMER (s n : Nat) : Nat := 0x1010104 + s * 0x100000 + n * 0x40
/-- STK_SE_CHn_HEAD_LO, Table 8-11. -/
def STK_SE_CHn_HEAD_LO (s n : Nat) : Nat := 0x1010108 + s * 0x100000 + n * 0x40
/-- STK_SE_CHn_HEAD_HI, Table 8-11. -/
def STK_SE_CHn_HEAD_HI (s n : Nat) : Nat := 0x101010C + s * 0x100000 + n * 0x40
/-- STK_SE_CHn_CUR_LO, Table 8-11. -/
def STK_SE_CHn_CUR_LO (s n : Nat) : Nat := 0x1010110 + s * 0x100000 + n * 0x40
/-- STK_SE_CHn_CUR_HI, Table 8-11. -/
def STK_SE_CHn_CUR_HI (s n : Nat) : Nat := 0x1010114 + s * 0x100000 + n * 0x40
/-- STK_SE_CHn_BUDGET, Table 8-12. -/
def STK_SE_CHn_BUDGET (s n : Nat) : Nat := 0x1010118 + s * 0x100000 + n * 0x40
/-- STK_SE_CHn_DB, Table 8-13. -/
def STK_SE_CHn_DB (s n : Nat) : Nat := 0x101011C + s * 0x100000 + n * 0x40
/-- STK_SE_CHn_STAT, Table 8-14. -/
def STK_SE_CHn_STAT (s n : Nat) : Nat := 0x1010120 + s * 0x100000 + n * 0x40
/-- STK_SE_CHn_EPOCH, Table 8-15. -/
def STK_SE_CHn_EPOCH (s n : Nat) : Nat := 0x1010124 + s * 0x100000 + n * 0x40
/-- STK_SE_CHn_BYTES, Table 8-16. -/
def STK_SE_CHn_BYTES (s n : Nat) : Nat := 0x1010128 + s * 0x100000 + n * 0x40
/-- STK_SE_CHn_RSV, Table 8-17. -/
def STK_SE_CHn_RSV (s n : Nat) : Nat := 0x101012C + s * 0x100000 + n * 0x40
/-- STK_SE_CHn_CNT_DESC, Table 8-18. -/
def STK_SE_CHn_CNT_DESC (s n : Nat) : Nat := 0x1010130 + s * 0x100000 + n * 0x40
/-- STK_SE_CHn_CNT_ACT, Table 8-18. -/
def STK_SE_CHn_CNT_ACT (s n : Nat) : Nat := 0x1010134 + s * 0x100000 + n * 0x40
/-- STK_SE_CHn_CNT_BYTES_LO, Table 8-18. -/
def STK_SE_CHn_CNT_BYTES_LO (s n : Nat) : Nat := 0x1010138 + s * 0x100000 + n * 0x40
/-- STK_SE_CHn_CNT_BYTES_HI, Table 8-18. -/
def STK_SE_CHn_CNT_BYTES_HI (s n : Nat) : Nat := 0x101013C + s * 0x100000 + n * 0x40
/-- STK_MERE_SPLIT, Table 7-3. -/
def STK_MERE_SPLIT (s : Nat) : Nat := 0x1020000 + s * 0x100000
/-- STK_L2_CAP, Table 7-6. -/
def STK_L2_CAP (s : Nat) : Nat := 0x1020004 + s * 0x100000
/-- STK_MERE_GRET_CNT, Table 10-7. -/
def STK_MERE_GRET_CNT (s : Nat) : Nat := 0x1020008 + s * 0x100000
/-- STK_MERE_CAP, Table 11-9. -/
def STK_MERE_CAP (s : Nat) : Nat := 0x102000C + s * 0x100000
/-- STK_MERE_SCRUB, Table 10-8. -/
def STK_MERE_SCRUB (s : Nat) : Nat := 0x1020010 + s * 0x100000
/-- STK_MERE_CHK_ADDR, Table 10-9. -/
def STK_MERE_CHK_ADDR (s : Nat) : Nat := 0x1020020 + s * 0x100000
/-- STK_MERE_CHK_DATA_LO, Table 10-9. -/
def STK_MERE_CHK_DATA_LO (s : Nat) : Nat := 0x1020024 + s * 0x100000
/-- STK_MERE_CHK_DATA_HI, Table 10-9. -/
def STK_MERE_CHK_DATA_HI (s : Nat) : Nat := 0x1020028 + s * 0x100000
/-- STK_MERE_CHK_CHECK, Table 10-9. -/
def STK_MERE_CHK_CHECK (s : Nat) : Nat := 0x102002C + s * 0x100000
/-- STK_MERE_CHK_CTL, Table 10-9. -/
def STK_MERE_CHK_CTL (s : Nat) : Nat := 0x1020030 + s * 0x100000
/-- STK_MERE_PORT_STATc, Table 11-10. -/
def STK_MERE_PORT_STATc (s c : Nat) : Nat := 0x1020040 + s * 0x100000 + c * 4
/-- STK_MERE_GRETi, Table 10-10. -/
def STK_MERE_GRETi (s i : Nat) : Nat := 0x1020100 + s * 0x100000 + i * 4
/-- STK_BOND_CFG, Table 11-4. -/
def STK_BOND_CFG (s : Nat) : Nat := 0x1030000 + s * 0x100000
/-- STK_BOND_STAT, Table 11-5. -/
def STK_BOND_STAT (s : Nat) : Nat := 0x1030004 + s * 0x100000
/-- STK_BOND_LB, Table 11-6. -/
def STK_BOND_LB (s : Nat) : Nat := 0x1030008 + s * 0x100000
/-- STK_BOND_CTRL, Table 11-7. -/
def STK_BOND_CTRL (s : Nat) : Nat := 0x103000C + s * 0x100000
/-- STK_BOND_DEADi, Table 11-8. -/
def STK_BOND_DEADi (s i : Nat) : Nat := 0x1030100 + s * 0x100000 + i * 4
/-- CORE_CTL, Table 3-8. -/
def CORE_CTL (s c : Nat) : Nat := 0x1040000 + s * 0x100000 + c * 0x1000
/-- CORE_STAT, Table 3-9. -/
def CORE_STAT (s c : Nat) : Nat := 0x1040004 + s * 0x100000 + c * 0x1000
/-- CORE_TRAP_LO, Table 3-10. -/
def CORE_TRAP_LO (s c : Nat) : Nat := 0x1040010 + s * 0x100000 + c * 0x1000
/-- CORE_TRAP_HI, Table 3-10. -/
def CORE_TRAP_HI (s c : Nat) : Nat := 0x1040014 + s * 0x100000 + c * 0x1000
/-- CORE_CNT_ISSUE, Table 3-14. -/
def CORE_CNT_ISSUE (s c : Nat) : Nat := 0x1040020 + s * 0x100000 + c * 0x1000
/-- CORE_CNT_DUAL, Table 3-14. -/
def CORE_CNT_DUAL (s c : Nat) : Nat := 0x1040024 + s * 0x100000 + c * 0x1000
/-- CORE_CNT_IDLE, Table 3-14. -/
def CORE_CNT_IDLE (s c : Nat) : Nat := 0x1040028 + s * 0x100000 + c * 0x1000
/-- CORE_CNT_QSTALL, Table 3-14. -/
def CORE_CNT_QSTALL (s c : Nat) : Nat := 0x104002C + s * 0x100000 + c * 0x1000
/-- CORE_CNT_TSTALL, Table 3-14. -/
def CORE_CNT_TSTALL (s c : Nat) : Nat := 0x1040030 + s * 0x100000 + c * 0x1000
/-- CORE_CNT_IMISS, Table 4-21. -/
def CORE_CNT_IMISS (s c : Nat) : Nat := 0x1040034 + s * 0x100000 + c * 0x1000
/-- CORE_CNT_OVF, Table 5-8. -/
def CORE_CNT_OVF (s c : Nat) : Nat := 0x1040038 + s * 0x100000 + c * 0x1000
/-- CORE_Gg_ENTRY, Table 3-11. -/
def CORE_Gg_ENTRY (s c g : Nat) : Nat := 0x1040100 + s * 0x100000 + c * 0x1000 + g * 0x10
/-- CORE_Gg_CTL, Table 3-12. -/
def CORE_Gg_CTL (s c g : Nat) : Nat := 0x1040104 + s * 0x100000 + c * 0x1000 + g * 0x10
/-- CORE_Gg_QBIND, Table 3-13. -/
def CORE_Gg_QBIND (s c g : Nat) : Nat := 0x1040108 + s * 0x100000 + c * 0x1000 + g * 0x10
/-- CORE_IC_CTL, Table 4-17. -/
def CORE_IC_CTL (s c : Nat) : Nat := 0x1040200 + s * 0x100000 + c * 0x1000
/-- CORE_IC_PL_ADDR, Table 4-18. -/
def CORE_IC_PL_ADDR (s c : Nat) : Nat := 0x1040204 + s * 0x100000 + c * 0x1000
/-- CORE_IC_PL_LEN, Table 4-19. -/
def CORE_IC_PL_LEN (s c : Nat) : Nat := 0x1040208 + s * 0x100000 + c * 0x1000
/-- CORE_IC_STAT, Table 4-20. -/
def CORE_IC_STAT (s c : Nat) : Nat := 0x104020C + s * 0x100000 + c * 0x1000
/-- CORE_NUM_CTL, Table 5-5. -/
def CORE_NUM_CTL (s c : Nat) : Nat := 0x1040300 + s * 0x100000 + c * 0x1000
/-- CORE_SR_SEED, Table 5-10. -/
def CORE_SR_SEED (s c : Nat) : Nat := 0x1040304 + s * 0x100000 + c * 0x1000
/-- CORE_TNS_CTL, Table 6-7. -/
def CORE_TNS_CTL (s c : Nat) : Nat := 0x1040400 + s * 0x100000 + c * 0x1000
/-- CORE_TNS_STAT, Table 6-8. -/
def CORE_TNS_STAT (s c : Nat) : Nat := 0x1040404 + s * 0x100000 + c * 0x1000
/-- CORE_TNS_QOCC_A, Table 6-9. -/
def CORE_TNS_QOCC_A (s c : Nat) : Nat := 0x1040408 + s * 0x100000 + c * 0x1000
/-- CORE_TNS_QOCC_B, Table 6-9. -/
def CORE_TNS_QOCC_B (s c : Nat) : Nat := 0x104040C + s * 0x100000 + c * 0x1000
/-- CORE_TNS_QOCC_D, Table 6-9. -/
def CORE_TNS_QOCC_D (s c : Nat) : Nat := 0x1040410 + s * 0x100000 + c * 0x1000
/-- CORE_CNT_TROW, Table 6-10. -/
def CORE_CNT_TROW (s c : Nat) : Nat := 0x1040420 + s * 0x100000 + c * 0x1000
/-- CORE_CNT_TACT, Table 6-10. -/
def CORE_CNT_TACT (s c : Nat) : Nat := 0x1040424 + s * 0x100000 + c * 0x1000
/-- CORE_CNT_TRAMP, Table 6-10. -/
def CORE_CNT_TRAMP (s c : Nat) : Nat := 0x1040428 + s * 0x100000 + c * 0x1000
/-- CORE_CNT_TDSTALL, Table 6-10. -/
def CORE_CNT_TDSTALL (s c : Nat) : Nat := 0x104042C + s * 0x100000 + c * 0x1000
/-- CORE_CNT_L1Hk, Table 7-12. -/
def CORE_CNT_L1Hk (s c k : Nat) : Nat := 0x1040440 + s * 0x100000 + c * 0x1000 + k * 4
/-- CORE_CNT_L1Mk, Table 7-12. -/
def CORE_CNT_L1Mk (s c k : Nat) : Nat := 0x1040460 + s * 0x100000 + c * 0x1000 + k * 4
/-- CORE_CNT_MRFULL, Table 7-12. -/
def CORE_CNT_MRFULL (s c : Nat) : Nat := 0x1040480 + s * 0x100000 + c * 0x1000
/-- CORE_MEM_CFG, Table 7-2. -/
def CORE_MEM_CFG (s c : Nat) : Nat := 0x1040500 + s * 0x100000 + c * 0x1000
/-- CORE_PWR_CTL, Table 13-15. -/
def CORE_PWR_CTL (s c : Nat) : Nat := 0x1040600 + s * 0x100000 + c * 0x1000
/-- CORE_E_TICK, Table 13-13. -/
def CORE_E_TICK (s c : Nat) : Nat := 0x1040604 + s * 0x100000 + c * 0x1000
/-- CORE_CNT_CLAMP, Table 13-16. -/
def CORE_CNT_CLAMP (s c : Nat) : Nat := 0x1040608 + s * 0x100000 + c * 0x1000
/-- CORE_CNT_STRETCH, Table 13-16. -/
def CORE_CNT_STRETCH (s c : Nat) : Nat := 0x104060C + s * 0x100000 + c * 0x1000
/-- CORE_GLINT_SEL, Table 15-6. -/
def CORE_GLINT_SEL (s c : Nat) : Nat := 0x1040700 + s * 0x100000 + c * 0x1000
/-- CORE_GLINT_BASE, Table 15-6. -/
def CORE_GLINT_BASE (s c : Nat) : Nat := 0x1040704 + s * 0x100000 + c * 0x1000
/-- CORE_STOP_CTL, Table 15-7. -/
def CORE_STOP_CTL (s c : Nat) : Nat := 0x1040710 + s * 0x100000 + c * 0x1000
/-- CORE_STOP_CNT, Table 15-7. -/
def CORE_STOP_CNT (s c : Nat) : Nat := 0x1040714 + s * 0x100000 + c * 0x1000
/-- CORE_STOP_PC_LO, Table 15-7. -/
def CORE_STOP_PC_LO (s c : Nat) : Nat := 0x1040718 + s * 0x100000 + c * 0x1000
/-- CORE_STOP_PC_HI, Table 15-7. -/
def CORE_STOP_PC_HI (s c : Nat) : Nat := 0x104071C + s * 0x100000 + c * 0x1000
/-- CORE_GLINTk_LO, Table 15-8. -/
def CORE_GLINTk_LO (s c k : Nat) : Nat := 0x1040740 + s * 0x100000 + c * 0x1000 + k * 8
/-- CORE_GLINTk_HI, Table 15-8. -/
def CORE_GLINTk_HI (s c k : Nat) : Nat := 0x1040744 + s * 0x100000 + c * 0x1000 + k * 8
/-- CORE_GLINT_STOPk_LO, Table 15-8. -/
def CORE_GLINT_STOPk_LO (s c k : Nat) : Nat := 0x10407C0 + s * 0x100000 + c * 0x1000 + k * 8
/-- CORE_GLINT_STOPk_HI, Table 15-8. -/
def CORE_GLINT_STOPk_HI (s c k : Nat) : Nat := 0x10407C4 + s * 0x100000 + c * 0x1000 + k * 8
/-- CORE_GEN, Table 17-5. -/
def CORE_GEN (s c : Nat) : Nat := 0x1040900 + s * 0x100000 + c * 0x1000

end Reg

/-! ### Fields -/

namespace F

def GCTL_ID.RCLASS : Fld := ⟨0, 12⟩
def GCTL_ID.GRADE : Fld := ⟨12, 1⟩
def GCTL_ID.STEPPING : Fld := ⟨16, 4⟩
def GCTL_ID.PART : Fld := ⟨20, 12⟩
def GCTL_MODE.EXACT : Fld := ⟨0, 1⟩
def GCTL_MODE.OVF : Fld := ⟨1, 1⟩
def GCTL_MODE.SR_EN : Fld := ⟨2, 1⟩
def GCTL_MODE.PAIR : Fld := ⟨3, 1⟩
def GCTL_LOCK.LOCK : Fld := ⟨0, 1⟩
def GCTL_LOCK.START_IGN : Fld := ⟨1, 1⟩
def GCTL_PKG_ID.PKG_ID : Fld := ⟨0, 12⟩
def GCTL_PKG_ID.SET : Fld := ⟨16, 1⟩
def GCTL_DECODE_ERR_LO.ADDR_LO : Fld := ⟨0, 32⟩
def GCTL_DECODE_ERR_HI.ADDR_HI : Fld := ⟨0, 8⟩
def GCTL_DECODE_ERR_HI.KIND : Fld := ⟨8, 4⟩
def GCTL_DECODE_ERR_HI.MASTER : Fld := ⟨12, 3⟩
def GCTL_DECODE_ERR_HI.STACK : Fld := ⟨15, 5⟩
def GCTL_DECODE_ERR_HI.CORE : Fld := ⟨20, 4⟩
def GCTL_DECODE_ERR_HI.MORE : Fld := ⟨24, 7⟩
def GCTL_DECODE_ERR_HI.VALID : Fld := ⟨31, 1⟩
def GCTL_BOOT.STAGE : Fld := ⟨0, 4⟩
def GCTL_BOOT.LAST_RST : Fld := ⟨4, 2⟩
def GCTL_BOOT.SLOT : Fld := ⟨6, 1⟩
def GCTL_BOOT.PCIE_IMG : Fld := ⟨7, 1⟩
def GCTL_BOOT.DEGRADED : Fld := ⟨8, 1⟩
def GCTL_BOOT.AUTO : Fld := ⟨9, 1⟩
def GCTL_BOOT.ERR_A : Fld := ⟨16, 4⟩
def GCTL_BOOT.ERR_B : Fld := ⟨20, 4⟩
def GCTL_BOOT.FAIL : Fld := ⟨24, 4⟩
def GCTL_RST.WARM : Fld := ⟨0, 1⟩
def GCTL_RST.COMPUTE : Fld := ⟨1, 1⟩
def GCTL_RST.KEY : Fld := ⟨16, 16⟩
def GCTL_EXCL.STACKS : Fld := ⟨0, 24⟩
def GCTL_EXCL.HBM : Fld := ⟨24, 8⟩
def GCTL_CORE_EXCLk.CORES : Fld := ⟨0, 32⟩
def GCTL_GEN.GEN : Fld := ⟨0, 16⟩
def GCTL_ROLE_SEL.ROLE : Fld := ⟨0, 16⟩
def GCTL_ROLE_SEL.BANK : Fld := ⟨16, 1⟩
def GCTL_ROLE_VAL.PKG : Fld := ⟨0, 12⟩
def GCTL_ROLE_VAL.KIND : Fld := ⟨12, 2⟩
def GCTL_ROLE_VAL.INDEX : Fld := ⟨14, 10⟩
def GCTL_ROLE_VAL.VALID : Fld := ⟨31, 1⟩
def GCTL_ROLE_CMT_LO.BND_LO : Fld := ⟨0, 32⟩
def GCTL_ROLE_CMT_HI.BND_HI : Fld := ⟨0, 16⟩
def GCTL_ROLE_CMT_HI.EPOCH : Fld := ⟨16, 16⟩
def GCTL_ROLE_STAT.EPOCH : Fld := ⟨0, 16⟩
def GCTL_ROLE_STAT.PEND : Fld := ⟨16, 1⟩
def GCTL_ROLE_STAT.LATE : Fld := ⟨17, 1⟩
def GCTL_ROLE_STAT.IGN : Fld := ⟨18, 1⟩
def GCTL_MEMB_SEL.INDEX : Fld := ⟨0, 8⟩
def GCTL_MEMB_VAL_LO.PKG : Fld := ⟨0, 12⟩
def GCTL_MEMB_VAL_LO.RCLASS : Fld := ⟨12, 12⟩
def GCTL_MEMB_VAL_LO.VALID : Fld := ⟨31, 1⟩
def GCTL_MEMB_VAL_HI.GEN : Fld := ⟨0, 16⟩
def GCTL_MEMB_VAL_HI.FEAT : Fld := ⟨16, 6⟩
def GCTL_MEMB_STAT.SELF : Fld := ⟨0, 8⟩
def GCTL_MEMB_STAT.FOUND : Fld := ⟨8, 1⟩
def GCTL_MEMB_STAT.REASON : Fld := ⟨9, 3⟩
def GCTL_MEMB_STAT.IGN : Fld := ⟨12, 1⟩
def GCTL_JOBFEAT.FEAT : Fld := ⟨0, 6⟩
def GCTL_ACC_ERR_LO.OFFSET : Fld := ⟨0, 26⟩
def GCTL_ACC_ERR_HI.KIND : Fld := ⟨0, 4⟩
def GCTL_ACC_ERR_HI.PATH : Fld := ⟨4, 3⟩
def GCTL_ACC_ERR_HI.MORE : Fld := ⟨7, 7⟩
def GCTL_ACC_ERR_HI.VALID : Fld := ⟨31, 1⟩
def GCTL_HWINw.BASE : Fld := ⟨0, 10⟩
def GCTL_HWINw.EN : Fld := ⟨31, 1⟩
def GCTL_INT_STAT.COND : Fld := ⟨0, 32⟩
def GCTL_CLK_STAT.SRDS_LOST : Fld := ⟨0, 1⟩
def GCTL_CLK_STAT.PCIE_LOST : Fld := ⟨1, 1⟩
def GCTL_CLK_STAT.SRDS_SEEN : Fld := ⟨8, 1⟩
def GCTL_CLK_STAT.PCIE_SEEN : Fld := ⟨9, 1⟩
def MSPI_STAT.FRAME_ERR : Fld := ⟨0, 1⟩
def MSPI_STAT.OP_ERR : Fld := ⟨1, 1⟩
def MSPI_STAT.RD_LATE : Fld := ⟨2, 1⟩
def MSPI_STAT.RANGE_ERR : Fld := ⟨3, 1⟩
def MSPI_STAT.FRAMES : Fld := ⟨8, 8⟩
def MSMB_CFG.ADDR : Fld := ⟨0, 7⟩
def MSMB_CFG.PEC_EN : Fld := ⟨7, 1⟩
def MSMB_STAT.PROTO_ERR : Fld := ⟨0, 1⟩
def MSMB_STAT.PEC_ERR : Fld := ⟨1, 1⟩
def MSMB_STAT.I3C : Fld := ⟨2, 1⟩
def TICK_CTL.START : Fld := ⟨0, 1⟩
def TICK_CTL.STOP : Fld := ⟨1, 1⟩
def TICK_CTL.ROOT : Fld := ⟨2, 1⟩
def TICK_CTL.OUT_EN : Fld := ⟨3, 1⟩
def TICK_CTL.IN_EN : Fld := ⟨4, 1⟩
def TICK_CTL.OVR_INT_EN : Fld := ⟨5, 1⟩
def TICK_CTL.CNT_CLR : Fld := ⟨6, 1⟩
def TICK_PERIOD.UNITS : Fld := ⟨0, 21⟩
def TICK_PERIOD.PENDING : Fld := ⟨31, 1⟩
def TICK_REL_LAT.UNITS : Fld := ⟨0, 13⟩
def TICK_STAT.STATE : Fld := ⟨0, 2⟩
def TICK_STAT.OVERRUN : Fld := ⟨2, 1⟩
def TICK_STAT.WAITING : Fld := ⟨3, 1⟩
def TICK_STAT.OVR_SEEN : Fld := ⟨8, 1⟩
def TICK_STAT.LATE_SEEN : Fld := ⟨9, 1⟩
def TICK_STAT.FAULT : Fld := ⟨10, 1⟩
def TICK_STAT.INVALID : Fld := ⟨11, 1⟩
def TICK_STAT.ALIGN_ERR : Fld := ⟨12, 1⟩
def TICK_STAT.PERIOD_ERR : Fld := ⟨13, 1⟩
def TICK_STAT.RELEASE_LOST : Fld := ⟨14, 1⟩
def TICK_INDEX_LO.INDEX_LO : Fld := ⟨0, 32⟩
def TICK_INDEX_HI.INDEX_HI : Fld := ⟨0, 32⟩
def TICK_LAST.DELAY : Fld := ⟨0, 24⟩
def TICK_BND.CYCLES : Fld := ⟨0, 16⟩
def TICK_OVR_CNT.COUNT : Fld := ⟨0, 32⟩
def TICK_LATE_CNT.COUNT : Fld := ⟨0, 32⟩
def TICK_SYNC.OFFSET : Fld := ⟨0, 16⟩
def TICK_SNAP_CTL.FREEZE_HOST : Fld := ⟨0, 1⟩
def TICK_SNAP_CTL.FREEZE_MGMT : Fld := ⟨1, 1⟩
def TICK_SNAP_CTL.MISSED_HOST : Fld := ⟨8, 8⟩
def TICK_SNAP_CTL.MISSED_MGMT : Fld := ⟨16, 8⟩
def TICK_STOP_AT_LO.INDEX_LO : Fld := ⟨0, 32⟩
def TICK_STOP_AT_HI.INDEX_HI : Fld := ⟨0, 32⟩
def TICK_STOP_CTL.END_EN : Fld := ⟨0, 1⟩
def TICK_STOP_CTL.IN_EN : Fld := ⟨1, 1⟩
def TICK_ROOT_ID.PKG : Fld := ⟨0, 12⟩
def SVC_MB_CMD.CMD : Fld := ⟨0, 8⟩
def SVC_MB_STAT.BUSY : Fld := ⟨0, 1⟩
def SVC_MB_STAT.DONE : Fld := ⟨1, 1⟩
def SVC_MB_STAT.ERR : Fld := ⟨2, 1⟩
def SVC_MB_STAT.RESULT : Fld := ⟨8, 8⟩
def SVC_EVT.NBR : Fld := ⟨0, 1⟩
def SVC_EVT.READY : Fld := ⟨1, 1⟩
def SVC_EVT.JOB_FAIL : Fld := ⟨2, 1⟩
def SVC_EVT.REC_FAIL : Fld := ⟨3, 1⟩
def SVC_CTL.IE : Fld := ⟨0, 1⟩
def SVC_MB_ARGk.ARG : Fld := ⟨0, 32⟩
def FLT_CTL.IE : Fld := ⟨0, 1⟩
def FLT_CTL.PIN_EN : Fld := ⟨1, 1⟩
def FLT_CFG.WINDOW : Fld := ⟨0, 8⟩
def FLT_CFG.COLL_EN : Fld := ⟨8, 1⟩
def FLT_CFG.COLLECTOR : Fld := ⟨20, 12⟩
def FLT_STAT.FLOOD : Fld := ⟨0, 1⟩
def FLT_STAT.FWD_DROP : Fld := ⟨1, 1⟩
def FLT_STAT.FWD_FAIL : Fld := ⟨2, 1⟩
def FLT_PEND_LO.P_LO : Fld := ⟨0, 32⟩
def FLT_PEND_HI.P_HI : Fld := ⟨0, 32⟩
def FLT_FPEND_LO.F_LO : Fld := ⟨0, 32⟩
def FLT_FPEND_HI.F_HI : Fld := ⟨0, 32⟩
def FLT_RECi_SUBJ.SUBJ : Fld := ⟨0, 32⟩
def FLT_RECi_CLS.CLASS : Fld := ⟨0, 8⟩
def FLT_RECi_CLS.DETAIL : Fld := ⟨8, 8⟩
def FLT_RECi_CLS.OUTSIDE : Fld := ⟨16, 1⟩
def FLT_RECi_CLS.FWD_SUPP : Fld := ⟨17, 1⟩
def FLT_RECi_CLS.FORWARDED : Fld := ⟨18, 1⟩
def FLT_RECi_CLS.VALID : Fld := ⟨31, 1⟩
def FLT_RECi_CNT.COUNT : Fld := ⟨0, 16⟩
def FLT_RECi_CNT.WINDOWS : Fld := ⟨16, 16⟩
def FLT_RECi_FIRST.TICK : Fld := ⟨0, 32⟩
def FLT_RECi_LAST.TICK : Fld := ⟨0, 32⟩
def FLT_RECi_MAPk.MAP : Fld := ⟨0, 32⟩
def PWR_CTL.LEND_EN : Fld := ⟨0, 1⟩
def PWR_CTL.PREDICT : Fld := ⟨1, 1⟩
def PWR_CTL.ORDER : Fld := ⟨2, 6⟩
def PWR_CTL.STEP_MIN : Fld := ⟨8, 3⟩
def PWR_CTL.IE : Fld := ⟨11, 1⟩
def PWR_CAP.CAP : Fld := ⟨0, 12⟩
def PWR_LIMIT.LIMIT : Fld := ⟨0, 12⟩
def PWR_LIMIT.FLOOR : Fld := ⟨16, 12⟩
def PWR_STAT.STEP : Fld := ⟨0, 3⟩
def PWR_STAT.BIND : Fld := ⟨3, 3⟩
def PWR_STAT.CAP_EFF : Fld := ⟨6, 12⟩
def PWR_LEND.DELTA : Fld := ⟨0, 16⟩
def PWR_LEND.SLACK : Fld := ⟨16, 16⟩
def PWR_LEND_CFG.QUANTUM : Fld := ⟨0, 8⟩
def PWR_LEND_CFG.LO : Fld := ⟨8, 8⟩
def PWR_LEND_CFG.HI : Fld := ⟨16, 8⟩
def PWR_EVT.IGN : Fld := ⟨0, 1⟩
def PWR_EVT.LATE : Fld := ⟨1, 1⟩
def PWR_EVT.HOLD : Fld := ⟨2, 1⟩
def PWR_EVT.NACK : Fld := ⟨3, 1⟩
def PWR_E_PKG.UJ : Fld := ⟨0, 32⟩
def PWR_E_MEAS.UJ : Fld := ⟨0, 32⟩
def PWR_E_JOB_LO.UJ_LO : Fld := ⟨0, 32⟩
def PWR_E_JOB_HI.UJ_HI : Fld := ⟨0, 32⟩
def PWR_ROLE_SEL.ROLE : Fld := ⟨0, 16⟩
def PWR_ROLE_E.UJ : Fld := ⟨0, 32⟩
def PWR_E_LNKp.UJ : Fld := ⟨0, 32⟩
def PWR_E_MCm.UJ : Fld := ⟨0, 32⟩
def PWR_VFk.MV : Fld := ⟨0, 10⟩
def THM_CTL.IE : Fld := ⟨0, 1⟩
def THM_CTL.SHADE_FLOOR : Fld := ⟨1, 3⟩
def THM_EVT.WARN : Fld := ⟨0, 1⟩
def THM_EVT.THROTTLE : Fld := ⟨1, 1⟩
def THM_EVT.BROKEN : Fld := ⟨2, 1⟩
def THM_EVT.HBM_FAIL : Fld := ⟨3, 1⟩
def THM_STAT.HOT : Fld := ⟨0, 11⟩
def THM_STAT.WARN : Fld := ⟨11, 1⟩
def THM_STAT.THROTTLE : Fld := ⟨12, 1⟩
def THM_STAT.FAST : Fld := ⟨13, 1⟩
def THM_HBMm.HD : Fld := ⟨0, 3⟩
def THM_HBMm.H : Fld := ⟨3, 3⟩
def THM_HBMm.H_BND : Fld := ⟨6, 3⟩
def THM_HBMm.READ_FAIL : Fld := ⟨9, 1⟩
def THM_HBMm.WARN : Fld := ⟨10, 1⟩
def THM_DIEd.TEMP : Fld := ⟨0, 11⟩
def THM_DIEd.BROKEN : Fld := ⟨11, 7⟩
def THM_DIEd.DIODE_BAD : Fld := ⟨18, 1⟩
def THM_DIEd.FAST : Fld := ⟨19, 1⟩
def THM_DIEd.LEVEL : Fld := ⟨20, 3⟩
def THM_DIEd.WARN : Fld := ⟨23, 1⟩
def THM_PEAKd.PEAK : Fld := ⟨0, 11⟩
def BWR_CTL.MISS_IE : Fld := ⟨0, 1⟩
def BWR_STAT.ADMIT_DENIED : Fld := ⟨0, 1⟩
def BWR_STAT.SCALED : Fld := ⟨1, 1⟩
def BWR_STAT.DENY_REASON : Fld := ⟨8, 3⟩
def BWR_STAT.DENY_POINT : Fld := ⟨16, 6⟩
def BWR_GSEL.MASTER : Fld := ⟨0, 11⟩
def BWR_GSEL.POINT : Fld := ⟨16, 6⟩
def BWR_GVAL.UNITS : Fld := ⟨0, 11⟩
def BWR_LASTMISS.MASTER : Fld := ⟨0, 11⟩
def BWR_LASTMISS.POINT : Fld := ⟨11, 6⟩
def BWR_LASTMISS.KIND : Fld := ⟨17, 1⟩
def BWR_LASTMISS.VALID : Fld := ⟨31, 1⟩
def BWR_Pp_CAP.CAP : Fld := ⟨0, 16⟩
def BWR_Pp_CAP.E : Fld := ⟨16, 16⟩
def BWR_Pp_CFG.LEVEL : Fld := ⟨0, 9⟩
def BWR_Pp_STAT.SUM : Fld := ⟨0, 11⟩
def BWR_Pp_STAT.SCALED : Fld := ⟨11, 1⟩
def BWR_Pp_STAT.SHARE : Fld := ⟨16, 11⟩
def BWR_Pp_CNT_GMISS.COUNT : Fld := ⟨0, 32⟩
def BWR_Pp_CNT_DLMISS.COUNT : Fld := ⟨0, 32⟩
def BWR_Pp_CNT_DLPAST.COUNT : Fld := ⟨0, 32⟩
def BWR_MISSk.MISS : Fld := ⟨0, 32⟩
def LNKp_CTL.ENABLE : Fld := ⟨0, 1⟩
def LNKp_CTL.SPLIT : Fld := ⟨1, 2⟩
def LNKp_CTL.DEGRADE_EN : Fld := ⟨3, 1⟩
def LNKp_CTL.RETRAIN : Fld := ⟨4, 1⟩
def LNKp_CTL.IE : Fld := ⟨5, 1⟩
def LNKp_EVT.UP : Fld := ⟨0, 4⟩
def LNKp_EVT.DOWN : Fld := ⟨4, 4⟩
def LNKp_EVT.INCOMPAT : Fld := ⟨8, 4⟩
def LNKp_EVT.IDCHG : Fld := ⟨12, 4⟩
def LNKp_EVT.SPLIT_ERR : Fld := ⟨16, 1⟩
def LNKp_LSTATk.STATE : Fld := ⟨0, 4⟩
def LNKp_LSTATk.LANES : Fld := ⟨4, 5⟩
def LNKp_LSTATk.REV : Fld := ⟨16, 8⟩
def LNKp_FEATk.FEAT : Fld := ⟨0, 32⟩
def LNKp_PIDk.PKG : Fld := ⟨0, 12⟩
def LNKp_PIDk.GEN : Fld := ⟨16, 16⟩
def LNKp_PJOBk.JOBGRP : Fld := ⟨0, 16⟩
def LNKp_PJOBk.RCLASS : Fld := ⟨16, 16⟩
def LNKp_RTTk.RTT : Fld := ⟨0, 16⟩
def LNKp_PSERk_LO.SER_LO : Fld := ⟨0, 32⟩
def LNKp_PSERk_HI.SER_HI : Fld := ⟨0, 32⟩
def LNKp_CNT_TXFLIT.COUNT : Fld := ⟨0, 32⟩
def LNKp_CNT_RXFLIT.COUNT : Fld := ⟨0, 32⟩
def LNKp_CNT_FECC.COUNT : Fld := ⟨0, 32⟩
def LNKp_CNT_FECU.COUNT : Fld := ⟨0, 32⟩
def LNKp_CNT_CRC.COUNT : Fld := ⟨0, 32⟩
def LNKp_CNT_REPLAY.COUNT : Fld := ⟨0, 32⟩
def LNKp_CNT_DOWN.COUNT : Fld := ⟨0, 32⟩
def LNKp_CNT_DISC.COUNT : Fld := ⟨0, 32⟩
def LNKp_CNT_GENDROP.COUNT : Fld := ⟨0, 32⟩
def LNKp_CNT_HOPDROP.COUNT : Fld := ⟨0, 32⟩
def LNKp_CNT_NOROUTE.COUNT : Fld := ⟨0, 32⟩
def LNKp_CNT_STALE.COUNT : Fld := ⟨0, 32⟩
def LNKp_CNT_BADMSG.COUNT : Fld := ⟨0, 32⟩
def LNK_TSYNC.UP : Fld := ⟨0, 5⟩
def LNK_TSYNC.UP_VALID : Fld := ⟨5, 1⟩
def LNK_TSYNC.INTERVAL : Fld := ⟨8, 8⟩
def LNK_TSYNC.RTO : Fld := ⟨16, 4⟩
def LNK_REV.MIN : Fld := ⟨0, 8⟩
def LNK_REV.MAX : Fld := ⟨8, 8⟩
def LNK_FEAT_EN.FEAT : Fld := ⟨0, 6⟩
def LNK_LASTNACK_LO.ROLE : Fld := ⟨0, 16⟩
def LNK_LASTNACK_LO.EPOCH : Fld := ⟨16, 16⟩
def LNK_LASTNACK_HI.TYPE : Fld := ⟨0, 8⟩
def LNK_LASTNACK_HI.VALID : Fld := ⟨31, 1⟩
def LNK_RTd_LO.ALT : Fld := ⟨0, 32⟩
def LNK_RTd_HI.PRIMARY : Fld := ⟨0, 5⟩
def LNK_RTd_HI.VALID : Fld := ⟨5, 1⟩
def LNK_RTd_HI.PEND : Fld := ⟨30, 1⟩
def MCm_STAT.RATE : Fld := ⟨0, 2⟩
def MCm_STAT.REF_MULT : Fld := ⟨2, 2⟩
def MCm_STAT.TEMP : Fld := ⟨4, 8⟩
def MCm_CNT_RD.COUNT : Fld := ⟨0, 32⟩
def MCm_CNT_WR.COUNT : Fld := ⟨0, 32⟩
def MCm_CNT_RMW.COUNT : Fld := ⟨0, 32⟩
def MCm_BANK_DIS_LO.DIS_LO : Fld := ⟨0, 32⟩
def MCm_BANK_DIS_HI.DIS_HI : Fld := ⟨0, 16⟩
def MCm_BANK_DIS_HI.IGN : Fld := ⟨31, 1⟩
def MCm_CAP.REMAPPED : Fld := ⟨0, 9⟩
def MCm_CAP.BANKS_OFF : Fld := ⟨16, 6⟩
def MCm_SCRUB.HOURS : Fld := ⟨0, 8⟩
def MCm_REMAPi_LO.FROM : Fld := ⟨0, 24⟩
def MCm_REMAPi_HI.TO : Fld := ⟨0, 24⟩
def MCm_REMAPi_HI.VALID : Fld := ⟨31, 1⟩
def ERL_CTL.IE : Fld := ⟨0, 1⟩
def ERL_CTL.CE_LOG : Fld := ⟨1, 1⟩
def ERL_STAT.OVF : Fld := ⟨0, 1⟩
def ERL_STAT.IGN : Fld := ⟨1, 1⟩
def ERL_WR.INDEX : Fld := ⟨0, 16⟩
def ERL_RD.INDEX : Fld := ⟨0, 16⟩
def ERL_CNT_CE.COUNT : Fld := ⟨0, 32⟩
def ERL_CNT_UE.COUNT : Fld := ⟨0, 32⟩
def ERL_CNT_LOST.COUNT : Fld := ⟨0, 32⟩
def CRC_u_CFG.WIDTH : Fld := ⟨0, 7⟩
def CRC_u_CFG.REFIN : Fld := ⟨7, 1⟩
def CRC_u_CFG.REFOUT : Fld := ⟨8, 1⟩
def CRC_u_POLY_LO.POLY_LO : Fld := ⟨0, 32⟩
def CRC_u_POLY_HI.POLY_HI : Fld := ⟨0, 32⟩
def CRC_u_INIT_LO.INIT_LO : Fld := ⟨0, 32⟩
def CRC_u_INIT_HI.INIT_HI : Fld := ⟨0, 32⟩
def CRC_u_XOR_LO.XOR_LO : Fld := ⟨0, 32⟩
def CRC_u_XOR_HI.XOR_HI : Fld := ⟨0, 32⟩
def CRC_u_STAT.BUSY : Fld := ⟨0, 1⟩
def CRC_u_STAT.OWNER : Fld := ⟨1, 5⟩
def CRC_u_STAT.IGN : Fld := ⟨6, 1⟩
def STK_CNT_L2Hk.COUNT : Fld := ⟨0, 32⟩
def STK_CNT_L2Mk.COUNT : Fld := ⟨0, 32⟩
def STK_CNT_L2WB.COUNT : Fld := ⟨0, 32⟩
def STK_CNT_L2DROP.COUNT : Fld := ⟨0, 32⟩
def STK_PWR_STAT.ALLOW : Fld := ⟨0, 7⟩
def STK_PWR_STAT.SHADE : Fld := ⟨7, 3⟩
def STK_E_TICK.UJ : Fld := ⟨0, 32⟩
def STK_CNT_HOLD.COUNT : Fld := ⟨0, 32⟩
def STK_GEN.GEN : Fld := ⟨0, 16⟩
def STK_GEN.ADMITTED : Fld := ⟨16, 1⟩
def STK_GEN.PENDING : Fld := ⟨17, 1⟩
def STK_CLAIMq_CFG.KIND : Fld := ⟨0, 1⟩
def STK_CLAIMq_CFG.SZ : Fld := ⟨1, 4⟩
def STK_CLAIMq_CFG.COUNT : Fld := ⟨16, 16⟩
def STK_CLAIMq_CORES.CORES : Fld := ⟨0, 16⟩
def STK_CLAIMq_BASE_LO.BASE_LO : Fld := ⟨0, 32⟩
def STK_CLAIMq_BASE_HI.BASE_HI : Fld := ⟨0, 8⟩
def STK_CLAIMq_TAKE.ITEM : Fld := ⟨0, 16⟩
def STK_CLAIMq_TAKE.WAIT : Fld := ⟨30, 1⟩
def STK_CLAIMq_TAKE.NONE : Fld := ⟨31, 1⟩
def STK_CLAIMq_STAT.CLAIMED : Fld := ⟨0, 16⟩
def STK_CLAIMq_STAT.SPAN : Fld := ⟨16, 1⟩
def STK_CLAIMq_STAT.DUP : Fld := ⟨17, 1⟩
def STK_CLAIMq_STAT.NOTCORE : Fld := ⟨18, 1⟩
def STK_CLAIMq_STAT.IGN : Fld := ⟨19, 1⟩
def STK_CLAIMq_STAT.REARM : Fld := ⟨20, 1⟩
def STK_SE_CFG.TIMEOUT : Fld := ⟨0, 10⟩
def STK_SE_IRQ_DONE.DONE : Fld := ⟨0, 32⟩
def STK_SE_IRQ_HALT.HALT : Fld := ⟨0, 32⟩
def STK_SE_GLINT_LO.D_LO : Fld := ⟨0, 32⟩
def STK_SE_GLINT_HI.D_HI : Fld := ⟨0, 32⟩
def STK_SE_CHn_CTL.ENABLE : Fld := ⟨0, 1⟩
def STK_SE_CHn_CTL.TRIG : Fld := ⟨1, 2⟩
def STK_SE_CHn_CTL.RELOAD : Fld := ⟨3, 1⟩
def STK_SE_CHn_CTL.PRIO : Fld := ⟨4, 2⟩
def STK_SE_CHn_CTL.SRC_CH : Fld := ⟨6, 5⟩
def STK_SE_CHn_CTL.ABORT : Fld := ⟨16, 1⟩
def STK_SE_CHn_CTL.CLEAR : Fld := ⟨17, 1⟩
def STK_SE_CHn_TIMER.OFFSET : Fld := ⟨0, 21⟩
def STK_SE_CHn_HEAD_LO.ADDR_LO : Fld := ⟨0, 32⟩
def STK_SE_CHn_HEAD_HI.ADDR_HI : Fld := ⟨0, 32⟩
def STK_SE_CHn_CUR_LO.ADDR_LO : Fld := ⟨0, 32⟩
def STK_SE_CHn_CUR_HI.ADDR_HI : Fld := ⟨0, 32⟩
def STK_SE_CHn_BUDGET.LIMIT : Fld := ⟨0, 16⟩
def STK_SE_CHn_DB.RING : Fld := ⟨0, 1⟩
def STK_SE_CHn_STAT.STATE : Fld := ⟨0, 2⟩
def STK_SE_CHn_STAT.PEND : Fld := ⟨2, 1⟩
def STK_SE_CHn_STAT.CODE : Fld := ⟨3, 4⟩
def STK_SE_CHn_STAT.DETAIL : Fld := ⟨7, 4⟩
def STK_SE_CHn_STAT.XCODE : Fld := ⟨11, 4⟩
def STK_SE_CHn_STAT.EMPTY : Fld := ⟨16, 1⟩
def STK_SE_CHn_STAT.TRIG_LOST : Fld := ⟨17, 1⟩
def STK_SE_CHn_STAT.MISSED : Fld := ⟨18, 1⟩
def STK_SE_CHn_EPOCH.EPOCH : Fld := ⟨0, 16⟩
def STK_SE_CHn_BYTES.BYTES : Fld := ⟨0, 32⟩
def STK_SE_CHn_RSV.SLOTS : Fld := ⟨0, 5⟩
def STK_SE_CHn_CNT_DESC.COUNT : Fld := ⟨0, 32⟩
def STK_SE_CHn_CNT_ACT.COUNT : Fld := ⟨0, 32⟩
def STK_SE_CHn_CNT_BYTES_LO.COUNT_LO : Fld := ⟨0, 32⟩
def STK_SE_CHn_CNT_BYTES_HI.COUNT_HI : Fld := ⟨0, 32⟩
def STK_MERE_SPLIT.RES : Fld := ⟨0, 4⟩
def STK_MERE_SPLIT.PENDING : Fld := ⟨4, 1⟩
def STK_MERE_SPLIT.IGN : Fld := ⟨31, 1⟩
def STK_L2_CAP.SETS : Fld := ⟨0, 19⟩
def STK_L2_CAP.OFFPORTS : Fld := ⟨24, 8⟩
def STK_MERE_GRET_CNT.GRANULES : Fld := ⟨0, 7⟩
def STK_MERE_CAP.RES_GRAN : Fld := ⟨0, 15⟩
def STK_MERE_CAP.RET_REGIONS : Fld := ⟨16, 8⟩
def STK_MERE_SCRUB.PERIOD : Fld := ⟨0, 8⟩
def STK_MERE_CHK_ADDR.WORD : Fld := ⟨0, 23⟩
def STK_MERE_CHK_ADDR.SLAB : Fld := ⟨23, 4⟩
def STK_MERE_CHK_DATA_LO.DATA_LO : Fld := ⟨0, 32⟩
def STK_MERE_CHK_DATA_HI.DATA_HI : Fld := ⟨0, 32⟩
def STK_MERE_CHK_CHECK.CHECK : Fld := ⟨0, 8⟩
def STK_MERE_CHK_CTL.CHK_EN : Fld := ⟨0, 1⟩
def STK_MERE_CHK_CTL.RAW_WRITE : Fld := ⟨1, 1⟩
def STK_MERE_CHK_CTL.RAW_READ : Fld := ⟨2, 1⟩
def STK_MERE_CHK_CTL.IGN : Fld := ⟨3, 1⟩
def STK_MERE_PORT_STATc.DEP0 : Fld := ⟨0, 1⟩
def STK_MERE_PORT_STATc.DEP1 : Fld := ⟨4, 1⟩
def STK_MERE_PORT_STATc.DEP2 : Fld := ⟨8, 1⟩
def STK_MERE_PORT_STATc.DEP3 : Fld := ⟨12, 1⟩
def STK_MERE_PORT_STATc.DEP4 : Fld := ⟨16, 1⟩
def STK_MERE_PORT_STATc.DEP5 : Fld := ⟨20, 1⟩
def STK_MERE_PORT_STATc.DEP6 : Fld := ⟨24, 1⟩
def STK_MERE_PORT_STATc.DEP7 : Fld := ⟨28, 1⟩
def STK_MERE_PORT_STATc.PEND0 : Fld := ⟨1, 1⟩
def STK_MERE_PORT_STATc.PEND1 : Fld := ⟨5, 1⟩
def STK_MERE_PORT_STATc.PEND2 : Fld := ⟨9, 1⟩
def STK_MERE_PORT_STATc.PEND3 : Fld := ⟨13, 1⟩
def STK_MERE_PORT_STATc.PEND4 : Fld := ⟨17, 1⟩
def STK_MERE_PORT_STATc.PEND5 : Fld := ⟨21, 1⟩
def STK_MERE_PORT_STATc.PEND6 : Fld := ⟨25, 1⟩
def STK_MERE_PORT_STATc.PEND7 : Fld := ⟨29, 1⟩
def STK_MERE_PORT_STATc.RET0 : Fld := ⟨2, 1⟩
def STK_MERE_PORT_STATc.RET1 : Fld := ⟨6, 1⟩
def STK_MERE_PORT_STATc.RET2 : Fld := ⟨10, 1⟩
def STK_MERE_PORT_STATc.RET3 : Fld := ⟨14, 1⟩
def STK_MERE_PORT_STATc.RET4 : Fld := ⟨18, 1⟩
def STK_MERE_PORT_STATc.RET5 : Fld := ⟨22, 1⟩
def STK_MERE_PORT_STATc.RET6 : Fld := ⟨26, 1⟩
def STK_MERE_PORT_STATc.RET7 : Fld := ⟨30, 1⟩
def STK_MERE_PORT_STATc.SPARE00 : Fld := ⟨3, 1⟩
def STK_MERE_PORT_STATc.SPARE01 : Fld := ⟨7, 1⟩
def STK_MERE_PORT_STATc.SPARE02 : Fld := ⟨11, 1⟩
def STK_MERE_PORT_STATc.SPARE03 : Fld := ⟨15, 1⟩
def STK_MERE_PORT_STATc.SPARE04 : Fld := ⟨19, 1⟩
def STK_MERE_PORT_STATc.SPARE05 : Fld := ⟨23, 1⟩
def STK_MERE_PORT_STATc.SPARE06 : Fld := ⟨27, 1⟩
def STK_MERE_PORT_STATc.SPARE07 : Fld := ⟨31, 1⟩
def STK_MERE_GRETi.GRAN : Fld := ⟨0, 10⟩
def STK_MERE_GRETi.SLAB : Fld := ⟨10, 4⟩
def STK_MERE_GRETi.VALID : Fld := ⟨31, 1⟩
def STK_BOND_CFG.THRESH : Fld := ⟨0, 8⟩
def STK_BOND_STAT.ENTRIES : Fld := ⟨0, 8⟩
def STK_BOND_STAT.PENDING : Fld := ⟨8, 8⟩
def STK_BOND_STAT.UNREP : Fld := ⟨16, 8⟩
def STK_BOND_STAT.OVF : Fld := ⟨24, 1⟩
def STK_BOND_STAT.STACK_LOST : Fld := ⟨25, 1⟩
def STK_BOND_LB.SLAB : Fld := ⟨0, 4⟩
def STK_BOND_LB.PORT : Fld := ⟨4, 3⟩
def STK_BOND_LB.START : Fld := ⟨8, 1⟩
def STK_BOND_LB.BUSY : Fld := ⟨9, 1⟩
def STK_BOND_LB.FAIL : Fld := ⟨10, 1⟩
def STK_BOND_LB.IGN : Fld := ⟨11, 1⟩
def STK_BOND_CTRL.MASKED : Fld := ⟨0, 13⟩
def STK_BOND_DEADi.GROUP : Fld := ⟨0, 10⟩
def STK_BOND_DEADi.LANE : Fld := ⟨10, 6⟩
def STK_BOND_DEADi.SLAB : Fld := ⟨16, 4⟩
def STK_BOND_DEADi.STATE : Fld := ⟨20, 2⟩
def STK_BOND_DEADi.VALID : Fld := ⟨31, 1⟩
def CORE_CTL.ABANDON : Fld := ⟨0, 1⟩
def CORE_STAT.SLOT_STATE : Fld := ⟨0, 24⟩
def CORE_STAT.TRAPPED : Fld := ⟨24, 1⟩
def CORE_STAT.DONE : Fld := ⟨25, 1⟩
def CORE_STAT.BIND_ERR : Fld := ⟨26, 1⟩
def CORE_STAT.LAUNCH_IGN : Fld := ⟨27, 1⟩
def CORE_TRAP_LO.PC_LO : Fld := ⟨0, 32⟩
def CORE_TRAP_HI.PC_HI : Fld := ⟨0, 8⟩
def CORE_TRAP_HI.CAUSE : Fld := ⟨8, 4⟩
def CORE_TRAP_HI.SLOT : Fld := ⟨12, 3⟩
def CORE_TRAP_HI.THREAD : Fld := ⟨15, 6⟩
def CORE_TRAP_HI.MULTI : Fld := ⟨29, 1⟩
def CORE_TRAP_HI.LOST : Fld := ⟨30, 1⟩
def CORE_TRAP_HI.VALID : Fld := ⟨31, 1⟩
def CORE_CNT_ISSUE.COUNT : Fld := ⟨0, 32⟩
def CORE_CNT_DUAL.COUNT : Fld := ⟨0, 32⟩
def CORE_CNT_IDLE.COUNT : Fld := ⟨0, 32⟩
def CORE_CNT_QSTALL.COUNT : Fld := ⟨0, 32⟩
def CORE_CNT_TSTALL.COUNT : Fld := ⟨0, 32⟩
def CORE_CNT_IMISS.COUNT : Fld := ⟨0, 32⟩
def CORE_CNT_OVF.COUNT : Fld := ⟨0, 32⟩
def CORE_Gg_ENTRY.ADDR : Fld := ⟨0, 32⟩
def CORE_Gg_CTL.LAUNCH_JOB : Fld := ⟨0, 1⟩
def CORE_Gg_CTL.LAUNCH_NOW : Fld := ⟨1, 1⟩
def CORE_Gg_QBIND.B0 : Fld := ⟨0, 4⟩
def CORE_Gg_QBIND.B1 : Fld := ⟨4, 4⟩
def CORE_Gg_QBIND.B2 : Fld := ⟨8, 4⟩
def CORE_Gg_QBIND.B3 : Fld := ⟨12, 4⟩
def CORE_Gg_QBIND.B4 : Fld := ⟨16, 4⟩
def CORE_Gg_QBIND.B5 : Fld := ⟨20, 4⟩
def CORE_Gg_QBIND.B6 : Fld := ⟨24, 4⟩
def CORE_IC_CTL.PRELOAD : Fld := ⟨0, 1⟩
def CORE_IC_CTL.PIN : Fld := ⟨1, 1⟩
def CORE_IC_CTL.UNPIN_ALL : Fld := ⟨2, 1⟩
def CORE_IC_CTL.INVAL : Fld := ⟨3, 1⟩
def CORE_IC_PL_ADDR.ADDR : Fld := ⟨0, 32⟩
def CORE_IC_PL_LEN.LINES : Fld := ⟨0, 12⟩
def CORE_IC_STAT.PINNED : Fld := ⟨0, 11⟩
def CORE_IC_STAT.BUSY : Fld := ⟨11, 1⟩
def CORE_IC_STAT.UNPINNED : Fld := ⟨12, 12⟩
def CORE_IC_STAT.ERR : Fld := ⟨24, 1⟩
def CORE_IC_STAT.IGN : Fld := ⟨25, 1⟩
def CORE_NUM_CTL.BLKA : Fld := ⟨0, 2⟩
def CORE_NUM_CTL.BLKB : Fld := ⟨2, 2⟩
def CORE_NUM_CTL.IGN : Fld := ⟨31, 1⟩
def CORE_SR_SEED.SEED : Fld := ⟨0, 16⟩
def CORE_SR_SEED.SEEDED : Fld := ⟨31, 1⟩
def CORE_TNS_CTL.HOLD : Fld := ⟨0, 8⟩
def CORE_TNS_STAT.CMDQ : Fld := ⟨0, 5⟩
def CORE_TNS_STAT.ARRAY : Fld := ⟨5, 2⟩
def CORE_TNS_STAT.FRONT_FMT : Fld := ⟨8, 4⟩
def CORE_TNS_STAT.BACK_FMT : Fld := ⟨12, 4⟩
def CORE_TNS_STAT.BACK_ROWS : Fld := ⟨16, 8⟩
def CORE_TNS_STAT.LOAD_BUSY : Fld := ⟨24, 1⟩
def CORE_TNS_STAT.STREAM_BUSY : Fld := ⟨25, 1⟩
def CORE_TNS_STAT.ACC_BUSY : Fld := ⟨26, 1⟩
def CORE_TNS_QOCC_A.OCC0 : Fld := ⟨0, 5⟩
def CORE_TNS_QOCC_A.OCC1 : Fld := ⟨8, 5⟩
def CORE_TNS_QOCC_A.OCC2 : Fld := ⟨16, 5⟩
def CORE_TNS_QOCC_A.OCC3 : Fld := ⟨24, 5⟩
def CORE_TNS_QOCC_B.OCC0 : Fld := ⟨0, 5⟩
def CORE_TNS_QOCC_B.OCC1 : Fld := ⟨8, 5⟩
def CORE_TNS_QOCC_B.OCC2 : Fld := ⟨16, 5⟩
def CORE_TNS_QOCC_B.OCC3 : Fld := ⟨24, 5⟩
def CORE_TNS_QOCC_D.OCC0 : Fld := ⟨0, 5⟩
def CORE_TNS_QOCC_D.OCC1 : Fld := ⟨8, 5⟩
def CORE_TNS_QOCC_D.OCC2 : Fld := ⟨16, 5⟩
def CORE_TNS_QOCC_D.OCC3 : Fld := ⟨24, 5⟩
def CORE_CNT_TROW.COUNT : Fld := ⟨0, 32⟩
def CORE_CNT_TACT.COUNT : Fld := ⟨0, 32⟩
def CORE_CNT_TRAMP.COUNT : Fld := ⟨0, 32⟩
def CORE_CNT_TDSTALL.COUNT : Fld := ⟨0, 32⟩
def CORE_CNT_L1Hk.COUNT : Fld := ⟨0, 32⟩
def CORE_CNT_L1Mk.COUNT : Fld := ⟨0, 32⟩
def CORE_CNT_MRFULL.COUNT : Fld := ⟨0, 32⟩
def CORE_MEM_CFG.L1SZ : Fld := ⟨0, 3⟩
def CORE_MEM_CFG.PENDING : Fld := ⟨3, 1⟩
def CORE_MEM_CFG.IGN : Fld := ⟨31, 1⟩
def CORE_PWR_CTL.GATE : Fld := ⟨0, 1⟩
def CORE_PWR_CTL.SLAB_GATE : Fld := ⟨1, 1⟩
def CORE_PWR_CTL.ON : Fld := ⟨2, 1⟩
def CORE_PWR_CTL.SLAB_ON : Fld := ⟨3, 1⟩
def CORE_PWR_CTL.IGN : Fld := ⟨4, 1⟩
def CORE_E_TICK.UJ : Fld := ⟨0, 32⟩
def CORE_CNT_CLAMP.COUNT : Fld := ⟨0, 32⟩
def CORE_CNT_STRETCH.COUNT : Fld := ⟨0, 32⟩
def CORE_GLINT_SEL.SLOT : Fld := ⟨0, 4⟩
def CORE_GLINT_SEL.EN : Fld := ⟨4, 1⟩
def CORE_GLINT_BASE.BASE : Fld := ⟨0, 32⟩
def CORE_STOP_CTL.EN : Fld := ⟨0, 1⟩
def CORE_STOP_CTL.SLOT : Fld := ⟨1, 3⟩
def CORE_STOP_CTL.HIT : Fld := ⟨4, 1⟩
def CORE_STOP_CTL.PARTIAL : Fld := ⟨5, 1⟩
def CORE_STOP_CNT.K : Fld := ⟨0, 32⟩
def CORE_STOP_PC_LO.PC_LO : Fld := ⟨0, 32⟩
def CORE_STOP_PC_HI.PC_HI : Fld := ⟨0, 8⟩
def CORE_GLINTk_LO.D_LO : Fld := ⟨0, 32⟩
def CORE_GLINTk_HI.D_HI : Fld := ⟨0, 32⟩
def CORE_GLINT_STOPk_LO.S_LO : Fld := ⟨0, 32⟩
def CORE_GLINT_STOPk_HI.S_HI : Fld := ⟨0, 32⟩
def CORE_GEN.GEN : Fld := ⟨0, 16⟩
def CORE_GEN.ADMITTED : Fld := ⟨16, 1⟩
def CORE_GEN.PENDING : Fld := ⟨17, 1⟩

end F

/-- One row of the register map: the lowest offset, the index strides (how many, how far
apart, outermost first), the reset value, the bits of each access code of R9 (RW, RWL, W1C, W1S),
and whether the register is whole-write (R465) and the LO half of a 64-bit pair (R464). -/
structure RegRow where
  base : Nat
  strides : List (Nat × Nat)
  reset : Word32
  rw : Word32 := 0
  rwl : Word32 := 0
  w1c : Word32 := 0
  w1s : Word32 := 0
  tl : Word32 := 0
  whole : Bool := false
  pairLo : Bool := false
  deriving DecidableEq, Repr

def regRows0 : List RegRow := [
  -- GCTL_ID
  { base := 0, strides := [], reset := 0x6440410 },
  -- GCTL_MODE
  { base := 4, strides := [], reset := 0, rw := 0xF },
  -- GCTL_LOCK
  { base := 8, strides := [], reset := 0, w1c := 2, w1s := 1, whole := true },
  -- GCTL_PKG_ID
  { base := 0x10, strides := [], reset := 0, rwl := 0xFFF },
  -- GCTL_DECODE_ERR_LO
  { base := 0x20, strides := [], reset := 0, pairLo := true },
  -- GCTL_DECODE_ERR_HI
  { base := 0x24, strides := [], reset := 0, w1c := 0x80000000, whole := true },
  -- GCTL_BOOT
  { base := 0x40, strides := [], reset := 0 },
  -- GCTL_RST
  { base := 0x48, strides := [], reset := 0, rw := 0xFFFF0003, whole := true },
  -- GCTL_EXCL
  { base := 0x50, strides := [], reset := 0, tl := 0xFFFFFFFF },
  -- GCTL_CORE_EXCLk
  { base := 0x60, strides := [(12, 4)], reset := 0, tl := 0xFFFFFFFF },
  -- GCTL_GEN
  { base := 0x90, strides := [], reset := 0 },
  -- GCTL_ROLE_SEL
  { base := 0xA0, strides := [], reset := 0, rw := 0x1FFFF },
  -- GCTL_ROLE_VAL
  { base := 0xA4, strides := [], reset := 0, rw := 0x80FFFFFF },
  -- GCTL_ROLE_CMT_LO
  { base := 0xA8, strides := [], reset := 0, rw := 0xFFFFFFFF, pairLo := true },
  -- GCTL_ROLE_CMT_HI
  { base := 0xAC, strides := [], reset := 0, rw := 0xFFFFFFFF, whole := true },
  -- GCTL_ROLE_STAT
  { base := 0xB0, strides := [], reset := 0, w1c := 0x60000, tl := 0xFFFF, whole := true },
  -- GCTL_MEMB_SEL
  { base := 0xC0, strides := [], reset := 0, rw := 0xFF },
  -- GCTL_MEMB_VAL_LO
  { base := 0xC4, strides := [], reset := 0, rw := 0x80FFFFFF, pairLo := true },
  -- GCTL_MEMB_VAL_HI
  { base := 0xC8, strides := [], reset := 0, rw := 0x3FFFFF },
  -- GCTL_MEMB_STAT
  { base := 0xCC, strides := [], reset := 0, w1c := 0x1000, whole := true },
  -- GCTL_JOBFEAT
  { base := 0xD0, strides := [], reset := 0, tl := 0x3F },
  -- GCTL_ACC_ERR_LO
  { base := 0x100, strides := [], reset := 0, pairLo := true },
  -- GCTL_ACC_ERR_HI
  { base := 0x104, strides := [], reset := 0, w1c := 0x80000000, whole := true },
  -- GCTL_HWINw
  { base := 0x110, strides := [(4, 4)], reset := 0, rw := 0x800003FF },
  -- GCTL_INT_STAT
  { base := 0x120, strides := [], reset := 0 },
  -- GCTL_CLK_STAT
  { base := 0x140, strides := [], reset := 0, w1c := 0x300, whole := true },
  -- MSPI_STAT
  { base := 0x180, strides := [], reset := 0, w1c := 0xF, whole := true },
  -- MSMB_CFG
  { base := 0x190, strides := [], reset := 0x4C, rwl := 0xFF },
  -- MSMB_STAT
  { base := 0x194, strides := [], reset := 0, w1c := 3, whole := true },
  -- TICK_CTL
  { base := 0x10000, strides := [], reset := 0x20, rw := 0x3C, w1s := 0x43 },
  -- TICK_PERIOD
  { base := 0x10004, strides := [], reset := 0x30D4, rw := 0x1FFFFF },
  -- TICK_REL_LAT
  { base := 0x10008, strides := [], reset := 8, rw := 0x1FFF } ]

def regRows1 : List RegRow := [
  -- TICK_STAT
  { base := 0x1000C, strides := [], reset := 0, w1c := 0x7F00, whole := true },
  -- TICK_INDEX_LO
  { base := 0x10010, strides := [], reset := 0, tl := 0xFFFFFFFF, pairLo := true },
  -- TICK_INDEX_HI
  { base := 0x10014, strides := [], reset := 0, tl := 0xFFFFFFFF },
  -- TICK_LAST
  { base := 0x10018, strides := [], reset := 0, tl := 0xFFFFFF },
  -- TICK_BND
  { base := 0x1001C, strides := [], reset := 0, tl := 0xFFFF },
  -- TICK_OVR_CNT
  { base := 0x10020, strides := [], reset := 0 },
  -- TICK_LATE_CNT
  { base := 0x10024, strides := [], reset := 0 },
  -- TICK_SYNC
  { base := 0x10028, strides := [], reset := 0 },
  -- TICK_SNAP_CTL
  { base := 0x1002C, strides := [], reset := 0, rw := 3 },
  -- TICK_STOP_AT_LO
  { base := 0x10030, strides := [], reset := 0, rw := 0xFFFFFFFF, pairLo := true },
  -- TICK_STOP_AT_HI
  { base := 0x10034, strides := [], reset := 0, rw := 0xFFFFFFFF },
  -- TICK_STOP_CTL
  { base := 0x10038, strides := [], reset := 0, rw := 3 },
  -- TICK_ROOT_ID
  { base := 0x10040, strides := [], reset := 0, rw := 0xFFF },
  -- SVC_MB_CMD
  { base := 0x20000, strides := [], reset := 0, rw := 0xFF },
  -- SVC_MB_STAT
  { base := 0x20004, strides := [], reset := 0, w1c := 6, whole := true },
  -- SVC_EVT
  { base := 0x20008, strides := [], reset := 0, w1c := 0xF, whole := true },
  -- SVC_CTL
  { base := 0x2000C, strides := [], reset := 0, rw := 1 },
  -- SVC_MB_ARGk
  { base := 0x20010, strides := [(4, 4)], reset := 0, rw := 0xFFFFFFFF },
  -- FLT_CTL
  { base := 0x30000, strides := [], reset := 2, rw := 3 },
  -- FLT_CFG
  { base := 0x30004, strides := [], reset := 1, rw := 0xFFF001FF },
  -- FLT_STAT
  { base := 0x30008, strides := [], reset := 0, w1c := 7, whole := true },
  -- FLT_PEND_LO
  { base := 0x30010, strides := [], reset := 0, w1c := 0xFFFFFFFF, pairLo := true },
  -- FLT_PEND_HI
  { base := 0x30014, strides := [], reset := 0, w1c := 0xFFFFFFFF, whole := true },
  -- FLT_FPEND_LO
  { base := 0x30018, strides := [], reset := 0, w1c := 0xFFFFFFFF, pairLo := true },
  -- FLT_FPEND_HI
  { base := 0x3001C, strides := [], reset := 0, w1c := 0xFFFFFFFF, whole := true },
  -- FLT_RECi_SUBJ
  { base := 0x31000, strides := [(64, 0x40)], reset := 0 },
  -- FLT_RECi_CLS
  { base := 0x31004, strides := [(64, 0x40)], reset := 0, w1c := 0x80000000, whole := true },
  -- FLT_RECi_CNT
  { base := 0x31008, strides := [(64, 0x40)], reset := 0 },
  -- FLT_RECi_FIRST
  { base := 0x3100C, strides := [(64, 0x40)], reset := 0 },
  -- FLT_RECi_LAST
  { base := 0x31010, strides := [(64, 0x40)], reset := 0 },
  -- FLT_RECi_MAPk
  { base := 0x31020, strides := [(64, 0x40), (8, 4)], reset := 0 },
  -- FLT_FLOODc_SUBJ
  { base := 0x32000, strides := [(64, 0x40)], reset := 0 } ]

def regRows2 : List RegRow := [
  -- FLT_FLOODc_CLS
  { base := 0x32004, strides := [(64, 0x40)], reset := 0, w1c := 0x80000000, whole := true },
  -- FLT_FLOODc_CNT
  { base := 0x32008, strides := [(64, 0x40)], reset := 0 },
  -- FLT_FLOODc_FIRST
  { base := 0x3200C, strides := [(64, 0x40)], reset := 0 },
  -- FLT_FLOODc_LAST
  { base := 0x32010, strides := [(64, 0x40)], reset := 0 },
  -- FLT_FLOODc_MAPk
  { base := 0x32020, strides := [(64, 0x40), (8, 4)], reset := 0 },
  -- PWR_CTL
  { base := 0x40000, strides := [], reset := 0x90, rw := 0xFFF, whole := true },
  -- PWR_CAP
  { base := 0x40004, strides := [], reset := 0xB54, rw := 0xFFF },
  -- PWR_LIMIT
  { base := 0x40008, strides := [], reset := 0x6400BB8, rwl := 0xFFF0FFF },
  -- PWR_STAT
  { base := 0x4000C, strides := [], reset := 0, tl := 0x3FFFF },
  -- PWR_LEND
  { base := 0x40010, strides := [], reset := 0, tl := 0xFFFFFFFF },
  -- PWR_LEND_CFG
  { base := 0x40014, strides := [], reset := 0x200832, rw := 0xFFFFFF },
  -- PWR_EVT
  { base := 0x40018, strides := [], reset := 0, w1c := 0xF, whole := true },
  -- PWR_E_PKG
  { base := 0x40020, strides := [], reset := 0, tl := 0xFFFFFFFF },
  -- PWR_E_MEAS
  { base := 0x40024, strides := [], reset := 0, tl := 0xFFFFFFFF },
  -- PWR_E_JOB_LO
  { base := 0x40028, strides := [], reset := 0, tl := 0xFFFFFFFF, pairLo := true },
  -- PWR_E_JOB_HI
  { base := 0x4002C, strides := [], reset := 0, tl := 0xFFFFFFFF },
  -- PWR_ROLE_SEL
  { base := 0x40030, strides := [], reset := 0, rw := 0xFFFF },
  -- PWR_ROLE_E
  { base := 0x40034, strides := [], reset := 0, tl := 0xFFFFFFFF },
  -- PWR_E_LNKp
  { base := 0x40040, strides := [(8, 4)], reset := 0, tl := 0xFFFFFFFF },
  -- PWR_E_MCm
  { base := 0x40060, strides := [(8, 4)], reset := 0, tl := 0xFFFFFFFF },
  -- PWR_VFk
  { base := 0x40080, strides := [(7, 4)], reset := 0 },
  -- THM_CTL
  { base := 0x50000, strides := [], reset := 0, rw := 0xF },
  -- THM_EVT
  { base := 0x50004, strides := [], reset := 0, w1c := 0xF, whole := true },
  -- THM_STAT
  { base := 0x50008, strides := [], reset := 0 },
  -- THM_HBMm
  { base := 0x50020, strides := [(8, 4)], reset := 0, tl := 0x1C0 },
  -- THM_DIEd
  { base := 0x50100, strides := [(64, 4)], reset := 0 },
  -- THM_PEAKd
  { base := 0x50200, strides := [(64, 4)], reset := 0, tl := 0x7FF },
  -- BWR_CTL
  { base := 0x60000, strides := [], reset := 0, rw := 1 },
  -- BWR_STAT
  { base := 0x60004, strides := [], reset := 0, w1c := 3, whole := true },
  -- BWR_GSEL
  { base := 0x60010, strides := [], reset := 0, rw := 0x3F07FF },
  -- BWR_GVAL
  { base := 0x60014, strides := [], reset := 0, rw := 0x7FF, whole := true },
  -- BWR_LASTMISS
  { base := 0x60018, strides := [], reset := 0, w1c := 0x80000000, whole := true } ]

def regRows3 : List RegRow := [
  -- BWR_Pp_CAP
  { base := 0x60100, strides := [(40, 0x20)], reset := 0, tl := 0xFFFFFFFF },
  -- BWR_Pp_CFG
  { base := 0x60104, strides := [(40, 0x20)], reset := 0x60, rw := 0x1FF },
  -- BWR_Pp_STAT
  { base := 0x60108, strides := [(40, 0x20)], reset := 0x4000000, w1c := 0x800, whole := true },
  -- BWR_Pp_CNT_GMISS
  { base := 0x6010C, strides := [(40, 0x20)], reset := 0, tl := 0xFFFFFFFF },
  -- BWR_Pp_CNT_DLMISS
  { base := 0x60110, strides := [(40, 0x20)], reset := 0, tl := 0xFFFFFFFF },
  -- BWR_Pp_CNT_DLPAST
  { base := 0x60114, strides := [(40, 0x20)], reset := 0, tl := 0xFFFFFFFF },
  -- BWR_MISSk
  { base := 0x60800, strides := [(37, 4)], reset := 0, w1c := 0xFFFFFFFF, whole := true },
  -- LNKp_CTL
  { base := 0x80000, strides := [(8, 0x10000)], reset := 8, rw := 0x2F, w1s := 0x10 },
  -- LNKp_EVT
  { base := 0x80008, strides := [(8, 0x10000)], reset := 0, w1c := 0x1FFFF, whole := true },
  -- LNKp_LSTATk
  { base := 0x80010, strides := [(8, 0x10000), (4, 4)], reset := 0 },
  -- LNKp_FEATk
  { base := 0x80020, strides := [(8, 0x10000), (4, 4)], reset := 0 },
  -- LNKp_PIDk
  { base := 0x80030, strides := [(8, 0x10000), (4, 4)], reset := 0 },
  -- LNKp_PJOBk
  { base := 0x80040, strides := [(8, 0x10000), (4, 4)], reset := 0 },
  -- LNKp_RTTk
  { base := 0x80050, strides := [(8, 0x10000), (4, 4)], reset := 0 },
  -- LNKp_PSERk_LO
  { base := 0x80060, strides := [(8, 0x10000), (4, 8)], reset := 0, pairLo := true },
  -- LNKp_PSERk_HI
  { base := 0x80064, strides := [(8, 0x10000), (4, 8)], reset := 0 },
  -- LNKp_CNT_TXFLIT
  { base := 0x80100, strides := [(8, 0x10000)], reset := 0, tl := 0xFFFFFFFF },
  -- LNKp_CNT_RXFLIT
  { base := 0x80104, strides := [(8, 0x10000)], reset := 0, tl := 0xFFFFFFFF },
  -- LNKp_CNT_FECC
  { base := 0x80108, strides := [(8, 0x10000)], reset := 0, tl := 0xFFFFFFFF },
  -- LNKp_CNT_FECU
  { base := 0x8010C, strides := [(8, 0x10000)], reset := 0, tl := 0xFFFFFFFF },
  -- LNKp_CNT_CRC
  { base := 0x80110, strides := [(8, 0x10000)], reset := 0, tl := 0xFFFFFFFF },
  -- LNKp_CNT_REPLAY
  { base := 0x80114, strides := [(8, 0x10000)], reset := 0, tl := 0xFFFFFFFF },
  -- LNKp_CNT_DOWN
  { base := 0x80118, strides := [(8, 0x10000)], reset := 0, tl := 0xFFFFFFFF },
  -- LNKp_CNT_DISC
  { base := 0x8011C, strides := [(8, 0x10000)], reset := 0, tl := 0xFFFFFFFF },
  -- LNKp_CNT_GENDROP
  { base := 0x80120, strides := [(8, 0x10000)], reset := 0, tl := 0xFFFFFFFF },
  -- LNKp_CNT_HOPDROP
  { base := 0x80124, strides := [(8, 0x10000)], reset := 0, tl := 0xFFFFFFFF },
  -- LNKp_CNT_NOROUTE
  { base := 0x80128, strides := [(8, 0x10000)], reset := 0, tl := 0xFFFFFFFF },
  -- LNKp_CNT_STALE
  { base := 0x8012C, strides := [(8, 0x10000)], reset := 0, tl := 0xFFFFFFFF },
  -- LNKp_CNT_BADMSG
  { base := 0x80130, strides := [(8, 0x10000)], reset := 0, tl := 0xFFFFFFFF },
  -- LNK_TSYNC
  { base := 0x80200, strides := [], reset := 0x40800, rw := 0xFFF3F },
  -- LNK_REV
  { base := 0x80204, strides := [], reset := 0x302 },
  -- LNK_FEAT_EN
  { base := 0x80208, strides := [], reset := 0x3F, rw := 0x3F } ]

def regRows4 : List RegRow := [
  -- LNK_LASTNACK_LO
  { base := 0x80210, strides := [], reset := 0, pairLo := true },
  -- LNK_LASTNACK_HI
  { base := 0x80214, strides := [], reset := 0, w1c := 0x80000000, whole := true },
  -- LNK_RTd_LO
  { base := 0x88000, strides := [(4096, 8)], reset := 0, rw := 0xFFFFFFFF, pairLo := true },
  -- LNK_RTd_HI
  { base := 0x88004, strides := [(4096, 8)], reset := 0, rw := 0x3F, whole := true },
  -- MCm_STAT
  { base := 0x100000, strides := [(8, 0x10000)], reset := 0 },
  -- MCm_CNT_RD
  { base := 0x100010, strides := [(8, 0x10000)], reset := 0, tl := 0xFFFFFFFF },
  -- MCm_CNT_WR
  { base := 0x100014, strides := [(8, 0x10000)], reset := 0, tl := 0xFFFFFFFF },
  -- MCm_CNT_RMW
  { base := 0x100018, strides := [(8, 0x10000)], reset := 0, tl := 0xFFFFFFFF },
  -- MCm_BANK_DIS_LO
  { base := 0x100020, strides := [(8, 0x10000)], reset := 0, rw := 0xFFFFFFFF, pairLo := true },
  -- MCm_BANK_DIS_HI
  { base := 0x100024, strides := [(8, 0x10000)], reset := 0, rw := 0xFFFF, w1c := 0x80000000, whole := true },
  -- MCm_CAP
  { base := 0x100028, strides := [(8, 0x10000)], reset := 0, tl := 0x3F01FF },
  -- MCm_SCRUB
  { base := 0x10002C, strides := [(8, 0x10000)], reset := 0x18, rw := 0xFF },
  -- MCm_REMAPi_LO
  { base := 0x100100, strides := [(8, 0x10000), (256, 8)], reset := 0, rw := 0xFFFFFF, pairLo := true },
  -- MCm_REMAPi_HI
  { base := 0x100104, strides := [(8, 0x10000), (256, 8)], reset := 0, rw := 0x80FFFFFF, whole := true },
  -- ERL_CTL
  { base := 0x200000, strides := [], reset := 2, rw := 3 },
  -- ERL_STAT
  { base := 0x200004, strides := [], reset := 0, w1c := 3, whole := true },
  -- ERL_WR
  { base := 0x200008, strides := [], reset := 0 },
  -- ERL_RD
  { base := 0x20000C, strides := [], reset := 0, rw := 0xFFFF },
  -- ERL_CNT_CE
  { base := 0x200010, strides := [], reset := 0, tl := 0xFFFFFFFF },
  -- ERL_CNT_UE
  { base := 0x200014, strides := [], reset := 0, tl := 0xFFFFFFFF },
  -- ERL_CNT_LOST
  { base := 0x200018, strides := [], reset := 0, tl := 0xFFFFFFFF },
  -- CRC_u_CFG
  { base := 0x300000, strides := [(56, 0x1000)], reset := 0x1A0, rw := 0x1FF },
  -- CRC_u_POLY_LO
  { base := 0x300008, strides := [(56, 0x1000)], reset := 0x1EDC6F41, rw := 0xFFFFFFFF, pairLo := true },
  -- CRC_u_POLY_HI
  { base := 0x30000C, strides := [(56, 0x1000)], reset := 0, rw := 0xFFFFFFFF },
  -- CRC_u_INIT_LO
  { base := 0x300010, strides := [(56, 0x1000)], reset := 0xFFFFFFFF, rw := 0xFFFFFFFF, pairLo := true },
  -- CRC_u_INIT_HI
  { base := 0x300014, strides := [(56, 0x1000)], reset := 0, rw := 0xFFFFFFFF },
  -- CRC_u_XOR_LO
  { base := 0x300018, strides := [(56, 0x1000)], reset := 0xFFFFFFFF, rw := 0xFFFFFFFF, pairLo := true },
  -- CRC_u_XOR_HI
  { base := 0x30001C, strides := [(56, 0x1000)], reset := 0, rw := 0xFFFFFFFF },
  -- CRC_u_STAT
  { base := 0x300020, strides := [(56, 0x1000)], reset := 0, w1c := 0x40 },
  -- STK_CNT_L2Hk
  { base := 0x1000100, strides := [(24, 0x100000), (8, 4)], reset := 0, tl := 0xFFFFFFFF },
  -- STK_CNT_L2Mk
  { base := 0x1000120, strides := [(24, 0x100000), (8, 4)], reset := 0, tl := 0xFFFFFFFF },
  -- STK_CNT_L2WB
  { base := 0x1000140, strides := [(24, 0x100000)], reset := 0, tl := 0xFFFFFFFF } ]

def regRows5 : List RegRow := [
  -- STK_CNT_L2DROP
  { base := 0x1000144, strides := [(24, 0x100000)], reset := 0, tl := 0xFFFFFFFF },
  -- STK_PWR_STAT
  { base := 0x1000200, strides := [(24, 0x100000)], reset := 0, tl := 0x3FF },
  -- STK_E_TICK
  { base := 0x1000204, strides := [(24, 0x100000)], reset := 0, tl := 0xFFFFFFFF },
  -- STK_CNT_HOLD
  { base := 0x1000208, strides := [(24, 0x100000)], reset := 0, tl := 0xFFFFFFFF },
  -- STK_GEN
  { base := 0x1000300, strides := [(24, 0x100000)], reset := 0, tl := 0x1FFFF },
  -- STK_CLAIMq_CFG
  { base := 0x1000400, strides := [(24, 0x100000), (4, 0x20)], reset := 0, rw := 0xFFFF001F, whole := true },
  -- STK_CLAIMq_CORES
  { base := 0x1000404, strides := [(24, 0x100000), (4, 0x20)], reset := 0xFFFF, rw := 0xFFFF },
  -- STK_CLAIMq_BASE_LO
  { base := 0x1000408, strides := [(24, 0x100000), (4, 0x20)], reset := 0, rw := 0xFFFFFFFF, pairLo := true },
  -- STK_CLAIMq_BASE_HI
  { base := 0x100040C, strides := [(24, 0x100000), (4, 0x20)], reset := 0, rw := 0xFF },
  -- STK_CLAIMq_TAKE
  { base := 0x1000410, strides := [(24, 0x100000), (4, 0x20)], reset := 0x80000000 },
  -- STK_CLAIMq_STAT
  { base := 0x1000414, strides := [(24, 0x100000), (4, 0x20)], reset := 0, w1c := 0xF0000, w1s := 0x100000, whole := true },
  -- STK_SE_CFG
  { base := 0x1010000, strides := [(24, 0x100000)], reset := 0x40, rw := 0x3FF },
  -- STK_SE_IRQ_DONE
  { base := 0x1010004, strides := [(24, 0x100000)], reset := 0, w1c := 0xFFFFFFFF, whole := true },
  -- STK_SE_IRQ_HALT
  { base := 0x1010008, strides := [(24, 0x100000)], reset := 0, w1c := 0xFFFFFFFF, whole := true },
  -- STK_SE_GLINT_LO
  { base := 0x1010010, strides := [(24, 0x100000)], reset := 0, tl := 0xFFFFFFFF, pairLo := true },
  -- STK_SE_GLINT_HI
  { base := 0x1010014, strides := [(24, 0x100000)], reset := 0, tl := 0xFFFFFFFF },
  -- STK_SE_CHn_CTL
  { base := 0x1010100, strides := [(24, 0x100000), (32, 0x40)], reset := 0x30, rw := 0x7FF, w1s := 0x30000, whole := true },
  -- STK_SE_CHn_TIMER
  { base := 0x1010104, strides := [(24, 0x100000), (32, 0x40)], reset := 0, rw := 0x1FFFFF },
  -- STK_SE_CHn_HEAD_LO
  { base := 0x1010108, strides := [(24, 0x100000), (32, 0x40)], reset := 0, rw := 0xFFFFFFFF, pairLo := true },
  -- STK_SE_CHn_HEAD_HI
  { base := 0x101010C, strides := [(24, 0x100000), (32, 0x40)], reset := 0, rw := 0xFFFFFFFF },
  -- STK_SE_CHn_CUR_LO
  { base := 0x1010110, strides := [(24, 0x100000), (32, 0x40)], reset := 0, pairLo := true },
  -- STK_SE_CHn_CUR_HI
  { base := 0x1010114, strides := [(24, 0x100000), (32, 0x40)], reset := 0 },
  -- STK_SE_CHn_BUDGET
  { base := 0x1010118, strides := [(24, 0x100000), (32, 0x40)], reset := 0x1000, rw := 0xFFFF },
  -- STK_SE_CHn_DB
  { base := 0x101011C, strides := [(24, 0x100000), (32, 0x40)], reset := 0, w1s := 1, whole := true },
  -- STK_SE_CHn_STAT
  { base := 0x1010120, strides := [(24, 0x100000), (32, 0x40)], reset := 0, w1c := 0x70000, whole := true },
  -- STK_SE_CHn_EPOCH
  { base := 0x1010124, strides := [(24, 0x100000), (32, 0x40)], reset := 0 },
  -- STK_SE_CHn_BYTES
  { base := 0x1010128, strides := [(24, 0x100000), (32, 0x40)], reset := 0 },
  -- STK_SE_CHn_RSV
  { base := 0x101012C, strides := [(24, 0x100000), (32, 0x40)], reset := 4, rw := 0x1F },
  -- STK_SE_CHn_CNT_DESC
  { base := 0x1010130, strides := [(24, 0x100000), (32, 0x40)], reset := 0, tl := 0xFFFFFFFF },
  -- STK_SE_CHn_CNT_ACT
  { base := 0x1010134, strides := [(24, 0x100000), (32, 0x40)], reset := 0, tl := 0xFFFFFFFF },
  -- STK_SE_CHn_CNT_BYTES_LO
  { base := 0x1010138, strides := [(24, 0x100000), (32, 0x40)], reset := 0, tl := 0xFFFFFFFF, pairLo := true },
  -- STK_SE_CHn_CNT_BYTES_HI
  { base := 0x101013C, strides := [(24, 0x100000), (32, 0x40)], reset := 0, tl := 0xFFFFFFFF } ]

def regRows6 : List RegRow := [
  -- STK_MERE_SPLIT
  { base := 0x1020000, strides := [(24, 0x100000)], reset := 8, rw := 0xF, w1c := 0x80000000, whole := true },
  -- STK_L2_CAP
  { base := 0x1020004, strides := [(24, 0x100000)], reset := 0, tl := 0xFF07FFFF },
  -- STK_MERE_GRET_CNT
  { base := 0x1020008, strides := [(24, 0x100000)], reset := 0, tl := 0x7F },
  -- STK_MERE_CAP
  { base := 0x102000C, strides := [(24, 0x100000)], reset := 0, tl := 0xFF7FFF },
  -- STK_MERE_SCRUB
  { base := 0x1020010, strides := [(24, 0x100000)], reset := 0x10, rw := 0xFF },
  -- STK_MERE_CHK_ADDR
  { base := 0x1020020, strides := [(24, 0x100000)], reset := 0, rw := 0x7FFFFFF },
  -- STK_MERE_CHK_DATA_LO
  { base := 0x1020024, strides := [(24, 0x100000)], reset := 0, rw := 0xFFFFFFFF, pairLo := true },
  -- STK_MERE_CHK_DATA_HI
  { base := 0x1020028, strides := [(24, 0x100000)], reset := 0, rw := 0xFFFFFFFF },
  -- STK_MERE_CHK_CHECK
  { base := 0x102002C, strides := [(24, 0x100000)], reset := 0, rw := 0xFF },
  -- STK_MERE_CHK_CTL
  { base := 0x1020030, strides := [(24, 0x100000)], reset := 0, rw := 1, w1c := 8, w1s := 6, whole := true },
  -- STK_MERE_PORT_STATc
  { base := 0x1020040, strides := [(24, 0x100000), (16, 4)], reset := 0, tl := 0xFFFFFFFF },
  -- STK_MERE_GRETi
  { base := 0x1020100, strides := [(24, 0x100000), (64, 4)], reset := 0, rw := 0x80003FFF, whole := true },
  -- STK_BOND_CFG
  { base := 0x1030000, strides := [(24, 0x100000)], reset := 8, rw := 0xFF },
  -- STK_BOND_STAT
  { base := 0x1030004, strides := [(24, 0x100000)], reset := 0, w1c := 0x1000000, tl := 0xFFFFFF, whole := true },
  -- STK_BOND_LB
  { base := 0x1030008, strides := [(24, 0x100000)], reset := 0, rw := 0x7F, w1c := 0x800, w1s := 0x100, whole := true },
  -- STK_BOND_CTRL
  { base := 0x103000C, strides := [(24, 0x100000)], reset := 0, tl := 0x1FFF },
  -- STK_BOND_DEADi
  { base := 0x1030100, strides := [(24, 0x100000), (128, 4)], reset := 0, tl := 0x803FFFFF },
  -- CORE_CTL
  { base := 0x1040000, strides := [(24, 0x100000), (16, 0x1000)], reset := 0, w1s := 1 },
  -- CORE_STAT
  { base := 0x1040004, strides := [(24, 0x100000), (16, 0x1000)], reset := 0, w1c := 0xC000000, whole := true },
  -- CORE_TRAP_LO
  { base := 0x1040010, strides := [(24, 0x100000), (16, 0x1000)], reset := 0, pairLo := true },
  -- CORE_TRAP_HI
  { base := 0x1040014, strides := [(24, 0x100000), (16, 0x1000)], reset := 0, w1c := 0x80000000, whole := true },
  -- CORE_CNT_ISSUE
  { base := 0x1040020, strides := [(24, 0x100000), (16, 0x1000)], reset := 0, tl := 0xFFFFFFFF },
  -- CORE_CNT_DUAL
  { base := 0x1040024, strides := [(24, 0x100000), (16, 0x1000)], reset := 0, tl := 0xFFFFFFFF },
  -- CORE_CNT_IDLE
  { base := 0x1040028, strides := [(24, 0x100000), (16, 0x1000)], reset := 0, tl := 0xFFFFFFFF },
  -- CORE_CNT_QSTALL
  { base := 0x104002C, strides := [(24, 0x100000), (16, 0x1000)], reset := 0, tl := 0xFFFFFFFF },
  -- CORE_CNT_TSTALL
  { base := 0x1040030, strides := [(24, 0x100000), (16, 0x1000)], reset := 0, tl := 0xFFFFFFFF },
  -- CORE_CNT_IMISS
  { base := 0x1040034, strides := [(24, 0x100000), (16, 0x1000)], reset := 0, tl := 0xFFFFFFFF },
  -- CORE_CNT_OVF
  { base := 0x1040038, strides := [(24, 0x100000), (16, 0x1000)], reset := 0, tl := 0xFFFFFFFF },
  -- CORE_Gg_ENTRY
  { base := 0x1040100, strides := [(24, 0x100000), (16, 0x1000), (8, 0x10)], reset := 0, rw := 0xFFFFFFFF },
  -- CORE_Gg_CTL
  { base := 0x1040104, strides := [(24, 0x100000), (16, 0x1000), (8, 0x10)], reset := 0, w1s := 3 },
  -- CORE_Gg_QBIND
  { base := 0x1040108, strides := [(24, 0x100000), (16, 0x1000), (8, 0x10)], reset := 0, rw := 0xFFFFFFF },
  -- CORE_IC_CTL
  { base := 0x1040200, strides := [(24, 0x100000), (16, 0x1000)], reset := 0, rw := 2, w1s := 0xD } ]

def regRows7 : List RegRow := [
  -- CORE_IC_PL_ADDR
  { base := 0x1040204, strides := [(24, 0x100000), (16, 0x1000)], reset := 0, rw := 0xFFFFFFFF },
  -- CORE_IC_PL_LEN
  { base := 0x1040208, strides := [(24, 0x100000), (16, 0x1000)], reset := 0, rw := 0xFFF },
  -- CORE_IC_STAT
  { base := 0x104020C, strides := [(24, 0x100000), (16, 0x1000)], reset := 0, w1c := 0x3000000, whole := true },
  -- CORE_NUM_CTL
  { base := 0x1040300, strides := [(24, 0x100000), (16, 0x1000)], reset := 0, rw := 0xF, w1c := 0x80000000, whole := true },
  -- CORE_SR_SEED
  { base := 0x1040304, strides := [(24, 0x100000), (16, 0x1000)], reset := 0, rw := 0xFFFF, whole := true },
  -- CORE_TNS_CTL
  { base := 0x1040400, strides := [(24, 0x100000), (16, 0x1000)], reset := 0x40, rw := 0xFF },
  -- CORE_TNS_STAT
  { base := 0x1040404, strides := [(24, 0x100000), (16, 0x1000)], reset := 0x7700 },
  -- CORE_TNS_QOCC_A
  { base := 0x1040408, strides := [(24, 0x100000), (16, 0x1000)], reset := 0 },
  -- CORE_TNS_QOCC_B
  { base := 0x104040C, strides := [(24, 0x100000), (16, 0x1000)], reset := 0 },
  -- CORE_TNS_QOCC_D
  { base := 0x1040410, strides := [(24, 0x100000), (16, 0x1000)], reset := 0 },
  -- CORE_CNT_TROW
  { base := 0x1040420, strides := [(24, 0x100000), (16, 0x1000)], reset := 0, tl := 0xFFFFFFFF },
  -- CORE_CNT_TACT
  { base := 0x1040424, strides := [(24, 0x100000), (16, 0x1000)], reset := 0, tl := 0xFFFFFFFF },
  -- CORE_CNT_TRAMP
  { base := 0x1040428, strides := [(24, 0x100000), (16, 0x1000)], reset := 0, tl := 0xFFFFFFFF },
  -- CORE_CNT_TDSTALL
  { base := 0x104042C, strides := [(24, 0x100000), (16, 0x1000)], reset := 0, tl := 0xFFFFFFFF },
  -- CORE_CNT_L1Hk
  { base := 0x1040440, strides := [(24, 0x100000), (16, 0x1000), (8, 4)], reset := 0, tl := 0xFFFFFFFF },
  -- CORE_CNT_L1Mk
  { base := 0x1040460, strides := [(24, 0x100000), (16, 0x1000), (8, 4)], reset := 0, tl := 0xFFFFFFFF },
  -- CORE_CNT_MRFULL
  { base := 0x1040480, strides := [(24, 0x100000), (16, 0x1000)], reset := 0, tl := 0xFFFFFFFF },
  -- CORE_MEM_CFG
  { base := 0x1040500, strides := [(24, 0x100000), (16, 0x1000)], reset := 0, rw := 7, w1c := 0x80000000, whole := true },
  -- CORE_PWR_CTL
  { base := 0x1040600, strides := [(24, 0x100000), (16, 0x1000)], reset := 0, rw := 3, w1c := 0x10, whole := true },
  -- CORE_E_TICK
  { base := 0x1040604, strides := [(24, 0x100000), (16, 0x1000)], reset := 0, tl := 0xFFFFFFFF },
  -- CORE_CNT_CLAMP
  { base := 0x1040608, strides := [(24, 0x100000), (16, 0x1000)], reset := 0, tl := 0xFFFFFFFF },
  -- CORE_CNT_STRETCH
  { base := 0x104060C, strides := [(24, 0x100000), (16, 0x1000)], reset := 0, tl := 0xFFFFFFFF },
  -- CORE_GLINT_SEL
  { base := 0x1040700, strides := [(24, 0x100000), (16, 0x1000)], reset := 0, rw := 0x1F },
  -- CORE_GLINT_BASE
  { base := 0x1040704, strides := [(24, 0x100000), (16, 0x1000)], reset := 0, rw := 0xFFFFFFFF },
  -- CORE_STOP_CTL
  { base := 0x1040710, strides := [(24, 0x100000), (16, 0x1000)], reset := 0, rw := 0xF, w1c := 0x30, whole := true },
  -- CORE_STOP_CNT
  { base := 0x1040714, strides := [(24, 0x100000), (16, 0x1000)], reset := 0, rw := 0xFFFFFFFF },
  -- CORE_STOP_PC_LO
  { base := 0x1040718, strides := [(24, 0x100000), (16, 0x1000)], reset := 0, pairLo := true },
  -- CORE_STOP_PC_HI
  { base := 0x104071C, strides := [(24, 0x100000), (16, 0x1000)], reset := 0 },
  -- CORE_GLINTk_LO
  { base := 0x1040740, strides := [(24, 0x100000), (16, 0x1000), (16, 8)], reset := 0, tl := 0xFFFFFFFF, pairLo := true },
  -- CORE_GLINTk_HI
  { base := 0x1040744, strides := [(24, 0x100000), (16, 0x1000), (16, 8)], reset := 0, tl := 0xFFFFFFFF },
  -- CORE_GLINT_STOPk_LO
  { base := 0x10407C0, strides := [(24, 0x100000), (16, 0x1000), (16, 8)], reset := 0, pairLo := true },
  -- CORE_GLINT_STOPk_HI
  { base := 0x10407C4, strides := [(24, 0x100000), (16, 0x1000), (16, 8)], reset := 0 } ]

def regRows8 : List RegRow := [
  -- CORE_GEN
  { base := 0x1040900, strides := [(24, 0x100000), (16, 0x1000)], reset := 0, tl := 0x1FFFF } ]

/-- Every register of the package. -/
def regRows : List RegRow :=
  regRows0 ++ regRows1 ++ regRows2 ++ regRows3 ++ regRows4 ++ regRows5 ++ regRows6 ++ regRows7 ++ regRows8

/-- Is the distance `d` from a row's base a sum of its strides, each taken an allowed number of
times? Strides are listed outermost first, and no inner span reaches the outer stride. -/
def strideHit : List (Nat × Nat) → Nat → Bool
  | [], d => d == 0
  | (n, x) :: t, d => decide (d / x < n) && strideHit t (d % x)

/-- The row of the register at offset `a` (`none`: R29, a reserved offset). -/
def regRowAt (a : Nat) : Option RegRow :=
  regRows.find? fun r => decide (r.base ≤ a) && strideHit r.strides (a - r.base)

/-- The reset value of the register at offset `a`; a reserved offset reads zero (R29). A point
p 0-7 of Table 9-10 has LEVEL 0xC0; PWR_CAP is 0xB54 on a ZN64-A. -/
def regReset (a : Nat) : Word32 :=
  match regRowAt a with
  | none => 0
  | some r =>
    if r.base == 0x60104 && decide (a < 0x60104 + 8 * 0x20) then 0xC0 else if r.base == 0x40004 then 0xB54 else r.reset

end Sys2Proof.Machine
end

