-- ==== Sys2Proof/Machine/State.lean ====
section
/-! DEFINITION. The whole state of a ZN64 package, the reasons a step can stop, and the state right
after a cold reset with its lands high (R412). -/

namespace Sys2Proof.Machine

/-- Reasons a step stops with a fault. -/
inductive Fault where
  /-- Raised by nothing: the spec gives every command an effect, and every error it describes is a
  trap, a fault report or an error answer held in State. Safe. -/
  | unreachable
  deriving DecidableEq, Repr

/-- Reasons a command is turned away. -/
inductive Refusal where
  /-- Raised by an arm of exec whose command has no meaning in this model yet. Safe. -/
  | notModelled (mnemonic : String)
  deriving DecidableEq, Repr

/-- The package. Every register the spec names has its one home in `regs`, keyed by its offset from
the start of BAR0 and reading `regReset` where unlisted; TL registers keep the value latched at
the last boundary there and count in `live` (R11, R55).
`mem` is the package's memory by 40-bit local address (R19); `sram` the difference of the
eight check bits stored beside an SRAM word from the right ones for the data bits stored, by word
number (address / 8) (R280);
`cores` by 16 s + c, `stks` by s, `hbm` by m, `points` by p, `links` by l;
`bwrWin` the windows of R277 judged in this tick;
`frozenHost` and `frozenMgmt` what a freeze holds for TL fields (R60);
`latch` the held half of a register pair by path number (R464), with the offset it belongs to and
the generation of what it answers;
`routeLo` the low half of a route entry written and waiting for its high half, `routeStaged` the
entries that wait for a boundary (R349);
`inbox` the whole messages that have come in and wait, each with its link (32: the package itself);
`meas` what the last boundary kept of the tick it ended, to which the energy model's and the cycle counters' values
belong (none: no tick has ended);
`answer` what the last access command answered on its path;
`now` the time since reset and `tb` the timebase, both in 1/8 ns;
`freeCtr` counts the free values drawn (the model's own field, DESIGN CHOICE, log entry 2). -/
structure State where
  regs : SMap Word32 := []
  live : SMap Nat := []
  mem : List Host.Cell := []
  sram : SMap Byte := []
  cores : SMap Core := []
  stks : SMap Stack := []
  hbm : SMap Hbm := []
  points : SMap Point := []
  bwrWin : Nat := 0
  links : SMap Link := []
  tick : Tick := {}
  tsync : Tsync := {}
  power : Power := {}
  thermal : Thermal := {}
  boot : Boot := {}
  roles : Roles := {}
  faults : Faults := {}
  erl : Erl := {}
  pcie : Pcie := {}
  smb : Smb := {}
  jtag : Jtag := {}
  lands : Lands := {}
  fuses : Fuses := {}
  frozenHost : Option Frozen := none
  frozenMgmt : Option Frozen := none
  latch : SMap (Option (Nat × Word32)) := []
  routeLo : SMap (Option Word32) := []
  routeStaged : SMap (Option (Nat × Nat)) := []
  inbox : List (Nat × Msg) := []
  answer : Answer := .none
  meas : Option Meas := none
  now : Nat := 0
  tb : Nat := 0
  freeCtr : Nat := 0
  pending : List Instr := []
  deriving DecidableEq, Repr

/-- The package right after a cold reset, waiting in the service controller's boot (R412, R416) (DESIGN CHOICE, log entry 3). -/
def State.reset : State := {}

end Sys2Proof.Machine
end

