-- ==== Sys2Proof/Machine/Base.lean ====
section
/-! DEFINITION. The plainest operations over State: registers and their fields, live counters, unit tables, free
values, memory bytes and time. -/

namespace Sys2Proof.Machine

open Sys2Proof

/-- What a command answers. -/
abbrev Out := Host.Outcome State Fault Refusal

/-- Is the package down: held in cold reset, or shut down by temperature (R391, R412)? (DEDUCED, log entry 14). -/
def State.down (s : State) : Bool := s.thermal.shut || s.boot.resetting == some .cold

/-- A package that is down takes no part in a command; time, lands and the test port apart (DEDUCED, log entry 14). -/
def ifUp (s : State) (o : Out) : Out := if s.down then .next s else o

/-! ### Registers and fields -/

/-- Field `f` of word `w`. -/
def Fld.get (f : Fld) (w : Word32) : Nat := bitsOf w.toNat f.lo f.width

/-- Word `w` with field `f` holding `x`. -/
def Fld.put (f : Fld) (w : Word32) (x : Nat) : Word32 := BitVec.ofNat 32 (putBits w.toNat f.lo f.width x)

/-- The register at offset `a` of BAR0. -/
def State.reg (s : State) (a : Nat) : Word32 := sget regReset s.regs a

def State.setReg (s : State) (a : Nat) (v : Word32) : State := { s with regs := sset regReset s.regs a v }

/-- Field `f` of the register at offset `a`. -/
def State.fld (s : State) (a : Nat) (f : Fld) : Nat := f.get (s.reg a)

def State.setFld (s : State) (a : Nat) (f : Fld) (x : Nat) : State := s.setReg a (f.put (s.reg a) x)

/-- Is bit `i` of the register at `a` set? -/
def State.bit (s : State) (a i : Nat) : Bool := (s.reg a).getLsbD i

def State.setBit (s : State) (a i : Nat) : State := s.setReg a (s.reg a ||| BitVec.ofNat 32 (2 ^ i))

def State.clrBit (s : State) (a i : Nat) : State := s.setReg a (s.reg a &&& ~~~ BitVec.ofNat 32 (2 ^ i))

/-- The flag that field `f` of the register at `a` is. -/
def State.flag (s : State) (a : Nat) (f : Fld) : Bool := s.bit a f.lo

def State.setFlag (s : State) (a : Nat) (f : Fld) (b : Bool := true) : State :=
  if b then s.setBit a f.lo else s.clrBit a f.lo

/-- The 64-bit value of the pair whose LO register is at `a`. -/
def State.pair (s : State) (a : Nat) : Nat := (s.reg a).toNat + 2 ^ 32 * (s.reg (a + 4)).toNat

def State.setPair (s : State) (a : Nat) (v : Nat) : State :=
  (s.setReg a (BitVec.ofNat 32 v)).setReg (a + 4) (BitVec.ofNat 32 (v / 2 ^ 32))

/-! ### Live counters (R55, R56) -/

def State.liveAt (s : State) (a : Nat) : Nat := sget (fun _ => 0) s.live a

def State.setLive (s : State) (a v : Nat) : State := { s with live := sset (fun _ => 0) s.live a v }

/-- The live counter of the TL register at `a` counts `n` events; it saturates (R56). -/
def State.count (s : State) (a : Nat) (n : Nat := 1) : State :=
  s.setLive a (min (s.liveAt a + n) 0xFFFFFFFF)

/-- Are the stacks and HBM controllers powered: not before bring-up has applied CONFIG, nor in a package that
failed before it (Table 16-2, R420)? (DEDUCED, log entry 13). -/
def State.unitsUp (s : State) : Bool :=
  let stage := s.fld Reg.GCTL_BOOT F.GCTL_BOOT.STAGE
  let fail := s.fld Reg.GCTL_BOOT F.GCTL_BOOT.FAIL
  decide (3 ≤ stage) && (stage != 15 || fail == 2 || fail == 5)

/-- Is a warm or compute-only reset under way: held by its land, or brought up as far as its known-answer tests, after
which units wait for admission (R414, Table 16-3) (DEDUCED, log entry 13)? -/
def State.inReset (s : State) : Bool :=
  s.boot.resetting.isSome ||
    (s.fld Reg.GCTL_BOOT F.GCTL_BOOT.LAST_RST != 0 && decide (s.fld Reg.GCTL_BOOT F.GCTL_BOOT.STAGE < 8) && !s.boot.katDone)

/-- Have the stacks and HBM controllers a supply: once powered, they keep it through a warm reset (Table 16-1)? -/
def State.powered (s : State) : Bool := s.unitsUp || s.boot.bistDone

/-- A counter register that counts as it is read (not TL), saturating at `top`. -/
def State.bump (s : State) (a : Nat) (f : Fld) (n : Nat := 1) : State :=
  s.setFld a f (min (s.fld a f + n) (2 ^ f.width - 1))

/-! ### Unit tables -/

def State.core (s : State) (i : Nat) : Core := sget (fun _ => Core.reset) s.cores i

def State.setCore (s : State) (i : Nat) (c : Core) : State :=
  { s with cores := sset (fun _ => Core.reset) s.cores i c }

def State.stk (s : State) (i : Nat) : Stack := sget (fun _ => Stack.reset) s.stks i

def State.setStk (s : State) (i : Nat) (x : Stack) : State :=
  { s with stks := sset (fun _ => Stack.reset) s.stks i x }

def State.mc (s : State) (m : Nat) : Hbm := sget (fun _ => Hbm.reset) s.hbm m

def State.setMc (s : State) (m : Nat) (x : Hbm) : State :=
  { s with hbm := sset (fun _ => Hbm.reset) s.hbm m x }

def State.point (s : State) (p : Nat) : Point := sget (fun _ => Point.reset) s.points p

def State.setPoint (s : State) (p : Nat) (x : Point) : State :=
  { s with points := sset (fun _ => Point.reset) s.points p x }

def State.link (s : State) (l : Nat) : Link := sget (fun _ => Link.reset) s.links l

def State.setLink (s : State) (l : Nat) (x : Link) : State :=
  { s with links := sset (fun _ => Link.reset) s.links l x }

/-- Level i of the thermal block (R388, R390). -/
def State.lv (s : State) (i : Nat) : Level := sget (fun _ => Level.reset) s.thermal.lv i

/-- Access level h of HBM controller m (R390). -/
def State.accessLevel (s : State) (m : Nat) : Nat := max (s.lv (24 + m)).level (s.lv (40 + m)).level

/-- Of every 16 command slots, those in which HBM controller m issues column commands (R367, R390). -/
def State.colSlots (s : State) (m : Nat) : Nat := min s.power.memSlots (16 - s.accessLevel m)

def Core.slot (c : Core) (g : Nat) : Slot := sget (fun _ => Slot.reset) c.slots g

def Core.setSlot (c : Core) (g : Nat) (x : Slot) : Core :=
  { c with slots := sset (fun _ => Slot.reset) c.slots g x }

def Stack.chan (x : Stack) (n : Nat) : Chan := sget (fun _ => Chan.reset) x.chans n

def Stack.setChan (x : Stack) (n : Nat) (c : Chan) : Stack :=
  { x with chans := sset (fun _ => Chan.reset) x.chans n c }

/-- Slot `g` of global core `i`. -/
def State.slot (s : State) (i g : Nat) : Slot := (s.core i).slot g

def State.setSlot (s : State) (i g : Nat) (x : Slot) : State := s.setCore i ((s.core i).setSlot g x)

def State.chan (s : State) (k n : Nat) : Chan := (s.stk k).chan n

def State.setChan (s : State) (k n : Nat) (c : Chan) : State := s.setStk k ((s.stk k).setChan n c)

def updCore (i : Nat) (f : Core → Core) (s : State) : State := s.setCore i (f (s.core i))

def updSlot (i g : Nat) (f : Slot → Slot) (s : State) : State := s.setSlot i g (f (s.slot i g))

def updStk (k : Nat) (f : Stack → Stack) (s : State) : State := s.setStk k (f (s.stk k))

def updChan (k n : Nat) (f : Chan → Chan) (s : State) : State := s.setChan k n (f (s.chan k n))

def updLink (l : Nat) (f : Link → Link) (s : State) : State := s.setLink l (f (s.link l))

/-- Apply `f` for each element, in order. -/
def forEach {α : Type} (xs : List α) (f : α → State → State) (s : State) : State :=
  xs.foldl (fun t x => f x t) s

/-! ### Free values -/

/-- Draw a value of `w` bits that the spec leaves open (DESIGN CHOICE, log entry 2). -/
def State.draw (s : State) (w : Nat) : BitVec w × State :=
  (Config.free w s.freeCtr, { s with freeCtr := s.freeCtr + 1 })

/-! ### Memory bytes as stored (R19) -/

/-- What a byte of memory that nothing has written reads as: RAM after BIST and the zero-fill of
Table 16-1 holds zero (DEDUCED, log entry 65). -/
def memDefault (_ : Nat) : Byte := 0

/-- DEDUCED, log entry 65. -/
def State.byteAt (s : State) (a : Nat) : Byte := sget memDefault s.mem a

def State.setByte (s : State) (a : Nat) (v : Byte) : State := { s with mem := sset memDefault s.mem a v }

/-- The `n` bytes stored from `a` on. -/
def State.bytesAt (s : State) (a n : Nat) : List Byte := (List.range n).map fun i => s.byteAt (a + i)

def State.setBytes (s : State) (a : Nat) : List Byte → State
  | [] => s
  | b :: t => (s.setByte a b).setBytes (a + 1) t

/-- The canonical form of memory. -/
abbrev memWf (m : List Host.Cell) : Bool := swf memDefault m

/-! ### The tick unit's state and time -/

/-- TICK_STAT.STATE (Table 2-8). -/
def State.tickState (s : State) : Nat := s.fld Reg.TICK_STAT F.TICK_STAT.STATE

def State.inJob (s : State) : Bool := s.tickState == 2

def State.inStarting (s : State) : Bool := s.tickState == 1

/-- Free or stopped. -/
def State.noJob (s : State) : Bool := s.tickState == 0 || s.tickState == 3

def State.pkgId (s : State) : Nat := s.fld Reg.GCTL_PKG_ID F.GCTL_PKG_ID.PKG_ID

def State.modeBit (s : State) (f : Fld) : Bool := s.flag Reg.GCTL_MODE f

def State.exact (s : State) : Bool := s.modeBit F.GCTL_MODE.EXACT

/-- Core cycles of `n` in 1/8 ns at the clock step in force (R3): step k runs at 1,800 − 150 k MHz. -/
def State.clkMHz (s : State) : Nat := 1800 - 150 * s.power.step

/-- The parts of a 1/8 ns in which rates are reckoned. -/
def Tsync.unit (x : Tsync) : Nat := x.span * 1000000

/-- By how many of these parts a 1/8 ns differs from nominal: the rate trim and the internal oscillator (R355, R492). -/
def Tsync.rate (x : Tsync) : Int := x.drift * 1000000 + x.osc * x.span

/-- What `d` 1/8 ns give the timebase: the slew of the interval under way and the rate in force, spread evenly, with
the fraction carried on; a step back is taken by standing still (R355, R356) (DEDUCED, log entry 85). -/
def Tsync.run (d : Nat) (x : Tsync) : Nat × Tsync :=
  let e := min d x.left
  let sum : Int := x.frac + x.slew * 1000000 * e + x.rate * d
  let up := (d + sum / (x.unit : Int)).toNat
  let held := min x.hold up
  (up - held, { x with left := x.left - e, frac := (sum % (x.unit : Int)).toNat, hold := x.hold - held })

/-- Time advances to `t` if it is still ahead, and the timebase with it, unless every clock stands (R32, R391) (DESIGN
CHOICE, log entry 6). -/
def State.advance (s : State) (t : Nat) : State :=
  if s.now < t then
    if s.down then { s with now := t }
    else
      let (up, x) := s.tsync.run (t - s.now)
      { s with now := t, tb := s.tb + up, tsync := x }
  else s

/-- The 1/8 ns after which the timebase will have gained `y`, rounded up. -/
def Tsync.wait (y : Nat) (x : Tsync) : Nat :=
  let fast := (max 1 ((x.unit : Int) + x.slew * 1000000 + x.rate)).toNat
  let rate := (max 1 ((x.unit : Int) + x.rate)).toNat
  let y := y + x.hold
  let first := x.left * fast / x.unit
  if y ≤ first then ceilDiv (y * x.unit) fast else x.left + ceilDiv ((y - first) * x.unit) rate

/-- Time advances until the timebase reads `t` 1/8 ns, if that is still ahead; what the timebase would have gone past
`t` is carried on (DESIGN CHOICE, log entry 6). -/
def State.advanceTb (s : State) (t : Nat) : State :=
  if s.tb < t then
    let v := s.advance (s.now + s.tsync.wait (t - s.tb))
    { v with tb := t, tsync := { v.tsync with frac := v.tsync.frac + (v.tb - t) * v.tsync.unit } }
  else s

def usec (n : Nat) : Nat := 8000 * n

def msec (n : Nat) : Nat := 8000000 * n

end Sys2Proof.Machine
end

