-- ==== Sys2Proof/Machine/Points.lean ====
section
/-! DEFINITION. The regulated points and what a request does at one: masters, buckets, waiting and the queue
(R263, R264, R272, R275, R276). Buckets are kept in 1/10,240 of a token, in which every fill of 64 ns is a whole
number. -/

namespace Sys2Proof.Machine

open Sys2Proof

def updPoint (p : Nat) (f : Point → Point) (s : State) : State := s.setPoint p (f (s.point p))

/-! ### Points and masters (Tables 9-1 and 9-2) -/

/-- The stack of a stream-engine channel or core miss path. -/
def masterStack (m : Nat) : Option Nat :=
  if m < 0x300 then some (m / 32) else if m < 0x480 then some ((m - 0x300) / 16) else none

/-- Is master `m` listed for point `p`? -/
def listed (p m : Nat) : Bool :=
  if m > 0x489 then false
  else if p < 8 then true
  else if p < 16 then m < 0x300 || (decide (0x480 ≤ m) && decide (m ≤ 0x487)) || m == 0x489
  else masterStack m == some (p - 16)

/-- Writes that count against no master: the write-back of a split change (R502). -/
def noMaster : Nat := 0x7FF

/-- Queue depth of a point in 64 B entries. -/
def pointDepth (p : Nat) : Nat := if p < 8 then 256 else 128

def Point.guarOf (x : Point) (m : Nat) : Nat := sget (fun _ => 0) x.guar m

/-- SUM(p). -/
def Point.sum (x : Point) : Nat := (x.guar.map (·.2)).sum

/-! ### Tokens (R272, R274) -/

def tokenUnit : Nat := 10240

/-- 64 B entries of a request. -/
def BwrReq.entries (r : BwrReq) : Nat := ceilDiv r.bytes 64

/-- What a request needs to leave: a token per entry, and none more than a bucket can hold, which the 33 flits of a
whole burst would (DEDUCED, log entry 84); a write of no master needs none (R502). -/
def BwrReq.need (r : BwrReq) : Nat := if r.master = noMaster then 0 else min r.entries 32 * tokenUnit

def Point.occupancy (x : Point) : Nat := (x.queue.map BwrReq.entries).sum

/-- The shared remainder of a point in 0.1 GB/s (R267). -/
def Point.remainder (x : Point) : Nat := x.eff - x.sum * x.cap / 1024

/-- Has master `m` a request waiting at its source for this point, or in its queue? -/
def Point.has (x : Point) (m : Nat) : Bool := (x.waiting ++ x.queue).any fun r => r.master == m

/-- The masters backlogged since the window began lose one that has no request left. -/
def Point.backlogSettle (x : Point) : Point := { x with backlog := x.backlog.filter x.has }

/-- Let the oldest waiting request of each master leave while its tokens and the queue allow (R272). -/
def Point.leave (depth : Nat) (x : Point) : Point :=
  let step := fun (acc : Point × List Nat) (r : BwrReq) =>
    let (x, stuck) := acc
    let need := r.need
    let g := sget (fun _ => 0) x.gBucket r.master
    let h := sget (fun _ => 0) x.sBucket r.master
    if stuck.contains r.master || g + h < need || depth < x.occupancy + r.entries then (x, r.master :: stuck)
    else
      let fromG := min g need
      ({ x with gBucket := sset (fun _ => 0) x.gBucket r.master (g - fromG),
                sBucket := sset (fun _ => 0) x.sBucket r.master (h - (need - fromG)),
                waiting := x.waiting.erase r,
                queue := x.queue ++ [{ r with gOnly := need != 0 && fromG == need }] }, stuck)
  (x.waiting.foldl step (x, [])).1

/-- A request for point `p`: `deadline` is a time of the timebase in 1/8 ns; one that was past at its issue is
counted and dropped (R272, R276). -/
def bwrSend (p m bytes : Nat) (deadline : Option Nat) (s : State) (issued : Option Nat := none) : State :=
  if !(listed p m || (m == noMaster && decide (p < 8))) || bytes = 0 then s
  else
    let past := match deadline with | some d => decide (d < issued.getD s.tb) | none => false
    let s := if past then s.count (Reg.BWR_Pp_CNT_DLPAST p) else s
    let x := s.point p
    let r : BwrReq := { master := m, bytes := bytes, deadline := if past then none else deadline, age := x.seen }
    updPoint p (fun x => ({ x with waiting := x.waiting ++ [r], seen := x.seen + 1 }).leave (pointDepth p)) s

/-- A request of master `m` for DRAM on HBM stack `h`: the controller's point, and the injection point of
its stack (R263). The bytes move with the request, not with its service (DESIGN CHOICE, log entry 90). -/
def bwrDram (h m bytes : Nat) (deadline : Option Nat) (s : State) (issued : Option Nat := none) : State :=
  let s := match masterStack m with
    | some k => bwrSend (16 + k) m bytes deadline s issued
    | none => s
  bwrSend h m bytes deadline s issued

/-- A request of master `m` for SRAM of stack `t`: it uses the fabric when `t` is another stack. -/
def bwrSram (t m bytes : Nat) (deadline : Option Nat) (s : State) (issued : Option Nat := none) : State :=
  match masterStack m with
  | some k => if k = t then s else bwrSend (16 + k) m bytes deadline s issued
  | none => s

/-- Does request `a` go before `b` (R275)? -/
def BwrReq.before (a b : BwrReq) : Bool :=
  match a.deadline, b.deadline with
  | some x, some y => if x = y then decide (a.master < b.master) else decide (x < y)
  | some _, none => true
  | none, some _ => false
  | none, none =>
    if a.gOnly != b.gOnly then a.gOnly
    else if a.age = b.age then decide (a.master < b.master)
    else decide (a.age < b.age)

end Sys2Proof.Machine
end

