-- ==== Sys2Proof/Machine/Ops.lean ====
section
/-! DEFINITION. The named operations over State that every unit uses: interrupts (R461, R462), sending of
messages (R343-R348), membership, fault reports (R447-R454) and refused accesses (R31). -/

namespace Sys2Proof.Machine

open Sys2Proof

/-! ### Interrupts (R461, R462) -/

/-- The condition of vector `v` (Table 18-4). -/
def State.intCond (s : State) (v : Nat) : Bool :=
  match v with
  | 0 => s.flag Reg.FLT_CTL F.FLT_CTL.IE && (s.pair Reg.FLT_PEND_LO != 0 || s.pair Reg.FLT_FPEND_LO != 0)
  | 1 => s.flag Reg.ERL_CTL F.ERL_CTL.IE && s.reg Reg.ERL_WR != s.reg Reg.ERL_RD
  | 2 => s.flag Reg.THM_CTL F.THM_CTL.IE && s.reg Reg.THM_EVT != 0
  | 3 => F.PWR_CTL.IE.get s.power.ctl != 0 && s.reg Reg.PWR_EVT != 0
  | 4 => s.flag Reg.BWR_CTL F.BWR_CTL.MISS_IE &&
      (List.range 37).any fun k => s.reg (Reg.BWR_MISSk k) != 0
  | 5 => s.flag Reg.SVC_CTL F.SVC_CTL.IE && s.reg Reg.SVC_EVT != 0
  | 6 => (List.range 8).any fun p =>
      s.flag (Reg.LNKp_CTL p) F.LNKp_CTL.IE && s.reg (Reg.LNKp_EVT p) != 0
  | 7 => false
  | v => s.reg (Reg.STK_SE_IRQ_DONE (v - 8)) != 0 || s.reg (Reg.STK_SE_IRQ_HALT (v - 8)) != 0

/-- Vector `v` sends one message, or sets its pending bit while masked (R462). -/
def msixSend (v : Nat) (p : Pcie) : Pcie :=
  if p.unmasked.contains v then { p with sent := v :: p.sent } else { p with pba := insertNat v p.pba }

/-- Bring vector `v` up to date: one message when its condition becomes true, or after a feeding
write while it holds; a pending bit ends with the condition (R462) (DEDUCED, log entry 52). -/
def intSettle1 (s : State) (fed : Bool) (v : Nat) : State :=
  let c := s.intCond v
  let was := s.pcie.cond.contains v
  let p := s.pcie
  let p := if c && (!was || fed) then msixSend v p else p
  let p := if c then p else { p with pba := p.pba.filter (· != v) }
  { s with pcie := { p with cond := if c then insertNat v p.cond else p.cond.filter (· != v) } }

/-- Bring vector `v` up to date after an event of the hardware. -/
def intEvent (v : Nat) (s : State) : State := intSettle1 s false v

/-- The level of THERMTRIP_N: low while the shutdown latch holds (R391, R490). -/
def State.thermtripN (s : State) : Bool := !s.thermal.shut

/-- FAULT_N is driven low (R454). -/
def State.faultN (s : State) : Bool :=
  !(s.flag Reg.FLT_CTL F.FLT_CTL.PIN_EN && (s.pair Reg.FLT_PEND_LO != 0 || s.pair Reg.FLT_FPEND_LO != 0))

/-! ### Sending messages (R339-R348) -/

/-- Bytes [i, i + n) of a message's BODY, counted from message byte 32. -/
def Msg.bodyAt (m : Msg) (byte n : Nat) : Nat := bitsOf m.body (8 * (byte - 32)) (8 * n)

/-- `x` placed at message byte `byte` of a BODY. -/
def bodyPut (byte x : Nat) : Nat := x * 2 ^ (8 * (byte - 32))

/-- The virtual channel of a message type (Table 12-9). -/
def vcOf (type : Nat) : Nat :=
  if type = 2 then 1 else if type = 1 || type = 3 || type = 4 then 2
  else if type = 5 || type = 6 then 3 else 0

/-- Flits of a message: its header and its data (R339). -/
def Msg.flits (m : Msg) : Nat := 1 + ceilDiv m.data.length 64

/-- Flits queued for a link (R346). -/
def Link.queued (l : Link) : Nat := l.wire.length + (l.queue.map Msg.flits).sum

/-- The common feature bit `b` of link l (R330). -/
def State.linkFeat (s : State) (l b : Nat) : Bool := s.bit (Reg.LNKp_FEATk (l / 4) (l % 4)) b

/-- A feature usable now on link l: common on the link, and in a job also in the job feature set
(R446). -/
def State.featOn (s : State) (l b : Nat) : Bool :=
  s.linkFeat l b && (!s.inJob || s.bit Reg.GCTL_JOBFEAT b)

/-- Where a message for package d goes (R344-R348). -/
inductive RouteRes where
  | self
  | noRoute
  | discard (port : Nat)
  | link (l : Nat)
  deriving DecidableEq, Repr

/-- The candidate links of route entry d: PRIMARY and every link of ALT (R344). -/
def State.candidates (s : State) (d : Nat) : List Nat :=
  let prim := s.fld (Reg.LNK_RTd_HI d) F.LNK_RTd_HI.PRIMARY
  (List.range 32).filter fun l => l == prim || s.bit (Reg.LNK_RTd_LO d) l

def State.linkUp (s : State) (l : Nat) : Bool := (s.link l).state == .active

/-- The egress choice for destination package d (R345, R346, R348). -/
def State.route (s : State) (d : Nat) : RouteRes :=
  if d = s.pkgId then .self
  else if !s.flag (Reg.LNK_RTd_HI d) F.LNK_RTd_HI.VALID then .noRoute
  else
    let prim := s.fld (Reg.LNK_RTd_HI d) F.LNK_RTd_HI.PRIMARY
    if s.exact then if s.linkUp prim then .link prim else .discard (prim / 4)
    else
      let c := (s.candidates d).filter fun l => s.linkUp l && (l == prim || s.featOn l 1)
      match c with
      | [] => .discard (prim / 4)
      | l :: t => .link (t.foldl (fun b x =>
          if (s.link x).queued < (s.link b).queued then x else b) l)

/-- Messages that bypass the regulator (R343). -/
def bypasses (type : Nat) : Bool := [0x10, 0x11, 0x12, 0x13, 0x14].contains type

/-- The local time of a message's deadline (R276). -/
def State.msgDeadline (s : State) (m : Msg) : Option Nat :=
  if m.deadline = 0 then none else some (64 * s.tick.bnd + 8 * m.deadline)

/-- Put a message on the queue of link l. One that does not bypass the regulator is a request of master `mst` at the
port's egress point, of 64 B for each flit (R263, R276, R343). It leaves with DEADLINE 0 where the feature is not common
(Table 12-5) (DEDUCED, log entry 39). -/
def queueOn (l mst : Nat) (m : Msg) (s : State) : State :=
  let p := 8 + l / 4
  let asks := !bypasses m.type && listed p mst
  let req := if asks then some (s.point p).seen else none
  let s := if asks then bwrSend p mst (64 * m.flits) (s.msgDeadline m) s else s
  let m := { m with deadline := if s.featOn l 2 then m.deadline else 0, req := req }
  updLink l (fun x => { x with queue := x.queue ++ [m] }) s

/-- May a message of this type be sent on link l: LEND and FAULT need their common feature bit (Table 12-5)? -/
def State.typeOn (s : State) (l type : Nat) : Bool :=
  if type = 0x15 then s.featOn l 3 else if type = 0x16 then s.featOn l 5 else true

/-- Send a message for master `via`, or for the master of its tag: to this package itself it arrives at once; with no
route it is counted and refused; with no usable link it is discarded and counted (R345, R346, R348). A message of a
stack's own master uses the stack's fabric injection point too (R263) (DEDUCED, log entry 38). -/
def sendMsg (m : Msg) (s : State) (via : Option Nat := none) : State :=
  match s.route m.dst with
  | .self => { s with inbox := s.inbox ++ [(32, m)] }
  | .noRoute => s.count (Reg.LNKp_CNT_NOROUTE 0)
  | .discard p => s.count (Reg.LNKp_CNT_DISC p)
  | .link l =>
    if !s.typeOn l m.type then s
    else
      let mst := via.getD (m.tag % 2048)
      let s := match masterStack mst with
        | some k => bwrSend (16 + k) mst m.len (s.msgDeadline m) s
        | none => s
      queueOn l mst m s

/-- The header fields common to every message of this package: source, generation and epoch (DEDUCED, log entry 39). -/
def State.newMsg (s : State) (type dst : Nat) : Msg :=
  { type := type, dst := dst, src := s.pkgId, sgen := s.fld Reg.GCTL_GEN F.GCTL_GEN.GEN,
    epoch := s.roles.epoch }

/-- An ACK or NACK is awaited for the control message with this tag, which leaves now (R352). -/
def State.awaitAnswer (s : State) (tag type role : Nat) : State :=
  { s with boot := { s.boot with waits := s.boot.waits ++ [{ tag := tag, type := type, role := role, at_ := s.now }] } }

/-- The next message tag of master `mst` (Table 12-8). -/
def newTag (mst : Nat) (s : State) : Nat × State :=
  (mst + 2048 * (s.boot.nextTag % 2 ^ 21), { s with boot := { s.boot with nextTag := s.boot.nextTag + 1 } })

/-! ### Membership (R443) -/

/-- Entry i of the membership table as its two words. -/
def State.membLo (s : State) (i : Nat) : Word32 := sget (fun _ => 0) s.roles.membLo i

def State.membHi (s : State) (i : Nat) : Word32 := sget (fun _ => 0) s.roles.membHi i

/-- The package entry i names, if it is valid. -/
def State.member (s : State) (i : Nat) : Option Nat :=
  if (s.membLo i).getLsbD 31 then some (F.GCTL_MEMB_VAL_LO.PKG.get (s.membLo i)) else none

/-- The lowest index of a valid entry naming package `p`. -/
def State.memberIndex (s : State) (p : Nat) : Option Nat := firstBelow 256 fun i => s.member i == some p

/-- Every valid entry, by index, with the package it names. -/
def State.members (s : State) : List (Nat × Nat) :=
  (List.range 256).filterMap fun i => (s.member i).map fun p => (i, p)

/-- This package's own member index (GCTL_MEMB_STAT.SELF), if FOUND. -/
def State.selfIndex (s : State) : Option Nat := s.memberIndex s.pkgId

/-! ### The fault concentrator (R447-R454) -/

/-- A subject code (R447). -/
def subjOf (pkg kind index : Nat) : Nat := pkg + 4096 * kind + 65536 * index

def State.recLife (s : State) (i : Nat) : RecLife := sget (fun _ => RecLife.reset) s.faults.recs i

def setRecLife (i : Nat) (x : RecLife) (s : State) : State :=
  { s with faults := { s.faults with recs := sset (fun _ => RecLife.reset) s.faults.recs i x } }

def setFloodLife (i : Nat) (x : RecLife) (s : State) : State :=
  { s with faults := { s.faults with floods := sset (fun _ => RecLife.reset) s.faults.floods i x } }

def State.floodLife (s : State) (i : Nat) : RecLife := sget (fun _ => RecLife.reset) s.faults.floods i

/-- FLT_CFG.WINDOW boundaries. -/
def State.faultWindow (s : State) : Nat := s.fld Reg.FLT_CFG F.FLT_CFG.WINDOW

/-- The record with this key (R449). -/
def State.findRec (s : State) (subj cls : Nat) : Option Nat :=
  firstBelow 64 fun i => s.flag (Reg.FLT_RECi_CLS i) F.FLT_RECi_CLS.VALID &&
    (s.reg (Reg.FLT_RECi_SUBJ i)).toNat == subj && s.fld (Reg.FLT_RECi_CLS i) F.FLT_RECi_CLS.CLASS == cls

def State.freeRec (s : State) : Option Nat :=
  firstBelow 64 fun i => !s.flag (Reg.FLT_RECi_CLS i) F.FLT_RECi_CLS.VALID

/-- Mark the reporter in a record: its MAP bit, or OUTSIDE (R450). `b` is the record's base. -/
def markReporter (b : Nat) (who : Option Nat) (s : State) : State :=
  match who with
  | some j => s.setBit (b + 0x20 + 4 * (j / 32)) (j % 32)
  | none => s.setBit (b + 4) F.FLT_RECi_CLS.OUTSIDE.lo

/-- TICK_INDEX [31:0]. -/
def State.tickLo (s : State) : Word32 := BitVec.ofNat 32 s.tick.index

/-- Count one report in the record at base `b`: COUNT, MAP, LAST. -/
def countReport (b : Nat) (who : Option Nat) (s : State) : State :=
  let s := s.bump (b + 8) F.FLT_RECi_CNT.COUNT
  let s := markReporter b who s
  s.setReg (b + 0x10) s.tickLo

/-- Forward record i to the collector (R452). -/
def forwardRec (i : Nat) (s : State) : State :=
  let subj := s.reg (Reg.FLT_RECi_SUBJ i)
  let coll := s.fld Reg.FLT_CFG F.FLT_CFG.COLLECTOR
  if !s.flag Reg.FLT_CFG F.FLT_CFG.COLL_EN || coll == s.pkgId ||
      s.flag (Reg.FLT_RECi_CLS i) F.FLT_RECi_CLS.FORWARDED then s
  else if (List.range 64).any fun j => j != i && (s.recLife j).sent && (s.recLife j).left != 0 &&
      s.flag (Reg.FLT_RECi_CLS j) F.FLT_RECi_CLS.VALID && s.reg (Reg.FLT_RECi_SUBJ j) == subj then
    s.setFlag (Reg.FLT_RECi_CLS i) F.FLT_RECi_CLS.FWD_SUPP
  else
    let ok := s.bit Reg.GCTL_JOBFEAT 5 &&
      match s.route coll with
      | .link l => s.linkFeat l 5
      | _ => true
    if !ok then s.setFlag Reg.FLT_STAT F.FLT_STAT.FWD_DROP
    else
      let (tag, s) := newTag 0x489 s
      let w := s.reg (Reg.FLT_RECi_CLS i)
      let body := subj.toNat + 2 ^ 32 * F.FLT_RECi_CLS.CLASS.get w + 2 ^ 40 * F.FLT_RECi_CLS.DETAIL.get w
        + 2 ^ 64 * (s.tick.index % 2 ^ 64)
      let s := sendMsg { s.newMsg 0x16 coll with tag := tag, body := body } s
      let s := s.awaitAnswer tag 0x16 0xFFFF
      setRecLife i { s.recLife i with sent := true } s

/-- Open record i's window for this report and set its pending bit (R449, 2 and 3). -/
def openRec (i : Nat) (r : Report) (s : State) : State :=
  let b := Reg.FLT_RECi_SUBJ i
  let s := s.setFld (b + 4) F.FLT_RECi_CLS.DETAIL r.detail
  let s := s.bump (b + 8) F.FLT_RECi_CNT.WINDOWS
  let s := countReport b r.reporter s
  let s := setRecLife i { left := s.faultWindow, sent := false } s
  let s := s.setBit (Reg.FLT_PEND_LO + 4 * (i / 32)) (i % 32)
  if s.flag (b + 4) F.FLT_RECi_CLS.FORWARDED then s else forwardRec i s

/-- Fold a report into the flood record of its class (R451). -/
def foldFlood (r : Report) (s : State) : State :=
  let b := Reg.FLT_FLOODc_SUBJ r.cls
  let s := s.setFlag Reg.FLT_STAT F.FLT_STAT.FLOOD
  if (s.floodLife r.cls).left == 0 then
    let fresh := !s.flag (b + 4) F.FLT_RECi_CLS.VALID
    let s := s.setReg b (BitVec.ofNat 32 r.subj)
    let s := s.setFld (b + 4) F.FLT_RECi_CLS.CLASS r.cls
    let s := s.setFld (b + 4) F.FLT_RECi_CLS.DETAIL r.detail
    let s := s.setFlag (b + 4) F.FLT_RECi_CLS.VALID
    let s := if fresh then s.setReg (b + 0xC) s.tickLo else s
    let s := s.bump (b + 8) F.FLT_RECi_CNT.WINDOWS
    let s := countReport b r.reporter s
    let s := setFloodLife r.cls { left := s.faultWindow, sent := false } s
    s.setBit (Reg.FLT_FPEND_LO + 4 * (r.cls / 32)) (r.cls % 32)
  else countReport b r.reporter s

/-- One report to the concentrator (R449, R451). -/
def report (r : Report) (s : State) : State :=
  intEvent 0 <|
    match s.findRec r.subj r.cls with
    | some i =>
      if (s.recLife i).left != 0 then countReport (Reg.FLT_RECi_SUBJ i) r.reporter s else openRec i r s
    | none =>
      match s.freeRec with
      | some i =>
        let b := Reg.FLT_RECi_SUBJ i
        let s := s.setReg b (BitVec.ofNat 32 r.subj)
        let s := s.setReg (b + 4) (BitVec.ofNat 32 (r.cls + 2 ^ 31))
        let s := s.setFlag (b + 4) F.FLT_RECi_CLS.FORWARDED r.remote
        let s := s.setReg (b + 0xC) s.tickLo
        openRec i r s
      | none => foldFlood r s

/-- A report of this package about its own unit `kind` number `index` (Table 17-7). -/
def reportLocal (kind index cls : Nat) (detail : Nat := 0) (s : State) : State :=
  report { subj := subjOf s.pkgId kind index, cls := cls, detail := detail, reporter := s.selfIndex } s

/-- A report of this package about package `p` as a whole. -/
def reportPkg (p cls : Nat) (detail : Nat := 0) (s : State) : State :=
  report { subj := subjOf p 0 0, cls := cls, detail := detail, reporter := s.selfIndex } s

/-! ### Refused accesses (R31) -/

/-- Who accesses, as GCTL_DECODE_ERR records it: MASTER, STACK, CORE. -/
structure Src where
  master : Nat
  stack : Nat := 31
  core : Nat := 0
  deriving DecidableEq, Repr

/-- Record a refused access to local address `a` with KIND `k` (R31). -/
def decodeErr (who : Src) (a k : Nat) (s : State) : State :=
  let hi := Reg.GCTL_DECODE_ERR_HI
  if s.flag hi F.GCTL_DECODE_ERR_HI.VALID then s.bump hi F.GCTL_DECODE_ERR_HI.MORE
  else
    let w := bitsOf a 32 8 + 2 ^ 8 * k + 2 ^ 12 * who.master + 2 ^ 15 * who.stack + 2 ^ 20 * (who.core % 16)
      + 2 ^ 31
    let s := (s.setReg Reg.GCTL_DECODE_ERR_LO (BitVec.ofNat 32 a)).setReg hi (BitVec.ofNat 32 w)
    reportLocal 0 0 0x01 k s

end Sys2Proof.Machine
end

