-- ==== Sys2Proof/Machine/Map.lean ====
section
/-! DEFINITION. The address maps every master decodes against (R19-R27) and the tables of retired
memory (R298-R304). -/

namespace Sys2Proof.Machine

open Sys2Proof

/-- Where a local address lies (Table 1-5): DRAM, slab `c` of stack `s` at `off`, scratch of core
`c` of stack `s` at `off`, or register space at `off`. -/
inductive Tgt where
  | dram
  | slab (s c off : Nat)
  | scratch (s c off : Nat)
  | reg (off : Nat)
  deriving DecidableEq, Repr

/-- The base of slab c of stack s, and of a scratch window (R19). -/
def slabBase (s c : Nat) : Nat := 0x8000000000 + s * 0x40000000 + c * 0x4000000

def scratchBase (s c : Nat) : Nat := 0xA000000000 + s * 0x4000000 + c * 0x400000

def regBase : Nat := 0xF000000000

/-- The resident size of every slab of stack k in bytes (R21, R216). -/
def State.residentSize (s : State) (k : Nat) : Nat := (s.stk k).l2.res * 0x800000

/-- The scratch size of core i (R22). -/
def State.scratchSize (s : State) (i : Nat) : Nat := 0x300000 - (s.core i).l1sz * 0x40000

/-! ### DRAM (R23, R238, R303, R304) -/

/-- The HBM stack of a DRAM address and its address there (R23). -/
def hbmOf (a : Nat) : Nat × Nat := (bitsOf a 12 3, (a / 2 ^ 15) * 2 ^ 12 + a % 2 ^ 12)

/-- The local address of HBM-stack address b of HBM stack m. -/
def dramAddr (m b : Nat) : Nat := (b / 2 ^ 12) * 2 ^ 15 + m * 2 ^ 12 + b % 2 ^ 12

/-- Where an HBM device holds a 64 B access (Table 7-9). -/
structure HbmPlace where
  channel : Nat
  pseudo : Nat
  sid : Nat
  group : Nat
  bank : Nat
  row : Nat
  column : Nat
  deriving DecidableEq, Repr

/-- The place of HBM-stack address `b`: pseudo-channel index b[11:6] xor b[17:12] (R238). -/
def hbmPlace (b : Nat) : HbmPlace :=
  let p := bitsOf b 6 6 ^^^ bitsOf b 12 6
  { channel := bitsOf p 1 5, pseudo := bitsOf p 0 1, sid := bitsOf b 34 2, group := bitsOf b 16 2,
    bank := bitsOf b 18 2, row := bitsOf b 20 14, column := bitsOf b 12 4 }

/-- Bank number k of HBM-stack address b (R304). -/
def bankOf (b : Nat) : Nat :=
  let x := hbmPlace b
  16 * x.sid + 4 * x.group + x.bank

/-- Is the bank of `b` disabled on HBM stack m? A bit cleared in the table stays in force until the
next boundary (R304). -/
def State.bankOff (s : State) (m b : Nat) : Bool :=
  bitOf (s.pair (Reg.MCm_BANK_DIS_LO m)) (bankOf b) || (s.mc m).banksLeaving.contains (bankOf b)

/-- The valid remap entries of HBM stack m as (FROM, TO), entries whose VALID was cleared since the
last boundary included (R303). -/
def State.remaps (s : State) (m : Nat) : List (Nat × Nat) :=
  let lo := Reg.MCm_REMAPi_LO m 0
  (s.regs.filterMap fun (a, w) =>
    if lo ≤ a ∧ a < lo + 2048 ∧ (a - lo) % 8 = 4 ∧ w.getLsbD 31 then
      some (s.fld (a - 4) F.MCm_REMAPi_LO.FROM, F.MCm_REMAPi_HI.TO.get w)
    else none) ++ (s.mc m).remapsLeaving

/-- Is HBM stack m excluded (R426)? -/
def State.hbmExcluded (s : State) (m : Nat) : Bool := s.boot.exclHbm.contains m

/-- The HBM-stack address an access to `b` reaches (none: retired, R298): the issued address is
checked against the disabled banks, then remapped, then checked again (R303, R304) (DEDUCED, log entry 61). -/
def State.hbmReach (s : State) (m b : Nat) : Option Nat :=
  if s.hbmExcluded m || s.bankOff m b then none
  else
    let r := s.remaps m
    if r.any fun e => e.2 == b / 4096 then none
    else
      match r.find? fun e => e.1 == b / 4096 with
      | none => some b
      | some e =>
        let b' := e.2 * 4096 + b % 4096
        if s.bankOff m b' then none else some b'

/-- The DRAM address whose storage an access to DRAM address `a` reaches (none: retired). -/
def State.dramReach (s : State) (a : Nat) : Option Nat :=
  let (m, b) := hbmOf a
  (s.hbmReach m b).map (dramAddr m)

/-! ### Slabs (R21, R27, R301) -/

/-- The port a slab offset lies behind (R21). -/
def portOf (off : Nat) : Nat := bitsOf off 8 3

/-- Valid granule entries of stack k as (slab, granule), entries cleared since the last boundary
included (R301). -/
def State.granules (s : State) (k : Nat) : List (Nat × Nat) :=
  let lo := Reg.STK_MERE_GRETi k 0
  (s.regs.filterMap fun (a, w) =>
    if lo ≤ a ∧ a < lo + 256 ∧ w.getLsbD 31 then
      some (F.STK_MERE_GRETi.SLAB.get w, F.STK_MERE_GRETi.GRAN.get w)
    else none) ++ (s.stk k).granLeaving

/-- Is region r of slab c of stack k retired (R27)? -/
def State.regionRetired (s : State) (k c r : Nat) : Bool := (s.stk k).bonds.fenced.contains (c, r)

def State.slabRetired (s : State) (k c off : Nat) : Bool :=
  s.regionRetired k c (portOf off) || (s.granules k).contains (c, off / 65536)

/-- Supply of core i and its slab (R360). -/
def State.gate (s : State) (i : Nat) : Gate := sget (fun _ => Gate.reset) s.power.gates i

/-- Core i, or stack k, is excluded (R426). -/
def State.coreExcluded (s : State) (i : Nat) : Bool := s.boot.exclCores.contains i

def State.stackExcluded (s : State) (k : Nat) : Bool := s.boot.exclStacks.contains k

/-- Core i is admitted (R442). -/
def State.coreAdmitted (s : State) (i : Nat) : Bool := s.boot.coreIn.contains i

def State.stackAdmitted (s : State) (k : Nat) : Bool := s.boot.stackIn.contains k

/-! ### Decode (R19-R27, Table 1-6) -/

/-- What decoding a local address gives: a target, or the KIND of its refusal; `tgt` is kept for a
retired region, whose refusal has its own outcomes (R27). -/
inductive Dec where
  | ok (t : Tgt)
  | err (kind : Nat)
  deriving DecidableEq, Repr

/-- Decode local address `a` for any master, before Table 1-6's permissions (R19-R22, R27, R298,
R360); an offset of the cache region inside a fenced region is refused as cache region for every master (DEDUCED,
log entry 61). -/
def decode (s : State) (a : Nat) : Dec :=
  if a < 0x6000000000 then if (s.dramReach a).isSome then .ok .dram else .err 5
  else if 0x8000000000 ≤ a ∧ a < 0x8600000000 then
    let o := a - 0x8000000000
    let k := o / 0x40000000
    let c := o % 0x40000000 / 0x4000000
    let off := o % 0x4000000
    if !(s.gate (16 * k + c)).slabOn || s.stackExcluded k || (s.stk k).bonds.lost then .err 1
    else if s.residentSize k ≤ off then .err 3
    else if s.slabRetired k c off then .err 5
    else .ok (.slab k c off)
  else if 0xA000000000 ≤ a ∧ a < 0xA060000000 then
    let o := a - 0xA000000000
    let k := o / 0x4000000
    let c := o % 0x4000000 / 0x400000
    let off := o % 0x400000
    if !(s.gate (16 * k + c)).coreOn || s.coreExcluded (16 * k + c) then .err 1
    else if s.scratchSize (16 * k + c) ≤ off then .err 4
    else .ok (.scratch k c off)
  else if 0xF000000000 ≤ a ∧ a < 0xF004000000 then .ok (.reg (a - regBase))
  else .err 1

/-- The stack block a register offset lies in (Table 1-7). -/
def stkBlockOf (off : Nat) : Option Nat :=
  if 0x1000000 ≤ off ∧ off < 0x2800000 then some ((off - 0x1000000) / 0x100000) else none

/-- What a fabric address names here: a local address, a refusal KIND, or another package (R24,
R25). -/
inductive Fab where
  | here (a : Nat)
  | refuse (kind : Nat)
  | far (pkg a : Nat)
  deriving DecidableEq, Repr

/-- Decode a 64-bit fabric address field; the register space of another package is refused with KIND 7 (R24, R25,
R26, Table 1-6). -/
def fabric (s : State) (f : Nat) : Fab :=
  let pkg := bitsOf f 52 12
  let a := bitsOf f 0 40
  if bitsOf f 40 12 != 0 then .refuse 2
  else if pkg = s.pkgId then .here a
  else if 0xF000000000 ≤ a ∧ a < 0xF004000000 then .refuse 7
  else .far pkg a

/-- Decode for a group's load or store (Table 1-6): own-stack register space allowed, other register
space KIND 6; an address with [63:40] non-zero is a fabric address (R125). -/
def decodeGroup (s : State) (k : Nat) (f : Nat) : Dec :=
  let go (a : Nat) : Dec :=
    match decode s a with
    | .ok (.reg off) => if stkBlockOf off = some k then .ok (.reg off) else .err 6
    | d => d
  if f < 2 ^ 40 then go f
  else
    match fabric s f with
    | .here a => go a
    | .refuse kind => .err kind
    | .far _ _ => .err 7

/-- Decode for instruction fetch (Table 1-6): scratch and register space KIND 8. -/
def decodeFetch (s : State) (a : Nat) : Dec :=
  match decode s a with
  | .ok (.reg _) => .err 8
  | .ok (.scratch _ _ _) => .err 8
  | d => d

/-- Decode for the stream engine and link ingress on a local address (Table 1-6): no register
space. -/
def decodeMem (s : State) (a : Nat) : Dec :=
  match decode s a with
  | .ok (.reg _) => .err 6
  | d => d

/-- The core whose slab or scratch window local address `a` lies in (Table 1-5). -/
def windowCore (a : Nat) : Option Nat :=
  if 0x8000000000 ≤ a ∧ a < 0x8600000000 then some ((a - 0x8000000000) / 0x4000000)
  else if 0xA000000000 ≤ a ∧ a < 0xA060000000 then some ((a - 0xA000000000) / 0x400000)
  else none

/-- Decode for link ingress: the scratch window or slab of a core that is gated, excluded or not admitted
is refused as unmapped, whatever stands there (R26, R438). -/
def decodeIngress (s : State) (a : Nat) : Dec :=
  match windowCore a with
  | some i =>
    if !(s.gate i).coreOn || s.coreExcluded i || !s.coreAdmitted i then .err 1 else decodeMem s a
  | none => decodeMem s a


end Sys2Proof.Machine
end

