-- ==== Sys2Proof/Machine/Bwr.lean ====
section
/-! DEFINITION. The bandwidth regulator: guarantees and admission, filling and feedback, service and misses
(R265-R279). -/

namespace Sys2Proof.Machine

open Sys2Proof

/-! ### Guarantees (R267-R271) -/

/-- Why a guarantee of `g` units for master `m` is refused at point `p`, in the order of R269 rule 3;
none: it is admitted there. -/
def denyReason (s : State) (m g p : Nat) : Option Nat :=
  let x := s.point p
  let old := x.guarOf m
  if 1024 < g then some 5
  else if !listed p m then (if g = 0 then none else some 3)
  else if g = 0 then none
  else if x.cap = 0 then some 4
  else if old = 0 ∧ 64 ≤ x.guar.length then some 2
  else if old < g ∧ 1024 < x.sum - old + g then some 1
  else none

/-- One guarantee request at several points, in ascending order: admitted at every one or at none (R269). -/
def requestGuarantee (m g : Nat) (ps : List Nat) (s : State) : Bool × State :=
  match ps.findSome? fun p => (denyReason s m g p).map fun r => (p, r) with
  | some (p, r) =>
    let s := s.setFlag Reg.BWR_STAT F.BWR_STAT.ADMIT_DENIED
    (false, (s.setFld Reg.BWR_STAT F.BWR_STAT.DENY_REASON r).setFld Reg.BWR_STAT F.BWR_STAT.DENY_POINT p)
  | none =>
    (true, forEach ps (fun p s => updPoint p (fun x => { x with guar := sset (fun _ => 0) x.guar m g }) s) s)

/-- Release every guarantee of the masters for which `p` holds (R271). -/
def releaseGuarantees (p : Nat → Bool) (s : State) : State :=
  forEach (List.range 40) (fun q s => updPoint q (fun x => { x with guar := sdrop p x.guar }) s) s

/-! ### Filling and feedback (R272-R274) -/

/-- 64 ns of filling (R272, R274): guarantee buckets at their share of CAP, shared buckets of masters
that wait at SHARE of the remainder. -/
def Point.fill (exact : Bool) (x : Point) : Point :=
  let top := 32 * tokenUnit
  let g := x.guar.foldl (fun b e => sset (fun _ => 0) b e.1 (min top (sget (fun _ => 0) b e.1 + e.2 * x.cap))) x.gBucket
  let ms := (x.waiting.map (·.master)).dedup
  let h := ms.foldl (fun b m =>
    if exact && x.guarOf m != 0 then b
    else sset (fun _ => 0) b m (min top (sget (fun _ => 0) b m + x.share * x.remainder))) x.sBucket
  { x with gBucket := g, sBucket := h }

/-- The feedback of R273 at level `lv`. -/
def Point.feedback (lv : Nat) (x : Point) : Point :=
  if lv < x.occupancy then { x with sBucket := [], share := max (x.share / 2) 4 }
  else if x.occupancy < lv / 2 then { x with share := min (x.share + 64) 1024 }
  else x

/-- At the next 64 ns of the timebase each point fills its buckets for that time, lets requests leave, and compares
its occupancy with LEVEL (R272, R273). -/
def execBwrFeedback (s : State) : Out := ifUp s <|
  let s := s.advanceTb ((s.tb / 512 + 1) * 512)
  .next (forEach (List.range 40) (fun p s =>
    let lv := s.fld (Reg.BWR_Pp_CFG p) F.BWR_Pp_CFG.LEVEL
    updPoint p (fun x => ((x.fill s.exact).leave (pointDepth p)).feedback lv) s) s)

/-! ### Service and misses (R275-R279) -/

/-- The request a point serves next. -/
def Point.next (x : Point) : Option BwrReq :=
  match x.queue with
  | [] => none
  | r :: t => some (t.foldl (fun b y => if y.before b then y else b) r)

/-- A miss of master `m` at point `p`; KIND 1 is a deadline miss (R279). -/
def bwrMiss (kind m p : Nat) (s : State) : State :=
  let s := s.setBit (Reg.BWR_MISSk (m / 32)) (m % 32)
  let s := s.count (if kind = 0 then Reg.BWR_Pp_CNT_GMISS p else Reg.BWR_Pp_CNT_DLMISS p)
  let s := if s.flag Reg.BWR_LASTMISS F.BWR_LASTMISS.VALID then s
    else s.setReg Reg.BWR_LASTMISS (BitVec.ofNat 32 (m + 2 ^ 11 * p + 2 ^ 17 * kind + 2 ^ 31))
  intEvent 4 s

/-- Point p begins the transfer of request `r` of its queue (R275, R278). -/
def bwrServe (p : Nat) (r : BwrReq) (s : State) : State :=
  let late := match r.deadline with | some d => decide (d < s.tb) | none => false
  let s := updPoint p (fun x =>
    ({ x with queue := x.queue.erase r,
              served := sset (fun _ => 0) x.served r.master (sget (fun _ => 0) x.served r.master + r.bytes) }
      |>.leave (pointDepth p)).backlogSettle) s
  if late then bwrMiss 1 r.master p s else s

/-- BWR_REQUEST_SERVE: a point serves its next request (R275), an HBM controller's only if it may issue column commands
(R367). -/
def execBwrRequestServe (p : Fin 40) (s : State) : Out := ifUp s <|
  match (s.point p).next with
  | none => .next s
  | some r => .next (if p.val < 8 && s.colSlots p == 0 then s else bwrServe p r s)

/-- A new window begins: nothing served, every master with a request backlogged. -/
def Point.window (x : Point) : Point :=
  { x with served := [], backlog := (x.guar.map (·.1)).filter x.has }

/-- The first window of a tick begins at its boundary; one that the boundary cut short is not judged (R277). -/
def bwrRestart (s : State) : State :=
  { forEach (List.range 40) (fun p s => updPoint p Point.window s) s with bwrWin := 0 }

/-- At the end of a window of 1,024 ns of the tick each guarantee backlogged throughout and short of its bytes
counts a miss; a window that the nominal end would cut short is not judged (R277). -/
def execBwrMissWindow (s : State) : Out := ifUp s <|
  let t := 64 * s.tick.bnd + 8192 * (s.bwrWin + 1)
  if 64 * (s.tick.bnd + s.tick.period) < t then .next s
  else
    let s := s.advanceTb t
    let s := forEach (List.range 40) (fun p s =>
      let x := s.point p
      let short := x.backlog.filter fun m =>
        decide (sget (fun _ => 0) x.served m + 2048 < x.guarOf m * x.cap / 10)
      let s := forEach short (fun m s => bwrMiss 0 m p s) s
      updPoint p Point.window s) s
    .next { s with bwrWin := s.bwrWin + 1 }

/-- A write of BWR_GVAL (R269, R270). -/
def writeGval (v : Word32) (s : State) : State :=
  (requestGuarantee (s.fld Reg.BWR_GSEL F.BWR_GSEL.MASTER) (F.BWR_GVAL.UNITS.get v)
    [s.fld Reg.BWR_GSEL F.BWR_GSEL.POINT] s).2

/-- The guarantee in force for the master and point in BWR_GSEL. -/
def readGval (s : State) : Nat :=
  (s.point (s.fld Reg.BWR_GSEL F.BWR_GSEL.POINT)).guarOf (s.fld Reg.BWR_GSEL F.BWR_GSEL.MASTER)

end Sys2Proof.Machine
end

