-- ==== Sys2Proof/Machine/Integrity.lean ====
section
/-! DEFINITION. Codes of stored words (R280, R281), the error log (R293-R297) and the check-value
function (R306). -/

namespace Sys2Proof.Machine

open Sys2Proof

/-! ### SECDED (72,64) -/

/-- The columns of data bits 0 to 63 (R280): the 56 values of weight 3, then the first 8 of weight
5, ascending. -/
def dataColumns : List Nat :=
  [0x07, 0x0B, 0x0D, 0x0E, 0x13, 0x15, 0x16, 0x19, 0x1A, 0x1C, 0x23, 0x25, 0x26, 0x29, 0x2A, 0x2C] ++
  [0x31, 0x32, 0x34, 0x38, 0x43, 0x45, 0x46, 0x49, 0x4A, 0x4C, 0x51, 0x52, 0x54, 0x58, 0x61, 0x62] ++
  [0x64, 0x68, 0x70, 0x83, 0x85, 0x86, 0x89, 0x8A, 0x8C, 0x91, 0x92, 0x94, 0x98, 0xA1, 0xA2, 0xA4] ++
  [0xA8, 0xB0, 0xC1, 0xC2, 0xC4, 0xC8, 0xD0, 0xE0, 0x1F, 0x2F, 0x37, 0x3B, 0x3D, 0x3E, 0x4F, 0x57]

/-- The column of code-word bit `j`. -/
def column (j : Nat) : Nat := if j < 64 then dataColumns.getD j 0 else 2 ^ (j - 64)

/-- XOR of the columns of the set bits of `v`, bit 0 first in `cols`. -/
def xorColumns : List Nat → Nat → Nat
  | [], _ => 0
  | c :: t, v => (if v % 2 = 1 then c else 0) ^^^ xorColumns t (v / 2)

/-- The check bits of a data word (R280). -/
def checkBits (d : Word64) : Byte := BitVec.ofNat 8 (xorColumns dataColumns d.toNat)

/-- What reading a code word finds (R281): nothing, a corrected bit, or an uncorrectable error. -/
inductive Code where
  | clean
  | corrected (bit : Nat)
  | bad
  deriving DecidableEq, Repr

/-- The outcome of a syndrome (R281). -/
def decodeSynd (y : Nat) : Code :=
  if y = 0 then .clean
  else
    match firstBelow 72 fun j => column j == y with
    | some j => .corrected j
    | none => .bad

/-- A data word with code-word bit `j` inverted. -/
def flipBit (d : Word64) (j : Nat) : Word64 := if j < 64 then d ^^^ BitVec.ofNat 64 (2 ^ j) else d

/-- Read the stored word `d` whose check bits deviate by `dev`, with the bits of `up` delivered
inverted: the syndrome, its outcome and the word delivered (R281, R282). -/
def readCode (d : Word64) (dev : Byte) (up : BitVec 72) : Nat × Code × Word64 :=
  let got := d ^^^ BitVec.setWidth 64 up
  let y := dev.toNat ^^^ (up.toNat / 2 ^ 64) ^^^ xorColumns dataColumns (up.toNat % 2 ^ 64)
  match decodeSynd y with
  | .clean => (y, .clean, got)
  | .corrected j => (y, .corrected j, flipBit got j)
  | .bad => (y, .bad, got)

/-- The deviation of a stored word's check bits after the bits of `x` flip, its own data bits among them. -/
def devFlip (dev : Byte) (x : BitVec 72) : Byte :=
  dev ^^^ BitVec.ofNat 8 (x.toNat / 2 ^ 64) ^^^ BitVec.ofNat 8 (xorColumns dataColumns (x.toNat % 2 ^ 64))

/-! ### The error log -/

/-- An error as the log records it (Table 10-2); `key` the key of R296. -/
structure ErrEntry where
  src : Nat
  sev : Nat
  scrub : Bool := false
  rmw : Bool := false
  stack : Nat := 31
  unit : Nat := 0
  port : Nat := 0
  word : Nat := 0
  count : Nat := 1
  addr : Nat := 0
  synd : Nat := 0
  bit : Nat := 0x7F
  poison : Bool := false
  master : Nat := 0x7FF
  deadBond : Bool := false
  deriving DecidableEq, Repr

/-- The key of R296. -/
def ErrEntry.key (e : ErrEntry) : List Nat :=
  if e.src = 6 then [e.src, e.unit, e.addr, e.bit] else [e.src, e.stack, e.unit, e.port, e.word, e.bit]

/-- The eight words of an entry (Table 10-2); `unit` of a DRAM source is its MC index. -/
def ErrEntry.words (e : ErrEntry) (tick : Word32) : List Word32 :=
  [ BitVec.ofNat 32 (e.src + 2 ^ 4 * e.sev + (if e.scrub then 2 ^ 6 else 0) + (if e.rmw then 2 ^ 7 else 0)
      + 2 ^ 8 * (e.stack % 32) + 2 ^ 13 * (e.unit % 16) + 2 ^ 17 * (e.port % 8) + 2 ^ 20 * (e.word % 32)
      + 2 ^ 25 * (e.count % 128)),
    BitVec.ofNat 32 e.addr,
    BitVec.ofNat 32 (bitsOf e.addr 32 8 + 2 ^ 8 * (e.synd % 256) + 2 ^ 16 * (e.bit % 128)
      + (if e.poison then 2 ^ 23 else 0)),
    tick, BitVec.ofNat 32 (e.master % 2048), 0, 0, 0 ]

/-- Entries written less entries consumed, modulo 65,536 (R293). -/
def State.erlFill (s : State) : Nat :=
  ((s.reg Reg.ERL_WR).toNat + 65536 - (s.reg Reg.ERL_RD).toNat % 65536) % 65536

/-- Write an entry into the ring, or lose it to a full ring (R293). -/
def logWrite (e : ErrEntry) (s : State) : State :=
  if s.erlFill = 256 then
    (s.count Reg.ERL_CNT_LOST).setFlag Reg.ERL_STAT F.ERL_STAT.OVF
  else
    let i := (s.reg Reg.ERL_WR).toNat
    let ring := sset (fun _ => []) s.erl.ring (i % 256) (e.words s.tickLo)
    let filter := if e.sev = 0 then (s.erl.filter ++ [{ key := e.key, index := i }]) else s.erl.filter
    let filter := filter.drop (filter.length - 16)
    let s := { s with erl := { ring := ring, filter := filter } }
    intEvent 1 (s.setReg Reg.ERL_WR (BitVec.ofNat 32 ((i + 1) % 65536)))

/-- One more corrected error of the entry with free-running index `i` (R296). -/
def logMerge (i : Nat) (s : State) : State :=
  let w := sget (fun _ => []) s.erl.ring (i % 256)
  let w0 := w.headD 0
  let n := min (bitsOf w0.toNat 25 7 + 1) 127
  let w := BitVec.ofNat 32 (putBits w0.toNat 25 7 n) :: w.tail
  { s with erl := { s.erl with ring := sset (fun _ => []) s.erl.ring (i % 256) w } }

/-- The fault subject of an uncorrectable event (R299). -/
def ErrEntry.subject (e : ErrEntry) : Nat × Nat :=
  match e.src with
  | 1 => (3, 16 * e.stack + e.unit)
  | 2 => (2, 16 * e.stack + e.unit)
  | 3 => (2, 16 * e.stack + e.unit)
  | 4 => (2, 16 * e.stack + e.unit)
  | 5 => (1, e.stack)
  | 8 => (1, e.stack)
  | _ => (6, e.unit)

/-- An error event: counted, logged under R295 and R296, and reported under R299. -/
def logErr (e : ErrEntry) (s : State) : State :=
  if e.sev = 0 then
    let s := s.count Reg.ERL_CNT_CE
    if !s.flag Reg.ERL_CTL F.ERL_CTL.CE_LOG || e.deadBond then s
    else
      match s.erl.filter.find? fun k => k.key == e.key with
      | some k => logMerge k.index s
      | none => logWrite e s
  else if e.sev = 3 then logWrite e s
  else
    let s := logWrite e (s.count Reg.ERL_CNT_UE)
    let (kind, ix) := e.subject
    reportLocal kind ix (0x20 + e.src) e.sev s

/-! ### Check values -/

/-- Bits of `v` below `w` in reverse order. -/
def reflect (w v : Nat) : Nat :=
  (List.range w).foldl (fun r i => 2 * r + (v >>> i) % 2) 0

/-- One input bit of R306. -/
def crcBit (w p reg bit : Nat) : Nat :=
  let top := ((reg >>> (w - 1)) % 2) ^^^ bit
  let r := (reg * 2) % 2 ^ w
  if top = 1 then r ^^^ (p % 2 ^ w) else r

/-- One input byte of R306. -/
def crcByte (w p : Nat) (ri : Bool) (reg : Nat) (b : Byte) : Nat :=
  let v := if ri then reflect 8 b.toNat else b.toNat
  (List.range 8).foldl (fun r i => crcBit w p r ((v >>> (7 - i)) % 2)) reg

/-- The last step of R306. -/
def crcEnd (w x : Nat) (ro : Bool) (reg : Nat) : Nat :=
  (if ro then reflect w reg else reg) ^^^ (x % 2 ^ w)

/-- CRC-32C of R307 over `bs`. -/
def crc32c (bs : List Byte) : Nat :=
  crcEnd 32 0xFFFFFFFF true (bs.foldl (crcByte 32 0x1EDC6F41 true) 0xFFFFFFFF)

/-! ### The Glint digest (R405) -/

/-- One term of a digest. -/
def glintTerm (pos val : Word64) : Word64 :=
  let z := pos * 0x9E3779B97F4A7C15 + val
  let z := (z ^^^ (z >>> 30)) * 0xBF58476D1CE4E5B9
  let z := (z ^^^ (z >>> 27)) * 0x94D049BB133111EB
  z ^^^ (z >>> 31)

end Sys2Proof.Machine
end

