-- ==== Sys2Proof/Machine/Dram.lean ====
section
/-! DEFINITION. DRAM lines behind the controller code (R286-R288) and byte-masked stores to them
(R219, R230). -/

namespace Sys2Proof.Machine

open Sys2Proof

/-! ### GF(2⁸) of R286 -/

/-- Multiply by α modulo 0x11D. -/
def gfDouble (a : Nat) : Nat := if a * 2 < 256 then a * 2 else (a * 2) ^^^ 0x11D

def gfMulN : Nat → Nat → Nat → Nat
  | 0, _, _ => 0
  | n + 1, a, b => (if b % 2 = 1 then a else 0) ^^^ gfMulN n (gfDouble a) (b / 2)

def gfMul (a b : Nat) : Nat := gfMulN 8 a b

/-- α to the power `n`. -/
def gfPow (n : Nat) : Nat := (List.range (n % 255)).foldl (fun r _ => gfDouble r) 1

/-- Syndrome j of a code word whose symbols are in error by `e` (position, error value). -/
def rsSynd (e : List (Nat × Byte)) (j : Nat) : Nat :=
  e.foldl (fun r x => r ^^^ gfMul x.2.toNat (gfPow (x.1 * j))) 0

/-- What reading a line finds (R287): nothing, one symbol corrected by a value, or bad. -/
inductive Line where
  | clean
  | corrected (sym : Nat) (val : Nat)
  | bad
  deriving DecidableEq, Repr

/-- Decode a line from its syndromes: one symbol in error, at a position below 68, or uncorrectable
(R287). -/
def rsDecode (e : List (Nat × Byte)) : Line :=
  let y0 := rsSynd e 0
  let y1 := rsSynd e 1
  let y2 := rsSynd e 2
  if y0 = 0 ∧ y1 = 0 ∧ y2 = 0 then .clean
  else if y0 = 0 then .bad
  else
    match firstBelow 68 fun i => gfMul y0 (gfPow i) == y1 && gfMul y1 (gfPow i) == y2 with
    | some i => .corrected i y0
    | none => .bad

/-- The error a list of symbol errors leaves at position `i`. -/
def symErr (e : List (Nat × Byte)) (i : Nat) : Nat :=
  e.foldl (fun r x => if x.1 = i then r ^^^ x.2.toNat else r) 0

/-! ### Lines -/

/-- The symbols in which the line at storage address `a` is stored in error. -/
def State.symsAt (s : State) (a : Nat) : List (Nat × Byte) := sget (fun _ => []) (s.mc (hbmOf a).1).syms (a / 64)

def setSyms (a : Nat) (e : List (Nat × Byte)) (s : State) : State :=
  let m := (hbmOf a).1
  let h := s.mc m
  s.setMc m { h with syms := sset (fun _ => []) h.syms (a / 64) e }

/-- Is the 64 B line at storage address `a` poisoned? -/
def State.poisoned (s : State) (a : Nat) : Bool := (s.mc (hbmOf a).1).poison.contains (a / 64)

def setPoison (a : Nat) (p : Bool) (s : State) : State :=
  let m := (hbmOf a).1
  let h := s.mc m
  s.setMc m { h with poison := if p then insertNat (a / 64) h.poison else h.poison.filter (· != a / 64) }

/-- How a memory access is made: its master, the deadline it carries and when it was issued, if not now (R276),
and whether it is a scrub read or the read of a read-modify-write. -/
structure How where
  master : Nat := noMaster
  deadline : Option Nat := none
  issued : Option Nat := none
  scrub : Bool := false
  rmw : Bool := false
  deriving DecidableEq, Repr

/-- Bytes `raw` of the line at storage address `a`, from its byte `off` on, stored with the symbol errors `e`
and the mark byte `tag0` (0x5A: poisoned): the bytes after correction, whether they are uncorrectable or
poisoned, and the state with the event logged (R287, R289, R299). -/
def judgeLine (e : List (Nat × Byte)) (how : How) (a off : Nat) (raw : List Byte) (tag0 : Nat) (s : State) :
    List Byte × Bool × State :=
  let (m, b) := hbmOf a
  let fix := fun (p v : Nat) =>
    raw.zipIdx.map fun (x, i) =>
      x ^^^ BitVec.ofNat 8 (symErr e (i + off + 3) ^^^ (if p = i + off + 3 then v else 0))
  let base : ErrEntry := { src := 6, sev := 0, scrub := how.scrub, rmw := how.rmw, unit := m, addr := b,
                           master := how.master }
  let judge := fun (tag : Nat) (bytes : List Byte) (s : State) =>
    if tag = 0 then (bytes, false, s)
    else (bytes, true,
      logErr { base with sev := if tag = 0x5A then 2 else 1, poison := tag == 0x5A } s)
  match rsDecode e with
  | .clean => judge (tag0 ^^^ symErr e 67) (fix 68 0) s
  | .corrected p v =>
    let s := logErr { base with synd := p, bit := p } s
    judge (tag0 ^^^ symErr e 67 ^^^ (if p = 67 then v else 0)) (fix p v) s
  | .bad => (fix 68 0, true, logErr { base with sev := 1 } s)

/-- The mark byte of the line at storage address `a`. -/
def State.markByte (s : State) (a : Nat) : Nat := if s.poisoned a then 0x5A else 0

/-- What a line read gives: its 64 bytes, whether they are uncorrectable or poisoned, and the state
with the event logged. `a` is the line's storage address. -/
def readLine (how : How) (a : Nat) (s : State) : List Byte × Bool × State :=
  let m := (hbmOf a).1
  let s := if how.scrub || how.rmw then s else bwrDram m how.master 64 how.deadline s how.issued
  let s := s.count (Reg.MCm_CNT_RD m)
  judgeLine (s.symsAt a) how a 0 (s.bytesAt a 64) (s.markByte a) s

/-- Store bytes in one 64 B line at storage address `a`: a whole line is written as given, a part by
read-modify-write, which corrects the line and leaves an unreadable one as it is (R230, R288). `bs` are
(offset, byte). -/
def writeLine (how : How) (a : Nat) (bs : List (Nat × Byte)) (s : State) : State :=
  let m := (hbmOf a).1
  let put := fun (s : State) => setSyms a [] (bs.foldl (fun t x => t.setByte (a + x.1) x.2) s)
  let s := if how.scrub then s else bwrDram m how.master 64 how.deadline s how.issued
  if bs.length = 64 then
    setPoison a false (put (s.count (Reg.MCm_CNT_WR m)))
  else
    let s := s.count (Reg.MCm_CNT_RMW m)
    let (old, bad, s) := readLine { how with rmw := true } a s
    if bad then s
    else
      let s := s.count (Reg.MCm_CNT_WR m)
      put (if (s.symsAt a).isEmpty then s else s.setBytes a old)

/-- The bytes of a store that lie in [lo, lo + n), as offsets from `lo`. -/
def bytesIn (bs : StoreBytes) (lo n : Nat) : List (Nat × Byte) :=
  bs.filterMap fun (a, b) => if lo ≤ a ∧ a < lo + n then some (a - lo, b) else none

/-- The distinct aligned blocks of `n` bytes a store touches, ascending. -/
def blocksOf (bs : StoreBytes) (n : Nat) : List Nat := (bs.map fun x => x.1 / n).dedup

/-- Store bytes to DRAM at local addresses: each 64 B line it touches goes where the remap table
sends it; a line that has become retired is dropped, and an L2 write-back so dropped is logged
(R304). -/
def dramStore (how : How) (wb : Bool) (bs : StoreBytes) (s : State) : State :=
  forEach (blocksOf bs 64) (fun l s =>
    match s.dramReach (l * 64) with
    | some a => writeLine how a (bytesIn bs (l * 64) 64) s
    | none =>
      if wb then
        let (m, b) := hbmOf (l * 64)
        logErr { src := 9, sev := 1, unit := m, addr := b, master := how.master } s
      else s) s

/-- Write the 64 B lines of bytes from slab `slab` of an L2 poisoned, with the bytes given (R232 step 1, R287). -/
def poisonStore (stack slab : Nat) (bs : StoreBytes) (s : State) : State :=
  forEach (blocksOf bs 64) (fun l s =>
    match s.dramReach (l * 64) with
    | some a =>
      let s := (bytesIn bs (l * 64) 64).foldl (fun t x => t.setByte (a + x.1) x.2) s
      let s := setSyms a [] (setPoison a true (s.count (Reg.MCm_CNT_WR (hbmOf a).1)))
      logErr { src := 8, sev := 2, stack := stack, unit := slab, addr := l * 64, poison := true } s
    | none => s) s

/-- Read `n` bytes of DRAM from local address `a`, line by line, uncached: the bytes and whether any
line was unreadable. -/
def dramLoad (how : How) (a n : Nat) (s : State) : List Byte × Bool × State :=
  let first := a / 64
  let last := (a + n - 1) / 64
  let (bytes, bad, s) := (List.range (last + 1 - first)).foldl
    (fun (acc : List Byte × Bool × State) i =>
      let (bytes, bad, s) := acc
      match s.dramReach ((first + i) * 64) with
      | some p =>
        let (b, e, s) := readLine how p s
        (bytes ++ b, bad || e, s)
      | none => (bytes ++ List.replicate 64 0, bad, s))
    ([], false, s)
  ((bytes.drop (a % 64)).take n, bad, s)

end Sys2Proof.Machine
end

