-- ==== Sys2Proof/Machine/Bonds.lean ====
section
/-! DEFINITION. Bonds of a stack: hits, declaration, region fences and what a fence does to the
stack L2 (R309-R317, R232, R302). -/

namespace Sys2Proof.Machine

open Sys2Proof

/-! ### Stack L2 geometry (R227, R228) -/

/-- Sets of each slab of stack k: 2,048 × n with n = 8 − RES (R227). -/
def State.l2Sets (s : State) (k : Nat) : Nat := 2048 * (8 - (s.stk k).l2.res)

/-- The home slab of line L (R228). -/
def homeSlab (l : Nat) : Nat := (List.range 8).foldl (fun h i => h ^^^ bitsOf l (4 * i) 4) 0

/-- The home set of line L in stack k. -/
def State.homeSet (s : State) (k l : Nat) : Nat := l / 16 % s.l2Sets k

/-- The key of way `w` of set `t` of slab `c`. -/
def l2Key (c t w : Nat) : Nat := 32 * (t + 16384 * c) + w

/-- Is set `t` of slab `c` of stack k out of use: its data port or both tag ports retired (R232),
its granule retired (R302), its slab without supply (R360), or its stack lost or excluded? -/
def State.setOff (s : State) (k c t : Nat) : Bool :=
  s.regionRetired k c (t % 8) || (s.regionRetired k c ((t + 1) % 8) && s.regionRetired k c ((t + 2) % 8))
    || (s.granules k).contains (c, 128 * (s.stk k).l2.res + t / 16)
    || !(s.gate (16 * k + c)).slabOn || (s.gate (16 * k + c)).slabClosing
    || (s.stk k).bonds.lost || s.stackExcluded k

/-- The dirty bytes of a line, at their addresses. -/
def CLine.dirtyBytes (x : CLine) : StoreBytes :=
  (List.range 128).filterMap fun o =>
    if x.dirty.getLsbD o then some (x.line * 128 + o, sget (fun _ => 0) x.data o) else none

/-- Mark the results of the tick invalid (R53): only in job mode. -/
def markInvalid (s : State) : State :=
  if s.inJob then { s with tick := { s.tick with invalid := true } } else s

/-- Give up the L2 lines for which `gone` holds of (slab, set): clean lines are dropped; dirty lines
are written poisoned, or lost with a data-loss fault where `blind` holds (R232). -/
def l2Retire (k : Nat) (gone blind : Nat → Nat → Bool) (s : State) : State :=
  let set (key : Nat) : Nat × Nat := (key / 32 / 16384, key / 32 % 16384)
  let hit := (s.stk k).l2.lines.filter fun e => gone (set e.1).1 (set e.1).2
  let dirty := hit.filterMap fun e =>
    match e.2 with
    | some x => if x.dirty = 0 then none else some (set e.1, x)
    | none => none
  let s := updStk k (fun x => { x with l2 := { x.l2 with
    lines := sdrop (fun key => gone (set key).1 (set key).2) x.l2.lines } }) s
  let s := forEach (dirty.filter fun e => !blind e.1.1 e.1.2) (fun e => poisonStore k e.1.1 e.2.dirtyBytes) s
  if dirty.any fun e => blind e.1.1 e.1.2 then markInvalid (reportLocal 1 k 0x07 0 s) else s

/-- What the fence of region r of slab c does to the L2 (R232, steps 1 to 3). -/
def l2RetirePort (k c r : Nat) (s : State) : State :=
  let dead (p : Nat) : Bool := s.regionRetired k c p
  l2Retire k (fun c' t => c' == c && (t % 8 == r || (dead ((t + 1) % 8) && dead ((t + 2) % 8))))
    (fun _ t => t % 8 != r) s

/-- What retiring granule G of slab c does to the L2 (R302). -/
def l2RetireGranule (k c g : Nat) (s : State) : State :=
  l2Retire k (fun c' t => c' == c && 128 * (s.stk k).l2.res + t / 16 == g) (fun _ _ => false) s

/-! ### Steering (R309) -/

/-- The lane that carries word position `w` of lane group g of slab c. -/
def BondUnit.carrier (u : BondUnit) (c g w : Nat) : Nat :=
  match u.steer.find? fun x => x.slab == c && x.group == g && x.pos == w with
  | some x => x.lane
  | none => w

/-- The word position a lane carries, if any. -/
def BondUnit.posOf (u : BondUnit) (b : Bond) : Option Nat :=
  if b.lane < 32 then
    if u.steer.any fun x => x.slab == b.slab && x.group == b.group && x.pos == b.lane then none
    else some b.lane
  else (u.steer.find? fun x => x.slab == b.slab && x.group == b.group && x.lane == b.lane).map (·.pos)

/-- The entry of a bond in the dead-bond table. -/
def BondUnit.deadEntry (u : BondUnit) (b : Bond) : Option DeadBond := u.dead.find? fun d => d.bond == b

/-- The good, unused spare lanes of a group. -/
def BondUnit.spares (u : BondUnit) (c g : Nat) : List Nat :=
  [32, 33].filter fun l => (u.deadEntry ⟨c, g, l⟩).isNone &&
    !u.steer.any fun x => x.slab == c && x.group == g && x.lane == l

/-- A dead bond that is pending or unrepaired. -/
def DeadBond.open (d : DeadBond) : Bool := d.state == .pending || d.state == .unrepaired

/-- Give the pending places of a group to its dead lanes in ascending lane order (R313). -/
def BondUnit.recompute (u : BondUnit) (c g : Nat) : BondUnit :=
  let n := (u.spares c g).length
  let mine (d : DeadBond) : Bool := d.bond.slab == c && d.bond.group == g && d.open
  let lanes := ((u.dead.filter mine).map (·.bond.lane)).mergeSort
  { u with dead := u.dead.map fun d =>
      if mine d then
        { d with state := if lanes.idxOf d.bond.lane < n then .pending else .unrepaired }
      else d }

/-! ### Fences and declaration (R313, R315) -/

/-- Fence region r of slab c of stack k at once (R315, R27): its L2 lines go by R232, its contents are lost (R316). -/
def fenceRegion (k c r : Nat) (s : State) : State :=
  if s.regionRetired k c r then s
  else
    let s := updStk k (fun x => { x with bonds := { x.bonds with fenced := x.bonds.fenced ++ [(c, r)] } }) s
    let s := { s with boot := { s.boot with recDirty := true } }
    let s := l2RetirePort k c r s
    let mine (a : Nat) : Bool :=
      decide (slabBase k c ≤ a) && decide (a < slabBase k c + 0x4000000) && portOf (a - slabBase k c) == r
    updStk k (fun x => { x with merge := sset (fun _ => []) x.merge (8 * c + r) [] })
      { s with mem := sdrop mine s.mem, sram := sdrop (fun w => mine (8 * w)) s.sram }

/-- Does word position `w` of port p of slab c carry pending or unrepaired bonds in two lane
groups? -/
def BondUnit.doubled (u : BondUnit) (c p w : Nat) : Bool :=
  1 < (u.dead.filter fun d => d.bond.slab == c && d.bond.group / 72 == p && d.open && d.pos == some w).length

/-- Enter a bond of stack k in the dead-bond table: its entry, its group's places, one bond fault (R313). -/
def enterDead (k : Nat) (b : Bond) (s : State) : State :=
  let u := (s.stk k).bonds
  let pos := u.posOf b
  let d : DeadBond := { bond := b, state := if pos.isSome then .unrepaired else .spareLost, pos := pos }
  let full := 128 ≤ u.dead.length
  let u := ({ u with dead := u.dead ++ [d], cand := u.cand.filter fun x => x.bond != b }).recompute b.slab b.group
  let s := updStk k (fun x => { x with bonds := u }) s
  let s := if full then s.setFlag (Reg.STK_BOND_STAT k) F.STK_BOND_STAT.OVF else s
  let s := { s with boot := { s.boot with recDirty := true } }
  reportLocal 3 (16 * k + b.slab) 0x06 1 s

/-- Declare a bond of stack k dead (R313): its entry, and the fence of R315. -/
def declareBond (k : Nat) (b : Bond) (s : State) : State :=
  let u := (s.stk k).bonds
  if (u.deadEntry b).isSome then s
  else
    let pos := u.posOf b
    let s := enterDead k b s
    match pos with
    | some w => if (s.stk k).bonds.doubled b.slab (b.group / 72) w then fenceRegion k b.slab (b.group / 72) s else s
    | none => s

/-- One hit on a bond at slab offset `off` (R310): its candidate entry moves to the end, the entry
hit least recently gives way, and the bond is declared dead at the threshold when its hits came from
two granules. -/
def bondHit (k : Nat) (b : Bond) (off : Nat) (s : State) : State :=
  let u := (s.stk k).bonds
  if (u.deadEntry b).isSome then s
  else
    let old := (u.cand.find? fun x => x.bond == b).getD { bond := b, hits := 0, granules := [] }
    let gr := if old.granules.contains (off / 256) || 2 ≤ old.granules.length then old.granules
              else old.granules ++ [off / 256]
    let e : Candidate := { bond := b, hits := old.hits + 1, last := slabBase k b.slab + off, granules := gr }
    let rest := u.cand.filter fun x => x.bond != b
    let rest := rest.drop (rest.length - 15)
    let s := updStk k (fun x => { x with bonds := { x.bonds with cand := rest ++ [e] } }) s
    if s.fld (Reg.STK_BOND_CFG k) F.STK_BOND_CFG.THRESH ≤ e.hits ∧ 2 ≤ gr.length then declareBond k b s
    else s

/-- The bond of code-word bit j at slab offset `off` of slab c (R283, R309). -/
def bondAt (u : BondUnit) (c off j : Nat) : Bond :=
  let g := 72 * portOf off + j
  ⟨c, g, u.carrier c g (bitsOf off 3 5)⟩

/-- The bits of the word at slab offset `off` of slab c that cross dead bonds (R283, R314). -/
def BondUnit.deadBits (u : BondUnit) (c off : Nat) : List Nat :=
  u.dead.filterMap fun d =>
    if d.bond.slab == c && d.bond.group / 72 == portOf off && d.open && d.pos == some (bitsOf off 3 5) then
      some (d.bond.group % 72)
    else none

/-- What an uncorrectable syndrome on a slab-port read says of a second bond (R311). -/
def bondDouble (k c off y : Nat) (s : State) : State :=
  let u := (s.stk k).bonds
  let p := portOf off
  let w := bitsOf off 3 5
  let firsts := u.dead.filter fun d => d.bond.slab == c && d.bond.group / 72 == p && d.open && d.pos == some w
  match firsts.findSome? fun d => firstBelow 72 fun j => column j == y ^^^ column (d.bond.group % 72) with
  | some j => bondHit k (bondAt u c off j) off s
  | none => s

end Sys2Proof.Machine
end

