-- ==== Sys2Proof/Machine/Sram.lean ====
section
/-! DEFINITION. Stored SRAM words: reads through the code, the slab-port merge buffer and narrow
stores (R281-R285, R310), of slabs and of local arrays. -/

namespace Sys2Proof.Machine

open Sys2Proof

/-- The 64-bit word number `w` as stored. -/
def State.wordAt (s : State) (w : Nat) : Word64 := BitVec.ofNat 64 (leNat (s.bytesAt (w * 8) 8))

/-- The deviation of its check bits. -/
def State.devAt (s : State) (w : Nat) : Byte := sget (fun _ => 0) s.sram w

def State.setDev (s : State) (w : Nat) (d : Byte) : State := { s with sram := sset (fun _ => 0) s.sram w d }

/-- Write a whole word with right check bits. -/
def putWord (w : Nat) (v : Word64) (s : State) : State := (s.setBytes (w * 8) (leBytes 8 v.toNat)).setDev w 0

/-- The bits inverted for word `w` among `up`. -/
def upAt (up : List (Nat × BitVec 72)) (w : Nat) : BitVec 72 := ((up.find? fun x => x.1 == w).map (·.2)).getD 0

/-- Stack, slab and offset of a slab word number. -/
def slabOfWord (w : Nat) : Nat × Nat × Nat :=
  let o := w * 8 - 0x8000000000
  (o / 0x40000000, o % 0x40000000 / 0x4000000, o % 0x4000000)

/-- Core index of a scratch word number. -/
def coreOfWord (w : Nat) : Nat := (w * 8 - 0xA000000000) / 0x400000

/-- Is word number `w` a slab word? -/
def isSlabWord (w : Nat) : Bool := w * 8 < 0x8600000000

/-- The bits of word `w` that a transfer through its slab port inverts: each bit that crosses a dead bond arrives
right or wrong (R283, R314); which is a free value (DESIGN CHOICE, log entry 80). -/
def crossing (w : Nat) (s : State) : BitVec 72 × State :=
  if isSlabWord w then
    let (k, c, off) := slabOfWord w
    ((s.stk k).bonds.deadBits c off).foldl (fun (acc : BitVec 72 × State) j =>
      let (b, s) := acc.2.draw 1
      (acc.1 ||| (b.setWidth 72 <<< j), s)) (0, s)
  else (0, s)

/-- Invert the bits `x` of the code word stored in memory at `w`. -/
def flipMem (w : Nat) (x : BitVec 72) (s : State) : State :=
  if x = 0 then s
  else
    (s.setBytes (w * 8) (leBytes 8 (s.wordAt w ^^^ x.setWidth 64).toNat)).setDev w (devFlip (s.devAt w) x)

/-- A whole word written through its port: stored as the bonds deliver it (R314, R318). -/
def portWrite (w : Nat) (v : Word64) (s : State) : State :=
  let (x, s) := crossing w (putWord w v s)
  flipMem w x s

/-- The outcome of reading word `w`, stored as `d` with check deviation `dev`, its bits `up` inverted too:
the word delivered, what its code found, and the state with the event counted, logged,
reported and, on a slab port, counted as a bond hit (R281, R289, R295, R310, R311, R314). -/
def judgeCode (up : BitVec 72) (how : How) (w : Nat) (d : Word64) (dev : Byte) (s : State) :
    Word64 × Code × State :=
  let (x, s) := crossing w s
  let (y, code, v) := readCode d dev (up ^^^ x)
  if isSlabWord w then
    let (k, c, off) := slabOfWord w
    let e : ErrEntry := { src := 1, sev := 0, scrub := how.scrub, rmw := how.rmw, stack := k, unit := c,
                          port := portOf off, word := bitsOf off 3 5, addr := w * 8, synd := y,
                          master := how.master }
    match code with
    | .clean => (v, code, s)
    | .corrected j =>
      let b := bondAt (s.stk k).bonds c off j
      let dead := ((s.stk k).bonds.deadEntry b).isSome
      (v, code, bondHit k b off (logErr { e with bit := j, deadBond := dead } s))
    | .bad => (v, code, bondDouble k c off y (logErr { e with sev := 1 } s))
  else
    let i := coreOfWord w
    let e : ErrEntry := { src := 2, sev := 0, rmw := how.rmw, stack := i / 16, unit := i % 16, addr := w * 8,
                          synd := y, master := how.master }
    match code with
    | .clean => (v, code, s)
    | .corrected j => (v, code, logErr { e with bit := j } s)
    | .bad => (v, code, logErr { e with sev := 1 } s)

/-- Reading word `w` as by `judgeCode`: the word delivered, and whether it is uncorrectable. -/
def judgeWord (up : BitVec 72) (how : How) (w : Nat) (d : Word64) (dev : Byte) (s : State) :
    Word64 × Bool × State :=
  let (v, code, s) := judgeCode up how w d dev s
  (v, code == .bad, s)

/-! ### Merge buffers (R284) -/

/-- Bytes of a word replaced under a byte mask, byte 0 first. -/
def mergeBytes (mask : Nat) : Nat → Nat → Nat → Nat
  | 0, _, _ => 0
  | n + 1, old, new =>
    (if mask % 2 = 1 then new % 256 else old % 256) + 256 * mergeBytes (mask / 2) n (old / 256) (new / 256)

def mergeWord (old : Word64) (mask : BitVec 8) (new : Word64) : Word64 :=
  BitVec.ofNat 64 (mergeBytes mask.toNat 8 old.toNat new.toNat)

/-- The merge buffer of the port a slab word lies behind. -/
def mergeKey (c off : Nat) : Nat := 8 * c + portOf off

def State.mergeBuf (s : State) (k key : Nat) : List MergeEntry := sget (fun _ => []) (s.stk k).merge key

def setMergeBuf (k key : Nat) (es : List MergeEntry) (s : State) : State :=
  updStk k (fun x => { x with merge := sset (fun _ => []) x.merge key es }) s

/-- Write one entry out: a full one as it stands, a partial one by read-modify-write, which leaves
an unreadable word as it is (R284 steps 2 and 3, R285). -/
def writeEntry (e : MergeEntry) (s : State) : State :=
  if e.mask = 0xFF then portWrite e.word e.data s
  else
    let (v, bad, s) := judgeWord 0 { rmw := true } e.word (s.wordAt e.word) (s.devAt e.word) s
    if bad then s else portWrite e.word (mergeWord v e.mask e.data) s

/-- Write out the merge entry of slab word `w`, if there is one (R284 step 5). -/
def flushWord (w : Nat) (s : State) : State :=
  if isSlabWord w then
    let (k, c, off) := slabOfWord w
    let key := mergeKey c off
    match (s.mergeBuf k key).find? fun e => e.word == w with
    | some e => writeEntry e (setMergeBuf k key ((s.mergeBuf k key).filter fun x => x.word != w) s)
    | none => s
  else s

/-- A store of part of slab word `w`: merged into its entry, or a new entry, the oldest being forced
out of a full buffer; an entry whose mask becomes full is written (R284). -/
def mergeStore (w : Nat) (mask : BitVec 8) (data : Word64) (s : State) : State :=
  let (k, c, off) := slabOfWord w
  let key := mergeKey c off
  let buf := s.mergeBuf k key
  match buf.find? fun e => e.word == w with
  | some e =>
    let e' : MergeEntry := { word := w, mask := e.mask ||| mask, data := mergeWord e.data mask data }
    let s := setMergeBuf k key (buf.map fun x => if x.word == w then e' else x) s
    if e'.mask = 0xFF then flushWord w s else s
  | none =>
    let (buf, s) :=
      match buf with
      | o :: t => if 16 ≤ buf.length then (t, writeEntry o (setMergeBuf k key t s)) else (buf, s)
      | [] => (buf, s)
    setMergeBuf k key (buf ++ [{ word := w, mask := mask, data := data }]) s

/-- The stack a slab or scratch address lies in. -/
def sramStack (a : Nat) : Nat :=
  if a < 0x8600000000 then (a - 0x8000000000) / 0x40000000 else (a - 0xA000000000) / 0x4000000

/-! ### Stores to SRAM -/

/-- The mask and data of a store's bytes in word `w`. -/
def wordPart (bs : StoreBytes) (w : Nat) : BitVec 8 × Word64 :=
  (bytesIn bs (w * 8) 8).foldl
    (fun (m, d) (o, b) => (m ||| BitVec.ofNat 8 (2 ^ o), d ||| BitVec.ofNat 64 (b.toNat * 2 ^ (8 * o)))) (0, 0)

/-- Store bytes to slab or scratch words at local addresses: whole words as they are; parts through
the merge buffer of a slab port, or by read-modify-write in a local array (R212, R284, R285). -/
def sramStore (how : How) (bs : StoreBytes) (s : State) : State :=
  let s := match bs with
    | [] => s
    | (a, _) :: _ => bwrSram (sramStack a) how.master bs.length how.deadline s how.issued
  forEach (blocksOf bs 8) (fun w s =>
    let (m, d) := wordPart bs w
    if m = 0xFF then portWrite w d (flushWord w s)
    else if isSlabWord w then mergeStore w m d s
    else
      let (v, bad, s) := judgeWord 0 { how with rmw := true } w (s.wordAt w) (s.devAt w) s
      if bad then s else putWord w (mergeWord v m d) s) s

/-- Read `n` bytes of slab or scratch from local address `a` through the code: the bytes, whether any
word was uncorrectable, and the state with every event. -/
def sramLoad (how : How) (a n : Nat) (s : State) : List Byte × Bool × State :=
  let first := a / 8
  let last := (a + n - 1) / 8
  let s := bwrSram (sramStack a) how.master n how.deadline s how.issued
  let (bytes, bad, s) := (List.range (last + 1 - first)).foldl
    (fun (acc : List Byte × Bool × State) i =>
      let (bytes, bad, s) := acc
      let w := first + i
      let s := flushWord w s
      let (v, e, s) := judgeWord 0 how w (s.wordAt w) (s.devAt w) s
      (bytes ++ leBytes 8 v.toNat, bad || e, s))
    ([], false, s)
  ((bytes.drop (a % 8)).take n, bad, s)

end Sys2Proof.Machine
end

