-- ==== Sys2Proof/Machine/Cache.lean ====
section
/-! DEFINITION. The stack L2 and the L1 of a core: lookup, allocation, stores, fills, write-backs
and dead-block marks (R217-R235). -/

namespace Sys2Proof.Machine

open Sys2Proof

/-! ### Access classes (Table 7-4) -/

def classL1 (k : Nat) : Bool := [0, 1, 3, 5].contains k

def classL2 (k : Nat) : Bool := [0, 1, 2, 4, 5, 6].contains k

def classThrough (k : Nat) : Bool := [1, 6, 7].contains k

def classLow (k : Nat) : Bool := [3, 4, 5].contains k

/-! ### Lines -/

def maskOf (os : List Nat) : BitVec 128 := BitVec.ofNat 128 (os.foldl (fun m o => m ||| 2 ^ o) 0)

/-- Are the `n` bytes from offset `o` valid? -/
def CLine.has (x : CLine) (o n : Nat) : Bool := (List.range n).all fun i => x.valid.getLsbD (o + i)

def CLine.byte (x : CLine) (o : Nat) : Byte := sget (fun _ => 0) x.data o

/-- Write bytes (offset, value) into a line: valid, and dirty unless the store goes on (R219). -/
def CLine.write (x : CLine) (bs : List (Nat × Byte)) (through : Bool) : CLine :=
  let m := maskOf (bs.map (·.1))
  { x with valid := x.valid ||| m,
           dirty := if through then x.dirty &&& ~~~m else x.dirty ||| m,
           data := bs.foldl (fun d e => sset (fun _ => 0) d e.1 e.2) x.data }

/-- Fill a line: every byte already valid is kept (R222). -/
def CLine.fill (x : CLine) (bytes : List Byte) : CLine :=
  let keep := x.valid
  { x with valid := BitVec.allOnes 128,
           data := bytes.zipIdx.foldl (fun d (b, o) =>
             if keep.getLsbD o then d else sset (fun _ => 0) d o b) x.data }

/-- The aligned 64-bit word of a line that holds offset `o` (bytes not valid read zero). -/
def CLine.word (x : CLine) (o : Nat) : Word64 :=
  BitVec.ofNat 64 (leNat ((List.range 8).map fun i => x.byte (o / 8 * 8 + i)))

/-- The valid bytes of the aligned word that holds offset `o`. -/
def CLine.mask8 (x : CLine) (o : Nat) : BitVec 8 := x.valid.extractLsb' (o / 8 * 8) 8

/-- The dirty bytes of the aligned word that holds offset `o`. -/
def CLine.dirty8 (x : CLine) (o : Nat) : BitVec 8 := x.dirty.extractLsb' (o / 8 * 8) 8

/-- Put the word at offset `o` of a line, its valid and dirty marks as they are. -/
def CLine.setWord (x : CLine) (o : Nat) (v : Word64) : CLine :=
  { x with data := (leBytes 8 v.toNat).zipIdx.foldl (fun d (b, i) => sset (fun _ => 0) d (o / 8 * 8 + i) b) x.data }

/-- The deviation of the check bits of an L1 line's word at offset `o`. -/
def CLine.devAt (x : CLine) (o : Nat) : Byte := sget (fun _ => 0) x.dev (o / 8)

/-- The words of an L1 line that hold the offsets `os` take right check bits. -/
def CLine.recode (x : CLine) (os : List Nat) : CLine :=
  { x with dev := sdrop (fun i => os.any fun o => o / 8 == i) x.dev }

/-- Bytes (offset, value) on their way into the stored words of line `x`, of which `rd o` reads the one at `o` through
its code: a word that keeps other valid bytes is read and merged, an uncorrectable one stays as it is and loses
the bytes (R284, R285). The line with the words read, and the bytes that go in (DESIGN CHOICE, log entry 81). -/
def putBytes (rd : Nat → State → Word64 × Bool × State) (x : CLine) (bs : List (Nat × Byte)) (s : State) :
    CLine × List (Nat × Byte) × State :=
  (List.range 16).foldl (fun (acc : CLine × List (Nat × Byte) × State) i =>
    let (y, ok, s) := acc
    let part := bs.filter fun e => e.1 / 8 == i
    let cover := maskOf (part.map fun e => e.1 % 8)
    if part.isEmpty then (y, ok, s)
    else if x.mask8 (8 * i) &&& ~~~(cover.setWidth 8) = 0 then (y, ok ++ part, s)
    else
      let (v, bad, s) := rd (8 * i) s
      if bad then (y, ok, s) else (y.setWord (8 * i) v, ok ++ part, s)) (x, [], s)

/-- A line as an installation finds it: the copy that waits in a write-back buffer, taken back with its valid and
dirty bytes, or an empty one (R222, R223) (DEDUCED, log entry 24). -/
def CLine.base (old : Option CLine) (l : Nat) (low : Bool) (ac : Nat) : CLine :=
  match old with
  | some w => { w with low := low, aclass := ac }
  | none => { line := l, low := low, aclass := ac }

/-- The way a fill takes among `ways` of the set whose keys start at `base` (R221): the lowest
invalid way, else the lowest low-inserted way, else the round-robin way. -/
def victim (lines : SMap (Option CLine)) (base ways rr : Nat) : Nat :=
  let at_ (w : Nat) : Option CLine := sget (fun _ => none) lines (base + w)
  match firstBelow ways fun w => (at_ w).isNone with
  | some w => w
  | none =>
    match firstBelow ways fun w => ((at_ w).map (·.low)).getD false with
    | some w => w
    | none => rr % ways

/-! ### The stack L2 -/

def updL2 (k : Nat) (f : L2 → L2) (s : State) : State := updStk k (fun x => { x with l2 := f x.l2 }) s

/-- The key and line of DRAM line `l` in stack k's L2. -/
def State.l2Find (s : State) (k l : Nat) : Option (Nat × CLine) :=
  (s.stk k).l2.lines.findSome? fun e =>
    match e.2 with
    | some x => if x.line = l then some (e.1, x) else none
    | none => none

/-- Line `l` in the write-back buffers. -/
def State.l2Wb (s : State) (k l : Nat) : Option CLine :=
  ((s.stk k).l2.wb.find? fun e => e.line.line == l).map (·.line)

/-- What the L2 level holds of line `l`, in the cache or waiting to be written back. -/
def State.l2Held (s : State) (k l : Nat) : Option CLine :=
  match s.l2Find k l with
  | some (_, x) => some x
  | none => s.l2Wb k l

/-- Can class `ac` allocate line `l` in stack k's L2 (R227, R232 step 4)? -/
def State.l2Allocs (s : State) (k ac l : Nat) : Bool :=
  classL2 ac && s.l2Sets k != 0 && !s.setOff k (homeSlab l) (s.homeSet k l)

/-- The slab word number in which offset `o` of the line with L2 key `key` is stored (R227). -/
def State.l2Word (s : State) (k key o : Nat) : Nat :=
  let t := key / 32 % 16384
  let pl := (s.stk k).l2.res * 0x100000 + t / 8 * 4096 + key % 32 * 128 + o
  (slabBase k (key / 32 / 16384) + pl / 256 * 2048 + t % 8 * 256 + pl % 256) / 8

/-- The oldest write-back of home slab h is acknowledged: its dirty bytes reach DRAM (R229), counted against the
master whose fill evicted it (R263). -/
def l2WbAck (k h : Nat) (s : State) : State :=
  match (s.stk k).l2.wb.find? fun e => e.slab == h with
  | none => s
  | some e =>
    let s := updL2 k (fun c => { c with wb := c.wb.erase e }) s
    dramStore { master := e.master } true e.line.dirtyBytes s

/-- Read the dirty words of line `x` with L2 key `key` from the slab, each through its code, for a write-back: the
line with what the reads deliver, and whether one was uncorrectable (R232, R282, R310). -/
def l2ReadDirty (k key : Nat) (how : How) (x : CLine) (s : State) : CLine × Bool × State :=
  ((List.range 16).filter fun i => x.dirty8 (8 * i) != 0).foldl (fun (acc : CLine × Bool × State) i =>
    let (y, bad, s) := acc
    let w := s.l2Word k key (8 * i)
    let (v, e, s) := judgeWord 0 how w (x.word (8 * i)) (s.devAt w) s
    (y.setWord (8 * i) v, bad || e, s)) (x, false, s)

/-- Write a line that has been read for its write-back to DRAM: poisoned where a dirty word was uncorrectable
(R232, Table 10-1). -/
def l2SendLine (k : Nat) (how : How) (x : CLine) (bad : Bool) (s : State) : State :=
  if bad then poisonStore k (homeSlab x.line) x.dirtyBytes s else dramStore how true x.dirtyBytes s

/-- Move an evicted line, whose key is `key`, to its write-back buffer if it is dirty; a full buffer first has its
oldest line acknowledged, for which the fill waits (R229) (DEDUCED, log entry 25). `master`: whose fill evicts it. -/
def l2Evict (k key master : Nat) (x : CLine) (s : State) : State :=
  if x.dirty = 0 then s
  else
    let h := homeSlab x.line
    let (x, bad, s) := l2ReadDirty k key { master := master } x s
    if bad then l2SendLine k { master := master } x true s
    else
      let s := if 16 ≤ ((s.stk k).l2.wb.filter fun e => e.slab == h).length then l2WbAck k h s else s
      updL2 k (fun c => { c with wb := c.wb ++ [{ slab := h, master := master, line := x }] })
        (s.count (Reg.STK_CNT_L2WB k))

/-- Invert the bits `x` of the code word at offset `o` of the line with L2 key `key`. -/
def l2Flip (k key o : Nat) (x : BitVec 72) (s : State) : State :=
  if x = 0 then s
  else
    let w := s.l2Word k key (o / 8 * 8)
    let flip (y : CLine) : CLine := y.setWord o (y.word o ^^^ x.setWidth 64)
    let s := updL2 k (fun c =>
      { c with lines := sset (fun _ => none) c.lines key ((sget (fun _ => none) c.lines key).map flip) }) s
    s.setDev w (devFlip (s.devAt w) x)

/-- The words of the line with L2 key `key` that hold the offsets `os` have been written: right check bits, as the
port's bonds deliver them (R284, R314, R318). -/
def l2Encode (k key : Nat) (os : List Nat) (s : State) : State :=
  if s.sram.isEmpty && (s.stk k).bonds.dead.isEmpty then s
  else forEach ((os.map fun o => o / 8 * 8).dedup) (fun o s =>
    let w := s.l2Word k key o
    let (x, s) := crossing w (s.setDev w 0)
    l2Flip k key o x s) s

/-- Read the word at offset `o` of line `x` with L2 key `key` for a read-modify-write. -/
def l2Merge (k key : Nat) (how : How) (x : CLine) (o : Nat) (s : State) : Word64 × Bool × State :=
  let w := s.l2Word k key o
  judgeWord 0 { how with rmw := true } w (x.word o) (s.devAt w) s

/-- Install line `l` in its home set for `master`, evicting the victim: `f` of the copy still waiting to be written
back, which is taken back, or of an empty line. -/
def l2Install (k l ac master : Nat) (f : CLine → CLine) (s : State) : State :=
  let h := homeSlab l
  let base := l2Key h (s.homeSet k l) 0
  let x := f (CLine.base (s.l2Wb k l) l (classLow ac) ac)
  let s := updL2 k (fun c => { c with wb := c.wb.filter fun e => e.line.line != l }) s
  let c := (s.stk k).l2
  let rr := sget (fun _ => 0) c.rr (base / 32)
  let w := victim c.lines base 30 rr
  let old := sget (fun _ => none) c.lines (base + w)
  let s := match old with
    | some v => l2Evict k (base + w) master v s
    | none => s
  let s := updL2 k (fun c => { c with
    lines := sset (fun _ => none) c.lines (base + w) (some x),
    rr := sset (fun _ => 0) c.rr (base / 32) ((rr + 1) % 30) }) s
  let s := if s.sram.isEmpty then s
    else forEach (List.range 16) (fun i s => s.setDev (s.l2Word k (base + w) (8 * i)) 0) s
  l2Encode k (base + w) ((List.range 128).filter fun o => x.valid.getLsbD o) s

/-- Replace what the L2 level holds of a line, which was hit: a low line becomes normal (R221, R229). -/
def l2Update (k : Nat) (x : CLine) (s : State) : State :=
  match s.l2Find k x.line with
  | some (key, _) => updL2 k (fun c => { c with lines := sset (fun _ => none) c.lines key (some { x with low := false }) }) s
  | none => updL2 k (fun c => { c with wb := c.wb.map fun e => if e.line.line = x.line then { e with line := x } else e }) s

/-- A hit of line `l` makes a low line normal (R221, R229). -/
def l2Touch (k l : Nat) (s : State) : State :=
  match s.l2Find k l with
  | some (_, x) => if x.low then l2Update k x s else s
  | none => s

/-- Count one line access of class `ac` at stack k's L2; none with no L2 (R240) (DEDUCED, log entry 66). -/
def l2Count (k ac : Nat) (hit : Bool) (s : State) : State :=
  if s.l2Sets k = 0 then s else s.count (if hit then Reg.STK_CNT_L2Hk k ac else Reg.STK_CNT_L2Mk k ac)

/-- Ask for line `l` from DRAM: join the fetch under way, or start one; with 64 under way for the
home slab the request waits (R229). -/
def l2Request (k ac l : Nat) (w : L2Waiter) (s : State) : State :=
  let h := homeSlab l
  let join (fs : List L2Fetch) : List L2Fetch :=
    fs.map fun f => if f.line = l then { f with waiters := f.waiters ++ [w] } else f
  let new : L2Fetch := { slab := h, line := l, aclass := ac, waiters := [w] }
  updL2 k (fun c =>
    if c.fetches.any fun f => f.line == l then { c with fetches := join c.fetches }
    else if c.waiting.any fun f => f.line == l then { c with waiting := join c.waiting }
    else if 64 ≤ (c.fetches.filter fun f => f.slab == h).length then { c with waiting := c.waiting ++ [new] }
    else { c with fetches := c.fetches ++ [new] }) s

/-- Is line `l` being fetched? -/
def State.l2Fetching (s : State) (k l : Nat) : Bool :=
  ((s.stk k).l2.fetches ++ (s.stk k).l2.waiting).any fun f => f.line == l

/-- Drop line `l` from stack k's L2 with no write-back (R226). A copy that waits in a write-back buffer is left to
be written (DEDUCED, log entry 67). -/
def l2Drop (k l : Nat) (s : State) : State :=
  match s.l2Find k l with
  | none => s
  | some (key, x) =>
    let s := if x.dirty = 0 then s else s.count (Reg.STK_CNT_L2DROP k)
    updL2 k (fun c => { c with lines := sdel c.lines key }) s

/-- A dead-block mark of class `ac` at the L2: after a pending fill, else at once (R226). -/
def l2Mark (k ac l : Nat) (s : State) : State :=
  if !classL2 ac then s
  else if s.l2Fetching k l then
    updL2 k (fun c => { c with fetches := c.fetches.map fun f => if f.line = l then { f with mark := true } else f,
                               waiting := c.waiting.map fun f => if f.line = l then { f with mark := true } else f }) s
  else l2Drop k l s

/-- Store bytes of one line at the L2 level of stack k (R218, R219, R230): a held line takes them, word by word
through its port (R284); a miss of an allocating class installs them with no fetch; what goes past reaches DRAM. -/
def l2StoreLine (k ac : Nat) (how : How) (l : Nat) (bs : List (Nat × Byte)) (s : State) : State :=
  let on := dramStore how false (bs.map fun e => (l * 128 + e.1, e.2))
  let thr := classThrough ac
  match s.l2Find k l with
  | some (key, x) =>
    let (y, ok, s) := putBytes (l2Merge k key how x) x bs s
    let s := l2Encode k key (ok.map (·.1)) (l2Update k (y.write ok thr) s)
    if thr then on s else s
  | none =>
    match s.l2Wb k l with
    | some x =>
      let s := l2Update k (x.write bs thr) s
      if thr then on s else s
    | none =>
      if s.l2Allocs k ac l then
        let s := l2Install k l ac how.master (fun x => x.write bs thr) s
        if thr then on s else s
      else on s

/-- Store bytes to DRAM through stack k's L2; a line being fetched takes its bytes after the fill. `owner`: whose
store it is (16 × core + slot; slot 8: a write-back, which is no line access of R240), `miss` the miss register it
holds. -/
def l2Store (k ac owner miss : Nat) (last : Bool) (bs : StoreBytes) (how : How) (s : State) : State :=
  forEach (blocksOf bs 128) (fun l s =>
    let part := bytesIn bs (l * 128) 128
    let s := if owner % 16 = 8 && owner / 16 < 384 then s else l2Count k ac (s.l2Held k l).isSome s
    if s.l2Fetching k l then
      l2Request k ac l (.store owner miss how.master how.deadline (part.map fun e => (l * 128 + e.1, e.2)) ac last) s
    else
      let s := l2StoreLine k ac how l part s
      if last then l2Mark k ac l s else s) s

/-- What stack k's L2 and DRAM beyond it hold of the word at address `a` now, farthest first: the valid bytes of
an L2 line over the word of DRAM (R218, R222). -/
def l2Pieces (k a : Nat) (s : State) : List Fetched :=
  let l := a / 128
  let o := a % 128
  let beyond : Fetched :=
    match s.dramReach (a / 64 * 64) with
    | none => { word := 0 }
    | some p => { word := BitVec.ofNat 64 (leNat (s.bytesAt (p + a % 64 / 8 * 8) 8)),
                  dev := BitVec.ofNat 8 (s.markByte p), syms := s.symsAt p, at_ := p / 64, src := 6 }
  let layer (x : CLine) (near : Fetched) : List Fetched :=
    if x.mask8 o = 0xFF then [near] else if x.mask8 o = 0 then [beyond] else [beyond, near]
  match s.l2Find k l with
  | some (key, x) =>
    let w := s.l2Word k key (o / 8 * 8)
    layer x { word := x.word o, mask := x.mask8 o, dev := s.devAt w, at_ := w, src := 1 }
  | none =>
    match s.l2Wb k l with
    | some x => layer x { word := x.word o, mask := x.mask8 o }
    | none => [beyond]

/-- The bytes of a fill enter the line: one present keeps its valid bytes, its place and its insertion, and the
set's pointer advances as at every fill (R221, R222, R229). -/
def l2FillLine (k l ac master : Nat) (bytes : List Byte) (s : State) : State :=
  match s.l2Find k l with
  | some (key, x) =>
    let (y, ok, s) := putBytes (l2Merge k key { master := master } x) x
      (bytes.zipIdx.filterMap fun (b, o) => if x.valid.getLsbD o then none else some (o, b)) s
    l2Encode k key (ok.map (·.1)) (updL2 k (fun c => { c with
      lines := sset (fun _ => none) c.lines key (some (y.write ok true)),
      rr := sset (fun _ => 0) c.rr (key / 32) ((sget (fun _ => 0) c.rr (key / 32) + 1) % 30) }) s)
  | none => if s.l2Allocs k ac l then l2Install k l ac master (fun x => x.fill bytes) s else s

/-- Line `l` is fetched again for no waiter: an uncorrectable word has dropped its clean copy (R232, Table 10-1). -/
def l2Refetch (k ac l : Nat) (s : State) : State :=
  let h := homeSlab l
  if s.l2Fetching k l then s
  else
    let new : L2Fetch := { slab := h, line := l, aclass := ac, waiters := [] }
    updL2 k (fun c =>
      if 64 ≤ (c.fetches.filter fun f => f.slab == h).length then { c with waiting := c.waiting ++ [new] }
      else { c with fetches := c.fetches ++ [new] }) s

/-- Line `l` read through stack k's L2 without allocating: valid bytes of a held line, each of its words
through the code, over DRAM; a clean line with an uncorrectable word is dropped and fetched again from DRAM, a
dirty one is written poisoned (R229, R232, Table 10-1). The `n` bytes from offset `o` on are needed: a line that
holds them is not read further. The bytes, the address of the first uncorrectable word or 64 B half if there is one,
and the state. -/
def l2ReadLine (how : How) (k l : Nat) (s : State) (o : Nat := 0) (n : Nat := 128) :
    List Byte × Option Nat × State :=
  let far (s : State) : List Byte × Option Nat × State :=
    (List.range 2).foldl (fun (acc : List Byte × Option Nat × State) h =>
      let a := l * 128 + 64 * h
      let (d, e, s) := dramLoad how a 64 acc.2.2
      (acc.1 ++ d, if acc.2.1.isNone && e then some a else acc.2.1, s)) ([], none, s)
  match s.l2Held k l with
  | none => far s
  | some x =>
    let (words, bad, s) := match s.l2Find k l with
      | none => ([], none, s)
      | some (key, _) =>
        (List.range 16).foldl (fun (acc : List Byte × Option Nat × State) i =>
          let (bs, bad, s) := acc
          if x.mask8 (8 * i) = 0 || (x.has o n && (decide (8 * i + 8 ≤ o) || decide (o + n ≤ 8 * i))) then (bs ++ List.replicate 8 0, bad, s)
          else
            let w := s.l2Word k key (8 * i)
            let (v, e, s) := judgeWord 0 how w (x.word (8 * i)) (s.devAt w) s
            (bs ++ leBytes 8 v.toNat, if bad.isNone && e then some (l * 128 + 8 * i) else bad, s)) ([], none, s)
    let bytes := if words.isEmpty then (List.range 128).map x.byte else words
    let drop := updL2 k (fun c => { c with lines := c.lines.filter fun e => e.2.map (·.line) != some l })
    if bad.isSome && x.dirty != 0 then (bytes, bad, drop (poisonStore k (homeSlab l) x.dirtyBytes s))
    else if bad.isSome then
      let (d, e, s) := far (drop s)
      (d, e, if e.isSome then s else l2FillLine k l x.aclass how.master d s)
    else if x.has o n then (bytes, none, l2Touch k l s)
    else
      let (d, e, s) := far s
      (d.zipIdx.map fun (b, o) => if x.valid.getLsbD o then bytes.getD o 0 else b, e, s)

/-! ### Loads in flight -/

/-- Give the lanes `threads` of load `id` of core i what its levels hold, by thread address, under what the L1 held
when the request left the core (DEDUCED, log entry 20). -/
def deliver (i id : Nat) (threads : List Nat) (f : Nat → List Fetched) (s : State) : State :=
  updCore i (fun c => { c with loads := c.loads.map fun ld =>
    if ld.id = id then
      { ld with lanes := ld.lanes.map fun x =>
          if threads.contains x.thread then { x with got := some (f x.addr ++ x.near) } else x }
    else ld }) s

/-! ### The L1 of core i -/

def updL1 (i : Nat) (f : L1 → L1) (s : State) : State := updCore i (fun c => { c with l1 := f c.l1 }) s

/-- Sets of core i's L1 (R221); 0: no L1. -/
def State.l1Sets (s : State) (i : Nat) : Nat := (s.core i).l1sz * 256

def State.l1Find (s : State) (i l : Nat) : Option (Nat × CLine) :=
  (s.core i).l1.lines.findSome? fun e =>
    match e.2 with
    | some x => if x.line = l then some (e.1, x) else none
    | none => none

/-- What the L1 level holds of line `l`: in the cache or in the write-back buffer (R223). -/
def State.l1Held (s : State) (i l : Nat) : Option CLine :=
  match s.l1Find i l with
  | some (_, x) => some x
  | none => (s.core i).l1.wb.find? fun x => x.line == l

/-- What core i's L1 holds of the word at `a` (R218, R233). -/
def State.l1Piece (s : State) (i a : Nat) : List Fetched :=
  match s.l1Held i (a / 128) with
  | none => []
  | some x =>
    if x.mask8 (a % 128) = 0 then []
    else [{ word := x.word (a % 128), mask := x.mask8 (a % 128), dev := x.devAt (a % 128), at_ := a / 8, src := 2 }]

/-- The master ID of core i's miss path (Table 9-2). -/
def missMaster (i : Nat) : Nat := 0x300 + i

/-- What the code finds in a word `w` of core i's L1, read for address `a` with check deviation `dev` and its bits
`up` inverted too (R281). -/
def judgeL1 (up : BitVec 72) (rmw : Bool) (i a : Nat) (w : Word64) (dev : Byte) (s : State) : Word64 × Bool × State :=
  let (y, code, v) := readCode w dev up
  let e : ErrEntry := { src := 2, sev := 0, rmw := rmw, stack := i / 16, unit := i % 16, addr := a / 8 * 8, synd := y,
                        master := missMaster i }
  match code with
  | .clean => (v, false, s)
  | .corrected j => (v, false, logErr { e with bit := j } s)
  | .bad => (v, true, logErr { e with sev := 1 } s)

/-- Read the word at offset `o` of L1 line `x` of core i for a read-modify-write (R212). -/
def l1Merge (i : Nat) (x : CLine) (o : Nat) (s : State) : Word64 × Bool × State :=
  judgeL1 0 true i (x.line * 128 + o) (x.word o) (x.devAt o) s

/-- Read the dirty words of L1 line `x` of core i for its write-back: corrected, and without the bytes of an
uncorrectable word, which go no further (R282, R289) (DESIGN CHOICE, log entry 82). -/
def l1ReadDirty (i : Nat) (x : CLine) (s : State) : CLine × State :=
  let (y, s) := ((List.range 16).filter fun n => x.dirty8 (8 * n) != 0 && x.devAt (8 * n) != 0).foldl
    (fun (acc : CLine × State) n =>
      let (v, bad, s) := judgeL1 0 false i (x.line * 128 + 8 * n) (x.word (8 * n)) (x.devAt (8 * n)) acc.2
      if bad then ({ acc.1 with dirty := acc.1.dirty &&& ~~~(maskOf ((List.range 8).map (8 * n + ·))) }, s)
      else (acc.1.setWord (8 * n) v, s)) (x, s)
  ({ y with dev := [] }, s)

/-- Carry bytes past the L1 of core i to their target: another slab or scratch, or the stack L2 (Table 7-1).
`miss`: the miss register the store holds. -/
def pastL1 (i ac owner miss : Nat) (last : Bool) (bs : StoreBytes) (s : State) : State :=
  match bs with
  | [] => s
  | (a, _) :: _ =>
    match decode s a with
    | .ok .dram => l2Store (i / 16) ac owner miss last bs { master := missMaster i } s
    | .ok (.slab _ _ _) => sramStore { master := missMaster i } bs s
    | .ok (.scratch _ _ _) => sramStore { master := missMaster i } bs s
    | _ => s

/-- Write the dirty bytes of L1 line `x` of core i back past the L1: at the L2 under the class that allocated the
line, or as class 0 where that class writes through (R219) (DEDUCED, log entry 68). -/
def l1Send (i : Nat) (x : CLine) (s : State) : State :=
  pastL1 i (if classThrough x.aclass then 0 else x.aclass) (16 * i + 8) 0 false x.dirtyBytes s

/-- The oldest entry of the write-back buffer is acknowledged by its target. -/
def l1WbAck (i : Nat) (s : State) : State :=
  match (s.core i).l1.wb with
  | [] => s
  | x :: t => l1Send i x (updL1 i (fun c => { c with wb := t }) s)

/-- Put a dirty line into the write-back buffer; a full buffer first has its oldest entry
acknowledged (R223) (DEDUCED, log entry 25). -/
def l1Evict (i : Nat) (x : CLine) (s : State) : State :=
  if x.dirty = 0 then s
  else
    let (x, s) := l1ReadDirty i x s
    let s := if 8 ≤ (s.core i).l1.wb.length then l1WbAck i s else s
    updL1 i (fun c => { c with wb := c.wb ++ [x] }) s

/-- Install line `l` in its set, evicting the victim (R221): `f` of the copy in the write-back buffer, which is
taken back, or of an empty line. -/
def l1Install (i l ac : Nat) (f : CLine → CLine) (s : State) : State :=
  let set := l % s.l1Sets i
  let x := f (CLine.base ((s.core i).l1.wb.find? fun w => w.line == l) l (classLow ac) ac)
  let s := updL1 i (fun c => { c with wb := c.wb.filter fun e => e.line != l }) s
  let c := (s.core i).l1
  let rr := sget (fun _ => 0) c.rr set
  let w := victim c.lines (8 * set) 8 rr
  let s := match sget (fun _ => none) c.lines (8 * set + w) with
    | some v => l1Evict i v s
    | none => s
  updL1 i (fun c => { c with
    lines := sset (fun _ => none) c.lines (8 * set + w) (some x),
    rr := sset (fun _ => 0) c.rr set ((rr + 1) % 8) }) s

/-- Replace what the L1 level holds of a line, which was hit: a low line becomes normal (R221). -/
def l1Update (i : Nat) (x : CLine) (s : State) : State :=
  match s.l1Find i x.line with
  | some (key, _) => updL1 i (fun c => { c with lines := sset (fun _ => none) c.lines key (some { x with low := false }) }) s
  | none => updL1 i (fun c => { c with wb := c.wb.map fun e => if e.line = x.line then x else e }) s

/-- Count one line access of class `ac` that looked up core i's L1; none with no L1 (R240) (DEDUCED, log entry 66). -/
def l1Count (i ac : Nat) (hit : Bool) (s : State) : State :=
  if s.l1Sets i = 0 then s
  else s.count (if hit then Reg.CORE_CNT_L1Hk (i / 16) (i % 16) ac else Reg.CORE_CNT_L1Mk (i / 16) (i % 16) ac)

/-- The miss register that fetches line `l` for the L1. -/
def State.l1Filling (s : State) (i l : Nat) : Option MissReg := (s.core i).l1.miss.find? fun m => m.fill && m.line == l

/-- A dead-block mark of class `ac` at core i's L1 (R226). A copy that waits in the write-back buffer is left to be
written (DEDUCED, log entry 67). -/
def l1Mark (i ac l : Nat) (s : State) : State :=
  if !classL1 ac then s
  else
    match s.l1Find i l with
    | some (key, _) => updL1 i (fun c => { c with lines := sdel c.lines key }) s
    | none => s

/-- A dead-block mark for the line of DRAM or slab address `a`: after a pending fill of the line, else at once
(R226) (DEDUCED, log entry 21). -/
def deadMark (i ac a : Nat) (s : State) : State :=
  let l := a / 128
  if (s.l1Filling i l).isSome then
    updL1 i (fun c => { c with miss := c.miss.map fun m =>
      if m.fill && m.line == l then { m with marks := m.marks ++ [ac] } else m }) s
  else
    let s := l1Mark i ac l s
    if a < 0x6000000000 then l2Mark (i / 16) ac l s else s

/-- Store bytes of one line at the L1 level of core i and beyond (R218-R222): a held line takes them word by word
(R212). -/
def l1StoreLine (i ac owner miss l : Nat) (bs : List (Nat × Byte)) (s : State) : State :=
  let addrs := bs.map fun e => (l * 128 + e.1, e.2)
  let thr := classThrough ac
  match s.l1Held i l with
  | some x =>
    let (y, ok, s) := putBytes (l1Merge i x) x bs s
    let s := l1Update i ((y.write ok thr).recode (ok.map (·.1))) s
    if thr then pastL1 i ac owner miss false addrs s else s
  | none =>
    if classL1 ac && s.l1Sets i != 0 then
      let s := l1Install i l ac (fun x => x.write bs thr) s
      if thr then pastL1 i ac owner miss false addrs s else s
    else pastL1 i ac owner miss false addrs s

/-- A miss register's source: what the L1 fill of line `l` needs from beyond (R229): ready at once,
or a fetch of the stack L2. -/
def fillSource (i ac l id : Nat) (s : State) : Bool × State :=
  let k := i / 16
  match decode s (l * 128) with
  | .ok .dram =>
    let held := s.l2Held k l
    let full := (held.map fun x => x.has 0 128).getD false
    let s := l2Count k ac full s
    if full then (true, l2Touch k l s)
    else if s.l2Allocs k ac l || s.l2Fetching k l then (false, l2Request k ac l (.l1 i id) s)
    else (true, s)
  | _ => (true, s)

/-- Give the lanes `ls` of load `load` what the L2 level and DRAM hold now; each 64 B line read from DRAM is one
read of its controller. -/
def lanesNow (i load : Nat) (ls : List LoadLane) (s : State) : State :=
  let k := i / 16
  let got := ls.map fun y => (y, l2Pieces k y.addr s)
  let dram := ((got.flatMap fun x => x.2.filter fun p => p.src == 6).map (·.at_)).dedup
  let s := forEach dram (fun p s =>
    let m := (hbmOf (p * 64)).1
    (bwrDram m (missMaster i) 64 none s).count (Reg.MCm_CNT_RD m)) s
  forEach got (fun x s => deliver i load [x.1.thread] (fun _ => x.2) s) s

/-- Ask beyond the L1 for lanes of a load that do not fill it: behind a fetch of their line under way, from the
stack L2's held bytes, by a fetch of the L2, or straight from the target (Table 7-1). `fresh`: it is a line access
of R240, not a second try. -/
def laneSource (fresh : Bool) (i ac l load : Nat) (threads : List Nat) (lanes : List LoadLane) (size : Nat) (s : State) :
    State :=
  let k := i / 16
  let mine := lanes.filter fun x => threads.contains x.thread
  match decode s (l * 128) with
  | .ok .dram =>
    let hit := match s.l2Held k l with
      | some x => mine.all fun y => x.has (y.addr % 128) size
      | none => false
    let s := if fresh then l2Count k ac hit s else s
    if s.l2Fetching k l || (!hit && s.l2Allocs k ac l) then l2Request k ac l (.lanes i load threads) s
    else lanesNow i load mine (if hit then l2Touch k l s else s)
  | .ok (.slab _ _ _) =>
    let s := bwrSram (sramStack (l * 128)) (missMaster i) (size * mine.length) none s
    forEach mine (fun y s =>
      let w := y.addr / 8
      let s := flushWord w s
      deliver i load [y.thread] (fun _ => [{ word := s.wordAt w, dev := s.devAt w, at_ := w, src := 1 }]) s) s
  | _ => s

/-- Does the stack L2 hold back the store of miss register `id` of core i (R224 step 5)? -/
def State.l2StoreHeld (s : State) (i id : Nat) : Bool :=
  ((s.stk (i / 16)).l2.fetches ++ (s.stk (i / 16)).l2.waiting).any fun f =>
    f.waiters.any fun w => match w with | .store o m _ _ _ _ _ => o / 16 == i && m == id | _ => false

def freeMiss (i id : Nat) (s : State) : State :=
  updL1 i (fun c => { c with miss := c.miss.filter fun x => x.id != id }) s

/-- The store that holds miss register `id` goes to the L1 level and beyond; it keeps its register only while the
stack L2 holds it back (R224 step 5). -/
def storeMiss (i id slot ac l : Nat) (bs : List (Nat × Byte)) (s : State) : State :=
  let s := l1StoreLine i ac (16 * i + slot) id l bs s
  if s.l2StoreHeld i id then
    updL1 i (fun c => { c with miss := c.miss.map fun x => if x.id = id then { x with waiters := [] } else x }) s
  else freeMiss i id s

/-- What the L1 holds of the words of a request's lanes, noted as the request leaves the core (R218, R233). -/
def noteNear (i load : Nat) (threads : List Nat) (s : State) : State :=
  updCore i (fun c => { c with loads := c.loads.map fun ld =>
    if ld.id = load then
      { ld with lanes := ld.lanes.map fun x =>
          if threads.contains x.thread then { x with near := s.l1Piece i x.addr } else x }
    else ld }) s

/-- The miss register of a request, before it is taken. -/
def MissReq.reg (r : MissReq) (id : Nat) : MissReg :=
  { id := id, line := r.line, aclass := r.aclass, fill := r.fill, waiters := [r.waiter] }

/-- Take a miss register for a request (R224). A store to a line being filled waits in it for the fill (DEDUCED,
log entry 58); lanes that have their data hold it until their load returns. -/
def takeMiss (i : Nat) (r : MissReq) (s : State) : State :=
  let id := (s.core i).l1.nextMiss
  let s := updL1 i (fun c => { c with miss := c.miss ++ [r.reg id], nextMiss := id + 1 }) s
  if r.fill then
    let (ready, s) := fillSource i r.aclass r.line id s
    updL1 i (fun c => { c with miss := c.miss.map fun x => if x.id = id then { x with ready := ready } else x }) s
  else
    match r.waiter with
    | .lanes ld th =>
      match (s.core i).loads.find? fun x => x.id == ld with
      | none => s
      | some x =>
        if (x.lanes.filter fun y => th.contains y.thread).all fun y => y.got.isSome then s
        else laneSource true i r.aclass r.line ld th x.lanes x.size (noteNear i ld th s)
    | .store slot bs ac last =>
      if (s.l1Filling i r.line).isSome then s
      else
        let s := storeMiss i id slot ac r.line (bs.map fun e => (e.1 % 128, e.2)) s
        if last then deadMark i ac (r.line * 128) s else s

/-- Does a store to line `l` hold a miss register of its own, waiting for the line's fill? (DEDUCED, log entry 58). -/
def State.l1LateStore (s : State) (i l : Nat) : Bool :=
  (s.core i).l1.miss.any fun m => !m.fill && m.line == l &&
    m.waiters.any fun w => match w with | .store _ _ _ _ => true | .lanes _ _ => false

/-- Is a store's line held or allocated by the L1, so that it goes no further (R219)? -/
def State.l1Keeps (s : State) (i ac l : Nat) : Bool :=
  !classThrough ac && ((s.l1Held i l).isSome || (classL1 ac && s.l1Sets i != 0))

/-- The quarter waits for a miss register or a waiter place; how many cycles CORE_CNT_MRFULL counts is left open
(R224 step 3) (DESIGN CHOICE, log entry 8). -/
def l1Wait (i : Nat) (r : MissReq) (s : State) : State :=
  let (v, s) := s.draw 16
  updL1 i (fun c => { c with waiting := c.waiting ++ [r] })
    (s.count (Reg.CORE_CNT_MRFULL (i / 16) (i % 16)) (v.toNat + 1))

/-- A request of a quarter that leaves the core, or a store the L1 keeps: behind requests that wait it waits; else it
attaches to the fill of its line, is served by the L1, or takes a free register (R224); behind a store of its
line that waits with a register of its own, it waits (R233) (DEDUCED, log entry 58). -/
def missRequest (i : Nat) (r : MissReq) (s : State) : State :=
  let c := (s.core i).l1
  let attachable := match r.waiter with
    | .lanes _ _ => true
    | .store _ _ ac _ => classL1 ac
  if !c.waiting.isEmpty then l1Wait i r s
  else
    match s.l1Filling i r.line, attachable with
    | some m, true =>
      if m.waiters.length < 16 && !s.l1LateStore i r.line then
        updL1 i (fun c => { c with miss := c.miss.map fun x =>
          if x.id = m.id then { x with waiters := x.waiters ++ [r.waiter] } else x }) s
      else l1Wait i r s
    | some _, false => if 32 ≤ c.miss.length then l1Wait i r s else takeMiss i r s
    | none, _ =>
      match r.waiter with
      | .store slot bs ac last =>
        if s.l1Keeps i ac r.line then
          let s := l1StoreLine i ac (16 * i + slot) 0 r.line (bs.map fun e => (e.1 % 128, e.2)) s
          if last then deadMark i ac (r.line * 128) s else s
        else if 32 ≤ c.miss.length then l1Wait i r s else takeMiss i r s
      | .lanes _ _ => if 32 ≤ c.miss.length then l1Wait i r s else takeMiss i r s

/-- The marks that lanes of a load leave once their requests are under way (R130, R226): one for each line of
`ls` (load, line, class) with no request of the load still waiting (DEDUCED, log entry 21). -/
def lanesMark (i : Nat) (ls : List (Nat × Nat × Nat)) (s : State) : State :=
  let still := (s.core i).l1.waiting.filterMap fun r =>
    match r.waiter with | .lanes ld _ => some (ld, r.line) | .store _ _ _ _ => none
  forEach (ls.dedup.filter fun x => !still.contains (x.1, x.2.1)) (fun x => deadMark i x.2.2 (x.2.1 * 128)) s

/-- Does load `ld` mark its lines dead (LAST, or class ONCE)? -/
def Load.marks (ld : Load) : Bool := ld.last || ld.aclass == 5

/-- Requests that wait for a register or a waiter place try again in order (R224 step 3). -/
def retryWaiting (i : Nat) (s : State) : State :=
  let w := (s.core i).l1.waiting
  let ls := w.filterMap fun r =>
    match r.waiter with
    | .lanes id _ =>
      match (s.core i).loads.find? fun x => x.id == id with
      | some ld => if ld.marks then some (id, r.line, ld.aclass) else none
      | none => none
    | .store _ _ _ _ => none
  lanesMark i ls (forEach w (missRequest i) (updL1 i (fun c => { c with waiting := [] }) s))

/-- Lanes of a load at the L1 level: served by a line whose bytes are valid and that no earlier store waits to
write, else requested beyond (R218, R222, R224, R233) (DEDUCED, log entry 58). -/
def l1LoadLanes (i ac load size : Nat) (l : Nat) (lanes : List LoadLane) (s : State) : State :=
  let th := lanes.map (·.thread)
  let store := s.l1LateStore i l || ((s.l1Filling i l).map fun m => m.waiters.any fun w =>
    match w with | .store _ _ _ _ => true | .lanes _ _ => false).getD false
  let ask := missRequest i { line := l, aclass := ac, fill := classL1 ac && s.l1Sets i != 0, waiter := .lanes load th }
  match s.l1Held i l with
  | some x =>
    let hit := lanes.all fun y => x.has (y.addr % 128) size
    let s := l1Count i ac hit s
    if hit && !store then
      deliver i load th (fun a => [{ word := x.word (a % 128), dev := x.devAt (a % 128), at_ := a / 8, src := 2 }]) (l1Update i x s)
    else ask s
  | none => ask (l1Count i ac false s)

/-- A store of a quarter to one line at the L1 level (R219, R224). -/
def l1Store (i slot ac : Nat) (last : Bool) (l : Nat) (bs : List (Nat × Byte)) (s : State) : State :=
  missRequest i { line := l, aclass := ac, fill := false,
                  waiter := .store slot (bs.map fun e => (l * 128 + e.1, e.2)) ac last }
    (l1Count i ac (s.l1Held i l).isSome s)

/-- The class of the dead-block mark that a LAST store leaves (R130). -/
def L1Waiter.mark : L1Waiter → List Nat
  | .store _ _ ac true => [ac]
  | _ => []

/-- Serve a waiter of a fill from the L1 line, or with the error the fill met; `id`: the register a store holds (0:
it waited in the fill's). Marks come after all waiters (R226). -/
def serveL1 (i l : Nat) (bad : Bool) (id : Nat) (w : L1Waiter) (s : State) : State :=
  match w with
  | .lanes ld th =>
    if bad then deliver i ld th (fun _ => [{ word := 0, bad := true }]) s
    else
      let x := ((s.l1Held i l)).getD { line := l }
      deliver i ld th (fun a => [{ word := x.word (a % 128), dev := x.devAt (a % 128), at_ := a / 8, src := 2 }]) s
  | .store slot bs ac _ => storeMiss i id slot ac l (bs.map fun e => (e.1 % 128, e.2)) s

/-- The bytes of a fill enter the line: one present keeps its valid bytes, its place and its insertion, and the
set's pointer advances as at every fill (R221, R222). -/
def l1FillLine (i l ac : Nat) (bytes : List Byte) (s : State) : State :=
  match s.l1Find i l with
  | some (key, x) =>
    let (y, ok, s) := putBytes (l1Merge i x) x
      (bytes.zipIdx.filterMap fun (b, o) => if x.valid.getLsbD o then none else some (o, b)) s
    updL1 i (fun c => { c with
      lines := sset (fun _ => none) c.lines key (some ((y.write ok true).recode (ok.map (·.1)))),
      rr := sset (fun _ => 0) c.rr (key / 8) ((sget (fun _ => 0) c.rr (key / 8) + 1) % 8) }) s
  | none => l1Install i l ac (fun x => x.fill bytes) s

/-- The fill of miss register `m` of core i arrives (R222-R226): the line is installed unless its
data is uncorrectable, its waiters are served in order, then stores that waited behind it, then the
dead-block marks act; the register is free. -/
def l1Fill (i : Nat) (m : MissReg) (s : State) : State :=
  let k := i / 16
  let a := m.line * 128
  let how : How := { master := missMaster i }
  let (bytes, bad, s) :=
    match decode s a with
    | .ok .dram =>
      let (d, bad, s) := l2ReadLine how k m.line s
      (d, bad.isSome || m.bad, s)
    | .ok (.slab _ _ _) => sramLoad how a 128 s
    | _ => ([], true, s)
  let s := if bad then s else l1FillLine i m.line m.aclass bytes s
  let s := freeMiss i m.id s
  let s := forEach m.waiters (serveL1 i m.line bad 0) s
  let late := (s.core i).l1.miss.filter fun x => !x.fill && x.line == m.line &&
    x.waiters.any fun w => match w with | .store _ _ _ _ => true | .lanes _ _ => false
  let s := forEach late (fun x s => forEach x.waiters (serveL1 i m.line false x.id) s) s
  let marks := m.marks ++ m.waiters.flatMap L1Waiter.mark ++ late.flatMap fun x => x.waiters.flatMap L1Waiter.mark
  retryWaiting i (forEach marks (fun ac => deadMark i ac a) s)

/-! ### Fills of the stack L2 -/

/-- Serve a waiter of an L2 fetch (R229); `bad`: the address of data found uncorrectable. -/
def serveL2 (k l : Nat) (bad : Option Nat) (w : L2Waiter) (s : State) : State :=
  match w with
  | .lanes i ld th =>
    let lanes := (((s.core i).loads.find? fun x => x.id == ld).map (·.lanes)).getD []
    let mine := lanes.filter fun y => th.contains y.thread
    if bad.isSome then forEach mine (fun y s => deliver i ld [y.thread] (fun _ => [{ word := 0, bad := true }]) s) s
    else lanesNow i ld mine s
  | .l1 i id =>
    let up : L1 → L1 := fun c => { c with miss := c.miss.filterMap fun m =>
      if m.id = id then if m.fill then some { m with ready := true, bad := bad.isSome } else none else some m }
    retryWaiting i (updL1 i up s)
  | .fetch i =>
    updCore i (fun c => { c with ic := { c.ic with fetches := c.ic.fetches.map fun f =>
      if f.line = l then { f with bad := bad } else f } }) s
  | .store owner miss master deadline bs ac _ =>
    let s := l2StoreLine k ac { master := master, deadline := deadline } l (bs.map fun e => (e.1 % 128, e.2)) s
    if miss = 0 then s else retryWaiting (owner / 16) (freeMiss (owner / 16) miss s)

/-- The class of the dead-block mark a LAST store behind an L2 fetch leaves (R130, R226). -/
def L2Waiter.mark : L2Waiter → List Nat
  | .store _ _ _ _ _ ac true => [ac]
  | _ => []

/-- The master whose request started a fetch (R263). -/
def L2Fetch.master (f : L2Fetch) : Nat :=
  match f.waiters with
  | .lanes i _ _ :: _ => missMaster i
  | .l1 i _ :: _ => missMaster i
  | .fetch i :: _ => missMaster i
  | .store _ _ m _ _ _ _ :: _ => m
  | [] => noMaster

/-- The DRAM data of a fetch arrives (R229): installed unless uncorrectable, waiters served in order,
then the dead-block marks; the next waiting fetch of the slab starts. -/
def l2Fill (k : Nat) (f : L2Fetch) (s : State) : State :=
  let (b0, e0, s) := dramLoad { master := f.master } (f.line * 128) 64 s
  let (b1, e1, s) := dramLoad { master := f.master } (f.line * 128 + 64) 64 s
  let bad := if e0 then some (f.line * 128) else if e1 then some (f.line * 128 + 64) else none
  let s := if bad.isSome then s else l2FillLine k f.line f.aclass f.master (b0 ++ b1) s
  let s := updL2 k (fun c => { c with fetches := c.fetches.erase f }) s
  let s := forEach f.waiters (serveL2 k f.line bad) s
  let s := forEach ((if f.mark then [f.aclass] else []) ++ f.waiters.flatMap L2Waiter.mark) (fun ac => l2Mark k ac f.line) s
  match (s.stk k).l2.waiting.find? fun g => g.slab == f.slab with
  | some g => updL2 k (fun c => { c with waiting := c.waiting.erase g, fetches := c.fetches ++ [g] }) s
  | none => s

/-! ### Flushes -/

/-- Write one L2 line back and leave it clean, or invalid (R230, R254). -/
def l2Flush (k : Nat) (how : How) (inv : Bool) (key : Nat) (x : CLine) (s : State) : State :=
  let (y, bad, s) := if x.dirty = 0 then (x, false, s) else l2ReadDirty k key how x s
  let s := if x.dirty = 0 then s else l2SendLine k how y bad (s.count (Reg.STK_CNT_L2WB k))
  let z := if inv || bad then none else some { x with dirty := 0 }
  updL2 k (fun c => { c with lines := sset (fun _ => none) c.lines key z }) s

/-- Write back every L2 line, and every waiting write-back, whose bytes meet [a, a + n), counted
against `how.master` under the deadline it carries (R255, R502). -/
def l2FlushRange (k : Nat) (how : How) (a n : Nat) (inv : Bool) (s : State) : State :=
  if n = 0 then s
  else
    let inr (l : Nat) : Bool := l * 128 < a + n && a < l * 128 + 128
    let s := forEach (((s.stk k).l2.wb.filter fun e => inr e.line.line)) (fun e s =>
      dramStore how true e.line.dirtyBytes (updL2 k (fun c => { c with wb := c.wb.erase e }) s)) s
    forEach (s.stk k).l2.lines (fun e s =>
      match e.2 with
      | some x => if inr x.line then l2Flush k how inv e.1 x s else s
      | none => s) s

/-- The stores of core i's issued instructions that wait for a fill or a miss register take effect, and every request
of the core ends (R92) (DEDUCED, log entry 69). -/
def settleStores (i : Nat) (s : State) : State :=
  let c := (s.core i).l1
  let ws := (c.miss.flatMap fun m => m.waiters.map fun w => (m.line, w)) ++ c.waiting.map fun r => (r.line, r.waiter)
  let s := updL1 i (fun c => { c with miss := [], waiting := [] }) s
  let s := forEach ws (fun x s =>
    match x.2 with
    | .store slot bs ac _ => l1StoreLine i ac (16 * i + slot) 0 x.1 (bs.map fun e => (e.1 % 128, e.2)) s
    | .lanes _ _ => s) s
  forEach (c.miss.flatMap (fun m => m.marks.map fun ac => (m.line, ac)) ++ ws.flatMap fun x => x.2.mark.map fun ac => (x.1, ac))
    (fun x => deadMark i x.2 (x.1 * 128)) s

/-- Write back every dirty L1 line of core i at once and invalidate every line (effect 2 of Table
2-5). -/
def l1Clean (i : Nat) (s : State) : State :=
  let c := (s.core i).l1
  let out := c.wb ++ (c.lines.filterMap fun e => e.2)
  let s := updL1 i (fun c => { c with lines := [], rr := [], wb := [] }) s
  forEach out (fun x s => if x.dirty = 0 then s else let (x, s) := l1ReadDirty i x s; l1Send i x s) s

/-! ### Stored words and their flips (R227, R280) -/

/-- What a slab word stores: a resident or unused word, or the word from offset `o` of a valid L2 line. -/
inductive Stored where
  | plain
  | line (key : Nat) (x : CLine) (o : Nat)
  deriving DecidableEq, Repr

/-- What the word at offset `off` of slab c of stack k stores; the words of tag lines are plain words that no tag
change writes, as their coding is not given (DESIGN CHOICE, log entry 78). -/
def State.storedAt (s : State) (k c off : Nat) : Stored :=
  if off < s.residentSize k then .plain
  else
    let q := off / 2048 * 256 + off % 256 - (s.stk k).l2.res * 0x100000
    let key := l2Key c (8 * (q / 4096) + portOf off) (q % 4096 / 128)
    if 30 ≤ q % 4096 / 128 then .plain
    else
      match sget (fun _ => none) (s.stk k).l2.lines key with
      | some x => .line key x (q % 128 / 8 * 8)
      | none => .plain

/-- Invert the bits `x` of the code word stored at word number `w` of a slab or a scratch array. -/
def flipWord (w : Nat) (x : BitVec 72) (s : State) : State :=
  if isSlabWord w then
    let (k, c, off) := slabOfWord w
    match s.storedAt k c off with
    | .plain => flipMem w x s
    | .line key _ o => l2Flip k key o x s
  else flipMem w x s

/-- Invert the bits `x` of the code word that core i's L1 holds of word number `w`. -/
def flipL1 (i w : Nat) (x : BitVec 72) (s : State) : State :=
  match s.l1Find i (w / 16) with
  | some (key, y) =>
    let o := w % 16 * 8
    let y' := { y.setWord o (y.word o ^^^ x.setWidth 64) with
                dev := sset (fun _ => 0) y.dev (w % 16) (devFlip (y.devAt o) x) }
    updL1 i (fun c => { c with lines := sset (fun _ => none) c.lines key (some y') }) s
  | none => s

/-- The stored bits that `u` names flip (DESIGN CHOICE, log entry 10). -/
def upset (u : Upsets) (s : State) : State :=
  let s := forEach (u.sram.filter fun x => decide (0x1000000000 ≤ x.1)) (fun x => flipWord x.1 x.2) s
  let s := forEach u.l1 (fun x => flipL1 x.1 x.2.1 x.2.2) s
  let s := forEach u.dram (fun x s => setSyms (64 * x.1) (s.symsAt (64 * x.1) ++ x.2) s) s
  let s := forEach u.core (fun x => updCore x.1 fun c => { c with inner := c.inner ++ [x.2] }) s
  forEach u.buf (fun x => updChan x.1 x.2.1 fun c => { c with spoilt := c.spoilt ++ [x.2.2] }) s

end Sys2Proof.Machine
end

