-- ==== Sys2Proof/Machine/Flags.lean ====
section
/-! DEFINITION. Predicates, conditions (Table 4-8), the trap record (R92, R93) and the scalar and
predicate files. -/

namespace Sys2Proof.Machine

open Sys2Proof

/-! ### Scalar and predicate files (R81, R82) -/

/-- Scalar register n: S0 reads zero. -/
def Slot.sreg (x : Slot) (n : Nat) : Word64 := if n = 0 then 0 else sget (fun _ => 0) x.scal n

/-- Write scalar register n; a write to S0 is discarded. -/
def Slot.setSreg (x : Slot) (n : Nat) (v : Word64) : Slot :=
  if n = 0 then x else { x with scal := sset (fun _ => 0) x.scal n v }

/-- Predicate mask n: P0 reads all ones; a mask not written since launch is all ones (R66). -/
def Slot.predMask (x : Slot) (n : Nat) : Word64 :=
  if n = 0 then BitVec.allOnes 64 else sget (fun _ => BitVec.allOnes 64) x.pred n

/-- Write predicate mask n; a write to P0 is discarded. -/
def Slot.setPred (x : Slot) (n : Nat) (v : Word64) : Slot :=
  if n = 0 then x else { x with pred := sset (fun _ => BitVec.allOnes 64) x.pred n v }

/-- The guarding predicate of PRED and PNEG (R97). -/
def Slot.guard (x : Slot) (p : BitVec 3) (n : BitVec 1) : Word64 :=
  if n = 1 then ~~~x.predMask p.toNat else x.predMask p.toNat

/-- The new mask whose bit t is `f t` in active threads and kept elsewhere (R118). -/
def maskUpdate (old act : Word64) (f : Nat → Bool) : Word64 :=
  (List.range 64).foldl (fun m t =>
    if act.getLsbD t && f t then m ||| BitVec.ofNat 64 (2 ^ t) else m) (old &&& ~~~act)

/-! ### Conditions (Table 4-8) -/

/-- A condition on integers compared as `signed` says; codes 6 and 7 compare unsigned. -/
def intCond (w code : Nat) (signed : Bool) (a b : Nat) : Bool :=
  let x := if signed then signedOf w a else (a : Int)
  let y := if signed then signedOf w b else (b : Int)
  match code with
  | 0 => a == b
  | 1 => a != b
  | 2 => decide (x < y)
  | 3 => decide (x ≤ y)
  | 4 => decide (y < x)
  | 5 => decide (y ≤ x)
  | 6 => decide (a < b)
  | 7 => decide (b ≤ a)
  | _ => true

/-- A condition on an ordering of two F32 values: `none` is unordered (R118). -/
def floatCond (code : Nat) (o : Option Ordering) : Bool :=
  match code, o with
  | 0, some .eq => true
  | 1, some .eq => false
  | 1, _ => true
  | 2, some .lt => true
  | 3, some .lt => true
  | 3, some .eq => true
  | 4, some .gt => true
  | 5, some .gt => true
  | 5, some .eq => true
  | 6, none => true
  | _, _ => false

/-! ### Traps (R92, R93, Table 3-10) -/

/-- Trap causes. -/
inductive Cause where
  | illegal
  | queueEmpty
  | fetchEcc
  | access
  | regionRetired
  deriving DecidableEq, Repr

def Cause.code : Cause → Nat
  | .illegal => 1
  | .queueEmpty => 2
  | .fetchEcc => 3
  | .access => 4
  | .regionRetired => 5

/-- Halt every slot of core i that holds a running or tick-wait group (R92). -/
def haltSlots (trapped : Bool) (i : Nat) (s : State) : State :=
  updCore i (fun c => (List.range 8).foldl (fun c g =>
    let x := c.slot g
    if x.state = .running ∨ x.state = .tickWait then
      c.setSlot g { x with state := .halted, trapped := trapped, wait := .none }
    else c) c) s

/-- Record a trap (Table 3-10): the first stands until VALID is cleared, with the slot it is of; a later one sets
LOST. -/
def recordTrap (i slot thread : Nat) (cause : Cause) (pc : BitVec 40) (s : State) : State :=
  let hi := Reg.CORE_TRAP_HI (i / 16) (i % 16)
  if s.flag hi F.CORE_TRAP_HI.VALID then
    updCore i (fun c => { c with trapSlot := none }) (s.setFlag hi F.CORE_TRAP_HI.LOST)
  else
    updCore i (fun c => { c with trapSlot := some slot })
      ((s.setReg (Reg.CORE_TRAP_LO (i / 16) (i % 16)) (BitVec.ofNat 32 (pc.toNat / 8 * 8))).setReg hi
        (BitVec.ofNat 32 (bitsOf pc.toNat 32 8 + 2 ^ 8 * cause.code + 2 ^ 12 * slot + 2 ^ 15 * thread + 2 ^ 31)))

/-- A trap raised by slot `slot` of core i (R92): the core's groups halt, the trap is recorded and
reported, and the tick's results are invalid in job mode (R53). -/
def trap (i slot thread : Nat) (cause : Cause) (pc : BitVec 40) (s : State) : State :=
  let s := haltSlots true i s
  let s := recordTrap i slot thread cause pc s
  markInvalid (reportLocal 2 i 0x05 cause.code s)

/-- The stop of R410 on core i, once the K-th instruction of the counted slot has issued: all of R92 but the trap
record and the fault report, HIT and INVALID. -/
def stopCore (i : Nat) (s : State) : State :=
  if !(s.core i).stopNow then s
  else
    let s := haltSlots true i s
    let s := updCore i (fun c => { c with stopDrain := true, stopNow := false, trapSlot := none }) s
    let s := s.setFlag (Reg.CORE_STOP_CTL (i / 16) (i % 16)) F.CORE_STOP_CTL.HIT
    (markInvalid s).setFlag Reg.TICK_STAT F.TICK_STAT.INVALID

/-- A trap of the core as a whole: ACCESS with the PC of the next instruction of the lowest-numbered
running slot (Table 10-1). -/
def trapCore (i : Nat) (s : State) : State :=
  match firstBelow 8 fun g => (s.slot i g).state == .running with
  | some g => trap i g 0 .access (s.slot i g).pc s
  | none => trap i 0 0 .access 0 s

end Sys2Proof.Machine
end

