-- ==== Sys2Proof/Machine/Operands.lean ====
section
/-! DEFINITION. How an instruction of a group reaches its pipe: encoding (Table 4-1), fetch from the
instruction cache, the form checks of R97-R104, the queues of R71-R79, and the commit of an issued
instruction. -/

namespace Sys2Proof.Machine

open Sys2Proof

/-- The global core index of a slot. -/
def gi (g : Gid) : Nat := 16 * g.s.val + g.c.val

/-- The global core index. -/
def ci (c : Cid) : Nat := 16 * c.s.val + c.c.val

/-! ### Encoding (Table 4-1) -/

/-- The word of a register-layout instruction. -/
def encReg (cls op : Nat) (f : RegForm) : Word64 :=
  BitVec.ofNat 64 (cls * 2 ^ 61 + op * 2 ^ 53 + f.pred.toNat * 2 ^ 50 + f.pneg.toNat * 2 ^ 49
    + f.dst.toNat * 2 ^ 43 + f.a.toNat * 2 ^ 36 + f.b.toNat * 2 ^ 29 + f.c.toNat * 2 ^ 22 + f.mod.toNat)

/-- The word of an immediate-layout instruction. -/
def encImm (cls op : Nat) (f : ImmForm) : Word64 :=
  BitVec.ofNat 64 (cls * 2 ^ 61 + op * 2 ^ 53 + f.pred.toNat * 2 ^ 50 + f.pneg.toNat * 2 ^ 49
    + f.dst.toNat * 2 ^ 43 + f.a.toNat * 2 ^ 36 + f.cond.toNat * 2 ^ 32 + f.imm.toNat)

/-! ### Source and destination fields (Tables 4-3 to 4-5) -/

/-- The mode of a source field: 0 pop, 1 peek, 2 scalar, 3 immediate. -/
def srcMode (f : BitVec 7) : Nat := f.toNat / 32

def srcIdx (f : BitVec 7) : Nat := f.toNat % 32

/-- Does the field name a queue? -/
def isQueue (f : BitVec 7) : Bool := srcMode f < 2

/-- The fixed form of an unused source field (R101). -/
def unusedSrc : BitVec 7 := 0x60

/-- DST of kind Q, S and P (Table 4-5), and the fixed form of an unused DST. -/
def dstQ (d : BitVec 6) : Bool := d.toNat < 32

def dstS (d : BitVec 6) : Bool := 32 ≤ d.toNat

def dstP (d : BitVec 6) : Bool := 32 ≤ d.toNat && d.toNat < 40

def dstNone (d : BitVec 6) : Bool := d == 0x1F

/-- The binary32 value of a small integer (R99), exact for -16 to 15. -/
def smallF32 (n : Int) : Word32 :=
  if n = 0 then 0
  else
    let m := n.natAbs
    let e := floorLog2 m
    BitVec.ofNat 32 ((if n < 0 then 2 ^ 31 else 0) + (127 + e) * 2 ^ 23 + (m * 2 ^ (23 - e) - 2 ^ 23))

/-! ### Bound queues (R76) -/

/-- The binding code of queue q of slot g of core i; 0: ordinary. -/
def State.binding (s : State) (i g q : Nat) : Nat :=
  if 24 ≤ q ∧ q ≤ 30 then bitsOf (s.reg (Reg.CORE_Gg_QBIND (i / 16) (i % 16) g)).toNat (4 * (q - 24)) 4 else 0

/-- Is queue q bound inbound, outbound? -/
def State.boundIn (s : State) (i g q : Nat) : Bool := q < 28 && s.binding i g q != 0

def State.boundOut (s : State) (i g q : Nat) : Bool := 28 ≤ q && s.binding i g q != 0

/-- A core-wide queue: TA, TB, TD and QI (Table 3-1). -/
inductive WideQ where
  | ta (n : Nat)
  | tb (n : Nat)
  | td (n : Nat)
  | qi (n : Nat)
  deriving DecidableEq, Repr

/-- The core-wide queue a binding of queue q names (Table 3-3). -/
def wideOf (q code : Nat) : WideQ :=
  if q < 28 then if code ≤ 4 then .td (code - 1) else .qi (code - 5)
  else if code ≤ 4 then .ta (code - 1) else .tb (code - 5)

def Core.wide (c : Core) : WideQ → List Entry
  | .ta n => sget (fun _ => []) c.tns.ta n
  | .tb n => sget (fun _ => []) c.tns.tb n
  | .td n => sget (fun _ => []) c.tns.td n
  | .qi n => sget (fun _ => []) c.qi n

def Core.setWide (c : Core) (w : WideQ) (es : List Entry) : Core :=
  match w with
  | .ta n => { c with tns := { c.tns with ta := sset (fun _ => []) c.tns.ta n es } }
  | .tb n => { c with tns := { c.tns with tb := sset (fun _ => []) c.tns.tb n es } }
  | .td n => { c with tns := { c.tns with td := sset (fun _ => []) c.tns.td n es } }
  | .qi n => { c with qi := sset (fun _ => []) c.qi n es }

/-- The loader takes the entries of its TB queue that its TLDT still needs (R189). -/
def Core.loaderTake (c : Core) : Core :=
  match c.tns.loading with
  | none => c
  | some ld =>
    match ld.cmd.op with
    | .tldt _ _ q =>
      let es := c.wide (.tb q)
      let n := ld.need - ld.taken.length
      let c := c.setWide (.tb q) (es.drop n)
      { c with tns := { c.tns with loading := some { ld with taken := ld.taken ++ es.take n } } }
    | _ => c

/-- Append an entry to a core-wide queue. -/
def Core.pushWide (c : Core) (w : WideQ) (e : Entry) : Core := (c.setWide w (c.wide w ++ [e])).loaderTake

/-- Entries a core-wide queue holds: 16 each (Tables 3-1 and 6-1). -/
def wideCap : Nat := 16

/-! ### Ordinary queues -/

def Slot.queue (x : Slot) (q t : Nat) : List QEntry := sget (fun _ => []) x.queues (64 * q + t)

def Slot.setQueue (x : Slot) (q t : Nat) (es : List QEntry) : Slot :=
  { x with queues := sset (fun _ => []) x.queues (64 * q + t) es }

/-- Apply `f` to queue q of every thread of `act`. -/
def Slot.mapQueue (x : Slot) (q : Nat) (act : Word64) (f : Nat → List QEntry → List QEntry) : Slot :=
  (List.range 64).foldl (fun x t => if act.getLsbD t then x.setQueue q t (f t (x.queue q t)) else x) x

/-- The position each source field names in its queue: after every earlier pop of that queue
(R73, R102). -/
def positions : List (BitVec 7) → List (BitVec 7) → List Nat
  | _, [] => []
  | before, f :: t =>
    (before.filter fun x => srcMode x = 0 && srcIdx x = srcIdx f).length :: positions (before ++ [f]) t

/-- The queues the sources pop, with how many entries. -/
def popCount (fs : List (BitVec 7)) (q : Nat) : Nat :=
  (fs.filter fun x => srcMode x = 0 && srcIdx x = q).length

/-- Readiness of queue sources (R73). -/
inductive Rdy where
  | ok
  | stall
  | empty (thread : Nat)
  deriving DecidableEq, Repr

/-- Readiness of position `p` of queue `q` for the threads of `act` (R73, R78). A bound inbound queue with no such entry
stalls the group whatever its threads, since the pop takes one entry for all of them (DEDUCED, log entry 74). -/
def readyPos (s : State) (i g : Nat) (act : Word64) (q p : Nat) : Rdy :=
  if q = 31 then .ok
  else if s.boundIn i g q then
    match ((s.core i).wide (wideOf q (s.binding i g q)))[p]? with
    | none => .stall
    | some _ => .ok
  else
    let x := s.slot i g
    match firstBelow 64 fun t => act.getLsbD t && decide ((x.queue q t).length ≤ p) with
    | some t => .empty t
    | none =>
      if (List.range 64).any fun t => act.getLsbD t &&
          (match (x.queue q t)[p]? with | some (.reserved _) => true | _ => false) then .stall
      else .ok

/-- The worse of two outcomes: a trap before a stall. -/
def Rdy.worse : Rdy → Rdy → Rdy
  | .empty t, .empty u => .empty (min t u)
  | .empty t, _ => .empty t
  | _, .empty u => .empty u
  | .stall, _ => .stall
  | _, r => r

/-- Readiness of every queue source of an instruction. -/
def readySrcs (s : State) (i g : Nat) (act : Word64) (fs : List (BitVec 7)) : Rdy :=
  ((fs.zip (positions [] fs)).filter fun x => isQueue x.1).foldl
    (fun r x => r.worse (readyPos s i g act (srcIdx x.1) x.2)) .ok

/-- The 32-bit value thread t takes from source field `f` at queue position `p`; `fl`: the operand
is read as F32 (R98, R99). -/
def srcVal (s : State) (i g : Nat) (fl : Bool) (f : BitVec 7) (p t : Nat) : Word32 :=
  let q := srcIdx f
  match srcMode f with
  | 2 => BitVec.setWidth 32 ((s.slot i g).sreg q)
  | 3 => if fl then smallF32 (signedOf 5 q) else BitVec.ofInt 32 (signedOf 5 q)
  | _ =>
    if q = 31 then 0
    else if s.boundIn i g q then
      ((((s.core i).wide (wideOf q (s.binding i g q)))[p]?).map fun e => e.words.getD t 0).getD 0
    else
      match ((s.slot i g).queue q t)[p]? with
      | some (.present v) => v
      | _ => 0

/-- The 64-bit value of a scalar or immediate source (S, C and M-class base, R99). -/
def srcVal64 (x : Slot) (f : BitVec 7) : Word64 :=
  if srcMode f = 2 then x.sreg (srcIdx f) else BitVec.ofInt 64 (signedOf 5 (srcIdx f))

/-- Remove what the sources popped: from each active thread of an ordinary queue, one entry a pop
for the whole group from a bound queue (R75, R78). -/
def popSrcs (i g : Nat) (act : Word64) (fs : List (BitVec 7)) (s : State) : State :=
  forEach (((fs.filter fun f => srcMode f = 0).map srcIdx).dedup) (fun q s =>
    let n := popCount fs q
    if q = 31 then s
    else if s.boundIn i g q then
      let w := wideOf q (s.binding i g q)
      updCore i (fun c => c.setWide w ((c.wide w).drop n)) s
    else updSlot i g (fun x => x.mapQueue q act fun _ l => l.drop n) s) s

/-- Would a push to queue q stall, after the pops of the same instruction (R74, R79)? A bound queue takes no push
while a load that will push to it is in flight, so that results arrive in order (R72) (DEDUCED, log entry 22). -/
def pushStalls (s : State) (i g : Nat) (act : Word64) (fs : List (BitVec 7)) (q : Nat) : Bool :=
  if q = 31 then false
  else if s.boundOut i g q then
    wideCap ≤ ((s.core i).wide (wideOf q (s.binding i g q))).length ||
      (s.core i).loads.any fun x => x.slot == g && x.queue == q
  else (List.range 64).any fun t => act.getLsbD t &&
    decide (4 ≤ ((s.slot i g).queue q t).length - popCount fs q)

/-- Push `v t` for each active thread to queue q; a bound queue takes one entry in which inactive
threads supply zero (R71, R79). -/
def pushQ (i g : Nat) (act : Word64) (q : Nat) (v : Nat → Word32) (s : State) : State :=
  if q = 31 then s
  else if s.boundOut i g q then
    let w := wideOf q (s.binding i g q)
    let e : Entry := { words := (List.range 64).map fun t => if act.getLsbD t then v t else 0 }
    updCore i (fun c => c.pushWide w e) s
  else updSlot i g (fun x => x.mapQueue q act fun t l => l ++ [.present (v t)]) s

/-- Reserve an entry of queue q for load `id` in each active thread (R72). -/
def reserveQ (i g : Nat) (act : Word64) (q id : Nat) (s : State) : State :=
  if q = 31 || s.boundOut i g q then s
  else updSlot i g (fun x => x.mapQueue q act fun _ l => l ++ [.reserved id]) s

/-! ### Form checks -/

/-- Do the queue sources and the destination respect the bindings (R104)? -/
def bindOk (s : State) (i g : Nat) (fs : List (BitVec 7)) (push : Option Nat) : Bool :=
  (fs.all fun f => !(isQueue f && s.boundOut i g (srcIdx f))) &&
    match push with
    | some q => !s.boundIn i g q
    | none => true

/-- The fields `fs` of an instruction that uses the first `n` of SRCA, SRCB, SRCC: the others are in
the fixed form (R101). -/
def srcFixed (n : Nat) (f : RegForm) : Bool :=
  (n ≥ 1 || f.a == unusedSrc) && (n ≥ 2 || f.b == unusedSrc) && (n ≥ 3 || f.c == unusedSrc)

/-- The used source fields. -/
def usedSrcs (n : Nat) (f : RegForm) : List (BitVec 7) := [f.a, f.b, f.c].take n

/-- No guarding predicate (R97). -/
def noPred (p : BitVec 3) (n : BitVec 1) : Bool := p == 0 && n == 0

/-! ### Fetch and issue -/

/-- Can core i run at all: powered, not held in reset, not shut down or without supply? -/
def State.coreRuns (s : State) (i : Nat) : Bool :=
  (s.gate i).coreOn && s.boot.resetting.isNone && !s.thermal.shut && s.lands.pwrOk && !s.coreExcluded i

/-- Is the core stop of R410 armed for this tick on core i? -/
def State.stopOn (s : State) (i : Nat) : Bool :=
  s.flag Reg.TICK_STOP_CTL F.TICK_STOP_CTL.IN_EN && s.tick.index == s.pair Reg.TICK_STOP_AT_LO &&
    s.flag (Reg.CORE_STOP_CTL (i / 16) (i % 16)) F.CORE_STOP_CTL.EN

/-- Has the counted slot just issued its K-th instruction (R410)? -/
def State.stopDue (s : State) (i : Nat) : Bool := (s.core i).stopNow

/-- The set and tag of an instruction address (R140). -/
def icSet (pc : Nat) : Nat := bitsOf pc 7 8

def icTag (pc : Nat) : Nat := pc / 32768

/-- The way and line that hold `pc`. -/
def ICache.find (ic : ICache) (pc : Nat) : Option (Nat × ICLine) :=
  (List.range 8).findSome? fun w =>
    match sget (fun _ => none) ic.lines (8 * icSet pc + w) with
    | some x => if x.tag = icTag pc then some (8 * icSet pc + w, x) else none
    | none => none

def updIc (i : Nat) (f : ICache → ICache) (s : State) : State := updCore i (fun c => { c with ic := f c.ic }) s

/-- Ask for the instruction line that holds local address `a` (R141): from the stack L2 for DRAM,
which always allocates; counted there under class 2 (R220). -/
def icRequest (i a : Nat) (s : State) : State :=
  let k := i / 16
  let l := a / 128
  let s := updIc i (fun ic => { ic with
    fetches := ic.fetches ++ [{ line := l, refetch := ic.again.contains l }], again := ic.again.filter (· != l) }) s
  match decode s a with
  | .ok .dram =>
    let full := ((s.l2Held k l).map fun x => x.has 0 128).getD false
    let s := l2Count k 2 full s
    if full then l2Touch k l s
    else if !(s.l2Allocs k 2 l || s.l2Fetching k l) then s else l2Request k 2 l (.fetch i) s
  | _ => s

/-- The line of `pc` is not in the cache: fetch it, wait for a free fetch slot, or trap where fetch
may not go (R141, R138). Each miss is counted, the one a refetch resolves too (R146). -/
def icMiss (i g : Nat) (pc : BitVec 40) (s : State) : State :=
  let l := pc.toNat / 128
  if (s.core i).ic.fetches.any fun x => x.line == l then s
  else
    match decodeFetch s pc.toNat with
    | .err k =>
      let s := decodeErr { master := 1, stack := i / 16, core := i % 16 } pc.toNat k s
      trap i g 0 (if k = 5 then .regionRetired else .access) pc s
    | .ok _ =>
      if 4 ≤ (s.core i).ic.fetches.length then s
      else (icRequest i pc.toNat s).count (Reg.CORE_CNT_IMISS (i / 16) (i % 16))

/-- The instruction word at `pc`, or the state in which the group waits or has trapped (R139, R141,
R142). -/
def icFetch (i g : Nat) (pc : BitVec 40) (s : State) : Except State (Word64 × State) :=
  match (s.core i).ic.find pc.toNat with
  | none => .error (icMiss i g pc s)
  | some (key, x) =>
    let o := bitsOf pc.toNat 3 4
    let (y, code, v) := readCode (x.words.getD o 0) 0 (sget (fun _ => 0) x.dev o)
    let e : ErrEntry := { src := 3, sev := 0, stack := i / 16, unit := i % 16, addr := pc.toNat, synd := y,
                          master := missMaster i }
    match code with
    | .clean => .ok (v, s)
    | .corrected j => .ok (v, logErr { e with bit := j } s)
    | .bad =>
      let s := logErr { e with sev := 1 } s
      if x.pinned || x.refetched then .error (trap i g 0 .fetchEcc pc s)
      else
        .error (icMiss i g pc (updIc i (fun ic => { ic with
          lines := sdel ic.lines key, again := insertNat (pc.toNat / 128) ic.again }) s))

/-- Is the group of slot g able to issue now, whatever its next instruction (R86)? -/
def State.canIssue (s : State) (i g : Nat) : Bool :=
  s.coreRuns i && (s.slot i g).state == .running && (s.slot i g).wait == .none && !s.stopDue i

/-- Has the group of slot g a next instruction: it runs, and waits at most on a fence (R134, R135, R139)? None while
ENDT or EXIT is not complete (DEDUCED, log entry 70). -/
def State.hasNext (s : State) (i g : Nat) : Bool :=
  s.coreRuns i && (s.slot i g).state == .running && !s.stopDue i &&
    match (s.slot i g).wait with
    | .endt => false
    | .exit => false
    | _ => true

/-- Does a fence hold the next instruction of slot g back (R86)? -/
def State.fenced (s : State) (i g : Nat) : Bool := (s.slot i g).wait != .none

/-- The command "slot g issues the instruction whose word is w": the state to go on in when that word
is the group's next instruction, else the state in which the command ends (DESIGN CHOICE, log entry 5). -/
def enter (g : Gid) (w : Word64) (s : State) : Except State State :=
  let i := gi g
  if !s.hasNext i g.g then .error s
  else
    match icFetch i g.g (s.slot i g.g).pc s with
    | .error t => .error t
    | .ok (v, t) => if v = w then .ok t else .error s

/-- An instruction of slot g has issued and its group goes on at `next`: the program counter, the
counters, the scheduler's pointer and the count of R410, which stops the core when it reaches K (DEDUCED, log
entry 7). -/
def commitTo (g : Gid) (next : BitVec 40) (s : State) : State :=
  let i := gi g
  let pc := (s.slot i g.g).pc
  let s := updSlot i g.g (fun x => { x with pc := next }) s
  let s := s.count (Reg.CORE_CNT_ISSUE g.s g.c)
  let counted := s.stopOn i && s.fld (Reg.CORE_STOP_CTL g.s g.c) F.CORE_STOP_CTL.SLOT == g.g.val
  let n := (s.core i).stopCount + 1
  let hit := counted && n == (s.reg (Reg.CORE_STOP_CNT g.s g.c)).toNat
  let s := updCore i (fun c => { c with
    rp := (g.g.val + 1) % 8, stopCount := if counted then n else c.stopCount, stopNow := hit || c.stopNow }) s
  if hit then s.setPair (Reg.CORE_STOP_PC_LO g.s g.c) pc.toNat else s

/-- An instruction of slot g that does not transfer control has issued (R94). -/
def commit (g : Gid) (s : State) : State := commitTo g ((s.slot (gi g) g.g).pc + 8) s

/-- Did another slot's captured trap halt slot g (R92, R93)? -/
def State.haltedBeside (s : State) (i g : Nat) : Bool :=
  (s.slot i g).state == .halted && (s.slot i g).trapped && s.flag (Reg.CORE_TRAP_HI (i / 16) (i % 16)) F.CORE_TRAP_HI.VALID &&
    match (s.core i).trapSlot with
    | some h => h != g
    | none => false

/-- Run `body` for slot g. Where another slot's trap has halted it, the trap condition its next instruction meets
before issue is one of that cycle: MULTI is set, and the lowest slot is recorded (R93, R139) (DEDUCED, log entry 71). -/
def withTraps (g : Gid) (body : State → Out) (s : State) : Out :=
  let i := gi g
  if s.haltedBeside i g.g then
    let lo := Reg.CORE_TRAP_LO g.s g.c
    let hi := Reg.CORE_TRAP_HI g.s g.c
    let revived := updSlot i g.g (fun x => { x with state := .running, wait := .fence 0 0 0 }) s
    match body (revived.setFlag hi F.CORE_TRAP_HI.VALID false) with
    | .next t =>
      if (t.slot i g.g).state == .running then .next s
      else if g.g.val < s.fld hi F.CORE_TRAP_HI.SLOT then .next (t.setFlag hi F.CORE_TRAP_HI.MULTI)
      else .next ((updCore i (fun c => { c with trapSlot := (s.core i).trapSlot })
        ((t.setReg lo (s.reg lo)).setReg hi (s.reg hi))).setFlag hi F.CORE_TRAP_HI.MULTI)
    | o => o
  else body s

/-- The structure of core i that source field `f` reads, if any: a scalar, a queue of some thread, or a core-wide
queue. -/
def innerOf (s : State) (i g : Nat) (act : Word64) (f : BitVec 7) : Option Inner :=
  if srcMode f = 2 then (if srcIdx f = 0 then none else some .scalars)
  else if !isQueue f || srcIdx f == 31 then none
  else if s.boundIn i g (srcIdx f) then some .wide
  else if act = 0 then none
  else some .queues

/-- Read the structures `ks` of core i, each through its code: an error counted and logged, and whether one was
uncorrectable, which traps the core (R280, R281, R289). The entry's address is left open, as such words have none
(DESIGN CHOICE, log entry 10). -/
def readInner (i : Nat) (ks : List Inner) (s : State) : Bool × State :=
  ks.foldl (fun (acc : Bool × State) k =>
    let (bad, s) := acc
    match (s.core i).inner.find? fun x => x.1 == k with
    | none => (bad, s)
    | some x =>
      let (y, code, _) := readCode 0 0 x.2
      let s := updCore i (fun c => { c with inner := c.inner.erase x }) s
      let (a, s) := s.draw 40
      let e : ErrEntry := { src := 4, sev := 0, stack := i / 16, unit := i % 16, addr := a.toNat, synd := y }
      match code with
      | .clean => (bad, s)
      | .corrected j => (bad, logErr { e with bit := j } s)
      | .bad => (true, logErr { e with sev := 1 } s)) (false, s)

/-- Issue an instruction: enter, the form check, the sources' readiness, the push's room, the pops,
then its effect `body`, which is given how each source reads. `srcAct` are the threads that take
sources, `act` those that push; `busy` whether its pipe is occupied. A fence, a full queue or the pipe holds the
instruction back, its traps not (R139) (DESIGN CHOICE, log entry 6). A source that its code finds uncorrectable traps
the core instead (Table 10-1). -/
def issue (g : Gid) (w : Word64) (legal : State → Bool) (fs : List (BitVec 7)) (fl : List Bool)
    (srcAct act : Slot → Word64) (push : Option Nat)
    (body : (Nat → Nat → Word32) → State → State) (s : State) (busy : State → Bool := fun _ => false) : Out :=
  withTraps g (fun s =>
    match enter g w s with
    | .error t => .next t
    | .ok s =>
      let i := gi g
      let x := s.slot i g.g
      let held := s.fenced i g.g || busy s ||
        (match push with | some q => pushStalls s i g.g (act x) fs q | none => false)
      if !(legal s && bindOk s i g.g fs push) then .next (trap i g.g 0 .illegal x.pc s)
      else
        match readySrcs s i g.g (srcAct x) fs with
        | .empty t => .next (trap i g.g t .queueEmpty x.pc s)
        | .stall => .next s
        | .ok =>
          if held then .next s
          else
            match readInner i ((fs.filterMap (innerOf s i g.g (srcAct x))).dedup) s with
            | (true, s) => .next (trapCore i s)
            | (false, s) =>
              let ps := positions [] fs
              let rd := fun n t => srcVal s i g.g (fl.getD n false) (fs.getD n unusedSrc) (ps.getD n 0) t
              .next (commit g (body rd (popSrcs i g.g (srcAct x) fs s)))) s

end Sys2Proof.Machine
end

