-- ==== Sys2Proof/Machine/TensorOps.lean ====
section
/-! DEFINITION. The tensor array: operand layout, the arithmetic of every mode, ramp and reset state
(R180-R209). -/

namespace Sys2Proof.Machine

open Sys2Proof

def updTns (i : Nat) (f : Tensor → Tensor) (s : State) : State := updCore i (fun c => { c with tns := f c.tns }) s

/-! ### Formats of a tile (R181, R185) -/

/-- Is the format ZF4 or INT4? -/
def fmt4 (f : Nat) : Bool := f == 6 || f == 8

/-- Elements along a tile's reduction index. -/
def Tile.k (t : Tile) : Nat := if fmt4 t.fmt then 256 else 128

/-- Block size of the ZS8 scales by BLKA or BLKB; 0: unscaled (Table 5-5, R156). -/
def blkOf (code fmt : Nat) : Nat :=
  if fmtLong fmt then 0 else match code with
    | 1 => 16
    | 2 => 32
    | _ => 0

def State.blkA (s : State) (i fmt : Nat) : Nat :=
  blkOf (s.fld (Reg.CORE_NUM_CTL (i / 16) (i % 16)) F.CORE_NUM_CTL.BLKA) fmt

def State.blkB (s : State) (i fmt : Nat) : Nat :=
  blkOf (s.fld (Reg.CORE_NUM_CTL (i / 16) (i % 16)) F.CORE_NUM_CTL.BLKB) fmt

/-- Byte `n` of an entry. -/
def Entry.byte (e : Entry) (n : Nat) : Nat := bitsOf (e.words.getD (n / 4) 0).toNat (8 * (n % 4)) 8

/-- Element `i` of a row of format `fmt` whose bytes are `b` (Table 6-3). -/
def rowElem (fmt : Nat) (b : Nat → Nat) (i : Nat) : Nat :=
  if fmt4 fmt then bitsOf (b (i / 2)) (4 * (i % 2)) 4
  else if fmtLong fmt then b (2 * i) + 256 * b (2 * i + 1)
  else if fmt = 5 then b i % 64
  else b i

/-- Bytes of a row of `n` elements. -/
def rowBytes (fmt n : Nat) : Nat := if fmt4 fmt then n / 2 else if fmtLong fmt then 2 * n else n

/-! ### Loading (R188, R189) -/

/-- Data entries and scale entries a TLDT takes. -/
def tldtData (count fmt : Nat) : Nat := if fmtLong fmt then count else (count + 1) / 2

def tldtScales (blk fmt : Nat) : Nat := if blk = 0 then 0 else (if fmt4 fmt then 256 else 128) / (2 * blk)

/-- The tile a TLDT has loaded from its entries. -/
def loadTile (count fmt blk : Nat) (es : List Entry) : Tile :=
  let size := if fmtLong fmt then 256 else 128
  let byte (n : Nat) : Nat := (es.getD (n / 256) { words := [] }).byte (n % 256)
  let cell (r n : Nat) : BitVec 16 :=
    let o := r * size
    if fmtLong fmt then BitVec.ofNat 16 (byte (o + 2 * n) + 256 * byte (o + 2 * n + 1))
    else if fmt = 5 then BitVec.ofNat 16 (byte (o + n) % 64)
    else BitVec.ofNat 16 (byte (o + n))
  let cells := (List.range (128 * count)).foldr (fun i m =>
    let v := cell (i / 128) (i % 128)
    if v = 0 then m else (i, v) :: m) []
  let base := 256 * tldtData count fmt
  let scales := (List.range (256 * tldtScales blk fmt)).foldr (fun i m =>
    let v := BitVec.ofNat 8 (byte (base + i))
    if v = 0 then m else (i, v) :: m) []
  { fmt := fmt, cells := cells, scales := scales, blk := blk, rows := count }

/-- The code of element (k, n) of a tile (R181). -/
def Tile.code (t : Tile) (k n : Nat) : Nat :=
  if fmt4 t.fmt then bitsOf (sget (fun _ => (0 : BitVec 16)) t.cells (128 * (k / 2) + n)).toNat (4 * (k % 2)) 4
  else (sget (fun _ => (0 : BitVec 16)) t.cells (128 * k + n)).toNat

/-- Element (k, n) of a tile, decoded (R173). -/
def Tile.elem (t : Tile) (k n : Nat) : Elem :=
  decodeElem t.fmt (t.code k n)
    (if t.blk = 0 then none else some (sget (fun _ => (0 : Byte)) t.scales (128 * (k / t.blk) + n)).toNat)

/-! ### Streaming (R186, R187, R193, R194) -/

/-- The row, format, mode, mirror and queue of a TRUN. -/
structure TrunArgs where
  count : Nat
  row : Nat
  fmta : Nat
  amode : Nat
  mir : Bool
  qsel : Nat
  deriving DecidableEq, Repr

def TCmd.trun? (c : TCmd) : Option TrunArgs :=
  match c.op with
  | .trun n r f a m q => some ⟨n, r, f, a, m, q⟩
  | _ => none

/-- Elements of an A row against tile `t`. -/
def TrunArgs.k (a : TrunArgs) (t : Tile) : Nat := if a.mir then 128 else t.k

/-- The accumulator rows that row `i` of the command updates (R194). -/
def TrunArgs.targets (a : TrunArgs) (t : Tile) (i : Nat) : List Nat :=
  if a.mir && fmt4 t.fmt then [a.row + 2 * i, a.row + 2 * i + 1] else [a.row + i]

/-- What the streamer needs of TA[QSEL] for its next row: the row's bytes, its scale bytes, whether
and the entries that stay (R186, R187). None: not all present. -/
def trunTake (a : TrunArgs) (k blk i : Nat) (q : List Entry) : Option (List Nat × List Nat × List Entry) :=
  let rb := rowBytes a.fmta k
  let sb := if blk = 0 then 0 else k / blk
  let sc := if blk = 0 then 0 else 1
  let per := if blk = 0 then 0 else 256 / sb
  let j := if blk = 0 then i else i % per
  let last := i + 1 == a.count || (blk != 0 && j + 1 == per)
  let need := sc + (if rb = 512 then 2 else 1)
  if q.length < need then none
  else
    let ent (n : Nat) : Entry := q.getD n { words := [] }
    let rows := if rb = 512 then 1 else 256 / rb
    let off := (j % rows) * rb
    let bytes := (List.range rb).map fun n => (ent (sc + (off + n) / 256)).byte ((off + n) % 256)
    let codes := (List.range k).map fun e => rowElem a.fmta (fun n => bytes.getD n 0) e
    let scales := (List.range sb).map fun n => (ent 0).byte (sb * j + n)
    let done := if rb = 512 then 2 else if last || j % rows + 1 == rows then 1 else 0
    let keep := if blk != 0 && !last then q.take 1 else []
    some (codes, scales, keep ++ q.drop (sc + done))

/-! ### The modes (R195-R199) -/

/-- An exact value z × 2^x. -/
structure Dy where
  z : Int
  x : Int
  deriving DecidableEq, Repr

def Elem.dy : Elem → Dy
  | .fin s e m => ⟨if s then -(m : Int) else m, e - 11⟩
  | _ => ⟨0, 0⟩

/-- Both significands at the lower exponent. -/
def Dy.align (a b : Dy) : Int × Int × Int :=
  let x := min a.x b.x
  (a.z * 2 ^ (a.x - x).toNat, b.z * 2 ^ (b.x - x).toNat, x)

def Dy.add (a b : Dy) : Dy := let (p, q, x) := a.align b; ⟨p + q, x⟩

def Dy.sub (a b : Dy) : Dy := let (p, q, x) := a.align b; ⟨p - q, x⟩

def Dy.le (a b : Dy) : Bool := let (p, q, _) := a.align b; decide (p ≤ q)

/-- dist_term of R196. -/
def distTerm (squared : Bool) (a b : Elem) : Elem ⊕ Dy :=
  match a, b with
  | .nan, _ => .inl .nan
  | _, .nan => .inl .nan
  | .inf s, .inf t => .inl (if s = t then .nan else .inf false)
  | .inf _, _ => .inl (.inf false)
  | _, .inf _ => .inl (.inf false)
  | a, b =>
    let d := a.dy.sub b.dy
    .inr (if squared then ⟨d.z * d.z, 2 * d.x⟩ else ⟨d.z.natAbs, d.x⟩)

/-- dist_group of R196. -/
def distGroup (ts : List (Elem ⊕ Dy)) : GSum :=
  if ts.any fun t => match t with | .inl .nan => true | _ => false then .nan
  else if ts.any fun t => match t with | .inl _ => true | _ => false then .inf false
  else
    let ds := ts.filterMap fun t => match t with
      | .inr d => if d.z = 0 then none else some d
      | _ => none
    match ds with
    | [] => .empty
    | d :: _ =>
      let top (d : Dy) : Int := (floorLog2 d.z.toNat : Int) + d.x
      let emax := ds.foldl (fun a d => max a (top d)) (top d)
      .val (ds.foldl (fun t d =>
        let sh := d.x + 27 - emax
        t + (if 0 ≤ sh then d.z * 2 ^ sh.toNat else d.z / 2 ^ (-sh).toNat)) 0) emax

/-- accumulate of R196, and the update of R195 (R176, R178). -/
def accumulate (pair : Bool) (e : AccEntry) (g : GSum) : AccEntry :=
  if pair then
    let (h, l) := pairAdd e.hi e.lo g
    { hi := h, lo := l, fresh := false }
  else { e with hi := accAdd e.hi g, fresh := false }

/-- ext_row of R197 over the pairs that meet. -/
def extRow (isMax : Bool) (ps : List (Elem × Elem)) : Word32 :=
  if ps.any fun p => p.1 == .nan || p.2 == .nan then qNaN
  else if ps.any fun p => match p with | (.inf s, .inf t) => s != t | _ => false then qNaN
  else
    let infs := ps.filterMap fun p => match p with
      | (.inf s, _) => some s
      | (_, .inf s) => some s
      | _ => none
    let fins := ps.filterMap fun p => match p with
      | (.inf _, _) => none
      | (_, .inf _) => none
      | (a, b) => some (a.dy.add b.dy)
    if infs.contains (!isMax) then infF32 (!isMax)
    else
      match fins with
      | [] => infF32 isMax
      | d :: t =>
        let m := t.foldl (fun a b => if isMax then (if a.le b then b else a) else if a.le b then a else b) d
        roundDy m.z m.x

/-- ext_update of R197. -/
def extUpdate (isMax : Bool) (e : AccEntry) (r : Word32) : AccEntry :=
  let hi :=
    if isNaN r || isNaN e.hi then qNaN
    else if e.fresh then r
    else if isMax then fmax e.hi r else fmin e.hi r
  { hi := hi, lo := 0, fresh := false }

/-- x ≥ y of R198: a NaN on either side does not count. -/
def countGe (a b : Elem) : Bool :=
  match a, b with
  | .nan, _ => false
  | _, .nan => false
  | .inf s, .inf t => !s || t
  | .inf s, _ => !s
  | _, .inf t => t
  | a, b => b.dy.le a.dy

/-- The update of one accumulator entry by an A row whose pairs (x[k], y[k]) are `ps` (R195-R198). -/
def updateEntry (amode : Nat) (pair : Bool) (ps : List (Elem × Elem)) (e : AccEntry) : AccEntry :=
  let groups := (List.range (ps.length / 32)).map fun j => (ps.drop (32 * j)).take 32
  match amode with
  | 0 => groups.foldl (fun e g => accumulate pair e (groupSum (g.map fun p => prodElem p.1 p.2))) e
  | 1 => groups.foldl (fun e g => accumulate pair e (distGroup (g.map fun p => distTerm false p.1 p.2))) e
  | 2 => groups.foldl (fun e g => accumulate pair e (distGroup (g.map fun p => distTerm true p.1 p.2))) e
  | 3 => extUpdate true e (extRow true ps)
  | 4 => extUpdate false e (extRow false ps)
  | _ =>
    let c := ps.countP fun p => countGe p.1 p.2
    accumulate pair e (if c = 0 then .empty else .val c 27)

/-- The elements of an A row, decoded. -/
def RowFlight.elems (r : RowFlight) (fmta : Nat) : List Elem :=
  r.codes.zipIdx.map fun (c, k) =>
    decodeElem fmta c (if r.blk = 0 then none else some (r.scales.getD (k / r.blk) 0))

/-- Did a TLDT fill array row of reduction index `k` of a tile (R188)? -/
def Tile.filled (t : Tile) (k : Nat) : Bool := decide ((if fmt4 t.fmt then k / 2 else k) < t.rows)

/-- The pairs that meet for output `n` (without mirror read, n the column; with it, output k of R194). In multiply-add
mode, `mac`, a position the tile's load did not fill gives a ZERO product, whatever meets it (R176, R200). -/
def RowFlight.pairs (r : RowFlight) (mac mir : Bool) (xs : List Elem) (n : Nat) : List (Elem × Elem) :=
  xs.zipIdx.map fun (x, k) =>
    if mac && !r.tile.filled (if mir then n else k) then (.zero, .zero)
    else (x, if mir then r.tile.elem n k else r.tile.elem k n)

def Tensor.accAt (t : Tensor) (key : Nat) : AccEntry := sget (fun _ => AccEntry.reset) t.acc key

def Tensor.setAcc (t : Tensor) (key : Nat) (e : AccEntry) : Tensor :=
  { t with acc := sset (fun _ => AccEntry.reset) t.acc key e }

/-- The updates of one A row: (accumulator key, output). -/
def RowFlight.outputs (r : RowFlight) (a : TrunArgs) : List (Nat × Nat) :=
  if a.mir && fmt4 r.tile.fmt then
    (List.range 256).map fun k => (128 * (a.row + 2 * r.index + k % 2) + k / 2, k)
  else (List.range 128).map fun n => (128 * (a.row + r.index) + n, n)

/-- Apply a row that has passed through the array to its accumulator entries (R176). -/
def Tensor.applyRow (t : Tensor) (pair : Bool) (r : RowFlight) (a : TrunArgs) : Tensor :=
  let xs := r.elems a.fmta
  (r.outputs a).foldl (fun t (key, n) =>
    t.setAcc key (updateEntry a.amode pair (r.pairs (a.amode == 0) a.mir xs n) (t.accAt key))) t

/-! ### Order against the accumulator (R193, R201, R202) -/

/-- Is an update of accumulator row `q` by a command before `id` still to come? -/
def Tensor.pendingUpdate (t : Tensor) (id q : Nat) : Bool :=
  (t.rows.any fun r => decide (r.cmd.id < id) &&
    match r.cmd.trun? with
    | some a => (a.targets r.tile r.index).contains q
    | none => false) ||
  (match t.streaming with
   | some st => decide (st.cmd.id < id) &&
     match st.cmd.trun? with
     | some a => (List.range a.count).any fun i => decide (st.entered ≤ i) && (a.targets t.front i).contains q
     | none => false
   | none => false)

/-- Entries a TDRN pushes for each row (Table 6-5). -/
def drainPer (pair : Bool) : Nat := if pair then 4 else 2

/-- Has every TDRN or TCLR before command `id` finished with accumulator row `q`? -/
def Tensor.accFree (t : Tensor) (id q : Nat) : Bool :=
  (match t.tdrn with
   | some (c, n) =>
     match c.op with
     | .tdrn count row pair _ =>
       !(decide (c.id < id) && decide (row + n / drainPer pair ≤ q) && decide (q < row + count))
     | _ => true
   | none => true) &&
  (match t.tclr with
   | some c =>
     match c.op with
     | .tclr count row => !(decide (c.id < id) && decide (row ≤ q) && decide (q < row + count))
     | _ => true
   | none => true)

/-- A started TCLR clears its rows once every earlier update of them has been made (R201). -/
def Tensor.tclrSettle (t : Tensor) : Tensor :=
  match t.tclr with
  | none => t
  | some c =>
    match c.op with
    | .tclr count row =>
      if (List.range count).any fun i => t.pendingUpdate c.id (row + i) then t
      else { t with tclr := none,
                    acc := sdrop (fun key => decide (128 * row ≤ key) && decide (key < 128 * (row + count))) t.acc }
    | _ => t

/-- The entry numbered `n` of a drain of accumulator row `q` (Table 6-5). -/
def Tensor.drainEntry (t : Tensor) (tPair mPair : Bool) (q n : Nat) : Entry :=
  let half := if tPair then n / 2 else n
  let lo := tPair && n % 2 == 1
  { words := (List.range 64).map fun i =>
      let e := t.accAt (128 * q + 64 * half + i)
      if lo then (if mPair then e.lo else 0) else e.hi }

/-! ### The ramp (R204, R205) -/

/-- A TRUN has entered the command queue of core i; a ramp-down under way is reversed at the next multiple of 4
cycles, with a number of column groups still enabled that is left open (R204, R205). -/
def rampWake (i : Nat) (s : State) : State :=
  match (s.core i).tns.ramp with
  | .idle => updTns i (fun t => { t with ramp := .up 32 }) s
  | .up _ => s
  | .active => updTns i (fun t => { t with holding := false }) s
  | .down n =>
    let (x, s) := s.draw 3
    let e := x.toNat % max 1 ((n + 3) / 4)
    let s := s.count (Reg.CORE_CNT_TRAMP (i / 16) (i % 16)) (n - 4 * e)
    updTns i (fun t => { t with ramp := .up (4 * (8 - e)) }) s

/-- No row is in a band or in accumulation and no TRUN is queued or started. -/
def Tensor.quiet (t : Tensor) : Bool :=
  t.rows.isEmpty && t.streaming.isNone && t.cmdq.all fun c => c.trun?.isNone

/-- The hold starts when an active array has become quiet (R205). -/
def holdSettle (i : Nat) (s : State) : State :=
  let t := (s.core i).tns
  if t.ramp == .active && t.quiet && !t.holding then
    let h := s.fld (Reg.CORE_TNS_CTL (i / 16) (i % 16)) F.CORE_TNS_CTL.HOLD
    updTns i (fun t => { t with holding := true, hold := h }) s
  else s

/-- Time passes in a ramp under way: cycles of it, how many is left open, count now (R47, R205). -/
def rampPass (i : Nat) (s : State) : State :=
  let pass (n : Nat) (f : Nat → Ramp) : State :=
    let (x, s) := s.draw 5
    let p := x.toNat % max 1 n
    updTns i (fun t => { t with ramp := f (n - p) }) (s.count (Reg.CORE_CNT_TRAMP (i / 16) (i % 16)) p)
  match (s.core i).tns.ramp with
  | .up n => pass n .up
  | .down n => pass n .down
  | _ => s

/-- Ramp-down with no hold, from the groups then enabled (R208, step 3). -/
def rampDrop (i : Nat) (s : State) : State :=
  match (s.core i).tns.ramp with
  | .idle => s
  | .down _ => s
  | .active => updTns i (fun t => { t with ramp := .down 32, holding := false }) s
  | .up n =>
    let e := (35 - n) / 4
    updTns i (fun t => { t with ramp := if e = 0 then .idle else .down (4 * e), holding := false }) s

/-- The reset state of R208 of core i's array. -/
def tensorReset (i : Nat) (s : State) : State :=
  let s := rampDrop i s
  updTns i (fun t => { Tensor.reset with ramp := t.ramp, nextId := t.nextId }) s

/-- A clock-step change completes the ramp-down of an array that is not idle, in the new tick
(R207). -/
def rampForStep (i : Nat) (s : State) : State :=
  let s := rampDrop i s
  match (s.core i).tns.ramp with
  | .down n => updTns i (fun t => { t with ramp := .idle }) (s.count (Reg.CORE_CNT_TRAMP (i / 16) (i % 16)) n)
  | _ => s

/-- Every accumulator of the package takes its reset state (R209). -/
def clearAccs (s : State) : State :=
  forEach (List.range 384) (fun i s =>
    if (s.core i).tns.acc.isEmpty then s else updTns i (fun t => { t with acc := [] }) s) s


end Sys2Proof.Machine
end

