-- ==== Sys2Proof/Machine/Slots.lean ====
section
/-! DEFINITION. The life of slots: launch, start, emptying and done (R64-R70, R77, R87, R168). -/

namespace Sys2Proof.Machine

open Sys2Proof

/-- Slot states that hold a group. -/
def SlotState.held : SlotState → Bool
  | .running => true
  | .tickWait => true
  | .halted => true
  | _ => false

def SlotState.armed : SlotState → Bool
  | .armedJob => true
  | .armedNow => true
  | _ => false

def Core.anySlot (c : Core) (p : Slot → Bool) : Bool := (List.range 8).any fun g => p (c.slot g)

/-- Every slot of core i is empty or armed. -/
def State.slotsIdle (s : State) (i : Nat) : Bool := !(s.core i).anySlot fun x => x.state.held

/-- The scheduler's pointer is 0 while no slot holds a group (R87). -/
def Core.rpSettle (c : Core) : Core := if c.anySlot fun x => x.state.held then c else { c with rp := 0 }

/-- A slot becomes empty: its queues, scalars and predicates are discarded (R68, R69). -/
def emptySlot (i g : Nat) (s : State) : State :=
  updCore i (fun c => (c.setSlot g Slot.reset).rpSettle) s

/-- Core i is done with the tick: every slot is empty, tick-wait or halted, or a halted slot holds its armed slots
back (R68, R92). -/
def State.coreDone (s : State) (i : Nat) : Bool :=
  !((s.core i).anySlot fun x => x.state == .running) &&
    (!((s.core i).anySlot fun x => x.state.armed) || (s.core i).anySlot fun x => x.state == .halted)

/-- Core i takes launches: powered, in service and admitted (R70). -/
def State.coreLaunchable (s : State) (i : Nat) : Bool :=
  (s.gate i).coreOn && !s.coreExcluded i && s.coreAdmitted i && s.boot.resetting.isNone &&
    !s.flag (Reg.CORE_PWR_CTL (i / 16) (i % 16)) F.CORE_PWR_CTL.GATE

/-- The core-wide queues slot g of core i binds. -/
def State.bindings (s : State) (i g : Nat) : List WideQ :=
  ((List.range 7).map (· + 24)).filterMap fun q =>
    let b := s.binding i g q
    if b = 0 then none else some (wideOf q b)

/-- Are the bindings of slot g valid (R77)? -/
def State.bindValid (s : State) (i g : Nat) : Bool :=
  let mine := s.bindings i g
  (((List.range 7).map (· + 24)).all fun q => decide (s.binding i g q ≤ 8)) && mine.Nodup &&
    ((List.range 8).filter fun h => h != g && (s.slot i h).state != .empty).all fun h =>
      (s.bindings i h).all fun w => !mine.contains w

/-- Is core-wide queue `w` of core i held by a slot's binding? -/
def State.wideBound (s : State) (i : Nat) (w : WideQ) : Bool :=
  (List.range 8).any fun h => (s.slot i h).state != .empty && (s.bindings i h).contains w

/-- A launch write into slot g (R65, R67, R70). -/
def launch (how : SlotState) (i g : Nat) (s : State) : State :=
  let stat := Reg.CORE_STAT (i / 16) (i % 16)
  if !s.noJob || (s.slot i g).state != .empty || !s.coreLaunchable i then s.setFlag stat F.CORE_STAT.LAUNCH_IGN
  else if !s.bindValid i g then s.setFlag stat F.CORE_STAT.BIND_ERR
  else updSlot i g (fun _ => { Slot.reset with state := how }) s

/-- A slot starts with the state of R66 and its generator by R168. -/
def startSlot (i g : Nat) (s : State) : State :=
  let seed := s.reg (Reg.CORE_SR_SEED (i / 16) (i % 16))
  let seeded := seed.getLsbD 31
  let (sr, s) :=
    if seeded then (srAdvance (8192 * g) (seed.setWidth 16), s)
    else
      let (v, s) := s.draw 16
      (if v = 0 then 1 else v, s)
  let pc := s.fld (Reg.CORE_Gg_ENTRY (i / 16) (i % 16) g) F.CORE_Gg_ENTRY.ADDR * 256
  updSlot i g (fun _ =>
    { (({} : Slot).setSreg 1 (BitVec.ofNat 64 i)).setSreg 2 (BitVec.ofNat 64 g) with
      state := .running, pc := BitVec.ofNat 40 pc, sr := sr, seeded := seeded }) s

/-- The armed slots of core i that this boundary starts (R65, R92). -/
def startArmed (job0 : Bool) (i : Nat) (s : State) : State :=
  if (s.core i).anySlot fun x => x.state == .halted then s
  else
    forEach (List.range 8) (fun g s =>
      let st := (s.slot i g).state
      if st == .armedNow || (st == .armedJob && job0) then startSlot i g s else s) s

/-- Every slot that holds a group becomes empty, armed ones too where `all` (R69). -/
def emptySlots (all : Bool) (i : Nat) (s : State) : State :=
  updCore i (fun c =>
    ((List.range 8).foldl (fun c g =>
      if (c.slot g).state.held || (all && (c.slot g).state.armed) then c.setSlot g Slot.reset else c) c).rpSettle) s

/-- Loads in flight and requests of core i that no group waits for are dropped (R69); stores of issued instructions
take effect first (DEDUCED, log entry 69). -/
def dropLoads (i : Nat) (s : State) : State := updCore i (fun c => { c with loads := [] }) (settleStores i s)

/-- ABANDON (R69, R208). -/
def abandonCore (i : Nat) (s : State) : State :=
  if s.noJob then
    let s := emptySlots true i s
    tensorReset i (rampPass i (dropLoads i s))
  else s

end Sys2Proof.Machine
end

