-- ==== Sys2Proof/Machine/Thermal.lean ====
section
/-! DEFINITION. The thermal block: samples, calibration, warnings, levels and shutdown (R380-R392) (DEDUCED, log entry 64). -/

namespace Sys2Proof.Machine

open Sys2Proof

def State.die (s : State) (d : Nat) : Die := sget (fun _ => Die.reset) s.thermal.dies d

def setDie (d : Nat) (x : Die) (s : State) : State :=
  { s with thermal := { s.thermal with dies := sset (fun _ => Die.reset) s.thermal.dies d x } }


def setLv (i : Nat) (x : Level) (s : State) : State :=
  { s with thermal := { s.thermal with lv := sset (fun _ => Level.reset) s.thermal.lv i x } }

/-- An event of the thermal block. -/
def thmEvt (f : Fld) (s : State) : State := intEvent 2 (s.setFlag Reg.THM_EVT f)

/-! ### Voltages (R361, Table 13-1) -/

/-- Nominal VDD_CORE of step k in mV (Table 13-2). -/
def nominalMv (k : Nat) : Nat := 900 - 50 * k

/-- The trimmed voltage of step k in mV, PWR_VFk (R361). -/
def State.vf (s : State) (k : Nat) : Nat :=
  if s.fuses.gradeE && decide (k < 2) then 0 else nominalMv k - Config.vfTrim k % 41

/-- The voltage of the domain in which oscillator `j` of die `d` lies. -/
def State.oscMv (s : State) (d j : Nat) : Nat :=
  if d < 24 then s.vf s.power.step else if d < 56 then 750 else if j < 2 then 800 else 750

/-! ### Sensors (R380-R383) -/

/-- Oscillators of die d: four a core on a Tarn, one a slab on a Mere, four on a Shore die. -/
def oscCount (d : Nat) : Nat := if d < 24 then 64 else if d < 48 then 16 else 4

/-- Is oscillator `j` of die `d` read: is its domain on (R383, R420)? The first two of a Shore-L stand at its
SerDes. -/
def State.oscRead (s : State) (d j : Nat) : Bool :=
  if d < 24 then s.powered && (s.gate (16 * d + j / 4)).coreOn && !s.coreExcluded (16 * d + j / 4) && !(s.stk d).bonds.lost
  else if d < 48 then s.powered && (s.gate (16 * (d - 24) + j)).slabOn && !(s.stk (d - 24)).bonds.lost
  else if d < 56 then s.powered
  else 2 ≤ j || s.flag (Reg.LNKp_CTL (d - 56)) F.LNKp_CTL.ENABLE

/-- The throttle and shutdown thresholds of a die in 1/4 °C (Table 14-2). -/
def throttleAt : Int := 420

def shutdownAt : Int := 472

/-- The offset of oscillator `j` of die `d` in 1/8 °C: from its boot calibration, and what periodic ones have added. -/
def State.oscOffset (s : State) (d j : Nat) : Int :=
  ((s.die d).boot.map fun n => Config.bootOffset n d j).getD 0 + sget (fun _ => 0) (s.die d).offs j

/-- The reading of oscillator `j` in 1/8 °C. -/
def State.oscEighths (s : State) (d j count : Nat) : Int := Config.oscTemp d j (s.oscMv d j) count + s.oscOffset d j

/-- The reading of oscillator `j` in 1/4 °C. -/
def State.oscTemp (s : State) (d j count : Nat) : Int := s.oscEighths d j count / 2

/-- Declare sensors of die d broken: event and fault (R385). -/
def sensorBroken (d : Nat) (s : State) : State := reportLocal 7 d 0x0A 0 (thmEvt F.THM_EVT.BROKEN s)

/-- The oscillators of die d that are read, with their counts. -/
def State.oscReads (s : State) (d : Nat) (r : DieRead) : List (Nat × Nat) :=
  (r.osc.zipIdx.filter fun x => decide (x.2 < oscCount d) && s.oscRead d x.2).map fun x => (x.2, x.1)

/-- Mark the sensors that this sample shows broken (R381, R382). -/
def markBroken (d : Nat) (r : DieRead) (s : State) : State :=
  let x := s.die d
  let diode := decide (r.diode < -160) || decide (600 < r.diode)
  let s := if diode && !x.diodeBad then sensorBroken d (setDie d { x with diodeBad := true } s) else s
  forEach (s.oscReads d r) (fun (j, n) s =>
    let x := s.die d
    let (lo, span) := Config.oscRange d j
    let far := x.boot.isSome && !x.diodeBad && decide (60 < (s.oscTemp d j n - r.diode).natAbs)
    if (decide (n < lo) || decide (lo + span < n) || far) && !x.broken.contains j then
      sensorBroken d (setDie d { x with broken := insertNat j x.broken } s)
    else s) s

/-- The reading of die d over its read sensors (R385). -/
def State.dieReading (s : State) (d : Nat) (r : DieRead) : Int :=
  let x := s.die d
  let osc := if x.boot.isSome then s.oscReads d r else []
  let good := (if x.diodeBad then [] else [r.diode]) ++
    (osc.filter fun o => !x.broken.contains o.1).map fun o => s.oscTemp d o.1 o.2
  let bad := x.diodeBad || osc.any fun o => x.broken.contains o.1
  match good with
  | [] => shutdownAt
  | t :: ts =>
    let m := ts.foldl max t
    if bad then max m throttleAt else m

/-! ### Warnings and levels (R387, R388) -/

/-- Warning with a 5 °C hysteresis. -/
def warnNext (was : Bool) (at_ t : Int) : Bool := decide (at_ ≤ t) || (was && decide (at_ - 20 ≤ t))

/-- The rules of R388 at one sample: rise above `hot` for four samples, fall below `cool` for `time`. -/
def Level.sample (hot cool : Int) (time now : Nat) (t : Int) (x : Level) : Level :=
  let rise := if hot < t then x.rise + 1 else 0
  let x := if 4 ≤ rise then { x with level := min (x.level + 1) 7, rise := 0 } else { x with rise := rise }
  if t < cool then
    match x.fall with
    | none => { x with fall := some now }
    | some b => if b + time ≤ now then { x with level := x.level - 1, fall := some now } else x
  else { x with fall := none }

/-- The shutdown of R391: every clock stops, every block and the test port are held in reset. -/
def shutdown (s : State) : State :=
  { s with thermal := { s.thermal with shut := true }, pcie := { s.pcie with up := false },
           jtag := { s.jtag with driving := false } }

/-- The live peak of die d, kept as TEMP + 2,048 (Table 14-7). -/
def notePeak (d : Nat) (t : Int) (s : State) : State :=
  let a := Reg.THM_PEAKd d
  s.setLive a (max (s.liveAt a) (t + 2048).toNat)

/-- Core cycles in `d` 1/8 ns. -/
def State.cyclesIn (s : State) (d : Nat) : Nat := d * s.clkMHz / 8000

/-- STK_CNT_HOLD counts the core cycles for which stack k has been held back since it was last counted (R369, R389). -/
def holdCount (k : Nat) (s : State) : State :=
  let s' := match sget (fun _ => none) s.power.holdFrom k with
    | some t => s.count (Reg.STK_CNT_HOLD k) (s.cyclesIn (s.now - t))
    | none => s
  let on := s.power.hold.contains k || s.power.shaded.contains k
  { s' with power := { s.power with holdFrom := sset (fun _ => none) s.power.holdFrom k (if on then some s.now else none) } }

/-- A stack whose live level exceeds its latched one is held back (R389). -/
def shadeHold (k : Nat) (s : State) : State :=
  if sget (fun _ => 0) s.thermal.shade k < (s.lv k).level then
    holdCount k { s with power := { s.power with shaded := insertNat k s.power.shaded } }
  else s

/-- One die's share of a sample: broken marks, its own reading, warning and peak. -/
def sampleDie (d : Nat) (r : DieRead) (s : State) : State :=
  let s := markBroken d r s
  let t := s.dieReading d r
  let x := s.die d
  let w := warnNext x.warn 380 t
  let s := setDie d { x with reading := t, warn := w } s
  let s := if w && !x.warn then thmEvt F.THM_EVT.WARN s else s
  notePeak d t s

/-- The dies that sample together: a stack pair (i below 24), a Shore-M (24 to 31) or a Shore-L (32 to 39) (R384). -/
def dieGroup (i : Nat) : List Nat := if i < 24 then [i, i + 24] else [i + 24]

/-- In a held cold reset only the diodes are read, and only shutdown follows (R381, R392). -/
def diodeCheck (ds : List Nat) (reads : List DieRead) (s : State) : State :=
  let s := forEach (ds.zip reads) (fun (d, r) s =>
    let x := s.die d
    let x := { x with diodeBad := x.diodeBad || decide (r.diode < -160) || decide (600 < r.diode) }
    setDie d { x with reading := (setDie d x s).dieReading d r } s) s
  if ds.any fun d => decide (shutdownAt ≤ (s.die d).reading) then shutdown s else s

/-- THERMAL_SAMPLE: the sensors of a group of dies are read (R384), whenever VIN_CORE is applied (R381). -/
def execThermalSample (i : Fin 40) (reads : List DieRead) (s : State) : Out :=
  let ds := dieGroup i
  if s.thermal.shut || !s.lands.vinOk || reads.length != ds.length then .next s
  else if s.down then .next (diodeCheck ds reads s)
  else
    let s := forEach (ds.zip reads) (fun (d, r) s => sampleDie d r s) s
    let t := (ds.map fun d => (s.die d).reading).foldl max ((s.die (ds.headD 0)).reading)
    let s := forEach ds (fun d s =>
      let x := s.die d
      setDie d { x with fast := decide (388 ≤ t) || (x.fast && decide (384 ≤ t)) } s) s
    if shutdownAt ≤ t then .next (shutdown s)
    else
      let old := s.lv i
      let new := old.sample 420 400 (msec 1) s.now t
      let s := setLv i new s
      if i.val < 24 then
        let s := if old.level = 0 ∧ new.level = 1 then
            reportLocal 1 i 0x0B 0 (thmEvt F.THM_EVT.THROTTLE s)
          else s
        .next (shadeHold i s)
      else .next s

/-- A reading of HBM stack m's device temperature in 1/4 °C, or a failed readout (R385, R387, R390). -/
def execHbmThermalRead (m : HbmId) (temp : Option Int) (s : State) : Out := ifUp s <|
  let th := s.thermal
  let fails := sget (fun _ => 0) th.hbmFails m
  match temp with
  | none =>
    let n := min (fails + 1) 3
    let s := { s with thermal := { th with hbmFails := sset (fun _ => 0) th.hbmFails m n } }
    if n < 3 then .next s
    else
      let s := setLv (40 + m) { level := 4, rise := 0, fall := none } s
      .next (if fails < 3 then thmEvt F.THM_EVT.HBM_FAIL s else s)
  | some t =>
    let was := th.hbmWarn.contains m
    let w := warnNext was 360 t
    let s := { s with thermal := { th with
      hbmFails := sset (fun _ => 0) th.hbmFails m 0,
      hbmTemp := sset (fun _ => 0) th.hbmTemp m t,
      hbmWarn := if w then insertNat m th.hbmWarn else th.hbmWarn.filter (· != m.val) } }
    let s := if w && !was then thmEvt F.THM_EVT.WARN s else s
    if 440 ≤ t then .next (shutdown s)
    else .next (setLv (40 + m) ((s.lv (40 + m)).sample 400 380 (msec 10) s.now t) s)

/-! ### Calibration (R382, R392) -/

/-- Boot calibration of every die, at cold and warm bring-up before the known-answer tests: each oscillator's offset is
set anew so that it reads as the diode; on a die whose diode is broken offsets stay as they stand (R382, R392). -/
def bootCalibrate (s : State) : State :=
  let n := s.freeCtr
  forEach (List.range 64) (fun d s =>
    let x := s.die d
    if x.diodeBad && x.boot.isSome then s else setDie d { x with boot := some n, offs := [] } s) { s with freeCtr := n + 1 }

/-- SENSOR_CALIBRATION: every offset of die d moves toward the mean difference of the two oscillators nearest the diode
(numbers 0 and 1) by at most 0.25 °C, at one sample, which is judged as any other (R382). -/
def execSensorCalibration (d : Fin 64) (read : DieRead) (s : State) : Out := ifUp s <|
  let s := markBroken d read s
  let x := s.die d
  let near := (s.oscReads d read).filter fun o => decide (o.1 < 2) && !x.broken.contains o.1
  if x.diodeBad || x.boot.isNone || near.isEmpty then .next s
  else
    let diff := (near.map fun o => 2 * read.diode - s.oscEighths d o.1 o.2).sum
    let step := max (-2) (min 2 (diff.tdiv near.length))
    let offs := (List.range (oscCount d)).foldl (fun m j =>
      sset (fun _ => 0) m j (sget (fun _ => 0) m j + step)) x.offs
    .next (setDie d { x with offs := offs } s)

/-! ### Registers (Tables 14-5 to 14-7) -/

def readThmStat (s : State) : Word32 :=
  let hot := ((List.range 64).map fun d => (s.die d).reading) ++
    (List.range 8).map fun m => sget (fun _ => 0) s.thermal.hbmTemp m
  let t := hot.foldl max (hot.headD 0)
  let warn := s.thermal.dies.any (fun x => x.2.warn) || !s.thermal.hbmWarn.isEmpty
  let thr := (List.range 48).any fun i => (s.lv i).level != 0
  let fast := s.thermal.dies.any fun x => x.2.fast
  BitVec.ofNat 32 ((t % 2048).toNat + (if warn then 2 ^ 11 else 0) + (if thr then 2 ^ 12 else 0)
    + (if fast then 2 ^ 13 else 0))

/-- THM_HBMm, with H_BND as latched. -/
def readThmHbm (m : Nat) (s : State) : Word32 :=
  BitVec.ofNat 32 ((s.lv (40 + m)).level + 8 * s.accessLevel m
    + 64 * s.fld (Reg.THM_HBMm m) F.THM_HBMm.H_BND
    + (if sget (fun _ => 0) s.thermal.hbmFails m = 3 then 2 ^ 9 else 0)
    + (if s.thermal.hbmWarn.contains m then 2 ^ 10 else 0))

/-- The level THM_DIEd shows. -/
def levelIndex (d : Nat) : Nat := if d < 24 then d else if d < 48 then d - 24 else d - 24

def readThmDie (d : Nat) (s : State) : Word32 :=
  let x := s.die d
  BitVec.ofNat 32 ((x.reading % 2048).toNat
    + 2 ^ 11 * ((x.broken.filter (s.oscRead d)).length + (if x.diodeBad then 1 else 0))
    + (if x.diodeBad then 2 ^ 18 else 0) + (if x.fast then 2 ^ 19 else 0)
    + 2 ^ 20 * (s.lv (levelIndex d)).level + (if x.warn then 2 ^ 23 else 0))

/-- A write of THM_CTL; SHADE_FLOOR is read at boundaries (R389). -/
def writeThmCtl (v : Word32) (s : State) : State := intEvent 2 (s.setReg Reg.THM_CTL (v &&& 0xF))

end Sys2Proof.Machine
end

