-- ==== Sys2Proof/Machine/Energy.lean ====
section
/-! DEFINITION. The energy model: supply domains, leakage, and what each unit drew in the last tick (Table 13-1,
R370-R372) (DESIGN CHOICE, log entry 8). -/

namespace Sys2Proof.Machine

open Sys2Proof

def updPower (f : Power → Power) (s : State) : State := { s with power := f s.power }

/-! ### Supply domains (Table 13-1) -/

def State.stackLive (s : State) (k : Nat) : Bool := !(s.stk k).bonds.lost

/-- Is supply domain d on, and what is its target in mV? Domains are numbered in the order of the table. -/
def State.domain (s : State) (d : Nat) : Bool × Nat :=
  if d < 384 then ((s.gate d).coreOn, s.vf s.power.step)
  else if d < 768 then ((s.gate (d - 384)).slabOn, 750)
  else if d < 792 then (s.stackLive (d - 768), s.vf s.power.step)
  else if d < 808 then (true, 750)
  else (s.flag (Reg.LNKp_CTL (d - 808)) F.LNKp_CTL.ENABLE, 800)

/-- The temperature of a stack's pair in 1/4 °C. -/
def State.stackTemp (s : State) (k : Nat) : Int := max (s.die k).reading (s.die (k + 24)).reading

/-- The sensor temperature of domain d in 1/4 °C. -/
def State.domainTemp (s : State) (d : Nat) : Int :=
  if d < 384 then s.stackTemp (d / 16)
  else if d < 768 then s.stackTemp ((d - 384) / 16)
  else if d < 792 then s.stackTemp (d - 768)
  else if d < 800 then (s.die (48 + (d - 792))).reading
  else if d < 808 then (s.die (56 + (d - 800))).reading
  else (s.die (56 + (d - 808))).reading

/-! ### Leakage (R370) -/

/-- The leakage of domain d in mW at `mv` mV and its present temperature, none while it is off. -/
def State.leakAt (s : State) (d mv : Nat) : Nat :=
  if (s.domain d).1 then Config.leakage d mv (s.domainTemp d) else 0

/-- The domains of stack k: its cores, its slabs and its uncore. -/
def stackDomains (k : Nat) : List Nat :=
  (List.range 16).map (16 * k + ·) ++ (List.range 16).map (384 + 16 * k + ·) ++ [768 + k]

/-- Lk of R368: the leakage of stack k in mW with its step-driven domains at `mv` mV. -/
def State.stackLeak (s : State) (k mv : Nat) : Nat :=
  ((stackDomains k).map fun d => s.leakAt d (if 384 ≤ d ∧ d < 768 then 750 else mv)).sum

/-- The leakage energy of each domain up to now, in mW for 1/8 ns. -/
def leakSettle (s : State) : State :=
  updPower (fun p => { p with
    leakJ := p.leak.foldl (fun m e =>
      sset (fun _ => 0) m e.1 (sget (fun _ => 0) m e.1 + e.2 * (s.now - p.leakFrom))) p.leakJ,
    leakFrom := s.now }) s

/-! ### Units and their energy (R370, R371) -/

/-- A unit whose energy is modelled. -/
inductive EUnit where
  | core (i : Nat)
  | stack (k : Nat)
  | port (p : Nat)
  | hbm (m : Nat)
  deriving DecidableEq, Repr

/-- The event classes of R370 in the order of its text, from 0: instructions of the seven pipes, multiply-adds of the
three format classes, other tensor operations, local-array words; slab port-cycles, L2 lookups, bursts, flit hops; link
flits; HBM reads, writes and refreshes; clocked idle cycles. -/
def EUnit.classes : EUnit → List Nat
  | .core _ => List.range 12 ++ [20]
  | .stack _ => [12, 13, 14, 15, 20]
  | .port _ => [16, 20]
  | .hbm _ => [17, 18, 19, 20]

/-- A number of the unit, for the counts that no register shows. -/
def EUnit.code : EUnit → Nat
  | .core i => i
  | .stack k => 384 + k
  | .port p => 408 + p
  | .hbm m => 416 + m

/-- Its supply domains. -/
def EUnit.domains : EUnit → List Nat
  | .core i => [i]
  | .stack k => (List.range 16).map (384 + 16 * k + ·) ++ [768 + k]
  | .port p => [800 + p, 808 + p]
  | .hbm m => [792 + m]

/-- The voltage at which the unit's events of class j happen, with the step's at `mv`. -/
def EUnit.mvAt (u : EUnit) (mv j : Nat) : Nat :=
  match u with
  | .core _ => mv
  | .stack _ => if j = 12 then 750 else mv
  | _ => 750

/-- The events of class j of a unit in the tick that `x` ended: those a counter register shows, as latched. -/
def State.events (s : State) (x : Meas) (u : EUnit) (j : Nat) : Nat :=
  match u, j with
  | .stack k, 13 => ((List.range 8).map fun c =>
      (s.reg (Reg.STK_CNT_L2Hk k c)).toNat + (s.reg (Reg.STK_CNT_L2Mk k c)).toNat).sum
  | .port p, 16 => (s.reg (Reg.LNKp_CNT_TXFLIT p)).toNat + (s.reg (Reg.LNKp_CNT_RXFLIT p)).toNat
  | .hbm m, 17 => (s.reg (Reg.MCm_CNT_RD m)).toNat
  | .hbm m, 18 => (s.reg (Reg.MCm_CNT_WR m)).toNat
  | _, _ => Config.events x.n u.code j

/-- The dynamic energy of a unit in pJ times 750²: count × coefficient × voltage² over its classes. -/
def State.dynEnergy (s : State) (x : Meas) (u : EUnit) : Nat :=
  (u.classes.map fun j => s.events x u j * (Config.coeff j).toNat * (u.mvAt x.mv j) ^ 2).sum

/-- The energy of a unit in the last tick in µJ: dynamic and leakage. -/
def State.unitEnergy (s : State) (x : Meas) (u : EUnit) : Nat :=
  let leak := (u.domains.map fun d => sget (fun _ => 0) x.leakJ d).sum
  (2 * s.dynEnergy x u + 140625 * leak) / 1125000000000

/-- PWR_E_PKG: every unit, and what is attributed to none (R371). -/
def State.pkgEnergy (s : State) (x : Meas) : Nat :=
  ((List.range 384).map fun i => s.unitEnergy x (.core i)).sum
    + ((List.range 24).map fun k => s.unitEnergy x (.stack k)).sum
    + ((List.range 8).map fun p => s.unitEnergy x (.port p) + s.unitEnergy x (.hbm p)).sum
    + Config.restEnergy x.n

/-- PWR_E_MEAS: some value; for a tick of 100 µs or longer one of which PWR_E_PKG lies within 5 % (R371). -/
def State.measEnergy (s : State) (x : Meas) : Nat :=
  let v := (Config.measured x.n Reg.PWR_E_MEAS).toNat
  let e := s.pkgEnergy x
  if x.span < 800000 then v
  else
    let lo := ceilDiv (100 * e) 105
    lo + v % (100 * e / 95 + 1 - lo)

/-- D of R368 for stack k in the last tick, in mW, as a fraction: the dynamic energy of its cores and of its own, over the
time. -/
def State.dynPower (s : State) (k : Nat) : Nat × Nat :=
  match s.meas with
  | none => (0, 1)
  | some x =>
    (8 * (((List.range 16).map fun c => s.dynEnergy x (.core (16 * k + c))).sum + s.dynEnergy x (.stack k)),
      max 1 (562500 * x.span))

/-! ### Droop and hold-back cycles (R359, R369) -/

/-- CORE_CNT_STRETCH counts the periods core i has skipped since it was last counted; `go`: it skips on. -/
def skipCount (i : Nat) (go : Bool) (s : State) : State :=
  let s' := match sget (fun _ => none) s.power.skipFrom i with
    | some t => s.count (Reg.CORE_CNT_STRETCH (i / 16) (i % 16)) (s.cyclesIn (s.now - t))
    | none => s
  updPower (fun p => { p with skipFrom := sset (fun _ => none) p.skipFrom i (if go then some s.now else none) }) s'

/-- What runs at a boundary is counted to the tick that ends there (R46, R55). -/
def settleTick (s : State) : State :=
  let s := forEach s.power.skipFrom (fun e s => skipCount e.1 true s) s
  leakSettle (forEach (List.range 24) holdCount s)

end Sys2Proof.Machine
end

