-- ==== Sys2Proof/Machine/MemRows.lean ====
section
/-! DEFINITION. Events of the memory side: fills, write-back acknowledgements, refresh, merge timeouts;
the L1 size and the slab split (R213, R216, R223-R230, R239, R284). -/

namespace Sys2Proof.Machine

open Sys2Proof

/-- The fill of a miss register arrives (R222, R224, R225). -/
def execL1Fill (c : Cid) (miss : Nat) (u : Upsets) (s : State) : Out := ifUp s <|
  let s := upset u s
  match (s.core (ci c)).l1.miss.find? fun m => m.id == miss && m.fill && m.ready with
  | some m => .next (l1Fill (ci c) m s)
  | none => .next s

/-- The DRAM data of a stack L2's fetch arrives (R229), if the controller may issue column commands (R367). -/
def execL2Fill (k : StackId) (slab : CoreId) (line : BitVec 33) (u : Upsets) (s : State) : Out := ifUp s <|
  let s := upset u s
  match (s.stk k).l2.fetches.find? fun f => f.slab == slab.val && f.line == line.toNat with
  | some f => .next (if s.colSlots (hbmOf (128 * f.line)).1 == 0 then s else l2Fill k f s)
  | none => .next s

/-- The HBM controller acknowledges the oldest write-back of a home slab (R229). -/
def execL2WritebackAck (k : StackId) (slab : CoreId) (s : State) : Out := ifUp s <| .next (l2WbAck k slab s)

/-- The target of the oldest L1 write-back acknowledges it (R223). -/
def execL1WritebackAck (c : Cid) (s : State) : Out := ifUp s <| .next (l1WbAck (ci c) s)

/-- Per-bank refresh takes time on its pseudo-channel and changes nothing that can be read (R239). -/
def execHbmRefresh (_m : HbmId) (s : State) : Out := ifUp s <| .next s

/-- The refresh multiplier's code after a reading of `t` °C, from code `old` (R239). -/
def refMultOf (old t : Nat) : Nat :=
  if 95 ≤ t then 2
  else if old = 2 ∧ 92 < t then 2
  else if 85 ≤ t then 1
  else if old ≠ 0 ∧ 82 < t then 1
  else 0

/-- The 1 ms temperature reading of an HBM stack (R239). -/
def execHbmTempRead (m : HbmId) (temp : BitVec 8) (s : State) : Out := ifUp s <|
  let a := Reg.MCm_STAT m
  let s := s.setFld a F.MCm_STAT.REF_MULT (refMultOf (s.fld a F.MCm_STAT.REF_MULT) temp.toNat)
  .next (s.setFld a F.MCm_STAT.TEMP temp.toNat)

/-- The oldest partial entry of a slab port's merge buffer is written by read-modify-write (R284). -/
def execMergeEntryTimeout (k : StackId) (slab : CoreId) (port : Fin 8) (u : Upsets) (s : State) : Out := ifUp s <|
  let s := upset u s
  match s.mergeBuf k (8 * slab.val + port.val) with
  | [] => .next s
  | e :: t => .next (writeEntry e (setMergeBuf k (8 * slab.val + port.val) t s))

/-! ### Sizes -/

/-- Every byte of [a, a + n) reads zero, with right check bits. -/
def zeroRange (a n : Nat) (s : State) : State :=
  { s with mem := sdrop (fun x => decide (a ≤ x) && decide (x < a + n)) s.mem,
           sram := sdrop (fun w => decide (a ≤ 8 * w) && decide (8 * w < a + n)) s.sram }

/-- A write of CORE_MEM_CFG (R213). -/
def writeMemCfg (i : Nat) (v : Word32) (s : State) : State :=
  let a := Reg.CORE_MEM_CFG (i / 16) (i % 16)
  let z := F.CORE_MEM_CFG.L1SZ.get v
  if s.noJob && s.slotsIdle i && decide (z ≤ 4) then
    let s := if v.getLsbD 31 then s.setFlag a F.CORE_MEM_CFG.IGN false else s
    let s := (s.setFld a F.CORE_MEM_CFG.L1SZ z).setFlag a F.CORE_MEM_CFG.PENDING
    updCore i (fun c => { c with l1szPend := some z }) s
  else s.setFlag a F.CORE_MEM_CFG.IGN

/-- An accepted L1SZ takes effect (R213). -/
def applyL1sz (i : Nat) (s : State) : State :=
  match (s.core i).l1szPend with
  | none => s
  | some z =>
    let base := scratchBase (i / 16) (i % 16)
    let keep := min (s.scratchSize i) (0x300000 - z * 0x40000)
    let s := zeroRange (base + keep) (0x400000 - keep) s
    let s := s.setFlag (Reg.CORE_MEM_CFG (i / 16) (i % 16)) F.CORE_MEM_CFG.PENDING false
    updCore i (fun c => { c with l1sz := z, l1szPend := none, l1 := { c.l1 with lines := [], rr := [] } }) s

/-- A write of STK_MERE_SPLIT (R216). -/
def writeSplit (k : Nat) (v : Word32) (s : State) : State :=
  let a := Reg.STK_MERE_SPLIT k
  let z := F.STK_MERE_SPLIT.RES.get v
  if s.noJob && ((List.range 16).all fun c => s.slotsIdle (16 * k + c)) && decide (z ≤ 8) then
    let s := if v.getLsbD 31 then s.setFlag a F.STK_MERE_SPLIT.IGN false else s
    let s := (s.setFld a F.STK_MERE_SPLIT.RES z).setFlag a F.STK_MERE_SPLIT.PENDING
    updL2 k (fun c => { c with resPend := some z }) s
  else s.setFlag a F.STK_MERE_SPLIT.IGN

/-- An accepted RES takes effect: the L2 is written back and invalidated, bytes that change region
read zero, the L2 restarts empty (R216). -/
def applySplit (k : Nat) (s : State) : State :=
  match (s.stk k).l2.resPend with
  | none => s
  | some z =>
    let keep := min (s.residentSize k) (z * 0x800000)
    let s := l2FlushRange k {} 0 0x6000000000 true s
    let merge := (s.stk k).merge.filterMap fun e =>
      let es := e.2.filter fun m => decide ((m.word * 8 - 0x8000000000) % 0x4000000 < keep)
      if es.isEmpty then none else some (e.1, es)
    let s := updStk k (fun x => { x with merge := merge }) s
    let s := forEach (List.range 16) (fun c s => zeroRange (slabBase k c + keep) (0x4000000 - keep) s) s
    let s := s.setFlag (Reg.STK_MERE_SPLIT k) F.STK_MERE_SPLIT.PENDING false
    updL2 k (fun c => { c with lines := [], rr := [], res := z, resPend := none }) s

end Sys2Proof.Machine
end

