-- ==== Sys2Proof/Machine/Barrier.lean ====
section
/-! DEFINITION. What every receipt of a message may lead to: the tick fault of a member that has become unreachable
(R39, R40, R51, R448). -/

namespace Sys2Proof.Machine

open Sys2Proof

def updTick (f : Tick → Tick) (s : State) : State := { s with tick := f s.tick }

def State.tickRoot (s : State) : Bool := s.flag Reg.TICK_CTL F.TICK_CTL.ROOT

def State.relLat (s : State) : Nat := s.fld Reg.TICK_REL_LAT F.TICK_REL_LAT.UNITS

/-- The timebase edge at or after now, in 8 ns units (R40). -/
def State.edge (s : State) : Nat := ceilDiv s.tb 64

/-- The packages named by the membership table. -/
def State.memberPkgs (s : State) : List Nat := (s.members.map (·.2)).dedup

/-- The port a link belongs to; a message of the package to itself counts at port 0. -/
def portOfLink (l : Nat) : Nat := if l < 32 then l / 4 else 0

/-- A TICK message of `kind` with the fields of Table 12-9. -/
def sendTick (kind d index time period bits : Nat) (s : State) : State :=
  let (tag, s) := newTag 0x489 s
  sendMsg { s.newMsg 0x13 d with
    tag := tag, body := bodyPut 32 kind + bodyPut 40 index + bodyPut 48 time + bodyPut 56 period + bodyPut 60 bits } s

/-- The root sends the release of the coming boundary to every member (R39). Bits 1 and 2 of byte 60 carry
the cause of a stop (DESIGN CHOICE, log entry 31). -/
def formRelease (r : Release) (s : State) : State :=
  forEach s.memberPkgs (fun d s => sendTick 2 d r.index r.time r.period
    ((if r.stop then 1 else 0) + (if r.fault then 2 else 0) + (if r.invalid then 4 else 0)) s) s

/-- The root declares a tick fault and sends the release of a stopping boundary, unless one has been formed. -/
def declareFault (s : State) : State :=
  if s.tick.rel.isSome then s
  else
    let r : Release := {
      index := s.tick.index + 1, time := s.edge + s.relLat, period := s.tick.pend.getD s.tick.period,
      stop := true, fault := true, invalid := s.tick.badDone || s.tick.invalid }
    formRelease r (updTick (fun t => { t with rel := some r }) s)

/-- The root holds the member packages `ds` unreachable: one report for each new one, and the tick fault (R51, R448). -/
def memberLost (ds : List Nat) (s : State) : State :=
  let new_ := ds.dedup.filter fun d => s.memberPkgs.contains d && !s.tick.unreach.contains d
  if !s.inJob || !s.tickRoot || new_.isEmpty then s
  else
    let s := updTick (fun t => { t with unreach := t.unreach ++ new_ }) s
    declareFault (forEach new_ (fun d s => reportPkg d 0x04 2 s) s)

end Sys2Proof.Machine
end

