-- ==== Sys2Proof/Machine/IntegrityRows.lean ====
section
/-! DEFINITION. Scrubbing, device counts, the checker window, the error log's consumption and the
retirement tables (R288-R305, R307). -/

namespace Sys2Proof.Machine

open Sys2Proof

/-! ### Words of the cache region (R227) -/

/-- The data bits stored in slab word `w`. -/
def State.rawWord (s : State) (w : Nat) : Word64 :=
  let (k, c, off) := slabOfWord w
  match s.storedAt k c off with
  | .plain => s.wordAt w
  | .line _ x o => x.word o

/-- Store data bits `v` and check bits that deviate by `dev` in slab word `w`. -/
def setRawWord (w : Nat) (v : Word64) (dev : Byte) (s : State) : State :=
  let (k, c, off) := slabOfWord w
  match s.storedAt k c off with
  | .plain => (putWord w v s).setDev w dev
  | .line key x o =>
    (updL2 k (fun l => { l with lines := sset (fun _ => none) l.lines key (some (x.setWord o v)) }) s).setDev w dev

/-! ### Scrubbing (R290, R291) -/

/-- Code words of a slab. -/
def slabWords : Nat := 8388608

/-- The Mere scrubber reads its next code word: ascending slab offset, the slabs in turn at each offset; a corrected
word is written back, an uncorrectable L2 line is dropped and, clean, fetched again (R290, Table 10-1). -/
def execMereScrubRead (k : StackId) (u : Upsets) (s : State) : Out := ifUp s <|
  let s := upset u s
  if s.fld (Reg.STK_MERE_SCRUB k) F.STK_MERE_SCRUB.PERIOD = 0 ∨ (s.stk k).bonds.lost then .next s
  else
    let p := (s.stk k).scrubPos
    let c := p % 16
    let off := p / 16 * 8
    let s := updStk k (fun x => { x with scrubPos := (p + 1) % (16 * slabWords) }) s
    if s.slabRetired k c off || !(s.gate (16 * k + c)).slabOn then .next s
    else
      let w := (slabBase k c + off) / 8
      let s := flushWord w s
      let st := s.storedAt k c off
      let (v, code, s) := judgeCode 0 { scrub := true } w (s.rawWord w) (s.devAt w) s
      match code with
      | .clean => .next s
      | .corrected _ =>
        if s.slabRetired k c off then .next s
        else
          let (x, s) := crossing w (setRawWord w v 0 s)
          .next (flipWord w x s)
      | .bad =>
        match st with
        | .plain => .next s
        | .line key x _ =>
          let drop := updL2 k (fun l => { l with lines := sdel l.lines key })
          .next (if x.dirty = 0 then l2Refetch k x.aclass x.line (drop s) else drop (poisonStore k c x.dirtyBytes s))

/-- 64 B lines of an HBM stack. -/
def hbmLines : Nat := 805306368

/-- The patrol scrubber reads its next line, and writes a corrected one back; lines of disabled banks and remapped
pages are skipped (R291). -/
def execHbmPatrolRead (m : HbmId) (u : Upsets) (s : State) : Out := ifUp s <|
  let s := upset u s
  if s.fld (Reg.MCm_SCRUB m) F.MCm_SCRUB.HOURS = 0 ∨ s.hbmExcluded m then .next s
  else
    let p := (s.mc m).patrol
    let s := s.setMc m { s.mc m with patrol := (p + 1) % hbmLines }
    let b := 64 * p
    if s.bankOff m b || (s.remaps m).any fun e => e.1 == b / 4096 then .next s
    else
      let a := dramAddr m b
      let e := s.symsAt a
      let (d, bad, s) := readLine { scrub := true } a s
      match rsDecode e with
      | .corrected _ _ =>
        .next (if bad then s else setSyms a [] ((s.count (Reg.MCm_CNT_WR m)).setBytes a d))
      | _ => .next s

/-! ### Device counts (R288) -/

/-- The 1 s reading of each device's error count: a rise is logged. Where the entry gives the SID and the
increase is not stated, so those fields are free. -/
def execHbmEcsPoll (m : HbmId) (counts : List Nat) (s : State) : Out := ifUp s <|
  .next (forEach (counts.zipIdx) (fun (n, sid) s =>
    let old := sget (fun _ => 0) (s.mc m).ecs sid
    let s := s.setMc m { s.mc m with ecs := sset (fun _ => 0) (s.mc m).ecs sid n }
    if n ≤ old then s
    else
      let (y, s) := s.draw 8
      let (b, s) := s.draw 7
      let (c, s) := s.draw 7
      logErr { src := 7, sev := 3, unit := m, synd := y.toNat, bit := b.toNat, count := c.toNat } s) s)

/-! ### The checker window (R292) -/

/-- The word number STK_MERE_CHK_ADDR names. -/
def State.chkWord (s : State) (k : Nat) : Nat :=
  let a := Reg.STK_MERE_CHK_ADDR k
  slabBase k (s.fld a F.STK_MERE_CHK_ADDR.SLAB) / 8 + s.fld a F.STK_MERE_CHK_ADDR.WORD

/-- RAW_WRITE and RAW_READ once accepted: they cross the port's bonds as any access does (R283). -/
def rawWrite (k : Nat) (s : State) : State :=
  let w := s.chkWord k
  let s := flushWord w s
  let v := BitVec.ofNat 64 (s.pair (Reg.STK_MERE_CHK_DATA_LO k))
  let c := BitVec.ofNat 8 (s.fld (Reg.STK_MERE_CHK_CHECK k) F.STK_MERE_CHK_CHECK.CHECK)
  let (x, s) := crossing w (setRawWord w v (c ^^^ checkBits v) s)
  flipWord w x s

def rawRead (k : Nat) (s : State) : State :=
  let w := s.chkWord k
  let (x, s) := crossing w (flushWord w s)
  let v := s.rawWord w
  let c := checkBits v ^^^ s.devAt w ^^^ BitVec.ofNat 8 (x.toNat / 2 ^ 64)
  let s := s.setPair (Reg.STK_MERE_CHK_DATA_LO k) (v ^^^ x.setWidth 64).toNat
  s.setFld (Reg.STK_MERE_CHK_CHECK k) F.STK_MERE_CHK_CHECK.CHECK c.toNat

/-- Does STK_MERE_CHK_ADDR name a word of a fenced region, whose contents are kept readable nowhere (R316)? -/
def State.chkFenced (s : State) (k : Nat) : Bool :=
  let (_, c, off) := slabOfWord (s.chkWord k)
  s.regionRetired k c (portOf off)

/-- A write of STK_MERE_CHK_CTL (R292); an operation on a fenced region is not accepted (R315, R316) (DEDUCED, log
entry 83). -/
def writeChkCtl (k : Nat) (v : Word32) (s : State) : State :=
  let a := Reg.STK_MERE_CHK_CTL k
  let was := s.flag a F.STK_MERE_CHK_CTL.CHK_EN
  let s := if v.getLsbD 3 then s.setFlag a F.STK_MERE_CHK_CTL.IGN false else s
  let s := s.setFlag a F.STK_MERE_CHK_CTL.CHK_EN (v.getLsbD 0)
  if !(v.getLsbD 1 || v.getLsbD 2) then s
  else if (v.getLsbD 1 && v.getLsbD 2) || !was || !s.noJob || s.chkFenced k then s.setFlag a F.STK_MERE_CHK_CTL.IGN
  else if v.getLsbD 1 then rawWrite k s
  else rawRead k s

/-! ### The error log (R293) -/

/-- A write of ERL_RD: entries consumed leave the filter (R293, R296). -/
def writeErlRd (v : Word32) (s : State) : State :=
  let rd := (s.reg Reg.ERL_RD).toNat
  let n := (v.toNat % 65536 + 65536 - rd) % 65536
  if s.erlFill < n then s.setFlag Reg.ERL_STAT F.ERL_STAT.IGN
  else
    let s := { s with erl := { s.erl with
      filter := s.erl.filter.filter fun e => decide (n ≤ (e.index + 65536 - rd) % 65536) } }
    intEvent 1 (s.setReg Reg.ERL_RD (v &&& 0xFFFF))

/-! ### Retirement tables (R301-R304) -/

/-- A write of STK_MERE_SCRUB restarts the pass (Table 10-8). -/
def writeScrub (k : Nat) (v : Word32) (s : State) : State :=
  updStk k (fun x => { x with scrubPos := 0 }) (s.setReg (Reg.STK_MERE_SCRUB k) (v &&& 0xFF))

/-- A write of STK_MERE_GRETi (R301, R302). -/
def writeGret (k i : Nat) (v : Word32) (s : State) : State :=
  let a := Reg.STK_MERE_GRETi k i
  let old := s.reg a
  let v := v &&& 0x80003FFF
  let slab := F.STK_MERE_GRETi.SLAB.get v
  let gran := F.STK_MERE_GRETi.GRAN.get v
  if old.getLsbD 31 then
    if v = 0 ∧ s.noJob then
      updStk k (fun x => { x with granLeaving := x.granLeaving ++
        [(F.STK_MERE_GRETi.SLAB.get old, F.STK_MERE_GRETi.GRAN.get old)] }) (s.setReg a 0)
    else s
  else if v.getLsbD 31 then l2RetireGranule k slab gran (s.setReg a v)
  else s.setReg a v

/-- A write of MCm_REMAPi_LO: ignored while VALID is 1 (Table 10-13). -/
def writeRemapLo (m i : Nat) (v : Word32) (s : State) : State :=
  if s.flag (Reg.MCm_REMAPi_HI m i) F.MCm_REMAPi_HI.VALID then s else s.setReg (Reg.MCm_REMAPi_LO m i) (v &&& 0xFFFFFF)

def remapIgn (m : Nat) (s : State) : State := s.setFlag (Reg.MCm_BANK_DIS_HI m) F.MCm_BANK_DIS_HI.IGN

/-- A write of MCm_REMAPi_HI (R303). -/
def writeRemapHi (m i : Nat) (v : Word32) (s : State) : State :=
  let a := Reg.MCm_REMAPi_HI m i
  let v := v &&& 0x80FFFFFF
  let from_ := s.fld (Reg.MCm_REMAPi_LO m i) F.MCm_REMAPi_LO.FROM
  let dest := F.MCm_REMAPi_HI.TO.get v
  if v.getLsbD 31 then
    let used (p : Nat) : Bool := (s.remaps m).any fun e => e.1 == p || e.2 == p
    if used from_ || used dest || from_ == dest || s.bankOff m (4096 * from_) || s.bankOff m (4096 * dest) then
      remapIgn m s
    else s.setReg a v
  else if (s.reg a).getLsbD 31 then
    if s.noJob then
      let h := s.mc m
      s.setMc m { h with remapsLeaving := h.remapsLeaving ++ [(from_, F.MCm_REMAPi_HI.TO.get (s.reg a))] } |>.setReg a v
    else remapIgn m s
  else s.setReg a v

/-- A write of either half of MCm_BANK_DIS (R304): set bits act at once; bits are cleared only in free or
stopped state, with effect at the next boundary. -/
def writeBankDis (m : Nat) (hi : Bool) (v : Word32) (s : State) : State :=
  let a := if hi then Reg.MCm_BANK_DIS_HI m else Reg.MCm_BANK_DIS_LO m
  let base := if hi then 32 else 0
  let mask : Word32 := if hi then 0xFFFF else 0xFFFFFFFF
  let old := s.reg a &&& mask
  let new := v &&& mask
  let gone := old &&& ~~~new
  let s := if hi && v.getLsbD 31 then s.setFlag a F.MCm_BANK_DIS_HI.IGN false else s
  let ok := s.noJob || gone = 0
  let bits := if ok then new else old ||| new
  let h := s.mc m
  let back := ((List.range 32).filter fun i => ok && gone.getLsbD i).map (base + ·)
  let leaving := (h.banksLeaving ++ back).filter fun b =>
    !(decide (base ≤ b) && decide (b < base + 32) && bits.getLsbD (b - base))
  let s := (s.setMc m { h with banksLeaving := leaving }).setReg a ((s.reg a &&& ~~~mask) ||| bits)
  if ok then s else remapIgn m s

/-- A write of the parameter register at offset 4 × `reg` of check-value unit u (R307). -/
def writeCrcCfg (u reg : Nat) (v : Word32) (s : State) : State :=
  if 48 ≤ u then s
  else if reg = 0 then
    let w := F.CRC_u_CFG.WIDTH.get v
    if w < 8 ∨ 64 < w then s.setFlag (Reg.CRC_u_STAT u) F.CRC_u_STAT.IGN
    else s.setReg (Reg.CRC_u_CFG u) (v &&& 0x1FF)
  else if 2 ≤ reg ∧ reg ≤ 7 then s.setReg (Reg.CRC_u_CFG u + 4 * reg) v
  else s

end Sys2Proof.Machine
end

