-- ==== Sys2Proof/Machine/SeOps.lean ====
section
/-! DEFINITION. The stream engine's shared operations: descriptors and their fixed form, triggers and
activations, accesses to memory, bursts, check values, outcomes and halts (R241-R262, R405-R407). -/

namespace Sys2Proof.Machine

open Sys2Proof

/-! ### Descriptors (Tables 8-1 and 8-2) -/

def Desc.w (d : Desc) (i : Nat) : Nat := (List.getD d i 0).toNat

/-- The 64-bit field at word `i`. -/
def Desc.q (d : Desc) (i : Nat) : Nat := d.w i + 2 ^ 32 * d.w (i + 1)

def Desc.op (d : Desc) : Nat := bitsOf (d.w 0) 0 4

def Desc.aclass (d : Desc) : Nat := bitsOf (d.w 0) 4 3

/-- Is bit `i` of CTL set? -/
def Desc.ctl (d : Desc) (i : Nat) : Bool := bitOf (d.w 0) i

def Desc.crcm (d : Desc) : Nat := bitsOf (d.w 0) 10 2

def Desc.gpoint (d : Desc) : Nat := bitsOf (d.w 0) 17 3

def Desc.guar (d : Desc) : Nat := bitsOf (d.w 0) 20 11

def Desc.src (d : Desc) : Nat := d.q 2

def Desc.dst (d : Desc) : Nat := d.q 4

def Desc.len (d : Desc) : Nat := d.w 6

def Desc.next (d : Desc) : Nat := d.q 8

def Desc.ctx (d : Desc) : Nat := d.q 10

def Desc.role (d : Desc) : Nat := bitsOf (d.w 12) 0 16

def Desc.deadline (d : Desc) : Nat := bitsOf (d.w 12) 16 16

def Desc.sq (d : Desc) : Nat := bitsOf (d.w 13) 0 16

def Desc.dq (d : Desc) : Nat := bitsOf (d.w 13) 16 16

def Desc.sqOn (d : Desc) : Bool := bitOf d.sq 10

def Desc.dqOn (d : Desc) : Bool := bitOf d.dq 10

def Desc.srcl (d : Desc) : Bool := d.ctl 14

def Desc.dstl (d : Desc) : Bool := d.ctl 15

def Desc.glint (d : Desc) : Bool := d.ctl 13

/-- A queue field with EN, KIND, index and core only, and zero when EN is 0 (R250). -/
def queueForm (q : Nat) : Bool := q &&& 0x07CF == q && (bitOf q 10 || q == 0)

/-- A list address that names this package and is 16 B aligned (R251). -/
def State.listAddrOk (s : State) (a : Nat) : Bool := bitsOf a 52 12 == s.pkgId && a % 16 == 0

/-- The operation moves a source, a destination in memory. -/
def Desc.hasSrc (d : Desc) : Bool := d.op == 1 || d.op == 4 || d.op == 5

def Desc.hasDst (d : Desc) : Bool := d.op == 1 || d.op == 2 || d.op == 5

/-- The fixed form of a descriptor (Table 8-4, R250-R255, R407). -/
def wellFormed (s : State) (d : Desc) : Bool :=
  let op := d.op
  [ decide (op ≤ 5),
    match op with
    | 1 => true
    | 4 => d.crcm == 2 || d.crcm == 3
    | 5 => d.crcm ≤ 1
    | _ => d.crcm == 0,
    !d.srcl || op == 1 || op == 4 || op == 5,
    !d.dstl || op == 1 || op == 2,
    queueForm d.sq, queueForm d.dq,
    !d.sqOn || (op == 1 && bitsOf d.sq 8 2 == 3 && !d.srcl && d.src == 0 && d.crcm != 2),
    !d.dqOn || (op == 1 && bitsOf d.dq 8 2 != 3 && !d.dstl && d.dst == 0 && d.crcm != 1),
    !(d.sqOn || d.dqOn) || d.len % 256 == 0,
    d.hasSrc || d.src == 0,
    d.hasDst || op == 3 || d.dst == 0,
    op != 0 || d.len == 0,
    !(op == 0 || op == 3) || d.aclass == 0,
    !d.srcl || s.listAddrOk d.src,
    !d.dstl || s.listAddrOk d.dst,
    d.srcl || bitsOf (d.w 7) 0 16 == 0,
    d.dstl || bitsOf (d.w 7) 16 16 == 0,
    !d.ctl 9 || op == 3,
    !d.ctl 12 || d.crcm != 0,
    !d.glint || d.hasSrc,
    d.crcm != 0 || d.glint || op == 2 || d.ctx == 0,
    op == 5 || d.role == 0,
    op != 5 || d.dst / 2 ^ 40 == 0,
    op != 0 || d.deadline == 0,
    if d.ctl 16 then d.gpoint != 0 else d.gpoint == 0 && d.guar == 0,
    op != 3 || (match fabric s d.dst with
      | .here a => decide (a + d.len ≤ 0x6000000000)
      | _ => false) ].all id

/-! ### Channels -/

/-- The master ID of channel n of stack k (Table 9-2). -/
def chMaster (k n : Nat) : Nat := 32 * k + n

/-- The access timeout in 1/8 ns, from now (R259). -/
def State.seDue (s : State) (k : Nat) : Nat := s.now + usec (s.fld (Reg.STK_SE_CFG k) F.STK_SE_CFG.TIMEOUT)

/-- The time a descriptor's DEADLINE names, for an activation of the tick timer (R255). -/
def Chan.deadlineAt (c : Chan) (s : State) : Option Nat :=
  if c.timer && c.desc.deadline != 0 then some (64 * s.tick.bnd + 8 * c.desc.deadline) else none

/-- The DEADLINE field of a channel's messages. -/
def Chan.deadlineMsg (c : Chan) : Nat := if c.timer then c.desc.deadline else 0

def seHow (k n : Nat) (s : State) (issued : Option Nat := none) : How :=
  { master := chMaster k n, deadline := (s.chan k n).deadlineAt s, issued := issued }

/-- The package is done and waiting (R41). -/
def State.waiting (s : State) : Bool := s.inJob && s.tick.doneSent

/-- A message of channel n to package `pkg`, with the next tag of the channel. -/
def seMessage (k n type pkg addr len : Nat) (data : List Byte) (s : State) : Nat × State :=
  let (tag, s) := newTag (chMaster k n) s
  (tag, sendMsg { s.newMsg type pkg with
    addr := addr, tag := tag, len := len, deadline := (s.chan k n).deadlineMsg, data := data } s)

/-- Issue the fetch of the descriptor at CUR (R247, R257): in another package by a READ message. -/
def issueFetch (k n : Nat) (s : State) : State :=
  let a := s.pair (Reg.STK_SE_CHn_CUR_LO k n)
  let s := updChan k n (fun c => { c with phase := .fetch, tags := [], got := none, due := some (s.seDue k) }) s
  match fabric s a with
  | .far pkg b =>
    if s.route pkg = .noRoute then s
    else
      let (tag, s) := seMessage k n 2 pkg b 64 [] s
      updChan k n (fun c => { c with tags := [tag] }) s
  | _ => s

/-- An idle channel starts an activation (R246). -/
def startActivation (k n : Nat) (timer : Bool) (s : State) : State :=
  let ctl := Reg.STK_SE_CHn_CTL k n
  let stat := Reg.STK_SE_CHn_STAT k n
  let s := (s.count (Reg.STK_SE_CHn_CNT_ACT k n)).setReg stat (s.reg stat &&& 0x00070000)
  let s := if s.flag ctl F.STK_SE_CHn_CTL.RELOAD then
      s.setPair (Reg.STK_SE_CHn_CUR_LO k n) (s.pair (Reg.STK_SE_CHn_HEAD_LO k n))
    else s
  let s := updChan k n (fun c =>
    { Chan.reset with timer := timer, fired := c.fired, late := c.late, born := s.tick.bnd,
                      budget := s.fld (Reg.STK_SE_CHn_BUDGET k n) F.STK_SE_CHn_BUDGET.LIMIT }) s
  issueFetch k n s

def trigLost (k n : Nat) (s : State) : State := s.setFlag (Reg.STK_SE_CHn_STAT k n) F.STK_SE_CHn_STAT.TRIG_LOST

/-- A trigger arrives (R245, R442). -/
def trigger (k n : Nat) (timer : Bool) (s : State) : State :=
  let c := s.chan k n
  if !s.flag (Reg.STK_SE_CHn_CTL k n) F.STK_SE_CHn_CTL.ENABLE then s
  else if !s.stackAdmitted k || (s.stk k).bonds.lost || c.phase = .halted || c.held.isSome then trigLost k n s
  else if c.phase = .idle && !s.waiting then startActivation k n timer s
  else updChan k n (fun c => { c with held := some timer }) s

/-- A held trigger of an idle channel starts its activation (DEDUCED, log entry 29). -/
def startHeld (k n : Nat) (s : State) : State :=
  let c := s.chan k n
  match c.held with
  | some t => if c.phase = .idle then startActivation k n t (s.setChan k n { c with held := none }) else s
  | none => s

/-- The activation ends with status OK: completion triggers follow (R244, R245, R257). -/
def endOk (k n cur : Nat) (empty : Bool) (s : State) : State :=
  let stat := Reg.STK_SE_CHn_STAT k n
  let s := s.setPair (Reg.STK_SE_CHn_CUR_LO k n) (cur / 64 * 64)
  let s := s.setReg stat (s.reg stat &&& 0x00070000)
  let s := if empty then s.setFlag stat F.STK_SE_CHn_STAT.EMPTY else s
  let s := updChan k n (fun c => { Chan.reset with held := c.held, fired := c.fired, late := c.late }) s
  let s := startHeld k n s
  forEach (List.range 32) (fun m s =>
    let ctl := Reg.STK_SE_CHn_CTL k m
    if s.fld ctl F.STK_SE_CHn_CTL.TRIG = 2 ∧ s.fld ctl F.STK_SE_CHn_CTL.SRC_CH = n then trigger k m false s else s) s

/-- The channel halts (R260). -/
def haltCh (k n code detail cur xcode : Nat) (s : State) : State :=
  let stat := Reg.STK_SE_CHn_STAT k n
  let s := s.setPair (Reg.STK_SE_CHn_CUR_LO k n) (cur / 64 * 64)
  let s := s.setReg stat (s.reg stat &&& 0x00070000)
  let s := s.setFld stat F.STK_SE_CHn_STAT.CODE code
  let s := s.setFld stat F.STK_SE_CHn_STAT.DETAIL detail
  let s := s.setFld stat F.STK_SE_CHn_STAT.XCODE xcode
  let s := updChan k n (fun c => { Chan.reset with phase := .halted, fired := c.fired, late := c.late }) s
  let s := intEvent (8 + k) (s.setBit (Reg.STK_SE_IRQ_HALT k) n)
  if code = 1 then s else reportLocal 4 (32 * k + n) (0x10 + code) detail s

/-- An access of channel n to local address `a` is refused by decode with KIND `kind` (R260). -/
def seDecodeErr (k n a kind : Nat) (s : State) : State :=
  decodeErr { master := 2, stack := k, core := n % 16 } a kind s

/-! ### Local accesses -/

/-- What decode says of the `len` bytes at local address `a`, 256 B block by block. -/
def seDecode (s : State) (a len : Nat) : Dec :=
  let bad := (List.range ((a % 256 + len + 255) / 256)).findSome? fun i =>
    match decodeMem s (if i = 0 then a else a / 256 * 256 + 256 * i) with
    | .err e => some e
    | .ok _ => none
  match bad with
  | some e => .err e
  | none => decodeMem s a

/-- The code and detail of a payload access that decode refuses with KIND `e` (Table 8-6). -/
def refusedAs (e : Nat) : Nat × Nat := if e = 5 then (8, 1) else (2, 1)

/-- The bytes of line `l` that [a, a + n) names: offset and length. -/
def partOf (a n l : Nat) : Nat × Nat :=
  let lo := max a (l * 128)
  (lo - l * 128, min (a + n) (l * 128 + 128) - lo)

/-- Does a DRAM line of [a, a + len) wait for a fetch of stack k's L2, or a read that misses find the 64 fetches of
its home slab in use (R229)? -/
def State.seHeldUp (s : State) (k a len : Nat) (read : Bool := true) : Bool :=
  decide (a < 0x6000000000) && len != 0 &&
    (List.range ((a + len - 1) / 128 + 1 - a / 128)).any fun i =>
      let l := a / 128 + i
      let (o, n) := partOf a len l
      s.l2Fetching k l ||
        (read && !((s.l2Held k l).map fun x => x.has o n).getD false &&
          decide (64 ≤ ((s.stk k).l2.fetches.filter fun f => f.slab == homeSlab l).length))

/-- Read DRAM through stack k's L2 by the attributes of class `ac`: a line misses where a byte needed is not valid,
and then fills the L2 if its class allocates (R220, R229, R240). -/
def seReadDram (how : How) (k ac a n : Nat) (s : State) : List Byte × Bool × State :=
  let first := a / 128
  let last := (a + n - 1) / 128
  let (bytes, bad, s) := (List.range (last + 1 - first)).foldl
    (fun (acc : List Byte × Bool × State) i =>
      let (bytes, bad, s) := acc
      let l := first + i
      let (o, m) := partOf a n l
      let hit := ((s.l2Held k l).map fun x => x.has o m).getD false
      let s := l2Count k ac hit s
      let (b, e, s) := l2ReadLine how k l s o m
      let s := if e.isSome || hit || !classL2 ac then s else l2FillLine k l ac how.master b s
      (bytes ++ b, bad || e.isSome, s))
    ([], false, s)
  ((bytes.drop (a % 128)).take n, bad, s)

/-- Read `n` bytes at local address `a`: the bytes, or the code and detail of Table 8-6; `d`: the DETAIL
of an uncorrectable error; `issued`: when the access was. -/
def seRead (k n ac a len d : Nat) (s : State) (issued : Option Nat := none) :
    Option (List Byte) × (Nat × Nat) × State :=
  match seDecode s a len with
  | .err e => (none, refusedAs e, seDecodeErr k n a e s)
  | .ok t =>
    let how := seHow k n s issued
    let (bytes, bad, s) := match t with
      | .dram => seReadDram how k ac a len s
      | _ => sramLoad how a len s
    if bad then (none, (4, d), s) else (some bytes, (0, 0), s)

/-- Write bytes at local address `a`: the code and detail of a refusal, (0, 0) once accepted. -/
def seWrite (k n ac a : Nat) (data : List Byte) (s : State) (issued : Option Nat := none) : (Nat × Nat) × State :=
  match seDecode s a data.length with
  | .err e => (refusedAs e, seDecodeErr k n a e s)
  | .ok t =>
    let bs : StoreBytes := data.zipIdx.map fun (b, i) => (a + i, b)
    let how := seHow k n s issued
    match t with
    | .dram => ((0, 0), l2Store k ac (16 * 384 + chMaster k n) 0 false bs how s)
    | _ => ((0, 0), sramStore how bs s)

/-! ### Queue sides (R250) -/

/-- The core and queue a queue field names. -/
def queueOf (k q : Nat) : Nat × WideQ :=
  let ix := bitsOf q 6 2
  (16 * k + bitsOf q 0 4,
    match bitsOf q 8 2 with
    | 0 => .qi ix
    | 1 => .ta ix
    | 2 => .tb ix
    | _ => .td ix)

/-- Is the queue of field `q` held by a binding where the engine may not use it (R80, R203)? -/
def State.seBound (s : State) (k q : Nat) : Bool :=
  let (i, w) := queueOf k q
  bitOf q 10 && (match w with | .qi _ => false | _ => s.wideBound i w)

/-- The bytes of an entry. -/
def Entry.bytes (e : Entry) : List Byte := e.words.flatMap fun w => leBytes 4 w.toNat

/-- The entry that 256 bytes make. -/
def entryOf (bs : List Byte) : Entry :=
  { words := (List.range 64).map fun t => BitVec.ofNat 32 (leNat ((bs.drop (4 * t)).take 4)) }

/-- Push the bytes, after the unfinished entry `part`, entry by entry while the queue has room: what
was left, and the unfinished entry. -/
def pushBytes (i : Nat) (w : WideQ) : Nat → List Byte → State → List Byte × State
  | 0, bs, s => (bs, s)
  | f + 1, bs, s =>
    if bs.length < 256 || wideCap ≤ ((s.core i).wide w).length then (bs, s)
    else pushBytes i w f (bs.drop 256) (updCore i (fun c => c.pushWide w (entryOf (bs.take 256))) s)

/-! ### The stream of a descriptor (R250-R253) -/

/-- Bytes of the check value on the memory side: CB. -/
def Chan.cb (c : Chan) : Nat := (c.crcParam.getD 0 0 + 7) / 8

/-- Bytes read from the source, and bytes written to the destination. -/
def Chan.readLen (c : Chan) : Nat := c.desc.len + (if c.desc.crcm = 2 then c.cb else 0)

def Chan.writeLen (c : Chan) : Nat := c.desc.len + (if c.desc.crcm = 1 then c.cb else 0)

def Chan.total (c : Chan) : Nat := max c.readLen c.writeLen

/-- A side of the stream at one position: none, a queue, an address with the bytes left before the
end of its list element, or a list that has run out. -/
inductive SideAt where
  | off
  | queue
  | mem (addr left : Nat)
  | out
  deriving DecidableEq, Repr

/-- Place `p` of a list of (address, length). -/
def listAt : List (Nat × Nat) → Nat → SideAt
  | [], _ => .out
  | (a, n) :: t, p => if p < n then .mem (a + p) (n - p) else listAt t (p - n)

def Chan.srcAt (c : Chan) (p : Nat) : SideAt :=
  if !c.desc.hasSrc || c.readLen ≤ p then .off
  else if c.desc.sqOn then .queue
  else if c.desc.srcl then listAt c.srcList p
  else .mem (c.desc.src + p) (c.readLen - p)

def Chan.dstAt (c : Chan) (p : Nat) : SideAt :=
  if !c.desc.hasDst || c.writeLen ≤ p then .off
  else if c.desc.dqOn then .queue
  else if c.desc.dstl then listAt c.dstList p
  else .mem (c.desc.dst + p) (c.writeLen - p)

/-- The bytes one side allows a burst (R241). -/
def SideAt.limit : SideAt → Nat
  | .mem a left => min left (2048 - a % 2048)
  | _ => 2048

/-- The next burst of a channel: its place, length and sides. -/
def Chan.piece (c : Chan) : Nat × SideAt × SideAt :=
  let p := c.srcPos
  let stop := if p < c.desc.len then c.desc.len else c.total
  let a := c.srcAt p
  let b := c.dstAt p
  (min (stop - p) (min a.limit b.limit), a, b)

/-! ### Check values (R253, R306) -/

/-- The unit a descriptor names, and its parameters W, P, I, X, RI, RO. -/
def crcUnitOf (k : Nat) (d : Desc) : Nat := 2 * k + (if d.ctl 12 then 1 else 0)

def State.crcParams (s : State) (u : Nat) : List Nat :=
  let cfg := Reg.CRC_u_CFG u
  [s.fld cfg F.CRC_u_CFG.WIDTH, s.pair (Reg.CRC_u_POLY_LO u), s.pair (Reg.CRC_u_INIT_LO u),
   s.pair (Reg.CRC_u_XOR_LO u), s.fld cfg F.CRC_u_CFG.REFIN, s.fld cfg F.CRC_u_CFG.REFOUT]

def crcFeed (p : List Nat) (reg : Nat) (bs : List Byte) : Nat :=
  bs.foldl (crcByte (p.getD 0 32) (p.getD 1 0) (p.getD 4 0 == 1)) reg

def Chan.crcValue (c : Chan) : Nat :=
  crcEnd (c.crcParam.getD 0 32) (c.crcParam.getD 3 0) (c.crcParam.getD 5 0 == 1) c.crc

/-- The channel of stack k that holds check-value unit u. -/
def State.crcHolder (s : State) (k u : Nat) : Option Nat :=
  firstBelow 32 fun n => (s.chan k n).crcUnit == some u

/-! ### The Glint terms of a stream (R407) -/

/-- Fold payload bytes that start at payload offset `off` with `tail` the bytes of an unfinished word. -/
def glintFeed (ctx : Nat) : List Byte → Nat → List Byte → Word64 → List Byte × Word64
  | [], _, tail, acc => (tail, acc)
  | b :: t, off, tail, acc =>
    let w := tail ++ [b]
    if w.length = 8 then
      glintFeed ctx t (off + 1) []
        (acc + glintTerm (BitVec.ofNat 64 (ctx + off / 8)) (BitVec.ofNat 64 (leNat w)))
    else glintFeed ctx t (off + 1) w acc

/-- Fold the data of a burst: payload into the check register and the terms, check bytes apart. -/
def Chan.absorb (c : Chan) (b : Burst) : Chan :=
  if b.pos < c.desc.len then
    let crc := if c.desc.crcm = 0 then c.crc else crcFeed c.crcParam c.crc b.data
    let (tail, fold) := if c.desc.glint then glintFeed c.desc.ctx b.data b.pos c.foldTail c.fold
      else (c.foldTail, c.fold)
    { c with crc := crc, foldTail := tail, fold := fold, foldPos := b.pos + b.len }
  else if c.desc.crcm = 2 then { c with stored := c.stored ++ b.data, foldPos := b.pos + b.len }
  else { c with foldPos := b.pos + b.len }

/-- The digest terms of the whole stream, the last partial word zero-padded. -/
def Chan.glintSum (c : Chan) : Word64 :=
  if c.foldTail.isEmpty then c.fold
  else c.fold + glintTerm (BitVec.ofNat 64 (c.desc.ctx + c.desc.len / 8)) (BitVec.ofNat 64 (leNat c.foldTail))

/-- Fold every burst that has arrived and is next in order; one with no destination ends there. -/
def Chan.absorbAll : Nat → Chan → Chan
  | 0, c => c
  | f + 1, c =>
    match c.bursts.find? fun b => b.pos == c.foldPos && b.data.length == b.len with
    | none => c
    | some b =>
      let c := c.absorb b
      let gone := c.dstAt b.pos == .off
      Chan.absorbAll f (if gone then { c with bursts := c.bursts.filter fun x => x.id != b.id } else c)

def Chan.settleFold (c : Chan) : Chan := c.absorbAll (c.bursts.length + 1)

/-! ### Outcomes -/

/-- The payload prefix accepted at every destination (R260): up to the first byte a burst has not had accepted, less
those that wait for the rest of a queue entry. -/
def Chan.prefix_ (c : Chan) : Nat :=
  if !c.desc.hasDst then 0
  else min c.desc.len (c.bursts.foldl (fun m b => min m (b.pos + b.acc)) c.srcPos) - c.qout.length

/-- Drop the bursts for which `p` holds: the stream stands accepted up to the first of them at most. -/
def Chan.drop (p : Burst → Bool) (c : Chan) : Chan :=
  { c with bursts := c.bursts.filter fun b => !p b,
           srcPos := (c.bursts.filter p).foldl (fun m b => min m (b.pos + b.acc)) c.srcPos }

/-- DEDUCED, log entry 30. -/
def setBytesReg (k n : Nat) (s : State) : State :=
  s.setReg (Reg.STK_SE_CHn_BYTES k n) (BitVec.ofNat 32 (s.chan k n).prefix_)

/-- Issue the STATUS and RESULT write of the descriptor at CUR (R257): in another package as two WRITE
messages. -/
def issueStatus (k n : Nat) (s : State) : State :=
  let c := s.chan k n
  let code := if c.abort && c.code = 0 then 1 else c.code
  let s := updChan k n (fun c =>
    { c with phase := .status, code := code, tags := [], got := none, due := some (s.seDue k) }) s
  let a := s.pair (Reg.STK_SE_CHn_CUR_LO k n)
  match fabric s a with
  | .far pkg b =>
    if s.route pkg = .noRoute then s
    else
      let st := code + 16 * c.detail + 2 ^ 15 + 2 ^ 16 * c.epoch
      let (t1, s) := seMessage k n 1 pkg (b + 4) 4 (leBytes 4 st) s
      let (t2, s) := seMessage k n 1 pkg (b + 0x38) 8 (leBytes 8 c.result) s
      updChan k n (fun c => { c with tags := [t1, t2] }) s
  | _ => s

/-- Issue the OWN-clearing write (R257). -/
def issueOwn (k n : Nat) (s : State) : State :=
  let c := s.chan k n
  let s := updChan k n (fun c => { c with phase := .own, tags := [], got := none, due := some (s.seDue k) }) s
  match fabric s (s.pair (Reg.STK_SE_CHn_CUR_LO k n)) with
  | .far pkg b =>
    if s.route pkg = .noRoute then s
    else
      let (t, s) := seMessage k n 1 pkg b 4 (leBytes 4 (c.desc.w 0 % 2 ^ 31)) s
      updChan k n (fun c => { c with tags := [t] }) s
  | _ => s

/-- Is every byte of the descriptor's stream moved and accepted? -/
def Chan.moved (c : Chan) : Bool :=
  c.running && c.srcPos == c.total && c.bursts.isEmpty && c.qout.isEmpty

def listLen (xs : List (Nat × Nat)) : Nat := (xs.map (·.2)).sum

/-- The outcome of a descriptor whose stream is moved: a list with bytes left, a check value that
differs, or OK (R251, R253). -/
def Chan.finish (c : Chan) : Chan :=
  let left := (c.desc.srcl && listLen c.srcList != c.readLen) || (c.desc.dstl && listLen c.dstList != c.writeLen)
  let v := if c.desc.crcm = 0 then 0 else c.crcValue
  if left then { c with code := 2, detail := 4, result := v }
  else if c.desc.crcm = 2 && leNat c.stored != v then { c with code := 6, detail := 0, result := v }
  else { c with result := v }

/-- The descriptor of channel n moves on when its stream has: to its status write once every issued
write has been accepted. -/
def seSettle (k n : Nat) (s : State) : State :=
  let c := s.chan k n
  let s := setBytesReg k n s
  if c.phase != .exec then s
  else if c.code != 0 then if c.bursts.isEmpty then issueStatus k n s else s
  else if c.moved then issueStatus k n (s.setChan k n c.finish)
  else s

/-- A payload access fails: nothing more issues, and the bursts for which `p` holds end: those whose write has not
issued (R257, R260). -/
def seFail (k n code detail : Nat) (s : State) (epoch : Nat := 0) (p : Burst → Bool := fun b => !b.written) : State :=
  seSettle k n (updChan k n (fun c =>
    if c.code = 0 then { c with code := code, detail := detail, epoch := epoch, listing := false }.drop p else c) s)

/-! ### Starting a descriptor -/

/-- Read a gather or scatter list (R251): its pairs, or the code and detail of a failure. -/
def readList (k n a cnt : Nat) (s : State) : Option (List (Nat × Nat)) × (Nat × Nat) × State :=
  if cnt = 0 then (some [], (0, 0), s)
  else
    match fabric s a with
    | .here b =>
      match seRead k n 7 b (16 * cnt) 1 s with
      | (some bytes, r, s) =>
        (some ((List.range cnt).map fun i =>
          let p := (bytes.drop (16 * i)).take 16
          (leNat (p.take 8), leNat ((p.drop 8).take 4))), r, s)
      | (none, r, s) => (none, r, s)
    | .refuse e => (none, (2, 1), seDecodeErr k n (a % 2 ^ 40) e s)
    | .far _ _ => (none, (2, 2), s)

/-- Can channel n start, or go on with, its descriptor's payload now? A guarantee request comes first
(R255), and a check-value unit must be free (R253). -/
def State.seCanRun (s : State) (k n : Nat) : Bool :=
  let c := s.chan k n
  c.phase = .exec && c.code == 0 && !c.abort &&
    (c.running || ((!c.desc.ctl 16 || c.granted) &&
      (c.desc.crcm == 0 || (s.crcHolder k (crcUnitOf k c.desc)).isNone)))

/-- The fabric ranges of a side, in stream order. -/
def Chan.srcSegs (c : Chan) : List (Nat × Nat) :=
  if !c.desc.hasSrc || c.desc.sqOn then [] else if c.desc.srcl then c.srcList else [(c.desc.src, c.readLen)]

def Chan.dstSegs (c : Chan) : List (Nat × Nat) :=
  if !c.desc.hasDst || c.desc.dqOn then [] else if c.desc.dstl then c.dstList else [(c.desc.dst, c.writeLen)]

/-- Do the source and the destination overlap (R258)? -/
def Chan.overlaps (c : Chan) : Bool :=
  c.desc.op == 1 && c.srcSegs.any fun a => c.dstSegs.any fun b =>
    decide (a.1 < b.1 + b.2) && decide (b.1 < a.1 + a.2)

/-- The place in the stream of the byte at fabric address `x` of a side that begins at place `p`. -/
def placeOf : List (Nat × Nat) → Nat → Nat → Option Nat
  | [], _, _ => none
  | (a, n) :: t, p, x => if a ≤ x ∧ x < a + n then some (p + (x - a)) else placeOf t (p + n) x

/-- The descriptor's payload begins, its lists known: an overlapping copy takes a free value for each byte (R258). -/
def seBegin (k n : Nat) (s : State) : State :=
  let c := s.chan k n
  if c.overlaps then
    seSettle k n ({ s with freeCtr := s.freeCtr + c.total }.setChan k n { c with mix := s.freeCtr })
  else seSettle k n s

/-- Start the descriptor if it has not started: take and sample its check-value unit, issue the read of its lists. -/
def seStart (k n : Nat) (s : State) : State :=
  let c := s.chan k n
  if !s.seCanRun k n || c.running then s
  else
    let d := c.desc
    let u := crcUnitOf k d
    let c := if d.crcm = 0 then { c with running := true }
      else
        let p := s.crcParams u
        { c with running := true, crcUnit := some u, crcParam := p,
                 crc := crcFeed p (p.getD 2 0 % 2 ^ p.getD 0 32) (leBytes 8 d.ctx) }
    if d.srcl || d.dstl then s.setChan k n { c with listing := true, due := some (s.seDue k) }
    else seBegin k n (s.setChan k n c)

/-- Does a list of channel n wait for a fetch of the stack L2 (R229)? -/
def State.seListsWait (s : State) (k n : Nat) : Bool :=
  let d := (s.chan k n).desc
  let waits (on : Bool) (f cnt : Nat) : Bool := on && match fabric s f with
    | .here b => s.seHeldUp k b (16 * cnt)
    | _ => false
  waits d.srcl d.src (bitsOf (d.w 7) 0 16) || waits d.dstl d.dst (bitsOf (d.w 7) 16 16)

/-- The lists of a descriptor that waits for them are read (R251). -/
def seLists (k n : Nat) (s : State) : State :=
  let c := s.chan k n
  let d := c.desc
  if c.phase != .exec || !c.listing || s.seListsWait k n then s
  else
    let s := s.setChan k n { c with listing := false, due := none }
    let (sl, r1, s) := if d.srcl then readList k n d.src (bitsOf (d.w 7) 0 16) s else (some [], (0, 0), s)
    match sl with
    | none => seFail k n r1.1 r1.2 s
    | some sl =>
      let (dl, r2, s) := if d.dstl then readList k n d.dst (bitsOf (d.w 7) 16 16) s else (some [], (0, 0), s)
      match dl with
      | none => seFail k n r2.1 r2.2 s
      | some dl => seBegin k n (updChan k n (fun c => { c with srcList := sl, dstList := dl }) s)

/-! ### Buffer slots (R241, R242) -/

def State.rsv (s : State) (k n : Nat) : Nat := s.fld (Reg.STK_SE_CHn_RSV k n) F.STK_SE_CHn_RSV.SLOTS

/-- Is a slot of the 256 of the shared buffer free for channel n? -/
def State.slotFree (s : State) (k n : Nat) : Bool :=
  let used (m : Nat) : Nat := (s.chan k m).bursts.length
  let rsvSum := ((List.range 32).map (s.rsv k)).sum
  let shared := ((List.range 32).map fun m => used m - s.rsv k m).sum
  decide (((List.range 32).map used).sum < 256) && (decide (used n < s.rsv k n) || decide (shared + rsvSum < 256))

/-! ### Burst reads -/

/-- The fill pattern of [a, a + n) (R252). -/
def fillBytes (ctx a n : Nat) : List Byte := (List.range n).map fun i => BitVec.ofNat 8 (bitsOf ctx (8 * ((a + i) % 8)) 8)

/-- Has channel n a burst whose read can issue: its addresses known and a slot free (R243)? -/
def State.readReady (s : State) (k n : Nat) : Bool :=
  let c := s.chan k n
  let d := c.desc
  s.seCanRun k n && d.op != 3 && s.slotFree k n &&
    (if c.running then !c.listing && decide (c.srcPos < c.total)
     else !d.srcl && !d.dstl && (d.len != 0 || d.crcm == 1 || d.crcm == 2)) &&
    !(c.running && decide (d.len ≤ c.srcPos) && d.crcm == 1 && c.foldPos != d.len)

/-- Refuse a payload access to fabric address `f` with KIND `e`. -/
def seRefuse (k n f e : Nat) (s : State) : State :=
  let (code, detail) := refusedAs e
  seFail k n code detail (seDecodeErr k n (f % 2 ^ 40) e s)

/-- Issue the read of channel n's next burst (R241, R243): a burst with no source has its data at once. -/
def issueRead (k n : Nat) (s : State) : State :=
  let c := s.chan k n
  if !c.running || c.listing || c.total ≤ c.srcPos then s
  else if s.seBound k c.desc.sq || s.seBound k c.desc.dq then seFail k n 2 3 s
  else
    let (len, a, b) := c.piece
    if a = .out ∨ b = .out then seFail k n 2 4 s
    else
      let dst := match b with
        | .mem x _ => x
        | _ => c.srcPos
      let data := match a with
        | .off => if c.desc.op = 2 then fillBytes c.desc.ctx dst len
            else (((leBytes c.cb c.crcValue).drop (c.srcPos - c.desc.len)).take len)
        | _ => []
      let due := match a with
        | .mem _ _ => some (s.seDue k)
        | _ => none
      let x : Burst := { id := c.nextBurst, pos := c.srcPos, len := len, dst := dst, data := data, due := due, issued := s.tb,
                         src := match a with | .mem y _ => y | _ => c.srcPos }
      let c := Chan.settleFold
        { c with bursts := c.bursts ++ [x], nextBurst := c.nextBurst + 1, srcPos := c.srcPos + len }
      let s := s.setChan k n c
      match a with
      | .mem y _ =>
        match fabric s y with
        | .here z =>
          match seDecode s z len with
          | .err e => seRefuse k n y e s
          | .ok _ => s
        | .refuse e => seRefuse k n y e s
        | .far pkg z =>
          if s.route pkg = .noRoute then seRefuse k n y 7 (sendMsg (s.newMsg 2 pkg) s)
          else
            let (tag, s) := seMessage k n 2 pkg z len [] s
            updChan k n (fun c => { c with bursts := c.bursts.map fun v =>
              if v.id = x.id then { v with tag := some tag } else v }) s
      | _ => s

/-! ### Arrivals -/

/-- Put the data of burst `id`. -/
def Chan.putData (c : Chan) (id : Nat) (data : List Byte) : Chan :=
  let bs := c.bursts.map fun (b : Burst) =>
    if b.id = id then { b with data := data, tag := none, due := none } else b
  Chan.settleFold { c with bursts := bs }

/-- Take entries of a TD queue until `n` bytes stand in the unfinished entry. -/
def popBytes (i : Nat) (w : WideQ) (n : Nat) : Nat → List Byte → State → List Byte × State
  | 0, bs, s => (bs, s)
  | f + 1, bs, s =>
    if n ≤ bs.length then (bs, s)
    else
      match (s.core i).wide w with
      | [] => (bs, s)
      | e :: t => popBytes i w n f (bs ++ e.bytes) (updCore i (fun c => c.setWide w t) s)

/-- The byte that stands at fabric address `x` now, as the engine of stack k would read it. -/
def State.seByte (s : State) (k x : Nat) : Byte :=
  match fabric s x with
  | .here a =>
    if a < 0x6000000000 then
      let beyond : Byte := match s.dramReach (a / 64 * 64) with
        | some p => s.byteAt (p + a % 64)
        | none => 0
      match s.l2Held k (a / 128) with
      | some l => if l.valid.getLsbD (a % 128) then l.byte (a % 128) else beyond
      | none => beyond
    else s.byteAt a
  | _ => 0

/-- The byte at `x` before the descriptor wrote there. -/
def Chan.oldByte (c : Chan) (s : State) (k x : Nat) : Byte :=
  match c.kept.find? fun e => e.1 == x with
  | some e => e.2
  | none => s.seByte k x

/-- What place `p` of an overlapping copy receives: the old byte of its source, or, as a free value says, the new
one, which is what the place that writes that byte receives (R258) (DESIGN CHOICE, log entry 28). -/
def Chan.mixByte (c : Chan) (s : State) (k : Nat) : Nat → Nat → Byte
  | f, p =>
    match c.srcAt p with
    | .mem x _ =>
      match f, placeOf c.dstSegs 0 x with
      | f + 1, some q => if Config.free 1 (c.mix + p) = 1 then c.mixByte s k f q else c.oldByte s k x
      | _, _ => c.oldByte s k x
    | _ => 0

/-- The data of a burst as its copy receives it: a byte whose source lies in the destination is mixed (R258). -/
def Chan.mixed (c : Chan) (s : State) (k : Nat) (b : Burst) (data : List Byte) : List Byte :=
  if !c.overlaps then data
  else data.zipIdx.map fun (x, i) =>
    if (placeOf c.dstSegs 0 (b.src + i)).isSome then c.mixByte s k c.total (b.pos + i) else x

/-- Keep the bytes that burst `b` of an overlapping copy is about to replace in its source. -/
def Chan.keepOld (c : Chan) (s : State) (k : Nat) (b : Burst) : Chan :=
  if !c.overlaps then c
  else
    let xs := ((List.range b.len).map (b.dst + ·)).filter fun x =>
      (placeOf c.srcSegs 0 x).isSome && !c.kept.any fun e => e.1 == x
    { c with kept := c.kept ++ xs.map fun x => (x, s.seByte k x) }

/-- The data of burst `b` of channel n arrives: local memory is read now; a queue gives what it has, in
the order of the stream (R250). A burst of an aborted descriptor ends with its read (R261); a queue that a binding
has taken halts the channel (R203). -/
def burstArrive (k n : Nat) (b : Burst) (s : State) : State :=
  let c := s.chan k n
  if b.data.length = b.len || b.tag.isSome || c.phase != .exec then s
  else if c.code != 0 then seSettle k n (updChan k n (fun c => c.drop fun x => x.id == b.id) s)
  else if c.desc.sqOn && decide (b.pos < c.readLen) then
    if s.seBound k c.desc.sq then seFail k n 2 3 s
    else if c.bursts.any fun x => decide (x.pos < b.pos) && x.data.length != x.len then s
    else
      let (i, w) := queueOf k c.desc.sq
      let (bs, s) := popBytes i w b.len 9 c.qin s
      if bs.length < b.len then updChan k n (fun c => { c with qin := bs }) s
      else seSettle k n (updChan k n (fun c => Chan.putData { c with qin := bs.drop b.len } b.id (bs.take b.len)) s)
  else
    match fabric s b.src with
    | .here a =>
      if s.seHeldUp k a b.len then s
      else
        match seRead k n c.desc.aclass a b.len 1 s (some b.issued) with
        | (some data, _, s) => seSettle k n (updChan k n (fun c => c.putData b.id (c.mixed s k b data)) s)
        | (none, r, s) => seFail k n r.1 r.2 s
    | _ => s

/-! ### Burst writes -/

/-- The oldest burst of channel n whose write has not issued. -/
def Chan.oldestUnwritten (c : Chan) : Option Burst := c.bursts.find? fun b => !b.written

/-- Has channel n a burst whose write can issue (R243)? -/
def State.writeReady (s : State) (k n : Nat) : Bool :=
  let c := s.chan k n
  c.phase = .exec && c.code == 0 && !c.abort &&
    match c.oldestUnwritten with
    | some b => b.data.length == b.len && c.dstAt b.pos != .off
    | none => false

/-- The package that holds a role by the active bank (R438). -/
def State.rolePkg (s : State) (r : Nat) : Option Nat :=
  let w := sget (fun _ => (0 : Word32)) s.roles.active r
  if F.GCTL_ROLE_VAL.VALID.get w = 1 then some (F.GCTL_ROLE_VAL.PKG.get w) else none

/-- Send the write of burst `b` to package `pkg` (R256, R348). -/
def sendBurst (k n type pkg a role : Nat) (b : Burst) (s : State) : State :=
  if s.route pkg = .noRoute then
    seRefuse k n b.dst 7 (updChan k n (fun c =>
      { c with bursts := c.bursts.map fun x => if x.id = b.id then { x with written := false } else x })
      (sendMsg (s.newMsg type pkg) s))
  else
    let (tag, s) := newTag (chMaster k n) s
    let s := updChan k n (fun c => { c with bursts := c.bursts.map fun x =>
      if x.id = b.id then { x with tag := some tag } else x }) s
    sendMsg { s.newMsg type pkg with
      addr := a % 2 ^ 40, role := role, tag := tag, len := b.len, deadline := (s.chan k n).deadlineMsg,
      data := b.data } s

/-- Read a burst of channel n from its buffer slot through the code (R280): an error counted and logged, and whether
it was uncorrectable. Such a word's unit and address are left open (DESIGN CHOICE, log entry 10). -/
def readSlot (k n : Nat) (s : State) : Bool × State :=
  match (s.chan k n).spoilt with
  | [] => (false, s)
  | x :: t =>
    let (y, code, _) := readCode 0 0 x
    let (a, s) := (updChan k n (fun c => { c with spoilt := t }) s).draw 40
    let (v, s) := s.draw 4
    let e : ErrEntry := { src := 5, sev := 0, stack := k, unit := v.toNat, addr := a.toNat, synd := y }
    match code with
    | .clean => (false, s)
    | .corrected j => (false, logErr { e with bit := j } s)
    | .bad => (true, logErr { e with sev := 1 } s)

/-- Issue the write of channel n's oldest unwritten burst (R243, R256); data found uncorrectable in its slot halts the
channel (Table 10-1). -/
def issueWrite (k n : Nat) (s : State) : State :=
  let (bad, s) := if ((s.chan k n).oldestUnwritten).isSome then readSlot k n s else (false, s)
  let c := s.chan k n
  match if bad then none else c.oldestUnwritten with
  | none => if bad then seFail k n 4 1 s else s
  | some b =>
    let due := if c.desc.dqOn then none else some (s.seDue k)
    let mark (s : State) : State := updChan k n (fun c => { c with bursts := c.bursts.map fun x =>
      if x.id = b.id then { x with written := true, due := due, issued := s.tb } else x }) s
    if c.desc.op = 5 then
      match s.rolePkg c.desc.role with
      | none => seRefuse k n b.dst 7 s
      | some pkg => sendBurst k n 4 pkg b.dst c.desc.role b (mark s)
    else if c.desc.dqOn then
      if s.seBound k c.desc.dq then seFail k n 2 3 s else mark s
    else
      match fabric s b.dst with
      | .here a =>
        match seDecode s a b.len with
        | .err e => seRefuse k n b.dst e s
        | .ok _ => mark s
      | .refuse e => seRefuse k n b.dst e s
      | .far pkg a => sendBurst k n 1 pkg a 0xFFFF b (mark s)

/-- Payload bytes of channel n from place `p` on, `m` of them, count as accepted (Table 8-18). -/
def countBytes (k n p m : Nat) (s : State) : State :=
  let len := (s.chan k n).desc.len
  let lo := Reg.STK_SE_CHn_CNT_BYTES_LO k n
  s.setLive lo (min (s.liveAt lo + (min (p + m) len - min p len)) (2 ^ 64 - 1))

/-- Burst `b` of channel n is gone: its slot is free (R241). -/
def endBurst (k n : Nat) (b : Burst) (s : State) : State :=
  seSettle k n (updChan k n (fun c => { c with bursts := c.bursts.filter fun x => x.id != b.id }) s)

/-- Burst `b` of channel n is accepted whole (R241, Table 8-18). -/
def acceptBurst (k n : Nat) (b : Burst) (s : State) : State := endBurst k n b (countBytes k n b.pos b.len s)

/-- A burst write reaches its local destination (R257): memory takes it; a queue takes the entries it has
room for, bursts in order (R250), and halts the channel if a binding has taken it (R80). -/
def burstAccept (k n : Nat) (b : Burst) (s : State) : State :=
  let c := s.chan k n
  if !b.written || b.tag.isSome || c.phase != .exec then s
  else if c.desc.dqOn then
    if s.seBound k c.desc.dq then
      if c.code = 0 then seFail k n 2 3 s 0 fun _ => true else endBurst k n b (updChan k n (·.drop fun x => x.id == b.id) s)
    else if c.bursts.any fun x => decide (x.pos < b.pos) then s
    else
      let (i, w) := queueOf k c.desc.dq
      let stock := c.qout ++ b.data.drop b.acc
      let (bs, s) := pushBytes i w 9 stock s
      let took := stock.length - bs.length
      let s := countBytes k n (b.pos + b.acc - c.qout.length) took s
      if bs.length < 256 then endBurst k n b (updChan k n (fun c => { c with qout := bs }) s)
      else if took = 0 then s
      else
        let b' : Burst := { b with acc := b.acc + (took - c.qout.length) }
        setBytesReg k n (updChan k n (fun c =>
          { c with qout := [], bursts := c.bursts.map fun x => if x.id = b'.id then b' else x }) s)
  else
    match fabric s b.dst with
    | .here a =>
      if s.seHeldUp k a b.len false then s
      else
        let old := c.keepOld s k b
        match seWrite k n c.desc.aclass a b.data s (some b.issued) with
        | ((0, _), s) => acceptBurst k n b (updChan k n (fun c => { c with kept := old.kept }) s)
        | (r, s) => seFail k n r.1 r.2 (updChan k n (·.drop fun x => x.id == b.id) s)
    | _ => s

/-! ### The order of the engines (R243) -/

/-- The channel an engine serves among those ready: lowest PRIO, then the next after the last served
at that level; `last` reads 31 where nothing has been served. -/
def State.choose (s : State) (k : Nat) (last : SMap Nat) (ready : Nat → Bool) : Option (Nat × Nat) :=
  (List.range 4).findSome? fun p =>
    let at_ (n : Nat) : Bool := s.fld (Reg.STK_SE_CHn_CTL k n) F.STK_SE_CHn_CTL.PRIO == p && ready n
    let from_ := sget (fun _ => 31) last p
    ((List.range 32).find? fun i => at_ ((from_ + 1 + i) % 32)).map fun i => (p, (from_ + 1 + i) % 32)

/-- The read engine issues one burst read, of the channel it chooses (R243). -/
def engineRead (k : Nat) (s : State) : State :=
  match s.choose k (s.stk k).lastRd (s.readReady k) with
  | none => s
  | some (p, n) =>
    issueRead k n (seStart k n (updStk k (fun x => { x with lastRd := sset (fun _ => 31) x.lastRd p n }) s))

/-- The write engine issues one burst write, of the channel it chooses (R243). -/
def engineWrite (k : Nat) (s : State) : State :=
  match s.choose k (s.stk k).lastWr (s.writeReady k) with
  | none => s
  | some (p, n) => issueWrite k n (updStk k (fun x => { x with lastWr := sset (fun _ => 31) x.lastWr p n }) s)

/-! ### Answers of other packages (R341, R342) -/

/-- The outcome of a NACK for a payload access of a SEND or another access (Table 12-10). -/
def nackAs (send : Bool) (reason : Nat) : Nat × Nat :=
  match reason with
  | 1 => (7, 0)
  | 4 => (8, 1)
  | 5 => (4, 1)
  | _ => (2, if send then 6 else 1)

/-- The outcome of a NACK for a descriptor fetch. -/
def nackFetch (reason : Nat) : Nat × Nat :=
  match reason with
  | 4 => (8, 4)
  | 5 => (4, 4)
  | _ => (2, 5)

/-- A RDRESP for tag `t` of channel n: the data, and whether it is uncorrectable. -/
def seRdresp (k n t : Nat) (data : List Byte) (uncorr : Bool) (s : State) : State :=
  let c := s.chan k n
  if c.phase = .fetch ∧ c.tags.contains t then
    s.setChan k n { c with tags := [], got := some (if uncorr then (4, 4, []) else (0, 0, data)) }
  else
    match c.bursts.find? fun b => b.tag == some t && !b.written with
    | some b =>
      if c.phase != .exec then s
      else if c.code != 0 then seSettle k n (s.setChan k n (c.drop fun x => x.id == b.id))
      else if uncorr || data.length != b.len then seFail k n 4 1 s
      else seSettle k n (s.setChan k n (c.putData b.id data))
    | none => s

/-- An ACK for tag `t` of channel n. -/
def seAck (k n t : Nat) (s : State) : State :=
  let c := s.chan k n
  if (c.phase = .status ∨ c.phase = .own) ∧ c.tags.contains t then
    let left := c.tags.erase t
    s.setChan k n { c with tags := left, got := if left.isEmpty && c.got.isNone then some (0, 0, []) else c.got }
  else
    match c.bursts.find? fun b => b.tag == some t && b.written with
    | some b => if c.phase = .exec then acceptBurst k n b s else s
    | none => s

/-- A NACK for tag `t` of channel n. -/
def seNack (k n t reason epoch : Nat) (s : State) : State :=
  let c := s.chan k n
  if c.phase = .fetch ∧ c.tags.contains t then
    let (code, detail) := nackFetch reason
    s.setChan k n { c with tags := [], got := some (code, detail, []) }
  else if (c.phase = .status ∨ c.phase = .own) ∧ c.tags.contains t then
    s.setChan k n { c with tags := [], got := some (3, 3, []) }
  else
    match c.bursts.find? fun b => b.tag == some t with
    | some b =>
      if c.phase != .exec then s
      else
        let (code, detail) := nackAs (c.desc.op == 5) reason
        let s := s.setChan k n (c.drop fun x => x.id == b.id)
        let s := if code = 7 ∧ c.code = 0 then s.setReg (Reg.STK_SE_CHn_EPOCH k n) (BitVec.ofNat 32 epoch) else s
        seSettle k n (seFail k n code detail s (if code = 7 then epoch else 0))
    | none => s

/-! ### Reset (R262) -/

/-- Every channel of stack k idle, every STK_SE register at its reset value, guarantees released. -/
def resetSe (k : Nat) (s : State) : State :=
  let lo := Reg.STK_SE_CFG k
  let s := { s with regs := sdrop (fun a => decide (lo ≤ a) && decide (a < lo + 0x900)) s.regs,
                    live := sdrop (fun a => decide (lo ≤ a) && decide (a < lo + 0x900)) s.live }
  let s := updStk k (fun x => { x with chans := [], lastRd := [], lastWr := [], glint := 0 }) s
  releaseGuarantees (fun m => m / 32 == k && decide (m < 0x300)) s


end Sys2Proof.Machine
end

