-- ==== Sys2Proof/Machine/StreamEngine.lean ====
section
/-! DEFINITION. The stream engine's events: triggers, descriptors, operations, bursts, completion,
timeouts and its channel registers (R241-R262). -/

namespace Sys2Proof.Machine

open Sys2Proof

/-! ### Triggers -/

/-- The tick timer reaches the boundary plus OFFSET, once per tick (R244, R245). -/
def execSeTimerTrigger (k : StackId) (n : ChanId) (s : State) : Out := ifUp s <|
  let off := s.fld (Reg.STK_SE_CHn_TIMER k n) F.STK_SE_CHn_TIMER.OFFSET
  let ctl := Reg.STK_SE_CHn_CTL k n
  if s.fld ctl F.STK_SE_CHn_CTL.TRIG != 1 || (s.chan k n).fired || (s.chan k n).late then .next s
  else if s.tick.period ≤ off then
    let s := updChan k n (fun c => { c with late := true }) s
    .next (if s.flag ctl F.STK_SE_CHn_CTL.ENABLE
      then s.setFlag (Reg.STK_SE_CHn_STAT k n) F.STK_SE_CHn_STAT.MISSED else s)
  else
    let s := updChan k n (fun c => { c with fired := true }) s
    .next (trigger k n true (s.advanceTb (64 * (s.tick.bnd + off))))

/-! ### Descriptor fetch -/

/-- The answer to the fetch of the descriptor at CUR: its 16 words, or a code and detail; `none`: still
awaited (R247, R257). -/
def fetchAnswer (k n : Nat) (s : State) : Option (Option Desc × (Nat × Nat)) × State :=
  let c := s.chan k n
  let words (bs : List Byte) : Desc := (List.range 16).map fun i => BitVec.ofNat 32 (leNat ((bs.drop (4 * i)).take 4))
  let a := s.pair (Reg.STK_SE_CHn_CUR_LO k n)
  match fabric s a with
  | .here b =>
    if s.seHeldUp k b 64 then (none, s)
    else
      match seRead k n 7 b 64 4 s with
      | (some bs, _, s) => (some (some (words bs), (0, 0)), s)
      | (none, r, s) => (some (none, if r.1 = 2 then (2, 5) else (r.1, 4)), s)
  | .refuse e => (some (none, (2, 5)), seDecodeErr k n (a % 2 ^ 40) e s)
  | .far pkg _ =>
    match c.got with
    | some (0, _, bs) => (some (some (words bs), (0, 0)), s)
    | some (code, detail, _) => (some (none, (code, detail)), s)
    | none =>
      if c.tags.isEmpty then
        (some (none, (2, 5)), seDecodeErr k n (a % 2 ^ 40) 7 (sendMsg (s.newMsg 2 pkg) s))
      else (none, s)

/-- A descriptor fetch returns: the channel halts, ends on OWN 0, or executes the descriptor; a malformed
one goes straight to its status write (R246, R257). -/
def execSeDescFetch (k : StackId) (n : ChanId) (u : Upsets) (s : State) : Out := ifUp s <|
  let s := upset u s
  if (s.chan k n).phase != .fetch then .next s
  else
    match fetchAnswer k n s with
    | (none, s) => .next s
    | (some (none, r), s) => .next (haltCh k n r.1 r.2 (s.pair (Reg.STK_SE_CHn_CUR_LO k n)) 0 s)
    | (some (some d, _), s) =>
      let c := s.chan k n
      let cur := s.pair (Reg.STK_SE_CHn_CUR_LO k n)
      if !d.ctl 31 then
        .next (if c.abort then haltCh k n 1 0 cur 0 s else endOk k n cur true s)
      else
        let ok := wellFormed s d
        let s := s.setChan k n
          { Chan.reset with
            phase := .exec, held := c.held, timer := c.timer, fired := c.fired, late := c.late, done := c.done + 1,
            budget := c.budget, born := c.born, desc := d, abort := c.abort,
            code := if c.abort then 1 else if ok then 0 else 2,
            detail := if c.abort || ok then 0 else 2,
            due := if d.ctl 16 then some (s.seDue k) else none }
        .next (seSettle k n s)

/-! ### Operations -/

/-- The first burst waiting for acceptance at a local destination is accepted. -/
def acceptFirst (k n : Nat) (s : State) : State :=
  match (s.chan k n).bursts.find? fun b => b.written && b.tag.isNone with
  | some b => burstAccept k n b s
  | none => s

/-- The first burst without its data gets it, if its source is local. -/
def arriveFirst (k n : Nat) (s : State) : State :=
  match (s.chan k n).bursts.find? fun b => b.data.length != b.len && b.tag.isNone with
  | some b => burstArrive k n b s
  | none => s

/-- The first of the actions that changes a channel of the engine; `none`: it waits. -/
def firstAct (k : Nat) (s : State) : List (State → State) → Option State
  | [] => none
  | f :: t =>
    let u := f s
    if (u.stk k).chans = (s.stk k).chans then firstAct k s t else some u

/-- Move the descriptor's stream until it is done or waits, each read and write the engine's own choice among its
channels (R243) (DEDUCED, log entry 27). -/
def moveStream (k n : Nat) : Nat → State → State
  | 0, s => s
  | f + 1, s =>
    if (s.chan k n).phase != .exec then s
    else
      match firstAct k s [acceptFirst k n, engineWrite k, arriveFirst k n, engineRead k] with
      | some t => moveStream k n f t
      | none => s

/-- Run operation `op` of channel n as far as it goes. -/
def seRun (op k n : Nat) (s : State) : State :=
  let c := s.chan k n
  if c.phase != .exec || c.desc.op != op then s
  else
    let s := seLists k n (seStart k n s)
    moveStream k n (8 * (s.chan k n).total + 2048) s

/-- NOP moves nothing and completes OK. -/
def execSeNop (k : StackId) (n : ChanId) (s : State) : Out := ifUp s <| .next (seRun 0 k n s)

/-- COPY moves the payload stream (R250, R251, R253, R258). -/
def execSeCopy (k : StackId) (n : ChanId) (u : Upsets) (s : State) : Out := ifUp s <| .next (seRun 1 k n (upset u s))

/-- FILL writes the address-fixed pattern (R252). -/
def execSeFill (k : StackId) (n : ChanId) (s : State) : Out := ifUp s <| .next (seRun 2 k n s)

/-- FLUSH writes back, and with INV invalidates, the lines of the channel's stack L2 over its range
(R254). -/
def execSeFlush (k : StackId) (n : ChanId) (s : State) : Out := ifUp s <|
  let c := s.chan k n
  if c.phase != .exec || c.desc.op != 3 then .next s
  else
    let s := seStart k n s
    let c := s.chan k n
    if !c.running || c.phase != .exec then .next s
    else
      let s := l2FlushRange k (seHow k n s) (c.desc.dst % 2 ^ 40) c.desc.len (c.desc.ctl 9) s
      .next (seSettle k n (updChan k n (fun c => { c with srcPos := c.total }) s))

/-- CHECK computes or verifies a check value and writes nothing (R253). -/
def execSeCheck (k : StackId) (n : ChanId) (u : Upsets) (s : State) : Out := ifUp s <| .next (seRun 4 k n (upset u s))

/-- SEND moves the payload to the holder of ROLE (R256). -/
def execSeSend (k : StackId) (n : ChanId) (u : Upsets) (s : State) : Out := ifUp s <| .next (seRun 5 k n (upset u s))

/-- The points GPOINT names for stack k, in ascending order (R255, R269). -/
def gPoints (k g : Nat) : List Nat :=
  (if bitOf g 1 then List.range 8 else []) ++ (if bitOf g 2 then (List.range 8).map (8 + ·) else []) ++
    (if bitOf g 0 then [16 + k] else [])

/-- The guarantee request of a GSET descriptor, before its payload (R255). -/
def execSeGuaranteeRequest (k : StackId) (n : ChanId) (s : State) : Out := ifUp s <|
  let c := s.chan k n
  if c.phase != .exec || c.code != 0 || c.abort || !c.desc.ctl 16 || c.granted then .next s
  else
    match requestGuarantee (chMaster k n) c.desc.guar (gPoints k c.desc.gpoint) s with
    | (true, s) => .next (updChan k n (fun c => { c with granted := true, due := none }) s)
    | (false, s) => .next (seFail k n 9 0 s)

/-! ### Bursts -/

/-- The read engine issues one burst read (R243). -/
def execSeBurstRead (k : StackId) (s : State) : Out := ifUp s <| .next (engineRead k s)

/-- The data of a burst arrives (R243). -/
def execSeBurstArrive (k : StackId) (n : ChanId) (burst : Nat) (u : Upsets) (s : State) : Out := ifUp s <|
  let s := upset u s
  match (s.chan k n).bursts.find? fun b => b.id == burst with
  | some b => .next (burstArrive k n b s)
  | none => .next s

/-- The write engine issues one burst write (R243). -/
def execSeBurstWrite (k : StackId) (s : State) : Out := ifUp s <| .next (engineWrite k s)

/-- A burst write is accepted at its destination (R241, R257). -/
def execSeBurstAccept (k : StackId) (n : ChanId) (burst : Nat) (s : State) : Out := ifUp s <|
  match (s.chan k n).bursts.find? fun b => b.id == burst with
  | some b => .next (burstAccept k n b s)
  | none => .next s

/-! ### Completion -/

/-- A status or OWN write of channel n reaches its target: accepted, refused, or still awaited. One to a package
with no route is refused with KIND 7 and counted (R348). -/
def dwriteAnswer (k n : Nat) (parts : List (Nat × List Byte)) (s : State) : Option Bool × State :=
  let c := s.chan k n
  let a := s.pair (Reg.STK_SE_CHn_CUR_LO k n)
  match fabric s a with
  | .here b =>
    if s.seHeldUp k b 64 false then (none, s)
    else
      parts.foldl (fun (acc : Option Bool × State) p =>
        match acc with
        | (some true, s) =>
          let (r, s) := seWrite k n 7 (b + p.1) p.2 s
          (some (r.1 == 0), s)
        | x => x) (some true, s)
  | .refuse e => (some false, seDecodeErr k n (a % 2 ^ 40) e s)
  | .far pkg _ =>
    match c.got with
    | some (code, _, _) => (some (code == 0), s)
    | none =>
      if c.tags.isEmpty then (some false, seDecodeErr k n (a % 2 ^ 40) 7 (sendMsg (s.newMsg 1 pkg) s))
      else (none, s)

/-- A status or OWN write that fails halts the channel with BUS_TIMEOUT, DETAIL 0x3 (R259). -/
def dwriteFail (k n : Nat) (s : State) : State :=
  let c := s.chan k n
  haltCh k n 3 3 (s.pair (Reg.STK_SE_CHn_CUR_LO k n)) c.code (s.count (Reg.STK_SE_CHn_CNT_DESC k n))

/-- The STATUS and RESULT write is accepted (R249, R257). One sent to another package before an abort is written
again, with ABORTED (R261). -/
def execSeStatusWrite (k : StackId) (n : ChanId) (s : State) : Out := ifUp s <|
  let c := s.chan k n
  if c.phase != .status then .next s
  else
    let aborted := c.abort && c.code == 0
    let far := match fabric s (s.pair (Reg.STK_SE_CHn_CUR_LO k n)) with | .far _ _ => true | _ => false
    let code := if aborted && !far then 1 else c.code
    let st := code + 16 * c.detail + 2 ^ 15 + 2 ^ 16 * c.epoch
    match dwriteAnswer k n [(4, leBytes 4 st), (0x38, leBytes 8 c.result)] s with
    | (none, s) => .next s
    | (some false, s) => .next (dwriteFail k n s)
    | (some true, s) =>
      .next (if aborted && far then issueStatus k n s
        else issueOwn k n (updChan k n (fun c => { c with code := code }) s))

/-- The OWN-clearing write is accepted: the channel halts, ends, meets its budget or fetches the next
descriptor (R257). -/
def execSeOwnWrite (k : StackId) (n : ChanId) (s : State) : Out := ifUp s <|
  let c := s.chan k n
  if c.phase != .own then .next s
  else
    match dwriteAnswer k n [(0, leBytes 4 (c.desc.w 0 % 2 ^ 31))] s with
    | (none, s) => .next s
    | (some false, s) => .next (dwriteFail k n s)
    | (some true, s) =>
      let d := c.desc
      let cur := s.pair (Reg.STK_SE_CHn_CUR_LO k n)
      let s := updChan k n (fun c => { c with crcUnit := none }) (s.count (Reg.STK_SE_CHn_CNT_DESC k n))
      if c.code != 0 then .next (haltCh k n c.code c.detail cur 0 s)
      else
        let s := if d.ctl 8 then intEvent (8 + k) (s.setBit (Reg.STK_SE_IRQ_DONE k) n) else s
        let s := if d.glint then updStk k (fun x => { x with glint := x.glint + c.glintSum }) s else s
        if !d.ctl 7 then .next (endOk k n d.next false s)
        else if c.done = c.budget then .next (haltCh k n 5 0 d.next 0 s)
        else if c.abort then .next (haltCh k n 1 0 d.next 0 s)
        else
          let s := s.setPair (Reg.STK_SE_CHn_CUR_LO k n) (d.next / 64 * 64)
          .next (issueFetch k n s)

/-- The access of channel n that times out first: its time, and the burst if it is one (R259). -/
def Chan.firstDue (c : Chan) : Option (Nat × Option Burst) :=
  let own := if c.phase = .exec ∧ !c.listing ∧ (!c.desc.ctl 16 || c.granted) then none
    else c.due.map fun t => (t, none)
  c.bursts.foldl (fun m b =>
    match b.due, m with
    | some t, some (u, _) => if t < u then some (t, some b) else m
    | some t, none => some (t, some b)
    | none, _ => m) own

/-- An access not completed within TIMEOUT of its issue times out (R259). -/
def execSeAccessTimeout (k : StackId) (n : ChanId) (s : State) : Out := ifUp s <|
  let c := s.chan k n
  match c.firstDue with
  | none => .next s
  | some (t, b) =>
    let s := s.advance t
    match c.phase, b with
    | .fetch, _ => .next (haltCh k n 3 4 (s.pair (Reg.STK_SE_CHn_CUR_LO k n)) 0 s)
    | .status, _ => .next (dwriteFail k n s)
    | .own, _ => .next (dwriteFail k n s)
    | .exec, none => .next (seFail k n 3 (if c.listing then 1 else 5) s)
    | .exec, some b =>
      let s := updChan k n (·.drop fun x => x.id == b.id) s
      .next (seSettle k n (seFail k n 3 (if b.written then 2 else 1) s))
    | _, _ => .next s

/-! ### Abort, clear and the channel registers -/

/-- Has burst `b` an access issued that still runs: a read with its data to come, or a write? A wait for a queue is
no access (R250, R261). -/
def Chan.underWay (c : Chan) (b : Burst) : Bool :=
  if b.written then !c.desc.dqOn else b.data.length != b.len && !(c.desc.sqOn && decide (b.pos < c.readLen))

/-- ABORT of an active channel, and a stopping boundary: nothing more issues, issued bursts complete or time out
(R261) (DEDUCED, log entry 29). -/
def abortCh (k n : Nat) (s : State) : State :=
  let c := s.chan k n
  if c.phase = .idle ∨ c.phase = .halted then s
  else
    let s := updChan k n (fun c => { c with abort := true }) s
    if c.phase = .exec then seFail k n 1 0 s 0 fun b => !c.underWay b else s

/-- CLEAR returns a halted channel to idle (R260). -/
def clearCh (k n : Nat) (s : State) : State :=
  if (s.chan k n).phase = .halted then updChan k n (fun c => { c with phase := .idle }) s else s

/-- After a write of OFFSET, TRIG or ENABLE the timer compares against the new settings: an offset that has already
passed does not fire in this tick (R244). -/
def timerRewrite (k n : Nat) (s : State) : State :=
  let off := s.fld (Reg.STK_SE_CHn_TIMER k n) F.STK_SE_CHn_TIMER.OFFSET
  let on := s.flag (Reg.STK_SE_CHn_CTL k n) F.STK_SE_CHn_CTL.ENABLE &&
    s.fld (Reg.STK_SE_CHn_CTL k n) F.STK_SE_CHn_CTL.TRIG == 1
  updChan k n (fun c => { c with late := on && decide (64 * (s.tick.bnd + off) ≤ s.tb) }) s

/-- A write of STK_SE_CHn_CTL (Table 8-9): TRIG 0b11 leaves TRIG as it stands (DEDUCED, log entry 29). -/
def writeChCtl (k n : Nat) (v : Word32) (s : State) : State :=
  let a := Reg.STK_SE_CHn_CTL k n
  let old := s.reg a
  let trig := F.STK_SE_CHn_CTL.TRIG.get v
  let w := F.STK_SE_CHn_CTL.TRIG.put (v &&& 0x7FF) (if trig = 3 then F.STK_SE_CHn_CTL.TRIG.get old else trig)
  let s := s.setReg a w
  let changed := F.STK_SE_CHn_CTL.TRIG.get w != F.STK_SE_CHn_CTL.TRIG.get old ||
    F.STK_SE_CHn_CTL.ENABLE.get w != F.STK_SE_CHn_CTL.ENABLE.get old
  let s := if changed then timerRewrite k n s else s
  let s := if v.getLsbD 16 then abortCh k n s else s
  if v.getLsbD 17 then clearCh k n s else s

/-- A write of STK_SE_CHn_TIMER (R244). -/
def writeChTimer (k n : Nat) (v : Word32) (s : State) : State :=
  timerRewrite k n (s.setReg (Reg.STK_SE_CHn_TIMER k n) (v &&& 0x1FFFFF))

/-- A write of STK_SE_CHn_DB: the doorbell (R244). -/
def writeChDb (k n : Nat) (v : Word32) (s : State) : State := if v.getLsbD 0 then trigger k n false s else s

/-- A write of either half of HEAD; while idle or halted it also sets CUR (R246, Table 8-11). -/
def writeChHead (k n : Nat) (hi : Bool) (v : Word32) (s : State) : State :=
  let a := Reg.STK_SE_CHn_HEAD_LO k n
  let s := if hi then s.setReg (a + 4) v else s.setReg a (v &&& ~~~0x3F#32)
  let p := (s.chan k n).phase
  if p = .idle ∨ p = .halted then s.setPair (Reg.STK_SE_CHn_CUR_LO k n) (s.pair a) else s

/-- A write of STK_SE_CHn_RSV (R242). -/
def writeChRsv (k n : Nat) (v : Word32) (s : State) : State :=
  let z := F.STK_SE_CHn_RSV.SLOTS.get v
  let others := (((List.range 32).filter (· != n)).map (s.rsv k)).sum
  if 16 < z ∨ 192 < others + z then s else s.setFld (Reg.STK_SE_CHn_RSV k n) F.STK_SE_CHn_RSV.SLOTS z

/-- A write of STK_SE_CHn_BUDGET, and of STK_SE_CFG.TIMEOUT: 0 is ignored (Tables 8-7 and 8-12). -/
def writeChBudget (k n : Nat) (v : Word32) (s : State) : State :=
  let z := F.STK_SE_CHn_BUDGET.LIMIT.get v
  if z = 0 then s else s.setFld (Reg.STK_SE_CHn_BUDGET k n) F.STK_SE_CHn_BUDGET.LIMIT z

def writeSeCfg (k : Nat) (v : Word32) (s : State) : State :=
  let z := F.STK_SE_CFG.TIMEOUT.get v
  if z = 0 then s else s.setFld (Reg.STK_SE_CFG k) F.STK_SE_CFG.TIMEOUT z

/-- STK_SE_CHn_STAT as it reads: STATE and PEND from the channel (Table 8-14). -/
def readChStat (k n : Nat) (s : State) : Word32 :=
  let c := s.chan k n
  let st := match c.phase with
    | .idle => 0
    | .halted => 2
    | _ => 1
  let w := F.STK_SE_CHn_STAT.STATE.put (s.reg (Reg.STK_SE_CHn_STAT k n)) st
  F.STK_SE_CHn_STAT.PEND.put w (if c.held.isSome then 1 else 0)

/-- CRC_u_STAT as it reads: BUSY and OWNER from the channel that holds the unit (Table 10-14); a link
port's unit is never held by a descriptor. -/
def readCrcStat (u : Nat) (s : State) : Word32 :=
  let a := Reg.CRC_u_STAT u
  match (if u < 48 then s.crcHolder (u / 2) u else none) with
  | some n => F.CRC_u_STAT.OWNER.put (F.CRC_u_STAT.BUSY.put (s.reg a) 1) n
  | none => s.reg a

/-- Does a channel of the package hold it not done: an activation started in this tick is active, or a message of a
SEND waits for its answer (R38)? -/
def State.seBusy (s : State) : Bool :=
  s.stks.any fun (_, x) => x.chans.any fun (_, c) =>
    c.phase != .idle && c.phase != .halted &&
      (c.born == s.tick.bnd || (c.phase == .exec && c.desc.op == 5 && c.bursts.any (·.written)))

end Sys2Proof.Machine
end

