-- ==== Sys2Proof/Machine/Msg.lean ====
section
/-! DEFINITION. Taking in whole messages: membership and role checks, ACK and NACK, generation check
(R332, R338, R340-R342, R351). -/

namespace Sys2Proof.Machine

open Sys2Proof

/-! ### Types -/

/-- Types that never leave their link (Table 12-9). -/
def linkLocal (type : Nat) : Bool := type == 0x10 || type == 0x11 || type == 0x12

/-- Types of Table 12-9. -/
def knownType (type : Nat) : Bool := (1 ≤ type && type ≤ 6) || (0x10 ≤ type && type ≤ 0x17)

/-! ### Receipt -/

/-- The oldest message of link l that satisfies `p`, taken from the receive buffer; its flits' credits go
back to the sender (R338) (DEDUCED, log entry 59). -/
def takeMsg (l : Nat) (p : Msg → Bool) (s : State) : Option (Msg × State) :=
  match s.inbox.find? fun e => e.1 == l && p e.2 with
  | none => none
  | some e =>
    let s := { s with inbox := s.inbox.erase e }
    let v := vcOf e.2.type
    some (e.2, if l < 32 then
      updLink l (fun x => { x with freed := putAt x.freed v ((x.freed.getD v 0 + e.2.flits) % 65536) }) s else s)

/-- Does the message belong to an earlier life of its source (R332)? -/
def State.staleGen (s : State) (m : Msg) : Bool :=
  match s.memberIndex m.src with
  | none => false
  | some i =>
    let d := (F.GCTL_MEMB_VAL_HI.GEN.get (s.membHi i) + 65536 - m.sgen % 65536) % 65536
    decide (1 ≤ d ∧ d ≤ 32767)

/-- Is a message for this package: link-local, or named by its DST? -/
def State.mine (s : State) (m : Msg) : Bool := linkLocal m.type || m.dst == s.pkgId

/-- ROLE and EPOCH of a message match this package (R351). -/
def State.roleOk (s : State) (m : Msg) : Bool :=
  s.rolePkg m.role == some s.pkgId && m.epoch == s.roles.epoch

/-- A SEND, or a control message with a role, whose check against the role table fails (R351). -/
def State.roleStale (s : State) (m : Msg) : Bool :=
  (m.type == 4 || (decide (0x10 ≤ m.type) && m.role != 0xFFFF)) && !s.roleOk m

/-- The reason for which a message is refused before its own checks, if any (R342, R351): its role; in job mode its
source must be a member. -/
def State.refuseReason (s : State) (m : Msg) : Option Nat :=
  if s.roleStale m then some 1
  else if s.inJob && (s.memberIndex m.src).isNone then some 2
  else none

/-! ### Answers -/

/-- The master of link ingress at a port; the service controller's for the package itself (Table 9-2). -/
def ingressMaster (l : Nat) : Nat := if l < 32 then 0x480 + l / 4 else 0x489

def sendAck (l : Nat) (m : Msg) (s : State) : State :=
  let (tag, s) := newTag (ingressMaster l) s
  sendMsg { s.newMsg 5 m.src with tag := tag, body := bodyPut 36 m.tag } s

def sendNack (l reason : Nat) (m : Msg) (s : State) : State :=
  let (tag, s) := newTag (ingressMaster l) s
  sendMsg { s.newMsg 6 m.src with
    tag := tag, body := bodyPut 32 reason + bodyPut 34 s.roles.epoch + bodyPut 36 m.tag } s

/-- Send a control message that awaits an ACK or NACK. -/
def sendControl (m : Msg) (s : State) : Nat × State :=
  let (tag, s) := newTag 0x489 s
  (tag, (sendMsg { m with tag := tag } s).awaitAnswer tag m.type m.role)

/-! ### The message for a command -/

/-- Does the message come from a later life of its source than the membership table holds? That package has been reset
since (DEDUCED, log entry 86). -/
def State.freshGen (s : State) (m : Msg) : Bool :=
  match s.memberIndex m.src with
  | none => false
  | some i =>
    decide (32768 ≤ (F.GCTL_MEMB_VAL_HI.GEN.get (s.membHi i) + 65536 - m.sgen % 65536) % 65536)

/-- Take the oldest message of a type for this package from link l; discard it during a reset (R414), drop it
if its generation is old (R332), refuse it if its role is (R351), else do `f` with it. A root learns from a later
generation that the member was reset (R51). -/
def receive (l : InLink) (type : Nat) (f : Msg → State → State) (s : State) : Out :=
  match takeMsg l (fun m => m.type == type && s.mine m) s with
  | none => .next s
  | some (m, s) =>
    if s.inReset && !linkLocal m.type then .next (s.count (Reg.LNKp_CNT_DISC (portOfLink l)))
    else if decide (l.val < 32) && s.staleGen m then .next (s.count (Reg.LNKp_CNT_GENDROP (portOfLink l)))
    else
      let s := if decide (l.val < 32) && s.freshGen m then memberLost [m.src] s else s
      if decide (0x10 ≤ type ∧ type ≤ 0x14) && s.roleStale m then .next (sendNack l 1 m s) else .next (f m s)

/-- Receive a control message that is answered with ACK or NACK. -/
def receiveControl (l : InLink) (type : Nat) (f : Msg → State → State) (s : State) : Out :=
  receive l type (fun m s =>
    match s.refuseReason m with
    | some r => sendNack l r m s
    | none => sendAck l m (f m s)) s

end Sys2Proof.Machine
end

