-- ==== Sys2Proof/Machine/Power.lean ====
section
/-! DEFINITION. Power: regulators and gating, the package budget and the clock step, hold-back, and power
lending (R357-R379) (DEDUCED, log entry 34). -/

namespace Sys2Proof.Machine

open Sys2Proof

/-- An event of the power manager. -/
def pwrEvt (f : Fld) (s : State) : State := intEvent 3 (s.setFlag Reg.PWR_EVT f)

/-! ### The package budget (R364-R366) -/

/-- cap_eff in W (R364). -/
def State.capEff (s : State) : Nat :=
  (min ((s.power.cap : Int) + s.power.delta) (s.fld Reg.PWR_LIMIT F.PWR_LIMIT.LIMIT)).toNat

/-- The stack cap in W (R323). -/
def State.stackCap (s : State) : Nat := if s.fuses.gradeE then 75 else 95

/-- The level R389 takes for stack k. -/
def State.shadeOf (s : State) (k : Nat) : Nat := max (s.lv k).level (s.fld Reg.THM_CTL F.THM_CTL.SHADE_FLOOR)

/-- lim of a stack at shade level `l`, in 1/100 W (Table 13-3). -/
def State.lim (s : State) (l : Nat) : Nat := s.stackCap * (100 - 8 * l)

/-- HBM controllers in service. -/
def State.hbmLive (s : State) : Nat := (List.range 8).countP fun m => s.fld (Reg.MCm_STAT m) F.MCm_STAT.RATE != 0

/-- The wants of links, memory and compute in 1/700 W (Table 13-3). -/
def State.wants (s : State) : Nat × Nat × Nat :=
  let port (p : Nat) : Nat :=
    if s.flag (Reg.LNKp_CTL p) F.LNKp_CTL.ENABLE then
      4 + ((List.range 4).map fun k => (s.link (4 * p + k)).lanes).sum
    else 0
  (700 * (12 + ((List.range 8).map port).sum), 700 * 42 * s.hbmLive,
    7 * (((List.range 24).filter s.stackLive).map fun k => s.lim (s.shadeOf k)).sum)

/-- The grants of links, memory and compute at a cap of `cap` W and `vin` mV, in 1/700 W, and whether
VIN_CORE current cut the compute grant (R366). -/
def State.grants (s : State) (cap vin : Nat) : Nat × Nat × Nat × Bool :=
  let (wl, wm, wc) := s.wants
  let want (c : Nat) : Nat := if c = 0 then wl else if c = 1 then wm else wc
  let order := F.PWR_CTL.ORDER.get s.power.ctl
  let go := [order % 4, order / 4 % 4, order / 16].foldl (fun (acc : Nat × SMap Nat) c =>
    let g := min (want c) acc.1
    (acc.1 - g, sset (fun _ => 0) acc.2 c g)) (700 * cap, [])
  let g (c : Nat) : Nat := sget (fun _ => 0) go.2 c
  let room := 700 * (1500 * vin / 1000) - g 0 - g 1 * 2 / 7
  (g 0, g 1, min (g 2) room, decide (room < g 2))

/-- A write of PWR_CTL takes effect (Table 13-6). -/
def Power.takeCtl (p : Power) : Power := { p with ctl := p.ctlPend.getD p.ctl, ctlPend := none }

/-- Effect 3e: held lending and cap changes take effect, and the budget is granted (R364, R366, R378,
R379). `fresh`: the boundary is a free-mode one or boundary 0; `b`: its index. -/
def applyBudget (fresh : Bool) (b vin : Nat) (s : State) : State :=
  let p := s.power.takeCtl
  let p := { p with cap := p.capPend.getD p.cap, capPend := none }
  let room : Int := (s.fld Reg.PWR_LIMIT F.PWR_LIMIT.LIMIT : Int) - p.cap
  let p :=
    if fresh then { p with delta := 0, dec := none, inc := none }
    else
      let d := match p.dec with | some (n, x) => if n = b then min x p.delta else p.delta | none => p.delta
      let d := match p.inc with | some (n, x) => if n = b then min x room else d | none => d
      { p with delta := d, dec := p.dec.filter fun x => decide (b < x.1), inc := p.inc.filter fun x => decide (b < x.1) }
  let s := { s with power := p }
  let (gl, gm, gc, cut) := s.grants s.capEff vin
  let (wl, wm, wc) := s.wants
  updPower (fun p => { p with
    grantL := gl, grantM := gm, grantC := gc, allowDen := wc, cut := cut, vinMv := vin,
    linkSlots := 16 * gl / wl, memSlots := if wm = 0 then 16 else 16 * gm / wm }) s

/-! ### The clock step (R361, R362, R368) -/

/-- Core clock of step k in MHz (Table 13-2). -/
def stepMHz (k : Nat) : Nat := 1800 - 150 * k

/-- The fastest step the grade uses. -/
def State.gradeStep (s : State) : Nat := if s.fuses.gradeE then 2 else 0

/-- kmin of R368. -/
def State.stepMin (s : State) : Nat := max (F.PWR_CTL.STEP_MIN.get s.power.ctl) s.gradeStep

/-- P(k, j) ≤ num / den mW for stack k at step j, from the step in force during the last tick (R368). -/
def State.fits (s : State) (k j num den : Nat) : Bool :=
  let c := (s.meas.map (·.step)).getD s.power.step
  let (d, e) := if F.PWR_CTL.PREDICT.get s.power.ctl = 1 then (Config.fullPower k c, 1) else s.dynPower k
  let base := s.vf c * s.vf c * stepMHz c * e
  decide (d * (s.vf j * s.vf j * stepMHz j) * den + s.stackLeak k (s.vf j) * base * den ≤ num * base)

/-- Every live stack fits at step j under an allowance of `num k` mW over `den`. -/
def State.allFit (s : State) (j : Nat) (num : Nat → Nat) (den : Nat) : Bool :=
  ((List.range 24).filter s.stackLive).all fun k => s.fits k j (num k) den

/-- Effect 3f: shade levels are latched, allowances follow from the grants, and the clock step is the
fastest at which every stack fits (R366, R368, R389). -/
def chooseStep (s : State) : State :=
  let lvl (k : Nat) : Nat := s.shadeOf k
  let p := { s.power.takeCtl with shaded := [] }
  let s := { s with thermal := { s.thermal with
    shade := (List.range 24).foldl (fun m k => sset (fun _ => 0) m k (lvl k)) [] }, power := p }
  let s := forEach (List.range 24) holdCount s
  let num (k : Nat) : Nat := 10 * s.lim (lvl k) * p.grantC
  let den := p.allowDen
  let kmin := s.stepMin
  let k := (((List.range 7).drop kmin).find? fun j => s.allFit j num den).getD 6
  let bind :=
    if k = 0 then 0
    else if k = kmin then (if k = s.gradeStep then 1 else 2)
    else if !s.allFit (k - 1) (fun i => 10 * s.lim (lvl i)) 1 then 4
    else if p.cut then 5 else 3
  let s := forEach (List.range 24) (fun i s =>
    s.setReg (Reg.STK_PWR_STAT i) (BitVec.ofNat 32
      ((if s.stackLive i && den != 0 then num i / den / 1000 else 0) + 128 * lvl i))) s
  let s := s.setReg Reg.PWR_STAT (BitVec.ofNat 32 (k + 8 * bind + 64 * s.capEff))
  let s := s.setReg Reg.PWR_LEND (BitVec.ofNat 32
    ((s.power.delta % 65536).toNat + 65536 * ((max (-32767) (min 32767 (s.power.slack.tdiv 8))) % 65536).toNat))
  updPower (fun p => { p with
    step := k, allow := (List.range 24).foldl (fun m i => sset (fun _ => 0) m i (num i)) [] }) s

/-! ### Hold-back (R369, R389) -/

def State.allowOf (s : State) (k : Nat) : Nat := sget (fun _ => 0) s.power.allow k

/-- A stack whose mean power `mw` over 1 µs is above its allowance, or which is shaded above its latched
level, is held back. -/
def execStackHoldback (k : StackId) (mw : Nat) (s : State) : Out := ifUp s <|
  let s := if s.allowOf k < mw * s.power.allowDen then
      holdCount k (updPower (fun p => { p with hold := insertNat k p.hold }) s)
    else s
  .next (shadeHold k s)

/-- A stack at or below 95 % of its allowance for 1 µs leaves hold-back. -/
def execHoldbackExit (k : StackId) (mw : Nat) (s : State) : Out := ifUp s <|
  if 100 * mw * s.power.allowDen ≤ 95 * s.allowOf k then
    .next (holdCount k (updPower (fun p => { p with hold := p.hold.filter (· != k.val) }) s))
  else .next s

/-- Package power of `mw` over 10 µs above cap_eff, or VIN_CORE current of `ma` over 1 µs above 1,500 A,
holds every stack back. -/
def execPackageHoldback (mw ma : Nat) (s : State) : Out := ifUp s <|
  if 1000 * s.capEff < mw ∨ 1500000 < ma then
    .next (pwrEvt F.PWR_EVT.HOLD (forEach (List.range 24) holdCount
      (updPower (fun p => { p with hold := (List.range 24).filter s.stackLive }) s)))
  else .next s

/-! ### Regulators and clamps (R357-R359) -/

/-- A regulator samples its sensors and steers its output toward the target at the lowest of them, by at
most 2 mV/ns (R358). -/
def execRegulatorSample (dom : Fin 816) (sensors : List Nat) (s : State) : Out := ifUp s <|
  match s.domain dom, sensors with
  | (true, target), v :: vs =>
    let low : Int := vs.foldl min v
    let out : Int := (sget (fun _ => 0) s.power.vout dom : Nat)
    let step := max (-8) (min 8 ((target : Int) - low))
    .next (updPower (fun p => { p with vout := sset (fun _ => 0) p.vout dom (out + step).toNat }) s)
  | (true, _), [] => .next s
  | (false, _), _ => .next (updPower (fun p => { p with vout := sset (fun _ => 0) p.vout dom 0 }) s)

/-- More than 50 mV below target the core's clock skips periods, until the reading is again within 30 mV (R359). -/
def stretchClock (i target : Nat) (sensors : List Nat) (s : State) : State :=
  if (sget (fun _ => none) s.power.skipFrom i).isSome then
    if sensors.all fun v => decide (target ≤ v + 30) then skipCount i false s else s
  else if sensors.any fun v => decide (v + 50 < target) then skipCount i true s
  else s

/-- The shunt clamp of a core engages more than 30 mV below target and is counted; it releases once every
sensor has read within 10 mV of target for 16 ns (R359). -/
def clampCore (i target : Nat) (sensors : List Nat) (s : State) : State :=
  let setCalm (x : Option Nat) (p : Power) : Power := { p with calmFrom := sset (fun _ => none) p.calmFrom i x }
  if !s.power.clamped.contains i then
    if sensors.any fun v => decide (v + 30 < target) then
      (updPower (fun p => { p with clamped := insertNat i p.clamped }) s).count (Reg.CORE_CNT_CLAMP (i / 16) (i % 16))
    else s
  else if !sensors.all fun v => decide (target ≤ v + 10 ∧ v ≤ target + 10) then updPower (setCalm none) s
  else
    match sget (fun _ => none) s.power.calmFrom i with
    | none => updPower (setCalm (some s.now)) s
    | some t =>
      if s.now < t + 128 then s
      else updPower (fun p => { setCalm none p with clamped := p.clamped.filter (· != i) }) s

/-- The sensors of a core's domain are read (R359). -/
def execShuntClamp (c : Cid) (sensors : List Nat) (s : State) : Out := ifUp s <|
  let (on, target) := s.domain (ci c)
  if !on then .next s else .next (clampCore (ci c) target sensors (stretchClock (ci c) target sensors s))

/-- Leakage is evaluated at each domain's voltage and temperature (R370). -/
def execLeakageEval (s : State) : Out := ifUp s <|
  let s := leakSettle s
  .next (updPower (fun p => { p with leak := (List.range 816).foldl (fun m d =>
    sset (fun _ => 0) m d (s.leakAt d (s.domain d).2)) [] }) s)

/-! ### Gating (R360) -/

def setGate (i : Nat) (g : Gate) (s : State) : State :=
  updPower (fun p => { p with gates := sset (fun _ => Gate.reset) p.gates i g }) s

/-- What a stack still has to turn on. -/
def State.staged (s : State) (k : Nat) : List (Bool × Nat) := sget (fun _ => []) s.power.staging k

def setStaged (k : Nat) (xs : List (Bool × Nat)) (s : State) : State :=
  updPower (fun p => { p with staging := sset (fun _ => []) p.staging k xs }) s

/-- The order of further requests: slab before core, then ascending index. -/
def stageBefore (a b : Bool × Nat) : Bool := (a.1 && !b.1) || (a.1 == b.1 && decide (a.2 < b.2))

/-- Queue a domain behind the one being turned on. -/
def stageOn (k : Nat) (x : Bool × Nat) (s : State) : State :=
  match s.staged k with
  | [] => setStaged k [x] s
  | h :: t =>
    if (h :: t).contains x then s
    else setStaged k (h :: ((t.filter fun y => stageBefore y x) ++ [x] ++ t.filter fun y => !stageBefore y x)) s

/-- Drop a domain's request. -/
def stageDrop (k : Nat) (x : Bool × Nat) (s : State) : State := setStaged k ((s.staged k).filter (· != x)) s

/-- The core domain turns off: what the core held is gone (R360, R70, R236) (DEDUCED, log entry 35). -/
def coreOff (i : Nat) (s : State) : State :=
  let s := setGate i { s.gate i with coreOn := false } s
  let s := stageDrop (i / 16) (false, i % 16) s
  let s := { s with boot := { s.boot with corePend := s.boot.corePend.filter (· != i) } }
  s.setCore i (s.core i).cleared

/-- A write of CORE_PWR_CTL, judged as a whole (R360); a lost stack stays off (R320) (DEDUCED, log entry 35). -/
def writeCorePwr (i : Nat) (v : Word32) (s : State) : State :=
  let a := Reg.CORE_PWR_CTL (i / 16) (i % 16)
  let g := v.getLsbD 0
  let b := v.getLsbD 1
  let g0 := s.bit a 0
  let b0 := s.bit a 1
  let idle := !(s.core i).anySlot fun x => x.state != .empty
  if (g && !g0 && !(idle && s.noJob)) || (b && !g) || !s.stackLive (i / 16) then s.setFlag a F.CORE_PWR_CTL.IGN
  else
    let s := if v.getLsbD 4 then s.setFlag a F.CORE_PWR_CTL.IGN false else s
    let s := (s.setFlag a F.CORE_PWR_CTL.GATE g).setFlag a F.CORE_PWR_CTL.SLAB_GATE b
    let s := if g && !g0 then coreOff i s else s
    let s := if b && !b0 then setGate i { s.gate i with slabClosing := (s.gate i).slabOn } (stageDrop (i / 16) (true, i % 16) s)
      else s
    let s := if !b && b0 then
        let s := setGate i { s.gate i with slabClosing := false } s
        if (s.gate i).slabOn then s else stageOn (i / 16) (true, i % 16) s
      else s
    if !g && g0 then stageOn (i / 16) (false, i % 16) s else s

/-- The slab's L2 lines have been written back and invalidated, and its domain turns off (R360) (DEDUCED, log entry 35). -/
def execSlabPowerOff (c : Cid) (s : State) : Out := ifUp s <|
  let i := ci c
  let k := c.s.val
  if !(s.gate i).slabClosing then .next s
  else
    let mine (key : Nat) : Bool := key / 32 / 16384 == c.c.val
    let s := forEach ((s.stk k).l2.lines.filter fun e => mine e.1) (fun e s =>
      match e.2 with
      | some x => l2Flush k {} true e.1 x s
      | none => s) s
    let s := forEach ((s.stk k).l2.wb.filter fun e => e.slab == c.c.val) (fun _ s => l2WbAck k c.c s) s
    let s := updL2 k (fun x => { x with lines := sdrop mine x.lines }) s
    .next (setGate i { s.gate i with slabOn := false, slabClosing := false } s)

/-- A returned core: generation up, everything cleared, scratch zero, pending (R70, R143, R208, R236,
R271, Table 5-10, R441). -/
def coreReturn (i : Nat) (s : State) : State :=
  let base := scratchBase (i / 16) (i % 16)
  let s := zeroRange base 0x400000 s
  let s := s.setCore i (s.core i).cleared
  let s := s.setFlag (Reg.CORE_SR_SEED (i / 16) (i % 16)) F.CORE_SR_SEED.SEEDED false
  let s := releaseGuarantees (fun m => m == missMaster i) s
  let gen := (sget (fun _ => 0) s.boot.coreGen i + 1) % 65536
  { s with boot := { s.boot with
    coreGen := sset (fun _ => 0) s.boot.coreGen i gen,
    coreIn := s.boot.coreIn.filter (· != i),
    corePend := insertNat i s.boot.corePend } }

/-- A returned slab reads as zero (R236). -/
def slabReturn (k c : Nat) (s : State) : State :=
  let s := zeroRange (slabBase k c) 0x4000000 s
  updStk k (fun x => { x with merge := sdrop (fun key => key / 8 == c) x.merge }) s

/-- The domain a stack is turning on is usable (R360). -/
def execDomainPowerOn (k : StackId) (s : State) : Out := ifUp s <|
  match s.staged k with
  | [] => .next s
  | (slab, c) :: t =>
    let i := 16 * k.val + c
    let s := setStaged k t s
    if slab then .next (slabReturn k c (setGate i { s.gate i with slabOn := true, slabClosing := false } s))
    else .next (coreReturn i (setGate i { s.gate i with coreOn := true } s))

/-- CORE_PWR_CTL as it reads. -/
def readCorePwr (i : Nat) (s : State) : Word32 :=
  let w := (s.reg (Reg.CORE_PWR_CTL (i / 16) (i % 16))).toNat
  let g := s.gate i
  let up := s.unitsUp && !s.coreExcluded i
  BitVec.ofNat 32 (w % 4 + (if g.coreOn && up then 4 else 0) + (if g.slabOn && up then 8 else 0) + (if bitOf w 4 then 16 else 0))

/-! ### Power lending (R374-R379) -/

/-- The package's own role in lending: it is the tick root with LEND_EN at 1, in a job. -/
def State.coordinator (s : State) : Bool :=
  s.inJob && s.flag Reg.TICK_CTL F.TICK_CTL.ROOT && F.PWR_CTL.LEND_EN.get s.power.ctl == 1

/-- The tick root as this package knows it (R45). -/
def State.rootPkg (s : State) : Nat :=
  if s.flag Reg.TICK_CTL F.TICK_CTL.ROOT then s.pkgId else s.fld Reg.TICK_ROOT_ID F.TICK_ROOT_ID.PKG

/-- Can a message of feature `b` reach package d (Table 12-5)? -/
def State.canSend (s : State) (d b : Nat) : Bool :=
  match s.route d with
  | .self => true
  | .link l => s.featOn l b
  | _ => false

/-- NEED: the least increase of cap_eff for one faster step, or 0 (R375, R389). -/
def State.need (s : State) (vin : Nat) : Nat :=
  let k := s.power.step
  let lvl (i : Nat) : Nat := sget (fun _ => 0) s.thermal.shade i
  if k ≤ s.stepMin || (List.range 24).any (fun i => s.stackLive i && lvl i != 0) then 0
  else if !s.allFit (k - 1) (fun i => 10 * s.lim (lvl i)) 1 then 0
  else
    let limit := s.fld Reg.PWR_LIMIT F.PWR_LIMIT.LIMIT
    let ok (e : Nat) : Bool :=
      let g := (s.grants (s.capEff + e) vin).2.2.1
      s.allFit (k - 1) (fun i => 10 * s.lim (lvl i) * g) s.wants.2.2
    (firstBelow (limit - s.capEff + 1) fun e => decide (0 < e) && ok e).getD 0

/-- A signed value in two bytes or four of a body. -/
def bodyInt (n : Nat) (x : Int) : Nat := (x % (2 ^ (8 * n) : Nat)).toNat

/-- The LEND REPORT of this package for the boundary just passed (Table 13-4). -/
def State.lendReport (s : State) (vin : Nat) : Nat :=
  bodyPut 32 1 + bodyPut 40 s.tick.index + bodyPut 48 (bodyInt 4 s.power.slack) + bodyPut 52 (bodyInt 2 s.power.delta)
    + bodyPut 54 s.power.cap + bodyPut 56 (s.fld Reg.PWR_LIMIT F.PWR_LIMIT.LIMIT) + bodyPut 58 (s.need vin)
    + bodyPut 60 (s.fld Reg.PWR_LIMIT F.PWR_LIMIT.FLOOR)

/-- A report as the coordinator takes it from a LEND body. -/
def reportOf (m : Msg) : LendReport :=
  { bound := m.bodyAt 40 8, slack := signedOf 32 (m.bodyAt 48 4), delta := signedOf 16 (m.bodyAt 52 2),
    base := m.bodyAt 54 2, limit := m.bodyAt 56 2, need := m.bodyAt 58 2, floor := m.bodyAt 60 2 }

/-- Receive the oldest LEND message of one kind. -/
def receiveLend (kind : Nat) (f : Msg → State → State) (l : InLink) (s : State) : Out :=
  match s.inbox.find? fun e => e.1 == l.val && e.2.type == 0x15 && s.mine e.2 && e.2.bodyAt 32 1 == kind with
  | none => .next s
  | some e => receiveControl l 0x15 f { s with inbox := e :: s.inbox.erase e }

/-- LEND_REPORT: after a boundary of a job this package sends its REPORT; or the coordinator takes in the
oldest REPORT of link l (R375). -/
def execLendReport (send : Bool) (l : InLink) (s : State) : Out := ifUp s <|
  if send then
    let root := s.rootPkg
    if s.inJob && !s.power.reported && s.canSend root 3 then
      let s := updPower (fun p => { p with reported := true }) s
      .next (sendControl { s.newMsg 0x15 root with body := s.lendReport s.power.vinMv } s).2
    else .next s
  else
    receiveLend 1 (fun m => updPower (fun p => { p with
      reports := sset (fun _ => none) p.reports m.src (some (reportOf m)),
      incSent := sdrop (· == m.src) p.incSent })) l s

/-- The time of the coming boundary on this package's timebase, as far as it is known, in 8 ns units. -/
def State.comingAt (s : State) : Nat :=
  match s.tick.rel with
  | some r => r.time
  | none => s.tick.bnd + s.tick.period

/-- LEND messages of `kind` telling package d its new delta at boundary b. -/
def sendLend (kind d b : Nat) (delta : Int) (s : State) : Nat × State :=
  sendControl { s.newMsg 0x15 d with
    body := bodyPut 32 kind + bodyPut 40 b + bodyPut 52 (bodyInt 2 delta) } s

/-- A member's report of the present boundary, if it is in hand and the member can be reached. -/
def State.freshReport (s : State) (d : Nat) : Option LendReport :=
  (sget (fun _ => none) s.power.reports d).filter fun r => r.bound == s.tick.index && s.canSend d 3

/-- The delta the coordinator holds of member d (R377). -/
def State.deltaOf (s : State) (d : Nat) : Int :=
  match s.freshReport d with
  | some r => r.delta
  | none =>
    let last := ((sget (fun _ => none) s.power.reports d).map (·.delta)).getD 0
    if s.power.incSent.any fun e => e.1 == d then max last (sget (fun _ => 0) s.power.incSent d) else last

/-- LEND_ROUND: the coordinator sorts members and sends its DECs (R376, phase 1). -/
def execLendRound (s : State) : Out := ifUp s <|
  let b := s.tick.index + 1
  if !s.coordinator || (s.power.round.any fun r => r.bound == b) then .next s
  else
    let ms := (s.members.map (·.2)).dedup
    let ns := 8 * s.tick.period
    let lo : Int := s.fld Reg.PWR_LEND_CFG F.PWR_LEND_CFG.LO * ns
    let hi : Int := s.fld Reg.PWR_LEND_CFG F.PWR_LEND_CFG.HI * ns
    let q : Int := s.fld Reg.PWR_LEND_CFG F.PWR_LEND_CFG.QUANTUM
    let fresh := ms.filterMap fun d => (s.freshReport d).map fun r => (d, r)
    let up (x y : Nat × LendReport) : Bool := decide (x.2.slack < y.2.slack ∨ (x.2.slack = y.2.slack ∧ x.1 ≤ y.1))
    let down (x y : Nat × LendReport) : Bool := decide (y.2.slack < x.2.slack ∨ (x.2.slack = y.2.slack ∧ x.1 ≤ y.1))
    let recv := ((fresh.filter fun x => decide (0 < x.2.need ∧ 256 * x.2.slack < lo)).mergeSort up).take 8
    let don := (fresh.filter fun x => decide (hi < 256 * x.2.slack)).mergeSort down
    let ret := don.filter fun x => decide (0 < x.2.delta)
    let pool : Int := -((ms.map s.deltaOf).sum)
    let want : Int := (recv.map fun x => (x.2.need : Int)).sum
    let ask := (ret.map fun x => (x, true)) ++ ((don.filter fun x => !decide (0 < x.2.delta)).map fun x => (x, false))
    let go := ask.foldl (fun (acc : Int × List (Nat × Nat) × State) e =>
      let (have_, decs, s) := acc
      let ((d, r), isRet) := e
      let g := if isRet then min q r.delta else min q ((r.base : Int) + r.delta - r.floor)
      if want ≤ have_ || g ≤ 0 then acc
      else
        let (tag, s) := sendLend 2 d b (r.delta - g) s
        (have_ + g, decs ++ [(tag, g.toNat)], s)) (pool, [], s)
    .next (updPower (fun p => { p with
      pool := pool, round := some { bound := b, recv := recv.map fun x => (x.1, x.2.need), decs := go.2.1 } }) go.2.2)

/-- LEND_PHASE2: once every DEC is answered, or at t2, the coordinator sends its INCs (R376, phase 2). -/
def execLendPhase2 (s : State) : Out := ifUp s <|
  match s.power.round with
  | none => .next s
  | some r =>
    if r.phase2 || !s.coordinator || r.bound != s.tick.index + 1 then .next s
    else
      let lat := s.fld Reg.TICK_REL_LAT F.TICK_REL_LAT.UNITS
      let t2 := 64 * (s.comingAt - 2 * lat)
      let s := if r.decs.isEmpty then s else s.advanceTb t2
      let s := updPower (fun p => { p with round := some { r with phase2 := true } }) s
      .next (forEach r.recv (fun (d, need) s =>
        match s.freshReport d with
        | none => s
        | some x =>
          if decide ((need : Int) ≤ s.power.pool) && decide (x.delta + need ≤ (x.limit : Int) - x.base) &&
              decide (s.tb ≤ 64 * (s.comingAt - lat)) then
            let (_, s) := sendLend 3 d r.bound (x.delta + need) s
            updPower (fun p => { p with
              pool := p.pool - need, incSent := sput p.incSent d (x.delta + need) }) s
          else s) s)

/-- An ACK of a DEC before the coordinator's time of its boundary adds to the pool; a NACK does not, and is
recorded (R376, Table 13-11). -/
def lendAnswered (tag : Nat) (ok : Bool) (s : State) : State :=
  let s := if ok then s else pwrEvt F.PWR_EVT.NACK s
  match s.power.round with
  | none => s
  | some r =>
    match r.decs.find? fun x => x.1 == tag with
    | none => s
    | some (t, g) =>
      let good := ok && r.bound == s.tick.index + 1
      updPower (fun p => { p with
        pool := if good then p.pool + g else p.pool,
        round := some { r with decs := r.decs.erase (t, g) } }) s

/-- A member holds a DEC or INC for its boundary, or records that it came late (R378). -/
def holdLend (kind : Nat) (m : Msg) (s : State) : State :=
  let b := m.bodyAt 40 8
  let x := (b, signedOf 16 (m.bodyAt 52 2))
  if b ≤ s.tick.index then pwrEvt F.PWR_EVT.LATE s
  else if kind = 2 then updPower (fun p => { p with dec := some x }) s
  else updPower (fun p => { p with inc := some x }) s

/-- LEND_DEC (R378). -/
def execLendDec (l : InLink) (s : State) : Out := ifUp s <| receiveLend 2 (holdLend 2) l s

/-- LEND_INC (R378). -/
def execLendInc (l : InLink) (s : State) : Out := ifUp s <| receiveLend 3 (holdLend 3) l s

/-! ### Register effects (Tables 13-6 to 13-12) -/

/-- A write of PWR_CTL takes effect at the next boundary; ORDER must be a permutation of the three classes
and STEP_MIN at most 6. -/
def writePwrCtl (v : Word32) (s : State) : State :=
  let o := F.PWR_CTL.ORDER.get v
  let ok := decide (o % 4 < 3 ∧ o / 4 % 4 < 3 ∧ o / 16 < 3) && [o % 4, o / 4 % 4, o / 16].Nodup &&
    decide (F.PWR_CTL.STEP_MIN.get v < 7)
  if ok then
    let w := v &&& 0xFFF
    updPower (fun p => { p with ctlPend := some w }) (s.setReg Reg.PWR_CTL w)
  else pwrEvt F.PWR_EVT.IGN s

/-- A write of PWR_CAP applies at effect 3e of the next boundary. -/
def writePwrCap (v : Word32) (s : State) : State :=
  let c := F.PWR_CAP.CAP.get v
  if 1600 ≤ c ∧ c ≤ 3000 ∧ c ≤ s.fld Reg.PWR_LIMIT F.PWR_LIMIT.LIMIT then
    updPower (fun p => { p with capPend := some c }) (s.setReg Reg.PWR_CAP (v &&& 0xFFF))
  else pwrEvt F.PWR_EVT.IGN s

/-- A write of PWR_LEND_CFG. -/
def writeLendCfg (v : Word32) (s : State) : State :=
  if 10 ≤ F.PWR_LEND_CFG.QUANTUM.get v ∧ F.PWR_LEND_CFG.LO.get v < F.PWR_LEND_CFG.HI.get v then
    s.setReg Reg.PWR_LEND_CFG (v &&& 0xFFFFFF)
  else pwrEvt F.PWR_EVT.IGN s

end Sys2Proof.Machine
end

