-- ==== Sys2Proof/Machine/BondRows.lean ====
section
/-! DEFINITION. Loopback tests, clock, control and test bonds, and the loss of a stack (R312, R320). -/

namespace Sys2Proof.Machine

open Sys2Proof

def updBonds (k : Nat) (f : BondUnit → BondUnit) (s : State) : State :=
  updStk k (fun x => { x with bonds := f x.bonds }) s

/-- A write of STK_BOND_LB; START is taken only in free or stopped state with no test busy (R312). -/
def writeBondLb (k : Nat) (v : Word32) (s : State) : State :=
  let a := Reg.STK_BOND_LB k
  let start := v.getLsbD 8
  if start && (!s.noJob || (s.stk k).bonds.loop.isSome) then s.setFlag a F.STK_BOND_LB.IGN
  else
    let s := if v.getLsbD 11 then s.setFlag a F.STK_BOND_LB.IGN false else s
    let s := s.setReg a ((s.reg a &&& 0xC00) ||| (v &&& 0x7F))
    if start then updBonds k (fun u => { u with loop := some (bitsOf v.toNat 0 4, bitsOf v.toNat 4 3) }) s else s

/-- STK_BOND_LB as it reads. -/
def readBondLb (k : Nat) (s : State) : Word32 :=
  F.STK_BOND_LB.BUSY.put (s.reg (Reg.STK_BOND_LB k)) (if (s.stk k).bonds.loop.isSome then 1 else 0)

/-- The test ends; the bonds that failed a pattern, given as (lane group, lane), are declared dead in
ascending order (R312, R313). -/
def execLoopbackDone (k : StackId) (fails : List (Nat × Nat)) (s : State) : Out := ifUp s <|
  match (s.stk k).bonds.loop with
  | none => .next s
  | some (c, p) =>
    let mine := (fails.filter fun x => x.1 / 72 == p && decide (x.2 < 34)).mergeSort fun x y =>
      decide (x.1 < y.1 ∨ (x.1 = y.1 ∧ x.2 ≤ y.2))
    let new := mine.filter fun x => ((s.stk k).bonds.deadEntry ⟨c, x.1, x.2⟩).isNone
    let s := updBonds k (fun u => { u with loop := none }) s
    let s := s.setFlag (Reg.STK_BOND_LB k) F.STK_BOND_LB.FAIL (!new.isEmpty)
    .next (forEach new (fun x s => declareBond k ⟨c, x.1, x.2⟩ s) s)

/-- A copy that has disagreed with the other two for 4 cycles is masked, and one bond fault reported
(R320) (DEDUCED, log entry 63). -/
def execCtrlCopyMask (k : StackId) (sig : Fin 6552) (copy : Fin 3) (s : State) : Out := ifUp s <|
  let u := (s.stk k).bonds
  if u.lost || (sget (fun _ => none) u.masked sig).isSome then .next s
  else
    let s := updBonds k (fun u => { u with masked := sset (fun _ => none) u.masked sig (some copy.val) }) s
    .next (reportLocal 1 k 0x06 2 s)

/-- The two copies left of a signal disagree: the stack is lost (R320). Its cores trap, its channels halt,
its cores and slabs are gated off for good (DEDUCED, log entry 35, DEDUCED, log entry 63). -/
def loseStack (k : Nat) (s : State) : State :=
  let cores := (List.range 16).map (16 * k + ·)
  let s := forEach cores (fun i s =>
    let g := ((firstBelow 8 fun g => (s.slot i g).state == .running).getD 0)
    trap i g 0 .fetchEcc (s.slot i g).pc s) s
  let s := forEach (List.range 32) (fun n s =>
    if (s.chan k n).phase = .halted then s
    else haltCh k n 1 0 (s.pair (Reg.STK_SE_CHn_CUR_LO k n)) 0 s) s
  let s := forEach cores (fun i s =>
    let a := Reg.CORE_PWR_CTL (i / 16) (i % 16)
    let s := (s.setFlag a F.CORE_PWR_CTL.GATE).setFlag a F.CORE_PWR_CTL.SLAB_GATE
    setGate i { coreOn := false, slabOn := false } (coreOff i s)) s
  let s := setStaged k [] s
  let s := updStk k (fun x => { x with
    l2 := { x.l2 with lines := [], rr := [], fetches := [], waiting := [], wb := [] }, merge := [],
    bonds := { x.bonds with lost := true, loop := none } }) s
  let s := s.setFlag (Reg.STK_BOND_STAT k) F.STK_BOND_STAT.STACK_LOST
  let s := { s with boot := { s.boot with recDirty := true, stackPend := s.boot.stackPend.filter (· != k) } }
  reportLocal 1 k 0x06 3 s

/-- STACK_LOST: only a signal with a masked copy can lose the majority (R320). -/
def execStackLost (k : StackId) (sig : Fin 6552) (s : State) : Out := ifUp s <|
  let u := (s.stk k).bonds
  if u.lost || (sget (fun _ => none) u.masked sig).isNone then .next s else .next (loseStack k s)

end Sys2Proof.Machine
end

