-- ==== Sys2Proof/Machine/ICacheOps.lean ====
section
/-! DEFINITION. The instruction cache: fills, preload, pinning and invalidation (R140-R146). -/

namespace Sys2Proof.Machine

open Sys2Proof

/-- The line in way `w` of set `t`. -/
def ICache.way (ic : ICache) (t w : Nat) : Option ICLine := sget (fun _ => none) ic.lines (8 * t + w)

/-- The way a fill of set `t` takes (R140). -/
def ICache.victim (ic : ICache) (t : Nat) : Nat :=
  let pinned (w : Nat) : Bool := ((ic.way t w).map (·.pinned)).getD false
  match firstBelow 8 fun w => (ic.way t w).isNone with
  | some w => w
  | none =>
    let p := sget (fun _ => 0) ic.rr t
    match firstBelow 8 fun n => !pinned ((p + n) % 8) with
    | some n => (p + n) % 8
    | none => p

/-- Install a line in the way of its set that R140 chooses. A copy the set holds already becomes invalid, unless it
is pinned, which a fill never replaces (R140, R144) (DEDUCED, log entry 72). -/
def ICache.install (ic : ICache) (a : Nat) (x : ICLine) : ICache :=
  let t := icSet a
  let w := ic.victim t
  let lines := match ic.find a with
    | some (key, y) => if y.pinned then ic.lines else sdel ic.lines key
    | none => ic.lines
  { ic with lines := sset (fun _ => none) lines (8 * t + w) (some x),
            rr := sset (fun _ => 0) ic.rr t ((w + 1) % 8) }

/-- Pinned ways of set `t`, and pinned lines in all. -/
def ICache.pinnedIn (ic : ICache) (t : Nat) : Nat :=
  (List.range 8).countP fun w => ((ic.way t w).map (·.pinned)).getD false

def ICache.pinned (ic : ICache) : Nat := ic.lines.countP fun e => (e.2.map (·.pinned)).getD false

/-- The 16 words of a line from its 128 bytes. -/
def lineWords (bytes : List Byte) : List Word64 :=
  (List.range 16).map fun i => BitVec.ofNat 64 (leNat ((bytes.drop (8 * i)).take 8))

/-- The differences with which the cache stores a line's words: the bits that `up` names (DESIGN CHOICE, log entry 10). -/
def lineDev (up : Upsets) (l : Nat) : SMap (BitVec 72) :=
  (List.range 16).filterMap fun i =>
    let u := upAt up.icache (16 * l + i)
    if u = 0 then none else some (i, u)

/-- Read line `l` for an instruction fetch of core i: from the resident region of a slab, or from
DRAM through the stack L2. The bytes, the address of its first uncorrectable word if any, and the
state (R141, R142). -/
def readCodeLine (i l : Nat) (s : State) : List Byte × Option Nat × State :=
  let how : How := { master := missMaster i }
  match decode s (l * 128) with
  | .ok .dram => l2ReadLine how (i / 16) l s
  | .ok (.slab _ _ _) =>
    (List.range 16).foldl (fun (acc : List Byte × Option Nat × State) n =>
      let (bs, bad, s) := acc
      let (d, e, s) := sramLoad how (l * 128 + 8 * n) 8 s
      (bs ++ d, if bad.isNone && e then some (l * 128 + 8 * n) else bad, s)) ([], none, s)
  | _ => ([], some (l * 128), s)

/-- Does slot g of core i wait for line `l`? -/
def State.waitsFor (s : State) (i l g : Nat) : Bool := s.hasNext i g && (s.slot i g).pc.toNat / 128 == l

/-- Every group that waits for a line whose fill failed traps: the lowest slot is recorded, MULTI if
there are more (R93, R142). -/
def trapWaiting (i l : Nat) (cause : Cause) (pc : Nat) (s : State) : State :=
  match (List.range 8).filter (s.waitsFor i l) with
  | [] => s
  | g :: more =>
    let held := s.flag (Reg.CORE_TRAP_HI (i / 16) (i % 16)) F.CORE_TRAP_HI.VALID
    let s := trap i g 0 cause (BitVec.ofNat 40 pc) s
    if more.isEmpty || held then s else s.setFlag (Reg.CORE_TRAP_HI (i / 16) (i % 16)) F.CORE_TRAP_HI.MULTI

/-- A line a group missed on arrives: it is installed, or, uncorrectable at its source or refused by now, it traps
the groups that wait for it; a line still being fetched by the stack L2 has not arrived (R141, R142). -/
def execIcacheFill (c : Cid) (line : BitVec 33) (u : Upsets) (s : State) : Out := ifUp s <|
  let s := upset u s
  let i := ci c
  let l := line.toNat
  match (s.core i).ic.fetches.find? fun x => x.line == l with
  | none => .next s
  | some f =>
    if s.l2Fetching (i / 16) l || !s.coreRuns i then .next s
    else
      let s := updIc i (fun ic => { ic with fetches := ic.fetches.erase f }) s
      match decodeFetch s (l * 128) with
      | .err k =>
        let s := decodeErr { master := 1, stack := i / 16, core := i % 16 } (l * 128) k s
        .next (trapWaiting i l (if k = 5 then .regionRetired else .access) (l * 128) s)
      | .ok _ =>
        match f.bad with
        | some a => .next (trapWaiting i l .fetchEcc a s)
        | none =>
          let (d, bad, s) := readCodeLine i l s
          match bad with
          | some a => .next (trapWaiting i l .fetchEcc a s)
          | none =>
            let x : ICLine := { tag := icTag (l * 128), pinned := false, words := lineWords d, dev := lineDev u l,
                                refetched := f.refetch }
            .next (updIc i (fun ic => ic.install (l * 128) x) s)

/-! ### CORE_IC_CTL (R143, R144) -/

/-- Is a preload running (CORE_IC_STAT.BUSY)? -/
def ICache.busy (ic : ICache) : Bool := ic.preload.isSome

/-- May CORE_IC_CTL act: no preload runs and every slot is empty or armed? -/
def State.icWritable (s : State) (i : Nat) : Bool := !(s.core i).ic.busy && s.slotsIdle i

def icIgn (i : Nat) (s : State) : State := s.setFlag (Reg.CORE_IC_STAT (i / 16) (i % 16)) F.CORE_IC_STAT.IGN

/-- INVAL, and the clears of R143: every line, and every fetch outstanding with what it will bring, is dropped
(DEDUCED, log entry 73). -/
def icInvalidate (i : Nat) (s : State) : State := updIc i (fun _ => ICache.reset) s

def icUnpin (i : Nat) (s : State) : State :=
  updIc i (fun ic => { ic with lines := ic.lines.map fun e => (e.1, e.2.map fun x => { x with pinned := false }) }) s

/-- Start a preload of LINES lines from ADDR (R144). -/
def icPreloadStart (pin : Bool) (i : Nat) (s : State) : State :=
  let k := i / 16
  let c := i % 16
  let n := s.fld (Reg.CORE_IC_PL_LEN k c) F.CORE_IC_PL_LEN.LINES
  if n = 0 || 2048 < n then icIgn i s
  else
    let a := (s.reg (Reg.CORE_IC_PL_ADDR k c)).toNat * 256
    let stat := Reg.CORE_IC_STAT k c
    let s := (s.setFld stat F.CORE_IC_STAT.UNPINNED 0).setFlag stat F.CORE_IC_STAT.ERR false
    updIc i (fun ic => { ic with preload := some ((List.range n).map (a / 128 + ·)), preloadPin := pin }) s

/-- A write of CORE_IC_CTL: INVAL acts before PRELOAD (Table 4-17, R143, R144). -/
def writeIcCtl (i : Nat) (v : Word32) (s : State) : State :=
  let pinned := s.setReg (Reg.CORE_IC_CTL (i / 16) (i % 16)) (v &&& 2)
  if v &&& 0xD = 0 then pinned
  else if !s.icWritable i then icIgn i s
  else
    let s := pinned
    let s := if v.getLsbD 3 then icInvalidate i s else s
    let s := if v.getLsbD 2 then icUnpin i s else s
    if v.getLsbD 0 then icPreloadStart (v.getLsbD 1) i s else s

/-- Does a DRAM line that a preload needs wait for the stack L2: it is being fetched, or all 64 fetches of its home
slab are in use (R229)? -/
def State.preloadWaits (s : State) (i l : Nat) : Bool :=
  let k := i / 16
  match decodeFetch s (l * 128) with
  | .ok .dram => s.l2Fetching k l ||
      (!((s.l2Held k l).map fun x => x.has 0 128).getD false && s.l2Allocs k 2 l &&
        decide (64 ≤ ((s.stk k).l2.fetches.filter fun f => f.slab == homeSlab l).length))
  | _ => false

/-- The next line of a preload: refused or uncorrectable, it sets ERR; its set full of pinned ways, it
counts in UNPINNED; else it is installed (R144). -/
def preloadLine (u : Upsets) (pin : Bool) (i l : Nat) (s : State) : State :=
  let k := i / 16
  let stat := Reg.CORE_IC_STAT k (i % 16)
  match decodeFetch s (l * 128) with
  | .err kind =>
    (decodeErr { master := 1, stack := k, core := i % 16 } (l * 128) kind s).setFlag stat F.CORE_IC_STAT.ERR
  | .ok t =>
    if 7 ≤ (s.core i).ic.pinnedIn (icSet (l * 128)) then s.bump stat F.CORE_IC_STAT.UNPINNED
    else
      let s :=
        match t with
        | .dram =>
          let full := ((s.l2Held k l).map fun x => x.has 0 128).getD false
          let s := l2Count k 2 full s
          if full then l2Touch k l s
          else if !s.l2Allocs k 2 l then s
          else l2Fill k { slab := homeSlab l, line := l, aclass := 2, waiters := [.fetch i] } s
        | _ => s
      let (d, bad, s) := readCodeLine i l s
      match bad with
      | some _ => s.setFlag stat F.CORE_IC_STAT.ERR
      | none =>
        updIc i (fun ic => ic.install (l * 128)
          { tag := icTag (l * 128), pinned := pin, words := lineWords d, dev := lineDev u l }) s

/-- A preload fetch completes (R144). -/
def execIcPreloadLine (c : Cid) (u : Upsets) (s : State) : Out := ifUp s <|
  let s := upset u s
  let i := ci c
  match (s.core i).ic.preload with
  | none => .next s
  | some [] => .next (updIc i (fun ic => { ic with preload := none }) s)
  | some (l :: rest) =>
    if s.preloadWaits i l then .next s
    else
      let s := updIc i (fun ic => { ic with preload := if rest.isEmpty then none else some rest }) s
      .next (preloadLine u (s.core i).ic.preloadPin i l s)

end Sys2Proof.Machine
end

