-- ==== Sys2Proof/Machine/Claims.lean ====
section
/-! DEFINITION. The claim unit (R395-R400), and stop points and their snapshot (R410, R411). -/

namespace Sys2Proof.Machine

open Sys2Proof

/-! ### Claim queues -/

def State.claimQ (s : State) (k q : Nat) : ClaimQ := sget (fun _ => ClaimQ.reset) (s.stk k).claims q

def setClaimQ (k q : Nat) (x : ClaimQ) (s : State) : State :=
  updStk k (fun y => { y with claims := sset (fun _ => ClaimQ.reset) y.claims q x }) s

/-- N of queue q of stack k. -/
def State.claimN (s : State) (k q : Nat) : Nat := s.fld (Reg.STK_CLAIMq_CFG k q) F.STK_CLAIMq_CFG.COUNT

/-- The size of an arrival slot (R398). -/
def State.claimSize (s : State) (k q : Nat) : Nat := 2 ^ (6 + s.fld (Reg.STK_CLAIMq_CFG k q) F.STK_CLAIMq_CFG.SZ)

/-- Re-arm a queue (R400). -/
def claimRearm (k q : Nat) (s : State) : State := setClaimQ k q ClaimQ.reset s

/-- What a claim returns: an item, WAIT or NONE. -/
inductive Claim where
  | item (i : Nat)
  | wait
  | none
  deriving DecidableEq, Repr

/-- The word of TAKE for a claim (Table 15-9). -/
def Claim.word : Claim → Word32
  | .item i => BitVec.ofNat 32 i
  | .wait => 0x40000000#32
  | .none => 0x80000000#32

/-- The next item of core c's fixed sequence, below `n` (R397). -/
def exactItem (cores n c : Nat) (x : ClaimQ) : Option Nat :=
  let r := (List.range c).countP fun i => bitOf cores i
  let m := (List.range 16).countP fun i => bitOf cores i
  let i := r + sget (fun _ => 0) x.perCore c * m
  if i < n then some i else none

/-- The answer to a claim of core `c` (16: host and service controller), before it is recorded (R395-R397,
R399) (DEDUCED, log entry 17). -/
def State.claimOf (s : State) (k q c : Nat) : Claim :=
  let n := s.claimN k q
  let cores := s.fld (Reg.STK_CLAIMq_CORES k q) F.STK_CLAIMq_CORES.CORES
  let x := s.claimQ k q
  let arrival := s.flag (Reg.STK_CLAIMq_CFG k q) F.STK_CLAIMq_CFG.KIND
  if n = 0 || s.stackExcluded k || !s.stackAdmitted k || !s.stackLive k then .none
  else if (decide (c < 16) && !bitOf cores c) || (c == 16 && s.exact) then .none
  else if s.exact then
    match exactItem cores n c x with
    | none => .none
    | some i => if arrival && !x.everPosted.contains i then .wait else .item i
  else if arrival then
    match x.posted with
    | [] => .wait
    | i :: _ => .item i
  else if x.returned < n then .item x.returned else .none

/-- A claim: its answer, and the queue after it; the claim that returns the N-th item re-arms it (R395,
R400) (DEDUCED, log entry 16, DEDUCED, log entry 17). -/
def takeClaim (k q c : Nat) (s : State) : Word32 × State :=
  let cores := s.fld (Reg.STK_CLAIMq_CORES k q) F.STK_CLAIMq_CORES.CORES
  let r := s.claimOf k q c
  let s := if (decide (c < 16) && !bitOf cores c) || (c == 16 && s.exact) then
      s.setFlag (Reg.STK_CLAIMq_STAT k q) F.STK_CLAIMq_STAT.NOTCORE
    else s
  match r with
  | .item i =>
    let x := s.claimQ k q
    let x : ClaimQ := { x with
      returned := x.returned + 1,
      perCore := sset (fun _ => 0) x.perCore c (sget (fun _ => 0) x.perCore c + 1),
      posted := x.posted.filter (· != i) }
    (r.word, if x.returned = s.claimN k q then claimRearm k q s else setClaimQ k q x s)
  | _ => (r.word, s)

/-- CLAIM_TAKE: a read of STK_CLAIMq_TAKE by a core of the stack, or by the host as core 16 (R395). -/
def execClaimTake (k : StackId) (q : Fin 4) (core : Fin 17) (s : State) : Out := ifUp s <|
  let (w, s) := takeClaim k q core s
  .next { s with answer := .data (leBytes 4 w.toNat) }

/-- Bytes [a, a + n) of a WRITE or SEND have been accepted: arrival queues whose window they meet count them
(R398). -/
def claimArrive (a n : Nat) (s : State) : State :=
  if n = 0 then s
  else
    forEach (List.range 96) (fun j s =>
      let k := j / 4
      let q := j % 4
      let cfg := Reg.STK_CLAIMq_CFG k q
      if s.reg cfg = 0 || !s.flag cfg F.STK_CLAIMq_CFG.KIND then s
      else
        let base := s.pair (Reg.STK_CLAIMq_BASE_LO k q)
        let size := s.claimSize k q
        let lo := max a base
        let hi := min (a + n) (base + s.claimN k q * size)
        if hi ≤ lo then s
        else
          let first := (lo - base) / size
          let stat := Reg.STK_CLAIMq_STAT k q
          if first != (hi - 1 - base) / size then s.setFlag stat F.STK_CLAIMq_STAT.SPAN
          else
            let x := s.claimQ k q
            let old := sget (fun _ => 0) x.bytes first
            let new := old + (hi - lo)
            let s := if size < new then s.setFlag stat F.STK_CLAIMq_STAT.DUP else s
            let x := { x with bytes := sset (fun _ => 0) x.bytes first (min new size) }
            let full := decide (old < size ∧ size ≤ new)
            setClaimQ k q (if full then
              { x with posted := x.posted ++ [first], everPosted := insertNat first x.everPosted } else x) s) s

/-- A write of CFG, CORES or BASE of a claim queue, numbered 0 to 3 (R400, Table 15-9). -/
def writeClaimCfg (k q reg : Nat) (v : Word32) (s : State) : State :=
  let a := Reg.STK_CLAIMq_CFG k q + 4 * reg
  if !s.noJob || (reg == 0 && decide (10 < F.STK_CLAIMq_CFG.SZ.get v)) then
    s.setFlag (Reg.STK_CLAIMq_STAT k q) F.STK_CLAIMq_STAT.IGN
  else
    let m : Word32 := if reg = 0 then 0xFFFF001F else if reg = 1 then 0xFFFF else if reg = 2 then 0xFFFFFFC0 else 0xFF
    claimRearm k q (s.setReg a (v &&& m))

/-- A write of STK_CLAIMq_STAT. -/
def writeClaimStat (k q : Nat) (v : Word32) (s : State) : State :=
  let a := Reg.STK_CLAIMq_STAT k q
  let s := s.setReg a (s.reg a &&& ~~~(v &&& 0xF0000#32))
  if v.getLsbD 20 then claimRearm k q s else s

/-- STK_CLAIMq_STAT as it reads. -/
def readClaimStat (k q : Nat) (s : State) : Word32 :=
  F.STK_CLAIMq_STAT.CLAIMED.put (s.reg (Reg.STK_CLAIMq_STAT k q)) (s.claimQ k q).returned

/-! ### Stop points -/

/-- The live digests are copied to the stop registers, with what boundaries since the stop have taken from them
(R411). -/
def takeSnapshot (i : Nat) (s : State) : State :=
  let s := forEach (List.range 16) (fun k s =>
    s.setPair (Reg.CORE_GLINT_STOPk_LO (i / 16) (i % 16) k)
      (sget (fun _ => 0) (s.core i).kept k + sget (fun _ => 0) (s.core i).glint k).toNat) s
  updCore i (fun c => { c with stopDrain := false, kept := [] }) s

/-- Everything core i has issued has completed and its tensor command queue is empty. -/
def State.coreDrained (s : State) (i : Nat) : Bool :=
  let c := s.core i
  c.loads.isEmpty && c.tns.cmdq.isEmpty && c.tns.loading.isNone && c.tns.streaming.isNone && c.tns.rows.isEmpty &&
    c.tns.tdrn.isNone && c.tns.tclr.isNone

/-- CORE_STOP_HIT: the K-th instruction of the counted slot has issued; the core issues nothing further
(R410). -/
def execCoreStopHit (c : Cid) (s : State) : Out := ifUp s <|
  .next (stopCore (ci c) s)

/-- GLINT_SNAPSHOT: once the core has drained, or 65,536 core cycles after the stop (R411). -/
def execGlintSnapshot (c : Cid) (late : Bool) (s : State) : Out := ifUp s <|
  let i := ci c
  if !(s.core i).stopDrain then .next s
  else if s.coreDrained i then .next (takeSnapshot i s)
  else if late then .next ((takeSnapshot i s).setFlag (Reg.CORE_STOP_CTL c.s c.c) F.CORE_STOP_CTL.PARTIAL)
  else .next s

end Sys2Proof.Machine
end

