-- ==== Sys2Proof/Machine/Links.lean ====
section
/-! DEFINITION. Ozmond Link: link states, identity, frames, retry, credits, routes and time sync
(R324-R356). -/

namespace Sys2Proof.Machine

open Sys2Proof

def LinkState.code : LinkState → Nat
  | .disabled => 0
  | .detect => 1
  | .train => 2
  | .align => 3
  | .ident => 4
  | .active => 5
  | .incompat => 6
  | .down => 7

/-! ### Ports and links (R325) -/

/-- Links of port p (Table 12-2). -/
def State.linksOf (s : State) (p : Nat) : Nat := 2 ^ s.fld (Reg.LNKp_CTL p) F.LNKp_CTL.SPLIT

/-- Does the port's split form link l? -/
def State.linkExists (s : State) (l : Nat) : Bool := decide (l % 4 < s.linksOf (l / 4))

def State.portOn (s : State) (p : Nat) : Bool := s.flag (Reg.LNKp_CTL p) F.LNKp_CTL.ENABLE

/-- Set one of the event bits of a link's port: the bits of field `f` by link number. -/
def lnkEvt (f : Fld) (l : Nat) (s : State) : State := intEvent 6 (s.setBit (Reg.LNKp_EVT (l / 4)) (f.lo + l % 4))

def splitErr (p : Nat) (s : State) : State := intEvent 6 (s.setFlag (Reg.LNKp_EVT p) F.LNKp_EVT.SPLIT_ERR)

/-- LNKp_LSTATk as it reads (Table 12-13). -/
def readLstat (l : Nat) (s : State) : Word32 :=
  let x := s.link l
  F.LNKp_LSTATk.LANES.put (F.LNKp_LSTATk.STATE.put (s.reg (Reg.LNKp_LSTATk (l / 4) (l % 4))) x.state.code) x.lanes

/-! ### Routes (R344, R349) -/

/-- A write of LNK_RTd_LO is held until the next write of HI. -/
def writeRouteLo (d : Nat) (v : Word32) (s : State) : State :=
  { s with routeLo := sset (fun _ => none) s.routeLo d (some v) }

/-- Stage entry d with these halves. -/
def stageRoute (d : Nat) (lo hi : Word32) (s : State) : State :=
  { s with routeStaged := sset (fun _ => none) s.routeStaged d (some (lo.toNat, (hi &&& 0x3F).toNat)) }

/-- A write of LNK_RTd_HI stages the entry (R349, Table 12-20). -/
def writeRouteHi (d : Nat) (v : Word32) (s : State) : State :=
  let lo := (sget (fun _ => none) s.routeLo d).getD (s.reg (Reg.LNK_RTd_LO d))
  stageRoute d lo v { s with routeLo := sset (fun _ => none) s.routeLo d none }

/-- LNK_RTd_HI as it reads. -/
def readRouteHi (d : Nat) (s : State) : Word32 :=
  F.LNK_RTd_HI.PEND.put (s.reg (Reg.LNK_RTd_HI d)) (if (sget (fun _ => none) s.routeStaged d).isSome then 1 else 0)

/-- The route entries with something in force. -/
def State.routesUsed (s : State) : List Nat :=
  (s.regs.filterMap fun e =>
    if 0x88000 ≤ e.1 ∧ e.1 < 0x90000 then some ((e.1 - 0x88000) / 8) else none).dedup

/-- Effect 3a: staged entries are applied, entries whose PRIMARY left ACTIVE since the last boundary become
invalid, and such links leave every ALT (R349). -/
def applyRoutes (s : State) : State :=
  let s := forEach s.routeStaged (fun e s =>
    match e.2 with
    | some (lo, hi) => (s.setReg (Reg.LNK_RTd_LO e.1) (BitVec.ofNat 32 lo)).setReg (Reg.LNK_RTd_HI e.1) (BitVec.ofNat 32 hi)
    | none => s) s
  let s := { s with routeStaged := [] }
  let gone := (List.range 32).filter fun l => (s.link l).lost
  let s := if gone.isEmpty then s else
    forEach s.routesUsed (fun d s =>
      let hi := Reg.LNK_RTd_HI d
      let s := if gone.contains (s.fld hi F.LNK_RTd_HI.PRIMARY) then s.setFlag hi F.LNK_RTd_HI.VALID false else s
      forEach gone (fun l s => s.clrBit (Reg.LNK_RTd_LO d) l) s) s
  forEach gone (fun l s => updLink l (fun x => { x with lost := false }) s) s

/-! ### Loss (R328, R350) -/

/-- The members of whose candidate links none is ACTIVE, by package ID (R350). -/
def State.cutOff (s : State) : List Nat :=
  ((s.members.map (·.2)).dedup.filter fun d =>
    d != s.pkgId &&
      !((if s.exact then [s.fld (Reg.LNK_RTd_HI d) F.LNK_RTd_HI.PRIMARY] else s.candidates d).any s.linkUp)).mergeSort

/-- 12-bit package IDs packed from bit 0. -/
def packIds : List Nat → Nat
  | [] => 0
  | d :: t => d % 4096 + 4096 * packIds t

/-- LOSS messages for the listed members, at most 20 each (R350). -/
def sendLosses : Nat → List Nat → State → State
  | 0, _, s => s
  | _, [], s => s
  | n + 1, ds, s =>
    let part := ds.take 20
    let (tag, s) := newTag 0x489 s
    let s := sendMsg { s.newMsg 0x14 s.rootPkg with
      tag := tag, body := bodyPut 32 part.length + bodyPut 33 (packIds part) } s
    sendLosses n (ds.drop 20) s

/-- The service controller's link policy when link l has left ACTIVE (R422). -/
def policyLoss (l : Nat) (s : State) : State :=
  if !s.boot.reroute then s
  else
    forEach s.routesUsed (fun d s =>
      let lo := s.reg (Reg.LNK_RTd_LO d)
      let hi := s.reg (Reg.LNK_RTd_HI d)
      let rest := lo &&& ~~~BitVec.ofNat 32 (2 ^ l)
      if F.LNK_RTd_HI.PRIMARY.get hi = l then
        match firstBelow 32 fun a => rest.getLsbD a && s.linkUp a with
        | some a => stageRoute d (lo &&& ~~~BitVec.ofNat 32 (2 ^ a)) (F.LNK_RTd_HI.PRIMARY.put hi a) s
        | none => s
      else if lo.getLsbD l then stageRoute d rest hi s else s) s

def State.nbr (s : State) (l : Nat) : Nbr := sget (fun _ => Nbr.reset) s.boot.nbrs l

/-- The service controller updates its neighbour entry of link l (R432). -/
def setNbr (l : Nat) (x : Nbr) (s : State) : State :=
  let s := { s with boot := { s.boot with nbrs := sset (fun _ => Nbr.reset) s.boot.nbrs l x } }
  intEvent 5 (s.setFlag Reg.SVC_EVT F.SVC_EVT.NBR)

/-- Messages with a flit on link l at this end (R328). -/
def Link.messages (x : Link) : Nat :=
  let held := x.replay.flatMap fun f => f.2.slots.filterMap id
  let isHead (f : Flit) : Bool := match f with | .head _ => true | .data _ => false
  let tail (fs : List Flit) : Nat := match fs with | .data _ :: _ => 1 | _ => 0
  let wire := match x.wire with
    | .head _ :: _ => 1
    | .data _ :: _ => if x.replay.isEmpty then 1 else 0
    | [] => 0
  x.queue.length + wire + held.countP isHead + tail held + (if x.rx.isEmpty then 0 else 1)

/-- Everything on link l is discarded and counted, and leaves the egress point (R328). -/
def discardLink (l : Nat) (s : State) : State :=
  let n := (s.link l).messages + s.inbox.countP fun e => e.1 == l
  let ages := (s.link l).queue.filterMap (·.req)
  let s := updPoint (8 + l / 4) (fun x => { x with
    waiting := x.waiting.filter fun r => !ages.contains r.age,
    queue := x.queue.filter fun r => !ages.contains r.age }.backlogSettle) s
  let s := { s with inbox := s.inbox.filter fun e => e.1 != l }
  s.count (Reg.LNKp_CNT_DISC (l / 4)) n

/-- Link l leaves what it was doing for state `next`; `loss`: by R328 (DEDUCED, log entry 36). -/
def linkLeave (l : Nat) (next : LinkState) (loss : Bool) (s : State) : State :=
  let was := (s.link l).state == .active
  let s := discardLink l s
  let s := updLink l (fun x => { Link.reset with state := next, since := s.now, lost := x.lost || was }) s
  let s := s.setFld (Reg.LNKp_LSTATk (l / 4) (l % 4)) F.LNKp_LSTATk.REV 0
  if !was then s
  else
    let s := lnkEvt F.LNKp_EVT.DOWN l s
    let s := if loss then reportLocal 5 l 0x08 0 (s.count (Reg.LNKp_CNT_DOWN (l / 4))) else s
    let s := setNbr l { s.nbr l with state := next } s
    let s := policyLoss l s
    if s.inJob then sendLosses 13 s.cutOff s else s

/-- LINK_LOSS: an ACTIVE link is lost (R328). -/
def execLinkLoss (l : LinkId) (s : State) : Out := ifUp s <|
  if (s.link l).state == .active then .next (linkLeave l .down true s) else .next s

/-! ### States and training (R326, R327) -/

/-- Move a link to `st`. -/
def linkEnter (l : Nat) (st : LinkState) (s : State) : State :=
  updLink l (fun x => { x with state := st, since := s.now }) s

/-- A write of LNKp_CTL (Table 12-11, R325, R326) (DEDUCED, log entry 36). -/
def writeLnkCtl (p : Nat) (v : Word32) (s : State) : State :=
  let a := Reg.LNKp_CTL p
  let was := s.portOn p
  let on := v.getLsbD 0
  let split := F.LNKp_CTL.SPLIT.get v
  let w := (s.reg a &&& 0x6) ||| (v &&& 0x29)
  let w := if !was && !on && split != 3 then F.LNKp_CTL.SPLIT.put w split else w
  let s := s.setReg a w
  let mine := (List.range (s.linksOf p)).map (4 * p + ·)
  let s := forEach mine (fun l s =>
    if was && !on then linkLeave l .disabled false s
    else if !was && on && (s.link l).state == .disabled then linkEnter l .detect s
    else s) s
  if v.getLsbD 4 then forEach mine (fun l s => linkLeave l .down false s) s else intEvent 6 s

/-- Lanes of link l, numbered within it: the whole link, then the narrower sets of R327. -/
def laneSets (n : Nat) : List (List Nat) :=
  let part (lo k : Nat) : List Nat := (List.range k).map (lo + ·)
  if n = 16 then [part 0 16, part 0 8, part 8 8, part 0 4, part 4 4, part 8 4, part 12 4]
  else if n = 8 then [part 0 8, part 0 4, part 4 4]
  else [part 0 n]

/-- Is the DEGRADE feature offered on link l: by this package, and by the partner as far as its last identity tells
(R327, Table 12-5) (DEDUCED, log entry 36)? -/
def State.degradeOn (s : State) (l : Nat) : Bool :=
  s.bit Reg.LNK_FEAT_EN 4 && (!(s.nbr l).known || s.linkFeat l 4)

/-- LINK_DETECT: signal on every lane, with SERDES_REFCLK present (R326, R492). -/
def execLinkDetect (l : LinkId) (s : State) : Out := ifUp s <|
  if (s.link l).state != .detect || s.lands.intOsc then .next s
  else
    let p := l.val / 4
    let sets := laneSets (16 / s.linksOf p)
    let narrow := s.flag (Reg.LNKp_CTL p) F.LNKp_CTL.DEGRADE_EN && s.degradeOn l
    .next (linkEnter l .train (updLink l (fun x =>
      { x with tryLanes := sets.headD [], tries := if narrow then sets.tail else [] }) s))

/-- LINK_TRAIN_DONE: every lane of the try is trained (R326). -/
def execLinkTrainDone (l : LinkId) (s : State) : Out := ifUp s <|
  if (s.link l).state != .train then .next s
  else .next (linkEnter l .align (updLink l (fun x => { x with lanes := x.tryLanes.length, tries := [] }) s))

/-- LINK_TRAIN_FAIL: the try fails; the next narrower one starts, or the link goes DOWN (R325-R327). -/
def execLinkTrainFail (l : LinkId) (mismatch : Bool) (s : State) : Out := ifUp s <|
  if (s.link l).state != .train then .next s
  else
    let s := if mismatch then splitErr (l.val / 4) s else s
    match (s.link l).tries with
    | t :: rest => .next (linkEnter l .train (updLink l (fun x => { x with tryLanes := t, tries := rest }) s))
    | [] => .next (linkLeave l .down false s)

/-- LINK_ALIGNED: valid frames for 1 µs (R326). -/
def execLinkAligned (l : LinkId) (s : State) : Out := ifUp s <|
  if (s.link l).state != .align then .next s
  else .next (linkEnter l .ident (updLink l (fun x => { x with identAt := s.now, identLeft := 1, lastGood := s.now }) s))

/-- LINK_DOWN_EXPIRY: 10 ms after entering DOWN (R326). -/
def execLinkDownExpiry (l : LinkId) (s : State) : Out := ifUp s <|
  let x := s.link l
  if x.state != .down then .next s
  else
    let s := s.advance (x.since + msec 10)
    .next (linkEnter l (if s.portOn (l.val / 4) && s.linkExists l then .detect else .disabled) s)

/-! ### Identity (R329-R331) -/

/-- The body of this package's IDENT on link l (Table 12-4). -/
def State.identBody (s : State) (l : Nat) : Nat :=
  bodyPut 32 s.fuses.serial.toNat
    + bodyPut 40 (s.pkgId + (if s.flag Reg.GCTL_PKG_ID F.GCTL_PKG_ID.SET then 2 ^ 15 else 0))
    + bodyPut 42 (s.fld Reg.LNK_REV F.LNK_REV.MIN) + bodyPut 43 (s.fld Reg.LNK_REV F.LNK_REV.MAX)
    + bodyPut 44 (s.fld Reg.LNK_FEAT_EN F.LNK_FEAT_EN.FEAT) + bodyPut 48 (s.fld Reg.GCTL_GEN F.GCTL_GEN.GEN)
    + bodyPut 50 s.roles.jobgrp + bodyPut 52 (s.fld Reg.GCTL_ID F.GCTL_ID.RCLASS)
    + bodyPut 54 (s.link l).lanes + bodyPut 55 (if (s.link l).gotIdent then 1 else 0)

/-- A field of the package's identity has changed: IDENT goes out 4 times on every ACTIVE link (R329). -/
def identChanged (s : State) : State :=
  forEach (List.range 32) (fun l s =>
    if s.linkUp l then updLink l (fun x => { x with identLeft := 4, identAt := s.now }) s else s) s

/-- The partner of link l as the last identity exchange gave it (R432). -/
def State.partner (s : State) (l : Nat) : Nbr :=
  let p := l / 4
  let k := l % 4
  { state := .active, serial := s.pair (Reg.LNKp_PSERk_LO p k), pkg := s.fld (Reg.LNKp_PIDk p k) F.LNKp_PIDk.PKG,
    jobgrp := s.fld (Reg.LNKp_PJOBk p k) F.LNKp_PJOBk.JOBGRP, gen := s.fld (Reg.LNKp_PIDk p k) F.LNKp_PIDk.GEN,
    rclass := s.fld (Reg.LNKp_PJOBk p k) F.LNKp_PJOBk.RCLASS, feat := (s.reg (Reg.LNKp_FEATk p k)).toNat,
    rev := s.fld (Reg.LNKp_LSTATk p k) F.LNKp_LSTATk.REV, known := true }

/-- Are SERIAL, PKG and JOBGRP those last recorded for the link (R331)? -/
def Nbr.same (x y : Nbr) : Bool := x.serial == y.serial && x.pkg == y.pkg && x.jobgrp == y.jobgrp

/-- The service controller enters the partner of link l in its neighbour table; IDCHG where another was recorded
(R331, R432) (DEDUCED, log entry 36). -/
def noteNbr (l : Nat) (s : State) : State :=
  let old := s.nbr l
  let new := { s.partner l with first := old.first, changed := old.changed }
  let first := if old.known && old.serial == new.serial then old.first else s.tick.index
  let changed := if { old with state := .active } == new then old.changed else s.tick.index
  let s := setNbr l { new with first := first, changed := changed } s
  if old.known && !old.same new then lnkEvt F.LNKp_EVT.IDCHG l s else s

/-- Both identities are acknowledged: the link is ACTIVE, counts restart, and the service controller notes
the partner (R326, R331, R338, R422). -/
def linkActivate (l : Nat) (s : State) : State :=
  let x := s.link l
  if x.state != .ident || !x.gotAcked || !x.sentAcked then s
  else
    let s := linkEnter l .active (updLink l (fun x =>
      { x with freed := [0, 0, 0, 0], credit := [0, 0, 0, 0], sent := [0, 0, 0, 0], identLeft := 0, lastGood := s.now }) s)
    let back := (s.nbr l).known && (s.nbr l).same (s.partner l)
    let s := lnkEvt F.LNKp_EVT.UP l (noteNbr l s)
    if s.boot.reroute && back then
      forEach s.boot.routes (fun (d, lo, hi) s => stageRoute d (BitVec.ofNat 32 lo) (BitVec.ofNat 32 hi) s) s
    else s

/-- IDENT_SEND: every 1 µs in IDENT, and after a change on an ACTIVE link (R329). -/
def execIdentSend (l : LinkId) (s : State) : Out := ifUp s <|
  let x := s.link l
  if (x.state == .ident || (x.state == .active && x.identLeft != 0)) then
    let (tag, s) := newTag 0x489 (s.advance x.identAt)
    .next (updLink l (fun x => { x with
      queue := x.queue ++ [{ s.newMsg 0x10 0xFFF with tag := tag, body := s.identBody l }],
      identAt := s.now + usec 1, identLeft := x.identLeft - 1 }) s)
  else .next s

/-- What a received IDENT changes (R330, R331) (DEDUCED, log entry 36). -/
def takeIdent (l : Nat) (m : Msg) (s : State) : State :=
  let p := l / 4
  let k := l % 4
  let rev := min (m.bodyAt 43 1) (s.fld Reg.LNK_REV F.LNK_REV.MAX)
  let least := max (m.bodyAt 42 1) (s.fld Reg.LNK_REV F.LNK_REV.MIN)
  if rev < least then
    let s := linkLeave l .incompat false s
    reportLocal 5 l 0x09 0 (lnkEvt F.LNKp_EVT.INCOMPAT l s)
  else
    let feat := m.bodyAt 44 4 &&& s.fld Reg.LNK_FEAT_EN F.LNK_FEAT_EN.FEAT
    let feat := if rev = 2 then feat % 16 else feat
    let s := s.setReg (Reg.LNKp_FEATk p k) (BitVec.ofNat 32 feat)
    let s := s.setReg (Reg.LNKp_PIDk p k) (BitVec.ofNat 32 (m.bodyAt 40 2 % 4096 + 65536 * m.bodyAt 48 2))
    let s := s.setReg (Reg.LNKp_PJOBk p k) (BitVec.ofNat 32 (m.bodyAt 50 2 + 65536 * m.bodyAt 52 2))
    let s := s.setPair (Reg.LNKp_PSERk_LO p k) (m.bodyAt 32 8)
    let s := s.setFld (Reg.LNKp_LSTATk p k) F.LNKp_LSTATk.REV rev
    if s.fld (Reg.LNKp_CTL p) F.LNKp_CTL.SPLIT = 2 ∧ !bitOf feat 0 then linkLeave l .down false (splitErr p s)
    else
      let s := updLink l (fun x => { x with gotIdent := true, gotAcked := x.gotAcked || bitOf (m.bodyAt 55 1) 0 }) s
      if s.linkUp l then noteNbr l s else linkActivate l s

/-- IDENT: a received identity (R330). -/
def execIdent (l : InLink) (s : State) : Out := ifUp s <|
  receive l 0x10 (fun m s =>
    if l.val < 32 ∧ ((s.link l).state = .ident ∨ (s.link l).state = .active) then takeIdent l m s else s) s

/-! ### Frames (R333-R335) -/

/-- The 64 bytes of a header flit (Table 12-8). -/
def Msg.header (m : Msg) : List Byte :=
  leBytes 1 m.type ++ leBytes 1 (m.hops % 16) ++ leBytes 2 m.dst ++ leBytes 2 m.src ++ leBytes 5 m.addr ++ leBytes 5 0
    ++ leBytes 2 m.role ++ leBytes 2 m.epoch ++ leBytes 2 m.deadline ++ leBytes 2 m.sgen ++ leBytes 4 m.tag
    ++ leBytes 2 m.len ++ leBytes 2 0 ++ leBytes 32 m.body

/-- The 64 bytes of a flit slot; a slot without a flit is zero. -/
def slotBytes (f : Option Flit) : List Byte :=
  let bs := match f with
    | some (.head m) => m.header
    | some (.data d) => d
    | none => []
  bs.take 64 ++ List.replicate (64 - min 64 bs.length) 0

/-- VALID of a frame. -/
def Frame.valid (f : Frame) : Nat := f.slots.zipIdx.foldl (fun v x => if x.1.isSome then v + 2 ^ x.2 else v) 0

/-- Frame bytes 0 to 1,051 (R333, Table 12-6). -/
def Frame.bytes (f : Frame) : List Byte :=
  f.slots.flatMap slotBytes ++ leBytes 2 f.seq ++ leBytes 2 f.ackseq ++ leBytes 2 (if f.nak then 1 else 0)
    ++ leBytes 2 f.valid ++ f.credit.flatMap (leBytes 2) ++ List.replicate 12 0

/-- The CRC of a frame whose receiver is package `d` (R334). -/
def Frame.check (f : Frame) (d : Nat) : Word32 := BitVec.ofNat 32 (crc32c (leBytes 8 (d * 65536 + f.seq) ++ f.bytes))

/-- The package folded into a frame's CRC: 0xFFF until the identity exchange has completed (R334). -/
def State.crcPkg (s : State) (l d : Nat) : Nat := if s.linkUp l then d else 0xFFF

/-- Does a received frame's CRC fit: in IDENT the partner may have completed the exchange first (R334) (DEDUCED, log
entry 36). -/
def State.crcFits (s : State) (l : Nat) (fr : Frame) : Bool :=
  fr.check (s.crcPkg l s.pkgId) == fr.crc || ((s.link l).state == .ident && fr.check s.pkgId == fr.crc)

def Frame.null (f : Frame) : Bool := f.slots.all (·.isNone)

/-- States in which frames flow. -/
def LinkState.framed (x : LinkState) : Bool := x == .align || x == .ident || x == .active || x == .incompat

/-! ### Choosing flits (R338, R339, R343) -/

/-- Receive-buffer flits of VC `v` on a link of a port with `n` links (Table 12-7). -/
def vcFlits (v n : Nat) : Nat := [256, 512, 7168, 256].getD v 0 / n

/-- Has VC of message `m` credits for all its flits (R338, R343)? -/
def State.credited (s : State) (l : Nat) (m : Msg) : Bool :=
  let x := s.link l
  let v := vcOf m.type
  let out := (x.sent.getD v 0 + 65536 - x.credit.getD v 0 % 65536) % 65536
  decide (out + m.flits ≤ vcFlits v (s.linksOf (l / 4)))

/-- A message that may go now, with its request where the egress point has it queued: one that bypasses the regulator,
one that the point has served, or one whose request has its tokens (R272, R343). -/
def Point.lets (x : Point) (m : Msg) : Option (Msg × Option BwrReq) :=
  match m.req with
  | none => some (m, none)
  | some a =>
    if x.waiting.any fun r => r.age == a then none else some (m, x.queue.find? fun r => r.age == a)

/-- Does message `a` go before `b`, which has waited longer: those that bypass the regulator, then those it has served,
then the rest in the order of the egress point (R275, R343)? -/
def goesBefore (a b : Msg × Option BwrReq) : Bool :=
  if bypasses a.1.type || bypasses b.1.type then bypasses a.1.type && !bypasses b.1.type
  else match a.2, b.2 with
    | none, some _ => true
    | some x, some y => x.before y
    | _, none => false

/-- The message link l sends next, of the virtual channels `vcs`: in IDENT only an IDENT (R338, R343). -/
def State.nextMsg (s : State) (l : Nat) (vcs : List Nat) : Option (Msg × Option BwrReq) :=
  let x := s.link l
  let ok (m : Msg) : Bool := vcs.contains (vcOf m.type) && s.credited l m &&
    (x.state == .active || (x.state == .ident && m.type == 0x10))
  match (x.queue.filter ok).filterMap (s.point (8 + l / 4)).lets with
  | [] => none
  | m :: t => some (t.foldl (fun b y => if goesBefore y b then y else b) m)

/-- A message as it leaves: the epoch of the moment, and time stamps (R339, R354). -/
def leaving (m : Msg) (s : State) : Msg :=
  let m := { m with req := none, epoch := if m.src = s.pkgId then s.roles.epoch else m.epoch }
  if m.type = 0x11 then { m with body := bodyPut 32 s.tb }
  else if m.type = 0x12 then { m with body := m.body + bodyPut 48 s.tb }
  else m

/-- The data flits of a message. -/
def dataFlits : Nat → List Byte → List Flit
  | 0, _ => []
  | n + 1, bs => if bs.isEmpty then [] else .data (bs.take 64) :: dataFlits n (bs.drop 64)

/-- Put the next message of the virtual channels `vcs` on the wire if none is there; the egress point serves it with
its first flit (R275). -/
def loadWire (l : Nat) (vcs : List Nat) (s : State) : State :=
  if !(s.link l).wire.isEmpty then s
  else
    match s.nextMsg l vcs with
    | none => s
    | some (m, r) =>
      let out := leaving m s
      let v := vcOf m.type
      let s := match r with
        | some r => bwrServe (8 + l / 4) r s
        | none => s
      let s := if m.type = 0x11 then { s with tsync := { s.tsync with t1 := s.tb, waiting := true } } else s
      updLink l (fun x => { x with
        queue := x.queue.erase m, wire := .head out :: dataFlits 64 out.data, wireVc := v,
        sent := putAt x.sent v ((x.sent.getD v 0 + m.flits) % 65536) }) s

/-- The virtual channels that may send in slot `i` of a frame of link l (R367, R390). -/
def State.openVcs (s : State) (l i : Nat) : List Nat :=
  if s.power.linkSlots ≤ i then [] else if 16 - (s.lv (32 + l / 4)).level ≤ i then [0, 3] else [0, 1, 2, 3]

/-- Fill slot `i` of a frame of link l (R339, R367, R390). -/
def fillSlot (l i : Nat) (s : State) : Option Flit × State :=
  let vcs := s.openVcs l i
  let s := loadWire l vcs s
  let x := s.link l
  match x.wire with
  | [] => (none, s)
  | f :: t => if vcs.contains x.wireVc then (some f, updLink l (fun x => { x with wire := t }) s) else (none, s)

/-- FRAME_SEND: the link sends a frame to be sent again, a frame of new flits, or a null frame
(R333-R338). -/
def execFrameSend (l : LinkId) (s : State) : Out := ifUp s <|
  let x := s.link l
  let p := l.val / 4
  if !x.state.framed then .next s
  else
    let d := s.crcPkg l (s.fld (Reg.LNKp_PIDk p (l.val % 4)) F.LNKp_PIDk.PKG)
    let stamp (f : Frame) (s : State) : Frame :=
      let x := s.link l
      let f := { f with ackseq := (x.expect + 65535) % 65536, nak := x.nakDue, credit := x.freed }
      { f with crc := f.check d }
    match x.resend.findSome? fun q => (x.replay.find? fun f => f.2.seq == q) with
    | some (_, f) =>
      let f := stamp f s
      let n := sget (fun _ => 0) x.replays f.seq + 1
      let s := s.count (Reg.LNKp_CNT_REPLAY p)
      let s := updLink l (fun x => { x with
        resend := (x.resend.dropWhile (· != f.seq)).tail, nakDue := false, last := some f,
        replays := sset (fun _ => 0) x.replays f.seq n,
        replay := x.replay.map fun g => if g.2.seq = f.seq then (s.now, f) else g }) s
      .next (if 8 ≤ n && s.linkUp l then linkLeave l .down true s else s)
    | none =>
      let full := decide (512 / s.linksOf p ≤ x.replay.length)
      let (slots, s) := if full then (List.replicate 16 none, s)
        else (List.range 16).foldl (fun (acc : List (Option Flit) × State) i =>
          let (f, s) := fillSlot l i acc.2
          (acc.1 ++ [f], s)) ([], s)
      let f := stamp { slots := slots, seq := x.nextSeq, ackseq := 0 } s
      let s := s.count (Reg.LNKp_CNT_TXFLIT p) (slots.countP (·.isSome))
      .next (updLink l (fun x => { x with
        nakDue := false, last := some f,
        nextSeq := if f.null then x.nextSeq else (x.nextSeq + 1) % 65536,
        replay := if f.null then x.replay else x.replay ++ [(s.now, f)] }) s)

/-- One accepted flit joins the message coming in; a whole message goes to the receive buffer (R339,
R341). -/
def takeFlit (l : Nat) (f : Flit) (s : State) : State :=
  let x := s.link l
  let rx := match f with
    | .head _ => [f]
    | .data _ => if x.rx.isEmpty then [] else x.rx ++ [f]
  match rx with
  | .head m :: ds =>
    if ds.length < ceilDiv (if m.type = 2 then 0 else m.len) 64 then updLink l (fun x => { x with rx := rx }) s
    else
      let bytes := ds.flatMap fun d => match d with | .data b => b | .head _ => []
      let s := updLink l (fun x => { x with rx := [] }) s
      if x.state == .active || (x.state == .ident && m.type == 0x10) then
        { s with inbox := s.inbox ++ [(l, { m with
            data := bytes.take (if m.type = 2 then 0 else m.len), stamp := s.tb, req := none })] }
      else s.count (Reg.LNKp_CNT_DISC (l / 4))
  | _ => updLink l (fun x => { x with rx := [] }) s

/-- The receiver waits for its expected frame and sends NAK at once (R336). -/
def startNak (l : Nat) (s : State) : State :=
  updLink l (fun x => if x.nakWait then x else { x with nakWait := true, nakAt := s.now, nakDue := true }) s

/-- Does the frame carry an IDENT with ACKED at 1 (R329)? -/
def Frame.acksIdent (f : Frame) : Bool :=
  f.slots.any fun x => match x with
    | some (.head m) => m.type == 0x10 && bitOf (m.bodyAt 55 1) 0
    | _ => false

/-- ACKSEQ, NAK and CREDIT of a good frame (R336, R338). -/
def takeTrailer (l : Nat) (fr : Frame) (s : State) : State :=
  updLink l (fun x =>
    let acked := x.replay.any fun f => f.2.seq == fr.ackseq
    let rest := if acked then (x.replay.dropWhile fun f => f.2.seq != fr.ackseq).tail else x.replay
    let gone := x.replay.take (x.replay.length - rest.length)
    { x with
      credit := fr.credit, lastGood := s.now, replay := rest,
      sentAcked := x.sentAcked || gone.any fun f => f.2.acksIdent,
      replays := sdrop (fun q => !rest.any fun f => f.2.seq == q) x.replays,
      resend := if fr.nak then rest.map (·.2.seq) else x.resend.filter fun q => rest.any fun f => f.2.seq == q }) s

/-- FRAME_RECEIVE: a frame comes in, with the FEC codewords corrected in it and whether one was uncorrectable
(R334-R338). -/
def execFrameReceive (l : LinkId) (fr : Frame) (fecFixed : Nat) (fecBad : Bool) (s : State) : Out := ifUp s <|
  let p := l.val / 4
  if !(s.link l).state.framed then .next s
  else
    let s := s.count (Reg.LNKp_CNT_FECC p) fecFixed
    let s := if fecBad then s.count (Reg.LNKp_CNT_FECU p) else s
    if fecBad || !s.crcFits l fr then .next (startNak l (s.count (Reg.LNKp_CNT_CRC p)))
    else
      let s := linkActivate l (takeTrailer l fr s)
      if fr.null then .next s
      else if fr.seq != (s.link l).expect then .next (startNak l s)
      else
        let flits := fr.slots.filterMap id
        let s := updLink l (fun x => { x with expect := (x.expect + 1) % 65536, nakWait := false, nakDue := false }) s
        .next (forEach flits (takeFlit l) (s.count (Reg.LNKp_CNT_RXFLIT p) flits.length))

/-- REPLAY_TIMEOUT: the oldest unacknowledged frame has waited RTO; every frame from it is sent again
(R336). -/
def execReplayTimeout (l : LinkId) (s : State) : Out := ifUp s <|
  let x := s.link l
  match x.replay with
  | [] => .next s
  | f :: _ =>
    let s := s.advance (f.1 + usec (s.fld Reg.LNK_TSYNC F.LNK_TSYNC.RTO))
    .next (updLink l (fun x => { x with resend := x.replay.map (·.2.seq) }) s)

/-- NAK_RESEND: every 256 ns while the receiver waits (R336). -/
def execNakResend (l : LinkId) (s : State) : Out := ifUp s <|
  let x := s.link l
  if !x.nakWait then .next s
  else
    let s := s.advance (x.nakAt + 2048)
    .next (updLink l (fun x => { x with nakAt := s.now, nakDue := true }) s)

/-! ### Data messages (R341, R342, R351, R398) -/

/-- Why link ingress may not reach the `n` bytes at local address `a`: the KIND of decode (R26, Table
1-6). -/
def State.ingressErr (s : State) (a n : Nat) : Option Nat :=
  let es := (List.range ((a % 256 + max n 1 + 255) / 256)).filterMap fun i =>
    match decodeIngress s (if i = 0 then a else a / 256 * 256 + 256 * i) with
    | .err e => some e
    | .ok _ => none
  (es.find? (· != 5)).or es.head?

/-- Refuse a message's address: captured as link ingress, and answered by NACK (R31, R342). -/
def refuseAddr (l e : Nat) (m : Msg) (s : State) : State :=
  sendNack l (if e = 5 then 4 else 3) m (decodeErr { master := 3 } m.addr e s)

/-- Store bytes at a local address as `master`, on the path of link ingress, the host or the service
controller (Table 7-1). -/
def directStore (master a : Nat) (data : List Byte) (dl : Option Nat) (s : State) : State :=
  let bs : StoreBytes := data.zipIdx.map fun (b, i) => (a + i, b)
  if a < 0x8000000000 then dramStore { master := master, deadline := dl } false bs s
  else sramStore { master := master, deadline := dl } bs s

/-- Read bytes at a local address on that path: the bytes, and whether any was uncorrectable. -/
def directLoad (master a n : Nat) (dl : Option Nat) (s : State) : List Byte × Bool × State :=
  let how : How := { master := master, deadline := dl }
  if n = 0 then ([], false, s)
  else if a < 0x8000000000 then dramLoad how a n s else sramLoad how a n s

/-- Write a whole WRITE or SEND, count it in arrival queues, and acknowledge it. -/
def ingressWrite (l : Nat) (m : Msg) (s : State) : State :=
  match s.refuseReason m with
  | some r => sendNack l r m s
  | none =>
    match s.ingressErr m.addr m.data.length with
    | some e => refuseAddr l e m s
    | none =>
      let s := directStore (ingressMaster l) m.addr m.data (s.msgDeadline m) s
      sendAck l m (claimArrive m.addr m.data.length s)

/-- LINK_WRITE (R341). -/
def execLinkWrite (l : InLink) (s : State) : Out := ifUp s <| receive l 1 (ingressWrite l) s

/-- LINK_SEND (R351). -/
def execLinkSend (l : InLink) (s : State) : Out := ifUp s <| receive l 4 (ingressWrite l) s

/-- LINK_READ: the data comes back in an RDRESP; uncorrectable data draws NACK UNCORR (R341, R342) (DEDUCED, log entry 62). -/
def execLinkRead (l : InLink) (u : Upsets) (s : State) : Out := ifUp s <|
  receive l 2 (fun m s =>
    match s.refuseReason m with
    | some r => sendNack l r m s
    | none =>
      match s.ingressErr m.addr m.len with
      | some e => refuseAddr l e m s
      | none =>
        let (bytes, bad, s) := directLoad (ingressMaster l) m.addr m.len (s.msgDeadline m) (upset u s)
        if bad then sendNack l 5 m s
        else sendMsg { s.newMsg 3 m.src with tag := m.tag, len := bytes.length, data := bytes } s
          (some (ingressMaster l))) s

/-- The control message with this tag that waits for its answer. -/
def State.waitOf (s : State) (tag : Nat) : Option Wait := s.boot.waits.find? fun w => w.tag == tag

/-- It has been answered. -/
def State.answered (s : State) (w : Wait) : State := { s with boot := { s.boot with waits := s.boot.waits.erase w } }

/-- RDRESP: data for the channel that asked (R341). -/
def execRdresp (l : InLink) (s : State) : Out := ifUp s <|
  receive l 3 (fun m s =>
    let k := m.tag % 2048
    if k < 0x300 then seRdresp (k / 32) (k % 32) m.tag m.data (bitOf m.body 0) s else s) s

/-- ACK: the tagged message has been taken (R340). -/
def execAck (l : InLink) (s : State) : Out := ifUp s <|
  receive l 5 (fun m s =>
    let tag := m.bodyAt 36 4
    let k := tag % 2048
    if k < 0x300 then seAck (k / 32) (k % 32) tag s
    else
      match s.waitOf tag with
      | none => s
      | some w =>
        let s := s.answered w
        if w.type = 0x15 && !w.given then lendAnswered tag true s else s) s

/-- Capture a STALE_ROLE NACK of a control message (R352, Table 12-19). -/
def captureNack (l : Nat) (w : Wait) (epoch : Nat) (s : State) : State :=
  let s := s.count (Reg.LNKp_CNT_STALE (portOfLink l))
  if s.flag Reg.LNK_LASTNACK_HI F.LNK_LASTNACK_HI.VALID then s
  else
    (s.setReg Reg.LNK_LASTNACK_LO (BitVec.ofNat 32 (w.role % 65536 + 65536 * epoch))).setReg Reg.LNK_LASTNACK_HI
      (BitVec.ofNat 32 (w.type + 2 ^ 31))

/-- NACK: the tagged message was refused (R342, R352, R452). -/
def execNack (l : InLink) (s : State) : Out := ifUp s <|
  receive l 6 (fun m s =>
    let tag := m.bodyAt 36 4
    let reason := m.bodyAt 32 1
    let k := tag % 2048
    if k < 0x300 then seNack (k / 32) (k % 32) tag reason (m.bodyAt 34 2) s
    else
      match s.waitOf tag with
      | none => s
      | some w =>
        let s := s.answered w
        let s := if reason = 1 then captureNack l w (m.bodyAt 34 2) s else s
        if w.given then s
        else if w.type = 0x15 then lendAnswered tag false s
        else if w.type = 0x16 then s.setFlag Reg.FLT_STAT F.FLT_STAT.FWD_FAIL
        else s) s

/-- MESSAGE_FORWARD: a whole message for another package goes on by the route table (R347). -/
def execMessageForward (l : InLink) (s : State) : Out := ifUp s <|
  match takeMsg l (fun m => !s.mine m) s with
  | none => .next s
  | some (m, s) =>
    let p := portOfLink l
    if m.hops = 0 then .next (s.count (Reg.LNKp_CNT_HOPDROP p))
    else .next (sendMsg { m with hops := m.hops - 1 } s (some (ingressMaster l)))

/-- RESERVED_TYPE_MESSAGE (R340). -/
def execReservedTypeMessage (l : InLink) (s : State) : Out := ifUp s <|
  match takeMsg l (fun m => s.mine m && !knownType m.type) s with
  | none => .next s
  | some (_, s) => .next (s.count (Reg.LNKp_CNT_BADMSG (portOfLink l)))

/-! ### Time sync (R353-R356) -/

/-- Does TICK_IN, and not time sync, set this package's phase (R37)? -/
def State.tickInRoot (s : State) : Bool :=
  s.flag Reg.TICK_CTL F.TICK_CTL.IN_EN && (s.flag Reg.TICK_CTL F.TICK_CTL.ROOT || s.noJob)

/-- Does this package synchronise to a partner, and on which link? -/
def State.syncLink (s : State) : Option Nat :=
  let up := s.fld Reg.LNK_TSYNC F.LNK_TSYNC.UP
  if s.flag Reg.LNK_TSYNC F.LNK_TSYNC.UP_VALID && !s.flag Reg.TICK_CTL F.TICK_CTL.ROOT && !s.tickInRoot && s.linkUp up
  then some up else none

/-- TSYNC_INTERVAL: the member asks its partner (R354). -/
def execTsyncInterval (s : State) : Out := ifUp s <|
  match s.syncLink with
  | none => .next s
  | some l =>
    let s := if s.tsync.sentAt = 0 then s
      else s.advance (s.tsync.sentAt + usec (8 * s.fld Reg.LNK_TSYNC F.LNK_TSYNC.INTERVAL))
    let (tag, s) := newTag 0x489 { s with tsync := { s.tsync with sentAt := s.now } }
    .next (queueOn l 0x489 { s.newMsg 0x11 (s.fld (Reg.LNKp_PIDk (l / 4) (l % 4)) F.LNKp_PIDk.PKG) with tag := tag } s)

/-- TSYNC_REQ: answered with the stamps and this package's own offset from the root (R354). -/
def execTsyncReq (l : InLink) (s : State) : Out := ifUp s <|
  receive l 0x11 (fun m s =>
    if l.val < 32 then
      let off := if s.flag Reg.TICK_CTL F.TICK_CTL.ROOT then 0 else s.tsync.offset
      let (tag, s) := newTag 0x489 s
      queueOn l 0x489 { s.newMsg 0x12 m.src with
        tag := tag, body := bodyPut 32 (m.bodyAt 32 8) + bodyPut 40 m.stamp + bodyPut 56 (bodyInt 4 off) } s
    else s) s

/-- The rate trim after an exchange that found `theta`, for the next interval of `span`: a quarter of what theta has
drifted since the last exchange beyond the slew given in between (R355) (DEDUCED, log entry 85). -/
def Tsync.trim (theta : Int) (span : Nat) (x : Tsync) : Tsync :=
  let drift := (x.drift * span).tdiv x.span
  let more := match x.last with
    | some old => (theta - (old - x.slew)).tdiv 4
    | none => 0
  { x with drift := drift + more, span := span, frac := x.frac * span / x.span, slew := 0, left := 0 }

/-- What an exchange gives: offset, round trip, alignment error and correction (R36, R354, R355). -/
def syncResult (l : Nat) (m : Msg) (s : State) : State :=
  let t1 : Int := m.bodyAt 32 8
  let t2 : Int := m.bodyAt 40 8
  let t3 : Int := m.bodyAt 48 8
  let t4 : Int := m.stamp
  let theta := ((t2 - t1) - (t4 - t3)).tdiv 2
  let delta := ((t2 - t1) + (t4 - t3)).tdiv 2
  let offset := signedOf 32 (m.bodyAt 56 4) - theta
  let s := s.setFld Reg.TICK_SYNC F.TICK_SYNC.OFFSET ((offset.tdiv 8) % 65536).toNat
  let s := s.setFld (Reg.LNKp_RTTk (l / 4) (l % 4)) F.LNKp_RTTk.RTT (min ((2 * delta + 4) / 8).toNat 65535)
  let s := if 128 < offset.natAbs then
      reportLocal 0 0 0x02 0 (s.setFlag Reg.TICK_STAT F.TICK_STAT.ALIGN_ERR)
    else s
  let x := s.tsync.trim theta (usec (8 * s.fld Reg.LNK_TSYNC F.LNK_TSYNC.INTERVAL))
  let x := { x with waiting := false, offset := offset }
  if !s.inJob && decide (2048 < theta.natAbs) then
    { s with tb := s.tb + theta.toNat, tsync := { x with hold := x.hold + (-theta).toNat, last := some 0 } }
  else { s with tsync := { x with slew := max (-32) (min 32 theta), left := x.span, last := some theta } }

/-- TSYNC_RSP (R355). -/
def execTsyncRsp (l : InLink) (s : State) : Out := ifUp s <|
  receive l 0x12 (fun m s =>
    if s.tsync.waiting && s.syncLink == some l.val && m.bodyAt 32 8 == s.tsync.t1 then syncResult l m s else s) s

/-- A write of LNK_TSYNC: an INTERVAL or RTO of 0 leaves that field (Table 12-17). -/
def writeTsync (v : Word32) (s : State) : State :=
  let a := Reg.LNK_TSYNC
  let old := s.reg a
  let w := v &&& 0xFFF3F
  let w := if F.LNK_TSYNC.INTERVAL.get v = 0 then F.LNK_TSYNC.INTERVAL.put w (F.LNK_TSYNC.INTERVAL.get old) else w
  s.setReg a (if F.LNK_TSYNC.RTO.get v = 0 then F.LNK_TSYNC.RTO.put w (F.LNK_TSYNC.RTO.get old) else w)

/-- A write of LNK_LASTNACK_HI: 1 to VALID clears every field of both registers (Table 12-19). -/
def writeLastNack (v : Word32) (s : State) : State :=
  if v.getLsbD 31 then (s.setReg Reg.LNK_LASTNACK_LO 0).setReg Reg.LNK_LASTNACK_HI 0 else s

end Sys2Proof.Machine
end

