-- ==== Sys2Proof/Machine/Tick.lean ====
section
/-! DEFINITION. The tick unit: job start, the barrier, boundaries with their effects in the order of Table
2-5, stopping boundaries, tick faults and the snapshot freeze (R32-R60, R445). -/

namespace Sys2Proof.Machine

open Sys2Proof

def setTickState (x : Nat) (s : State) : State := s.setFld Reg.TICK_STAT F.TICK_STAT.STATE x

/-- The nominal end of the tick under way (R33). -/
def State.nominalEnd (s : State) : Nat := s.tick.bnd + s.tick.period

/-! ### Registers of the tick unit -/

/-- The lowest check of Table 17-6 that fails; none: a START is accepted. -/
def State.startReason (s : State) : Option Nat :=
  let own := s.selfIndex
  let rclass := s.fld Reg.GCTL_ID F.GCTL_ID.RCLASS
  let gen := s.fld Reg.GCTL_GEN F.GCTL_GEN.GEN
  let root := s.fld Reg.TICK_ROOT_ID F.TICK_ROOT_ID.PKG
  let cls (i : Nat) : Nat := F.GCTL_MEMB_VAL_LO.RCLASS.get (s.membLo i)
  if !(s.flag Reg.GCTL_PKG_ID F.GCTL_PKG_ID.SET && s.flag Reg.GCTL_LOCK F.GCTL_LOCK.LOCK) then some 1
  else if !(own.any fun i => cls i == rclass && F.GCTL_MEMB_VAL_HI.GEN.get (s.membHi i) == gen) then some 2
  else if s.exact && s.members.any fun x => cls x.1 != rclass then some 3
  else if !(s.members.map (·.2)).Nodup then some 4
  else if !s.tickRoot && (root == s.pkgId || (s.memberIndex root).isNone) then some 5
  else none

/-- A START write (R44, R45, R445, R372, R428). -/
def startJob (s : State) : State :=
  match s.startReason with
  | some r =>
    let s := if s.flag Reg.GCTL_LOCK F.GCTL_LOCK.LOCK then s else s.setFlag Reg.GCTL_LOCK F.GCTL_LOCK.START_IGN
    reportLocal 0 0 0x0D r (s.setFld Reg.GCTL_MEMB_STAT F.GCTL_MEMB_STAT.REASON r)
  | none =>
    let s := updTick (fun t => { t with startAt := s.now, fromFree := s.tickState == 0, rel := none }) s
    let s := setTickState 1 (s.setFlag Reg.TICK_CTL F.TICK_CTL.START)
    sendTick 0 s.rootPkg 0 0 0 0 (updPower (fun p => { p with eJob := 0 }) s)

/-- A write of TICK_CTL (Table 2-4): OUT_EN, IN_EN and OVR_INT_EN as written, ROOT outside a job,
then CNT_CLR, STOP and START. -/
def writeTickCtl (v : Word32) (s : State) : State :=
  let a := Reg.TICK_CTL
  let s := s.setReg a ((s.reg a &&& ~~~0x38#32) ||| (v &&& 0x38))
  let s := if s.noJob then s.setFlag a F.TICK_CTL.ROOT (v.getLsbD 2) else s
  let s := if v.getLsbD 6 then (s.setReg Reg.TICK_OVR_CNT 0).setReg Reg.TICK_LATE_CNT 0 else s
  let s := if v.getLsbD 1 && s.tickRoot && s.inJob then s.setFlag a F.TICK_CTL.STOP else s
  if v.getLsbD 0 && s.noJob then startJob s else s

/-- A write of TICK_PERIOD (R34). -/
def writeTickPeriod (v : Word32) (s : State) : State :=
  let u := F.TICK_PERIOD.UNITS.get v
  if 250 ≤ u && u ≤ 2048000 && (s.tickRoot || !s.inJob) then
    updTick (fun t => { t with pend := some u }) (s.setReg Reg.TICK_PERIOD (BitVec.ofNat 32 (u + 2 ^ 31)))
  else s.setFlag Reg.TICK_STAT F.TICK_STAT.PERIOD_ERR

/-- A write of TICK_REL_LAT (R42). -/
def writeRelLat (v : Word32) (s : State) : State :=
  let u := F.TICK_REL_LAT.UNITS.get v
  if s.noJob && 8 ≤ u then s.setFld Reg.TICK_REL_LAT F.TICK_REL_LAT.UNITS u else s

/-- A write of TICK_ROOT_ID (Table 2-4a). -/
def writeRootId (v : Word32) (s : State) : State :=
  if s.noJob then s.setReg Reg.TICK_ROOT_ID (v &&& 0xFFF) else s

/-- What a freeze that begins now holds (R60). -/
def State.frozenNow (s : State) : Frozen := { regs := s.regs, meas := s.meas, prev := s.roles.prev }

/-- A write of TICK_SNAP_CTL: a freeze that begins keeps the TL fields as they stand (R60). -/
def writeSnapCtl (v : Word32) (s : State) : State :=
  let a := Reg.TICK_SNAP_CTL
  let held := some s.frozenNow
  let h := v.getLsbD 0
  let m := v.getLsbD 1
  let s := if h && !s.bit a 0 then { s.setFld a F.TICK_SNAP_CTL.MISSED_HOST 0 with frozenHost := held } else s
  let s := if m && !s.bit a 1 then { s.setFld a F.TICK_SNAP_CTL.MISSED_MGMT 0 with frozenMgmt := held } else s
  let s := if h then s else { s with frozenHost := none }
  let s := if m then s else { s with frozenMgmt := none }
  (s.setFlag a F.TICK_SNAP_CTL.FREEZE_HOST h).setFlag a F.TICK_SNAP_CTL.FREEZE_MGMT m

/-! ### Starting and the barrier -/

/-- Take the oldest TICK message of `kind` from link l. -/
def receiveTick (kind : Nat) (f : Msg → State → State) (l : InLink) (s : State) : Out :=
  match s.inbox.find? fun e => e.1 == l.val && e.2.type == 0x13 && s.mine e.2 && e.2.bodyAt 32 1 == kind with
  | none => .next s
  | some e => receive l 0x13 f { s with inbox := e :: s.inbox.erase e }

/-- A READY or DONE at a package that is not the root is discarded and reported (R45). -/
def notRoot (m : Msg) (s : State) : State := reportPkg m.src 0x0D 5 s

/-- TICK_READY: when every member is ready the root sends the release of boundary 0 (R44). -/
def execTickReady (l : InLink) (s : State) : Out := ifUp s <|
  receiveTick 0 (fun m s =>
    if !s.tickRoot then notRoot m s
    else
      let s := updTick (fun t => { t with ready := insertNat m.src t.ready }) s
      if s.inStarting && s.tick.rel.isNone && s.memberPkgs.all s.tick.ready.contains then
        formRelease { index := 0, time := s.edge + s.relLat, period := s.tick.pend.getD s.tick.period, stop := false } s
      else s) l s

/-- Does END_EN stop the job at the coming boundary (R409)? -/
def State.endWanted (s : State) : Bool :=
  s.flag Reg.TICK_STOP_CTL F.TICK_STOP_CTL.END_EN && s.pair Reg.TICK_STOP_AT_LO == s.tick.index

/-- Is the release of the coming boundary a stop by STOP or by invalid results (R44, R53)? -/
def State.stopWanted (s : State) : Bool :=
  s.flag Reg.TICK_CTL F.TICK_CTL.STOP || s.tick.badDone || s.tick.invalid

/-- TICK_DONE: when the last member is done the root forms and sends the release (R40). -/
def execTickDone (l : InLink) (s : State) : Out := ifUp s <|
  receiveTick 1 (fun m s =>
    if !s.tickRoot then notRoot m s
    else if !s.inJob || m.bodyAt 40 8 != s.tick.index then s
    else
      let s := updTick (fun t => { t with
        done := insertNat m.src t.done, badDone := t.badDone || m.bodyAt 60 1 % 2 == 1 }) s
      if s.tick.rel.isNone && s.memberPkgs.all s.tick.done.contains then
        let r : Release := {
          index := s.tick.index + 1, time := max s.nominalEnd (s.edge + s.relLat),
          period := s.tick.pend.getD s.tick.period, stop := s.stopWanted || s.endWanted,
          invalid := s.tick.badDone || s.tick.invalid, byEnd := s.endWanted }
        formRelease r (updTick (fun t => { t with rel := some r }) s)
      else s) l s

/-- TICK_RELEASE: a member keeps the release of its coming boundary, from the root alone (R39, R45). -/
def execTickRelease (l : InLink) (s : State) : Out := ifUp s <|
  receiveTick 2 (fun m s =>
    let i := m.bodyAt 40 8
    let b := m.bodyAt 60 1
    if m.src == s.rootPkg && s.tick.rel.isNone &&
        ((s.inStarting && i == 0) || (s.inJob && i == s.tick.index + 1)) then
      updTick (fun t => { t with rel := some {
        index := i, time := m.bodyAt 48 8, period := m.bodyAt 56 4,
        stop := bitOf b 0, fault := bitOf b 1, invalid := bitOf b 2 } }) s
    else s) l s

/-- PACKAGE_DONE: every core and channel is done with the tick, and the done message goes to the root
(R38, R41, R49, R375). Byte 60 [0] tells whether this package's results are invalid (DESIGN CHOICE, log entry 31). -/
def execPackageDone (s : State) : Out := ifUp s <|
  if !s.inJob || s.tick.doneSent || s.cores.any (fun e => !s.coreDone e.1) || s.seBusy then .next s
  else
    let bad := if s.tick.invalid then 1 else 0
    let slack : Int := 8 * (s.nominalEnd : Int) - s.tb / 8
    let s := updPower (fun p => { p with doneSlack := some slack }) s
    let s := updTick (fun t => { t with doneSent := true }) s
    let s := (s.setFlag Reg.TICK_STAT F.TICK_STAT.WAITING).setFlag Reg.TICK_STAT F.TICK_STAT.OVERRUN false
    .next (sendTick 1 s.rootPkg s.tick.index 0 0 bad s)

/-- TICK_OVERRUN: the nominal end passes and the package is not done (R49). -/
def execTickOverrun (s : State) : Out := ifUp s <|
  if !s.inJob || s.tick.doneSent || s.tick.ovr then .next s
  else
    let s := s.advanceTb (64 * s.nominalEnd)
    let s := updTick (fun t => { t with ovr := true }) s
    let s := (s.setFlag Reg.TICK_STAT F.TICK_STAT.OVERRUN).setFlag Reg.TICK_STAT F.TICK_STAT.OVR_SEEN
    let s := s.bump Reg.TICK_OVR_CNT F.TICK_OVR_CNT.COUNT
    .next (if s.flag Reg.TICK_CTL F.TICK_CTL.OVR_INT_EN then reportLocal 0 0 0x03 0 s else s)

/-- A start is given up: START clears and STATE returns (R45, R445). -/
def abandonStart (s : State) : State :=
  let s := s.setFlag Reg.TICK_CTL F.TICK_CTL.START false
  setTickState (if s.tick.fromFree then 0 else 3) (updTick (fun t => { t with rel := none, ready := [] }) s)

/-- START_TIMEOUT: no release of boundary 0 within 200 ms of an accepted START (R45). -/
def execStartTimeout (s : State) : Out := ifUp s <|
  if !s.inStarting || s.tick.rel.isSome then .next s
  else
    let s := abandonStart (s.advance (s.tick.startAt + msec 200))
    .next (reportLocal 0 0 0x0D 6 (s.setFld Reg.GCTL_MEMB_STAT F.GCTL_MEMB_STAT.REASON 6))

/-- START_ABANDON: the root abandons a start after 100 ms if a member has not sent READY (R445). -/
def execStartAbandon (s : State) : Out := ifUp s <|
  let silent := s.memberPkgs.filter fun d => !s.tick.ready.contains d
  if !s.inStarting || !s.tickRoot || s.tick.rel.isSome || silent.isEmpty then .next s
  else .next (forEach silent (fun d s => reportPkg d 0x0D 7 s) (abandonStart (s.advance (s.tick.startAt + msec 100))))

/-! ### Tick faults (R51, R448) -/

/-- TICK_FAULT_TIMEOUT: 4 periods after the nominal end some done message is missing. -/
def execTickFaultTimeout (s : State) : Out := ifUp s <|
  if !s.inJob || !s.tickRoot || s.tick.rel.isSome then .next s
  else
    let s := s.advanceTb (64 * (s.nominalEnd + 4 * s.tick.period))
    let late := s.memberPkgs.filter fun d => !s.tick.done.contains d
    .next (declareFault (forEach late (fun d s => reportPkg d 0x04 1 s) s))

/-- The package IDs a LOSS lists. -/
def Msg.lossIds (m : Msg) : List Nat :=
  (List.range (min (m.bodyAt 32 1) 20)).map fun i => bitsOf m.body (8 + 12 * i) 12

/-- LOSS: the root holds every listed member unreachable and declares the tick fault (R350, R51). -/
def execLoss (l : InLink) (s : State) : Out := ifUp s <|
  receive l 0x14 (fun m s => memberLost m.lossIds s) s

/-! ### Effect 1: latching (R55-R58) -/

/-- The registers latched from live counters, each by its row in the register map. -/
def counterBases : List Nat :=
  [Reg.CORE_CNT_ISSUE 0 0, Reg.CORE_CNT_IMISS 0 0, Reg.CORE_CNT_OVF 0 0, Reg.CORE_CNT_TROW 0 0,
   Reg.CORE_CNT_TRAMP 0 0, Reg.CORE_CNT_L1Hk 0 0 0, Reg.CORE_CNT_L1Mk 0 0 0, Reg.CORE_CNT_MRFULL 0 0,
   Reg.CORE_CNT_CLAMP 0 0, Reg.CORE_CNT_STRETCH 0 0, Reg.STK_CNT_HOLD 0, Reg.MCm_CNT_RD 0, Reg.MCm_CNT_WR 0,
   Reg.MCm_CNT_RMW 0,
   Reg.STK_CNT_L2Hk 0 0, Reg.STK_CNT_L2Mk 0 0, Reg.STK_CNT_L2WB 0, Reg.STK_CNT_L2DROP 0] ++
  [Reg.STK_SE_CHn_CNT_DESC 0 0, Reg.STK_SE_CHn_CNT_ACT 0 0, Reg.STK_SE_CHn_CNT_BYTES_LO 0 0,
   Reg.STK_SE_CHn_CNT_BYTES_HI 0 0, Reg.BWR_Pp_CNT_GMISS 0, Reg.BWR_Pp_CNT_DLMISS 0, Reg.BWR_Pp_CNT_DLPAST 0,
   Reg.ERL_CNT_CE, Reg.ERL_CNT_UE, Reg.ERL_CNT_LOST] ++
  [Reg.LNKp_CNT_TXFLIT 0, Reg.LNKp_CNT_RXFLIT 0, Reg.LNKp_CNT_FECC 0, Reg.LNKp_CNT_FECU 0, Reg.LNKp_CNT_CRC 0,
   Reg.LNKp_CNT_REPLAY 0, Reg.LNKp_CNT_DOWN 0, Reg.LNKp_CNT_DISC 0, Reg.LNKp_CNT_GENDROP 0,
   Reg.LNKp_CNT_HOPDROP 0, Reg.LNKp_CNT_NOROUTE 0, Reg.LNKp_CNT_STALE 0, Reg.LNKp_CNT_BADMSG 0]

/-- The base of the row of the register at `a`. -/
def rowBase (a : Nat) : Nat := ((regRowAt a).map (·.base)).getD 0

def isCounter (a : Nat) : Bool := counterBases.contains (rowBase a)

/-- The highest TEMP of each die so far in the tick becomes its peak; the next one starts from the present
reading. -/
def latchPeaks (s : State) : State :=
  forEach (List.range 64) (fun d s =>
    let a := Reg.THM_PEAKd d
    let v := s.liveAt a
    if v = 0 then s
    else (s.setReg a (BitVec.ofNat 32 (v % 2048))).setLive a ((s.die d).reading + 2048).toNat) s

/-- The live digests of a core restart; a stopped core keeps what they held until its snapshot, which no end of the
tick affects (R408, R410). -/
def Core.glintRestart (c : Core) : Core :=
  if !c.stopDrain then { c with glint := [] }
  else { c with glint := [], kept := c.glint.foldl (fun m x =>
    sset (fun _ => 0) m x.1 (sget (fun _ => 0) m x.1 + x.2)) c.kept }

/-- Digest slots and the stack digest take their shadows and restart (R408). -/
def latchGlint (s : State) : State :=
  let s := { s with regs := sdrop (fun a => [Reg.CORE_GLINTk_LO 0 0 0, Reg.CORE_GLINTk_HI 0 0 0, Reg.STK_SE_GLINT_LO 0,
    Reg.STK_SE_GLINT_HI 0].contains (rowBase a)) s.regs }
  let s := forEach s.cores (fun e s =>
    let s := forEach e.2.glint (fun x s => s.setPair (Reg.CORE_GLINTk_LO (e.1 / 16) (e.1 % 16) x.1) x.2.toNat) s
    updCore e.1 Core.glintRestart s) s
  forEach s.stks (fun e s =>
    updStk e.1 (fun x => { x with glint := 0 }) (s.setPair (Reg.STK_SE_GLINT_LO e.1) e.2.glint.toNat)) s

/-- Effect 1 at a boundary of index `b` and delay `d` (R46, R50, R55, R372). -/
def latchTick (b d : Nat) (s : State) : State :=
  let s := latchGlint (latchPeaks (settleTick s))
  let s := { s with regs := sdrop isCounter s.regs }
  let s := forEach s.live (fun x s =>
    if !isCounter x.1 then s
    else if rowBase x.1 = Reg.STK_SE_CHn_CNT_BYTES_LO 0 0 then s.setPair x.1 x.2
    else s.setReg x.1 (BitVec.ofNat 32 x.2)) s
  let n := s.freeCtr
  let x : Meas := {
    n := n, step := s.power.step, mv := s.vf s.power.step, span := s.tb - 64 * s.tick.bnd, leakJ := s.power.leakJ }
  let s := { s with live := sdrop isCounter s.live, meas := some x, freeCtr := n + 1 }
  let s := updPower (fun p => { p with
    leakJ := [], eJob := if s.inJob then p.eJob + s.pkgEnergy x else p.eJob }) s
  let s := { s.setPair Reg.PWR_E_JOB_LO s.power.eJob with roles := { s.roles with prev := s.roles.active } }
  let s := updPower (fun p => { p with slack := p.doneSlack.getD 0, doneSlack := none }) s
  let s := updTick (fun t => { t with index := b }) s
  (s.setPair Reg.TICK_INDEX_LO b).setFld Reg.TICK_LAST F.TICK_LAST.DELAY (min d 0xFFFFFF)

/-! ### Effect 2 -/

/-- Every L1 is written back and invalidated, and accepted L1 sizes take effect (R46, R213). -/
def cleanL1s (s : State) : State :=
  forEach (s.cores.map (·.1)) (fun i s => applyL1sz i (if (s.gate i).coreOn then l1Clean i s else s)) s

/-! ### Effect 3b: the capacity view (R57, R321) -/

/-- Clears of granules, remap entries and banks since the last boundary take effect (R301, R303, R304). -/
def applyClears (s : State) : State :=
  let s := forEach (s.stks.map (·.1)) (fun k s => updStk k (fun x => { x with granLeaving := [] }) s) s
  forEach (s.hbm.map (·.1)) (fun m s => s.setMc m { s.mc m with banksLeaving := [], remapsLeaving := [] }) s

/-- Is slab c of stack k in use: powered, its stack not lost and not excluded? -/
def State.slabUsable (s : State) (k c : Nat) : Bool :=
  (s.gate (16 * k + c)).slabOn && s.stackLive k && !s.stackExcluded k

/-- Retired regions of slab c of stack k. -/
def State.regionsOut (s : State) (k c : Nat) : Nat := (s.stk k).bonds.fenced.countP fun x => x.1 == c

/-- Usable resident bytes of slab c of stack k (Table 11-9, R301). -/
def State.residentOf (s : State) (k c : Nat) : Nat :=
  if !s.slabUsable k c then 0
  else
    let res := (s.stk k).l2.res
    let n := s.regionsOut k c
    let g := ((s.granules k).dedup.filter fun x => x.1 == c && decide (x.2 < 128 * res)).length
    (8 - n) * res * 2 ^ 20 - g * (8 - n) * 8192

/-- Port statistics of slab c (Table 11-10). -/
def State.portStat (s : State) (k c : Nat) : Nat :=
  let u := (s.stk k).bonds
  let dead := u.dead.filter fun d => d.bond.slab == c
  ((List.range 8).map fun p =>
    let mine := dead.filter fun d => d.bond.group / 72 == p
    let dep := mine.any DeadBond.open
    let pend := mine.any fun d => d.state == .pending
    let bare := (mine.map (·.bond.group)).any fun g => (u.spares c g).isEmpty
    2 ^ (4 * p) * ((if dep then 1 else 0) + (if pend then 2 else 0) + (if u.fenced.contains (c, p) then 4 else 0)
      + (if bare then 8 else 0))).sum

/-- STATE of a dead-bond entry (Table 11-2). -/
def BondState.code : BondState → Nat
  | .spareLost => 0
  | .substituted => 1
  | .pending => 2
  | .unrepaired => 3

/-- The capacity view of stack k's slabs and bonds (DEDUCED, log entry 32). -/
def recountStack (k : Nat) (s : State) : State :=
  let u := (s.stk k).bonds
  let cs := List.range 16
  let s := s.setReg (Reg.STK_MERE_CAP k) (BitVec.ofNat 32
    ((cs.map (s.residentOf k)).sum / 65536 + 65536 * u.fenced.length))
  let s := s.setFld (Reg.STK_MERE_GRET_CNT k) F.STK_MERE_GRET_CNT.GRANULES (s.granules k).dedup.length
  let s := forEach cs (fun c s => s.setReg (Reg.STK_MERE_PORT_STATc k c) (BitVec.ofNat 32 (s.portStat k c))) s
  let n := s.l2Sets k
  let on (c : Nat) : Nat := if (s.stk k).l2.res = 8 then 0 else (List.range n).countP fun t => !s.setOff k c t
  let plain (c : Nat) : Bool := s.slabUsable k c && s.regionsOut k c == 0 &&
    !(s.gate (16 * k + c)).slabClosing && !(s.granules k).any fun x => x.1 == c
  let sets := (cs.map fun c => if plain c then n else if s.slabUsable k c then on c else 0).sum
  let offPort (c r : Nat) : Bool :=
    !s.slabUsable k c || s.regionRetired k c r || (s.regionRetired k c ((r + 1) % 8) && s.regionRetired k c ((r + 2) % 8))
  let off := (cs.map fun c => if plain c then 0 else (List.range 8).countP (offPort c)).sum
  let s := s.setReg (Reg.STK_L2_CAP k) (BitVec.ofNat 32 (sets + 2 ^ 24 * off))
  let st := Reg.STK_BOND_STAT k
  let s := s.setFld st F.STK_BOND_STAT.ENTRIES (min u.dead.length 128)
  let s := s.setFld st F.STK_BOND_STAT.PENDING (min (u.dead.countP fun d => d.state == .pending) 255)
  let s := s.setFld st F.STK_BOND_STAT.UNREP (min (u.dead.countP fun d => d.state == .unrepaired) 255)
  let s := s.setReg (Reg.STK_BOND_CTRL k) (BitVec.ofNat 32 u.masked.length)
  let s := { s with regs := sdrop (fun a => decide (Reg.STK_BOND_DEADi k 0 ≤ a) && decide (a < Reg.STK_BOND_DEADi k 0 + 512)) s.regs }
  forEach ((u.dead.take 128).zipIdx) (fun (d, i) s =>
    s.setReg (Reg.STK_BOND_DEADi k i) (BitVec.ofNat 32
      (d.bond.group + 2 ^ 10 * d.bond.lane + 2 ^ 16 * d.bond.slab + 2 ^ 20 * d.state.code + 2 ^ 31))) s

/-- The capacity view of HBM controller m (Table 10-12), and the access level of the boundary. -/
def recountHbm (m : Nat) (s : State) : State :=
  let banks := (List.range 48).countP fun k => s.bit (Reg.MCm_BANK_DIS_LO m + 4 * (k / 32)) (k % 32)
  let valid := (List.range 256).countP fun i => s.flag (Reg.MCm_REMAPi_HI m i) F.MCm_REMAPi_HI.VALID
  let s := s.setReg (Reg.MCm_CAP m) (BitVec.ofNat 32 (valid + 2 ^ 16 * banks))
  s.setFld (Reg.THM_HBMm m) F.THM_HBMm.H_BND (s.accessLevel m)

/-- E and CAP of point p (R265). -/
def State.capacity (s : State) (p : Nat) : Nat × Nat :=
  if p < 8 then
    let raw := if s.hbmExcluded p then 0 else match s.fld (Reg.MCm_STAT p) F.MCm_STAT.RATE with
      | 1 => 16384
      | 2 => 12288
      | _ => 0
    let ref := match s.fld (Reg.MCm_STAT p) F.MCm_STAT.REF_MULT with
      | 0 => 97
      | 1 => 94
      | _ => 88
    let banks := 48 - s.fld (Reg.MCm_CAP p) F.MCm_CAP.BANKS_OFF
    let x := raw * ref * banks * (16 - s.accessLevel p)
    (x / 76800, x * 4 / 384000)
  else if p < 16 then
    let lanes := ((List.range 4).map fun k => (s.link (4 * (p - 8) + k)).lanes).sum
    (4000 * lanes / 16, 3800 * lanes / 16)
  else (20000, 18000)

/-- The regulator's capacities follow, and a fall under guarantees is flagged (R265, R266, R268). -/
def recountPoint (p : Nat) (s : State) : State :=
  let (e, cap) := s.capacity p
  let x := s.point p
  let s := if cap < x.cap && x.sum != 0 then
      (s.setFlag Reg.BWR_STAT F.BWR_STAT.SCALED).setFlag (Reg.BWR_Pp_STAT p) F.BWR_Pp_STAT.SCALED
    else s
  updPoint p (fun x => { x with cap := cap, eff := e }) (s.setReg (Reg.BWR_Pp_CAP p) (BitVec.ofNat 32 (cap + 65536 * e)))

/-- The exclusion registers (Table 16-18). -/
def latchExclusions (s : State) : State :=
  let bits (xs : List Nat) : Nat := (xs.map fun i => 2 ^ i).sum
  let s := s.setReg Reg.GCTL_EXCL (BitVec.ofNat 32 (bits s.boot.exclStacks + 2 ^ 24 * bits s.boot.exclHbm))
  forEach (List.range 12) (fun k s => s.setReg (Reg.GCTL_CORE_EXCLk k) (BitVec.ofNat 32
    (bits ((s.boot.exclCores.filter fun i => i / 32 == k).map (· % 32))))) s

/-- Is core i in service: powered and not gated, its stack live, not excluded? -/
def State.coreServing (s : State) (i : Nat) : Bool :=
  (s.gate i).coreOn && s.stackLive (i / 16) && !s.coreExcluded i

/-- Is stack k in service? -/
def State.stackServing (s : State) (k : Nat) : Bool := s.stackLive k && !s.stackExcluded k

/-- Units out of service are no longer admitted, from this boundary in their TL bits (R442). -/
def dropAdmitted (s : State) : State :=
  let s := { s with boot := { s.boot with
    coreIn := s.boot.coreIn.filter s.coreServing, stackIn := s.boot.stackIn.filter s.stackServing } }
  let gone (a : Nat) : Bool :=
    (rowBase a == Reg.CORE_GEN 0 0 && !s.boot.coreIn.contains
      (16 * ((a - Reg.CORE_GEN 0 0) / 0x100000) + (a - Reg.CORE_GEN 0 0) % 0x100000 / 0x1000)) ||
    (rowBase a == Reg.STK_GEN 0 && !s.boot.stackIn.contains ((a - Reg.STK_GEN 0) / 0x100000))
  forEach ((s.regs.map (·.1)).filter gone) (fun a s => s.setFlag a F.CORE_GEN.ADMITTED false) s

/-- Effect 3b. -/
def recount (s : State) : State :=
  let s := applyClears s
  let s := forEach (s.stks.map (·.1)) (fun k s => applySplit k s) s
  let s := forEach (List.range 24) recountStack s
  let s := forEach (List.range 8) recountHbm s
  let s := forEach (List.range 40) recountPoint s
  dropAdmitted (latchExclusions s)

/-! ### Effects 3c and 3d -/

/-- Effect 3c: every pending unit is admitted, with its new generation (R442). -/
def admitUnits (s : State) : State :=
  let b := s.boot
  let cores := b.corePend.filter s.coreServing
  let stks := b.stackPend.filter s.stackServing
  let s := { s with boot := { b with
    corePend := [], stackPend := [], coreIn := cores.foldr insertNat b.coreIn, stackIn := stks.foldr insertNat b.stackIn } }
  let s := forEach cores (fun i s => s.setReg (Reg.CORE_GEN (i / 16) (i % 16))
    (BitVec.ofNat 32 (sget (fun _ => 0) b.coreGen i + 65536))) s
  forEach stks (fun k s => s.setReg (Reg.STK_GEN k) (BitVec.ofNat 32 (sget (fun _ => 0) b.stackGen k + 65536))) s

/-- Effect 3d: an armed commit whose boundary this is, or whose counting restarts here, takes effect
(R439). -/
def applyRoles (b : Nat) (restarts : Bool) (s : State) : State :=
  let r := s.roles
  let r := match r.commit with
    | some (n, e) => if n = b || restarts then { r with active := r.staged, epoch := e, commit := none } else r
    | none => r
  { s with roles := r }.setFld Reg.GCTL_ROLE_STAT F.GCTL_ROLE_STAT.EPOCH r.epoch

/-- The job feature set (R446). -/
def applyJobFeat (s : State) : State :=
  s.setReg Reg.GCTL_JOBFEAT (BitVec.ofNat 32
    (s.members.foldl (fun f x => f &&& F.GCTL_MEMB_VAL_HI.FEAT.get (s.membHi x.1)) 0x3F))

/-! ### Effects 3f and 3g and what follows them -/

/-- For a faster step every VDD_CORE and VDD_UNC regulator has risen to its new target before the clocks switch; for a
slower one the voltages fall during the new tick (R363). -/
def raiseVolts (s : State) : State :=
  let ds := (List.range 384 ++ (List.range 24).map (768 + ·)).filter fun d => (s.domain d).1
  updPower (fun p => { p with
    vout := ds.foldl (fun m d => sset (fun _ => 0) m d (max (sget (fun _ => 0) m d) (s.domain d).2)) p.vout }) s

/-- Effect 3f, with the ramp-down of the arrays when the step changes (R362, R207). -/
def setStep (s : State) : State :=
  let old := s.power.step
  let s := chooseStep s
  if s.power.step = old then s
  else forEach (s.cores.map (·.1)) rampForStep (if s.power.step < old then raiseVolts s else s)

/-- Effect 3g: the period `p` takes effect (R34). -/
def applyPeriod (p : Nat) (keep : Bool) (s : State) : State :=
  let pend := if keep then s.tick.pend.filter (· != p) else none
  let s := updTick (fun t => { t with period := p, pend := pend }) s
  s.setReg Reg.TICK_PERIOD (match pend with
    | some u => BitVec.ofNat 32 (u + 2 ^ 31)
    | none => BitVec.ofNat 32 p)

/-- TICK_OUT is high for 64 ns ± 2 ns from 12 ns ± 2 ns after a boundary (R37, R493): times of `now`, in 1/8 ns. -/
def tickPulse (s : State) : State :=
  let (x, s) := s.draw 5
  let (y, s) := s.draw 5
  let rise := s.now + 80 + x.toNat
  { s with lands := { s.lands with tickOutFrom := rise, tickOutUntil := rise + 496 + y.toNat } }

/-- The level of TICK_OUT: low while it is disabled and while any reset is in effect (R493). -/
def State.tickOut (s : State) : Bool :=
  s.flag Reg.TICK_CTL F.TICK_CTL.OUT_EN && !s.down && !s.inReset &&
    decide (s.lands.tickOutFrom ≤ s.now) && decide (s.now < s.lands.tickOutUntil)

/-- The boundary counts against every open fault window, the error log's filter and the freezes (R449, R296,
R60); TICK_OUT pulses (R37); declarations of the tick await their record (R319). -/
def endTick (s : State) : State :=
  let dec (x : RecLife) : RecLife := { x with left := x.left - 1 }
  let s := forEach s.faults.recs (fun e s => setRecLife e.1 (dec e.2) s) s
  let s := forEach s.faults.floods (fun e s => setFloodLife e.1 (dec e.2) s) s
  let s := { s with erl := { s.erl with filter := [] } }
  let s := if s.frozenHost.isSome then s.bump Reg.TICK_SNAP_CTL F.TICK_SNAP_CTL.MISSED_HOST else s
  let s := if s.frozenMgmt.isSome then s.bump Reg.TICK_SNAP_CTL F.TICK_SNAP_CTL.MISSED_MGMT else s
  let s := if s.flag Reg.TICK_CTL F.TICK_CTL.OUT_EN && !s.inReset then tickPulse s else s
  if s.boot.recDirty then
    { s with boot := { s.boot with recDirty := false, recDue := some (s.boot.recDue.getD (s.now + msec 50)) } }
  else s

/-- The tick that opens: no done, no overrun, no release yet; per-tick state of cores and channels begins
anew. A free-mode boundary (`keep`) keeps the READYs heard and a boundary 0 still ahead (R44). -/
def openTick (keep : Bool) (t0 : Nat) (s : State) : State :=
  let s := updTick (fun t => { t with
    bnd := t0, started := true, rel := if keep then t.rel else none, ready := if keep then t.ready else [],
    done := [], badDone := false, doneSent := false, ovr := false }) s
  let s := updPower (fun p => { p with reported := false }) s
  let s := (s.setFlag Reg.TICK_STAT F.TICK_STAT.OVERRUN false).setFlag Reg.TICK_STAT F.TICK_STAT.WAITING false
  let s := forEach (s.cores.map (·.1)) (fun i s =>
    updCore i (fun c => { c with stopCount := 0 }) s) s
  let s := bwrRestart s
  forEach s.stks (fun e s => forEach (e.2.chans.map (·.1)) (fun n s =>
    updChan e.1 n (fun c => { c with fired := false, late := false }) s) s) s

/-- Groups that wait for the boundary go on, armed slots start, and held triggers start their activations
(R65, R66, R245). -/
def resumeWork (job0 : Bool) (s : State) : State :=
  let s := forEach (s.cores.map (·.1)) (fun i s =>
    let s := updCore i (fun c => (List.range 8).foldl (fun c g =>
      let x := c.slot g
      if x.state = .tickWait then c.setSlot g { x with state := .running } else c) c) s
    startArmed job0 i s) s
  forEach s.stks (fun e s => forEach (e.2.chans.map (·.1)) (fun n s => startHeld e.1 n s) s) s

/-- Note a late boundary (R50). -/
def noteLate (d : Nat) (s : State) : State :=
  if d = 0 then s
  else (s.setFlag Reg.TICK_STAT F.TICK_STAT.LATE_SEEN).bump Reg.TICK_LATE_CNT F.TICK_LATE_CNT.COUNT

/-! ### Boundaries -/

/-- What kind of boundary opens: free mode, boundary 0 of a job, or one inside a job. -/
inductive BndKind where
  | free
  | job0
  | job
  deriving DecidableEq, Repr

/-- A normal boundary at time `t0` with index `b` (R46): the effects of Table 2-5 in order. -/
def boundary (kind : BndKind) (b t0 period vin : Nat) (s : State) : State :=
  let s := forEach (s.cores.map (·.1)) stopCore (s.advanceTb (64 * t0))
  let d := if kind = .job then t0 - s.nominalEnd else 0
  let restarts := kind = .job0 || (kind = .free && s.tick.restart)
  let s := forEach (s.cores.map (·.1)) rampPass s
  let s := cleanL1s (latchTick b d s)
  let s := recount (applyRoutes s)
  let s := applyRoles b restarts (admitUnits s)
  let s := if kind = .job0 then applyJobFeat s else s
  let s := setStep (applyBudget (kind != .job) b vin s)
  let s := applyPeriod period (kind != .free && s.tickRoot) s
  let s := openTick (kind = .free) t0 (endTick (if kind = .job then noteLate d s else s))
  let s := match kind with
    | .free =>
      let s := if s.tickState = 3 then setTickState 0 s else s
      updTick (fun t => { t with restart := false, fromFree := true }) s
    | .job0 => updTick (fun t => { t with restart := false, unreach := [], invalid := false })
        (setTickState 2 (s.setFlag Reg.TICK_CTL F.TICK_CTL.START false))
    | .job => s
  let s := resumeWork (kind = .job0) s
  if kind = .job && s.tickRoot && !s.tick.unreach.isEmpty then declareFault s else s

/-- The index of the coming free-mode boundary (Table 2-10). -/
def State.nextFree (s : State) : Nat := if !s.tick.started || s.tick.restart then 0 else s.tick.index + 1

/-- TICK_BOUNDARY without what the service controller does at it: the boundary that is due next, if it is no
stopping boundary (DEDUCED, log entry 32). -/
def tickBoundary (vin : Nat) (s : State) : State :=
  let free := fun (s : State) => boundary .free s.nextFree s.nominalEnd (s.tick.pend.getD s.tick.period) vin s
  match s.tick.rel with
  | none => if s.inJob then s else free s
  | some r =>
    if s.inJob then if r.stop then s else boundary .job r.index r.time r.period vin s
    else if s.inStarting && r.time ≤ s.nominalEnd then boundary .job0 0 r.time r.period vin s
    else free s

/-- A stopping boundary with release `r` (R54, R68, R69, R208, R379, R400) (DEDUCED, log entry 32). -/
def stopBoundary (r : Release) (s : State) : State :=
  let s := forEach (s.cores.map (·.1)) stopCore (s.advanceTb (64 * r.time))
  let d := r.time - s.nominalEnd
  let invalid := s.tick.invalid || s.tick.badDone
  let s := forEach (s.cores.map (·.1)) (fun i s => rampPass i (settleStores i (haltSlots false i s))) s
  let s := forEach s.stks (fun e s => forEach (e.2.chans.map (·.1)) (fun n s => abortCh e.1 n s) s) s
  let s := cleanL1s (latchTick r.index d s)
  let s := setStep (recount (applyRoutes s))
  let s := openTick false r.time (endTick (noteLate d s))
  let s := forEach (s.cores.map (·.1)) (fun i s => dropLoads i (tensorReset i (emptySlots false i s))) s
  let s := forEach s.stks (fun e s => forEach (List.range 4) (fun q s => claimRearm e.1 q s) s) s
  let s := setTickState 3 s
  let s := if r.fault then s.setFlag Reg.TICK_STAT F.TICK_STAT.FAULT else s
  let s := if r.invalid || invalid then s.setFlag Reg.TICK_STAT F.TICK_STAT.INVALID else s
  let s := s.setReg Reg.TICK_CTL (s.reg Reg.TICK_CTL &&& ~~~3#32)
  let s := s.setFlag Reg.TICK_STOP_CTL F.TICK_STOP_CTL.END_EN
    (s.flag Reg.TICK_STOP_CTL F.TICK_STOP_CTL.END_EN && !r.byEnd)
  let s := updTick (fun t => { t with
    restart := true, unreach := [], invalid := false, fromFree := false,
    pend := if s.tickRoot || r.period = t.period then t.pend else some r.period }) s
  let s := updPower (fun p => { p with dec := none, inc := none, round := none, pool := 0, reports := [], incSent := [] }) s
  forEach s.stks (fun e s => forEach (e.2.chans.map (·.1)) (fun n s => startHeld e.1 n s) s) s

/-- STOPPING_BOUNDARY: the boundary whose release carries the stop flag. -/
def execStoppingBoundary (_vin : Nat) (s : State) : Out := ifUp s <|
  match s.tick.rel with
  | some r => if s.inJob && r.stop then .next (stopBoundary r s) else .next s
  | none => .next s

/-- RELEASE_LOST: no release by the nominal end plus 4 periods plus 2 × rel_lat (R52, R448). -/
def execReleaseLost (s : State) : Out := ifUp s <|
  if !s.inJob || s.tick.rel.isSome then .next s
  else
    let due := s.nominalEnd + 4 * s.tick.period + 2 * s.relLat
    let root := s.rootPkg
    let s := stopBoundary { index := s.tick.index + 1, time := due, period := s.tick.period, stop := true, fault := true } s
    .next (reportPkg root 0x04 3 (s.setFlag Reg.TICK_STAT F.TICK_STAT.RELEASE_LOST))

/-! ### TICK_IN -/

/-- TICK_IN_EDGE: the timebase phase moves to the nearest multiple of the period, unless the edge comes
within 2 µs of the last one (R37, R493). Which of two equally near multiples is taken is left open. -/
def execTickInEdge (s : State) : Out := ifUp s <|
  let close := match s.lands.tickInAt with
    | some t => decide (s.now < t + usec 2)
    | none => false
  if !s.tickInRoot || close then .next s
  else
    let s := { s with lands := { s.lands with tickInAt := some s.now } }
    let p := 64 * s.tick.period
    let r := s.tb % p
    let down := s.tb - r
    if 2 * r < p then .next { s with tb := down }
    else if p < 2 * r then .next { s with tb := down + p }
    else
      let (u, s) := s.draw 1
      .next { s with tb := if u = 0 then down else down + p }

end Sys2Proof.Machine
end

