-- ==== Sys2Proof/Machine/RegRead.lean ====
section
/-! DEFINITION. What a read of register space gives: registers held in unit state, the registers a boundary
measures, the frozen views of R60, the pair latches of R464 and the blocks a reset hides (R29, R414,
R463-R466). -/

namespace Sys2Proof.Machine

open Sys2Proof

/-- The index of a register in each of its row's strides, outermost first. -/
def rowIdx : List (Nat × Nat) → Nat → List Nat
  | [], _ => []
  | (_, x) :: t, d => d / x :: rowIdx t (d % x)

/-- Index `j` of a register. -/
def ixAt (ix : List Nat) (j : Nat) : Nat := ix.getD j 0

/-- The global core of a register whose first indices are stack and core. -/
def ixCore (ix : List Nat) : Nat := 16 * ixAt ix 0 + ixAt ix 1

/-! ### Registers a boundary measures (R91, R370, R371) -/

/-- The rows of the registers whose value a counter of cycles gives at a boundary. -/
def measuredRows : List Nat :=
  [Reg.CORE_CNT_DUAL 0 0, Reg.CORE_CNT_IDLE 0 0, Reg.CORE_CNT_QSTALL 0 0, Reg.CORE_CNT_TSTALL 0 0,
   Reg.CORE_CNT_TACT 0 0, Reg.CORE_CNT_TDSTALL 0 0, Reg.TICK_BND]

/-- The measured register at `a`: zero until a boundary has passed, then what the last one measured. -/
def State.measuredAt (s : State) (a : Nat) (mask : Word32) : Word32 :=
  match s.meas with
  | none => 0
  | some x => Config.measured x.n a &&& mask

/-- An energy register: zero until a boundary has passed, then the energy of the tick it ended, in µJ (Table 13-13). -/
def readEnergy (f : State → Meas → Nat) (s : State) : Word32 :=
  match s.meas with
  | none => 0
  | some x => BitVec.ofNat 32 (f s x)

def readUnitE (u : EUnit) : State → Word32 := readEnergy fun s x => s.unitEnergy x u

/-- PWR_ROLE_E: the energy of the unit of this package that held the selected role in the last tick (R372) (DEDUCED, log entry 56). -/
def readRoleE (s : State) : Word32 :=
  let w := sget (fun _ => 0) s.roles.prev (s.fld Reg.PWR_ROLE_SEL F.PWR_ROLE_SEL.ROLE)
  let i := F.GCTL_ROLE_VAL.INDEX.get w
  if F.GCTL_ROLE_VAL.VALID.get w = 0 ∨ F.GCTL_ROLE_VAL.PKG.get w ≠ s.pkgId then 0
  else match F.GCTL_ROLE_VAL.KIND.get w with
    | 1 => readEnergy State.pkgEnergy s
    | 2 => readUnitE (.stack i) s
    | 3 => readUnitE (.core i) s
    | _ => 0

/-! ### Registers held in unit state -/

/-- GCTL_ROLE_VAL: the entry of the bank GCTL_ROLE_SEL names. -/
def readRoleVal (s : State) : Word32 :=
  let r := s.fld Reg.GCTL_ROLE_SEL F.GCTL_ROLE_SEL.ROLE
  if r = 0xFFFF then 0
  else if s.flag Reg.GCTL_ROLE_SEL F.GCTL_ROLE_SEL.BANK then sget (fun _ => 0) s.roles.staged r
  else sget (fun _ => 0) s.roles.active r

/-- The membership entry GCTL_MEMB_SEL names. -/
def State.membSel (s : State) : Nat := s.fld Reg.GCTL_MEMB_SEL F.GCTL_MEMB_SEL.INDEX

def readMembStat (s : State) : Word32 :=
  let w := s.reg Reg.GCTL_MEMB_STAT
  match s.selfIndex with
  | some i => F.GCTL_MEMB_STAT.FOUND.put (F.GCTL_MEMB_STAT.SELF.put w i) 1
  | none => w

/-- GCTL_INT_STAT (Table 18-6). -/
def readIntStat (s : State) : Word32 :=
  BitVec.ofNat 32 (((List.range 32).filter s.intCond).map (2 ^ ·)).sum

/-- The code of a slot's state (Table 3-2). -/
def SlotState.code : SlotState → Nat
  | .empty => 0
  | .armedJob => 1
  | .armedNow => 1
  | .running => 2
  | .tickWait => 3
  | .halted => 4

/-- CORE_STAT (Table 3-9). -/
def readCoreStat (i : Nat) (s : State) : Word32 :=
  let w := s.reg (Reg.CORE_STAT (i / 16) (i % 16))
  let codes := ((List.range 8).map fun g => 8 ^ g * (s.slot i g).state.code).sum
  let w := F.CORE_STAT.SLOT_STATE.put w codes
  let w := F.CORE_STAT.TRAPPED.put w (if (s.core i).anySlot fun x => x.state == .halted && x.trapped then 1 else 0)
  F.CORE_STAT.DONE.put w (if s.coreDone i then 1 else 0)

def readIcStat (i : Nat) (s : State) : Word32 :=
  let w := s.reg (Reg.CORE_IC_STAT (i / 16) (i % 16))
  F.CORE_IC_STAT.BUSY.put (F.CORE_IC_STAT.PINNED.put w (s.core i).ic.pinned) (if (s.core i).ic.busy then 1 else 0)

/-- CORE_TNS_STAT (Table 6-8). -/
def readTnsStat (i : Nat) (s : State) : Word32 :=
  let t := (s.core i).tns
  let ramp := match t.ramp with
    | .idle => 0
    | .up _ => 1
    | .active => 2
    | .down _ => 3
  let b (x : Bool) (n : Nat) : Nat := if x then 2 ^ n else 0
  BitVec.ofNat 32 (t.cmdq.length % 32 + 2 ^ 5 * ramp + 2 ^ 8 * t.front.fmt + 2 ^ 12 * t.back.fmt
    + 2 ^ 16 * t.back.rows + b t.loading.isSome 24 + b (!t.rows.isEmpty) 25 + b (t.tdrn.isSome || t.tclr.isSome) 26)

/-- CORE_TNS_QOCC_A, B and D: entries present in each of four queues (Table 6-9). -/
def readQocc (q : SMap (List Entry)) : Word32 :=
  BitVec.ofNat 32 ((List.range 4).map fun j => 256 ^ j * (sget (fun _ => []) q j).length).sum

def readGen (a : Nat) (pend : Bool) (s : State) : Word32 := F.CORE_GEN.PENDING.put (s.reg a) (if pend then 1 else 0)

/-- BWR_Pp_STAT (Table 9-11). -/
def readPointStat (p : Nat) (s : State) : Word32 :=
  let x := s.point p
  F.BWR_Pp_STAT.SHARE.put (F.BWR_Pp_STAT.SUM.put (s.reg (Reg.BWR_Pp_STAT p)) x.sum) x.share

/-- LNKp_LSTATk; REV reads while the link is ACTIVE. -/
def readLinkStat (l : Nat) (s : State) : Word32 :=
  let w := readLstat l s
  if s.linkUp l then w else F.LNKp_LSTATk.REV.put w 0

/-- The registers that are computed when read, by row. -/
def regReads : List (Nat × (List Nat → State → Word32)) := [
  (Reg.GCTL_RST, fun _ _ => 0),
  (Reg.TICK_SYNC, fun _ s => if s.tickRoot then 0 else s.reg Reg.TICK_SYNC),
  (Reg.SVC_MB_CMD, fun _ _ => 0),
  (Reg.GCTL_ROLE_VAL, fun _ s => readRoleVal s),
  (Reg.GCTL_ROLE_STAT, fun _ s =>
    F.GCTL_ROLE_STAT.PEND.put (s.reg Reg.GCTL_ROLE_STAT) (if s.roles.commit.isSome then 1 else 0)),
  (Reg.GCTL_MEMB_VAL_LO, fun _ s => s.membLo s.membSel),
  (Reg.GCTL_MEMB_VAL_HI, fun _ s => s.membHi s.membSel),
  (Reg.GCTL_MEMB_STAT, fun _ s => readMembStat s),
  (Reg.GCTL_INT_STAT, fun _ s => readIntStat s),
  (Reg.MSMB_STAT, fun _ s => F.MSMB_STAT.I3C.put (s.reg Reg.MSMB_STAT) (if s.smb.i3c then 1 else 0)),
  (Reg.PWR_ROLE_E, fun _ s => readRoleE s),
  (Reg.PWR_E_PKG, fun _ s => readEnergy State.pkgEnergy s),
  (Reg.PWR_E_MEAS, fun _ s => readEnergy State.measEnergy s),
  (Reg.PWR_E_LNKp 0, fun ix s => readUnitE (.port (ixAt ix 0)) s),
  (Reg.PWR_E_MCm 0, fun ix s => readUnitE (.hbm (ixAt ix 0)) s),
  (Reg.STK_E_TICK 0, fun ix s => readUnitE (.stack (ixAt ix 0)) s),
  (Reg.CORE_E_TICK 0 0, fun ix s => readUnitE (.core (ixCore ix)) s),
  (Reg.PWR_VFk 0, fun ix s =>
    if s.fuses.gradeE && decide (ixAt ix 0 < 2) then 0 else BitVec.ofNat 32 (s.vf (ixAt ix 0))),
  (Reg.THM_STAT, fun _ s => readThmStat s),
  (Reg.THM_HBMm 0, fun ix s => readThmHbm (ixAt ix 0) s),
  (Reg.THM_DIEd 0, fun ix s => readThmDie (ixAt ix 0) s),
  (Reg.BWR_GVAL, fun _ s => BitVec.ofNat 32 (readGval s)),
  (Reg.BWR_Pp_STAT 0, fun ix s => readPointStat (ixAt ix 0) s),
  (Reg.LNKp_LSTATk 0 0, fun ix s => readLinkStat (4 * ixAt ix 0 + ixAt ix 1) s),
  (Reg.LNK_RTd_HI 0, fun ix s => readRouteHi (ixAt ix 0) s),
  (Reg.CRC_u_STAT 0, fun ix s => readCrcStat (ixAt ix 0) s),
  (Reg.STK_GEN 0, fun ix s => readGen (Reg.STK_GEN (ixAt ix 0)) (s.boot.stackPend.contains (ixAt ix 0)) s),
  (Reg.CORE_GEN 0 0, fun ix s =>
    readGen (Reg.CORE_GEN (ixAt ix 0) (ixAt ix 1)) (s.boot.corePend.contains (ixCore ix)) s),
  (Reg.STK_CLAIMq_STAT 0 0, fun ix s => readClaimStat (ixAt ix 0) (ixAt ix 1) s),
  (Reg.STK_SE_CHn_STAT 0 0, fun ix s => readChStat (ixAt ix 0) (ixAt ix 1) s),
  (Reg.STK_BOND_LB 0, fun ix s => readBondLb (ixAt ix 0) s),
  (Reg.CORE_STAT 0 0, fun ix s => readCoreStat (ixCore ix) s),
  (Reg.CORE_IC_STAT 0 0, fun ix s => readIcStat (ixCore ix) s),
  (Reg.CORE_TNS_STAT 0 0, fun ix s => readTnsStat (ixCore ix) s),
  (Reg.CORE_TNS_QOCC_A 0 0, fun ix s => readQocc (s.core (ixCore ix)).tns.ta),
  (Reg.CORE_TNS_QOCC_B 0 0, fun ix s => readQocc (s.core (ixCore ix)).tns.tb),
  (Reg.CORE_TNS_QOCC_D 0 0, fun ix s => readQocc (s.core (ixCore ix)).tns.td),
  (Reg.CORE_PWR_CTL 0 0, fun ix s => readCorePwr (ixCore ix) s)]

/-! ### One register -/

/-- A word of the log ring (R293), of the service controller's window (R430), or of the table of energy coefficients
(R370); other reserved offsets read zero (R29). -/
def readPlain (a : Nat) (s : State) : Word32 :=
  if 0x201000 ≤ a ∧ a < 0x203000 then
    let o := a - 0x201000
    (sget (fun _ => []) s.erl.ring (o / 32)).getD (o % 32 / 4) 0
  else if 0x21000 ≤ a ∧ a < 0x22000 then
    BitVec.ofNat 32 (leNat ((List.range 4).map fun i => sget (fun _ => 0) s.boot.window (a - 0x21000 + i)))
  else if 0x41000 ≤ a ∧ a < 0x41054 then Config.coeff ((a - 0x41000) / 4)
  else 0

/-- The register at `a` as it stands (DESIGN CHOICE, log entry 8). -/
def readLive (a : Nat) (s : State) : Word32 :=
  match regRowAt a with
  | none => readPlain a s
  | some r =>
    if measuredRows.contains r.base then s.measuredAt a r.tl
    else match regReads.find? fun f => f.1 == r.base with
      | some f => f.2 (rowIdx r.strides (a - r.base)) s
      | none => s.reg a

/-- A register of a stack, or of a check-value unit of one (Table 1-7). -/
def stackReg (a : Nat) : Bool :=
  (decide (0x300000 ≤ a) && decide (a < 0x330000)) || (decide (0x1000000 ≤ a) && decide (a < 0x2800000))

/-- Is the block of register `a` reachable: a package held in warm reset shows GCTL, TICK, SVC and the link ports only, a
compute-only reset hides the stacks and their check-value units, and stacks and HBM controllers answer once they are
powered (R414, R420, Table 16-2) (DEDUCED, log entry 13). -/
def State.blockUp (s : State) (a : Nat) : Bool :=
  (s.boot.resetting.isNone || decide (a < 0x30000) || (decide (0x80000 ≤ a) && decide (a < 0x100000))) &&
    !(s.inReset && s.fld Reg.GCTL_BOOT F.GCTL_BOOT.LAST_RST == 2 && stackReg a) &&
    (s.unitsUp ||
      !((decide (0x100000 ≤ a) && decide (a < 0x180000)) || decide (0x1000000 ≤ a)))

/-- The frozen view a path reads TL fields through (R60). -/
def State.frozenFor (s : State) : Path → Option Frozen
  | .pcie => s.frozenHost
  | .mspi => s.frozenMgmt
  | .smb => s.frozenMgmt
  | _ => none

/-- `s` with the TL fields of a frozen view; PWR_ROLE_SEL is no TL field (R59, R60). -/
def State.asFrozen (s : State) (f : Frozen) : State :=
  { s with regs := sset regReset f.regs Reg.PWR_ROLE_SEL (s.reg Reg.PWR_ROLE_SEL), meas := f.meas,
           roles := { s.roles with prev := f.prev } }

/-- The register at `a` as path `p` reads it. -/
def readReg (p : Path) (a : Nat) (s : State) : Word32 :=
  if !s.blockUp a && p != .svc then 0
  else
    let v := readLive a s
    match s.frozenFor p, regRowAt a with
    | some fr, some r => (v &&& ~~~r.tl) ||| (readLive a (s.asFrozen fr) &&& r.tl)
    | _, _ => v

/-! ### Accesses (R463, R464, R466) -/

/-- The number of a path (Table 18-5). -/
def Path.code : Path → Nat
  | .pcie => 0
  | .svc => 1
  | .mspi => 2
  | .smb => 3
  | .mgmt => 4
  | .group => 5

/-- The core whose claim a read of STK_CLAIMq_TAKE is: the host and the service controller claim as core 16
(R395) (DEDUCED, log entry 16). -/
def hostClaimer : Nat := 16

/-- A read of the whole 32-bit register at `a` on path `p`, by `who` for a claim, with the pair latch (R464) (DEDUCED, log entry 11, DEDUCED, log entry 16). -/
def readWord (p : Path) (who a : Nat) (s : State) : Word32 × State :=
  let row := regRowAt a
  let take := match row with
    | some r => if r.base = Reg.STK_CLAIMq_TAKE 0 0 ∧ s.blockUp a then some (rowIdx r.strides (a - r.base)) else none
    | none => none
  match take with
  | some ix => takeClaim (ixAt ix 0) (ixAt ix 1) who s
  | none =>
    match sget (fun _ => none) s.latch p.code with
    | some (b, w) =>
      if b = a then (w, { s with latch := sset (fun _ => none) s.latch p.code none })
      else if (row.map (·.pairLo)).getD false then
        (readReg p a s, { s with latch := sset (fun _ => none) s.latch p.code (some (a + 4, readReg p (a + 4) s)) })
      else (readReg p a s, s)
    | none =>
      if (row.map (·.pairLo)).getD false then
        (readReg p a s, { s with latch := sset (fun _ => none) s.latch p.code (some (a + 4, readReg p (a + 4) s)) })
      else (readReg p a s, s)

/-- A refusal of R465, R466 or R459, captured or counted (R468) (DEDUCED, log entry 54). -/
def accErr (p : Path) (kind off : Nat) (s : State) : State :=
  let hi := Reg.GCTL_ACC_ERR_HI
  if s.flag hi F.GCTL_ACC_ERR_HI.VALID then s.bump hi F.GCTL_ACC_ERR_HI.MORE
  else
    (s.setReg Reg.GCTL_ACC_ERR_LO (BitVec.ofNat 32 (off % 2 ^ 26))).setReg hi
      (BitVec.ofNat 32 (kind + 2 ^ 4 * p.code + 2 ^ 31))

/-- Do `n` bytes at `a` cross a 4 KiB boundary of register space (R466)? -/
def crosses (a n : Nat) : Bool := a / 4096 != (a + n - 1) / 4096

/-- The registers that `n` bytes at `a` touch, ascending. -/
def wordsOf (a n : Nat) : List Nat := (List.range ((a + n + 3) / 4 - a / 4)).map fun i => 4 * (a / 4 + i)

/-- A read of `n` bytes at offset `a` (R463, R464, R466); none: it crosses a 4 KiB boundary (DEDUCED, log entry 62). -/
def readAccess (p : Path) (who a n : Nat) (s : State) : Option (List Byte) × State :=
  if n = 0 then (some [], s)
  else if crosses a n then (none, accErr p 2 a s)
  else
    let (bs, s) := (wordsOf a n).foldl (fun (x : List Byte × State) w =>
      let (v, s) := readWord p who w x.2
      (x.1 ++ leBytes 4 v.toNat, s)) ([], s)
    (some ((bs.drop (a % 4)).take n), s)

end Sys2Proof.Machine
end

