-- ==== Sys2Proof/Machine/RegWrite.lean ====
section
/-! DEFINITION. Writes of register space: access codes (R9), the effects of registers that have one of their
own, byte enables and whole-write registers (R465), the configuration lock (R428) and interrupts (R462). The
mailbox command and GCTL_RST are in Access. -/

namespace Sys2Proof.Machine

open Sys2Proof

/-! ### GCTL -/

/-- A write of GCTL_MODE: ignored in starting and job state; a change of PAIR resets every accumulator (R158,
R209, R433). -/
def writeMode (v : Word32) (s : State) : State :=
  let old := s.reg Reg.GCTL_MODE
  if !s.noJob then s
  else
    let s := s.setReg Reg.GCTL_MODE (v &&& 0xF)
    if F.GCTL_MODE.PAIR.get old = F.GCTL_MODE.PAIR.get v then s else clearAccs s

/-- A write of GCTL_PKG_ID before the lock sets PKG_ID and SET (R30). -/
def writePkgId (v : Word32) (s : State) : State :=
  if s.flag Reg.GCTL_LOCK F.GCTL_LOCK.LOCK then s
  else identChanged (s.setReg Reg.GCTL_PKG_ID ((v &&& 0xFFF) ||| 0x10000))

/-- Writing 1 to VALID clears every field of both registers of a capture (R31, R93, R468). -/
def clearCapture (lo : Nat) (v : Word32) (s : State) : State :=
  if v.getLsbD 31 then (s.setReg lo 0).setReg (lo + 4) 0 else s

def roleIgn (s : State) : State := s.setFlag Reg.GCTL_ROLE_STAT F.GCTL_ROLE_STAT.IGN

/-- A write of GCTL_ROLE_VAL writes an entry of the staged bank (R439, Table 17-5) (DEDUCED, log entry 55). -/
def writeRoleVal (v : Word32) (s : State) : State :=
  let r := s.fld Reg.GCTL_ROLE_SEL F.GCTL_ROLE_SEL.ROLE
  if !s.flag Reg.GCTL_ROLE_SEL F.GCTL_ROLE_SEL.BANK || r == 0xFFFF then s
  else if s.roles.commit.isSome || (F.GCTL_ROLE_VAL.KIND.get v == 0 && v.getLsbD 31) then roleIgn s
  else { s with roles := { s.roles with staged := sset (fun _ => 0) s.roles.staged r (v &&& 0x80FFFFFF) } }

/-- A write of GCTL_ROLE_CMT_HI arms the commit, unless one is armed or its boundary has passed (R439). -/
def writeRoleCmt (v : Word32) (s : State) : State :=
  let b := (s.reg Reg.GCTL_ROLE_CMT_LO).toNat + 2 ^ 32 * F.GCTL_ROLE_CMT_HI.BND_HI.get v
  if s.roles.commit.isSome then roleIgn s
  else
    let s := s.setReg Reg.GCTL_ROLE_CMT_HI v
    if s.tick.started && decide (b ≤ s.tick.index) then s.setFlag Reg.GCTL_ROLE_STAT F.GCTL_ROLE_STAT.LATE
    else { s with roles := { s.roles with commit := some (b, F.GCTL_ROLE_CMT_HI.EPOCH.get v) } }

/-- A write of a half of a membership entry (R443). -/
def writeMemb (hi : Bool) (v : Word32) (s : State) : State :=
  let i := s.membSel
  if !s.noJob then s.setFlag Reg.GCTL_MEMB_STAT F.GCTL_MEMB_STAT.IGN
  else if hi then { s with roles := { s.roles with membHi := sset (fun _ => 0) s.roles.membHi i (v &&& 0x3FFFFF) } }
  else { s with roles := { s.roles with membLo := sset (fun _ => 0) s.roles.membLo i (v &&& 0x80FFFFFF) } }

/-- A write of MSPI_STAT: clearing FRAME_ERR clears FRAMES (Table 18-10). -/
def writeMspiStat (v : Word32) (s : State) : State :=
  let w := s.reg Reg.MSPI_STAT &&& ~~~(v &&& 0xF#32)
  s.setReg Reg.MSPI_STAT (if v.getLsbD 0 then F.MSPI_STAT.FRAMES.put w 0 else w)

/-! ### FLT -/

/-- A write of FLT_CFG: a WINDOW of 0 leaves the window (Table 17-10). -/
def writeFltCfg (v : Word32) (s : State) : State :=
  let old := s.reg Reg.FLT_CFG
  let w := v &&& 0xFFF001FF
  s.setReg Reg.FLT_CFG (if F.FLT_CFG.WINDOW.get v = 0 then F.FLT_CFG.WINDOW.put w (F.FLT_CFG.WINDOW.get old) else w)

/-- Writing 1 to VALID frees record i, or the flood record of class c, and clears its pending bit (R449). -/
def freeRecord (flood : Bool) (i : Nat) (v : Word32) (s : State) : State :=
  if !v.getLsbD 31 then s
  else
    let b := if flood then Reg.FLT_FLOODc_SUBJ i else Reg.FLT_RECi_SUBJ i
    let pend := if flood then Reg.FLT_FPEND_LO else Reg.FLT_PEND_LO
    let s := { s with regs := sdrop (fun a => decide (b ≤ a) && decide (a < b + 0x40)) s.regs }
    let s := if flood then setFloodLife i RecLife.reset s else setRecLife i RecLife.reset s
    intEvent 0 (s.clrBit (pend + 4 * (i / 32)) (i % 32))

/-! ### BWR -/

/-- A write of BWR_GSEL: a POINT of 40 to 63 leaves that field (Table 9-6). -/
def writeGsel (v : Word32) (s : State) : State :=
  let w := v &&& 0x3F07FF
  s.setReg Reg.BWR_GSEL (if 40 ≤ F.BWR_GSEL.POINT.get v then F.BWR_GSEL.POINT.put w (s.fld Reg.BWR_GSEL F.BWR_GSEL.POINT) else w)

/-- A write of BWR_Pp_CFG: LEVEL lies between 8 and the queue depth (Table 9-10). -/
def writePointCfg (p : Nat) (v : Word32) (s : State) : State :=
  let l := F.BWR_Pp_CFG.LEVEL.get v
  if 8 ≤ l ∧ l ≤ pointDepth p then s.setReg (Reg.BWR_Pp_CFG p) (v &&& 0x1FF) else s

/-! ### Cores -/

/-- A write to a register of slot g, refused unless the slot is empty and the core in service (R65, R70). -/
def writeSlotReg (i g a : Nat) (v : Word32) (s : State) : State :=
  if (s.slot i g).state != .empty || !s.coreLaunchable i then
    s.setFlag (Reg.CORE_STAT (i / 16) (i % 16)) F.CORE_STAT.LAUNCH_IGN
  else s.setReg a v

/-- A write of CORE_Gg_CTL: LAUNCH_JOB wins over LAUNCH_NOW (Table 3-12). -/
def writeSlotCtl (i g : Nat) (v : Word32) (s : State) : State :=
  if v.getLsbD 0 then launch .armedJob i g s else if v.getLsbD 1 then launch .armedNow i g s else s

/-- A write of CORE_NUM_CTL (R157). -/
def writeNumCtl (i : Nat) (v : Word32) (s : State) : State :=
  let a := Reg.CORE_NUM_CTL (i / 16) (i % 16)
  if s.slotsIdle i && (s.core i).tns.cmdq.isEmpty && F.CORE_NUM_CTL.BLKA.get v != 3 && F.CORE_NUM_CTL.BLKB.get v != 3 then
    let keep := if v.getLsbD 31 then 0 else s.reg a &&& 0x80000000
    s.setReg a (keep ||| (v &&& 0xF))
  else s.setFlag a F.CORE_NUM_CTL.IGN

/-- A write of CORE_SR_SEED (R171). -/
def writeSrSeed (i : Nat) (v : Word32) (s : State) : State :=
  if s.slotsIdle i && F.CORE_SR_SEED.SEED.get v != 0 then
    s.setReg (Reg.CORE_SR_SEED (i / 16) (i % 16)) ((v &&& 0xFFFF) ||| 0x80000000)
  else s.setFlag (Reg.CORE_NUM_CTL (i / 16) (i % 16)) F.CORE_NUM_CTL.IGN

/-- A write of CORE_IC_PL_ADDR or CORE_IC_PL_LEN, ignored while a preload runs (Tables 4-18 and 4-19). -/
def writePreload (i a : Nat) (v : Word32) (s : State) : State := if (s.core i).ic.busy then s else s.setReg a v

/-! ### The rest -/

/-- A write of STK_BOND_CFG: a THRESH of 0 is ignored (Table 11-4). -/
def writeBondCfg (k : Nat) (v : Word32) (s : State) : State :=
  if v &&& 0xFF = 0 then s else s.setReg (Reg.STK_BOND_CFG k) (v &&& 0xFF)

/-- The registers whose write does more than its access codes say, by row. -/
def regEffects0 : List (Nat × (List Nat → Word32 → State → State)) := [
  (Reg.GCTL_MODE, fun _ => writeMode),
  (Reg.GCTL_PKG_ID, fun _ => writePkgId),
  (Reg.GCTL_DECODE_ERR_HI, fun _ => clearCapture Reg.GCTL_DECODE_ERR_LO),
  (Reg.GCTL_ACC_ERR_HI, fun _ => clearCapture Reg.GCTL_ACC_ERR_LO),
  (Reg.GCTL_ROLE_VAL, fun _ => writeRoleVal),
  (Reg.GCTL_ROLE_CMT_HI, fun _ => writeRoleCmt),
  (Reg.GCTL_MEMB_VAL_LO, fun _ => writeMemb false),
  (Reg.GCTL_MEMB_VAL_HI, fun _ => writeMemb true),
  (Reg.MSPI_STAT, fun _ => writeMspiStat),
  (Reg.TICK_CTL, fun _ => writeTickCtl),
  (Reg.TICK_PERIOD, fun _ => writeTickPeriod),
  (Reg.TICK_REL_LAT, fun _ => writeRelLat),
  (Reg.TICK_SNAP_CTL, fun _ => writeSnapCtl),
  (Reg.TICK_ROOT_ID, fun _ => writeRootId),
  (Reg.FLT_CFG, fun _ => writeFltCfg),
  (Reg.FLT_RECi_CLS 0, fun ix => freeRecord false (ixAt ix 0)),
  (Reg.FLT_FLOODc_CLS 0, fun ix => freeRecord true (ixAt ix 0)),
  (Reg.PWR_CTL, fun _ => writePwrCtl),
  (Reg.PWR_CAP, fun _ => writePwrCap),
  (Reg.PWR_LEND_CFG, fun _ => writeLendCfg),
  (Reg.THM_CTL, fun _ => writeThmCtl),
  (Reg.BWR_GSEL, fun _ => writeGsel),
  (Reg.BWR_GVAL, fun _ => writeGval),
  (Reg.BWR_LASTMISS, fun _ v s => if v.getLsbD 31 then s.setReg Reg.BWR_LASTMISS 0 else s),
  (Reg.BWR_Pp_CFG 0, fun ix => writePointCfg (ixAt ix 0)),
  (Reg.LNKp_CTL 0, fun ix v s =>
    writeLnkCtl (ixAt ix 0) (if s.boot.exclPorts.contains (ixAt ix 0) then v &&& ~~~1#32 else v) s),
  (Reg.LNK_TSYNC, fun _ => writeTsync),
  (Reg.LNK_FEAT_EN, fun _ v s => identChanged (s.setReg Reg.LNK_FEAT_EN (v &&& 0x3F))),
  (Reg.LNK_LASTNACK_HI, fun _ => writeLastNack),
  (Reg.LNK_RTd_LO 0, fun ix => writeRouteLo (ixAt ix 0)),
  (Reg.LNK_RTd_HI 0, fun ix => writeRouteHi (ixAt ix 0)),
  (Reg.MCm_BANK_DIS_LO 0, fun ix => writeBankDis (ixAt ix 0) false),
  (Reg.MCm_BANK_DIS_HI 0, fun ix => writeBankDis (ixAt ix 0) true),
  (Reg.MCm_REMAPi_LO 0 0, fun ix => writeRemapLo (ixAt ix 0) (ixAt ix 1)),
  (Reg.MCm_REMAPi_HI 0 0, fun ix => writeRemapHi (ixAt ix 0) (ixAt ix 1)),
  (Reg.ERL_RD, fun _ => writeErlRd)]

def regEffects1 : List (Nat × (List Nat → Word32 → State → State)) := [
  (Reg.CRC_u_CFG 0, fun ix => writeCrcCfg (ixAt ix 0) 0),
  (Reg.CRC_u_POLY_LO 0, fun ix => writeCrcCfg (ixAt ix 0) 2),
  (Reg.CRC_u_POLY_HI 0, fun ix => writeCrcCfg (ixAt ix 0) 3),
  (Reg.CRC_u_INIT_LO 0, fun ix => writeCrcCfg (ixAt ix 0) 4),
  (Reg.CRC_u_INIT_HI 0, fun ix => writeCrcCfg (ixAt ix 0) 5),
  (Reg.CRC_u_XOR_LO 0, fun ix => writeCrcCfg (ixAt ix 0) 6),
  (Reg.CRC_u_XOR_HI 0, fun ix => writeCrcCfg (ixAt ix 0) 7),
  (Reg.STK_CLAIMq_CFG 0 0, fun ix => writeClaimCfg (ixAt ix 0) (ixAt ix 1) 0),
  (Reg.STK_CLAIMq_CORES 0 0, fun ix => writeClaimCfg (ixAt ix 0) (ixAt ix 1) 1),
  (Reg.STK_CLAIMq_BASE_LO 0 0, fun ix => writeClaimCfg (ixAt ix 0) (ixAt ix 1) 2),
  (Reg.STK_CLAIMq_BASE_HI 0 0, fun ix => writeClaimCfg (ixAt ix 0) (ixAt ix 1) 3),
  (Reg.STK_CLAIMq_STAT 0 0, fun ix => writeClaimStat (ixAt ix 0) (ixAt ix 1)),
  (Reg.STK_SE_CFG 0, fun ix => writeSeCfg (ixAt ix 0)),
  (Reg.STK_SE_CHn_CTL 0 0, fun ix => writeChCtl (ixAt ix 0) (ixAt ix 1)),
  (Reg.STK_SE_CHn_TIMER 0 0, fun ix => writeChTimer (ixAt ix 0) (ixAt ix 1)),
  (Reg.STK_SE_CHn_HEAD_LO 0 0, fun ix => writeChHead (ixAt ix 0) (ixAt ix 1) false),
  (Reg.STK_SE_CHn_HEAD_HI 0 0, fun ix => writeChHead (ixAt ix 0) (ixAt ix 1) true),
  (Reg.STK_SE_CHn_BUDGET 0 0, fun ix => writeChBudget (ixAt ix 0) (ixAt ix 1)),
  (Reg.STK_SE_CHn_DB 0 0, fun ix => writeChDb (ixAt ix 0) (ixAt ix 1)),
  (Reg.STK_SE_CHn_RSV 0 0, fun ix => writeChRsv (ixAt ix 0) (ixAt ix 1)),
  (Reg.STK_MERE_SPLIT 0, fun ix => writeSplit (ixAt ix 0)),
  (Reg.STK_MERE_SCRUB 0, fun ix => writeScrub (ixAt ix 0)),
  (Reg.STK_MERE_CHK_CTL 0, fun ix => writeChkCtl (ixAt ix 0)),
  (Reg.STK_MERE_GRETi 0 0, fun ix => writeGret (ixAt ix 0) (ixAt ix 1)),
  (Reg.STK_BOND_CFG 0, fun ix => writeBondCfg (ixAt ix 0)),
  (Reg.STK_BOND_LB 0, fun ix => writeBondLb (ixAt ix 0)),
  (Reg.CORE_CTL 0 0, fun ix v s => if v.getLsbD 0 then abandonCore (ixCore ix) s else s),
  (Reg.CORE_TRAP_HI 0 0, fun ix => clearCapture (Reg.CORE_TRAP_LO (ixAt ix 0) (ixAt ix 1))),
  (Reg.CORE_Gg_ENTRY 0 0 0, fun ix => writeSlotReg (ixCore ix) (ixAt ix 2) (Reg.CORE_Gg_ENTRY (ixAt ix 0) (ixAt ix 1) (ixAt ix 2))),
  (Reg.CORE_Gg_CTL 0 0 0, fun ix => writeSlotCtl (ixCore ix) (ixAt ix 2)),
  (Reg.CORE_Gg_QBIND 0 0 0, fun ix v =>
    writeSlotReg (ixCore ix) (ixAt ix 2) (Reg.CORE_Gg_QBIND (ixAt ix 0) (ixAt ix 1) (ixAt ix 2)) (v &&& 0xFFFFFFF)),
  (Reg.CORE_IC_CTL 0 0, fun ix => writeIcCtl (ixCore ix)),
  (Reg.CORE_IC_PL_ADDR 0 0, fun ix => writePreload (ixCore ix) (Reg.CORE_IC_PL_ADDR (ixAt ix 0) (ixAt ix 1))),
  (Reg.CORE_IC_PL_LEN 0 0, fun ix v => writePreload (ixCore ix) (Reg.CORE_IC_PL_LEN (ixAt ix 0) (ixAt ix 1)) (v &&& 0xFFF)),
  (Reg.CORE_NUM_CTL 0 0, fun ix => writeNumCtl (ixCore ix)),
  (Reg.CORE_SR_SEED 0 0, fun ix => writeSrSeed (ixCore ix)),
  (Reg.CORE_MEM_CFG 0 0, fun ix => writeMemCfg (ixCore ix)),
  (Reg.CORE_PWR_CTL 0 0, fun ix => writeCorePwr (ixCore ix))]

/-- DEDUCED, log entry 12. -/
def regEffects : List (Nat × (List Nat → Word32 → State → State)) := regEffects0 ++ regEffects1

/-! ### One write -/

/-- A write by the access codes alone (R9): RW and, before the lock, RWL bits take the value; W1C bits clear;
W1S bits set. -/
def writePlain (r : RegRow) (a : Nat) (v : Word32) (s : State) : State :=
  let old := s.reg a
  let m := r.rw ||| (if s.flag Reg.GCTL_LOCK F.GCTL_LOCK.LOCK then 0 else r.rwl)
  s.setReg a ((((old &&& ~~~m) ||| (v &&& m)) &&& ~~~(v &&& r.w1c)) ||| (v &&& r.w1s))

/-- The rows that feed each vector (R462). -/
def feeds : List (Nat × Nat) :=
  [(Reg.FLT_PEND_LO, 0), (Reg.FLT_PEND_HI, 0), (Reg.FLT_FPEND_LO, 0), (Reg.FLT_FPEND_HI, 0), (Reg.FLT_CTL, 0),
   (Reg.FLT_RECi_CLS 0, 0), (Reg.ERL_RD, 1), (Reg.ERL_CTL, 1), (Reg.THM_EVT, 2),
   (Reg.THM_CTL, 2), (Reg.PWR_EVT, 3), (Reg.PWR_CTL, 3), (Reg.BWR_MISSk 0, 4), (Reg.BWR_CTL, 4), (Reg.SVC_EVT, 5),
   (Reg.SVC_CTL, 5), (Reg.LNKp_EVT 0, 6), (Reg.LNKp_CTL 0, 6), (Reg.STK_SE_IRQ_DONE 0, 8), (Reg.STK_SE_IRQ_HALT 0, 8)]

/-- The vector the register of row `b` with indices `ix` feeds. -/
def feedVec (b : Nat) (ix : List Nat) : Option Nat :=
  (feeds.find? fun f => f.1 == b).map fun f => if f.2 = 8 then 8 + ixAt ix 0 else f.2

/-- The effect of a full 32-bit write of the register at `a`, and the message of R462 after it (DEDUCED, log entry 12, DEDUCED, log entry 52). -/
def writeEffect (r : RegRow) (a : Nat) (v : Word32) (s : State) : State :=
  let ix := rowIdx r.strides (a - r.base)
  let act (s : State) : State :=
    match regEffects.find? fun f => f.1 == r.base with
    | some f => f.2 ix v s
    | none => writePlain r a v s
  match feedVec r.base ix with
  | none => act s
  | some n =>
    let was := s.intCond n
    intSettle1 (act s) was n

/-- Byte enables as a mask of bits. -/
def beMask (be : Nat) : Word32 := BitVec.ofNat 32 ((List.range 4).map fun i => if bitOf be i then 255 * 256 ^ i else 0).sum

/-- The value a write of register `a` acts with: bytes that are not enabled keep the stored bits, and write 0
to bits that clear or set (R465). -/
def mergeEnables (r : RegRow) (a be : Nat) (v : Word32) (s : State) : Word32 :=
  let m := beMask be
  let old := match sget (fun _ => none) s.routeLo ((a - 0x88000) / 8) with
    | some w => if r.base = Reg.LNK_RTd_LO 0 then w else readLive a s
    | none => readLive a s
  (v &&& m) ||| (old &&& (r.rw ||| r.rwl) &&& ~~~m)

/-- Are writes of path `p` to register `a` ignored while the service controller starts a job (R429)? -/
def State.autoHeld (s : State) (p : Path) (a : Nat) : Bool :=
  s.flag Reg.GCTL_BOOT F.GCTL_BOOT.AUTO && (p == .pcie || p == .mgmt) &&
    ((decide (0x10000 ≤ a) && decide (a < 0x20000)) ||
      (decide (0x1000000 ≤ a) && decide (a < 0x2800000) &&
        (let o := a % 0x100000
         (decide (0x10000 ≤ o) && decide (o < 0x20000)) || (decide (0x40000 ≤ o) && decide (o < 0x50000)))))

/-- Bytes of the service controller's window (R430). -/
def writeWindow (o : Nat) (bs : List (Nat × Byte)) (s : State) : State :=
  { s with boot := { s.boot with
    window := bs.foldl (fun w b => sset (fun _ => 0) w (o + b.1) b.2) s.boot.window } }

/-- One 32-bit part of a write on path `p`: the register at `a`, byte enables `be`, value `v` (R465) (DEDUCED, log entry 15). -/
def writePart (p : Path) (a be : Nat) (v : Word32) (s : State) : State :=
  if (!s.blockUp a && p != .svc) || s.autoHeld p a || be % 16 == 0 then s
  else match regRowAt a with
    | none =>
      if 0x21000 ≤ a ∧ a < 0x22000 then
        writeWindow (a - 0x21000) ((((leBytes 4 v.toNat).zipIdx).filter fun b => bitOf be b.2).map fun b => (b.2, b.1)) s
      else s
    | some r =>
      if r.whole && be % 16 != 15 then accErr p 1 a s
      else writeEffect r a (mergeEnables r a be v s) s

/-- The parts of a write of `data` at `a`: register, enables, value (R466). -/
def partsOf (a : Nat) (data : List Byte) : List (Nat × Nat × Word32) :=
  (wordsOf a data.length).map fun w =>
    let bs := (List.range 4).map fun i =>
      if a ≤ w + i ∧ w + i < a + data.length then (true, data.getD (w + i - a) 0) else (false, 0)
    (w, (bs.zipIdx.map fun b => if b.1.1 then 2 ^ b.2 else 0).sum, BitVec.ofNat 32 (leNat (bs.map (·.2))))

end Sys2Proof.Machine
end

