-- ==== Sys2Proof/Machine/Image.lean ====
section
/-! DEFINITION. What lies in the boot flash: the directory, the repair record and Smizeov images, and the checks of
an image (R415-R419, R423). -/

namespace Sys2Proof.Machine

open Sys2Proof

/-! ### Flash bytes -/

/-- What an erased byte of the flash reads as. -/
def flashDefault (_ : Nat) : Byte := 0xFF

/-- DESIGN CHOICE, log entry 3. -/
def State.flashBytes (s : State) (a n : Nat) : List Byte := (List.range n).map fun i => sget flashDefault s.boot.flash (a + i)

/-- Can the flash bytes [a, a + n) be read (R476)? -/
def State.flashOk (s : State) (a n : Nat) : Bool :=
  s.boot.flashBad.all fun x => decide (x < a) || decide (a + n ≤ x)

def flashWrite (a : Nat) (bs : List Byte) (s : State) : State :=
  { s with boot := { s.boot with
    flash := bs.zipIdx.foldl (fun m x => sset flashDefault m (a + x.2) x.1) s.boot.flash } }

def flashErase (a n : Nat) (s : State) : State :=
  { s with boot := { s.boot with flash := sdrop (fun x => decide (a ≤ x) && decide (x < a + n)) s.boot.flash } }

/-- The number in bytes [i, i + n) of a byte list. -/
def numAt (bs : List Byte) (i n : Nat) : Nat := leNat ((bs.drop i).take n)

/-! ### Directory (R416, Table 16-5) -/

/-- A directory: sequence number, slot offsets, slot size, preferred slot (DEDUCED, log entry 41). -/
structure Directory where
  seq : Nat := 0
  slotA : Nat := 0x0100000
  slotB : Nat := 0x1100000
  size : Nat := 0x1000000
  prefer : Nat := 0
  deriving DecidableEq, Repr

/-- The directory copy at flash offset `a`, if it is valid. -/
def State.dirCopy (s : State) (a : Nat) : Option Directory :=
  let bs := s.flashBytes a 64
  if s.flashOk a 64 ∧ numAt bs 0 4 = 0x445A4D53 ∧ numAt bs 60 4 = crc32c (bs.take 60) then
    some { seq := numAt bs 4 4, slotA := numAt bs 8 4, slotB := numAt bs 12 4, size := numAt bs 16 4, prefer := numAt bs 20 1 }
  else none

/-- The directory in force, and where the next one is written: over the copy that is not in force. -/
def State.directory (s : State) : Directory × Nat :=
  match s.dirCopy 0, s.dirCopy 0x1000 with
  | some x, some y => if x.seq < y.seq then (y, 0) else (x, 0x1000)
  | some x, none => (x, 0x1000)
  | none, some y => (y, 0)
  | none, none => ({}, 0)

def Directory.bytes (d : Directory) : List Byte :=
  let bs := leBytes 4 0x445A4D53 ++ leBytes 4 d.seq ++ leBytes 4 d.slotA ++ leBytes 4 d.slotB ++ leBytes 4 d.size
    ++ leBytes 1 d.prefer ++ List.replicate 39 0
  bs ++ leBytes 4 (crc32c bs)

/-! ### Repair record (R417, R319, Table 16-6) -/

/-- A repair record: sequence number, package generation, and entries as (kind, fields). -/
structure Record where
  seq : Nat := 0
  gen : Nat := 0
  entries : List (Nat × List Nat) := []
  deriving DecidableEq, Repr

/-- An entry of 8 bytes: fields of Table 16-6 in order; none for an unknown kind. -/
def recordEntry (bs : List Byte) : Option (Nat × List Nat) :=
  let b (i : Nat) : Nat := numAt bs i 1
  match b 0 with
  | 1 => some (1, [b 1, b 2, numAt bs 3 2, b 5, b 6])
  | 2 => some (2, [b 1, b 2, b 3])
  | 3 => some (3, [b 1])
  | 4 => some (4, [b 1, numAt bs 2 2, b 4])
  | _ => none

/-- The record copy at flash offset `a`, if its magic, CRC, serial number and entries are right. -/
def State.recordCopy (s : State) (a : Nat) : Option Record :=
  let head := s.flashBytes a 32
  let n := numAt head 18 2
  let bs := s.flashBytes a (32 + 8 * n)
  if s.flashOk a (36 + 8 * n) ∧ numAt head 0 4 = 0x43455252 ∧ numAt head 8 8 = s.fuses.serial.toNat ∧ n ≤ 4091 ∧
      numAt (s.flashBytes (a + 32 + 8 * n) 4) 0 4 = crc32c bs then
    let es := (List.range n).map fun i => recordEntry ((bs.drop (32 + 8 * i)).take 8)
    if es.all (·.isSome) then some { seq := numAt head 4 4, gen := numAt head 16 2, entries := es.filterMap id } else none
  else none

/-- The record in force, if either copy is valid, and where the next one goes: the older copy (DESIGN CHOICE, log entry 40). -/
def State.record (s : State) : Option Record × Nat :=
  match s.recordCopy 0x2000, s.recordCopy 0xA000 with
  | some x, some y => if x.seq < y.seq then (some y, 0x2000) else (some x, 0xA000)
  | some x, none => (some x, 0xA000)
  | none, some y => (some y, 0x2000)
  | none, none => (none, 0x2000)

/-- The entries of the record the service controller holds: dead bonds with their states, retired regions, lost
stacks, masked copies (R319). -/
def State.recordBody (s : State) : List Byte :=
  s.stks.flatMap fun e =>
    let k := leBytes 1 e.1
    let u := e.2.bonds
    (u.dead.flatMap fun d => leBytes 1 1 ++ k ++ leBytes 1 d.bond.slab ++ leBytes 2 d.bond.group
        ++ leBytes 1 d.bond.lane ++ leBytes 2 d.state.code) ++
      (u.fenced.flatMap fun r => leBytes 1 2 ++ k ++ leBytes 1 r.1 ++ leBytes 5 r.2) ++
      (if u.lost then leBytes 1 3 ++ leBytes 7 e.1 else []) ++
      u.masked.flatMap fun m =>
        match m.2 with
        | some c => leBytes 1 4 ++ k ++ leBytes 2 m.1 ++ leBytes 4 c
        | none => []

/-- The record in force as its bytes, CRC included. -/
def State.recordBytes (s : State) : List Byte :=
  let body := s.recordBody
  let bs := leBytes 4 0x43455252 ++ leBytes 4 s.boot.recSeq ++ leBytes 8 s.fuses.serial.toNat
    ++ leBytes 2 (s.fld Reg.GCTL_GEN F.GCTL_GEN.GEN) ++ leBytes 2 (body.length / 8) ++ List.replicate 12 0 ++ body
  bs ++ leBytes 4 (crc32c bs)

/-- Write the record over the older copy, with the next sequence number. -/
def writeRecord (s : State) : State :=
  let a := s.record.2
  let s := { s with boot := { s.boot with recSeq := s.boot.recSeq + 1, recDue := none } }
  flashWrite a s.recordBytes s

/-! ### Images (R418, R419) -/

/-- A section of an image: type, flags, offset, length, digest. -/
structure Sec where
  type : Nat
  flags : Nat
  off : Nat
  len : Nat
  digest : Nat
  deriving DecidableEq, Repr

/-- Bytes [i, i + n) of the image at `h`. -/
def State.imgBytes (s : State) (h : ImageHome) (i n : Nat) : List Byte :=
  match h with
  | .slotA a => s.flashBytes (a + i) n
  | .slotB a => s.flashBytes (a + i) n
  | .ram => (List.range n).map fun j => sget (fun _ => 0) s.boot.ram (i + j)

/-- Can bytes [i, i + n) of the image at `h` be read? -/
def State.imgOk (s : State) (h : ImageHome) (i n : Nat) : Bool :=
  match h with
  | .slotA a => s.flashOk (a + i) n
  | .slotB a => s.flashOk (a + i) n
  | .ram => true

/-- The section table of the image at `h`. -/
def State.imgSecs (s : State) (h : ImageHome) : List Sec :=
  let n := numAt (s.imgBytes h 6 2) 0 2
  (List.range n).map fun i =>
    let e := s.imgBytes h (256 + 80 * i) 80
    { type := numAt e 0 2, flags := numAt e 2 2, off := numAt e 8 8, len := numAt e 16 8, digest := numAt e 24 48 }

/-- How many sections of a type an image may hold (Table 16-9). -/
def secMax (type : Nat) : Nat := if type = 6 then 24 else 1

/-- Is the shape of an image right: check 1 of Table 16-10, an unknown critical section, and a section type that
occurs too often? (DEDUCED, log entry 41). -/
def State.imgShape (s : State) (h : ImageHome) (slot : Nat) : Bool :=
  let hd := s.imgBytes h 0 256
  let n := numAt hd 6 2
  let len := numAt hd 8 4
  let secs := s.imgSecs h
  numAt hd 0 4 == 0x565A4D53 && numAt hd 4 2 == 1 && decide (1 ≤ n) && decide (n ≤ 32) &&
    decide (len ≤ slot) && decide (512 + 80 * n ≤ len) &&
    secs.all (fun x => x.off % 16 == 0 && decide (256 + 80 * n ≤ x.off) && decide (x.off + x.len ≤ len - 256) &&
      (decide (1 ≤ x.type ∧ x.type ≤ 6) || x.flags % 2 == 0)) &&
    (secs.countP fun x => x.type == 1) == 1 &&
    [2, 3, 4, 5, 6].all fun t => decide ((secs.countP fun x => x.type == t) ≤ secMax t)

/-- Does a read of the header or of the section table fail, or, where their shape is right, one of the signature or of
a section that is hashed (R419)? -/
def State.imgUnread (s : State) (h : ImageHome) (slot : Nat) : Bool :=
  !s.imgOk h 0 (256 + 80 * numAt (s.imgBytes h 6 2) 0 2) ||
    (s.imgShape h slot && (!s.imgOk h (numAt (s.imgBytes h 8 4) 0 4 - 256) 256 ||
      (s.imgSecs h).any fun x => x.type != 6 && !s.imgOk h x.off x.len))

/-- The checks of Table 16-10 in order: 0, or the code of the first failure; 1 where the flash cannot be read (R419,
R476) (DESIGN CHOICE, log entry 88). -/
def State.imgCheck (s : State) (h : ImageHome) (slot : Nat) : Nat :=
  if s.imgUnread h slot then 1
  else if !s.imgShape h slot then 2
  else
    let hd := s.imgBytes h 0 256
    let len := numAt hd 8 4
    let sig := s.imgBytes h (len - 256) 256
    let key := sig.take 97
    let ks := numAt hd 19 1
    let table := hd ++ s.imgBytes h 256 (80 * numAt hd 6 2)
    if numAt hd 12 2 ≠ 0x64 ∨ bitOf (numAt hd 14 2) 4 = false then 3
    else if 4 ≤ ks ∨ s.fuses.keyHash.getD ks 0 ≠ Config.sha384 key ∨ s.fuses.revoked.contains ks then 5
    else if !Config.ecdsaOk key ((sig.drop 97).take 48) ((sig.drop 145).take 48) (Config.sha384 table) then 6
    else if numAt hd 18 1 < s.boot.minSvn then 7
    else if (s.imgSecs h).any fun x => x.type != 6 && Config.sha384 (s.imgBytes h x.off x.len) != x.digest then 4
    else 0

/-- The bytes of the image's section of a type, if it has one. -/
def State.imgSec (s : State) (h : ImageHome) (type : Nat) : Option (List Byte) :=
  ((s.imgSecs h).find? fun x => x.type == type).map fun x => s.imgBytes h x.off x.len

/-- The CONFIG records in a byte list: OFFSET, VALUE, MASK and CTL[0] (R421). -/
def configRecords (bs : List Byte) : List (Nat × Nat × Nat × Bool) :=
  (List.range (bs.length / 16)).map fun i =>
    let r := bs.drop (16 * i)
    (numAt r 0 4, numAt r 4 4, numAt r 8 4, numAt r 12 4 % 2 == 1)

/-- The JOB records in a byte list: KIND and body (R423). `n` bounds their number. -/
def jobRecords : Nat → List Byte → List (Nat × List Byte)
  | 0, _ => []
  | n + 1, bs =>
    let len := numAt bs 2 2
    if bs.length < 4 ∨ len < 4 then []
    else (numAt bs 0 1, (bs.drop 4).take (len - 4)) :: jobRecords n (bs.drop len)

/-- Take in the image at `h` once it has passed its checks (R419, R418). -/
def takeImage (h : ImageHome) (s : State) : State :=
  let hd := s.imgBytes h 0 256
  let link := s.imgSec h 4
  let job := (s.imgSec h 5).getD []
  let data := ((s.imgSecs h).filter fun (x : Sec) => x.type == 6).map fun (x : Sec) => (x.off, x.len, x.digest)
  let config := configRecords ((s.imgSec h 2).getD [])
  let s := { s with boot := { s.boot with
    image := some h, flags := numAt hd 20 4, svn := numAt hd 18 1,
    job := jobRecords job.length job,
    dataSecs := data,
    configAll := config, config := config, configWait := false,
    retire := ((s.imgSec h 3).map Config.retireOf).getD [], linkSec := link,
    routes := (link.map Config.linkRoutes).getD [], mgmtAllow := (link.map fun b => (Config.linkMgmt b).take 16).getD [],
    reroute := (link.map Config.linkReroute).getD false } }
  let s := s.setReg Reg.GCTL_ID ((s.reg Reg.GCTL_ID &&& ~~~0xF#32) ||| BitVec.ofNat 32 (numAt hd 16 1 % 16))
  let b := Reg.GCTL_BOOT
  let s := s.setFlag b F.GCTL_BOOT.SLOT (match h with
    | .slotB _ => true
    | _ => false)
  s.setFlag b F.GCTL_BOOT.PCIE_IMG (h == ImageHome.ram)

end Sys2Proof.Machine
end

