-- ==== Sys2Proof/Machine/Reset.lean ====
section
/-! DEFINITION. What each reset clears and keeps (R412-R414, Table 16-1), the exclusion of units (R426), and the
repair steps of a warm or cold reset (R317, R318). -/

namespace Sys2Proof.Machine

open Sys2Proof

def updBoot (f : Boot → Boot) (s : State) : State := { s with boot := f s.boot }

/-- Set or clear a LOST bit of GCTL_CLK_STAT; losing sets SEEN too (R492). -/
def clkLost (lost seen : Fld) (b : Bool) (s : State) : State :=
  let s := s.setFlag Reg.GCTL_CLK_STAT lost b
  if b then s.setFlag Reg.GCTL_CLK_STAT seen else s

/-- GCTL_CLK_STAT shows a clock that is absent (R492). -/
def clkShow (s : State) : State :=
  let s := if s.lands.intOsc then clkLost F.GCTL_CLK_STAT.SRDS_LOST F.GCTL_CLK_STAT.SRDS_SEEN true s else s
  if s.lands.pcieLost then clkLost F.GCTL_CLK_STAT.PCIE_LOST F.GCTL_CLK_STAT.PCIE_SEEN true s else s

/-! ### Stages -/

def setStage (x : Nat) (s : State) : State := s.setFld Reg.GCTL_BOOT F.GCTL_BOOT.STAGE x

def State.stage (s : State) : Nat := s.fld Reg.GCTL_BOOT F.GCTL_BOOT.STAGE

/-- Which reset this bring-up follows: 0 cold, 1 warm, 2 compute-only (GCTL_BOOT.LAST_RST). -/
def State.lastReset (s : State) : Nat := s.fld Reg.GCTL_BOOT F.GCTL_BOOT.LAST_RST

/-- Bring-up stops in FAILED with a cause (Table 16-16). -/
def failBoot (cause : Nat) (s : State) : State :=
  setStage 15 (s.setFld Reg.GCTL_BOOT F.GCTL_BOOT.FAIL cause)

def svcEvt (f : Fld) (s : State) : State := intEvent 5 (s.setFlag Reg.SVC_EVT f)

/-- What configuration space reports of this package (R456): the revision is GCTL_ID.STEPPING, the subsystem tells the
grade. -/
def State.pcieIdent (s : State) : PcieIdent :=
  { ({} : PcieIdent) with
    revision := s.fld Reg.GCTL_ID F.GCTL_ID.STEPPING,
    subsystem := if s.flag Reg.GCTL_ID F.GCTL_ID.GRADE then 0x0E01 else 0x0A01 }

/-- The registers and the identity that tell the grade (Tables 16-14, 13-2 and 18-2, R366): those of a ZN64-E differ
from the reset values of a ZN64-A. -/
def gradeInit (s : State) : State :=
  if s.fuses.gradeE then
    let s := (s.setFlag Reg.GCTL_ID F.GCTL_ID.GRADE).setFld Reg.PWR_CAP F.PWR_CAP.CAP 2200
    { s with power := { s.power with cap := 2200, step := 2 }, pcie := { s.pcie with ident := s.pcieIdent } }
  else s

/-- The package generation rises, and the new identity goes out (R441, R329). -/
def bumpGen (s : State) : State :=
  let g := (s.fld Reg.GCTL_GEN F.GCTL_GEN.GEN + 1) % 65536
  identChanged (s.setFld Reg.GCTL_GEN F.GCTL_GEN.GEN g)

/-- The record must be written within 50 ms (R319) (DEDUCED, log entry 45). -/
def recordDue (s : State) : State :=
  updBoot (fun b => { b with recDue := some (b.recDue.getD (s.now + msec 50)) }) s

/-- Generations of every stack and core rise (R441). -/
def bumpUnits (s : State) : State :=
  let up (n : Nat) (m : SMap Nat) : SMap Nat :=
    (List.range n).foldl (fun m i => sset (fun _ => 0) m i ((sget (fun _ => 0) m i + 1) % 65536)) m
  updBoot (fun b => { b with stackGen := up 24 b.stackGen, coreGen := up 384 b.coreGen }) s

/-! ### Cold reset -/

/-- Everything of Table 16-1's cold column: the package as after power-up, but for what fuses, flash, lands and the
shutdown latch hold. -/
def coldState (s : State) : State :=
  gradeInit { State.reset with
    boot := { ({} : Boot) with
      flash := s.boot.flash, flashBad := s.boot.flashBad, minSvn := s.boot.minSvn, rdel := s.boot.rdel },
    tsync := { ({} : Tsync) with osc := s.tsync.osc }, fuses := s.fuses, now := s.now, freeCtr := s.freeCtr, pending := s.pending, jtag := s.jtag, lands := s.lands,
    thermal := { ({} : Thermal) with shut := s.thermal.shut } }

/-! ### Warm reset -/

/-- Is the register at `a` kept through warm reset: identity, generation, host windows, clock and management status;
thermal state; link ports; HBM controller status; check-value units 48 to 55? -/
def warmKeep (a : Nat) : Bool :=
  a == Reg.GCTL_ID || a == Reg.GCTL_GEN || a == Reg.GCTL_CLK_STAT || a == Reg.MSPI_STAT || a == Reg.MSMB_STAT ||
    (decide (0x110 ≤ a) && decide (a < 0x120)) ||
    (decide (0x50000 ≤ a) && decide (a < 0x60000)) ||
    (decide (0x80000 ≤ a) && decide (a < 0x100000)) ||
    (decide (0x100000 ≤ a) && decide (a < 0x180000) && a % 0x10000 == 0) ||
    (decide (0x330000 ≤ a) && decide (a < 0x338000))

/-- Write out every merge buffer: its bytes are resident contents (R284). -/
def flushMerges (s : State) : State :=
  forEach s.stks (fun e s => forEach e.2.merge (fun m s =>
    setMergeBuf e.1 m.1 [] (forEach m.2 (fun x s => writeEntry x s) s)) s) s

/-- Slabs that have no supply come back reading zero (R236). -/
def zeroDarkSlabs (s : State) : State :=
  forEach (s.power.gates.filter fun g => !g.2.slabOn)
    (fun g s => zeroRange (slabBase (g.1 / 16) (g.1 % 16)) 0x4000000 s) s

/-- Scratch arrays read zero (R236). -/
def zeroScratch (s : State) : State := zeroRange 0xA000000000 0x60000000 s

/-- Messages for this package that have come in are discarded, but for those of the links themselves (R414). -/
def dropInbox (s : State) : State :=
  let out := s.inbox.filter fun e => s.mine e.2 && !linkLocal e.2.type
  forEach out (fun e s => s.count (Reg.LNKp_CNT_DISC (portOfLink e.1)))
    { s with inbox := s.inbox.filter fun e => !(s.mine e.2 && !linkLocal e.2.type) }

/-- What a stack keeps of its bonds through a reset that clears its other state (R317, R318). -/
def BondUnit.kept (u : BondUnit) : BondUnit := { u with cand := [], loop := none }

/-- A lost stack stays off (R320). -/
def gateLost (s : State) : State :=
  forEach (s.stks.filter fun e => e.2.bonds.lost) (fun e s =>
    let s := s.setFlag (Reg.STK_BOND_STAT e.1) F.STK_BOND_STAT.STACK_LOST
    forEach ((List.range 16).map (16 * e.1 + ·)) (fun i s =>
      let a := Reg.CORE_PWR_CTL (i / 16) (i % 16)
      let s := (s.setFlag a F.CORE_PWR_CTL.GATE).setFlag a F.CORE_PWR_CTL.SLAB_GATE
      setGate i { coreOn := false, slabOn := false } s) s) s

/-- The warm column of Table 16-1 (DEDUCED, log entry 33, DEDUCED, log entry 46). -/
def warmState (s : State) : State :=
  let s := dropInbox (zeroScratch (zeroDarkSlabs (flushMerges s)))
  let b := s.boot
  let s' : State := { State.reset with
    regs := s.regs.filter fun e => warmKeep e.1,
    live := s.live.filter fun e => warmKeep e.1,
    mem := s.mem, sram := s.sram,
    stks := smapv (fun _ => Stack.reset) (fun _ x => { Stack.reset with bonds := x.bonds.kept }) s.stks,
    hbm := smapv (fun _ => Hbm.reset) (fun _ h => { h with banksLeaving := [], remapsLeaving := [] }) s.hbm,
    links := s.links, tsync := s.tsync,
    thermal := s.thermal,
    tick := { ({} : Tick) with bnd := s.edge },
    boot := { ({} : Boot) with
      flash := b.flash, flashBad := b.flashBad, minSvn := b.minSvn, rdel := b.rdel, nbrs := b.nbrs, bistCores := b.bistCores, hbmRate := b.hbmRate,
      trained := b.trained, bistDone := b.bistDone, recSeq := b.recSeq, recDue := b.recDue, recDirty := b.recDirty,
      nextTag := b.nextTag, stackGen := b.stackGen, coreGen := b.coreGen, resetting := none },
    routeLo := s.routeLo, routeStaged := s.routeStaged,
    pcie := s.pcie, smb := s.smb, jtag := s.jtag, lands := { s.lands with tickOutUntil := s.now }, fuses := s.fuses,
    inbox := s.inbox,
    now := s.now, tb := s.tb, freeCtr := s.freeCtr, pending := s.pending }

  let s' := s'.setFld Reg.GCTL_BOOT F.GCTL_BOOT.LAST_RST 1
  gateLost (gradeInit (bumpUnits (recordDue (bumpGen s'))))

/-! ### Compute-only reset -/

/-- Is the register at `a` kept through compute-only reset: everything outside the stacks and their check-value
units; of a stack its split, repair, retirement and generation, of a core its L1 size and generation? (DEDUCED, log entry 44). -/
def computeKeep (a : Nat) : Bool :=
  !stackReg a ||
    (decide (0x1000000 ≤ a) &&
      (let o := a % 0x100000
       o == 0x300 || (decide (0x20000 ≤ o) && decide (o < 0x20010)) || (decide (0x20040 ≤ o) && decide (o < 0x20080)) ||
         (decide (0x20100 ≤ o) && decide (o < 0x20200)) || (decide (0x30000 ≤ o) && decide (o < 0x40000)) ||
         (decide (0x40000 ≤ o) && decide (o < 0x50000) && (o % 0x1000 == 0x500 || o % 0x1000 == 0x900))))


/-- The compute-only column of Table 16-1 (DEDUCED, log entry 44). -/
def computeState (s : State) : State :=
  let s := dropInbox (zeroScratch (zeroDarkSlabs (flushMerges s)))
  let s := { s with
    regs := s.regs.filter fun e => computeKeep e.1,
    live := s.live.filter fun e => computeKeep e.1,
    cores := smapv (fun _ => Core.reset)
      (fun _ c => { Core.reset with l1sz := c.l1sz, l1szPend := c.l1szPend }) s.cores,
    stks := smapv (fun _ => Stack.reset) (fun _ x => { Stack.reset with
      l2 := { ({} : L2) with res := x.l2.res, resPend := x.l2.resPend }, bonds := x.bonds.kept,
      granLeaving := x.granLeaving }) s.stks,
    power := { s.power with gates := [], staging := [], hold := [], clamped := [] } }
  let s := releaseGuarantees (fun m => decide (m < 0x480)) s
  let s := s.setFld Reg.GCTL_BOOT F.GCTL_BOOT.LAST_RST 2
  gateLost (bumpUnits (recordDue (bumpGen s)))

/-! ### Exclusion (R426) -/

/-- Take a unit out: DEGRADED, and one bring-up fault. -/
def excluded (kind i : Nat) (s : State) : State :=
  reportLocal kind i 0x0C 0 (s.setFlag Reg.GCTL_BOOT F.GCTL_BOOT.DEGRADED)

/-- DEDUCED, log entry 46. -/
def excludeCore (i : Nat) (s : State) : State :=
  if s.coreExcluded i then s
  else excluded 2 i (updBoot (fun b => { b with exclCores := insertNat i b.exclCores }) s)

/-- A stack is taken out with its 16 cores. -/
def excludeStack (k : Nat) (s : State) : State :=
  if s.stackExcluded k then s
  else excluded 1 k (updBoot (fun b => { b with
    exclStacks := insertNat k b.exclStacks,
    exclCores := ((List.range 16).map (16 * k + ·)).foldr insertNat b.exclCores }) s)

def excludeHbm (m : Nat) (s : State) : State :=
  if s.hbmExcluded m then s
  else excluded 6 m (updBoot (fun b => { b with exclHbm := insertNat m b.exclHbm })
    (s.setFld (Reg.MCm_STAT m) F.MCm_STAT.RATE 0))

/-- A port that failed its check-value test stays DISABLED (Table 16-12) (DEDUCED, log entry 46). -/
def excludePort (p : Nat) (s : State) : State :=
  writeLnkCtl p (s.reg (Reg.LNKp_CTL p) &&& ~~~1#32) (updBoot (fun b => { b with exclPorts := insertNat p b.exclPorts }) s)

/-! ### Repair (R317, R318) -/

/-- Steer one pending bond's word position onto its spare. -/
def BondUnit.substituteOne (u : BondUnit) (d : DeadBond) : BondUnit :=
  match d.pos, (u.spares d.bond.slab d.bond.group).head? with
  | some w, some lane =>
    let here (x : Steer) : Bool := x.slab == d.bond.slab && x.group == d.bond.group && x.pos == w
    { u with
      steer := (u.steer.filter fun x => !here x) ++ [⟨d.bond.slab, d.bond.group, w, lane⟩],
      dead := u.dead.map fun x => if x.bond == d.bond then { x with state := .substituted } else x }
  | _, _ => u

/-- Step 2 of R318 in stack k: every pending bond in ascending lane order, and the ports that gained. -/
def substitute (k : Nat) (s : State) : List (Nat × Nat) × State :=
  let u := (s.stk k).bonds
  let todo := (u.dead.filter fun d => d.state == .pending).mergeSort fun a b => decide (a.bond.lane ≤ b.bond.lane)
  let u := todo.foldl (fun u d => (u.substituteOne d).recompute d.bond.slab d.bond.group) u
  ((todo.map fun d => (d.bond.slab, d.bond.group / 72)).dedup, updBonds k (fun _ => u) s)

/-- Step 3: fence the regions that meet R315 still. -/
def fenceDoubled (k : Nat) (s : State) : State :=
  let u := (s.stk k).bonds
  let bad := u.dead.filter fun d => d.open && (match d.pos with
    | some w => u.doubled d.bond.slab (d.bond.group / 72) w
    | none => false)
  forEach ((bad.map fun d => (d.bond.slab, d.bond.group / 72)).dedup) (fun r s => fenceRegion k r.1 r.2 s) s

/-- Step 4: read, correct and rewrite the words of a port (DEDUCED, log entry 45). -/
def sweepPort (k c p : Nat) (s : State) : State :=
  if s.regionRetired k c p then s
  else
    let mine (w : Nat) : Bool := isSlabWord w && (let (k', c', off) := slabOfWord w; k' == k && c' == c && portOf off == p)
    forEach ((s.sram.map (·.1)).filter mine) (fun w s =>
      let (v, bad, s) := judgeWord 0 { scrub := true } w (s.wordAt w) (s.devAt w) s
      if bad then s else portWrite w v s) s

/-- Steps 2 to 4 in every stack. -/
def repair (s : State) : State :=
  forEach (s.stks.map (·.1)) (fun k s =>
    let (gained, s) := substitute k s
    forEach gained (fun r s => sweepPort k r.1 r.2 s) (fenceDoubled k s)) s

/-- The steering of lane group g of slab c that its recorded bonds stand for: its substituted word positions, in
ascending order, on the spares that died with a position (pending, unrepaired), then on good ones, lane 32 before
lane 33 (R309). -/
def BondUnit.resteer (u : BondUnit) (c g : Nat) : BondUnit :=
  let mine := u.dead.filter fun d => d.bond.slab == c && d.bond.group == g
  let subs := ((mine.filter fun d => d.state == .substituted && decide (d.bond.lane < 32)).map (·.bond.lane)).mergeSort
  let held := [32, 33].filter fun l => mine.any fun d => d.bond.lane == l && d.open
  let good := [32, 33].filter fun l => !mine.any fun d => d.bond.lane == l
  let lanes := ((held ++ good).take subs.length).mergeSort
  let u : BondUnit := { u with steer := u.steer ++ (subs.zip lanes).map fun x => (⟨c, g, x.1, x.2⟩ : Steer) }
  { u with dead := u.dead.map fun (d : DeadBond) =>
      if d.bond.slab == c && d.bond.group == g && decide (32 ≤ d.bond.lane) then { d with pos := u.posOf d.bond } else d }

/-- A dead bond of the repair record (Table 16-6): as it stood. -/
def loadDead (k c g lane st : Nat) (s : State) : State :=
  let b : Bond := ⟨c, g, lane⟩
  updBonds k (fun u =>
    if (u.deadEntry b).isSome then u
    else
      let state : BondState := [.spareLost, .substituted, .pending].getD st .unrepaired
      { u with dead := u.dead ++ [{ bond := b, state := state, pos := if lane < 32 then some lane else none }] }) s

/-- Load the repair record: its dead bonds, then the steering they stand for; a retired region to be deleted stays
out (R317) (DESIGN CHOICE, log entry 40). -/
def loadRecord (r : Record) (s : State) : State :=
  let s := forEach r.entries (fun e s =>
    match e with
    | (1, [k, c, g, lane, st]) => loadDead k c g lane st s
    | (2, [k, c, p]) =>
      if s.boot.rdel.contains (k, c, p) || s.regionRetired k c p then s else updBonds k (fun u => { u with fenced := u.fenced ++ [(c, p)] }) s
    | (3, [k]) => updBonds k (fun u => { u with lost := true }) s
    | (4, [k, sig, copy]) => updBonds k (fun u => { u with masked := sset (fun _ => none) u.masked sig (some copy) }) s
    | _ => s) s
  let groups := (r.entries.filterMap fun e =>
    match e with
    | (1, [k, c, g, _, _]) => some (k, c, g)
    | _ => none).dedup
  gateLost (forEach groups (fun x => updBonds x.1 fun u => u.resteer x.2.1 x.2.2) s)

/-- The RETIRE section: granules, remap entries and banks (R300, Table 16-9), each through its register. -/
def loadRetire (s : State) : State :=
  let rs := s.boot.retire
  forEach rs.zipIdx (fun (r, n) s =>
    let (kind, u, x, y) := r
    let i := (rs.take n).countP fun q => q.1 == kind && q.2.1 == u
    match kind with
    | 0 => writeGret u i (F.STK_MERE_GRETi.GRAN.put (F.STK_MERE_GRETi.SLAB.put 0x80000000 x) y) s
    | 1 => writeRemapHi u i (F.MCm_REMAPi_HI.TO.put 0x80000000 y)
        (writeRemapLo u i (F.MCm_REMAPi_LO.FROM.put 0 x) s)
    | _ => writeBankDis u (decide (32 ≤ x)) (s.reg (Reg.MCm_BANK_DIS_LO u + 4 * (x / 32)) ||| BitVec.ofNat 32 (2 ^ (x % 32))) s) s

/-! ### Units into service (R442) -/

/-- Every unit in service becomes pending, and none is admitted yet. -/
def unitsPending (s : State) : State :=
  updBoot (fun b => { b with
    corePend := (List.range 384).filter s.coreServing, coreIn := [],
    stackPend := (List.range 24).filter s.stackServing, stackIn := [] }) s

end Sys2Proof.Machine
end

