-- ==== Sys2Proof/Machine/Boot.lean ====
section
/-! DEFINITION. Bring-up after each reset: image selection, CONFIG, link policy, training, BIST, repair, known-answer
tests and readiness (R412-R428). -/

namespace Sys2Proof.Machine

open Sys2Proof

/-! ### Known-answer tests (R425) -/

/-- Results of the tests: failing cores, stacks, ports, HBM stacks, and the package's own. -/
abbrev KatResult := List Nat × List Nat × List Nat × List Nat × Bool

def katResult (k : Kat) : KatResult := (k.coreFails, k.stackFails, k.portFails, k.hbmFails, k.pkgFails)

/-- Results of tests that no command brings: left open. -/
def openKat (s : State) : KatResult × State :=
  let n := s.freeCtr
  let f (kind m : Nat) : List Nat := (List.range m).filter (Config.katFails n kind)
  ((f 0 384, f 1 24, f 2 8, f 3 8, Config.katFails n 4 0), { s with freeCtr := n + 1 })

/-- Boot calibration, then the tests of this bring-up, their consequences, and units pending (R382, R425, R426, R442).
Compute-only reset keeps the offsets and tests stacks and HBM controllers only. -/
def knownAnswers (s : State) : State :=
  let full := s.lastReset != 2
  let s := setStage 6 (if full then bootCalibrate s else s)
  let ((cs, ks, ps, hs, bad), s) := match s.boot.heldKat with
    | some r => (r, s)
    | none => openKat s
  let s := updBoot (fun b => { b with heldKat := none }) s
  let s := forEach (List.range 8) (fun m s => if s.hbmExcluded m then s
    else s.setFld (Reg.MCm_STAT m) F.MCm_STAT.RATE (sget (fun _ => 0) s.boot.hbmRate m)) s
  let s := forEach (ks.filter (· < 24)) excludeStack s
  let s := forEach (cs.filter (· < 384)) excludeCore s
  let s := forEach (hs.filter (· < 8)) excludeHbm s
  let s := if full then forEach (ps.filter (· < 8)) excludePort s else s
  if full && bad then failBoot 2 s
  else unitsPending (updBoot (fun b => { b with katDone := true, postKat := false }) s)

/-! ### After CONFIG -/

/-- LOCK, if the image asks for it, and the link policy (R428, R422). A port that is off takes its split before it is
enabled. -/
def lockAndLink (s : State) : State :=
  let s := if bitOf s.boot.flags 0 then s.setFlag Reg.GCTL_LOCK F.GCTL_LOCK.LOCK else s
  match s.boot.linkSec with
  | none => s
  | some body =>
    let s := forEach (List.range 8) (fun p s =>
      let a := Reg.LNKp_CTL p
      let v := (Config.linkPort body p &&& 0xF) ||| (s.reg a &&& 0x20)
      writePart .svc a 15 v (if s.portOn p then s else writePart .svc a 15 (v &&& ~~~1#32) s)) s
    let s := writePart .svc Reg.LNK_FEAT_EN 15 (Config.linkFeat body) s
    let s := writePart .svc Reg.LNK_TSYNC 15 (Config.linkTsync body) s
    forEach s.boot.routes (fun (d, lo, hi) s => stageRoute d (BitVec.ofNat 32 lo) (BitVec.ofNat 32 hi) s) s

/-- The end of a warm bring-up: repair, retirement tables, tests. -/
def warmFinish (s : State) : State :=
  let s := forEach s.boot.bistCores excludeCore (setStage 5 s)
  let s := forEach ((List.range 8).filter fun m => sget (fun _ => 0) s.boot.hbmRate m == 0) excludeHbm s
  knownAnswers (writeRecord (loadRetire (repair s)))

/-- What follows CONFIG: training after a cold reset (or where a failed boot took the power of the HBM stacks), repair
after a warm one, tests after a compute-only one. -/
def afterConfig (s : State) : State :=
  if s.lastReset = 2 then knownAnswers s
  else if s.boot.bistDone then warmFinish (lockAndLink s)
  else setStage 3 (lockAndLink s)

/-! ### CONFIG (R421) -/

/-- An offset in the SVC block or in a block Table 1-7 marks reserved. -/
def configBad (a : Nat) : Bool :=
  (decide (0x20000 ≤ a) && decide (a < 0x30000)) || (decide (0x70000 ≤ a) && decide (a < 0x80000)) ||
    (decide (0x180000 ≤ a) && decide (a < 0x200000)) || (decide (0x400000 ≤ a) && decide (a < 0x1000000)) ||
    decide (0x2800000 ≤ a)

/-- One record: OFFSET, VALUE, MASK (DEDUCED, log entry 43). -/
def applyRecord (a v m : Nat) (s : State) : State :=
  let (old, s) := if m = 0xFFFFFFFF then (0, s) else
    let (w, s) := readWord .svc hostClaimer a s
    (w.toNat, s)
  writePart .svc a 15 (BitVec.ofNat 32 ((old &&& (0xFFFFFFFF - m)) ||| (v &&& m))) s

/-- Apply records in order, up to one that waits for a boundary; `go`: the boundary the first waits for has just
passed. -/
def runConfig : Bool → List (Nat × Nat × Nat × Bool) → State → State
  | _, [], s => updBoot (fun b => { b with config := [], configWait := false }) s
  | go, (a, v, m, w) :: t, s =>
    if configBad a then failBoot 4 (updBoot (fun b => { b with config := [], configWait := false }) s)
    else if w && !go then updBoot (fun b => { b with config := (a, v, m, w) :: t, configWait := true }) s
    else runConfig false t (applyRecord a v m s)

/-- DEDUCED, log entry 43. -/
def configStep (go : Bool) (s : State) : State :=
  let s := runConfig go s.boot.config s
  if s.boot.configWait || s.stage == 15 then s else afterConfig s

/-! ### Images -/

/-- Try one slot: its code goes to ERR_A or ERR_B (R419) (DEDUCED, log entry 41). -/
def trySlot (size : Nat) (h : ImageHome) (s : State) : Bool × State :=
  let e := s.imgCheck h size
  (e == 0, s.setFld Reg.GCTL_BOOT (match h with
    | .slotB _ => F.GCTL_BOOT.ERR_B
    | _ => F.GCTL_BOOT.ERR_A) e)

/-- No valid image: FAILED, stacks and HBM stacks without power, ports disabled (R420) (DEDUCED, log entry 42). -/
def noImage (s : State) : State :=
  let s := forEach (List.range 8) (fun p s => writePart .svc (Reg.LNKp_CTL p) 15 (s.reg (Reg.LNKp_CTL p) &&& ~~~1#32) s) s
  let s := { s with mem := [], sram := [], hbm := [] }
  failBoot 1 (updBoot (fun b => { b with trained := [], bistDone := false, hbmRate := [], bistCores := [] }) s)

/-- Run the image at `h`, whose checks have passed (DEDUCED, log entry 42). -/
def runImage (h : ImageHome) (s : State) : State := configStep false (setStage 2 (takeImage h s))

/-- The ROM: the preferred slot, then the other (R416, R419, R420). -/
def bootRom (s : State) : State :=
  let s := setStage 1 s
  let d := s.directory.1
  let a := ImageHome.slotA d.slotA
  let b := ImageHome.slotB d.slotB
  let (x, y) := if d.prefer = 1 then (b, a) else (a, b)
  match trySlot d.size x s with
  | (true, s) => runImage x s
  | (false, s) => match trySlot d.size y s with
    | (true, s) => runImage y s
    | (false, s) => noImage s

/-! ### Cold reset (R412, R485) -/

/-- COLD_RESET: a land that holds cold reset goes low, or VIN_CORE is applied. While the shutdown latch holds, only
the lands change (R391) (DESIGN CHOICE, log entry 60). -/
def execColdReset (cause : ColdCause) (s : State) : Out :=
  let l := match cause with
    | .rstN => { s.lands with rstN := false }
    | .pwrOk => { s.lands with pwrOk := false }
    | .vinApplied => { s.lands with vinOk := true }
  if s.thermal.shut then .next { s with lands := l } else .next (coldState { s with lands := l })

/-- COLD_BRINGUP_START: RST_N and PWR_OK are both high, and VIN_CORE has been back for 1 ms after a dip (R485, R488):
the repair record gives the package generation, instructions of the test port that drive pins end (R480), and the ROM
starts (DESIGN CHOICE, log entry 40). -/
def execColdBringupStart (s : State) : Out :=
  if s.boot.resetting != some .cold || s.thermal.shut || !s.lands.vinOk then .next s
  else
    let s := if s.lands.vinDip then s.advance (s.now + msec 1) else s
    let s := { s with lands := { s.lands with rstN := true, pwrOk := true, vinDip := false, driven := true, hbmReset := false } }
    let r := (s.record.1).getD {}
    let s := updBoot (fun b => { b with resetting := none, recSeq := r.seq }) s
    let s := s.setFld Reg.GCTL_GEN F.GCTL_GEN.GEN ((r.gen + 1) % 65536)
    let s := clkShow (recordDue { s with pcie := { s.pcie with up := !s.lands.pcieLost } })
    let out := s.jtag.acts == .idcode || s.jtag.acts == .sample
    let s := { s with jtag := { s.jtag with acts := if out then s.jtag.acts else .bypass, driving := false } }
    .next (bootRom s)

/-- HBM_TRAIN_DONE: HBM stack m has trained at 6.4 Gb/s (rate 1) or 4.8 Gb/s (2), or has failed and is excluded (R237,
R426). -/
def execHbmTrainDone (m : HbmId) (rate : Fin 3) (s : State) : Out := ifUp s <|
  if s.stage != 3 || s.boot.trained.contains m.val then .next s
  else
    let s := updBoot (fun b => { b with
      trained := insertNat m b.trained, hbmRate := sset (fun _ => 0) b.hbmRate m rate.val }) s
    let s := s.setFld (Reg.MCm_STAT m) F.MCm_STAT.RATE rate.val
    let s := if rate.val = 0 then excludeHbm m s else s
    .next (if s.boot.trained.length = 8 then setStage 4 s else s)

/-- BIST_DONE: cell faults are logged, bonds repaired from the record and the loopback results, retirement tables
loaded, and the known-answer tests run (R424, R318). -/
def execBistDone (bist : Bist) (kat : Kat) (s : State) : Out := ifUp s <|
  if s.stage != 4 then .next s
  else
    let s := forEach bist.cells (fun (src, k, u, a) s =>
      logErr { src := src, sev := 3, stack := if src = 6 then 31 else k, unit := u, addr := a } s) s
    let cores := bist.cores.filter (· < 384)
    let s := updBoot (fun b => { b with bistDone := true, bistCores := cores, heldKat := some (katResult kat) }) s
    let s := forEach cores excludeCore s
    if !bist.fabricOk then .next (failBoot 5 s)
    else
      let s := setStage 5 s
      let s := match s.record.1 with
        | some r => loadRecord r s
        | none => s
      let s := updBoot (fun b => { b with rdel := [] }) s
      let new := (bist.bonds.filter fun x =>
          decide (x.1 < 24 ∧ x.2.1 < 16 ∧ x.2.2.1 < 576 ∧ x.2.2.2 < 34)).mergeSort fun a b =>
        decide (a.1 < b.1 ∨ (a.1 = b.1 ∧ (a.2.1 < b.2.1 ∨ (a.2.1 = b.2.1 ∧
          (a.2.2.1 < b.2.2.1 ∨ (a.2.2.1 = b.2.2.1 ∧ a.2.2.2 ≤ b.2.2.2))))))
      let s := forEach new (fun (k, c, g, l) s =>
        if ((s.stk k).bonds.deadEntry ⟨c, g, l⟩).isSome then s else enterDead k ⟨c, g, l⟩ s) s
      .next (knownAnswers (writeRecord (loadRetire (repair s))))

/-! ### Warm reset (R412, R413) -/

/-- Does a warm request start a warm reset: not during cold or warm bring-up? -/
def State.warmAccepted (s : State) : Bool :=
  s.boot.resetting.isNone && (s.stage == 8 || s.stage == 15 || s.lastReset == 2)

/-- Warm reset through GCTL_RST: bring-up follows at once. -/
def warmReset (kat : Option KatResult) (s : State) : State :=
  if s.warmAccepted then bootRom (updBoot (fun b => { b with heldKat := kat }) (warmState s)) else s

/-- WARM_RESET: the register on a path, or a falling WARM_RST_N, which holds the package in reset (R412, R489). -/
def execWarmReset (byLand : Bool) (path : Path) (kat : Kat) (s : State) : Out := ifUp s <|
  if !byLand then .next (if path == .group then s else warmReset (some (katResult kat)) s)
  else if !s.lands.warmN then .next s
  else
    let low (s : State) : State := { s with lands := { s.lands with warmN := false } }
    if s.warmAccepted then .next (low (updBoot (fun b => { b with resetting := some .warm }) (warmState s)))
    else .next (low s)

/-- WARM_RST_N_RELEASE: bring-up of a package the land holds in warm reset. -/
def execWarmRstNRelease (kat : Kat) (s : State) : Out := ifUp s <|
  let s := { s with lands := { s.lands with warmN := true } }
  if s.boot.resetting == some .warm then
    .next (bootRom (updBoot (fun b => { b with resetting := none, heldKat := some (katResult kat) }) s))
  else .next s

/-! ### Compute-only reset -/

/-- Compute-only reset: only from READY; the CONFIG records of the stacks apply again (R413, R421). A root in a job
holds itself unreachable (R51). -/
def computeReset (kat : Option KatResult) (s : State) : State :=
  if s.stage != 8 then s
  else
    let s := computeState (memberLost [s.pkgId] s)
    let dark := (List.range 8).filter fun m => sget (fun _ => 0) s.boot.hbmRate m == 0
    let s := updBoot (fun b => { b with
      heldKat := kat, katDone := false, postKat := false, stackIn := [], coreIn := [], stackPend := [], corePend := [],
      exclCores := b.bistCores, exclStacks := [], exclHbm := dark,
      config := b.configAll.filter fun r => stackReg r.1 }) s
    let s := s.setFlag Reg.GCTL_BOOT F.GCTL_BOOT.DEGRADED (!s.boot.exclCores.isEmpty || !dark.isEmpty)
    configStep false (setStage 6 s)

/-- COMPUTE_RESET through GCTL_RST or the mailbox. -/
def execComputeReset (path : Path) (kat : Kat) (s : State) : Out := ifUp s <|
  .next (if path == .group then s else computeReset (some (katResult kat)) s)

/-! ### Ready (R427) -/

/-- PACKAGE_READY: every condition of R427 holds. -/
def execPackageReady (s : State) : Out := ifUp s <|
  let b := s.boot
  if (s.stage == 6 || s.stage == 7) && b.katDone && b.postKat && b.trained.length == 8 && (!bitOf b.flags 1 || b.jobDone) then
    .next (svcEvt F.SVC_EVT.READY (setStage 8 s))
  else .next s

end Sys2Proof.Machine
end

