-- ==== Sys2Proof/Machine/Control.lean ====
section
/-! DEFINITION. The C-class instructions and their completion (Table 4-14, R113, R131-R137), and
undefined opcodes (R96, R114). -/

namespace Sys2Proof.Machine

open Sys2Proof

/-- A scalar or immediate source of a C-class instruction (Table 4-4). -/
def srcC (f : BitVec 7) : Bool := decide (2 ≤ srcMode f)

/-- The form of a register-layout C-class instruction with `n` sources (R97, R101, R113). -/
def cForm (n : Nat) (f : RegForm) (mod : Nat → Bool) : Bool :=
  noPred f.pred f.pneg && srcFixed n f && (usedSrcs n f).all srcC && dstNone f.dst && mod f.mod.toNat

/-- Issue a C-class instruction: enter, the form check, then `go` unless a fence holds it back or a scalar it reads
(`fs`) is uncorrectable (Table 10-1). -/
def issueC (g : Gid) (w : Word64) (ok : State → Bool) (go : State → State) (s : State) (fs : List (BitVec 7) := []) :
    Out :=
  withTraps g (fun s =>
    match enter g w s with
    | .error t => .next t
    | .ok s =>
      if !ok s then .next (trap (gi g) g.g 0 .illegal (s.slot (gi g) g.g).pc s)
      else if s.fenced (gi g) g.g then .next s
      else
        match readInner (gi g) ((fs.filterMap (innerOf s (gi g) g.g 0)).dedup) s with
        | (true, s) => .next (trapCore (gi g) s)
        | (false, s) => .next (go s)) s

/-- BR: on condition of a and 0, to this address + IMM32 × 8 (R131, Table 4-8). -/
def execBr (g : Gid) (f : ImmForm) (s : State) : Out :=
  issueC g (encImm 4 0x00 f)
    (fun _ => noPred f.pred f.pneg && srcC f.a && dstNone f.dst && decide (f.cond.toNat ≤ 8))
    (fun s =>
      let x := s.slot (gi g) g.g
      let taken := intCond 64 f.cond.toNat true (srcVal64 x f.a).toNat 0
      commitTo g (if taken then x.pc + f.imm.signExtend 40 * 8 else x.pc + 8) s) s [f.a]

/-- JR: to S[A] [39:0]; a target not a multiple of 8 or with [63:40] set is illegal (R132). -/
def execJr (g : Gid) (f : RegForm) (s : State) : Out :=
  issueC g (encReg 4 0x01 f)
    (fun s =>
      let v := srcVal64 (s.slot (gi g) g.g) f.a
      cForm 1 f (fun m => m == 0) && srcMode f.a == 2 && v.toNat % 8 == 0 && decide (v.toNat < 2 ^ 40))
    (fun s => commitTo g ((srcVal64 (s.slot (gi g) g.g) f.a).setWidth 40) s) s [f.a]

/-- The slot stops issuing until `w` is over. -/
def waitFor (g : Gid) (w : SlotWait) (s : State) : State := commit g (updSlot (gi g) g.g (fun x => { x with wait := w }) s)

/-- FENCE (R134). -/
def execFence (g : Gid) (f : RegForm) (s : State) : Out :=
  let scope := f.mod.toNat % 8
  issueC g (encReg 4 0x02 f)
    (fun _ => cForm (if scope = 3 then 2 else 0) f (fun m => decide (m < 4)))
    (fun s =>
      let x := s.slot (gi g) g.g
      if scope = 3 then waitFor g (.fence 3 (srcVal64 x f.a).toNat (srcVal64 x f.b).toNat) s
      else waitFor g (.fence scope 0 0) s) s [f.a, f.b]

/-- TFENCE (R135). -/
def execTfence (g : Gid) (f : RegForm) (s : State) : Out :=
  issueC g (encReg 4 0x03 f) (fun _ => cForm 0 f (fun m => decide (m < 2)))
    (waitFor g (.tfence (f.mod.toNat == 1))) s

/-- ENDT (R136). -/
def execEndt (g : Gid) (f : RegForm) (s : State) : Out :=
  issueC g (encReg 4 0x04 f) (fun _ => cForm 0 f (fun m => m == 0)) (waitFor g .endt) s

/-- EXIT (R137). -/
def execExit (g : Gid) (f : RegForm) (s : State) : Out :=
  issueC g (encReg 4 0x05 f) (fun _ => cForm 0 f (fun m => m == 0)) (waitFor g .exit) s

/-! ### Completion -/

/-- Is a store of `owner` (16 × core + slot; slot 8: a write-back) waiting on a fetch of stack k's L2? -/
def State.l2StoreWaits (s : State) (k owner : Nat) : Bool :=
  ((s.stk k).l2.fetches ++ (s.stk k).l2.waiting).any fun f =>
    f.waiters.any fun w => match w with | .store o _ _ _ _ _ _ => o == owner | _ => false

/-- Has slot g a load that has not returned, or a store its target has not accepted (R134)? -/
def State.slotBusy (s : State) (i g : Nat) : Bool :=
  let c := s.core i
  let mine (w : L1Waiter) : Bool := match w with | .store o _ _ _ => o == g | .lanes _ _ => false
  (c.loads.any fun x => x.slot == g) || (c.l1.miss.any fun m => m.waiters.any mine) ||
    (c.l1.waiting.any fun r => mine r.waiter) || s.l2StoreWaits (i / 16) (16 * i + g)

/-- Write back every dirty L1 line of core i and everything in its write-back buffer; lines stay valid
and clean, or become invalid (R134) (DEDUCED, log entry 26). -/
def l1WriteBack (inv : Bool) (i : Nat) (s : State) : State :=
  let s := (List.range (s.core i).l1.wb.length).foldl (fun s _ => l1WbAck i s) s
  let s := forEach (s.core i).l1.lines (fun e s =>
    match e.2 with
    | some x =>
      if x.dirty = 0 then s
      else
        let (y, s) := l1ReadDirty i x s
        l1Send i y
          (updL1 i (fun c => { c with lines := sset (fun _ => none) c.lines e.1 (some { x with dirty := 0 }) }) s)
    | none => s) s
  if inv then updL1 i (fun c => { c with lines := [], rr := [] }) s else s

/-- The fence of slot g completes once its accesses have returned or been accepted and the write-backs
of its scope have been made and acknowledged (R134, Table 4-15) (DEDUCED, log entry 26). -/
def execFenceComplete (g : Gid) (s : State) : Out := ifUp s <|
  let i := gi g
  match (s.slot i g.g).wait with
  | .fence scope base len =>
    if (s.slot i g.g).state != .running || !s.coreRuns i || s.slotBusy i g.g then .next s
    else
      let s := if scope = 0 then s else l1WriteBack (scope == 2) i s
      if scope != 0 && s.l2StoreWaits (i / 16) (16 * i + 8) then .next s
      else
        let s := if scope = 3 then l2FlushRange (i / 16) { master := missMaster i } base len false s else s
        .next (updSlot i g.g (fun x => { x with wait := .none }) s)
  | _ => .next s

/-- Are all tensor commands of slot g finished (R135)? -/
def Tensor.slotDone (t : Tensor) (g : Nat) : Bool :=
  (t.cmdq.all fun c => c.slot != g) && (t.loading.all fun x => x.cmd.slot != g) &&
    (t.streaming.all fun x => x.cmd.slot != g) && (t.rows.all fun r => r.cmd.slot != g) &&
    (t.tdrn.all fun x => x.1.slot != g) && (t.tclr.all fun c => c.slot != g)

/-- Have the tensor commands of slot g taken all their TA and TB entries (R135, ISSUE at 1)? -/
def Tensor.slotTaken (t : Tensor) (g : Nat) : Bool :=
  (t.cmdq.all fun c => c.slot != g ||
    match c.op with
    | .tldt _ _ _ => false
    | .trun _ _ _ _ _ _ => false
    | _ => true) &&
  (t.loading.all fun x => x.cmd.slot != g || decide (x.need ≤ x.taken.length)) &&
    (t.streaming.all fun x => x.cmd.slot != g)

/-- TFENCE completes (R135). -/
def execTfenceComplete (g : Gid) (s : State) : Out := ifUp s <|
  let i := gi g
  match (s.slot i g.g).wait with
  | .tfence issue =>
    let t := (s.core i).tns
    if (s.slot i g.g).state == .running && s.coreRuns i && (if issue then t.slotTaken g.g else t.slotDone g.g) then
      .next (updSlot i g.g (fun x => { x with wait := .none }) s)
    else .next s
  | _ => .next s

/-- The conditions of R136 hold for slot g. -/
def State.slotFinished (s : State) (i g : Nat) : Bool :=
  (s.slot i g).state == .running && s.coreRuns i && !s.slotBusy i g && (s.core i).tns.slotDone g

/-- ENDT completes: the slot enters tick-wait (R136). -/
def execEndtComplete (g : Gid) (s : State) : Out := ifUp s <|
  let i := gi g
  if (s.slot i g.g).wait == .endt && s.slotFinished i g.g then
    .next (updSlot i g.g (fun x => { x with wait := .none, state := .tickWait }) s)
  else .next s

/-- EXIT completes: the slot becomes empty (R137). -/
def execExitComplete (g : Gid) (s : State) : Out := ifUp s <|
  let i := gi g
  if (s.slot i g.g).wait == .exit && s.slotFinished i g.g then .next (emptySlot i g.g s)
  else .next s

/-! ### Undefined opcodes -/

/-- The OP values each class lists (Tables 4-9 to 4-14). -/
def definedOps : Nat → List Nat
  | 0 => [0x00, 0x01, 0x02, 0x03, 0x04, 0x05, 0x06, 0x07, 0x08, 0x09, 0x0A, 0x10, 0x11, 0x12, 0x13, 0x14, 0x18, 0x19,
          0x1A] ++ [0x20, 0x21, 0x22, 0x23, 0x24, 0x25, 0x26, 0x27, 0x28, 0x29, 0x30, 0x31, 0x32, 0x33, 0x34,
          0x40, 0x41, 0x42, 0x43]
  | 1 => [0x00, 0x01, 0x02, 0x03, 0x04, 0x05, 0x06, 0x07, 0x08, 0x09, 0x0A, 0x0B, 0x0C, 0x10, 0x11, 0x20, 0x21, 0x22,
          0x23]
  | 2 => [0x00, 0x01, 0x02, 0x03, 0x04, 0x05, 0x06]
  | 3 => [0x00, 0x01, 0x02, 0x03, 0x04]
  | 4 => [0x00, 0x01, 0x02, 0x03, 0x04, 0x05]
  | 5 => [0x00, 0x01, 0x02, 0x03, 0x04, 0x08, 0x09, 0x0A, 0x0B]
  | _ => []

/-- Has the word a CLASS of 0b110 or 0b111, or an OP its class does not list? -/
def undefinedWord (w : Word64) : Bool := !(definedOps (bitsOf w.toNat 61 3)).contains (bitsOf w.toNat 53 8)

/-- A word with no meaning is its group's next instruction: the core traps ILLEGAL (R96, R114). -/
def execUndefinedOpcode (g : Gid) (word : Word64) (s : State) : Out := ifUp s <|
  withTraps g (fun s =>
    match enter g word s with
    | .error t => .next t
    | .ok s =>
      if undefinedWord word then .next (trap (gi g) g.g 0 .illegal (s.slot (gi g) g.g).pc s) else .next s) s

end Sys2Proof.Machine
end

