-- ==== Sys2Proof/Machine/Cross.lean ====
section
/-! DEFINITION. The X-class instructions (Table 4-11, R110, R120-R124). -/

namespace Sys2Proof.Machine

open Sys2Proof

/-- TYPE of an X-class MOD. -/
def xType (f : RegForm) : Nat := bitsOf f.mod.toNat 20 2

/-- The form of an X-class instruction: SRCA a queue, SRCB as `b` allows, SRCC unused, TYPE among
`types`, every other MOD bit zero (R100, R110). -/
def xForm (n : Nat) (types : List Nat) (f : RegForm) (b : BitVec 7 → Bool) : Bool :=
  srcFixed n f && isQueue f.a && (n < 2 || b f.b) && types.contains (xType f) && bitsOf f.mod.toNat 0 20 == 0

/-- SRCB scalar or immediate only (R110). -/
def xNoQueue (f : BitVec 7) : Bool := !isQueue f

/-- Every thread takes the sources of an X-class instruction (R120). -/
def allThreads : Word64 := BitVec.allOnes 64

/-- An X-class reduction: `res` of the 64 values and the guarding predicate, to a scalar. -/
def reduceX (op : Nat) (types : List Nat) (g : Gid) (f : RegForm)
    (res : (Nat → Word32) → Word64 → Word64) (s : State) : Out :=
  issue g (encReg 5 op f) (fun _ => xForm 1 types f (fun _ => true) && dstS f.dst) (usedSrcs 1 f) [xType f == 2]
    (fun _ => allThreads) (fun _ => 0) none
    (fun rd s => updSlot (gi g) g.g (fun x =>
      x.setSreg (f.dst.toNat - 32) (res (rd 0) (x.guard f.pred f.pneg))) s) s

/-- An X-class exchange: active thread t receives a of thread `src t b` (R123). -/
def exchangeX (op : Nat) (b : BitVec 7 → Bool) (g : Gid) (f : RegForm) (src : Nat → Nat → Nat) (s : State) : Out :=
  issue g (encReg 5 op f) (fun _ => xForm 2 [0] f b && dstQ f.dst) (usedSrcs 2 f) []
    (fun _ => allThreads) (fun x => x.guard f.pred f.pneg) (some f.dst.toNat)
    (fun rd s => pushQ (gi g) g.g ((s.slot (gi g) g.g).guard f.pred f.pneg) f.dst.toNat
      (fun t => rd 0 (src t ((rd 1 t).toNat % 64))) s) s

/-! ### Reductions (R121, R122) -/

/-- widen of R121. -/
def widenX (type : Nat) (v : Word32) : Word64 := if type = 0 then v.signExtend 64 else v.setWidth 64

/-- One level of the pairwise tree. -/
def pairUp (c : Word64 → Word64 → Word64) : List Word64 → List Word64
  | a :: b :: t => c a b :: pairUp c t
  | l => l

/-- The fixed pairwise tree over 64 values. -/
def treeX (c : Word64 → Word64 → Word64) (v : List Word64) : Word64 :=
  (pairUp c (pairUp c (pairUp c (pairUp c (pairUp c (pairUp c v)))))).headD 0

/-- reduce of R121 for RSUM and RMAX, from the identity and the combining function. -/
def reduceTree (type : Nat) (ident : Word32) (c : Word64 → Word64 → Word64) (x : Nat → Word32) (act : Word64) :
    Word64 :=
  treeX c ((List.range 64).map fun t => widenX type (if act.getLsbD t then x t else ident))

/-- A binary32 operation on the low halves. -/
def lowF32 (op : Word32 → Word32 → Word32) (a b : Word64) : Word64 :=
  (op (a.setWidth 32) (b.setWidth 32)).setWidth 64

def combineSum (type : Nat) (a b : Word64) : Word64 := if type = 2 then lowF32 fadd a b else a + b

def combineMax (type : Nat) (a b : Word64) : Word64 :=
  if type = 2 then lowF32 fmax a b
  else if type = 0 then (if a.toInt ≤ b.toInt then b else a) else if a ≤ b then b else a

def identSum (type : Nat) : Word32 := if type = 2 then 0x80000000 else 0

def identMax (type : Nat) : Word32 := if type = 0 then 0x80000000 else if type = 1 then 0 else 0xFF800000

def execRany (g : Gid) (f : RegForm) (s : State) : Out :=
  reduceX 0x00 [0] g f (fun x act => if (List.range 64).any fun t => act.getLsbD t && x t != 0 then 1 else 0) s

def execRall (g : Gid) (f : RegForm) (s : State) : Out :=
  reduceX 0x01 [0] g f (fun x act => if (List.range 64).all fun t => !act.getLsbD t || x t != 0 then 1 else 0) s

def execRsum (g : Gid) (f : RegForm) (s : State) : Out :=
  reduceX 0x02 [0, 1, 2] g f (reduceTree (xType f) (identSum (xType f)) (combineSum (xType f))) s

def execRmax (g : Gid) (f : RegForm) (s : State) : Out :=
  reduceX 0x03 [0, 1, 2] g f (reduceTree (xType f) (identMax (xType f)) (combineMax (xType f))) s

/-- The sign of an integer as a 64-bit value. -/
def signWord (z : Int) : Word64 := if z < 0 then BitVec.allOnes 64 else if z = 0 then 0 else 1

/-- RSIGN over F32 values: the exact sum's sign, 2 on a NaN or opposed infinities (R122). -/
def signF32 (vs : List Fp) : Word64 :=
  if vs.contains .nan || (vs.contains (.inf false) && vs.contains (.inf true)) then 2
  else if vs.contains (.inf false) then 1
  else if vs.contains (.inf true) then BitVec.allOnes 64
  else signWord (vs.foldl (fun z v => match v with
    | .fin s m e => z + alignTo s m e (-149)
    | _ => z) 0)

def execRsign (g : Gid) (f : RegForm) (s : State) : Out :=
  reduceX 0x04 [0, 1, 2] g f (fun x act =>
    let ts := (List.range 64).filter fun t => act.getLsbD t
    if xType f = 2 then signF32 (ts.map fun t => decF32 (x t))
    else signWord (ts.foldl (fun z t => z + if xType f = 0 then (x t).toInt else ((x t).toNat : Int)) 0)) s

/-! ### Exchange and transfer (R123, R124) -/

def execXshfl (g : Gid) (f : RegForm) (s : State) : Out :=
  exchangeX 0x08 (fun _ => true) g f (fun _ b => b) s

def execXrot (g : Gid) (f : RegForm) (s : State) : Out :=
  exchangeX 0x09 xNoQueue g f (fun t b => (t + b) % 64) s

def execXbfly (g : Gid) (f : RegForm) (s : State) : Out :=
  exchangeX 0x0A xNoQueue g f (fun t b => t ^^^ b) s

/-- QTOS: a of thread b[5:0], active or not (R124). -/
def execQtos (g : Gid) (f : RegForm) (s : State) : Out :=
  issue g (encReg 5 0x0B f) (fun _ => xForm 2 [0, 1, 2] f xNoQueue && dstS f.dst) (usedSrcs 2 f)
    [xType f == 2, false] (fun _ => allThreads) (fun _ => 0) none
    (fun rd s => updSlot (gi g) g.g (fun x =>
      x.setSreg (f.dst.toNat - 32) (widenX (xType f) (rd 0 ((rd 1 0).toNat % 64)))) s) s

end Sys2Proof.Machine
end

