-- ==== Sys2Proof/Machine/Job.lean ====
section
/-! DEFINITION. The service controller's autonomous job start (R429, R423). -/

namespace Sys2Proof.Machine

open Sys2Proof

/-! ### The image's JOB records -/

/-- The bodies of the JOB records of a kind, in order. -/
def State.jobBodies (s : State) (kind : Nat) : List (List Byte) :=
  (s.boot.job.filter fun r => r.1 == kind).map (·.2)

/-- The Group record. -/
def State.jobGroup (s : State) : Option (List Byte) := (s.jobBodies 1).head?

/-- A write by the service controller. -/
def svcWrite (a v : Nat) (s : State) : State := writePart .svc a 15 (BitVec.ofNat 32 v) s

/-! ### End of the procedure -/

/-- A REPLY to MGMT request `m` with a value (R431). -/
def mgmtReply (m : Msg) (v : Nat) (s : State) : State :=
  (sendControl { s.newMsg 0x17 m.src with
    body := bodyPut 32 4 + bodyPut 36 (m.bodyAt 36 4) + bodyPut 40 v + bodyPut 44 m.tag } s).2

/-- The mailbox command that started the procedure completes; its result goes to the package that asked for it. -/
def jobMailbox (ok : Bool) (s : State) : State :=
  if s.boot.autoMb then
    let a := Reg.SVC_MB_STAT
    let s := s.setFlag a F.SVC_MB_STAT.BUSY false
    let ask := s.boot.mbReply
    let s := updBoot (fun b => { b with autoMb := false, mbReply := none })
      (s.setFlag a (if ok then F.SVC_MB_STAT.DONE else F.SVC_MB_STAT.ERR))
    match ask with
    | some m => mgmtReply m (s.fld a F.SVC_MB_STAT.RESULT) s
    | none => s
  else s

/-- The procedure stops at step `n`. -/
def jobFail (n : Nat) (s : State) : State :=
  let s := s.setFld Reg.SVC_MB_STAT F.SVC_MB_STAT.RESULT n
  let s := s.setFlag Reg.GCTL_BOOT F.GCTL_BOOT.AUTO false
  svcEvt F.SVC_EVT.JOB_FAIL (jobMailbox false (updBoot (fun b => { b with autoStep := none, jobDone := true }) s))

/-- Stop at step `n` if `bad`, else go on with `f`. -/
def jobStep (n : Nat) (bad : Bool) (f : State → State) (s : State) : State := if bad then jobFail n s else f s

/-! ### Steps -/

/-- Step 1: modes, the job group, L1 sizes, splits and claim queues; then the wait of step 2 (DEDUCED, log entry 47). -/
def jobStart (s : State) : State :=
  let s := s.setFlag Reg.GCTL_BOOT F.GCTL_BOOT.AUTO
  match s.jobGroup with
  | none => jobFail 1 s
  | some g =>
    let f := Config.jobField 1 g
    let s := svcWrite Reg.GCTL_MODE (f 3) s
    let s := identChanged { s with roles := { s.roles with jobgrp := f 0 % 65536 } }
    let s := forEach (s.jobBodies 4) (fun b s =>
      let i := Config.jobField 4 b 0 % 384
      svcWrite (Reg.CORE_MEM_CFG (i / 16) (i % 16)) (Config.jobField 4 b 1) s) s
    let s := forEach (s.jobBodies 3) (fun b s =>
      let f := Config.jobField 3 b
      let k := f 0 % 24
      let s := svcWrite (Reg.STK_MERE_SPLIT k) (f 1) s
      forEach (List.range 4) (fun q s =>
        let s := svcWrite (Reg.STK_CLAIMq_CFG k q) (f (2 + 4 * q)) s
        let s := svcWrite (Reg.STK_CLAIMq_CORES k q) (f (3 + 4 * q)) s
        let s := svcWrite (Reg.STK_CLAIMq_BASE_LO k q) (f (4 + 4 * q)) s
        svcWrite (Reg.STK_CLAIMq_BASE_HI k q) (f (5 + 4 * q)) s) s) s
    updBoot (fun b => { b with autoStep := some 2 }) s

/-- Store the bytes of a Load record: the service controller reaches every local target, registers included
(Table 1-6). -/
def jobPut (dst : Nat) (bs : List Byte) (s : State) : State :=
  if regBase ≤ dst then forEach (partsOf (dst - regBase) bs) (fun w s => writePart .svc w.1 w.2.1 w.2.2 s) s
  else directStore 0x489 dst bs none s

/-- The first refusal in `n` bytes at local address `a` on the host's window or for the service controller's memory
accesses (Table 1-6, R458). -/
def State.svcErr (s : State) (a n : Nat) : Option Nat :=
  (List.range ((a % 256 + max n 1 + 255) / 256)).findSome? fun i =>
    match decodeMem s (if i = 0 then a else a / 256 * 256 + 256 * i) with
    | .err e => some e
    | .ok _ => none

/-- Step 3: one Load record; none: it stops the procedure. -/
def jobLoad (b : List Byte) (s : State) : Bool × State :=
  let f := Config.jobField 2 b
  match s.boot.image, s.boot.dataSecs[f 0]? with
  | some h, some (off, len, digest) =>
    let dst := f 3
    if !s.imgOk h off len ∨ Config.sha384 (s.imgBytes h off len) ≠ digest ∨ len < f 1 + f 2 then (false, s)
    else match if regBase ≤ dst ∧ dst + f 2 ≤ regBase + 0x4000000 then none else s.svcErr dst (f 2) with
      | some e => (false, decodeErr { master := 5 } dst e s)
      | none =>
        let s := jobPut dst (s.imgBytes h (off + f 1) (f 2)) s
        (true, if dst < 0x8000000000 then forEach (List.range 24) (fun k s => l2FlushRange k { master := 0x489 } dst (f 2) true s) s else s)
  | _, _ => (false, s)

/-- Do `f` on each record until one fails. -/
def jobEach (f : List Byte → State → Bool × State) : List (List Byte) → State → Bool × State
  | [], s => (true, s)
  | b :: t, s => match f b s with
    | (true, s) => jobEach f t s
    | (false, s) => (false, s)

/-- Step 4: a Core record's numeric settings and seed. -/
def jobCore (b : List Byte) (s : State) : State :=
  let f := Config.jobField 4 b
  let i := f 0 % 384
  let s := svcWrite (Reg.CORE_NUM_CTL (i / 16) (i % 16)) (f 2) s
  if f 3 = 0 then s else svcWrite (Reg.CORE_SR_SEED (i / 16) (i % 16)) (f 3) s

/-- Step 5: a Core record's preload, run to its end. -/
def jobPreload (b : List Byte) (s : State) : Bool × State :=
  let f := Config.jobField 4 b
  let i := f 0 % 384
  let k := i / 16
  let c := i % 16
  if f 5 = 0 then (true, s)
  else
    let s := svcWrite (Reg.CORE_IC_PL_ADDR k c) (f 4) s
    let s := svcWrite (Reg.CORE_IC_PL_LEN k c) (f 5) s
    let pin := f 6 % 2 == 1
    let s := svcWrite (Reg.CORE_IC_CTL k c) (if pin then 3 else 1) s
    let s := forEach ((s.core i).ic.preload.getD []) (fun l s => preloadLine {} pin i l s) s
    let s := updIc i (fun ic => { ic with preload := none }) s
    let stat := Reg.CORE_IC_STAT k c
    (s.fld stat F.CORE_IC_STAT.UNPINNED == 0 && !s.flag stat F.CORE_IC_STAT.ERR, s)

/-- Step 6: a Guarantee record. -/
def jobGuarantee (b : List Byte) (s : State) : Bool × State :=
  let f := Config.jobField 6 b
  requestGuarantee (f 0 % 2048) (f 2) [f 1 % 40] (svcWrite Reg.BWR_GSEL (f 0 % 2048 + 2 ^ 16 * (f 1 % 40)) s)

/-- Step 7: a Slot record. -/
def jobSlot (b : List Byte) (s : State) : State :=
  let f := Config.jobField 5 b
  let i := f 0 % 384
  let g := f 1 % 8
  let s := svcWrite (Reg.CORE_Gg_ENTRY (i / 16) (i % 16) g) (f 2) s
  let s := svcWrite (Reg.CORE_Gg_QBIND (i / 16) (i % 16) g) (f 3) s
  svcWrite (Reg.CORE_Gg_CTL (i / 16) (i % 16) g) 1 s

/-- Step 8: an entry of a Roles record goes into both banks (R440). -/
def jobRoles (b : List Byte) (s : State) : State :=
  forEach (List.range (b.length / 6)) (fun i s =>
    let r := numAt b (6 * i) 2
    let v : Word32 := BitVec.ofNat 32 (numAt b (6 * i + 2) 4) &&& 0x80FFFFFF
    if r = 0xFFFF then s
    else { s with roles := { s.roles with
      active := sset (fun _ => 0) s.roles.active r v, staged := sset (fun _ => 0) s.roles.staged r v } }) s

/-- Is package m of the Group record reachable with a matching job group (R429, step 9)? -/
def State.jobReach (s : State) (m : Nat) : Bool :=
  m == s.pkgId ||
    ((match s.route m with
      | .link _ => true
      | _ => false) &&
     (List.range 32).all fun l => !s.linkUp l || (s.nbr l).pkg != m || (s.nbr l).jobgrp == s.roles.jobgrp)

/-- Steps 9 and 10: the root waits for every member and sets REL_LAT from latencies that are left open; START (DEDUCED, log entry 47). -/
def jobFinish (g : List Byte) (s : State) : State :=
  let f := Config.jobField 1 g
  let root := f 1 % 4096 == s.pkgId
  let members := (List.range (min (f 4) 256)).map fun i => f (5 + i) % 4096
  if root && !members.all s.jobReach then updBoot (fun b => { b with autoStep := some 9 }) s
  else
    let s := if root then
        let (v, s) := s.draw 13
        svcWrite Reg.TICK_REL_LAT (max 8 v.toNat) s
      else s
    let s := svcWrite Reg.TICK_CTL ((s.reg Reg.TICK_CTL).toNat % 64 / 4 * 4 + 1) s
    jobMailbox true (updBoot (fun b => { b with autoStep := none, jobDone := true }) s)

/-- Steps 3 to 10, once the splits have taken effect (DEDUCED, log entry 47). -/
def jobRun (g : List Byte) (s : State) : State :=
  let (ok, s) := jobEach jobLoad (s.jobBodies 2) s
  jobStep 3 (!ok) (fun s =>
    let s := forEach (s.jobBodies 4) jobCore s
    let (ok, s) := jobEach jobPreload (s.jobBodies 4) s
    jobStep 5 (!ok) (fun s =>
      let (ok, s) := jobEach jobGuarantee (s.jobBodies 6) s
      jobStep 6 (!ok) (fun s =>
        let s := forEach (s.jobBodies 5) jobSlot s
        let s := forEach (s.jobBodies 7) jobRoles s
        let f := Config.jobField 1 g
        let s := svcWrite Reg.TICK_PERIOD (f 2) s
        let s := svcWrite Reg.TICK_ROOT_ID (f 1) s
        let s := svcWrite Reg.TICK_CTL ((s.reg Reg.TICK_CTL).toNat % 64 / 8 * 8 + (if f 1 % 4096 = s.pkgId then 4 else 0)) s
        jobFinish g s) s) s) s

/-- The procedure goes on at a free-mode boundary (DEDUCED, log entry 47). -/
def jobBoundary (s : State) : State :=
  match s.boot.autoStep, s.jobGroup with
  | some 2, some g => jobRun g s
  | some _, some g => jobFinish g s
  | _, _ => s

/-- AUTO_JOB_START: FLAGS.AUTO starts the resident job before the package reads READY (R429, R427). -/
def execAutoJobStart (s : State) : Out := ifUp s <|
  let b := s.boot
  if s.stage == 6 && b.katDone && b.postKat && bitOf b.flags 1 && !b.jobDone && b.autoStep.isNone && s.noJob then
    .next (jobStart (setStage 7 s))
  else .next s

end Sys2Proof.Machine
end

