-- ==== Sys2Proof/Machine/Access.lean ====
section
/-! DEFINITION. The service controller's mailbox (R430), writes that start a command or a reset, and whole accesses on
a path (R463-R466). -/

namespace Sys2Proof.Machine

open Sys2Proof

/-! ### Mailbox (R430, Table 16-13) -/

/-- A mailbox command ends: DONE or ERR, and RESULT, an outcome code that is left open where the spec gives none (DEDUCED, log entry 48). -/
def mbEnd (ok : Bool) (result : Option Nat) (s : State) : State :=
  let a := Reg.SVC_MB_STAT
  let s := s.setFlag a (if ok then F.SVC_MB_STAT.DONE else F.SVC_MB_STAT.ERR)
  match result with
  | some r => s.setFld a F.SVC_MB_STAT.RESULT r
  | none =>
    let (v, s) := s.draw 8
    s.setFld a F.SVC_MB_STAT.RESULT v.toNat

def State.mbArg (s : State) (k : Nat) : Nat := (s.reg (Reg.SVC_MB_ARGk k)).toNat

/-- The window's first `n` bytes. -/
def State.windowBytes (s : State) (n : Nat) : List Byte := (List.range n).map fun i => sget (fun _ => 0) s.boot.window i

def setWindow (bs : List Byte) (s : State) : State :=
  writeWindow 0 ((bs.take 4096).zipIdx.map fun b => (b.2, b.1)) s

/-- The flash offset of slot `n` by the directory in force. -/
def State.slotBase (s : State) (n : Nat) : Nat := if n = 0 then s.directory.1.slotA else s.directory.1.slotB

/-- IMG_BEGIN: erase slot ARG0 for an image of ARG1 bytes. -/
def mbImgBegin (s : State) : State :=
  let size := s.directory.1.size
  if 1 < s.mbArg 0 ∨ size < s.mbArg 1 then mbEnd false none s
  else mbEnd true none (updBoot (fun b => { b with imgSlot := some (s.mbArg 0) }) (flashErase (s.slotBase (s.mbArg 0)) size s))

/-- IMG_DATA: ARG1 window bytes go to offset ARG0 of the slot erased last (DEDUCED, log entry 48). -/
def mbImgData (s : State) : State :=
  match s.boot.imgSlot with
  | some n =>
    if 4096 < s.mbArg 1 ∨ s.directory.1.size < s.mbArg 0 + s.mbArg 1 then mbEnd false none s
    else mbEnd true none (flashWrite (s.slotBase n + s.mbArg 0) (s.windowBytes (s.mbArg 1)) s)
  | none => mbEnd false none s

/-- IMG_END: check the slot; on success the directory prefers it. -/
def mbImgEnd (s : State) : State :=
  match s.boot.imgSlot with
  | some n =>
    let (d, at_) := s.directory
    let e := s.imgCheck (if n = 0 then .slotA d.slotA else .slotB d.slotB) d.size
    if e ≠ 0 then mbEnd false (some e) s
    else mbEnd true none (flashWrite at_ ({ d with seq := d.seq + 1, prefer := n } : Directory).bytes s)
  | none => mbEnd false none s

/-- IMG_BOOT, in FAILED only: with ARG2 at 1 a chunk goes to the service controller's RAM; else the image there is
checked and runs (R420). -/
def mbImgBoot (s : State) : State :=
  if s.stage ≠ 15 then mbEnd false none s
  else
    let size := s.directory.1.size
    if s.mbArg 2 = 1 then
      let o := s.mbArg 0
      let n := s.mbArg 1
      if 4096 < n ∨ size < o + n then mbEnd false none s
      else
        let bs := s.windowBytes n
        mbEnd true none (updBoot (fun b => { b with
          ram := bs.zipIdx.foldl (fun m x => sset (fun _ => 0) m (o + x.2) x.1) b.ram, ramLen := max b.ramLen (o + n) }) s)
    else
      let e := s.imgCheck .ram s.boot.ramLen
      if e ≠ 0 then mbEnd false (some e) s
      else runImage .ram (mbEnd true none (s.setFld Reg.GCTL_BOOT F.GCTL_BOOT.FAIL 0))

/-- NBR_READ: the 32 neighbour entries of R432, 32 B each. -/
def mbNbrRead (s : State) : State :=
  mbEnd true none (setWindow ((List.range 32).flatMap fun l =>
    let x := s.nbr l
    leBytes 32 (Config.nbrBytes [x.state.code, x.serial, x.pkg, x.gen, x.jobgrp, x.rclass, x.rev, x.feat, x.first, x.changed])) s)

/-- RETIRE_DELETE: a retired region is to be deleted at the next cold reset (R317). -/
def mbRetireDelete (s : State) : State :=
  mbEnd true none (updBoot (fun b => { b with rdel := b.rdel ++ [Config.retireArg (s.reg (Reg.SVC_MB_ARGk 0))] }) s)

/-- RECORD_READ: the repair record in force goes to the window. -/
def mbRecordRead (s : State) : State := mbEnd true none (setWindow s.recordBytes s)

/-- SVN_RAISE: the fused minimum rises to the running image's. -/
def mbSvnRaise (s : State) : State :=
  if s.boot.image.isNone then mbEnd false none s
  else mbEnd true none (updBoot (fun b => { b with minSvn := max b.minSvn b.svn }) s)

/-- JOB_START, in free or stopped state: BUSY until the procedure of R429 ends. -/
def mbJobStart (s : State) : State :=
  if !s.noJob || s.boot.autoStep.isSome then mbEnd false none s
  else jobStart (updBoot (fun b => { b with autoMb := true }) (s.setFlag Reg.SVC_MB_STAT F.SVC_MB_STAT.BUSY))

/-- HOST_TAKE, in free or stopped state: AUTO clears (R429). -/
def mbHostTake (s : State) : State :=
  if !s.noJob then mbEnd false none s
  else mbEnd true none (updBoot (fun b => { b with autoStep := none }) (s.setFlag Reg.GCTL_BOOT F.GCTL_BOOT.AUTO false))

/-- COMPUTE_RESET. -/
def mbComputeReset (s : State) : State :=
  if s.stage ≠ 8 then mbEnd false none s else computeReset none (mbEnd true none s)

/-- A write of SVC_MB_CMD: ignored while BUSY is 1, and while a reset holds the service controller (DEDUCED, log entry 48). -/
def mailbox (cmd : Nat) (s : State) : State :=
  if s.flag Reg.SVC_MB_STAT F.SVC_MB_STAT.BUSY || s.boot.resetting.isSome then s
  else match cmd with
    | 0x01 => mbImgBegin s
    | 0x02 => mbImgData s
    | 0x03 => mbImgEnd s
    | 0x04 => mbImgBoot s
    | 0x10 => mbNbrRead s
    | 0x11 => mbRetireDelete s
    | 0x12 => mbRecordRead s
    | 0x13 => mbSvnRaise s
    | 0x20 => mbJobStart s
    | 0x21 => mbHostTake s
    | 0x22 => mbComputeReset s
    | _ => mbEnd false none s

/-! ### Writes -/

/-- Can path `p` reach the register at `a`: a PCIe link that is up, and for groups a stack's block, which is then
their own (Table 1-6) (DEDUCED, log entry 79)? -/
def State.pathOpen (s : State) (p : Path) (a : Nat) : Bool :=
  match p with
  | .pcie => s.pcie.up
  | .group => (stkBlockOf a).isSome
  | _ => true

/-- One 32-bit part of a write, with the mailbox and GCTL_RST (R412: KEY in the same write; WARM wins) (DEDUCED, log entry 53). -/
def writeReg (p : Path) (a be : Nat) (v : Word32) (s : State) : State :=
  if a = Reg.GCTL_RST ∧ be % 16 = 15 then
    if F.GCTL_RST.KEY.get v ≠ 0xA5C3 then s
    else if v.getLsbD 0 then warmReset none s
    else if v.getLsbD 1 then computeReset none s
    else s
  else if a = Reg.SVC_MB_CMD then if bitOf be 0 then mailbox (v.toNat % 256) s else s
  else writePart p a be v s

/-- A write of `data` at offset `a`: whether it was accepted as an access, and its parts in ascending order (R466). -/
def writeAccess (p : Path) (a : Nat) (data : List Byte) (s : State) : Bool × State :=
  if data.isEmpty then (true, s)
  else if crosses a data.length then (false, accErr p 2 a s)
  else (true, forEach (partsOf a data) (fun w s => writeReg p w.1 w.2.1 w.2.2 s) s)

/-- A whole 32-bit write of a register that has a command of its own. -/
def pathWrite (p : Path) (a : Nat) (v : Word32) (s : State) : State :=
  if s.pathOpen p a then writeReg p a 15 v s else s

/-- The status an access returns on its path (R466). -/
def accAnswer (p : Path) (ok : Bool) : Answer :=
  if ok then .done else if p == .pcie then .ur else .error

end Sys2Proof.Machine
end

