-- ==== Sys2Proof/Machine/HostRows.lean ====
section
/-! DEFINITION. The PCIe endpoint (R455-R462), the SMBus and I3C target (R469-R471), the management SPI (R472-R475)
and the JTAG port (R478-R480) (DEDUCED, log entry 50). -/

namespace Sys2Proof.Machine

open Sys2Proof

def answer (a : Answer) (s : State) : State := { s with answer := a }

/-! ### Host windows (R458, R459) -/

/-- The local address a BAR2 offset names; none: its window is disabled. -/
def State.windowAddr (s : State) (off : Word32) : Option Nat :=
  let w := s.reg (Reg.GCTL_HWINw (off.toNat / 2 ^ 30))
  if F.GCTL_HWINw.EN.get w = 1 then some (F.GCTL_HWINw.BASE.get w * 2 ^ 30 + off.toNat % 2 ^ 30) else none

/-- Do `f` at the translated address of an access of `n` bytes, or refuse it (R458). -/
def hostWindow (off : Word32) (n : Nat) (f : Nat → State → State) (s : State) : Out :=
  if !s.pcie.up || n = 0 then .next s
  else match s.windowAddr off with
    | none => .next (answer .ur s)
    | some a => match s.svcErr a n with
      | some e => .next (answer .ca (decodeErr { master := 4 } a e s))
      | none => .next (f a s)

/-- HOST_WINDOW_WRITE. -/
def execHostWindowWrite (off : Word32) (data : List Byte) (s : State) : Out := ifUp s <|
  hostWindow off data.length (fun a s => answer .done (directStore 0x488 a data none s)) s

/-- HOST_WINDOW_READ: uncorrectable data returns with EP set (R289). -/
def execHostWindowRead (off : Word32) (len : Nat) (u : Upsets) (s : State) : Out := ifUp s <|
  hostWindow off len (fun a s =>
    let (bs, bad, s) := directLoad 0x488 a len none (upset u s)
    answer (if bad then .poisoned bs else .data bs) s) s

/-- PCIE_COMPLETION_TIMEOUT: a read through a window whose target has not answered within 1 ms (R459). -/
def execPcieCompletionTimeout (off : Word32) (s : State) : Out := ifUp s <|
  hostWindow off 1 (fun a s => answer .ca (accErr .pcie 3 a (s.advance (s.now + msec 1)))) s

/-- The endpoint's own state returns to reset: configuration space, windows, MSI-X table and pending bits (R460)
(PRESUMED, log entry 51). -/
def endpointReset (s : State) : State :=
  let s := (List.range 4).foldl (fun s w => s.setReg (Reg.GCTL_HWINw w) 0) s
  { s with pcie := { s.pcie with
      ident := s.pcieIdent, bars := ({} : Pcie).bars, table := [], unmasked := [], pba := [] } }

/-- PCIE_FUNCTION_RESET: a function-level reset, a hot reset or a link down (R460). -/
def execPcieFunctionReset (_cause : Fin 3) (s : State) : Out := ifUp s <| .next (endpointReset s)

/-- MSIX_UNMASK: a pending bit still set sends one message (R462). -/
def execMsixUnmask (v : Fin 32) (s : State) : Out := ifUp s <|
  let p := s.pcie
  let p := { p with unmasked := insertNat v p.unmasked }
  let p := if p.pba.contains v.val then { p with pba := p.pba.filter (· != v.val), sent := v.val :: p.sent } else p
  .next { s with pcie := p }

/-! ### SMBus and I3C (R470, R471) -/

/-- A refusal of a transaction. -/
def smbRefuse (f : Fld) (s : State) : State := answer .nack (s.setFlag Reg.MSMB_STAT f)

/-- Judge a transaction whose command moves `count` bytes, `written` of them from the controller: a failed packet error
check, an unknown or missing command, a wrong count. -/
def smbServe (x : SmbXfer) (count written : Nat) (f : State → State) (s : State) : Out :=
  if !s.smb.i3c && s.flag Reg.MSMB_CFG F.MSMB_CFG.PEC_EN && !x.pecOk then .next (smbRefuse F.MSMB_STAT.PEC_ERR s)
  else if !x.knownCode || (s.smb.i3c && !x.hasCode) || (!s.smb.i3c && x.count != count) || x.bytes.length != written then
    .next (smbRefuse F.MSMB_STAT.PROTO_ERR s)
  else .next (f s)

/-- The offset register of a command code (R470). -/
def State.smbOff (s : State) (code : Nat) : Nat := sget (fun _ => 0) s.smb.offs code

def setSmbOff (code v : Nat) (s : State) : State :=
  { s with smb := { s.smb with offs := sset (fun _ => 0) s.smb.offs code (v % 2 ^ 26) } }

/-- SMB_SET_OFFSET: every command's offset register takes the offset. -/
def execSmbSetOffset (x : SmbXfer) (s : State) : Out := ifUp s <|
  smbServe x 4 4 (fun s =>
    let v := leNat x.bytes / 4 * 4
    answer .done (setSmbOff 5 v (setSmbOff 3 v (setSmbOff 2 v s)))) s

/-- A read of `n` bytes at the offset of a command, which then moves on. -/
def smbFetch (code n : Nat) (s : State) : State :=
  let a := s.smbOff code
  match readAccess .smb hostClaimer a n s with
  | (some bs, s) => answer (.data bs) (setSmbOff code (a + n) s)
  | (none, s) => answer .error s

/-- SMB_READ. -/
def execSmbRead (x : SmbXfer) (s : State) : Out := ifUp s <| smbServe x 4 0 (smbFetch 2 4) s

/-- SMB_WRITE. -/
def execSmbWrite (x : SmbXfer) (s : State) : Out := ifUp s <|
  smbServe x 4 4 (fun s =>
    let a := s.smbOff 3
    let (ok, s) := writeAccess .smb a x.bytes s
    answer (accAnswer .smb ok) (if ok then setSmbOff 3 (a + 4) s else s)) s

/-- SMB_READ64: LO, then HI from the latch (R464). -/
def execSmbRead64 (x : SmbXfer) (s : State) : Out := ifUp s <| smbServe x 8 0 (smbFetch 5 8) s

/-- SMB_STATUS. -/
def execSmbStatus (x : SmbXfer) (s : State) : Out := ifUp s <|
  smbServe x 4 0 (fun s => answer (.data (leBytes 4 (readReg .smb Reg.MSMB_STAT s).toNat)) s) s

/-- I3C_ENTRY: the first I3C broadcast address (R469). -/
def execI3cEntry (s : State) : Out := ifUp s <| .next { s with smb := { s.smb with i3c := true } }

/-- The provisioned ID in its random-value form: a maker's code, 1 in bit 32, and bits [31:0] of the package serial
(R469). -/
def State.provisionedId (s : State) : Nat :=
  2 ^ 33 * Config.i3cMaker.toNat + 2 ^ 32 + s.fuses.serial.toNat % 2 ^ 32

/-- I3C_DAA: a dynamic address by ENTDAA, which reads the provisioned ID, or by SETDASA with the static address (R469)
(DEDUCED, log entry 50). -/
def execI3cDaa (setdasa : Bool) (static dyn : BitVec 7) (s : State) : Out := ifUp s <|
  if s.smb.i3c && (!setdasa || static.toNat == s.fld Reg.MSMB_CFG F.MSMB_CFG.ADDR) then
    let s := { s with smb := { s.smb with dyn := some dyn.toNat } }
    .next (if setdasa then s else answer (.data (leBytes 6 s.provisionedId)) s)
  else .next s

/-- I3C_TARGET_RESET: back to SMBus mode (R469). -/
def execI3cTargetReset (s : State) : Out := ifUp s <| .next { s with smb := { s.smb with i3c := false, dyn := none } }

/-- SMBUS_TIMEOUT: SCL low for 25 ms drops a transaction under way; commands here are whole transactions, so that
nothing of one is left to drop (R469). -/
def execSmbusTimeout (s : State) : Out := ifUp s <|
  if s.smb.i3c then .next s else .next (s.advance (s.now + msec 25))

/-! ### Management SPI (R473-R475) -/

/-- A frame discarded for its edge count (R474). -/
def mspiDiscard (s : State) : State :=
  answer .error ((s.setFlag Reg.MSPI_STAT F.MSPI_STAT.FRAME_ERR).bump Reg.MSPI_STAT F.MSPI_STAT.FRAMES)

def MspiHead.words (h : MspiHead) : Nat := h.len.toNat + 1

/-- BAR0 offset of a frame. -/
def MspiHead.addr (h : MspiHead) : Nat := 4 * h.off.toNat

/-- A frame whose OP is none of Table 18-9: OP_ERR, discarded. -/
def mspiUnknown (s : State) : State := mspiDiscard (s.setFlag Reg.MSPI_STAT F.MSPI_STAT.OP_ERR)

/-- An OP of Table 18-9. -/
def mspiKnown (op : BitVec 4) : Bool := decide (1 ≤ op.toNat ∧ op.toNat ≤ 3)

/-- Judge a frame of operation `op` with `h` header and `d` payload bytes. -/
def mspiServe (hd : MspiHead) (op hb db : Nat) (f : State → State) (s : State) : Out :=
  if !mspiKnown hd.op then .next (mspiUnknown s)
  else if hd.op.toNat ≠ op then .next s
  else if hd.edges ≠ 8 * (hb + db) then .next (mspiDiscard s)
  else .next (f s)

def mspiRange (hd : MspiHead) (s : State) : State :=
  answer .error (accErr .mspi 2 (MspiHead.addr hd) (s.setFlag Reg.MSPI_STAT F.MSPI_STAT.RANGE_ERR))

/-- MSPI_READ. -/
def execMspiRead (hd : MspiHead) (s : State) : Out := ifUp s <|
  let n := 4 * MspiHead.words hd
  mspiServe hd 1 8 n (fun s =>
    if crosses (MspiHead.addr hd) n then mspiRange hd s
    else if hd.late then answer (.data (List.replicate n 0)) (s.setFlag Reg.MSPI_STAT F.MSPI_STAT.RD_LATE)
    else match readAccess .mspi hostClaimer (MspiHead.addr hd) n s with
      | (some bs, s) => answer (.data bs) s
      | (none, s) => answer .error s) s

/-- MSPI_WRITE: the words apply at release (R474). -/
def execMspiWrite (hd : MspiHead) (words : List Word32) (s : State) : Out := ifUp s <|
  let n := 4 * MspiHead.words hd
  mspiServe hd 2 4 n (fun s =>
    if words.length ≠ MspiHead.words hd then mspiDiscard s
    else if crosses (MspiHead.addr hd) n then mspiRange hd s
    else
      let (ok, s) := writeAccess .mspi (MspiHead.addr hd) (words.flatMap fun w => leBytes 4 w.toNat) s
      answer (accAnswer .mspi ok) s) s

/-- MSPI_STATUS: LEN − 1 and the offset must be zero. -/
def execMspiStatus (hd : MspiHead) (s : State) : Out := ifUp s <|
  if hd.op.toNat = 3 ∧ (hd.len ≠ 0 ∨ hd.off ≠ 0) then
    let s := s.setFlag Reg.MSPI_STAT F.MSPI_STAT.OP_ERR
    .next (if hd.edges ≠ 64 then mspiDiscard s else answer (.data [0, 0, 0, 0]) s)
  else mspiServe hd 3 4 4 (fun s => answer (.data (leBytes 4 (readReg .mspi Reg.MSPI_STAT s).toNat)) s) s

/-! ### JTAG (R478-R480) -/

/-- May an instruction that drives pins act: only while RST_N is asserted, and not after a thermal shutdown? -/
def State.jtagActs (s : State) : Bool := !s.lands.rstN && !s.thermal.shut

/-- Load an instruction; `pins`: it acts only where the pins may be driven, else as BYPASS (R480). A thermal shutdown
holds the port too (R391). -/
def jtagLoad (i : JtagInstr) (pins : Bool) (s : State) : State :=
  let acts := if pins && !s.jtagActs then .bypass else i
  if s.thermal.shut then s
  else { s with jtag := { s.jtag with
    loaded := i, acts := acts, dr := if acts = .idcode then 0x40064547 else 0,
    driving := pins && s.jtagActs && i != .highz } }

/-- JTAG_BYPASS. -/
def execJtagBypass (s : State) : Out := .next (jtagLoad .bypass false s)

/-- JTAG_IDCODE: the data register reads 0x40064547 (R479). -/
def execJtagIdcode (s : State) : Out := .next (jtagLoad .idcode false s)

/-- JTAG_SAMPLE_PRELOAD: the boundary cells are loaded. -/
def execJtagSamplePreload (cells : List Bool) (s : State) : Out :=
  let s := jtagLoad .sample false s
  .next (if s.thermal.shut then s else { s with jtag := { s.jtag with cells := cells } })

/-- JTAG_EXTEST. -/
def execJtagExtest (s : State) : Out := .next (jtagLoad .extest true s)

/-- JTAG_EXTEST_PULSE. -/
def execJtagExtestPulse (s : State) : Out := .next (jtagLoad .extestPulse true s)

/-- JTAG_EXTEST_TRAIN. -/
def execJtagExtestTrain (s : State) : Out := .next (jtagLoad .extestTrain true s)

/-- JTAG_CLAMP. -/
def execJtagClamp (s : State) : Out := .next (jtagLoad .clamp true s)

/-- JTAG_HIGHZ. -/
def execJtagHighz (s : State) : Out := .next (jtagLoad .highz true s)

/-- JTAG_TRST: the port is reset; IDCODE is loaded, as IEEE 1149.1 has it. -/
def execJtagTrst (s : State) : Out :=
  .next (if s.thermal.shut then s else { s with jtag := { ({} : Jtag) with dr := 0x40064547 } })

end Sys2Proof.Machine
end

