-- ==== Sys2Proof/Machine/LandRows.lean ====
section
/-! DEFINITION. Rails, reset lands and reference clocks (R485-R492). -/

namespace Sys2Proof.Machine

open Sys2Proof

/-- POWER_DOWN: RST_N or PWR_OK goes low before the rails fall: HBM in reset and lands released within 10 µs (R487) (DESIGN CHOICE, log entry 60). -/
def execPowerDown (s : State) : Out :=
  let s := s.advance (s.now + usec 10)
  let l := { s.lands with rstN := false, hbmReset := true, driven := false }
  if s.thermal.shut then .next { s with lands := l } else .next (coldState { s with lands := l })

/-- VIN_CORE_DIP: VIN_CORE below 1.55 V for over 1 µs acts as RST_N asserted (R488) (DESIGN CHOICE, log entry 60). -/
def execVinCoreDip (s : State) : Out :=
  let s := s.advance (s.now + usec 1)
  let l := { s.lands with vinDip := true }
  if s.thermal.shut then .next { s with lands := l } else .next (coldState { s with lands := l })

/-- THERMTRIP_CLEAR: VIN_CORE has been below 0.30 V for 10 ms: the shutdown latch clears, and VIN_CORE is removed
(R490, R391) (DESIGN CHOICE, log entry 60). -/
def execThermtripClear (s : State) : Out :=
  let s := s.advance (s.now + msec 10)
  .next (coldState { s with lands := { s.lands with vinOk := false }, thermal := { s.thermal with shut := false } })


/-- SERDES_REFCLK_LOSS: every link is lost, and the timebase runs on an internal oscillator, within 200 parts per
million at a rate that is left open (R492) (DESIGN CHOICE, log entry 87). -/
def execSerdesRefclkLoss (s : State) : Out :=
  let s := { s with lands := { s.lands with intOsc := true } }
  let (v, s) := s.draw 9
  let s := { s with tsync := { s.tsync with osc := ((v.toNat % 401 : Nat) : Int) - 200 } }
  if s.down then .next s else
  let s := clkLost F.GCTL_CLK_STAT.SRDS_LOST F.GCTL_CLK_STAT.SRDS_SEEN true s
  .next (forEach (List.range 32) (fun l s =>
    if (s.link l).state == .disabled || (s.link l).state == .down then s else linkLeave l .down true s) s)

/-- SERDES_REFCLK_RETURN: the timebase takes the clock back without a step (R492). -/
def execSerdesRefclkReturn (s : State) : Out :=
  let s := { s with lands := { s.lands with intOsc := false }, tsync := { s.tsync with osc := 0 } }
  .next (if s.down then s else clkLost F.GCTL_CLK_STAT.SRDS_LOST F.GCTL_CLK_STAT.SRDS_SEEN false s)

/-- PCIE_REFCLK_LOSS: the PCIe link goes down (R492, R460). -/
def execPcieRefclkLoss (s : State) : Out :=
  let s := { s with lands := { s.lands with pcieLost := true } }
  if s.down then .next s
  else
    let s := clkLost F.GCTL_CLK_STAT.PCIE_LOST F.GCTL_CLK_STAT.PCIE_SEEN true (endpointReset s)
    .next { s with pcie := { s.pcie with up := false } }

/-- PCIE_REFCLK_RETURN: the PCIe link can come up again. -/
def execPcieRefclkReturn (s : State) : Out :=
  let s := { s with lands := { s.lands with pcieLost := false } }
  if s.down then .next s
  else
    let s := clkLost F.GCTL_CLK_STAT.PCIE_LOST F.GCTL_CLK_STAT.PCIE_SEEN false s
    .next { s with pcie := { s.pcie with up := true } }

end Sys2Proof.Machine
end

