-- ==== Sys2Proof/Machine/Vector.lean ====
section
/-! DEFINITION. The V-class instructions (Table 4-9, R108, R115-R119, R160-R170). -/

namespace Sys2Proof.Machine

open Sys2Proof

/-! ### Forms -/

/-- TYPE, FMT, AUX and RND of a V-class MOD (R108). -/
def modType (f : RegForm) : Nat := bitsOf f.mod.toNat 20 2

def modFmt (f : RegForm) : Nat := bitsOf f.mod.toNat 16 4

def modAux (f : RegForm) : Nat := bitsOf f.mod.toNat 13 3

def modRnd (f : RegForm) : Nat := bitsOf f.mod.toNat 11 2

/-- The form of a V-class instruction with `n` sources: its TYPE among `types`, unused sources
fixed, FMT, AUX and RND as `fmt`, `aux` and `rnd` allow, MOD [10:0] zero (R101, R108). -/
def vForm (n : Nat) (types : List Nat) (f : RegForm) (fmt aux rnd : Nat → Bool) : Bool :=
  srcFixed n f && types.contains (modType f) && fmt (modFmt f) && aux (modAux f) && rnd (modRnd f) &&
    bitsOf f.mod.toNat 0 11 == 0

/-- A field that must be zero. -/
def zeroOnly (x : Nat) : Bool := x == 0

/-- The threads an instruction acts in (R97). -/
def State.active (s : State) (g : Gid) (f : RegForm) : Word64 := (s.slot (gi g) g.g).guard f.pred f.pneg

/-- A V-class instruction that pushes `res a b c` in each active thread. -/
def vecQ (op n : Nat) (types : List Nat) (fl : List Bool) (g : Gid) (f : RegForm)
    (res : Word32 → Word32 → Word32 → Word32) (s : State) : Out :=
  issue g (encReg 0 op f)
    (fun _ => vForm n types f zeroOnly zeroOnly zeroOnly && dstQ f.dst)
    (usedSrcs n f) fl (fun x => x.guard f.pred f.pneg) (fun x => x.guard f.pred f.pneg) (some f.dst.toNat)
    (fun rd s => pushQ (gi g) g.g (s.active g f) f.dst.toNat (fun t => res (rd 0 t) (rd 1 t) (rd 2 t)) s) s

/-- A V-class compare: bit t of the destination predicate takes the condition in active threads
(R118). `top` is the greatest condition code permitted (Table 4-8). -/
def vecP (op : Nat) (types : List Nat) (fl : List Bool) (top : Nat) (g : Gid) (f : RegForm)
    (res : Word32 → Word32 → Bool) (s : State) : Out :=
  issue g (encReg 0 op f)
    (fun _ => vForm 2 types f zeroOnly (fun a => decide (a ≤ top)) zeroOnly && dstP f.dst)
    (usedSrcs 2 f) fl (fun x => x.guard f.pred f.pneg) (fun x => x.guard f.pred f.pneg) none
    (fun rd s =>
      updSlot (gi g) g.g (fun x =>
        let n := f.dst.toNat % 8
        x.setPred n (maskUpdate (x.predMask n) (x.guard f.pred f.pneg) fun t => res (rd 0 t) (rd 1 t))) s) s

/-- Types I32 and U32; F32. -/
def intTypes : List Nat := [0, 1]

def floatType : List Nat := [2]

/-- Is TYPE I32? -/
def typeSigned (f : RegForm) : Bool := modType f == 0

/-! ### Moves and logic -/

def execMov (g : Gid) (f : RegForm) (s : State) : Out := vecQ 0x00 1 [0] [] g f (fun a _ _ => a) s

/-- SELP: bit t of P[AUX] chooses a or b (R108). -/
def execSelp (g : Gid) (f : RegForm) (s : State) : Out :=
  issue g (encReg 0 0x01 f)
    (fun _ => vForm 2 [0] f zeroOnly (fun _ => true) zeroOnly && dstQ f.dst)
    (usedSrcs 2 f) [] (fun x => x.guard f.pred f.pneg) (fun x => x.guard f.pred f.pneg) (some f.dst.toNat)
    (fun rd s =>
      let m := (s.slot (gi g) g.g).predMask (modAux f)
      pushQ (gi g) g.g (s.active g f) f.dst.toNat (fun t => if m.getLsbD t then rd 0 t else rd 1 t) s) s

def execAnd (g : Gid) (f : RegForm) (s : State) : Out := vecQ 0x02 2 [0] [] g f (fun a b _ => a &&& b) s

def execOr (g : Gid) (f : RegForm) (s : State) : Out := vecQ 0x03 2 [0] [] g f (fun a b _ => a ||| b) s

def execXor (g : Gid) (f : RegForm) (s : State) : Out := vecQ 0x04 2 [0] [] g f (fun a b _ => a ^^^ b) s

def execAndn (g : Gid) (f : RegForm) (s : State) : Out := vecQ 0x05 2 [0] [] g f (fun a b _ => a &&& ~~~b) s

/-! ### Shifts and counts -/

def execShl (g : Gid) (f : RegForm) (s : State) : Out :=
  vecQ 0x06 2 [0] [] g f (fun a b _ => a <<< (b.toNat % 32)) s

def execShr (g : Gid) (f : RegForm) (s : State) : Out :=
  vecQ 0x07 2 [0] [] g f (fun a b _ => a >>> (b.toNat % 32)) s

def execSar (g : Gid) (f : RegForm) (s : State) : Out :=
  vecQ 0x08 2 [0] [] g f (fun a b _ => a.sshiftRight (b.toNat % 32)) s

/-- Leading zeros of a 32-bit value. -/
def clz32 (a : Word32) : Word32 := if a = 0 then 32 else BitVec.ofNat 32 (31 - floorLog2 a.toNat)

def execClz (g : Gid) (f : RegForm) (s : State) : Out := vecQ 0x09 1 [0] [] g f (fun a _ _ => clz32 a) s

/-- One bits of a 32-bit value. -/
def popc32 (a : Word32) : Word32 := BitVec.ofNat 32 ((List.range 32).countP fun i => a.getLsbD i)

def execPopc (g : Gid) (f : RegForm) (s : State) : Out := vecQ 0x0A 1 [0] [] g f (fun a _ _ => popc32 a) s

/-! ### Integers -/

def execIadd (g : Gid) (f : RegForm) (s : State) : Out := vecQ 0x10 2 intTypes [] g f (fun a b _ => a + b) s

def execIsub (g : Gid) (f : RegForm) (s : State) : Out := vecQ 0x11 2 intTypes [] g f (fun a b _ => a - b) s

def execImin (g : Gid) (f : RegForm) (s : State) : Out :=
  vecQ 0x12 2 intTypes [] g f
    (fun a b _ => if typeSigned f then (if a.toInt ≤ b.toInt then a else b) else if a ≤ b then a else b) s

def execImax (g : Gid) (f : RegForm) (s : State) : Out :=
  vecQ 0x13 2 intTypes [] g f
    (fun a b _ => if typeSigned f then (if a.toInt ≤ b.toInt then b else a) else if a ≤ b then b else a) s

def execIcmp (g : Gid) (f : RegForm) (s : State) : Out :=
  vecP 0x14 intTypes [] 5 g f (fun a b => intCond 32 (modAux f) (typeSigned f) a.toNat b.toNat) s

def execImul (g : Gid) (f : RegForm) (s : State) : Out := vecQ 0x18 2 intTypes [] g f (fun a b _ => a * b) s

/-- The high half of the product (R117). -/
def mulHigh (signed : Bool) (a b : Word32) : Word32 :=
  if signed then BitVec.ofInt 32 (a.toInt * b.toInt / 2 ^ 32) else BitVec.ofNat 32 (a.toNat * b.toNat / 2 ^ 32)

def execImulh (g : Gid) (f : RegForm) (s : State) : Out :=
  vecQ 0x19 2 intTypes [] g f (fun a b _ => mulHigh (typeSigned f) a b) s

def execImad (g : Gid) (f : RegForm) (s : State) : Out :=
  vecQ 0x1A 3 intTypes [] g f (fun a b c => a * b + c) s

/-! ### binary32 -/

def execFadd (g : Gid) (f : RegForm) (s : State) : Out :=
  vecQ 0x20 2 floatType [true, true] g f (fun a b _ => fadd a b) s

def execFsub (g : Gid) (f : RegForm) (s : State) : Out :=
  vecQ 0x21 2 floatType [true, true] g f (fun a b _ => fsub a b) s

def execFmul (g : Gid) (f : RegForm) (s : State) : Out :=
  vecQ 0x22 2 floatType [true, true] g f (fun a b _ => fmul a b) s

def execFma (g : Gid) (f : RegForm) (s : State) : Out :=
  vecQ 0x23 3 floatType [true, true, true] g f (fun a b c => fma a b c) s

def execFmin (g : Gid) (f : RegForm) (s : State) : Out :=
  vecQ 0x24 2 floatType [true, true] g f (fun a b _ => fmin a b) s

def execFmax (g : Gid) (f : RegForm) (s : State) : Out :=
  vecQ 0x25 2 floatType [true, true] g f (fun a b _ => fmax a b) s

def execFcmp (g : Gid) (f : RegForm) (s : State) : Out :=
  vecP 0x26 floatType [true, true] 6 g f (fun a b => floatCond (modAux f) (fcompare a b)) s

def execFabs (g : Gid) (f : RegForm) (s : State) : Out :=
  vecQ 0x27 1 floatType [true] g f (fun a _ _ => fabs a) s

def execFneg (g : Gid) (f : RegForm) (s : State) : Out :=
  vecQ 0x28 1 floatType [true] g f (fun a _ _ => fneg a) s

def execFscale (g : Gid) (f : RegForm) (s : State) : Out :=
  vecQ 0x29 2 floatType [true, false] g f (fun a b _ => fscale a b) s

def execFrcp (g : Gid) (f : RegForm) (s : State) : Out :=
  vecQ 0x30 1 floatType [true] g f (fun a _ _ => frcp a) s

def execFrsq (g : Gid) (f : RegForm) (s : State) : Out :=
  vecQ 0x31 1 floatType [true] g f (fun a _ _ => frsq a) s

def execFsqrt (g : Gid) (f : RegForm) (s : State) : Out :=
  vecQ 0x32 1 floatType [true] g f (fun a _ _ => fsqrt a) s

def execFexp2 (g : Gid) (f : RegForm) (s : State) : Out :=
  vecQ 0x33 1 floatType [true] g f (fun a _ _ => fexp2 a) s

def execFlog2 (g : Gid) (f : RegForm) (s : State) : Out :=
  vecQ 0x34 1 floatType [true] g f (fun a _ _ => flog2 a) s

/-! ### Conversions -/

/-- FMT and AUX of CVTN and CVTW: a short or long format with that element (R119). -/
def elemOk (f : RegForm) : Bool := modFmt f != 0 && decide (modAux f < fmtElems (modFmt f))

/-- Element AUX of word `w` in format FMT. -/
def elemOf (f : RegForm) (w : Word32) : Nat :=
  bitsOf w.toNat (fmtStride (modFmt f) * modAux f) (fmtBits (modFmt f))

/-- Word `w` with element AUX replaced by code `c`; the two spare bits of a ZF6 element are written
zero (Table 4-6). -/
def putElem (f : RegForm) (w : Word32) (c : Nat) : Word32 :=
  BitVec.ofNat 32 (putBits w.toNat (fmtStride (modFmt f) * modAux f) (fmtStride (modFmt f)) c)

/-- Does this CVTN round stochastically (R169)? -/
def State.srUsed (s : State) (f : RegForm) : Bool := modRnd f == 1 && s.modeBit F.GCTL_MODE.SR_EN

/-- CVTN (R119, R160-R170). -/
def execCvtn (g : Gid) (f : RegForm) (s : State) : Out :=
  issue g (encReg 0 0x40 f)
    (fun s => vForm 2 [0] f (fun _ => true) (fun _ => true) (fun r => decide (r < 3)) && elemOk f && dstQ f.dst &&
      !(s.srUsed f && s.exact && !(s.slot (gi g) g.g).seeded))
    (usedSrcs 2 f) [true, false] (fun x => x.guard f.pred f.pneg) (fun x => x.guard f.pred f.pneg)
    (some f.dst.toNat)
    (fun rd s =>
      let i := gi g
      let act := s.active g f
      let sr := s.srUsed f
      let draws := srDraws 64 (s.slot i g.g).sr
      let rnd (t : Nat) : Rnd :=
        if sr then .sr (draws.getD t 0) else if modRnd f = 2 then .rtz else .rne
      let res (t : Nat) : Nat × Bool := narrow (modFmt f) (s.modeBit F.GCTL_MODE.OVF) (rnd t) (rd 0 t)
      let n := (List.range 64).countP fun t => act.getLsbD t && (res t).2
      let s := if n = 0 then s else s.count (Reg.CORE_CNT_OVF g.s g.c) n
      let s := if sr then updSlot i g.g (fun x => { x with sr := srAdvance 64 x.sr }) s else s
      pushQ i g.g act f.dst.toNat (fun t => putElem f (rd 1 t) (res t).1) s) s

/-- CVTW (R119, R159). -/
def execCvtw (g : Gid) (f : RegForm) (s : State) : Out :=
  issue g (encReg 0 0x41 f)
    (fun _ => vForm 1 [0] f (fun _ => true) (fun _ => true) zeroOnly && elemOk f && dstQ f.dst)
    (usedSrcs 1 f) [] (fun x => x.guard f.pred f.pneg) (fun x => x.guard f.pred f.pneg) (some f.dst.toNat)
    (fun rd s => pushQ (gi g) g.g (s.active g f) f.dst.toNat
      (fun t => widen (modFmt f) (elemOf f (rd 0 t))) s) s

/-- CVTFI: RND 0b00 or 0b10 only (R119). -/
def execCvtfi (g : Gid) (f : RegForm) (s : State) : Out :=
  issue g (encReg 0 0x42 f)
    (fun _ => vForm 1 intTypes f zeroOnly zeroOnly (fun r => r == 0 || r == 2) && dstQ f.dst)
    (usedSrcs 1 f) [true] (fun x => x.guard f.pred f.pneg) (fun x => x.guard f.pred f.pneg) (some f.dst.toNat)
    (fun rd s => pushQ (gi g) g.g (s.active g f) f.dst.toNat
      (fun t => cvtfi (typeSigned f) (modRnd f == 2) (rd 0 t)) s) s

def execCvtif (g : Gid) (f : RegForm) (s : State) : Out :=
  vecQ 0x43 1 intTypes [] g f (fun a _ _ => cvtif (typeSigned f) a) s

end Sys2Proof.Machine
end

