-- ==== Sys2Proof/Machine/MemInstr.lean ====
section
/-! DEFINITION. The M-class instructions (Table 4-12, R111, R125-R130) and the return of a load (R72, R127). -/

namespace Sys2Proof.Machine

open Sys2Proof

/-! ### Forms (R111) -/

def memClass (f : RegForm) : Nat := bitsOf f.mod.toNat 19 3

/-- Access size in bytes. -/
def memSize (f : RegForm) : Nat := 2 ^ bitsOf f.mod.toNat 17 2

def memSx (f : RegForm) : Bool := bitOf f.mod.toNat 16

def memLast (f : RegForm) : Bool := bitOf f.mod.toNat 15

def memDisp (f : RegForm) : Int := signedOf 15 f.mod.toNat

/-- The form of an M-class instruction with `n` sources (Table 4-4, R101, R103, R111): a scalar base, a permitted SIZE,
SX and LAST zero where the opcode does not use them, and a queue destination or none (DEDUCED, log entry 18). -/
def memForm (n : Nat) (push sx last : Bool) (f : RegForm) : Bool :=
  srcFixed n f && srcMode f.a == 2 && decide (memSize f ≤ 4) && (sx || !memSx f) && (last || !memLast f) &&
    (if push then dstQ f.dst else dstNone f.dst)

/-- Requests of an earlier quarter wait for a miss register, and the MU stays occupied (R224 step 3). -/
def State.memBusy (s : State) (i : Nat) : Bool := !(s.core i).l1.waiting.isEmpty

/-! ### Addresses and checks (R125, R126) -/

/-- The address of a thread (R125). -/
def memAddr (base : Word64) (off : Word32) (disp : Int) : Nat :=
  (base + BitVec.signExtend 64 off + BitVec.ofInt 64 disp).toNat

/-- The active threads of slot g with their addresses, ascending. -/
def memLanes (g : Gid) (f : RegForm) (off : Nat → Word32) (s : State) : List LoadLane :=
  let base := srcVal64 (s.slot (gi g) g.g) f.a
  let act := s.active g f
  ((List.range 64).filter fun t => act.getLsbD t).map fun t =>
    { thread := t, addr := memAddr base (off t) (memDisp f) }

/-- The first check of R126 that address `a` fails: the cause, and the KIND GCTL_DECODE_ERR records. -/
def laneCheck (s : State) (i size : Nat) (atomic : Bool) (a : Nat) : Option (Cause × Option Nat) :=
  if a % size ≠ 0 then some (.access, none)
  else
    match decodeGroup s (i / 16) a with
    | .err k => some (if k = 5 then .regionRetired else .access, some k)
    | .ok (.scratch _ _ _) => none
    | .ok _ => if atomic then some (.access, none) else none

/-- The trap of an instruction whose threads `ls` fail a check; none where every thread passes (R126). -/
def laneTrap (g : Gid) (size : Nat) (atomic : Bool) (ls : List LoadLane) (s : State) : Option State :=
  let i := gi g
  let fails := ls.filterMap fun y => (laneCheck s i size atomic y.addr).map fun e => (y, e)
  match fails with
  | [] => none
  | (y, e) :: _ =>
    let s := match fails.findSome? fun x => x.2.2.map fun k => (x.1.addr, k) with
      | some (a, k) => decodeErr { master := 0, stack := i / 16, core := i % 16 } (a % 2 ^ 40) k s
      | none => s
    some (trap i g.g y.thread e.1 (s.slot i g.g).pc s)

/-- Where the lanes of an instruction that passed every check go (R210): the local array or own slab of Table 7-1;
another core's scratch; a register of the own stack; or a line that passes the L1. -/
inductive Way where
  | sram
  | far
  | reg (off : Nat)
  | line (l : Nat)
  deriving DecidableEq, Repr

def wayOf (s : State) (i f : Nat) : Way :=
  match decodeGroup s (i / 16) f with
  | .ok (.scratch k c _) => if 16 * k + c = i then .sram else .far
  | .ok (.reg off) => .reg off
  | .ok (.slab k c _) => if 16 * k + c = i then .sram else .line (f % 2 ^ 40 / 128)
  | _ => .line (f % 2 ^ 40 / 128)

/-- The lanes of quarter q, with local addresses. -/
def quarter (q : Nat) (ls : List LoadLane) : List LoadLane :=
  (ls.filter fun y => y.thread / 16 == q).map fun y => { y with addr := y.addr % 2 ^ 40 }

/-- The lanes of `ls` that go to line `l`. -/
def lanesOn (s : State) (i l : Nat) (ls : List LoadLane) : List LoadLane :=
  ls.filter fun y => wayOf s i y.addr == .line l

/-- The lines lanes go to, in thread order. -/
def linesOf (s : State) (i : Nat) (ls : List LoadLane) : List Nat :=
  (ls.filterMap fun y => match wayOf s i y.addr with | .line l => some l | _ => none).dedup

/-- Apply `f` to each quarter. -/
def quarters (ls : List LoadLane) (f : Nat → List LoadLane → State → State) (s : State) : State :=
  forEach [0, 1, 2, 3] (fun q s => f q (quarter q ls) s) s

/-! ### Loads -/

/-- Enter a load into the loads in flight and reserve its queue entries (R72). -/
def startLoad (g : Gid) (f : RegForm) (ls : List LoadLane) (s : State) : Nat × State :=
  let i := gi g
  let id := (s.core i).nextLoad
  let ld : Load := { id := id, slot := g.g.val, pc := (s.slot i g.g).pc, queue := f.dst.toNat, size := memSize f,
                     sx := memSx f, aclass := memClass f, last := memLast f,
                     lanes := ls.map fun y => { y with addr := y.addr % 2 ^ 40 } }
  let s := updCore i (fun c => { c with loads := c.loads ++ [ld], nextLoad := id + 1 }) s
  (id, reserveQ i g.g (s.active g f) f.dst.toNat id s)

/-- A value at its place in an aligned 64-bit word. -/
def placed (a : Nat) (bs : List Byte) : Word64 := BitVec.ofNat 64 (leNat bs * 2 ^ (8 * (a % 8)))

/-- Lanes that have their data already take the miss register of their request, one for each line, which they hold
until the load returns (R224). -/
def holdMiss (i id ac : Nat) (ls : List LoadLane) (s : State) : State :=
  forEach ((ls.map fun y => y.addr / 128).dedup) (fun l s =>
    missRequest i { line := l, aclass := ac, fill := false,
                    waiter := .lanes id ((ls.filter fun y => y.addr / 128 == l).map (·.thread)) } s) s

/-- One quarter of a load (R130, R210, R224) (DEDUCED, log entry 57). -/
def loadQuarter (i id ac size : Nat) (ls : List LoadLane) (s : State) : State :=
  let far := ls.filter fun y => wayOf s i y.addr == .far
  let direct := (ls.filter fun y => wayOf s i y.addr == .sram) ++ far
  let regs := ls.filter fun y => match wayOf s i y.addr with | .reg _ => true | _ => false
  let s := forEach ((direct.map fun y => y.addr / 128).dedup) (fun l s =>
    bwrSram (sramStack (l * 128)) (missMaster i) (size * (direct.filter fun y => y.addr / 128 == l).length) none s) s
  let s := forEach direct (fun y s =>
    let w := y.addr / 8
    let s := flushWord w s
    deliver i id [y.thread] (fun _ => [{ word := s.wordAt w, dev := s.devAt w, at_ := w, src := 1 }]) s) s
  let s := forEach ls (fun y s =>
    match wayOf s i y.addr with
    | .reg off =>
      let (r, s) := readAccess .group (i % 16) off size s
      deliver i id [y.thread] (fun a => [{ word := placed a (r.getD []) }]) s
    | _ => s) s
  let s := holdMiss i id ac (far ++ regs) s
  forEach (linesOf s i ls) (fun l s => l1LoadLanes i ac id size l (lanesOn s i l ls) s) s

/-- The effect of an LD that passed every check: its load is in flight, its queue entries are reserved, each quarter has
asked for its lanes, and with LAST or class ONCE the lines are marked once their requests are under way (R72, R130,
R210, R224). -/
def loadEffect (g : Gid) (f : RegForm) (ls : List LoadLane) (s : State) : State :=
  let i := gi g
  let (id, s) := startLoad g f ls s
  let lines := linesOf s i (ls.map fun y => { y with addr := y.addr % 2 ^ 40 })
  let s := quarters ls (fun _ q s => loadQuarter i id (memClass f) (memSize f) q s) s
  if memLast f || memClass f == 5 then lanesMark i (lines.map fun l => (id, l, memClass f)) s else s

/-- LD (R125, R126, R130). -/
def execLd (g : Gid) (f : RegForm) (s : State) : Out :=
  issue g (encReg 2 0x00 f) (fun _ => memForm 2 true true true f) (usedSrcs 2 f) []
    (fun x => x.guard f.pred f.pneg) (fun x => x.guard f.pred f.pneg) (some f.dst.toNat)
    (fun rd s =>
      let ls := memLanes g f (rd 1) s
      match laneTrap g (memSize f) false ls s with
      | some t => t
      | none => loadEffect g f ls s) s
    (busy := fun s => s.memBusy (gi g))

/-! ### Stores -/

/-- The bytes a quarter stores: of threads that name one byte the highest stands (R233). -/
def storeBytes (size : Nat) (data : Nat → Word32) (ls : List LoadLane) : StoreBytes :=
  ls.foldl (fun m y =>
    (leBytes size (data y.thread).toNat).zipIdx.foldl (fun m b => sput m (y.addr + b.2) b.1) m) []

/-- One quarter of a store; `later` are the lanes of the quarters after it, which leave LAST to the last of them
that stores to a line (R130, R219, R224). A register access gives its miss register back at once; another core's
scratch is no cached target, as of class 7 (DEDUCED, log entry 21, DEDUCED, log entry 57). -/
def storeQuarter (i slot ac size : Nat) (last : Bool) (data : Nat → Word32) (later ls : List LoadLane) (s : State) :
    State :=
  let direct := storeBytes size data (ls.filter fun y => wayOf s i y.addr == .sram)
  let far := storeBytes size data (ls.filter fun y => wayOf s i y.addr == .far)
  let s := forEach (blocksOf direct 128) (fun l s =>
    sramStore { master := missMaster i } ((bytesIn direct (l * 128) 128).map fun e => (l * 128 + e.1, e.2)) s) s
  let s := forEach (blocksOf far 128) (fun l s =>
    missRequest i { line := l, aclass := 7, fill := false,
                    waiter := .store slot ((bytesIn far (l * 128) 128).map fun e => (l * 128 + e.1, e.2)) 7 false } s) s
  let s := forEach ls (fun y s =>
    match wayOf s i y.addr with
    | .reg off => (writeAccess .group off (leBytes size (data y.thread).toNat) s).2
    | _ => s) s
  let after := linesOf s i later
  forEach (linesOf s i ls) (fun l s =>
    let bs := storeBytes size data (lanesOn s i l ls)
    l1Store i slot ac (last && !after.contains l) l (bytesIn bs (l * 128) 128) s) s

/-- The effect of an ST that passed every check: each quarter stores its threads' bytes (R126, R130). -/
def storeEffect (g : Gid) (f : RegForm) (data : Nat → Word32) (ls : List LoadLane) (s : State) : State :=
  quarters ls (fun q part s =>
    let later := (ls.filter fun y => decide (q < y.thread / 16)).map fun y => { y with addr := y.addr % 2 ^ 40 }
    storeQuarter (gi g) g.g (memClass f) (memSize f) (memLast f) data later part s) s

/-- ST (R126, R130). -/
def execSt (g : Gid) (f : RegForm) (s : State) : Out :=
  issue g (encReg 2 0x01 f) (fun _ => memForm 3 false false true f) (usedSrcs 3 f) []
    (fun x => x.guard f.pred f.pneg) (fun x => x.guard f.pred f.pneg) none
    (fun rd s =>
      let ls := memLanes g f (rd 1) s
      match laneTrap g (memSize f) false ls s with
      | some t => t
      | none => storeEffect g f (rd 2) ls s) s
    (busy := fun s => s.memBusy (gi g))

/-! ### Prefetch and dead-block marks (R128) -/

/-- The lanes of PF or DBM whose addresses pass every check, with local addresses. -/
def hintLanes (g : Gid) (f : RegForm) (off : Nat → Word32) (s : State) : List LoadLane :=
  ((memLanes g f off s).filter fun y => (laneCheck s (gi g) (memSize f) false y.addr).isNone).map fun y =>
    { y with addr := y.addr % 2 ^ 40 }

/-- Prefetch line `l` into the L1 where the class allocates there, else into the stack L2 where it allocates there;
a line already there or being fetched, or no free register, drops it (R128, R224 step 4) (DEDUCED, log entry 19). -/
def prefetch (i ac l : Nat) (s : State) : State :=
  let k := i / 16
  let full := ((s.l1Held i l).map fun x => x.has 0 128).getD false
  let s := l1Count i ac full s
  let c := (s.core i).l1
  if full || (s.l1Filling i l).isSome || 32 ≤ c.miss.length then s
  else
    let id := c.nextMiss
    let take (fill : Bool) : State → State := updL1 i (fun c => { c with
      miss := c.miss ++ [{ id := id, line := l, aclass := ac, fill := fill, waiters := [] }], nextMiss := id + 1 })
    if classL1 ac && s.l1Sets i != 0 then
      let (ready, s) := fillSource i ac l id (take true s)
      updL1 i (fun c => { c with miss := c.miss.map fun x => if x.id = id then { x with ready := ready } else x }) s
    else
      match decode s (l * 128) with
      | .ok .dram =>
        let held := ((s.l2Held k l).map fun x => x.has 0 128).getD false
        let s := l2Count k ac held s
        if held then l2Touch k l s
        else if s.l2Fetching k l || !s.l2Allocs k ac l then s
        else l2Request k ac l (.l1 i id) (take false s)
      | _ => s

/-- Each quarter prefetches the lines of its threads (R128). -/
def prefetchEffect (i : Nat) (f : RegForm) (ls : List LoadLane) (s : State) : State :=
  quarters ls (fun _ q s => forEach (linesOf s i q) (prefetch i (memClass f)) s) s

/-- PF (R128). -/
def execPf (g : Gid) (f : RegForm) (s : State) : Out :=
  issue g (encReg 2 0x02 f) (fun _ => memForm 2 false false false f) (usedSrcs 2 f) []
    (fun x => x.guard f.pred f.pneg) (fun x => x.guard f.pred f.pneg) none
    (fun rd s => prefetchEffect (gi g) f (hintLanes g f (rd 1) s) s) s
    (busy := fun s => s.memBusy (gi g))

/-- A DBM looks up each level its class allocates at, and is neither a load nor a store that hits (R226, R240)
(DEDUCED, log entry 19). -/
def dbmCount (i ac l : Nat) (s : State) : State :=
  let s := if classL1 ac then l1Count i ac false s else s
  if classL2 ac && decide (l * 128 < 0x6000000000) then l2Count (i / 16) ac false s else s

/-- Every line the threads name is looked up and marked dead (R128, R226). -/
def markEffect (i : Nat) (f : RegForm) (ls : List LoadLane) (s : State) : State :=
  let s := quarters ls (fun _ q s => forEach (linesOf s i q) (dbmCount i (memClass f)) s) s
  forEach (linesOf s i ls) (fun l s => deadMark i (memClass f) (l * 128) s) s

/-- DBM (R128, R226) (DEDUCED, log entry 19). -/
def execDbm (g : Gid) (f : RegForm) (s : State) : Out :=
  issue g (encReg 2 0x03 f) (fun _ => memForm 2 false false false f) (usedSrcs 2 f) []
    (fun x => x.guard f.pred f.pneg) (fun x => x.guard f.pred f.pneg) none
    (fun rd s => markEffect (gi g) f (hintLanes g f (rd 1) s) s) s
    (busy := fun s => s.memBusy (gi g))

/-! ### Atomics (R129) -/

/-- The 32-bit half of an aligned word that address `a` names. -/
def halfOf (a : Nat) (v : Word64) : Word32 := BitVec.ofNat 32 (v.toNat / 2 ^ (8 * (a % 8)))

/-- One thread's update of its word: the old value goes to its lane; an unreadable word is left as it is (DEDUCED, log entry 23). -/
def atomicLane (i id : Nat) (op : Word32 → Word32 → Word32) (data : Nat → Word32) (y : LoadLane) (s : State) : State :=
  let a := y.addr % 2 ^ 40
  let w := a / 8
  let (v, bad, s) := judgeWord 0 { master := missMaster i } w (s.wordAt w) (s.devAt w) s
  let s := deliver i id [y.thread] (fun _ => [{ word := v, bad := bad }]) s
  if bad then s
  else
    let n := op (halfOf a v) (data y.thread)
    let m : BitVec 8 := if a % 8 = 0 then 0x0F else 0xF0
    portWrite w (mergeWord v m (placed a (leBytes 4 n.toNat))) s

/-- The effect of an atomic that passed every check: its queue entries are reserved, and each quarter updates its words
in ascending thread order; a remote word holds a miss register until the load returns (R129, R224). -/
def atomicEffect (g : Gid) (f : RegForm) (upd : Word32 → Word32 → Word32) (data : Nat → Word32) (ls : List LoadLane)
    (s : State) : State :=
  let i := gi g
  let (id, s) := startLoad g f ls s
  quarters ls (fun _ q s =>
    let s := forEach ((q.map fun y => y.addr / 128).dedup) (fun l s =>
      bwrSram (sramStack (l * 128)) (missMaster i) (4 * (q.filter fun y => y.addr / 128 == l).length) none s) s
    holdMiss i id (memClass f) (q.filter fun y => wayOf s i y.addr == .far)
      (forEach q (atomicLane i id upd data) s)) s

/-- An atomic of opcode `op` with update `upd old data` (R129); `sx`: the opcode uses SX. -/
def atomic (op : Nat) (sx : Bool) (upd : Word32 → Word32 → Word32) (g : Gid) (f : RegForm) (s : State) : Out :=
  issue g (encReg 2 op f) (fun _ => memForm 3 true sx false f && memSize f == 4) (usedSrcs 3 f) []
    (fun x => x.guard f.pred f.pneg) (fun x => x.guard f.pred f.pneg) (some f.dst.toNat)
    (fun rd s =>
      let ls := memLanes g f (rd 1) s
      match laneTrap g 4 true ls s with
      | some t => t
      | none => atomicEffect g f upd (rd 2) ls s) s
    (busy := fun s => s.memBusy (gi g))

def execAadd (g : Gid) (f : RegForm) (s : State) : Out := atomic 0x04 false (fun o d => o + d) g f s

/-- AMAX: signed where SX is 1 (Table 4-12). -/
def execAmax (g : Gid) (f : RegForm) (s : State) : Out :=
  atomic 0x05 true (fun o d =>
    if (if memSx f then decide (o.toInt < d.toInt) else decide (o.toNat < d.toNat)) then d else o) g f s

def execAmin (g : Gid) (f : RegForm) (s : State) : Out :=
  atomic 0x06 true (fun o d =>
    if (if memSx f then decide (d.toInt < o.toInt) else decide (d.toNat < o.toNat)) then d else o) g f s

/-! ### The return of a load -/

/-- What the code finds in what a target gave to the lane at address `a` of core i, its bits that `up` names flipped
(R281, R287): the word, whether it is uncorrectable, and the state with the event logged. -/
def judgeFetched (up : Upsets) (i a : Nat) (x : Fetched) (s : State) : Word64 × Bool × State :=
  if x.bad then (x.word, true, s)
  else
    match x.src with
    | 1 => judgeWord (upAt up.sram x.at_) { master := missMaster i } x.at_ x.word x.dev s
    | 2 => judgeL1 (upAt ((up.l1.filter fun y => y.1 == i).map (·.2)) x.at_) false i a x.word x.dev s
    | 6 =>
      let more := ((up.dram.find? fun y => y.1 == x.at_).map (·.2)).getD []
      let (bs, bad, s) := judgeLine (x.syms ++ more) { master := missMaster i } (x.at_ * 64) (a % 64 / 8 * 8)
        (leBytes 8 x.word.toNat) x.dev.toNat s
      (BitVec.ofNat 64 (leNat bs), bad, s)
    | _ => (x.word, false, s)

/-- Judge every lane of a load, the pieces of its word farthest first, each nearer one over them; one word, or one
DRAM line, that a quarter read for several threads is one read (DEDUCED, log entry 20). A lane found uncorrectable
keeps the SRC of the piece that was. -/
def judgeLanes (up : Upsets) (i : Nat) (ls : List LoadLane) (s : State) : List LoadLane × State :=
  let piece (y : LoadLane) (acc : Fetched × List (Nat × Nat × Nat) × State) (x : Fetched) :
      Fetched × List (Nat × Nat × Nat) × State :=
    let (r, seen, s) := acc
    let key := (y.thread / 16, x.src, x.at_)
    let (v, bad, t) := judgeFetched up i y.addr x s
    ({ word := mergeWord r.word x.mask v, bad := r.bad || bad, src := if bad && !x.bad then x.src else r.src },
      key :: seen, if x.src != 0 && seen.contains key then s else t)
  let r := ls.foldl (fun (acc : List LoadLane × List (Nat × Nat × Nat) × State) y =>
    let (out, seen, s) := acc
    match y.got with
    | none => (out ++ [y], seen, s)
    | some xs =>
      let (v, seen, s) := xs.foldl (piece y) ({ word := 0 }, seen, s)
      (out ++ [{ y with got := some [v] }], seen, s)) ([], [], s)
  (r.1, r.2.2)

/-- Did the judged lane meet an uncorrectable word, and one of the L2 (R232)? -/
def LoadLane.bad (y : LoadLane) : Bool := (y.got.getD []).any (·.bad)

def LoadLane.badL2 (y : LoadLane) : Bool :=
  decide (y.addr < 0x6000000000) && (y.got.getD []).any fun x => x.bad && x.src == 1

/-- The word of a judged lane. -/
def LoadLane.word (y : LoadLane) : Word64 := ((y.got.getD []).head?.map (·.word)).getD 0

/-- The L2 lines of core i's stack in which a judged lane met an uncorrectable word (R232): a dirty one is written
poisoned, and every one is dropped; the clean ones are to be read again. -/
def l2Spoilt (i : Nat) (ls : List LoadLane) (s : State) : List Nat × State :=
  let k := i / 16
  (((ls.filter LoadLane.badL2).map fun y => y.addr / 128).dedup).foldl (fun (acc : List Nat × State) l =>
    let (again, s) := acc
    match s.l2Find k l with
    | none => (again ++ [l], s)
    | some (key, x) =>
      let s := updL2 k (fun c => { c with lines := sdel c.lines key }) s
      if x.dirty = 0 then (again ++ [l], s) else (again, poisonStore k (homeSlab l) x.dirtyBytes s)) ([], s)

/-- The value a load of `size` bytes at `a` takes from its word (R111). -/
def loadValue (size : Nat) (sx : Bool) (a : Nat) (v : Word64) : Word32 :=
  let n := bitsOf v.toNat (8 * (a % 8)) (8 * size)
  if sx then BitVec.ofInt 32 (signedOf (8 * size) n) else BitVec.ofNat 32 n

/-- The mask of the threads of `ls`. -/
def lanesMask (ls : List LoadLane) : Word64 := BitVec.ofNat 64 (ls.foldl (fun m y => m + 2 ^ y.thread) 0)

/-- The registers a load's requests hold are free, and it is no longer in flight (R224 step 5). -/
def endLoad (i id : Nat) (s : State) : State :=
  let own (m : MissReg) : Bool := !m.fill && !m.waiters.isEmpty && m.waiters.all fun w =>
    match w with | .lanes ld _ => ld == id | .store _ _ _ _ => false
  retryWaiting i (updCore i (fun c => { c with
    loads := c.loads.filter fun x => x.id != id,
    l1 := { c.l1 with miss := c.l1.miss.filter fun m => !own m } }) s)

/-- A load delivers (R72): its reserved entries become present, or it pushes its entry to a bound queue (DEDUCED, log entry 22). -/
def deliverLoad (i : Nat) (ld : Load) (ls : List LoadLane) (s : State) : State :=
  let val (t : Nat) : Word32 :=
    ((ls.find? fun y => y.thread == t).map fun y => loadValue ld.size ld.sx y.addr y.word).getD 0
  if s.boundOut i ld.slot ld.queue then pushQ i ld.slot (lanesMask ls) ld.queue val s
  else
    updSlot i ld.slot (fun x => x.mapQueue ld.queue (lanesMask ls) fun t es =>
      es.map fun e => if e = .reserved ld.id then .present (val t) else e) s

/-- Has load `ld` every lane's data, no request still waiting, and no earlier load to its queue in flight (R72)? -/
def Core.returns (c : Core) (ld : Load) : Bool :=
  (ld.lanes.all fun y => y.got.isSome) &&
    !(c.l1.waiting.any fun r => match r.waiter with | .lanes id _ => id == ld.id | .store _ _ _ _ => false) &&
    ((c.loads.find? fun x => x.slot == ld.slot && x.queue == ld.queue).map (·.id)) == some ld.id

/-- LOAD_RETURN (R72, R127): once every lane has its data and every earlier load to the same queue has returned (DEDUCED, log entry 20). -/
def execLoadReturn (c : Cid) (load : Nat) (u : Upsets) (s : State) : Out := ifUp s <|
  let i := ci c
  match (s.core i).loads.find? fun x => x.id == load with
  | none => .next s
  | some ld =>
    if !(s.core i).returns ld then .next s
    else
      let (ls, s) := judgeLanes u i ld.lanes (upset u s)
      let (again, s) := l2Spoilt i ls s
      let ls := ls.map fun y => if y.badL2 && again.contains (y.addr / 128) then { y with got := none } else y
      let lost := ls.filter fun y => y.got.isNone
      if !lost.isEmpty then
        let s := updCore i (fun c => { c with loads := c.loads.map fun x => if x.id = load then { x with lanes := ls } else x }) s
        .next (forEach ((lost.map fun y => y.addr / 128).dedup) (fun l s =>
          laneSource false i ld.aclass l load ((lost.filter fun y => y.addr / 128 == l).map (·.thread)) ls ld.size s) s)
      else
        match ls.find? LoadLane.bad with
        | some y =>
          let s := updSlot i ld.slot (fun x => x.mapQueue ld.queue (lanesMask ls) fun _ es =>
            es.filter fun e => e != .reserved load) s
          .next (endLoad i load (trap i ld.slot y.thread .access ld.pc s))
        | none => .next (endLoad i load (deliverLoad i ld ls s))

end Sys2Proof.Machine
end

