-- ==== Sys2Proof/Machine/MgmtRows.lean ====
section
/-! DEFINITION. Messages the service controller carries out (R431), received FAULT messages (R453) and the writing of the
repair record (R319) (DEDUCED, log entry 49). -/

namespace Sys2Proof.Machine

open Sys2Proof

/-! ### MGMT messages -/

/-- Take the oldest MGMT message with operation `op` from link l. A package outside the allow list draws NACK
REFUSED; an accepted message is acknowledged and carried out (R431). -/
def receiveMgmt (op : Nat) (f : Msg → State → State) (l : InLink) (s : State) : Out :=
  match s.inbox.find? fun e => e.1 == l.val && e.2.type == 0x17 && s.mine e.2 && e.2.bodyAt 32 1 == op with
  | none => .next s
  | some e => receive l 0x17 (fun m s =>
      match s.refuseReason m with
      | some r => sendNack l r m s
      | none => if s.boot.mgmtAllow.contains m.src then f m (sendAck l m s) else sendNack l 3 m s)
      { s with inbox := e :: s.inbox.erase e }


/-- MGMT_REG_READ: a 32-bit read at an offset, whose value goes back; a read that crosses a 4 KiB boundary has no value
of its own. -/
def execMgmtRegRead (l : InLink) (s : State) : Out := ifUp s <|
  receiveMgmt 1 (fun m s =>
    match readAccess .mgmt hostClaimer (m.bodyAt 36 4 % 2 ^ 26) 4 s with
    | (some bs, s) => mgmtReply m (leNat bs) s
    | (none, s) =>
      let (v, s) := s.draw 32
      mgmtReply m v.toNat s) l s

/-- MGMT_REG_WRITE: a 32-bit write at an offset. -/
def execMgmtRegWrite (l : InLink) (s : State) : Out := ifUp s <|
  receiveMgmt 2 (fun m s => (writeAccess .mgmt (m.bodyAt 36 4 % 2 ^ 26) (leBytes 4 (m.bodyAt 40 4)) s).2) l s

/-- MGMT_MB_CMD: up to 256 bytes go to the window, the value to ARG0, and the command runs; RESULT goes back, of a
command that goes on when it ends. -/
def execMgmtMbCmd (l : InLink) (s : State) : Out := ifUp s <|
  receiveMgmt 3 (fun m s =>
    if s.flag Reg.SVC_MB_STAT F.SVC_MB_STAT.BUSY then mgmtReply m (s.fld Reg.SVC_MB_STAT F.SVC_MB_STAT.RESULT) s
    else
      let s := setWindow (m.data.take 256) s
      let s := mailbox (m.bodyAt 36 4 % 256) (s.setReg (Reg.SVC_MB_ARGk 0) (BitVec.ofNat 32 (m.bodyAt 40 4)))
      if s.flag Reg.SVC_MB_STAT F.SVC_MB_STAT.BUSY then updBoot (fun b => { b with mbReply := some m }) s
      else mgmtReply m (s.fld Reg.SVC_MB_STAT F.SVC_MB_STAT.RESULT) s) l s

/-- MGMT_REPLY: the answer to a request; taken in and acknowledged. -/
def execMgmtReply (l : InLink) (s : State) : Out := ifUp s <| receiveMgmt 4 (fun _ s => s) l s

/-! ### FAULT messages (R453) -/

/-- FAULT: one report of the source to this concentrator; while this package is not in its own membership table no
reporter has an index (R450). -/
def execFault (l : InLink) (s : State) : Out := ifUp s <|
  receiveControl l 0x16 (fun m s =>
    report { subj := m.bodyAt 32 4, cls := m.bodyAt 36 1 % 64, detail := m.bodyAt 37 1,
             reporter := if s.selfIndex.isSome then s.memberIndex m.src else none, remote := true } s) s

/-! ### The repair record -/

/-- REPAIR_RECORD_WRITE: the record that is due goes to the flash; a failed read-back sets REC_FAIL and leaves a copy
whose CRC is left open (R319, Table 16-19). -/
def execRepairRecordWrite (readBackOk : Bool) (s : State) : Out := ifUp s <|
  match s.boot.recDue with
  | none => .next s
  | some _ =>
    let a := s.record.2
    let s := writeRecord s
    if readBackOk then .next s
    else
      let (v, s) := s.draw 32
      .next (svcEvt F.SVC_EVT.REC_FAIL (flashWrite (a + 32 + s.recordBody.length) (leBytes 4 v.toNat) s))

end Sys2Proof.Machine
end

