-- ==== Sys2Proof/Machine/RegRows.lean ====
section
/-! DEFINITION. The commands that write one register: each is the write of that register on its path, whose effect is
in RegWrite and Access. A command that sets one bit leaves the register's RW fields as they are. -/

namespace Sys2Proof.Machine

open Sys2Proof

/-- The RW fields of the register at `a`, as they stand, with `bits` set: the value of a write that triggers
`bits`. -/
def State.trigger (s : State) (a : Nat) (bits : Word32) : Word32 :=
  (s.reg a &&& ((regRowAt a).map (·.rw)).getD 0) ||| bits

/-- A triggering write. -/
def pathTrigger (p : Path) (a : Nat) (bits : Word32) (s : State) : State := pathWrite p a (s.trigger a bits) s

/-! ### Tick unit -/

/-- TICK_START (R44, R445). -/
def execTickStart (p : Path) (s : State) : Out := ifUp s <| .next (pathTrigger p Reg.TICK_CTL 1 s)

/-- TICK_STOP (R44). -/
def execTickStop (p : Path) (s : State) : Out := ifUp s <| .next (pathTrigger p Reg.TICK_CTL 2 s)

/-- TICK_CNT_CLR (R49). -/
def execTickCntClr (p : Path) (s : State) : Out := ifUp s <| .next (pathTrigger p Reg.TICK_CTL 0x40 s)

/-- TICK_PERIOD_WRITE (R34). -/
def execTickPeriodWrite (p : Path) (v : Word32) (s : State) : Out := ifUp s <| .next (pathWrite p Reg.TICK_PERIOD v s)

/-- TICK_REL_LAT_WRITE (R42). -/
def execTickRelLatWrite (p : Path) (v : Word32) (s : State) : Out := ifUp s <| .next (pathWrite p Reg.TICK_REL_LAT v s)

/-- TICK_SNAP_FREEZE (R60). -/
def execTickSnapFreeze (p : Path) (v : Word32) (s : State) : Out := ifUp s <| .next (pathWrite p Reg.TICK_SNAP_CTL v s)

/-! ### Cores -/

/-- LAUNCH_JOB (R65). -/
def execLaunchJob (p : Path) (g : Gid) (s : State) : Out := ifUp s <| .next (pathWrite p (Reg.CORE_Gg_CTL g.s g.c g.g) 1 s)

/-- LAUNCH_NOW (R65). -/
def execLaunchNow (p : Path) (g : Gid) (s : State) : Out := ifUp s <| .next (pathWrite p (Reg.CORE_Gg_CTL g.s g.c g.g) 2 s)

/-- ABANDON (R69). -/
def execAbandon (p : Path) (c : Cid) (s : State) : Out := ifUp s <| .next (pathWrite p (Reg.CORE_CTL c.s c.c) 1 s)

/-- IC_PRELOAD (R144). -/
def execIcPreload (p : Path) (c : Cid) (pin : Bool) (s : State) : Out := ifUp s <|
  .next (pathWrite p (Reg.CORE_IC_CTL c.s c.c) (if pin then 3 else 1) s)

/-- IC_UNPIN_ALL (R144). -/
def execIcUnpinAll (p : Path) (c : Cid) (s : State) : Out := ifUp s <| .next (pathTrigger p (Reg.CORE_IC_CTL c.s c.c) 4 s)

/-- IC_INVAL (R143). -/
def execIcInval (p : Path) (c : Cid) (s : State) : Out := ifUp s <| .next (pathTrigger p (Reg.CORE_IC_CTL c.s c.c) 8 s)

/-- CORE_NUM_CTL_WRITE (R157). -/
def execCoreNumCtlWrite (p : Path) (c : Cid) (v : Word32) (s : State) : Out := ifUp s <|
  .next (pathWrite p (Reg.CORE_NUM_CTL c.s c.c) v s)

/-- CORE_SR_SEED_WRITE (R171). -/
def execCoreSrSeedWrite (p : Path) (c : Cid) (v : Word32) (s : State) : Out := ifUp s <|
  .next (pathWrite p (Reg.CORE_SR_SEED c.s c.c) v s)

/-- CORE_MEM_CFG_WRITE (R213). -/
def execCoreMemCfgWrite (p : Path) (c : Cid) (v : Word32) (s : State) : Out := ifUp s <|
  .next (pathWrite p (Reg.CORE_MEM_CFG c.s c.c) v s)

/-- CORE_PWR_GATE (R360). -/
def execCorePwrGate (p : Path) (c : Cid) (v : Word32) (s : State) : Out := ifUp s <|
  .next (pathWrite p (Reg.CORE_PWR_CTL c.s c.c) v s)

/-! ### Stream engine, regulator and claim queues -/

/-- SE_DOORBELL (R244). -/
def execSeDoorbell (p : Path) (k : StackId) (n : ChanId) (s : State) : Out := ifUp s <|
  .next (pathWrite p (Reg.STK_SE_CHn_DB k n) 1 s)

/-- SE_ABORT (R261). -/
def execSeAbort (p : Path) (k : StackId) (n : ChanId) (s : State) : Out := ifUp s <|
  .next (pathTrigger p (Reg.STK_SE_CHn_CTL k n) 0x10000 s)

/-- SE_CLEAR (R260). -/
def execSeClear (p : Path) (k : StackId) (n : ChanId) (s : State) : Out := ifUp s <|
  .next (pathTrigger p (Reg.STK_SE_CHn_CTL k n) 0x20000 s)

/-- SE_HEAD_WRITE (R246). -/
def execSeHeadWrite (p : Path) (k : StackId) (n : ChanId) (hi : Bool) (v : Word32) (s : State) : Out := ifUp s <|
  .next (pathWrite p (if hi then Reg.STK_SE_CHn_HEAD_HI k n else Reg.STK_SE_CHn_HEAD_LO k n) v s)

/-- SE_RSV_WRITE (R242). -/
def execSeRsvWrite (p : Path) (k : StackId) (n : ChanId) (v : Word32) (s : State) : Out := ifUp s <|
  .next (pathWrite p (Reg.STK_SE_CHn_RSV k n) v s)

/-- BWR_GVAL_WRITE (R269). -/
def execBwrGvalWrite (p : Path) (v : Word32) (s : State) : Out := ifUp s <| .next (pathWrite p Reg.BWR_GVAL v s)

/-- CLAIM_REARM (R400). -/
def execClaimRearm (p : Path) (k : StackId) (q : Fin 4) (s : State) : Out := ifUp s <|
  .next (pathWrite p (Reg.STK_CLAIMq_STAT k q) 0x100000 s)

/-- CLAIM_CFG_WRITE: CFG, CORES, BASE_LO and BASE_HI by number (R400). -/
def execClaimCfgWrite (p : Path) (k : StackId) (q : Fin 4) (r : Fin 4) (v : Word32) (s : State) : Out := ifUp s <|
  .next (pathWrite p (Reg.STK_CLAIMq_CFG k q + 4 * r.val) v s)

/-! ### Integrity and repair -/

/-- CHK_RAW_WRITE (R292). -/
def execChkRawWrite (p : Path) (k : StackId) (s : State) : Out := ifUp s <| .next (pathTrigger p (Reg.STK_MERE_CHK_CTL k) 2 s)

/-- CHK_RAW_READ (R292). -/
def execChkRawRead (p : Path) (k : StackId) (s : State) : Out := ifUp s <| .next (pathTrigger p (Reg.STK_MERE_CHK_CTL k) 4 s)

/-- ERL_RD_WRITE (R293). -/
def execErlRdWrite (p : Path) (v : Word32) (s : State) : Out := ifUp s <| .next (pathWrite p Reg.ERL_RD v s)

/-- SCRUB_PERIOD_WRITE (R290). -/
def execScrubPeriodWrite (p : Path) (k : StackId) (v : Word32) (s : State) : Out := ifUp s <|
  .next (pathWrite p (Reg.STK_MERE_SCRUB k) v s)

/-- GRANULE_RETIRE_WRITE (R301). -/
def execGranuleRetireWrite (p : Path) (k : StackId) (i : Fin 64) (v : Word32) (s : State) : Out := ifUp s <|
  .next (pathWrite p (Reg.STK_MERE_GRETi k i) v s)

/-- REMAP_WRITE (R303). -/
def execRemapWrite (p : Path) (m : HbmId) (i : Fin 256) (v : Word32) (s : State) : Out := ifUp s <|
  .next (pathWrite p (Reg.MCm_REMAPi_HI m i) v s)

/-- BANK_DISABLE_WRITE (R304). -/
def execBankDisableWrite (p : Path) (m : HbmId) (hi : Bool) (v : Word32) (s : State) : Out := ifUp s <|
  .next (pathWrite p (if hi then Reg.MCm_BANK_DIS_HI m else Reg.MCm_BANK_DIS_LO m) v s)

/-- CRC_CFG_WRITE: word `r` of check-value unit u (R307). -/
def execCrcCfgWrite (p : Path) (u : Fin 56) (r : Fin 8) (v : Word32) (s : State) : Out := ifUp s <|
  .next (pathWrite p (Reg.CRC_u_CFG u + 4 * r.val) v s)

/-- MERE_SPLIT_WRITE (R216). -/
def execMereSplitWrite (p : Path) (k : StackId) (v : Word32) (s : State) : Out := ifUp s <|
  .next (pathWrite p (Reg.STK_MERE_SPLIT k) v s)

/-- BOND_LOOPBACK: START of a test on one slab port (R312). -/
def execBondLoopback (p : Path) (k : StackId) (slab : CoreId) (port : Fin 8) (s : State) : Out := ifUp s <|
  .next (pathWrite p (Reg.STK_BOND_LB k) (BitVec.ofNat 32 (slab.val + 16 * port.val + 256)) s)

/-! ### Links -/

/-- LINK_CTL_WRITE (R326). -/
def execLinkCtlWrite (p : Path) (port : Fin 8) (v : Word32) (s : State) : Out := ifUp s <|
  .next (pathWrite p (Reg.LNKp_CTL port) v s)

/-- LINK_RETRAIN (R326). -/
def execLinkRetrain (p : Path) (port : Fin 8) (s : State) : Out := ifUp s <| .next (pathTrigger p (Reg.LNKp_CTL port) 0x10 s)

/-- ROUTE_STAGE (R349). -/
def execRouteStage (p : Path) (d : Fin 4096) (v : Word32) (s : State) : Out := ifUp s <|
  .next (pathWrite p (Reg.LNK_RTd_HI d) v s)

/-! ### Global control -/

/-- CONFIG_LOCK (R428). -/
def execConfigLock (p : Path) (s : State) : Out := ifUp s <| .next (pathWrite p Reg.GCTL_LOCK 1 s)

/-- PKG_ID_WRITE (R30). -/
def execPkgIdWrite (p : Path) (v : Word32) (s : State) : Out := ifUp s <| .next (pathWrite p Reg.GCTL_PKG_ID v s)

/-- GCTL_MODE_WRITE (R158, R209). -/
def execGctlModeWrite (p : Path) (v : Word32) (s : State) : Out := ifUp s <| .next (pathWrite p Reg.GCTL_MODE v s)

/-- ROLE_STAGE_WRITE (R439). -/
def execRoleStageWrite (p : Path) (v : Word32) (s : State) : Out := ifUp s <| .next (pathWrite p Reg.GCTL_ROLE_VAL v s)

/-- ROLE_COMMIT (R439). -/
def execRoleCommit (p : Path) (v : Word32) (s : State) : Out := ifUp s <| .next (pathWrite p Reg.GCTL_ROLE_CMT_HI v s)

/-- MEMBERSHIP_WRITE (R443). -/
def execMembershipWrite (p : Path) (hi : Bool) (v : Word32) (s : State) : Out := ifUp s <|
  .next (pathWrite p (if hi then Reg.GCTL_MEMB_VAL_HI else Reg.GCTL_MEMB_VAL_LO) v s)

/-- FAULT_RECORD_FREE: record r, or the flood record of class r − 64 (R449). -/
def execFaultRecordFree (p : Path) (r : Fin 128) (s : State) : Out := ifUp s <|
  .next (pathWrite p (if r.val < 64 then Reg.FLT_RECi_CLS r.val else Reg.FLT_FLOODc_CLS (r.val - 64)) 0x80000000 s)

/-- REGISTER_WRITE: a write of 1 to 64 bytes at any offset on a path (R465, R466). -/
def execRegisterWrite (p : Path) (off : BitVec 26) (data : List Byte) (s : State) : Out := ifUp s <|
  if data.isEmpty || decide (64 < data.length) || !s.pathOpen p off.toNat then .next s
  else
    let (ok, s) := writeAccess p off.toNat data s
    .next { s with answer := accAnswer p ok }

/-! ### Mailbox commands (R430, Table 16-13), each a write of SVC_MB_CMD -/

/-- IMG_BEGIN. -/
def execImgBegin (p : Path) (s : State) : Out := ifUp s <| .next (pathWrite p Reg.SVC_MB_CMD 0x01 s)

/-- IMG_DATA. -/
def execImgData (p : Path) (s : State) : Out := ifUp s <| .next (pathWrite p Reg.SVC_MB_CMD 0x02 s)

/-- IMG_END. -/
def execImgEnd (p : Path) (s : State) : Out := ifUp s <| .next (pathWrite p Reg.SVC_MB_CMD 0x03 s)

/-- IMG_BOOT (R420). -/
def execImgBoot (p : Path) (s : State) : Out := ifUp s <| .next (pathWrite p Reg.SVC_MB_CMD 0x04 s)

/-- NBR_READ (R432). -/
def execNbrRead (p : Path) (s : State) : Out := ifUp s <| .next (pathWrite p Reg.SVC_MB_CMD 0x10 s)

/-- RETIRE_DELETE (R317). -/
def execRetireDelete (p : Path) (s : State) : Out := ifUp s <| .next (pathWrite p Reg.SVC_MB_CMD 0x11 s)

/-- RECORD_READ. -/
def execRecordRead (p : Path) (s : State) : Out := ifUp s <| .next (pathWrite p Reg.SVC_MB_CMD 0x12 s)

/-- SVN_RAISE. -/
def execSvnRaise (p : Path) (s : State) : Out := ifUp s <| .next (pathWrite p Reg.SVC_MB_CMD 0x13 s)

/-- JOB_START (R429). -/
def execJobStart (p : Path) (s : State) : Out := ifUp s <| .next (pathWrite p Reg.SVC_MB_CMD 0x20 s)

/-- HOST_TAKE (R429). -/
def execHostTake (p : Path) (s : State) : Out := ifUp s <| .next (pathWrite p Reg.SVC_MB_CMD 0x21 s)

end Sys2Proof.Machine
end

