-- ==== Sys2Proof/Machine/Scalar.lean ====
section
/-! DEFINITION. The S-class instructions (Table 4-10, R109, R117). -/

namespace Sys2Proof.Machine

open Sys2Proof

/-- A scalar or immediate source (Table 4-4). -/
def srcScalar (f : BitVec 7) : Bool := decide (2 ≤ srcMode f)

/-- The form of a register-layout S-class instruction with `n` sources whose MOD holds only `mod`
(R97, R100, R101). -/
def sForm (n : Nat) (f : RegForm) (mod : Nat → Bool) : Bool :=
  noPred f.pred f.pneg && srcFixed n f && (usedSrcs n f).all srcScalar && mod f.mod.toNat

/-- A register-layout S-class instruction that writes `res a b` to its scalar destination. -/
def scal (op n : Nat) (g : Gid) (f : RegForm) (res : Word64 → Word64 → Word64) (s : State) : Out :=
  issue g (encReg 1 op f) (fun _ => sForm n f zeroMod && dstS f.dst) (usedSrcs n f) [] (fun _ => 0) (fun _ => 0) none
    (fun _ s => updSlot (gi g) g.g (fun x =>
      x.setSreg (f.dst.toNat - 32) (res (srcVal64 x f.a) (srcVal64 x f.b))) s) s
where
  /-- MOD all zero. -/
  zeroMod (m : Nat) : Bool := m == 0

/-- The form of an immediate-layout S-class instruction; `useA`: SRCA is a source. -/
def sImmForm (useA : Bool) (f : ImmForm) : Bool :=
  noPred f.pred f.pneg && (if useA then srcScalar f.a else f.a == unusedSrc) && f.cond == 0

/-- An immediate-layout S-class instruction that writes `res pc a imm`, the immediate sign-extended. -/
def scalImm (op : Nat) (useA : Bool) (g : Gid) (f : ImmForm) (res : Word64 → Word64 → Word64 → Word64)
    (s : State) : Out :=
  issue g (encImm 1 op f) (fun _ => sImmForm useA f && dstS f.dst) (if useA then [f.a] else []) []
    (fun _ => 0) (fun _ => 0) none
    (fun _ s => updSlot (gi g) g.g (fun x =>
      x.setSreg (f.dst.toNat - 32) (res (x.pc.setWidth 64) (srcVal64 x f.a) (f.imm.signExtend 64))) s) s

/-- SNOP: no effect (R109). -/
def execSnop (g : Gid) (f : RegForm) (s : State) : Out :=
  issue g (encReg 1 0x00 f) (fun _ => sForm 0 f (fun m => m == 0) && dstNone f.dst) [] []
    (fun _ => 0) (fun _ => 0) none (fun _ s => s) s

def execSadd (g : Gid) (f : RegForm) (s : State) : Out := scal 0x01 2 g f (fun a b => a + b) s

def execSsub (g : Gid) (f : RegForm) (s : State) : Out := scal 0x02 2 g f (fun a b => a - b) s

def execSmul (g : Gid) (f : RegForm) (s : State) : Out := scal 0x03 2 g f (fun a b => a * b) s

def execSand (g : Gid) (f : RegForm) (s : State) : Out := scal 0x04 2 g f (fun a b => a &&& b) s

def execSor (g : Gid) (f : RegForm) (s : State) : Out := scal 0x05 2 g f (fun a b => a ||| b) s

def execSxor (g : Gid) (f : RegForm) (s : State) : Out := scal 0x06 2 g f (fun a b => a ^^^ b) s

def execSshl (g : Gid) (f : RegForm) (s : State) : Out := scal 0x07 2 g f (fun a b => a <<< (b.toNat % 64)) s

def execSshr (g : Gid) (f : RegForm) (s : State) : Out := scal 0x08 2 g f (fun a b => a >>> (b.toNat % 64)) s

def execSsar (g : Gid) (f : RegForm) (s : State) : Out :=
  scal 0x09 2 g f (fun a b => a.sshiftRight (b.toNat % 64)) s

def execSmin (g : Gid) (f : RegForm) (s : State) : Out :=
  scal 0x0A 2 g f (fun a b => if a.toInt ≤ b.toInt then a else b) s

def execSmax (g : Gid) (f : RegForm) (s : State) : Out :=
  scal 0x0B 2 g f (fun a b => if a.toInt ≤ b.toInt then b else a) s

/-- SCMP: COND in MOD [21:18], codes 0x0 to 0x7 (Table 4-8, R109). -/
def execScmp (g : Gid) (f : RegForm) (s : State) : Out :=
  issue g (encReg 1 0x0C f)
    (fun _ => sForm 2 f (fun m => bitsOf m 0 18 == 0 && decide (bitsOf m 18 4 < 8)) && dstS f.dst)
    (usedSrcs 2 f) [] (fun _ => 0) (fun _ => 0) none
    (fun _ s => updSlot (gi g) g.g (fun x =>
      let c := intCond 64 (bitsOf f.mod.toNat 18 4) true (srcVal64 x f.a).toNat (srcVal64 x f.b).toNat
      x.setSreg (f.dst.toNat - 32) (if c then 1 else 0)) s) s

/-- PGET: the predicate numbered MOD [2:0] (R109). -/
def execPget (g : Gid) (f : RegForm) (s : State) : Out :=
  issue g (encReg 1 0x10 f) (fun _ => sForm 0 f (fun m => decide (m < 8)) && dstS f.dst)
    [] [] (fun _ => 0) (fun _ => 0) none
    (fun _ s => updSlot (gi g) g.g (fun x => x.setSreg (f.dst.toNat - 32) (x.predMask f.mod.toNat)) s) s

def execPset (g : Gid) (f : RegForm) (s : State) : Out :=
  issue g (encReg 1 0x11 f) (fun _ => sForm 1 f (fun m => m == 0) && dstP f.dst)
    (usedSrcs 1 f) [] (fun _ => 0) (fun _ => 0) none
    (fun _ s => updSlot (gi g) g.g (fun x => x.setPred (f.dst.toNat % 8) (srcVal64 x f.a)) s) s

def execSli (g : Gid) (f : ImmForm) (s : State) : Out := scalImm 0x20 false g f (fun _ _ i => i) s

def execSlih (g : Gid) (f : ImmForm) (s : State) : Out :=
  scalImm 0x21 true g f (fun _ a i => (a &&& 0xFFFFFFFF) ||| (i <<< 32)) s

def execSaddi (g : Gid) (f : ImmForm) (s : State) : Out := scalImm 0x22 true g f (fun _ a i => a + i) s

def execSpc (g : Gid) (f : ImmForm) (s : State) : Out := scalImm 0x23 false g f (fun pc _ i => pc + i * 8) s

end Sys2Proof.Machine
end

