-- ==== Sys2Proof/Machine/Tensor.lean ====
section
/-! DEFINITION. The T-class instructions (Table 4-13, R89, R90, R112, R184) and the steps of the
tensor array (R182-R208). -/

namespace Sys2Proof.Machine

open Sys2Proof

/-! ### T-class instructions -/

/-- The MOD fields of a T-class instruction (R112). -/
def tFmtA (f : RegForm) : Nat := bitsOf f.mod.toNat 18 4

def tFmtB (f : RegForm) : Nat := bitsOf f.mod.toNat 14 4

def tAmode (f : RegForm) : Nat := bitsOf f.mod.toNat 11 3

def tMir (f : RegForm) : Bool := bitOf f.mod.toNat 10

def tQsel (f : RegForm) : Nat := bitsOf f.mod.toNat 8 2

def tPair (f : RegForm) : Bool := bitOf f.mod.toNat 7

/-- A format the array takes as an operand (R112). -/
def tFmtOk (x : Nat) : Bool := decide (1 ≤ x) && decide (x ≤ 8)

/-- The form of a T-class instruction with `n` sources whose MOD bits outside `mask` are zero. -/
def tForm (n : Nat) (f : RegForm) (mask : Nat) : Bool :=
  srcFixed n f && dstNone f.dst && f.mod.toNat &&& (2 ^ 22 - 1 - mask) == 0

/-- The value of an operand of a T-class instruction from thread 0 (R184). -/
def tOperand (s : State) (i g : Nat) (f : BitVec 7) (p : Nat) : Int :=
  match srcMode f with
  | 2 => ((s.slot i g).sreg (srcIdx f)).toNat
  | 3 => signedOf 5 (srcIdx f)
  | _ => (srcVal s i g false f p 0).toNat

/-- The format the front buffer will hold once every queued TSWAP has started (R184). -/
def Tensor.frontAtIssue (t : Tensor) : Nat :=
  let back := match t.loading with
    | some ld => match ld.cmd.op with | .tldt _ f _ => f | _ => t.back.fmt
    | none => t.back.fmt
  (t.cmdq.foldl (fun (p : Nat × Nat) c =>
    match c.op with
    | .tldt _ f _ => (p.1, f)
    | .tswap => (p.2, p.1)
    | _ => p) (t.front.fmt, back)).1

/-- Accumulator rows that can be addressed (R178, R184). -/
def State.accRows (s : State) : Nat := if s.modeBit F.GCTL_MODE.PAIR then 256 else 512

/-- Put a command into the tensor command queue (R90, R204). -/
def pushTCmd (i g : Nat) (op : TOp) (s : State) : State :=
  let s := updTns i (fun t => { t with cmdq := t.cmdq ++ [{ id := t.nextId, slot := g, op := op }],
                                       nextId := t.nextId + 1 }) s
  match op with
  | .trun _ _ _ _ _ _ => rampWake i s
  | _ => s

/-- Issue a T-class instruction: with thread 0 inactive nothing enters the queue; else the operands
are taken from thread 0, checked, and `mk` of them enters the queue (R89, R90, R184). A fence or a full queue holds
the instruction back, its traps not (R139). -/
def issueT (op n : Nat) (g : Gid) (f : RegForm) (mask : Nat) (ok : Bool)
    (mk : State → Int → Int → Option TOp) (s : State) : Out :=
  withTraps g (fun s =>
    match enter g (encReg 3 op f) s with
    | .error t => .next t
    | .ok s =>
      let i := gi g
      let x := s.slot i g.g
      let on := (x.guard f.pred f.pneg).getLsbD 0
      let fs := usedSrcs n f
      let held := s.fenced i g.g || decide (16 ≤ (s.core i).tns.cmdq.length)
      if !(tForm n f mask && ok && bindOk s i g.g fs none) then .next (trap i g.g 0 .illegal x.pc s)
      else if !on then .next (if held then s else commit g s)
      else
        match readySrcs s i g.g 1 fs with
        | .empty t => .next (trap i g.g t .queueEmpty x.pc s)
        | .stall => .next s
        | .ok =>
          let ps := positions [] fs
          let v := fun n => tOperand s i g.g (fs.getD n unusedSrc) (ps.getD n 0)
          match readInner i ((fs.filterMap (innerOf s i g.g 1)).dedup) s, mk s (v 0) (v 1) with
          | (true, t), _ => .next (if held then s else trapCore i t)
          | _, none => .next (trap i g.g 0 .illegal x.pc s)
          | (false, t), some op => .next (if held then s else commit g (pushTCmd i g.g op (popSrcs i g.g 1 fs t)))) s

/-- count and row within the accumulator, m rows an A row (Table 6-2). -/
def rangeOk (s : State) (m : Nat) (count row : Int) : Bool :=
  decide (1 ≤ count) && decide (0 ≤ row) && decide (row + m * count ≤ s.accRows)

def execTldt (g : Gid) (f : RegForm) (s : State) : Out :=
  issueT 0x00 1 g f (2 ^ 14 * 15 + 2 ^ 8 * 3) (tFmtOk (tFmtB f))
    (fun _ c _ => if 1 ≤ c ∧ c ≤ 128 then some (.tldt c.toNat (tFmtB f) (tQsel f)) else none) s

def execTswap (g : Gid) (f : RegForm) (s : State) : Out :=
  issueT 0x01 0 g f 0 true (fun _ _ _ => some .tswap) s

def execTrun (g : Gid) (f : RegForm) (s : State) : Out :=
  issueT 0x02 2 g f (2 ^ 18 * 15 + 2 ^ 11 * 7 + 2 ^ 10 + 2 ^ 8 * 3)
    (tFmtOk (tFmtA f) && decide (tAmode f ≤ 5))
    (fun s c r =>
      let m := if tMir f && fmt4 (s.core (gi g)).tns.frontAtIssue then 2 else 1
      if rangeOk s m c r then some (.trun c.toNat r.toNat (tFmtA f) (tAmode f) (tMir f) (tQsel f)) else none) s

def execTdrn (g : Gid) (f : RegForm) (s : State) : Out :=
  issueT 0x03 2 g f (2 ^ 8 * 3 + 2 ^ 7) true
    (fun s c r => if rangeOk s 1 c r then some (.tdrn c.toNat r.toNat (tPair f) (tQsel f)) else none) s

def execTclr (g : Gid) (f : RegForm) (s : State) : Out :=
  issueT 0x04 2 g f 0 true
    (fun s c r => if rangeOk s 1 c r then some (.tclr c.toNat r.toNat) else none) s

/-! ### Steps of the array -/

/-- Does the array of core i work: powered and out of reset? -/
def State.arrayRuns (s : State) (i : Nat) : Bool := s.coreRuns i

/-- A TLDT at the head of the queue starts once the loader is free (R182, R189). -/
def execTldtStart (c : Cid) (s : State) : Out := ifUp s <|
  let i := ci c
  let t := (s.core i).tns
  match t.cmdq with
  | { id, slot, op := .tldt n f q } :: rest =>
    if t.loading.isSome || !s.arrayRuns i then .next s
    else
      let cmd : TCmd := { id := id, slot := slot, op := .tldt n f q }
      let ld : Loading := { cmd := cmd, need := tldtData n f + tldtScales (s.blkB i f) f }
      .next (updCore i (fun x => Core.loaderTake { x with tns := { x.tns with cmdq := rest, loading := some ld } }) s)
  | _ => .next s

/-- The TLDT under way has taken its last entry: the back buffer takes its contents (R188, R189). -/
def execTldtComplete (c : Cid) (s : State) : Out := ifUp s <|
  let i := ci c
  match (s.core i).tns.loading with
  | none => .next s
  | some ld =>
    if ld.taken.length < ld.need || !s.arrayRuns i then .next s
    else
      match ld.cmd.op with
      | .tldt n f _ =>
        match readInner i [.wide] s with
        | (true, s) => .next (trapCore i s)
        | (false, s) =>
          .next (updTns i (fun t => { t with loading := none, back := loadTile n f (s.blkB i f) ld.taken }) s)
      | _ => .next s

/-- A TSWAP starts once every earlier TLDT is complete and every earlier TRUN has entered its rows
(R190); the loaded rows BACK_ROWS counts go with their tile (DEDUCED, log entry 76). -/
def execTswapStart (c : Cid) (s : State) : Out := ifUp s <|
  let i := ci c
  let t := (s.core i).tns
  match t.cmdq with
  | { op := .tswap, .. } :: rest =>
    if t.loading.isSome || t.streaming.isSome || !s.arrayRuns i then .next s
    else .next (updTns i (fun t => { t with cmdq := rest, front := t.back, back := t.front }) s)
  | _ => .next s

/-- A TRUN starts once the streamer is free (R182). -/
def execTrunStart (c : Cid) (s : State) : Out := ifUp s <|
  let i := ci c
  let t := (s.core i).tns
  match t.cmdq with
  | cmd :: rest =>
    if cmd.trun?.isNone || t.streaming.isSome || !s.arrayRuns i then .next s
    else .next (updTns i (fun t => { t with cmdq := rest, streaming := some { cmd := cmd } }) s)
  | [] => .next s

/-- The streamer's next A row enters band 0 when the array is active, its entries are present and
every earlier drain and clear has finished with its accumulator rows (R186, R187, R193). -/
def execTrunRowEnter (c : Cid) (s : State) : Out := ifUp s <|
  let i := ci c
  let t := (s.core i).tns
  match t.streaming with
  | none => .next s
  | some st =>
    match st.cmd.trun? with
    | none => .next s
    | some a =>
      let k := a.k t.front
      let blk := s.blkA i a.fmta
      match trunTake a k blk st.entered ((s.core i).wide (.ta a.qsel)) with
      | none => .next s
      | some (codes, scales, rest) =>
        if t.ramp != .active || !(a.targets t.front st.entered).all (t.accFree st.cmd.id) || !s.arrayRuns i then
          .next s
        else
          match readInner i [.wide, .tiles] s with
          | (true, s) => .next (trapCore i s)
          | (false, s) =>
            let r : RowFlight := { cmd := st.cmd, index := st.entered, codes := codes, scales := scales, blk := blk,
                                   tile := t.front }
            let n := st.entered + 1
            let s := s.count (Reg.CORE_CNT_TROW c.s c.c)
            let s := updCore i (fun x => x.setWide (.ta a.qsel) rest) s
            .next (updTns i (fun t => { t with
              rows := t.rows ++ [r], holding := false,
              streaming := if n = a.count then none else some { st with entered := n } }) s)

/-- The oldest row in the array finishes its accumulation (R176, R193-R199), in pairs or not as GCTL_MODE.PAIR stands
then, also for a TRUN issued before a change of PAIR; a drain under way does the same (DEDUCED, log entry 75). -/
def execTrunRowUpdate (c : Cid) (s : State) : Out := ifUp s <|
  let i := ci c
  match (s.core i).tns.rows with
  | [] => .next s
  | r :: rest =>
    if !s.arrayRuns i then .next s
    else
      match readInner i [.acc] s with
      | (true, s) => .next (trapCore i s)
      | (false, s) =>
        let pair := s.modeBit F.GCTL_MODE.PAIR
        let f := fun t : Tensor =>
          match r.cmd.trun? with
          | some a => t.applyRow pair r a
          | none => t
        .next (holdSettle i (updTns i (fun t => Tensor.tclrSettle (f { t with rows := rest })) s))

/-- A TDRN at the head of the queue starts once the accumulator unit is free (R182, R202). -/
def execTdrnStart (c : Cid) (s : State) : Out := ifUp s <|
  let i := ci c
  let t := (s.core i).tns
  match t.cmdq with
  | { id, slot, op := .tdrn n r p q } :: rest =>
    if t.tdrn.isSome || t.tclr.isSome || !s.arrayRuns i then .next s
    else .next (updTns i (fun t => { t with cmdq := rest, tdrn := some ({ id := id, slot := slot, op := .tdrn n r p q }, 0) }) s)
  | _ => .next s

/-- Fold the 64 terms of the entry numbered `n` of a drained row `q` into digest slot `slot` (R406). -/
def foldEntry (slot base q n : Nat) (pair : Bool) (e : Entry) (c : Core) : Core :=
  let half := if pair then n / 2 else n
  let h := if pair then n % 2 else 0
  let at_ (t : Nat) : Word64 := BitVec.ofNat 64 (base * 2 ^ 20 ||| q * 256 ||| (64 * half + t) * 2 ||| h)
  let sum := e.words.zipIdx.foldl (fun (a : Word64) x => a + glintTerm (at_ x.2) (x.1.setWidth 64)) 0
  { c with glint := sset (fun _ => 0) c.glint slot (sget (fun _ => 0) c.glint slot + sum) }

/-- One entry of the drain under way, if its row can be read and its queue has room (R202); `fold` the
digest slot and base while CORE_GLINT_SEL.EN is 1. -/
def drainOne (pair : Bool) (fold : Option (Nat × Nat)) (c : Core) : Core :=
  match c.tns.tdrn with
  | none => c
  | some (cmd, n) =>
    match cmd.op with
    | .tdrn count row p q =>
      let per := drainPer p
      let r := row + n / per
      if c.tns.pendingUpdate cmd.id r || wideCap ≤ (c.wide (.td q)).length then c
      else
        let e := c.tns.drainEntry p pair r (n % per)
        let c := c.pushWide (.td q) e
        let c := match fold with
          | some (slot, base) => foldEntry slot base r (n % per) p e c
          | none => c
        { c with tns := { c.tns with tdrn := if n + 1 = per * count then none else some (cmd, n + 1) } }
    | _ => c

/-- The drain pushes up to two entries (R202, R406). -/
def execTdrnPush (c : Cid) (s : State) : Out := ifUp s <|
  let i := ci c
  if !s.arrayRuns i then .next s
  else
    let pair := s.modeBit F.GCTL_MODE.PAIR
    let sel := Reg.CORE_GLINT_SEL (i / 16) (i % 16)
    let fold := if s.flag sel F.CORE_GLINT_SEL.EN then
        some (s.fld sel F.CORE_GLINT_SEL.SLOT, s.fld (Reg.CORE_GLINT_BASE (i / 16) (i % 16)) F.CORE_GLINT_BASE.BASE)
      else none
    let drain := fun x => drainOne pair fold (drainOne pair fold x)
    if (drain (s.core i)).tns.tdrn == (s.core i).tns.tdrn then .next s
    else
      match readInner i [.acc] s with
      | (true, s) => .next (trapCore i s)
      | (false, s) => .next (updCore i drain s)

/-- A TCLR starts once the accumulator unit is free, and clears its rows once every earlier update of
them has been made (R182, R199, R201). -/
def execTclrStart (c : Cid) (s : State) : Out := ifUp s <|
  let i := ci c
  let t := (s.core i).tns
  match t.cmdq with
  | { id, slot, op := .tclr n r } :: rest =>
    if t.tdrn.isSome || t.tclr.isSome || !s.arrayRuns i then .next s
    else
      let cmd : TCmd := { id := id, slot := slot, op := .tclr n r }
      .next (updTns i (fun t => Tensor.tclrSettle { t with cmdq := rest, tclr := some cmd }) s)
  | _ => .next s

/-- Ramp-up completes (R204). -/
def execArrayActive (c : Cid) (s : State) : Out := ifUp s <|
  let i := ci c
  match (s.core i).tns.ramp with
  | .up n =>
    if !s.arrayRuns i then .next s
    else
      let s := s.count (Reg.CORE_CNT_TRAMP c.s c.c) n
      .next (holdSettle i (updTns i (fun t => { t with ramp := .active }) s))
  | _ => .next s

/-- The hold ends and ramp-down starts (R205). -/
def execHoldExpiry (c : Cid) (s : State) : Out := ifUp s <|
  let i := ci c
  let t := (s.core i).tns
  if t.ramp == .active && t.holding && s.arrayRuns i then
    .next (updTns i (fun t => { t with ramp := .down 32, holding := false }) s)
  else .next s

/-- Ramp-down completes (R205). -/
def execArrayIdle (c : Cid) (s : State) : Out := ifUp s <|
  let i := ci c
  match (s.core i).tns.ramp with
  | .down n =>
    let s := s.count (Reg.CORE_CNT_TRAMP c.s c.c) n
    .next (updTns i (fun t => { t with ramp := .idle }) s)
  | _ => .next s

end Sys2Proof.Machine
end

