-- ==== Sys2Proof/Machine/TickRows.lean ====
section
/-! DEFINITION. TICK_BOUNDARY with what the service controller does at it, and what time does when no command waits. -/

namespace Sys2Proof.Machine

open Sys2Proof

/-- Is the boundary due next a free-mode one? -/
def State.freeDue (s : State) : Bool :=
  match s.tick.rel with
  | none => !s.inJob
  | some r => !s.inJob && !(s.inStarting && decide (r.time ≤ s.nominalEnd))

/-- What waits for a free-mode boundary in the service controller: CONFIG records, the condition of R427, the job
procedure (R421, R427, R429). -/
def serviceBoundary (s : State) : State :=
  let s := updBoot (fun b => { b with postKat := b.postKat || b.katDone }) s
  let s := if s.boot.configWait then configStep true s else s
  if s.boot.autoStep.isSome then jobBoundary s else s

/-- TICK_BOUNDARY (R46): none while a reset is held. -/
def execTickBoundary (vin : Nat) (s : State) : Out := ifUp s <|
  if s.boot.resetting.isSome then .next s
  else
    let free := s.freeDue
    let s := tickBoundary vin s
    .next (if free then serviceBoundary s else s)

/-- How long the service controller waits for the answer to a message (PRESUMED, log entry 37). -/
def answerWait : Nat := usec 64

/-- With no command waiting, time goes on by one 8 ns unit: messages not answered in time are given up, which a FAULT
message shows in FLT_STAT (R452) (DESIGN CHOICE, log entry 1). -/
def idle (s : State) : State :=
  let s := s.advance (s.now + 64)
  if s.down then s else
  let late (w : Wait) : Bool := !w.given && decide (w.at_ + answerWait ≤ s.now)
  let gaveUp := s.boot.waits.filter late
  if gaveUp.isEmpty then s
  else
    let s := { s with boot := { s.boot with
      waits := s.boot.waits.map fun w => if late w then { w with given := true } else w } }
    if gaveUp.any fun w => w.type == 0x16 then s.setFlag Reg.FLT_STAT F.FLT_STAT.FWD_FAIL else s

end Sys2Proof.Machine
end

