-- ==== Sys2Proof/Machine/Dispatch.lean ====
section
/-! DEFINITION. The meaning of each command, one arm per row of the opcode table. -/

namespace Sys2Proof.Machine

open Sys2Proof

def exec (i : Instr) (s : State) : Host.Outcome State Fault Refusal :=
  match i with
  | .tickBoundary vin => Sys2Proof.Machine.execTickBoundary vin s
  | .stoppingBoundary vin => Sys2Proof.Machine.execStoppingBoundary vin s
  | .tickOverrun => Sys2Proof.Machine.execTickOverrun s
  | .packageDone => Sys2Proof.Machine.execPackageDone s
  | .tickFaultTimeout => Sys2Proof.Machine.execTickFaultTimeout s
  | .releaseLost => Sys2Proof.Machine.execReleaseLost s
  | .startTimeout => Sys2Proof.Machine.execStartTimeout s
  | .startAbandon => Sys2Proof.Machine.execStartAbandon s
  | .tickStart path => Sys2Proof.Machine.execTickStart path s
  | .tickStop path => Sys2Proof.Machine.execTickStop path s
  | .tickCntClr path => Sys2Proof.Machine.execTickCntClr path s
  | .tickPeriodWrite path v => Sys2Proof.Machine.execTickPeriodWrite path v s
  | .tickRelLatWrite path v => Sys2Proof.Machine.execTickRelLatWrite path v s
  | .tickSnapFreeze path v => Sys2Proof.Machine.execTickSnapFreeze path v s
  | .tickInEdge => Sys2Proof.Machine.execTickInEdge s
  | .tickReady l => Sys2Proof.Machine.execTickReady l s
  | .tickDone l => Sys2Proof.Machine.execTickDone l s
  | .tickRelease l => Sys2Proof.Machine.execTickRelease l s
  | .tsyncInterval => Sys2Proof.Machine.execTsyncInterval s
  | .tsyncReq l => Sys2Proof.Machine.execTsyncReq l s
  | .tsyncRsp l => Sys2Proof.Machine.execTsyncRsp l s
  | .launchJob path g => Sys2Proof.Machine.execLaunchJob path g s
  | .launchNow path g => Sys2Proof.Machine.execLaunchNow path g s
  | .abandon path c => Sys2Proof.Machine.execAbandon path c s
  | .mov g f => Sys2Proof.Machine.execMov g f s
  | .selp g f => Sys2Proof.Machine.execSelp g f s
  | .and g f => Sys2Proof.Machine.execAnd g f s
  | .or g f => Sys2Proof.Machine.execOr g f s
  | .xor g f => Sys2Proof.Machine.execXor g f s
  | .andn g f => Sys2Proof.Machine.execAndn g f s
  | .shl g f => Sys2Proof.Machine.execShl g f s
  | .shr g f => Sys2Proof.Machine.execShr g f s
  | .sar g f => Sys2Proof.Machine.execSar g f s
  | .clz g f => Sys2Proof.Machine.execClz g f s
  | .popc g f => Sys2Proof.Machine.execPopc g f s
  | .iadd g f => Sys2Proof.Machine.execIadd g f s
  | .isub g f => Sys2Proof.Machine.execIsub g f s
  | .imin g f => Sys2Proof.Machine.execImin g f s
  | .imax g f => Sys2Proof.Machine.execImax g f s
  | .icmp g f => Sys2Proof.Machine.execIcmp g f s
  | .imul g f => Sys2Proof.Machine.execImul g f s
  | .imulh g f => Sys2Proof.Machine.execImulh g f s
  | .imad g f => Sys2Proof.Machine.execImad g f s
  | .fadd g f => Sys2Proof.Machine.execFadd g f s
  | .fsub g f => Sys2Proof.Machine.execFsub g f s
  | .fmul g f => Sys2Proof.Machine.execFmul g f s
  | .fma g f => Sys2Proof.Machine.execFma g f s
  | .fmin g f => Sys2Proof.Machine.execFmin g f s
  | .fmax g f => Sys2Proof.Machine.execFmax g f s
  | .fcmp g f => Sys2Proof.Machine.execFcmp g f s
  | .fabs g f => Sys2Proof.Machine.execFabs g f s
  | .fneg g f => Sys2Proof.Machine.execFneg g f s
  | .fscale g f => Sys2Proof.Machine.execFscale g f s
  | .frcp g f => Sys2Proof.Machine.execFrcp g f s
  | .frsq g f => Sys2Proof.Machine.execFrsq g f s
  | .fsqrt g f => Sys2Proof.Machine.execFsqrt g f s
  | .fexp2 g f => Sys2Proof.Machine.execFexp2 g f s
  | .flog2 g f => Sys2Proof.Machine.execFlog2 g f s
  | .cvtn g f => Sys2Proof.Machine.execCvtn g f s
  | .cvtw g f => Sys2Proof.Machine.execCvtw g f s
  | .cvtfi g f => Sys2Proof.Machine.execCvtfi g f s
  | .cvtif g f => Sys2Proof.Machine.execCvtif g f s
  | .snop g f => Sys2Proof.Machine.execSnop g f s
  | .sadd g f => Sys2Proof.Machine.execSadd g f s
  | .ssub g f => Sys2Proof.Machine.execSsub g f s
  | .smul g f => Sys2Proof.Machine.execSmul g f s
  | .sand g f => Sys2Proof.Machine.execSand g f s
  | .sor g f => Sys2Proof.Machine.execSor g f s
  | .sxor g f => Sys2Proof.Machine.execSxor g f s
  | .sshl g f => Sys2Proof.Machine.execSshl g f s
  | .sshr g f => Sys2Proof.Machine.execSshr g f s
  | .ssar g f => Sys2Proof.Machine.execSsar g f s
  | .smin g f => Sys2Proof.Machine.execSmin g f s
  | .smax g f => Sys2Proof.Machine.execSmax g f s
  | .scmp g f => Sys2Proof.Machine.execScmp g f s
  | .pget g f => Sys2Proof.Machine.execPget g f s
  | .pset g f => Sys2Proof.Machine.execPset g f s
  | .sli g f => Sys2Proof.Machine.execSli g f s
  | .slih g f => Sys2Proof.Machine.execSlih g f s
  | .saddi g f => Sys2Proof.Machine.execSaddi g f s
  | .spc g f => Sys2Proof.Machine.execSpc g f s
  | .rany g f => Sys2Proof.Machine.execRany g f s
  | .rall g f => Sys2Proof.Machine.execRall g f s
  | .rsum g f => Sys2Proof.Machine.execRsum g f s
  | .rmax g f => Sys2Proof.Machine.execRmax g f s
  | .rsign g f => Sys2Proof.Machine.execRsign g f s
  | .xshfl g f => Sys2Proof.Machine.execXshfl g f s
  | .xrot g f => Sys2Proof.Machine.execXrot g f s
  | .xbfly g f => Sys2Proof.Machine.execXbfly g f s
  | .qtos g f => Sys2Proof.Machine.execQtos g f s
  | .ld g f => Sys2Proof.Machine.execLd g f s
  | .st g f => Sys2Proof.Machine.execSt g f s
  | .pf g f => Sys2Proof.Machine.execPf g f s
  | .dbm g f => Sys2Proof.Machine.execDbm g f s
  | .aadd g f => Sys2Proof.Machine.execAadd g f s
  | .amax g f => Sys2Proof.Machine.execAmax g f s
  | .amin g f => Sys2Proof.Machine.execAmin g f s
  | .loadReturn c load u => Sys2Proof.Machine.execLoadReturn c load u s
  | .tldt g f => Sys2Proof.Machine.execTldt g f s
  | .tswap g f => Sys2Proof.Machine.execTswap g f s
  | .trun g f => Sys2Proof.Machine.execTrun g f s
  | .tdrn g f => Sys2Proof.Machine.execTdrn g f s
  | .tclr g f => Sys2Proof.Machine.execTclr g f s
  | .br g f => Sys2Proof.Machine.execBr g f s
  | .jr g f => Sys2Proof.Machine.execJr g f s
  | .fence g f => Sys2Proof.Machine.execFence g f s
  | .fenceComplete g => Sys2Proof.Machine.execFenceComplete g s
  | .tfence g f => Sys2Proof.Machine.execTfence g f s
  | .tfenceComplete g => Sys2Proof.Machine.execTfenceComplete g s
  | .endt g f => Sys2Proof.Machine.execEndt g f s
  | .endtComplete g => Sys2Proof.Machine.execEndtComplete g s
  | .exit g f => Sys2Proof.Machine.execExit g f s
  | .exitComplete g => Sys2Proof.Machine.execExitComplete g s
  | .icacheFill c line u => Sys2Proof.Machine.execIcacheFill c line u s
  | .icPreload path c pin => Sys2Proof.Machine.execIcPreload path c pin s
  | .icPreloadLine c u => Sys2Proof.Machine.execIcPreloadLine c u s
  | .icUnpinAll path c => Sys2Proof.Machine.execIcUnpinAll path c s
  | .icInval path c => Sys2Proof.Machine.execIcInval path c s
  | .coreNumCtlWrite path c v => Sys2Proof.Machine.execCoreNumCtlWrite path c v s
  | .coreSrSeedWrite path c v => Sys2Proof.Machine.execCoreSrSeedWrite path c v s
  | .coreMemCfgWrite path c v => Sys2Proof.Machine.execCoreMemCfgWrite path c v s
  | .tldtStart c => Sys2Proof.Machine.execTldtStart c s
  | .tldtComplete c => Sys2Proof.Machine.execTldtComplete c s
  | .tswapStart c => Sys2Proof.Machine.execTswapStart c s
  | .trunStart c => Sys2Proof.Machine.execTrunStart c s
  | .trunRowEnter c => Sys2Proof.Machine.execTrunRowEnter c s
  | .trunRowUpdate c => Sys2Proof.Machine.execTrunRowUpdate c s
  | .tdrnStart c => Sys2Proof.Machine.execTdrnStart c s
  | .tdrnPush c => Sys2Proof.Machine.execTdrnPush c s
  | .tclrStart c => Sys2Proof.Machine.execTclrStart c s
  | .arrayActive c => Sys2Proof.Machine.execArrayActive c s
  | .holdExpiry c => Sys2Proof.Machine.execHoldExpiry c s
  | .arrayIdle c => Sys2Proof.Machine.execArrayIdle c s
  | .seTimerTrigger st n => Sys2Proof.Machine.execSeTimerTrigger st n s
  | .seDoorbell path st n => Sys2Proof.Machine.execSeDoorbell path st n s
  | .seDescFetch st n u => Sys2Proof.Machine.execSeDescFetch st n u s
  | .seNop st n => Sys2Proof.Machine.execSeNop st n s
  | .seCopy st n u => Sys2Proof.Machine.execSeCopy st n u s
  | .seFill st n => Sys2Proof.Machine.execSeFill st n s
  | .seFlush st n => Sys2Proof.Machine.execSeFlush st n s
  | .seCheck st n u => Sys2Proof.Machine.execSeCheck st n u s
  | .seSend st n u => Sys2Proof.Machine.execSeSend st n u s
  | .seGuaranteeRequest st n => Sys2Proof.Machine.execSeGuaranteeRequest st n s
  | .seBurstRead st => Sys2Proof.Machine.execSeBurstRead st s
  | .seBurstArrive st n burst u => Sys2Proof.Machine.execSeBurstArrive st n burst u s
  | .seBurstWrite st => Sys2Proof.Machine.execSeBurstWrite st s
  | .seBurstAccept st n burst => Sys2Proof.Machine.execSeBurstAccept st n burst s
  | .seStatusWrite st n => Sys2Proof.Machine.execSeStatusWrite st n s
  | .seOwnWrite st n => Sys2Proof.Machine.execSeOwnWrite st n s
  | .seAccessTimeout st n => Sys2Proof.Machine.execSeAccessTimeout st n s
  | .seAbort path st n => Sys2Proof.Machine.execSeAbort path st n s
  | .seClear path st n => Sys2Proof.Machine.execSeClear path st n s
  | .seHeadWrite path st n hi v => Sys2Proof.Machine.execSeHeadWrite path st n hi v s
  | .seRsvWrite path st n v => Sys2Proof.Machine.execSeRsvWrite path st n v s
  | .bwrGvalWrite path v => Sys2Proof.Machine.execBwrGvalWrite path v s
  | .bwrFeedback => Sys2Proof.Machine.execBwrFeedback s
  | .bwrRequestServe p => Sys2Proof.Machine.execBwrRequestServe p s
  | .bwrMissWindow => Sys2Proof.Machine.execBwrMissWindow s
  | .l1Fill c miss u => Sys2Proof.Machine.execL1Fill c miss u s
  | .l2Fill st slab line u => Sys2Proof.Machine.execL2Fill st slab line u s
  | .l2WritebackAck st slab => Sys2Proof.Machine.execL2WritebackAck st slab s
  | .l1WritebackAck c => Sys2Proof.Machine.execL1WritebackAck c s
  | .hbmRefresh m => Sys2Proof.Machine.execHbmRefresh m s
  | .hbmTempRead m temp => Sys2Proof.Machine.execHbmTempRead m temp s
  | .mergeEntryTimeout st slab port u => Sys2Proof.Machine.execMergeEntryTimeout st slab port u s
  | .mereScrubRead st u => Sys2Proof.Machine.execMereScrubRead st u s
  | .hbmPatrolRead m u => Sys2Proof.Machine.execHbmPatrolRead m u s
  | .hbmEcsPoll m counts => Sys2Proof.Machine.execHbmEcsPoll m counts s
  | .chkRawWrite path st => Sys2Proof.Machine.execChkRawWrite path st s
  | .chkRawRead path st => Sys2Proof.Machine.execChkRawRead path st s
  | .erlRdWrite path v => Sys2Proof.Machine.execErlRdWrite path v s
  | .scrubPeriodWrite path st v => Sys2Proof.Machine.execScrubPeriodWrite path st v s
  | .granuleRetireWrite path st ix v => Sys2Proof.Machine.execGranuleRetireWrite path st ix v s
  | .remapWrite path m ix v => Sys2Proof.Machine.execRemapWrite path m ix v s
  | .bankDisableWrite path m hi v => Sys2Proof.Machine.execBankDisableWrite path m hi v s
  | .crcCfgWrite path u reg v => Sys2Proof.Machine.execCrcCfgWrite path u reg v s
  | .mereSplitWrite path st v => Sys2Proof.Machine.execMereSplitWrite path st v s
  | .bondLoopback path st slab port => Sys2Proof.Machine.execBondLoopback path st slab port s
  | .loopbackDone st fails => Sys2Proof.Machine.execLoopbackDone st fails s
  | .ctrlCopyMask st sig copy => Sys2Proof.Machine.execCtrlCopyMask st sig copy s
  | .stackLost st sig => Sys2Proof.Machine.execStackLost st sig s
  | .repairRecordWrite readBackOk => Sys2Proof.Machine.execRepairRecordWrite readBackOk s
  | .linkCtlWrite path p v => Sys2Proof.Machine.execLinkCtlWrite path p v s
  | .linkRetrain path p => Sys2Proof.Machine.execLinkRetrain path p s
  | .linkDetect l => Sys2Proof.Machine.execLinkDetect l s
  | .linkTrainDone l => Sys2Proof.Machine.execLinkTrainDone l s
  | .linkTrainFail l mismatch => Sys2Proof.Machine.execLinkTrainFail l mismatch s
  | .linkAligned l => Sys2Proof.Machine.execLinkAligned l s
  | .linkDownExpiry l => Sys2Proof.Machine.execLinkDownExpiry l s
  | .linkLoss l => Sys2Proof.Machine.execLinkLoss l s
  | .identSend l => Sys2Proof.Machine.execIdentSend l s
  | .ident l => Sys2Proof.Machine.execIdent l s
  | .frameSend l => Sys2Proof.Machine.execFrameSend l s
  | .frameReceive l fr fecFixed fecBad => Sys2Proof.Machine.execFrameReceive l fr fecFixed fecBad s
  | .replayTimeout l => Sys2Proof.Machine.execReplayTimeout l s
  | .nakResend l => Sys2Proof.Machine.execNakResend l s
  | .linkWrite l => Sys2Proof.Machine.execLinkWrite l s
  | .linkRead l u => Sys2Proof.Machine.execLinkRead l u s
  | .rdresp l => Sys2Proof.Machine.execRdresp l s
  | .linkSend l => Sys2Proof.Machine.execLinkSend l s
  | .ack l => Sys2Proof.Machine.execAck l s
  | .nack l => Sys2Proof.Machine.execNack l s
  | .loss l => Sys2Proof.Machine.execLoss l s
  | .messageForward l => Sys2Proof.Machine.execMessageForward l s
  | .routeStage path d v => Sys2Proof.Machine.execRouteStage path d v s
  | .stackHoldback st mw => Sys2Proof.Machine.execStackHoldback st mw s
  | .holdbackExit st mw => Sys2Proof.Machine.execHoldbackExit st mw s
  | .packageHoldback mw ma => Sys2Proof.Machine.execPackageHoldback mw ma s
  | .regulatorSample dom sensors => Sys2Proof.Machine.execRegulatorSample dom sensors s
  | .shuntClamp c sensors => Sys2Proof.Machine.execShuntClamp c sensors s
  | .corePwrGate path c v => Sys2Proof.Machine.execCorePwrGate path c v s
  | .domainPowerOn st => Sys2Proof.Machine.execDomainPowerOn st s
  | .slabPowerOff c => Sys2Proof.Machine.execSlabPowerOff c s
  | .leakageEval => Sys2Proof.Machine.execLeakageEval s
  | .lendReport send l => Sys2Proof.Machine.execLendReport send l s
  | .lendRound => Sys2Proof.Machine.execLendRound s
  | .lendPhase2 => Sys2Proof.Machine.execLendPhase2 s
  | .lendDec l => Sys2Proof.Machine.execLendDec l s
  | .lendInc l => Sys2Proof.Machine.execLendInc l s
  | .thermalSample ix reads => Sys2Proof.Machine.execThermalSample ix reads s
  | .hbmThermalRead m temp => Sys2Proof.Machine.execHbmThermalRead m temp s
  | .sensorCalibration d read => Sys2Proof.Machine.execSensorCalibration d read s
  | .claimTake st q core => Sys2Proof.Machine.execClaimTake st q core s
  | .claimRearm path st q => Sys2Proof.Machine.execClaimRearm path st q s
  | .claimCfgWrite path st q reg v => Sys2Proof.Machine.execClaimCfgWrite path st q reg v s
  | .coreStopHit c => Sys2Proof.Machine.execCoreStopHit c s
  | .glintSnapshot c late => Sys2Proof.Machine.execGlintSnapshot c late s
  | .coldReset cause => Sys2Proof.Machine.execColdReset cause s
  | .warmReset byLand path kat => Sys2Proof.Machine.execWarmReset byLand path kat s
  | .computeReset path kat => Sys2Proof.Machine.execComputeReset path kat s
  | .hbmTrainDone m rate => Sys2Proof.Machine.execHbmTrainDone m rate s
  | .bistDone bist kat => Sys2Proof.Machine.execBistDone bist kat s
  | .packageReady => Sys2Proof.Machine.execPackageReady s
  | .autoJobStart => Sys2Proof.Machine.execAutoJobStart s
  | .configLock path => Sys2Proof.Machine.execConfigLock path s
  | .pkgIdWrite path v => Sys2Proof.Machine.execPkgIdWrite path v s
  | .imgBegin path => Sys2Proof.Machine.execImgBegin path s
  | .imgData path => Sys2Proof.Machine.execImgData path s
  | .imgEnd path => Sys2Proof.Machine.execImgEnd path s
  | .imgBoot path => Sys2Proof.Machine.execImgBoot path s
  | .nbrRead path => Sys2Proof.Machine.execNbrRead path s
  | .retireDelete path => Sys2Proof.Machine.execRetireDelete path s
  | .recordRead path => Sys2Proof.Machine.execRecordRead path s
  | .svnRaise path => Sys2Proof.Machine.execSvnRaise path s
  | .jobStart path => Sys2Proof.Machine.execJobStart path s
  | .hostTake path => Sys2Proof.Machine.execHostTake path s
  | .mgmtRegRead l => Sys2Proof.Machine.execMgmtRegRead l s
  | .mgmtRegWrite l => Sys2Proof.Machine.execMgmtRegWrite l s
  | .mgmtMbCmd l => Sys2Proof.Machine.execMgmtMbCmd l s
  | .mgmtReply l => Sys2Proof.Machine.execMgmtReply l s
  | .fault l => Sys2Proof.Machine.execFault l s
  | .gctlModeWrite path v => Sys2Proof.Machine.execGctlModeWrite path v s
  | .roleStageWrite path v => Sys2Proof.Machine.execRoleStageWrite path v s
  | .roleCommit path v => Sys2Proof.Machine.execRoleCommit path v s
  | .membershipWrite path hi v => Sys2Proof.Machine.execMembershipWrite path hi v s
  | .faultRecordFree path r => Sys2Proof.Machine.execFaultRecordFree path r s
  | .hostWindowWrite off data => Sys2Proof.Machine.execHostWindowWrite off data s
  | .hostWindowRead off len u => Sys2Proof.Machine.execHostWindowRead off len u s
  | .pcieCompletionTimeout off => Sys2Proof.Machine.execPcieCompletionTimeout off s
  | .pcieFunctionReset cause => Sys2Proof.Machine.execPcieFunctionReset cause s
  | .msixUnmask v => Sys2Proof.Machine.execMsixUnmask v s
  | .registerWrite path off data => Sys2Proof.Machine.execRegisterWrite path off data s
  | .smbSetOffset x => Sys2Proof.Machine.execSmbSetOffset x s
  | .smbRead x => Sys2Proof.Machine.execSmbRead x s
  | .smbWrite x => Sys2Proof.Machine.execSmbWrite x s
  | .smbRead64 x => Sys2Proof.Machine.execSmbRead64 x s
  | .smbStatus x => Sys2Proof.Machine.execSmbStatus x s
  | .i3cEntry => Sys2Proof.Machine.execI3cEntry s
  | .i3cDaa setdasa static dyn => Sys2Proof.Machine.execI3cDaa setdasa static dyn s
  | .i3cTargetReset => Sys2Proof.Machine.execI3cTargetReset s
  | .smbusTimeout => Sys2Proof.Machine.execSmbusTimeout s
  | .mspiRead h => Sys2Proof.Machine.execMspiRead h s
  | .mspiWrite h words => Sys2Proof.Machine.execMspiWrite h words s
  | .mspiStatus h => Sys2Proof.Machine.execMspiStatus h s
  | .jtagBypass => Sys2Proof.Machine.execJtagBypass s
  | .jtagIdcode => Sys2Proof.Machine.execJtagIdcode s
  | .jtagSamplePreload cells => Sys2Proof.Machine.execJtagSamplePreload cells s
  | .jtagExtest => Sys2Proof.Machine.execJtagExtest s
  | .jtagExtestPulse => Sys2Proof.Machine.execJtagExtestPulse s
  | .jtagExtestTrain => Sys2Proof.Machine.execJtagExtestTrain s
  | .jtagClamp => Sys2Proof.Machine.execJtagClamp s
  | .jtagHighz => Sys2Proof.Machine.execJtagHighz s
  | .jtagTrst => Sys2Proof.Machine.execJtagTrst s
  | .powerDown => Sys2Proof.Machine.execPowerDown s
  | .vinCoreDip => Sys2Proof.Machine.execVinCoreDip s
  | .serdesRefclkLoss => Sys2Proof.Machine.execSerdesRefclkLoss s
  | .serdesRefclkReturn => Sys2Proof.Machine.execSerdesRefclkReturn s
  | .pcieRefclkLoss => Sys2Proof.Machine.execPcieRefclkLoss s
  | .thermtripClear => Sys2Proof.Machine.execThermtripClear s
  | .coldBringupStart => Sys2Proof.Machine.execColdBringupStart s
  | .warmRstNRelease kat => Sys2Proof.Machine.execWarmRstNRelease kat s
  | .pcieRefclkReturn => Sys2Proof.Machine.execPcieRefclkReturn s
  | .undefinedOpcode g word => Sys2Proof.Machine.execUndefinedOpcode g word s
  | .reservedTypeMessage l => Sys2Proof.Machine.execReservedTypeMessage l s

end Sys2Proof.Machine
end

