-- ==== Sys2Proof/WellFormed.lean ====
section
/-! DEFINITION. Which terms of Instr are commands the outside world can send: every event brings as many samples,
slots, bytes and codes as the hardware it comes from has. -/

namespace Sys2Proof

open Sys2Proof.Machine

/-- Inverted bits: word numbers of the 40-bit address space with at least one bit each, DRAM lines with at
least one of an access's 68 symbols in error each (R281, R286), cores and channels of the package (R18, R241). -/
def Upsets.wf (u : Upsets) : Bool :=
  (u.sram.all fun x => decide (x.1 < 2 ^ 37) && x.2 != 0) &&
    (u.l1.all fun x => decide (x.1 < 384) && decide (x.2.1 < 2 ^ 37) && x.2.2 != 0) &&
    (u.icache.all fun x => decide (x.1 < 2 ^ 37) && x.2 != 0) &&
    (u.dram.all fun x => decide (x.1 < 2 ^ 34) && !x.2.isEmpty && x.2.all fun y => decide (y.1 < 68) && y.2 != 0) &&
    (u.core.all fun x => decide (x.1 < 384) && x.2.2 != 0) &&
    u.buf.all fun x => decide (x.1 < 24) && decide (x.2.1 < 32) && x.2.2 != 0

/-- A frame: 16 flit slots, 16-bit sequence numbers and four 16-bit credit counts (R333). -/
def frameWf (fr : Frame) : Bool :=
  fr.slots.length == 16 && decide (fr.seq < 2 ^ 16) && decide (fr.ackseq < 2 ^ 16) &&
    fr.credit.length == 4 && fr.credit.all fun n => decide (n < 2 ^ 16)

/-- Dies of a package (Table 14-1): 24 Tarn, 24 Mere, 8 Shore-M and 8 Shore-L. -/
def dieOscs (d : Nat) : Nat := if d < 24 then 64 else if d < 48 then 16 else 4

/-- One sample of die d: no more oscillator counts than the die has (R380). -/
def DieRead.wf (d : Nat) (r : DieRead) : Bool := decide (r.osc.length ≤ dieOscs d)

/-- Failing units named within the package: 384 cores, 24 stacks, 8 ports, 16 HBM stacks (R18). -/
def Kat.wf (k : Kat) : Bool :=
  (k.coreFails.all fun i => decide (i < 384)) && (k.stackFails.all fun i => decide (i < 24)) &&
    (k.portFails.all fun i => decide (i < 8)) && k.hbmFails.all fun i => decide (i < 16)

/-- Cores and bonds named within the package (R301, R424). -/
def Bist.wf (b : Bist) : Bool :=
  (b.cores.all fun i => decide (i < 384)) && b.bonds.all fun x => decide (x.1 < 24) && decide (x.2.1 < 16)

/-- A transaction of a bus: at most 4 bytes of data from the controller and a one-byte count (R470). -/
def SmbXfer.wf (x : SmbXfer) : Bool := decide (x.bytes.length ≤ 4) && decide (x.count < 256)

/-- The commands the outside world can send. -/
def Instr.wf : Instr → Bool
  | .loadReturn _ _ u | .icacheFill _ _ u | .icPreloadLine _ u | .seDescFetch _ _ u | .seCopy _ _ u
  | .seCheck _ _ u | .seSend _ _ u | .seBurstArrive _ _ _ u | .l1Fill _ _ u | .l2Fill _ _ _ u
  | .mergeEntryTimeout _ _ _ u | .mereScrubRead _ u | .hbmPatrolRead _ u | .linkRead _ u => u.wf
  | .hostWindowRead off len u => u.wf && decide (0 < len) && decide (off.toNat % 2 ^ 30 + len ≤ 2 ^ 30)
  | .hostWindowWrite off data => !data.isEmpty && decide (off.toNat % 2 ^ 30 + data.length ≤ 2 ^ 30)
  | .registerWrite _ off data => !data.isEmpty && decide (off.toNat + data.length ≤ 2 ^ 26)
  | .frameReceive _ fr _ _ => frameWf fr
  | .thermalSample i reads =>
    if i.val < 24 then
      match reads with
      | [a, b] => a.wf i.val && b.wf (i.val + 24)
      | _ => false
    else
      match reads with
      | [a] => a.wf (i.val + 24)
      | _ => false
  | .sensorCalibration d read => read.wf d.val
  | .regulatorSample _ sensors | .shuntClamp _ sensors => !sensors.isEmpty
  | .loopbackDone _ fails => fails.all fun x => decide (x.1 < 576) && decide (x.2 < 34)
  | .warmReset _ _ kat | .computeReset _ kat | .warmRstNRelease kat => kat.wf
  | .bistDone bist kat => bist.wf && kat.wf
  | .smbSetOffset x | .smbRead x | .smbWrite x | .smbRead64 x | .smbStatus x => x.wf
  | .mspiWrite h words => decide (words.length ≤ h.len.toNat + 1)
  | .undefinedOpcode _ w => undefinedWord w
  | .tickBoundary .. | .stoppingBoundary .. | .tickOverrun .. | .packageDone .. | .tickFaultTimeout ..
  | .releaseLost .. | .startTimeout .. | .startAbandon .. | .tickStart .. | .tickStop .. | .tickCntClr ..
  | .tickPeriodWrite .. | .tickRelLatWrite .. | .tickSnapFreeze .. | .tickInEdge .. | .tickReady ..
  | .tickDone .. | .tickRelease .. | .tsyncInterval .. | .tsyncReq .. | .tsyncRsp .. | .launchJob ..
  | .launchNow .. | .abandon .. | .mov .. | .selp .. | .and .. | .or .. | .xor .. | .andn .. | .shl ..
  | .shr .. | .sar .. | .clz .. | .popc .. | .iadd .. | .isub .. | .imin .. | .imax .. | .icmp .. | .imul ..
  | .imulh .. | .imad .. | .fadd .. | .fsub .. | .fmul .. | .fma .. | .fmin .. | .fmax .. | .fcmp .. | .fabs ..
  | .fneg .. | .fscale .. | .frcp .. | .frsq .. | .fsqrt .. | .fexp2 .. | .flog2 .. | .cvtn .. | .cvtw ..
  | .cvtfi .. | .cvtif .. | .snop .. | .sadd .. | .ssub .. | .smul .. | .sand .. | .sor .. | .sxor ..
  | .sshl .. | .sshr .. | .ssar .. | .smin .. | .smax .. | .scmp .. | .pget .. | .pset .. | .sli .. | .slih ..
  | .saddi .. | .spc .. | .rany .. | .rall .. | .rsum .. | .rmax .. | .rsign .. | .xshfl .. | .xrot ..
  | .xbfly .. | .qtos .. | .ld .. | .st .. | .pf .. | .dbm .. | .aadd .. | .amax .. | .amin .. | .tldt ..
  | .tswap .. | .trun .. | .tdrn .. | .tclr .. | .br .. | .jr .. | .fence .. | .fenceComplete .. | .tfence ..
  | .tfenceComplete .. | .endt .. | .endtComplete .. | .exit .. | .exitComplete .. | .icPreload ..
  | .icUnpinAll .. | .icInval .. | .coreNumCtlWrite .. | .coreSrSeedWrite .. | .coreMemCfgWrite ..
  | .tldtStart .. | .tldtComplete .. | .tswapStart .. | .trunStart .. | .trunRowEnter .. | .trunRowUpdate ..
  | .tdrnStart .. | .tdrnPush .. | .tclrStart .. | .arrayActive .. | .holdExpiry .. | .arrayIdle ..
  | .seTimerTrigger .. | .seDoorbell .. | .seNop .. | .seFill .. | .seFlush .. | .seGuaranteeRequest ..
  | .seBurstRead .. | .seBurstWrite .. | .seBurstAccept .. | .seStatusWrite .. | .seOwnWrite ..
  | .seAccessTimeout .. | .seAbort .. | .seClear .. | .seHeadWrite .. | .seRsvWrite .. | .bwrGvalWrite ..
  | .bwrFeedback .. | .bwrRequestServe .. | .bwrMissWindow .. | .l2WritebackAck .. | .l1WritebackAck ..
  | .hbmRefresh .. | .hbmTempRead .. | .hbmEcsPoll .. | .chkRawWrite .. | .chkRawRead .. | .erlRdWrite ..
  | .scrubPeriodWrite .. | .granuleRetireWrite .. | .remapWrite .. | .bankDisableWrite .. | .crcCfgWrite ..
  | .mereSplitWrite .. | .bondLoopback .. | .ctrlCopyMask .. | .stackLost .. | .repairRecordWrite ..
  | .linkCtlWrite .. | .linkRetrain .. | .linkDetect .. | .linkTrainDone .. | .linkTrainFail ..
  | .linkAligned .. | .linkDownExpiry .. | .linkLoss .. | .identSend .. | .ident .. | .frameSend ..
  | .replayTimeout .. | .nakResend .. | .linkWrite .. | .rdresp .. | .linkSend .. | .ack .. | .nack ..
  | .loss .. | .messageForward .. | .routeStage .. | .stackHoldback .. | .holdbackExit .. | .packageHoldback ..
  | .corePwrGate .. | .domainPowerOn .. | .slabPowerOff .. | .leakageEval .. | .lendReport .. | .lendRound ..
  | .lendPhase2 .. | .lendDec .. | .lendInc .. | .hbmThermalRead .. | .claimTake .. | .claimRearm ..
  | .claimCfgWrite .. | .coreStopHit .. | .glintSnapshot .. | .coldReset .. | .hbmTrainDone ..
  | .packageReady .. | .autoJobStart .. | .configLock .. | .pkgIdWrite .. | .imgBegin .. | .imgData ..
  | .imgEnd .. | .imgBoot .. | .nbrRead .. | .retireDelete .. | .recordRead .. | .svnRaise .. | .jobStart ..
  | .hostTake .. | .mgmtRegRead .. | .mgmtRegWrite .. | .mgmtMbCmd .. | .mgmtReply .. | .fault ..
  | .gctlModeWrite .. | .roleStageWrite .. | .roleCommit .. | .membershipWrite .. | .faultRecordFree ..
  | .pcieCompletionTimeout .. | .pcieFunctionReset .. | .msixUnmask .. | .i3cEntry .. | .i3cDaa ..
  | .i3cTargetReset .. | .smbusTimeout .. | .mspiRead .. | .mspiStatus .. | .jtagBypass .. | .jtagIdcode ..
  | .jtagSamplePreload .. | .jtagExtest .. | .jtagExtestPulse .. | .jtagExtestTrain .. | .jtagClamp ..
  | .jtagHighz .. | .jtagTrst .. | .powerDown .. | .vinCoreDip .. | .serdesRefclkLoss ..
  | .serdesRefclkReturn .. | .pcieRefclkLoss .. | .thermtripClear .. | .coldBringupStart ..
  | .pcieRefclkReturn .. | .reservedTypeMessage .. => true

end Sys2Proof
end

