-- ==== Sys2Proof/Safety.lean ====
section
/-! DEFINITION. What counts as a safe run, in the terms the statements use: when an instruction reaches its pipe, what
an issued instruction leaves alone, and the canonical form of memory. -/

namespace Sys2Proof.Machine

open Sys2Proof

/-- The memory keeps its canonical form: addresses strictly rising, no entry equal to what an unlisted address reads
as. -/
def Memory.wf (m : SMap Byte) : Bool := swf (fun _ => 0) m

/-! ### Instructions of a group -/

/-- Word `w` is the next instruction of slot g and reaches its pipe: `u` is the state once the word is fetched, its form
is legal and respects the bindings, no fence holds the group back, its queue sources are ready in the threads `src`
and read without an error, and the queue it pushes to has room in the threads `act` (R73, R74, R86, R96-R104, R280). -/
def Reaches (g : Gid) (w : Word64) (legal : Bool) (fs : List (BitVec 7)) (src act : Word64) (push : Option Nat)
    (s u : State) : Prop :=
  enter g w s = .ok u ∧ legal = true ∧ bindOk u (gi g) g.g fs push = true ∧ u.fenced (gi g) g.g = false ∧
    (u.core (gi g)).inner = [] ∧ readySrcs u (gi g) g.g src fs = .ok ∧
    ∀ q, push = some q → pushStalls u (gi g) g.g act fs q = false

/-- The same of an M-class instruction: no earlier request of its core waits for a miss register (R224). -/
def ReachesMem (g : Gid) (w : Word64) (legal : Bool) (fs : List (BitVec 7)) (act : Word64) (push : Option Nat)
    (s u : State) : Prop :=
  Reaches g w legal fs act act push s u ∧ u.memBusy (gi g) = false

/-- The value source number `n` of the fields `fs` gives thread `t`; `fl`: which sources are read as F32. -/
def operand (u : State) (g : Gid) (fs : List (BitVec 7)) (fl : List Bool) (n t : Nat) : Word32 :=
  srcVal u (gi g) g.g (fl.getD n false) (fs.getD n unusedSrc) ((positions [] fs).getD n 0) t

/-- An instruction of slot g has issued and its group goes on at `next`. It is counted. No other core, no other slot
of its core, no memory, no register but the stop's PC capture (R410), no live counter but its own and those of `cnt`,
and nothing else of the package differs; of its own core the queues of the tensor array and the inbound stream
queues may. -/
def Issued (g : Gid) (next : BitVec 40) (cnt : List Nat) (u t : State) : Prop :=
  let i := gi g
  (t.slot i g.g).pc = next ∧
    (∀ j h, ¬(j = i ∧ h = g.g.val) → t.slot j h = u.slot j h) ∧
    (∀ j, j ≠ i → t.core j = u.core j) ∧
    t.core i = { u.core i with slots := (t.core i).slots, rp := (t.core i).rp, stopCount := (t.core i).stopCount,
                               stopNow := (t.core i).stopNow, tns := (t.core i).tns, qi := (t.core i).qi } ∧
    t.liveAt (Reg.CORE_CNT_ISSUE g.s g.c) = min (u.liveAt (Reg.CORE_CNT_ISSUE g.s g.c) + 1) 0xFFFFFFFF ∧
    (∀ a, a ≠ Reg.CORE_CNT_ISSUE g.s g.c → a ∉ cnt → t.liveAt a = u.liveAt a) ∧
    (∀ a, a ≠ Reg.CORE_STOP_PC_LO g.s g.c → a ≠ Reg.CORE_STOP_PC_LO g.s g.c + 4 → t.reg a = u.reg a) ∧
    t = { u with regs := t.regs, live := t.live, cores := t.cores }

/-- The queues of slot g after an instruction with the queue sources `fs`, taken by the threads `src`, that pushes
`v` for the threads `act`: an ordinary queue loses what was popped and gains what was pushed (R71, R75); the core-wide
queues are as the pops and the push of bound queues leave them (R78, R79). -/
def QueuesMoved (g : Gid) (fs : List (BitVec 7)) (src act : Word64) (push : Option Nat) (v : Nat → Word32)
    (u t : State) : Prop :=
  let i := gi g
  (∀ q k, q < 31 → k < 64 → (t.slot i g.g).queue q k =
      (if src.getLsbD k && !u.boundIn i g.g q then ((u.slot i g.g).queue q k).drop (popCount fs q)
        else (u.slot i g.g).queue q k) ++
      (if push = some q ∧ u.boundOut i g.g q = false ∧ act.getLsbD k = true then [.present (v k)] else [])) ∧
    (let p := popSrcs i g.g src fs u
     let p := match push with | some q => pushQ i g.g act q v p | none => p
     (t.core i).tns = (p.core i).tns ∧ (t.core i).qi = (p.core i).qi)

/-- The V-class rows that push (Table 4-9): the opcode, how many sources, the TYPE codes it takes, which sources are
F32, and the value pushed. -/
structure VRow where
  make : Gid → RegForm → Instr
  op : Nat
  n : Nat
  types : List Nat
  fl : List Bool
  res : RegForm → Word32 → Word32 → Word32 → Word32

/-- The row reaches its pipe. -/
def VRow.Reaches (r : VRow) (g : Gid) (f : RegForm) (s u : State) : Prop :=
  Machine.Reaches g (encReg 0 r.op f) (vForm r.n r.types f zeroOnly zeroOnly zeroOnly && dstQ f.dst)
    (usedSrcs r.n f) (u.active g f) (u.active g f) (some f.dst.toNat) s u

/-- What the row does: each active thread pushes the value of its operands, and nothing else changes. -/
def VRow.Done (r : VRow) (g : Gid) (f : RegForm) (u t : State) : Prop :=
  let x := operand u g (usedSrcs r.n f) r.fl
  Issued g ((u.slot (gi g) g.g).pc + 8) [] u t ∧
    QueuesMoved g (usedSrcs r.n f) (u.active g f) (u.active g f) (some f.dst.toNat)
      (fun k => r.res f (x 0 k) (x 1 k) (x 2 k)) u t ∧
    t.slot (gi g) g.g = { u.slot (gi g) g.g with pc := (t.slot (gi g) g.g).pc, queues := (t.slot (gi g) g.g).queues }

/-- Every row of the list completes with its own effect whenever it reaches its pipe. -/
def VRow.Complete (rows : List VRow) : Prop :=
  ∀ r ∈ rows, ∀ (g : Gid) (f : RegForm) (s u : State), r.Reaches g f s u →
    ∃ t, exec (r.make g f) s = .next t ∧ r.Done g f u t

/-- The scalar file of slot g after a write of `v` to register `d`: S0 stays 0, the others keep their values (R81). -/
def ScalarWritten (g : Gid) (d : Nat) (v : Word64) (u t : State) : Prop :=
  (∀ n, (t.slot (gi g) g.g).sreg n = if n = d ∧ n ≠ 0 then v else (u.slot (gi g) g.g).sreg n) ∧
    t.slot (gi g) g.g = { u.slot (gi g) g.g with
      pc := (t.slot (gi g) g.g).pc, queues := (t.slot (gi g) g.g).queues, scal := (t.slot (gi g) g.g).scal }

/-- The predicate file of slot g after a write of `v` to mask `d`: P0 stays all ones, the others keep their values
(R82). -/
def PredWritten (g : Gid) (d : Nat) (v : Word64) (u t : State) : Prop :=
  (∀ n, (t.slot (gi g) g.g).predMask n = if n = d ∧ n ≠ 0 then v else (u.slot (gi g) g.g).predMask n) ∧
    t.slot (gi g) g.g = { u.slot (gi g) g.g with
      pc := (t.slot (gi g) g.g).pc, queues := (t.slot (gi g) g.g).queues, pred := (t.slot (gi g) g.g).pred }

/-- An S-class row of the register layout (Table 4-10): the opcode and the value of its two sources. -/
structure SRow where
  make : Gid → RegForm → Instr
  op : Nat
  res : Word64 → Word64 → Word64

/-- An S-class row of the immediate layout: the opcode, whether SRCA is a source, and the value of the instruction's
address, its source and its sign-extended immediate. -/
structure SImmRow where
  make : Gid → ImmForm → Instr
  op : Nat
  useA : Bool
  res : Word64 → Word64 → Word64 → Word64

/-- The effect of an instruction without queue sources that writes scalar register `d`. -/
def ScalarDone (g : Gid) (d : Nat) (v : Word64) (u t : State) : Prop :=
  Issued g ((u.slot (gi g) g.g).pc + 8) [] u t ∧ QueuesMoved g [] 0 0 none (fun _ => 0) u t ∧ ScalarWritten g d v u t

/-- The queues of slot g after an instruction pops the sources `fs` for the threads `src` and pushes nothing. -/
def QueuesPopped (g : Gid) (fs : List (BitVec 7)) (src : Word64) (u t : State) : Prop :=
  ∀ q k, q < 31 → k < 64 → (t.slot (gi g) g.g).queue q k =
    if src.getLsbD k && !u.boundIn (gi g) g.g q then ((u.slot (gi g) g.g).queue q k).drop (popCount fs q)
    else (u.slot (gi g) g.g).queue q k

/-! ### One core, one stack, one register -/

/-- Nothing but core i differs. -/
def OnlyCore (i : Nat) (s t : State) : Prop :=
  (∀ j, j ≠ i → t.core j = s.core j) ∧ t = { s with cores := t.cores }

/-- Core i's tensor array becomes `f` of what it was, and nothing else differs. -/
def TensorBecomes (i : Nat) (f : Tensor → Tensor) (s t : State) : Prop :=
  t.core i = { s.core i with tns := f (s.core i).tns } ∧ OnlyCore i s t

/-- Nothing but the register at `a` differs, which reads `v`. -/
def RegBecomes (a : Nat) (v : Word32) (s t : State) : Prop :=
  t.reg a = v ∧ (∀ b, b ≠ a → t.reg b = s.reg b) ∧ t = { s with regs := t.regs }

/-- A package that is up takes a whole write of the register at `a` on path p: the path reaches it, its block is up
(Table 16-2), and the service controller does not hold it (R429, R463). -/
def Accepts (p : Path) (a : Nat) (s : State) : Prop :=
  s.down = false ∧ s.pathOpen p a = true ∧ (s.blockUp a = true ∨ p = .svc) ∧ s.autoHeld p a = false

/-! ### Messages -/

/-- A package that is up, and in no reset, takes the message `m` of type `type` from link l: the oldest such message
for it, of no earlier life of its source, and with a role only one that stands; `v` is the state without it, its credits
returned, and a member's reset that it shows noted (R51, R332, R338, R351, R414). -/
def Takes (type : Nat) (l : InLink) (m : Msg) (s v : State) : Prop :=
  s.down = false ∧ ∃ w, takeMsg l (fun m => m.type == type && s.mine m) s = some (m, w) ∧
    (w.inReset = false ∨ linkLocal type = true) ∧ (l.val < 32 → w.staleGen m = false) ∧
    v = (if l.val < 32 ∧ w.freshGen m = true then memberLost [m.src] w else w) ∧
    (0x10 ≤ type → type ≤ 0x14 → v.roleStale m = false)

/-- The same for the oldest message whose body begins with the byte `kind` (Table 12-9, R375, R431). -/
def TakesKind (type kind : Nat) (l : InLink) (m : Msg) (s v : State) : Prop :=
  ∃ e, s.inbox.find? (fun e => e.1 == l.val && e.2.type == type && s.mine e.2 && e.2.bodyAt 32 1 == kind) = some e ∧
    Takes type l m { s with inbox := e :: s.inbox.erase e } v

/-- Nothing of the cores, the stacks' channels and the memory differs. -/
def OutsideSame (s t : State) : Prop := t.cores = s.cores ∧ t.stks = s.stks ∧ t.mem = s.mem

end Sys2Proof.Machine
end

