-- ==== Sys2Proof/Certificates/Slice0/Obligations.lean ====
section
/-! DEFINITION. The statements for the provers. -/

open Sys2Proof Sys2Proof.Machine

/-! ### The queue of commands -/

/-- A step takes the command at the front of the queue and runs it with the queue's rest. -/
def Obligations.StepRunsFront : Prop :=
  ∀ (c : Instr) (rest : List Instr) (s : State),
    step { s with pending := c :: rest } = exec c { s with pending := rest }

/-! ### V-class instructions -/

/-- MOV, AND, OR, XOR and ANDN (R108). -/
def moveRows : List VRow := [
  ⟨.mov, 0x00, 1, [0], [], fun _ a _ _ => a⟩,
  ⟨.and, 0x02, 2, [0], [], fun _ a b _ => a &&& b⟩,
  ⟨.or, 0x03, 2, [0], [], fun _ a b _ => a ||| b⟩,
  ⟨.xor, 0x04, 2, [0], [], fun _ a b _ => a ^^^ b⟩,
  ⟨.andn, 0x05, 2, [0], [], fun _ a b _ => a &&& ~~~b⟩]

/-- MOV, AND, OR, XOR and ANDN push their result for each active thread, and change nothing else. -/
def MovesAndLogicPush : Prop := VRow.Complete moveRows

/-- SHL, SHR, SAR, CLZ and POPC: shifts by b[4:0] (R117). -/
def shiftRows : List VRow := [
  ⟨.shl, 0x06, 2, [0], [], fun _ a b _ => a <<< (b.extractLsb' 0 5).toNat⟩,
  ⟨.shr, 0x07, 2, [0], [], fun _ a b _ => a >>> (b.extractLsb' 0 5).toNat⟩,
  ⟨.sar, 0x08, 2, [0], [], fun _ a b _ => a.sshiftRight (b.extractLsb' 0 5).toNat⟩,
  ⟨.clz, 0x09, 1, [0], [], fun _ a _ _ => a.clz⟩,
  ⟨.popc, 0x0A, 1, [0], [], fun _ a _ _ =>
    BitVec.ofNat 32 ((List.finRange 32).filter fun i => a[i]).length⟩]

/-- The shifts and counts push their result for each active thread, and change nothing else. -/
def ShiftsAndCountsPush : Prop := VRow.Complete shiftRows

/-- The signed or unsigned value of a word, by TYPE (R117). -/
def typedValue (f : RegForm) (a : Word32) : Int := if modType f = 0 then a.toInt else a.toNat

/-- IADD, ISUB, IMIN, IMAX, IMUL, IMULH and IMAD: modulo 2^32, the high half of the exact product (R117). -/
def integerRows : List VRow := [
  ⟨.iadd, 0x10, 2, [0, 1], [], fun _ a b _ => BitVec.ofNat 32 (a.toNat + b.toNat)⟩,
  ⟨.isub, 0x11, 2, [0, 1], [], fun _ a b _ => BitVec.ofInt 32 (a.toNat - b.toNat : Int)⟩,
  ⟨.imin, 0x12, 2, [0, 1], [], fun f a b _ => if typedValue f a ≤ typedValue f b then a else b⟩,
  ⟨.imax, 0x13, 2, [0, 1], [], fun f a b _ => if typedValue f a ≤ typedValue f b then b else a⟩,
  ⟨.imul, 0x18, 2, [0, 1], [], fun _ a b _ => BitVec.ofNat 32 (a.toNat * b.toNat)⟩,
  ⟨.imulh, 0x19, 2, [0, 1], [], fun f a b _ => BitVec.ofInt 32 (typedValue f a * typedValue f b / 2 ^ 32)⟩,
  ⟨.imad, 0x1A, 3, [0, 1], [], fun _ a b c => BitVec.ofNat 32 (a.toNat * b.toNat + c.toNat)⟩]

/-- The integer instructions push the exact result modulo 2^32 for each active thread, and change nothing else. -/
def IntegerArithmeticPushes : Prop := VRow.Complete integerRows

/-- The binary32 instructions of Table 4-9, with the operations of chapter 5. -/
def floatRows : List VRow := [
  ⟨.fadd, 0x20, 2, [2], [true, true], fun _ a b _ => fadd a b⟩,
  ⟨.fsub, 0x21, 2, [2], [true, true], fun _ a b _ => fsub a b⟩,
  ⟨.fmul, 0x22, 2, [2], [true, true], fun _ a b _ => fmul a b⟩,
  ⟨.fma, 0x23, 3, [2], [true, true, true], fun _ a b c => fma a b c⟩,
  ⟨.fmin, 0x24, 2, [2], [true, true], fun _ a b _ => fmin a b⟩,
  ⟨.fmax, 0x25, 2, [2], [true, true], fun _ a b _ => fmax a b⟩,
  ⟨.fabs, 0x27, 1, [2], [true], fun _ a _ _ => a &&& 0x7FFFFFFF⟩,
  ⟨.fneg, 0x28, 1, [2], [true], fun _ a _ _ => a ^^^ 0x80000000⟩,
  ⟨.fscale, 0x29, 2, [2], [true, false], fun _ a b _ => fscale a b⟩,
  ⟨.frcp, 0x30, 1, [2], [true], fun _ a _ _ => frcp a⟩,
  ⟨.frsq, 0x31, 1, [2], [true], fun _ a _ _ => frsq a⟩,
  ⟨.fsqrt, 0x32, 1, [2], [true], fun _ a _ _ => fsqrt a⟩,
  ⟨.fexp2, 0x33, 1, [2], [true], fun _ a _ _ => fexp2 a⟩,
  ⟨.flog2, 0x34, 1, [2], [true], fun _ a _ _ => flog2 a⟩,
  ⟨.cvtif, 0x43, 1, [0, 1], [], fun f a _ _ => cvtif (modType f == 0) a⟩]

/-- The binary32 instructions push their result for each active thread, and change nothing else. -/
def FloatArithmeticPushes : Prop := VRow.Complete floatRows

/-- Every V-class instruction that pushes its result completes, for each active thread, and changes nothing else (Table 4-9). -/
def Obligations.VectorInstructionsPush : Prop :=
  MovesAndLogicPush ∧ ShiftsAndCountsPush ∧ IntegerArithmeticPushes ∧ FloatArithmeticPushes

/-- What a pushing instruction does: it issues, its queues move, and of the slot nothing else changes but, for CVTN, the
generator. -/
def PushDone (g : Gid) (fs : List (BitVec 7)) (src act : Word64) (q : Nat) (v : Nat → Word32) (cnt : List Nat)
    (u t : State) : Prop :=
  Issued g ((u.slot (gi g) g.g).pc + 8) cnt u t ∧ QueuesMoved g fs src act (some q) v u t ∧
    t.slot (gi g) g.g = { u.slot (gi g) g.g with
      pc := (t.slot (gi g) g.g).pc, queues := (t.slot (gi g) g.g).queues, sr := (t.slot (gi g) g.g).sr }

/-- SELP pushes a where the bit of P[AUX] is 1 and b where it is 0 (R108); CVTW widens element AUX of a; CVTFI
converts to a saturated integer, toward zero or to the nearest (R119). -/
def SelectAndWidenPush : Prop :=
  ∀ (g : Gid) (f : RegForm) (s u : State),
    let i := gi g
    let act := u.active g f
    let pushes := fun (ins : Instr) (n : Nat) (v : Nat → Word32) =>
      ∃ t, exec ins s = .next t ∧ PushDone g (usedSrcs n f) act act f.dst.toNat v [] u t ∧
        (t.slot i g.g).sr = (u.slot i g.g).sr
    (Reaches g (encReg 0 0x01 f) (vForm 2 [0] f zeroOnly (fun _ => true) zeroOnly && dstQ f.dst) (usedSrcs 2 f) act act
        (some f.dst.toNat) s u →
      pushes (.selp g f) 2 (fun k =>
        if ((u.slot i g.g).predMask (modAux f)).getLsbD k then operand u g (usedSrcs 2 f) [] 0 k
        else operand u g (usedSrcs 2 f) [] 1 k)) ∧
    (Reaches g (encReg 0 0x41 f)
        (vForm 1 [0] f (fun _ => true) (fun _ => true) zeroOnly && elemOk f && dstQ f.dst) (usedSrcs 1 f) act act
        (some f.dst.toNat) s u →
      pushes (.cvtw g f) 1 (fun k => widen (modFmt f) (elemOf f (operand u g (usedSrcs 1 f) [] 0 k)))) ∧
    (Reaches g (encReg 0 0x42 f)
        (vForm 1 [0, 1] f zeroOnly zeroOnly (fun r => r == 0 || r == 2) && dstQ f.dst) (usedSrcs 1 f) act act
        (some f.dst.toNat) s u →
      pushes (.cvtfi g f) 1 (fun k =>
        cvtfi (modType f == 0) (modRnd f == 2) (operand u g (usedSrcs 1 f) [true] 0 k)))

/-- CVTN narrows the F32 value a to format FMT into element AUX of b, counts the active threads whose value overflowed,
and leaves the generator alone unless it rounds stochastically, when the generator advances 64 steps (R119, R160,
R169). -/
def NarrowingPushesAndCounts : Prop :=
  ∀ (g : Gid) (f : RegForm) (s u : State),
    let i := gi g
    let act := u.active g f
    let x := operand u g (usedSrcs 2 f) [true, false]
    let sr := u.srUsed f
    let rnd : Nat → Rnd := fun k =>
      if sr then .sr ((srDraws 64 (u.slot i g.g).sr).getD k 0) else if modRnd f = 2 then .rtz else .rne
    let res : Nat → Nat × Bool := fun k => narrow (modFmt f) (u.modeBit F.GCTL_MODE.OVF) (rnd k) (x 0 k)
    let ovf := (List.range 64).countP fun k => act.getLsbD k && (res k).2
    Reaches g (encReg 0 0x40 f)
        (vForm 2 [0] f (fun _ => true) (fun _ => true) (fun r => decide (r < 3)) && elemOk f && dstQ f.dst &&
          !(sr && u.exact && !(u.slot i g.g).seeded)) (usedSrcs 2 f) act act (some f.dst.toNat) s u →
      ∃ t, exec (.cvtn g f) s = .next t ∧
        PushDone g (usedSrcs 2 f) act act f.dst.toNat (fun k => putElem f (x 1 k) (res k).1)
          [Reg.CORE_CNT_OVF g.s g.c] u t ∧
        t.liveAt (Reg.CORE_CNT_OVF g.s g.c) =
          (if ovf = 0 then u.liveAt (Reg.CORE_CNT_OVF g.s g.c)
            else min (u.liveAt (Reg.CORE_CNT_OVF g.s g.c) + ovf) 0xFFFFFFFF) ∧
        (t.slot i g.g).sr = if sr then srAdvance 64 (u.slot i g.g).sr else (u.slot i g.g).sr

/-- SELP, CVTW, CVTFI and CVTN push their results and change nothing else but what CVTN counts and draws. -/
def Obligations.ConversionsPush : Prop := SelectAndWidenPush ∧ NarrowingPushesAndCounts

/-- ICMP and FCMP write the condition AUX to the destination's bits of the active threads, keep its other bits, and
change nothing else; with a NaN operand UN and NE are true and the others false; P0 stays all ones (R82, R118). -/
def Obligations.ComparesWritePredicates : Prop :=
  ∀ (g : Gid) (f : RegForm) (s u : State),
    let act := u.active g f
    let writes := fun (ins : Instr) (c : Nat → Bool) =>
      ∃ t v, exec ins s = .next t ∧ Issued g ((u.slot (gi g) g.g).pc + 8) [] u t ∧
        QueuesMoved g (usedSrcs 2 f) act act none (fun _ => 0) u t ∧
        PredWritten g (f.dst.toNat % 8) v u t ∧
        ∀ k, k < 64 → v.getLsbD k =
          if act.getLsbD k then c k else ((u.slot (gi g) g.g).predMask (f.dst.toNat % 8)).getLsbD k
    (Reaches g (encReg 0 0x14 f)
        (vForm 2 [0, 1] f zeroOnly (fun a => decide (a ≤ 5)) zeroOnly && dstP f.dst) (usedSrcs 2 f) act act none s u →
      writes (.icmp g f) (fun k =>
        let a := typedValue f (operand u g (usedSrcs 2 f) [] 0 k)
        let b := typedValue f (operand u g (usedSrcs 2 f) [] 1 k)
        match modAux f with
        | 0 => decide (a = b)
        | 1 => decide (a ≠ b)
        | 2 => decide (a < b)
        | 3 => decide (a ≤ b)
        | 4 => decide (a > b)
        | _ => decide (a ≥ b))) ∧
    (Reaches g (encReg 0 0x26 f)
        (vForm 2 [2] f zeroOnly (fun a => decide (a ≤ 6)) zeroOnly && dstP f.dst) (usedSrcs 2 f) act act none s u →
      writes (.fcmp g f) (fun k =>
        let a := operand u g (usedSrcs 2 f) [true, true] 0 k
        let b := operand u g (usedSrcs 2 f) [true, true] 1 k
        let o := fcompare a b
        if isNaN a || isNaN b then modAux f == 1 || modAux f == 6
        else match modAux f with
        | 0 => o == some .eq
        | 1 => o != some .eq
        | 2 => o == some .lt
        | 3 => o == some .lt || o == some .eq
        | 4 => o == some .gt
        | 5 => o == some .gt || o == some .eq
        | _ => o == none))

/-! ### S-class instructions -/

/-- SADD to SMAX (Table 4-10), modulo 2^64; shifts by b[5:0]; signed minimum and maximum. -/
def scalarRows : List SRow := [
  ⟨.sadd, 0x01, fun a b => a + b⟩,
  ⟨.ssub, 0x02, fun a b => a - b⟩,
  ⟨.smul, 0x03, fun a b => a * b⟩,
  ⟨.sand, 0x04, fun a b => a &&& b⟩,
  ⟨.sor, 0x05, fun a b => a ||| b⟩,
  ⟨.sxor, 0x06, fun a b => a ^^^ b⟩,
  ⟨.sshl, 0x07, fun a b => a <<< (b.extractLsb' 0 6).toNat⟩,
  ⟨.sshr, 0x08, fun a b => a >>> (b.extractLsb' 0 6).toNat⟩,
  ⟨.ssar, 0x09, fun a b => a.sshiftRight (b.extractLsb' 0 6).toNat⟩,
  ⟨.smin, 0x0A, fun a b => if a.slt b then a else b⟩,
  ⟨.smax, 0x0B, fun a b => if b.slt a then a else b⟩]

/-- The scalar instructions of the register layout write their result to the destination scalar and change nothing
else; S0 stays 0 (R81, R109, R117). -/
def ScalarRowsWriteScalar : Prop :=
  ∀ r ∈ scalarRows, ∀ (g : Gid) (f : RegForm) (s u : State),
    let x := u.slot (gi g) g.g
    Reaches g (encReg 1 r.op f) (sForm 2 f (fun m => m == 0) && dstS f.dst) [] 0 0 none s u →
      ∃ t, exec (r.make g f) s = .next t ∧
        ScalarDone g (f.dst.toNat - 32) (r.res (srcVal64 x f.a) (srcVal64 x f.b)) u t

/-- SLI, SLIH, SADDI and SPC: of the instruction's address, its source and its sign-extended immediate (Table 4-10). -/
def scalarImmRows : List SImmRow := [
  ⟨.sli, 0x20, false, fun _ _ i => i⟩,
  ⟨.slih, 0x21, true, fun _ a i => BitVec.ofNat 64 (i.toNat % 2 ^ 32 * 2 ^ 32 + a.toNat % 2 ^ 32)⟩,
  ⟨.saddi, 0x22, true, fun _ a i => a + i⟩,
  ⟨.spc, 0x23, false, fun pc _ i => pc + i * 8⟩]

/-- The scalar instructions of the immediate layout write their result to the destination scalar and change nothing
else; S0 stays 0 (R81, R109). -/
def ScalarImmediatesWriteScalar : Prop :=
  ∀ r ∈ scalarImmRows, ∀ (g : Gid) (f : ImmForm) (s u : State),
    let x := u.slot (gi g) g.g
    Reaches g (encImm 1 r.op f) (sImmForm r.useA f && dstS f.dst) [] 0 0 none s u →
      ∃ t, exec (r.make g f) s = .next t ∧
        ScalarDone g (f.dst.toNat - 32) (r.res (x.pc.setWidth 64) (srcVal64 x f.a) (f.imm.signExtend 64)) u t

/-- The condition of SCMP, signed but for codes 6 and 7 (Table 4-8). -/
def scalarCond (c : Nat) (a b : Word64) : Bool :=
  match c with
  | 0 => a == b
  | 1 => a != b
  | 2 => a.slt b
  | 3 => a.sle b
  | 4 => b.slt a
  | 5 => b.sle a
  | 6 => a.ult b
  | _ => b.ule a

/-- SCMP writes 1 or 0, PGET copies a predicate mask to a scalar, PSET a scalar to a mask, and SNOP changes nothing but
the program counter and the count of instructions (R81, R82, R109). -/
def ScalarTransfersWrite : Prop :=
  ∀ (g : Gid) (f : RegForm) (s u : State),
    let x := u.slot (gi g) g.g
    (Reaches g (encReg 1 0x0C f)
        (sForm 2 f (fun m => bitsOf m 0 18 == 0 && decide (bitsOf m 18 4 < 8)) && dstS f.dst) [] 0 0 none s u →
      ∃ t, exec (.scmp g f) s = .next t ∧ ScalarDone g (f.dst.toNat - 32)
        (if scalarCond (bitsOf f.mod.toNat 18 4) (srcVal64 x f.a) (srcVal64 x f.b) then 1 else 0) u t) ∧
    (Reaches g (encReg 1 0x10 f) (sForm 0 f (fun m => decide (m < 8)) && dstS f.dst) [] 0 0 none s u →
      ∃ t, exec (.pget g f) s = .next t ∧ ScalarDone g (f.dst.toNat - 32) (x.predMask f.mod.toNat) u t) ∧
    (Reaches g (encReg 1 0x11 f) (sForm 1 f (fun m => m == 0) && dstP f.dst) [] 0 0 none s u →
      ∃ t, exec (.pset g f) s = .next t ∧ Issued g (x.pc + 8) [] u t ∧
        QueuesMoved g [] 0 0 none (fun _ => 0) u t ∧ PredWritten g (f.dst.toNat % 8) (srcVal64 x f.a) u t) ∧
    (Reaches g (encReg 1 0x00 f) (sForm 0 f (fun m => m == 0) && dstNone f.dst) [] 0 0 none s u →
      ∃ t, exec (.snop g f) s = .next t ∧ Issued g (x.pc + 8) [] u t ∧
        t.slot (gi g) g.g = { x with pc := x.pc + 8 } ∧
        (t.core (gi g)).tns = (u.core (gi g)).tns ∧ (t.core (gi g)).qi = (u.core (gi g)).qi)

/-- Every S-class instruction writes its destination and changes nothing else (Table 4-10). -/
def Obligations.ScalarInstructionsWrite : Prop :=
  ScalarRowsWriteScalar ∧ ScalarImmediatesWriteScalar ∧ ScalarTransfersWrite

/-! ### X-class instructions -/

/-- The sum, in the fixed pairwise order of R121, of 64 values by an operation. -/
def pairwise64 (c : Word64 → Word64 → Word64) (v : Nat → Word64) : Nat → Nat → Word64
  | 0, k => v k
  | n + 1, k => c (pairwise64 c v n (2 * k)) (pairwise64 c v n (2 * k + 1))

/-- RANY, RALL, RSUM, RMAX and RSIGN reduce the active threads' values to a scalar, all threads' queues are popped, and
nothing else changes (R120-R122). -/
def Obligations.ReductionsWriteScalar : Prop :=
  ∀ (g : Gid) (f : RegForm) (s u : State),
    let act := u.active g f
    let all := BitVec.allOnes 64
    let ty := xType f
    let x := operand u g (usedSrcs 1 f) [ty == 2] 0
    let reduces := fun (ins : Instr) (v : Word64) =>
      ∃ t, exec ins s = .next t ∧ Issued g ((u.slot (gi g) g.g).pc + 8) [] u t ∧
        QueuesMoved g (usedSrcs 1 f) all 0 none (fun _ => 0) u t ∧ ScalarWritten g (f.dst.toNat - 32) v u t
    let reaches := fun (op : Nat) (types : List Nat) =>
      Reaches g (encReg 5 op f) (xForm 1 types f (fun _ => true) && dstS f.dst) (usedSrcs 1 f) all 0 none s u
    (reaches 0x00 [0] → reduces (.rany g f) (if (List.range 64).any fun k => act.getLsbD k && x k != 0 then 1 else 0)) ∧
    (reaches 0x01 [0] → reduces (.rall g f) (if (List.range 64).all fun k => act.getLsbD k → x k != 0 then 1 else 0)) ∧
    (reaches 0x02 [0, 1, 2] → reduces (.rsum g f)
      (pairwise64 (combineSum ty) (fun k => widenX ty (if act.getLsbD k then x k else identSum ty)) 6 0)) ∧
    (reaches 0x03 [0, 1, 2] → reduces (.rmax g f)
      (pairwise64 (combineMax ty) (fun k => widenX ty (if act.getLsbD k then x k else identMax ty)) 6 0)) ∧
    (reaches 0x04 [0, 1] → reduces (.rsign g f)
      (let z : Int := (((List.range 64).filter fun k => act.getLsbD k).map fun k =>
          if ty = 0 then (x k).toInt else ((x k).toNat : Int)).sum
       if z < 0 then BitVec.allOnes 64 else if z = 0 then 0 else 1)) ∧
    (reaches 0x04 [2] → reduces (.rsign g f)
      (signF32 (((List.range 64).filter fun k => act.getLsbD k).map fun k => decF32 (x k))))

/-- XSHFL, XROT and XBFLY push to each active thread the value of another thread, active or not, and QTOS copies one
thread's value, widened, to a scalar (R120, R123, R124). -/
def Obligations.ExchangesMoveThreads : Prop :=
  ∀ (g : Gid) (f : RegForm) (s u : State),
    let act := u.active g f
    let all := BitVec.allOnes 64
    let x := operand u g (usedSrcs 2 f) []
    let exchanges := fun (ins : Instr) (from_ : Nat → Nat) =>
      ∃ t, exec ins s = .next t ∧
        PushDone g (usedSrcs 2 f) all act f.dst.toNat (fun k => x 0 (from_ k)) [] u t ∧
        (t.slot (gi g) g.g).sr = (u.slot (gi g) g.g).sr
    let reaches := fun (op : Nat) (b : BitVec 7 → Bool) =>
      Reaches g (encReg 5 op f) (xForm 2 [0] f b && dstQ f.dst) (usedSrcs 2 f) all act (some f.dst.toNat) s u
    (reaches 0x08 (fun _ => true) → exchanges (.xshfl g f) (fun k => (x 1 k).toNat % 64)) ∧
    (reaches 0x09 (fun b => !isQueue b) → exchanges (.xrot g f) (fun k => (k + (x 1 k).toNat) % 64)) ∧
    (reaches 0x0A (fun b => !isQueue b) → exchanges (.xbfly g f) (fun k => k ^^^ (x 1 k).toNat % 64)) ∧
    (Reaches g (encReg 5 0x0B f) (xForm 2 [0, 1, 2] f (fun b => !isQueue b) && dstS f.dst) (usedSrcs 2 f) all 0 none
        s u →
      let y := operand u g (usedSrcs 2 f) [xType f == 2, false]
      ∃ t, exec (.qtos g f) s = .next t ∧ Issued g ((u.slot (gi g) g.g).pc + 8) [] u t ∧
        QueuesMoved g (usedSrcs 2 f) all 0 none (fun _ => 0) u t ∧
        ScalarWritten g (f.dst.toNat - 32) (widenX (xType f) (y 0 ((y 1 0).toNat % 64))) u t)

/-! ### C-class instructions -/

/-- BR goes to its own address plus IMM32 × 8 where its condition on a and 0 holds, and to the next instruction where it
does not; JR goes to S[A] [39:0]; nothing else changes (R131, R132). -/
def Obligations.BranchesMoveThePc : Prop :=
  (∀ (g : Gid) (f : ImmForm) (s u : State),
    let x := u.slot (gi g) g.g
    let taken := if f.cond = 8 then true else scalarCond f.cond.toNat (srcVal64 x f.a) 0
    Reaches g (encImm 4 0x00 f)
        (noPred f.pred f.pneg && decide (2 ≤ srcMode f.a) && dstNone f.dst && decide (f.cond.toNat ≤ 8)) [] 0 0 none
        s u →
      ∃ t, exec (.br g f) s = .next t ∧
        Issued g (if taken then x.pc + f.imm.signExtend 40 * 8 else x.pc + 8) [] u t ∧
        t.slot (gi g) g.g = { x with pc := (t.slot (gi g) g.g).pc } ∧
        (t.core (gi g)).tns = (u.core (gi g)).tns ∧ (t.core (gi g)).qi = (u.core (gi g)).qi) ∧
  (∀ (g : Gid) (f : RegForm) (s u : State),
    let x := u.slot (gi g) g.g
    let v := srcVal64 x f.a
    Reaches g (encReg 4 0x01 f)
        (cForm 1 f (fun m => m == 0) && srcMode f.a == 2 && v.toNat % 8 == 0 && decide (v.toNat < 2 ^ 40)) [] 0 0 none
        s u →
      ∃ t, exec (.jr g f) s = .next t ∧ Issued g (v.setWidth 40) [] u t ∧
        t.slot (gi g) g.g = { x with pc := v.setWidth 40 } ∧
        (t.core (gi g)).tns = (u.core (gi g)).tns ∧ (t.core (gi g)).qi = (u.core (gi g)).qi)

/-- FENCE, TFENCE, ENDT and EXIT issue, and their group then waits: it issues nothing until they complete. A fence of
scope 0 or a TFENCE then lets the group issue again, ENDT leaves the slot in tick-wait and EXIT leaves it empty, each
only once its accesses and tensor commands are finished. A fence that completes with scope 1 or 2 has written the
core's dirty L1 lines back, with scope 2 the L1 is empty, and with scope 3 the stack L2 has written back the lines of
the range; until then it waits (R134-R137). -/
def Obligations.WaitsBeginAndEnd : Prop :=
  (∀ (g : Gid) (f : RegForm) (s u : State),
    let x := u.slot (gi g) g.g
    let waits := fun (ins : Instr) (w : SlotWait) =>
      ∃ t, exec ins s = .next t ∧ Issued g (x.pc + 8) [] u t ∧
        t.slot (gi g) g.g = { x with pc := x.pc + 8, wait := w } ∧ t.canIssue (gi g) g.g = false ∧
        (t.core (gi g)).tns = (u.core (gi g)).tns ∧ (t.core (gi g)).qi = (u.core (gi g)).qi
    let reaches := fun (op n : Nat) (mod : Nat → Bool) =>
      Reaches g (encReg 4 op f) (cForm n f mod) [] 0 0 none s u
    (reaches 0x02 0 (fun m => decide (m < 3)) → waits (.fence g f) (.fence f.mod.toNat 0 0)) ∧
    (reaches 0x02 2 (fun m => m == 3) →
      waits (.fence g f) (.fence 3 (srcVal64 x f.a).toNat (srcVal64 x f.b).toNat)) ∧
    (reaches 0x03 0 (fun m => decide (m < 2)) → waits (.tfence g f) (.tfence (f.mod.toNat == 1))) ∧
    (reaches 0x04 0 (fun m => m == 0) → waits (.endt g f) .endt) ∧
    (reaches 0x05 0 (fun m => m == 0) → waits (.exit g f) .exit)) ∧
  (∀ (g : Gid) (s : State),
    let i := gi g
    let x := s.slot i g.g
    let becomes := fun (ins : Instr) (y : Slot) =>
      ∃ t, exec ins s = .next t ∧ t.slot i g.g = y ∧ (∀ h, h ≠ g.g.val → t.slot i h = s.slot i h) ∧ OnlyCore i s t
    s.down = false →
      (x.wait = .fence 0 0 0 → x.state = .running → s.coreRuns i = true → s.slotBusy i g.g = false →
        becomes (.fenceComplete g) { x with wait := .none }) ∧
      (∀ b, x.wait = .tfence b → x.state = .running → s.coreRuns i = true →
        (if b then (s.core i).tns.slotTaken g.g else (s.core i).tns.slotDone g.g) = true →
        becomes (.tfenceComplete g) { x with wait := .none }) ∧
      (x.wait = .endt → s.slotFinished i g.g = true →
        becomes (.endtComplete g) { x with wait := .none, state := .tickWait }) ∧
      (x.wait = .exit → s.slotFinished i g.g = true → becomes (.exitComplete g) Slot.reset)) ∧
  (∀ (g : Gid) (s : State) (scope base len : Nat),
    let i := gi g
    (s.slot i g.g).wait = .fence scope base len → s.down = false → (s.slot i g.g).state = .running →
    s.coreRuns i = true → s.slotBusy i g.g = false → scope ≠ 0 →
    let v := l1WriteBack (scope == 2) i s
    (v.l2StoreWaits (i / 16) (16 * i + 8) = false →
      let v := if scope = 3 then l2FlushRange (i / 16) { master := missMaster i } base len false v else v
      exec (.fenceComplete g) s = .next (updSlot i g.g (fun x => { x with wait := .none }) v)) ∧
    (v.l2StoreWaits (i / 16) (16 * i + 8) = true → exec (.fenceComplete g) s = .next v))

/-! ### Traps -/

/-- Every V-class row of the tables above. -/
def vectorRows : List VRow := moveRows ++ shiftRows ++ integerRows ++ floatRows

/-- A word of an undefined class or opcode that becomes its group's next instruction traps ILLEGAL. An instruction whose
form is illegal traps ILLEGAL and one that reads an empty queue traps QUEUE_EMPTY with the lowest such thread, whether or
not a fence holds the group back; one whose entry is not there yet, whose destination is full or that a fence holds back
stalls with nothing changed but the fetch (R73, R74, R96-R104, R114, R139). -/
def Obligations.IllegalInstructionsTrap : Prop :=
  (∀ (g : Gid) (w : Word64) (s u : State), s.down = false → enter g w s = .ok u → undefinedWord w = true →
    exec (.undefinedOpcode g w) s = .next (trap (gi g) g.g 0 .illegal (u.slot (gi g) g.g).pc u)) ∧
  (∀ r ∈ vectorRows, ∀ (g : Gid) (f : RegForm) (s u : State),
    let i := gi g
    let act := u.active g f
    let ok := vForm r.n r.types f zeroOnly zeroOnly zeroOnly && dstQ f.dst &&
      bindOk u i g.g (usedSrcs r.n f) (some f.dst.toNat)
    enter g (encReg 0 r.op f) s = .ok u →
      (ok = false → exec (r.make g f) s = .next (trap i g.g 0 .illegal (u.slot i g.g).pc u)) ∧
      (∀ k, ok = true → readySrcs u i g.g act (usedSrcs r.n f) = .empty k →
        exec (r.make g f) s = .next (trap i g.g k .queueEmpty (u.slot i g.g).pc u)) ∧
      (ok = true → readySrcs u i g.g act (usedSrcs r.n f) = .stall → exec (r.make g f) s = .next u) ∧
      (ok = true → readySrcs u i g.g act (usedSrcs r.n f) = .ok →
        pushStalls u i g.g act (usedSrcs r.n f) f.dst.toNat = true ∨ u.fenced i g.g = true →
        exec (r.make g f) s = .next u))

/-- A trap halts every running or tick-wait group of its core and no other, and leaves the groups of every other core,
all of memory and every tensor array alone (R92). The first trap of a core is captured with its PC, cause, slot and
thread; a trap met while VALID is 1 captures nothing and sets LOST (R93, Table 3-10). -/
def Obligations.TrapsHaltAndAreCaptured : Prop :=
  (∀ (i slot thread : Nat) (cause : Cause) (pc : BitVec 40) (s : State),
    let t := trap i slot thread cause pc s
    (∀ g, g < 8 → (s.slot i g).state = .running ∨ (s.slot i g).state = .tickWait →
      t.slot i g = { s.slot i g with state := .halted, trapped := true, wait := .none }) ∧
    (∀ g, g < 8 → ¬((s.slot i g).state = .running ∨ (s.slot i g).state = .tickWait) → t.slot i g = s.slot i g) ∧
    (∀ j, j ≠ i → t.core j = s.core j) ∧ (t.core i).tns = (s.core i).tns ∧ t.mem = s.mem) ∧
  (∀ (c : Cid) (slot : SlotId) (thread : Fin 64) (cause : Cause) (pc : BitVec 40) (s : State),
    let hi := Reg.CORE_TRAP_HI c.s c.c
    let lo := Reg.CORE_TRAP_LO c.s c.c
    let t := recordTrap (ci c) slot thread cause pc s
    (s.flag hi F.CORE_TRAP_HI.VALID = false →
      (t.reg lo).toNat = pc.toNat % 2 ^ 32 / 8 * 8 ∧ t.flag hi F.CORE_TRAP_HI.VALID = true ∧
      t.fld hi F.CORE_TRAP_HI.CAUSE = cause.code ∧ t.fld hi F.CORE_TRAP_HI.SLOT = slot ∧
      t.fld hi F.CORE_TRAP_HI.THREAD = thread ∧ t.fld hi F.CORE_TRAP_HI.PC_HI = pc.toNat / 2 ^ 32) ∧
    (s.flag hi F.CORE_TRAP_HI.VALID = true →
      t.reg hi = s.reg hi ||| BitVec.ofNat 32 (2 ^ F.CORE_TRAP_HI.LOST.lo) ∧ t.reg lo = s.reg lo) ∧
    (∀ a, a ≠ hi → a ≠ lo → t.reg a = s.reg a) ∧
    (∀ j, t.core j = { s.core j with trapSlot := (t.core j).trapSlot }) ∧
    t = { s with regs := t.regs, cores := t.cores })

/-! ### M-class instructions -/


/-- LD and ST form each active thread's address from the scalar base, the thread's offset and the displacement; where
every thread passes the checks of R126 the accesses are made, and where one fails the core traps with none made
(R125-R127, R130). -/
def Obligations.LoadsAndStoresComplete : Prop :=
  ∀ (g : Gid) (f : RegForm) (s u : State),
    let i := gi g
    let act := u.active g f
    (ReachesMem g (encReg 2 0x00 f) (memForm 2 true true true f) (usedSrcs 2 f) act (some f.dst.toNat) s u →
      let p := popSrcs i g.g act (usedSrcs 2 f) u
      let ls := memLanes g f (operand u g (usedSrcs 2 f) [] 1) p
      (laneTrap g (memSize f) false ls p = none → exec (.ld g f) s = .next (commit g (loadEffect g f ls p))) ∧
      ∀ v, laneTrap g (memSize f) false ls p = some v → exec (.ld g f) s = .next (commit g v)) ∧
    (ReachesMem g (encReg 2 0x01 f) (memForm 3 false false true f) (usedSrcs 3 f) act none s u →
      let p := popSrcs i g.g act (usedSrcs 3 f) u
      let ls := memLanes g f (operand u g (usedSrcs 3 f) [] 1) p
      (laneTrap g (memSize f) false ls p = none →
        exec (.st g f) s = .next (commit g (storeEffect g f (operand u g (usedSrcs 3 f) [] 2) ls p))) ∧
      ∀ v, laneTrap g (memSize f) false ls p = some v → exec (.st g f) s = .next (commit g v))

/-- PF loads the lines of the addresses that pass the checks and DBM marks them dead; neither traps, and with no such
address nothing but the pops and the issue happens (R128). AADD, AMAX and AMIN on addresses of scratch arrays reserve
their queue entries and update their words in ascending thread order, with the sum modulo 2^32, and the greater or the
lesser, signed where SX is 1; where an address fails a check the core traps with no word updated (R111, R126, R129). -/
def Obligations.HintsAndAtomicsComplete : Prop :=
  ∀ (g : Gid) (f : RegForm) (s u : State),
    let i := gi g
    let act := u.active g f
    (let p := popSrcs i g.g act (usedSrcs 2 f) u
     let ls := hintLanes g f (operand u g (usedSrcs 2 f) [] 1) p
     let reaches := fun (op : Nat) =>
       ReachesMem g (encReg 2 op f) (memForm 2 false false false f) (usedSrcs 2 f) act none s u
     (reaches 0x02 → ∃ t, exec (.pf g f) s = .next t ∧ t = commit g (prefetchEffect i f ls p) ∧
       (ls = [] → t = commit g p)) ∧
     (reaches 0x03 → ∃ t, exec (.dbm g f) s = .next t ∧ t = commit g (markEffect i f ls p) ∧
       (ls = [] → t = commit g p))) ∧
    (let p := popSrcs i g.g act (usedSrcs 3 f) u
     let ls := memLanes g f (operand u g (usedSrcs 3 f) [] 1) p
     let updates := fun (ins : Instr) (op : Nat) (sx : Bool) (upd : Word32 → Word32 → Word32) =>
       ReachesMem g (encReg 2 op f) (memForm 3 true sx false f && memSize f == 4) (usedSrcs 3 f) act
         (some f.dst.toNat) s u →
       (laneTrap g 4 true ls p = none →
         exec ins s = .next (commit g (atomicEffect g f upd (operand u g (usedSrcs 3 f) [] 2) ls p))) ∧
       ∀ v, laneTrap g 4 true ls p = some v → exec ins s = .next (commit g v)
     updates (.aadd g f) 0x04 false (fun o d => BitVec.ofNat 32 (o.toNat + d.toNat)) ∧
     updates (.amax g f) 0x05 true
       (fun o d => if memSx f then (if o.slt d then d else o) else if o.ult d then d else o) ∧
     updates (.amin g f) 0x06 true
       (fun o d => if memSx f then (if d.slt o then d else o) else if d.ult o then d else o))

/-- The thread that an address fails in, and why: not a multiple of the size, a target refused, a region retired, or an
atomic outside the scratch arrays (R126). The lowest failing thread traps, with its first failing check. An atomic's
thread receives the value that stood in its word, and the word takes the update, where its stored bits are right
(R129). -/
def Obligations.AccessesAreCheckedAndAtomic : Prop :=
  (∀ (g : Gid) (size : Nat) (atomic : Bool) (ls : List LoadLane) (s : State),
    (laneTrap g size atomic ls s = none ↔ ∀ y ∈ ls, laneCheck s (gi g) size atomic y.addr = none) ∧
    ∀ (pre post : List LoadLane) (y : LoadLane) (cause : Cause) (kind : Option Nat),
      ls = pre ++ y :: post → (∀ x ∈ pre, laneCheck s (gi g) size atomic x.addr = none) →
      laneCheck s (gi g) size atomic y.addr = some (cause, kind) →
      ∃ v, laneTrap g size atomic ls s = some (trap (gi g) g.g y.thread cause (v.slot (gi g) g.g).pc v) ∧
        v.cores = s.cores ∧ v.mem = s.mem) ∧
  (∀ (i id : Nat) (op : Word32 → Word32 → Word32) (data : Nat → Word32) (y : LoadLane) (s : State),
    let a := y.addr % 2 ^ 40
    let w := a / 8
    let v := s.wordAt w
    a % 4 = 0 → isSlabWord w = false → s.devAt w = 0 →
      let n := op (halfOf a v) (data y.thread)
      let m : BitVec 8 := if a % 8 = 0 then 0x0F else 0xF0
      atomicLane i id op data y s =
        putWord w (mergeWord v m (placed a (leBytes 4 n.toNat)))
          (deliver i id [y.thread] (fun _ => [{ word := v }]) s))

/-- A load whose lanes all have clean data, and that is its queue's oldest, delivers and is no longer in flight (R72).
A delivered load makes its reserved entries present, each with the bytes of its thread's address, extended as SX
says; nothing else in any queue moves, and an entry reserved by another load stays reserved (R72, R111). -/
def Obligations.LoadsReturn : Prop :=
  (∀ (c : Cid) (n : Nat) (u : Upsets) (s v : State) (ld : Load) (ls : List LoadLane),
    let i := ci c
    s.down = false → (s.core i).loads.find? (fun x => x.id == n) = some ld → (s.core i).returns ld = true →
    judgeLanes u i ld.lanes (upset u s) = (ls, v) → (∀ y ∈ ls, y.bad = false) →
      exec (.loadReturn c n u) s = .next (endLoad i n (deliverLoad i ld ls v))) ∧
  (∀ (i : Nat) (ld : Load) (ls : List LoadLane) (s : State) (q k : Nat),
    s.boundOut i ld.slot ld.queue = false → q < 31 → k < 64 → (∀ y ∈ ls, y.thread < 64) →
    (ls.map (·.thread)).Nodup →
    ((deliverLoad i ld ls s).slot i ld.slot).queue q k =
      match ls.find? fun y => y.thread == k with
      | some y =>
        if q = ld.queue then
          ((s.slot i ld.slot).queue q k).map fun e => if e = .reserved ld.id then
            .present (loadValue ld.size ld.sx y.addr y.word) else e
        else (s.slot i ld.slot).queue q k
      | none => (s.slot i ld.slot).queue q k)

/-! ### T-class instructions and the tensor array -/

/-- The T-class rows (Table 4-13): opcode, sources, MOD bits used, a permitted form, and the command made of the operands
of thread 0, where they lie in range (R184). -/
structure TRow where
  make : Gid → RegForm → Instr
  op : Nat
  n : Nat
  mask : Nat
  ok : RegForm → Bool
  cmd : RegForm → State → Gid → Int → Int → Option TOp

def tensorRows : List TRow := [
  ⟨.tldt, 0x00, 1, 2 ^ 14 * 15 + 2 ^ 8 * 3, fun f => tFmtOk (tFmtB f), fun f _ _ c _ =>
    if 1 ≤ c ∧ c ≤ 128 then some (.tldt c.toNat (tFmtB f) (tQsel f)) else none⟩,
  ⟨.tswap, 0x01, 0, 0, fun _ => true, fun _ _ _ _ _ => some .tswap⟩,
  ⟨.trun, 0x02, 2, 2 ^ 18 * 15 + 2 ^ 11 * 7 + 2 ^ 10 + 2 ^ 8 * 3, fun f => tFmtOk (tFmtA f) && decide (tAmode f ≤ 5),
    fun f s g c r =>
      let m := if tMir f && fmt4 (s.core (gi g)).tns.frontAtIssue then 2 else 1
      if 1 ≤ c ∧ 0 ≤ r ∧ r + m * c ≤ s.accRows then
        some (.trun c.toNat r.toNat (tFmtA f) (tAmode f) (tMir f) (tQsel f)) else none⟩,
  ⟨.tdrn, 0x03, 2, 2 ^ 8 * 3 + 2 ^ 7, fun _ => true, fun f s _ c r =>
    if 1 ≤ c ∧ 0 ≤ r ∧ r + c ≤ s.accRows then some (.tdrn c.toNat r.toNat (tPair f) (tQsel f)) else none⟩,
  ⟨.tclr, 0x04, 2, 0, fun _ => true, fun _ s _ c r =>
    if 1 ≤ c ∧ 0 ≤ r ∧ r + c ≤ s.accRows then some (.tclr c.toNat r.toNat) else none⟩]

/-- A T-class instruction whose thread 0 is active and whose operands are in range puts its command at the end of the
tensor command queue; with thread 0 inactive it puts none; out of range it traps ILLEGAL, and with an operand queue empty
QUEUE_EMPTY, also while the queue is full or a fence holds it back; else it waits then (R89, R90, R112, R139, R184). -/
def Obligations.TensorInstructionsQueueCommands : Prop :=
  ∀ r ∈ tensorRows, ∀ (g : Gid) (f : RegForm) (s u : State),
    let i := gi g
    let x := u.slot i g.g
    let on := (u.active g f).getLsbD 0
    let fs := usedSrcs r.n f
    let v := fun n => tOperand u i g.g (fs.getD n unusedSrc) ((positions [] fs).getD n 0)
    let free := u.fenced i g.g = false ∧ (u.core i).tns.cmdq.length < 16
    enter g (encReg 3 r.op f) s = .ok u → (u.core i).inner = [] →
    (tForm r.n f r.mask && r.ok f && bindOk u i g.g fs none) = true →
      (on = false → free → exec (r.make g f) s = .next (commit g u)) ∧
      (on = false → ¬free → exec (r.make g f) s = .next u) ∧
      (∀ k, on = true → readySrcs u i g.g 1 fs = .empty k →
        exec (r.make g f) s = .next (trap i g.g k .queueEmpty x.pc u)) ∧
      (on = true → readySrcs u i g.g 1 fs = .stall → exec (r.make g f) s = .next u) ∧
      (on = true → readySrcs u i g.g 1 fs = .ok → r.cmd f u g (v 0) (v 1) = none →
        exec (r.make g f) s = .next (trap i g.g 0 .illegal x.pc u)) ∧
      (∀ c, on = true → readySrcs u i g.g 1 fs = .ok → r.cmd f u g (v 0) (v 1) = some c → ¬free →
        exec (r.make g f) s = .next u) ∧
      (∀ c, on = true → free → readySrcs u i g.g 1 fs = .ok → r.cmd f u g (v 0) (v 1) = some c →
        ∃ t, exec (r.make g f) s = .next t ∧
          (t.core i).tns.cmdq = (u.core i).tns.cmdq ++ [{ id := (u.core i).tns.nextId, slot := g.g, op := c }] ∧
          (t.core i).tns.acc = (u.core i).tns.acc ∧ (t.core i).tns.front = (u.core i).tns.front ∧
          (t.slot i g.g).pc = x.pc + 8 ∧ (t.slot i g.g).scal = x.scal ∧ (t.slot i g.g).pred = x.pred ∧
          QueuesPopped g fs 1 u t ∧ t.mem = u.mem)

/-- TLDT starts by taking the entries it needs from TB[QSEL], and completes once it has them all by filling the back
buffer; TSWAP exchanges the buffers once the loader and streamer are idle; a TRUN starts once the streamer is free
(R182, R188-R190). A row enters band 0 once the array is active, its entries have come and its accumulator rows are free:
it takes its bytes from TA[QSEL] and is counted; the oldest row in flight then updates its accumulator entries by the
command's mode (R176, R186, R187, R193-R199). -/
def Obligations.TensorTilesAndRows : Prop :=
  ∀ (c : Cid) (s : State),
    let i := ci c
    let t := (s.core i).tns
    s.down = false → s.coreRuns i = true → (s.core i).inner = [] →
      (∀ id slot n f q rest, t.cmdq = { id := id, slot := slot, op := .tldt n f q } :: rest → t.loading = none →
        let cmd : TCmd := { id := id, slot := slot, op := .tldt n f q }
        let need := tldtData n f + tldtScales (s.blkB i f) f
        let es := (s.core i).wide (.tb q)
        ∃ u, exec (.tldtStart c) s = .next u ∧ OnlyCore i s u ∧ (u.core i).wide (.tb q) = es.drop need ∧
          (u.core i).tns.loading = some { cmd := cmd, need := need, taken := es.take need } ∧
          (u.core i).tns.cmdq = rest ∧ (u.core i).tns.front = t.front ∧ (u.core i).tns.acc = t.acc ∧
          (u.core i).slots = (s.core i).slots) ∧
      (∀ ld n f q, t.loading = some ld → ld.need ≤ ld.taken.length → ld.cmd.op = .tldt n f q →
        ∃ u, exec (.tldtComplete c) s = .next u ∧
          TensorBecomes i (fun t => { t with loading := none, back := loadTile n f (s.blkB i f) ld.taken }) s u) ∧
      (∀ id slot rest, t.cmdq = { id := id, slot := slot, op := .tswap } :: rest → t.loading = none →
        t.streaming = none →
        ∃ u, exec (.tswapStart c) s = .next u ∧
          TensorBecomes i (fun t => { t with cmdq := rest, front := t.back, back := t.front }) s u) ∧
      (∀ cmd rest, t.cmdq = cmd :: rest → cmd.trun?.isSome → t.streaming = none →
        ∃ u, exec (.trunStart c) s = .next u ∧
          TensorBecomes i (fun t => { t with cmdq := rest, streaming := some { cmd := cmd } }) s u) ∧
      (∀ st a codes scales rest, t.streaming = some st → st.cmd.trun? = some a → t.ramp = .active →
        trunTake a (a.k t.front) (s.blkA i a.fmta) st.entered ((s.core i).wide (.ta a.qsel)) =
          some (codes, scales, rest) →
        (a.targets t.front st.entered).all (t.accFree st.cmd.id) = true →
        let row : RowFlight := ⟨st.cmd, st.entered, codes, scales, s.blkA i a.fmta, t.front⟩
        ∃ u, exec (.trunRowEnter c) s = .next u ∧ (u.core i).tns.rows = t.rows ++ [row] ∧
          (u.core i).wide (.ta a.qsel) = rest ∧
          (u.core i).tns.streaming =
            (if st.entered + 1 = a.count then none else some { st with entered := st.entered + 1 }) ∧
          (u.core i).tns.acc = t.acc ∧ (u.core i).slots = (s.core i).slots ∧
          u.liveAt (Reg.CORE_CNT_TROW c.s c.c) = min (s.liveAt (Reg.CORE_CNT_TROW c.s c.c) + 1) 0xFFFFFFFF ∧
          (∀ j, j ≠ i → u.core j = s.core j) ∧ u = { s with live := u.live, cores := u.cores }) ∧
      (∀ r rest a, t.rows = r :: rest → r.cmd.trun? = some a → t.tclr = none →
        ∃ u, exec (.trunRowUpdate c) s = .next u ∧ OnlyCore i s u ∧ (u.core i).tns.rows = rest ∧
          (u.core i).tns.acc = (({ t with rows := rest } : Tensor).applyRow (s.modeBit F.GCTL_MODE.PAIR) r a).acc ∧
          (u.core i).slots = (s.core i).slots)

/-- TDRN and TCLR start once the accumulator unit is free; a drain pushes up to two entries to TD[QSEL], folding them into
the digest while CORE_GLINT_SEL.EN is 1; a clear with no earlier update to come makes its rows fresh at once (R182,
R201, R202, R406). The activity ramp: ramp-up ends in the active array, an expired hold starts a ramp-down of 8 groups
and 4 cycles each, and ramp-down ends in the idle array; the cycles of a completed ramp are counted (R204, R205). -/
def Obligations.TensorDrainsAndRamps : Prop :=
  ∀ (c : Cid) (s : State),
    let i := ci c
    let t := (s.core i).tns
    s.down = false →
    (s.coreRuns i = true → (s.core i).inner = [] →
      (∀ id slot n r p q rest, t.cmdq = { id := id, slot := slot, op := .tdrn n r p q } :: rest → t.tdrn = none →
        t.tclr = none →
        ∃ u, exec (.tdrnStart c) s = .next u ∧ TensorBecomes i (fun t =>
          { t with cmdq := rest, tdrn := some ({ id := id, slot := slot, op := .tdrn n r p q }, 0) }) s u) ∧
      (∀ cmd n count row p q, t.tdrn = some (cmd, n) → cmd.op = .tdrn count row p q →
        t.pendingUpdate cmd.id (row + n / drainPer p) = false → ((s.core i).wide (.td q)).length < 15 →
        n + 2 ≤ drainPer p * count → t.pendingUpdate cmd.id (row + (n + 1) / drainPer p) = false →
        let pair := s.modeBit F.GCTL_MODE.PAIR
        ∃ u, exec (.tdrnPush c) s = .next u ∧ OnlyCore i s u ∧ (u.core i).slots = (s.core i).slots ∧
          (u.core i).wide (.td q) = (s.core i).wide (.td q) ++
            [t.drainEntry p pair (row + n / drainPer p) (n % drainPer p),
             t.drainEntry p pair (row + (n + 1) / drainPer p) ((n + 1) % drainPer p)] ∧
          (u.core i).tns.acc = t.acc ∧
          (s.flag (Reg.CORE_GLINT_SEL c.s c.c) F.CORE_GLINT_SEL.EN = false → (u.core i).glint = (s.core i).glint)) ∧
      (∀ id slot n r rest, t.cmdq = { id := id, slot := slot, op := .tclr n r } :: rest → t.tdrn = none →
        t.tclr = none → (∀ k, k < n → ({ t with cmdq := rest } : Tensor).pendingUpdate id (r + k) = false) →
        ∃ u, exec (.tclrStart c) s = .next u ∧ OnlyCore i s u ∧ (u.core i).tns.cmdq = rest ∧
          (u.core i).tns.tclr = none ∧ (u.core i).slots = (s.core i).slots ∧
          ∀ key, (u.core i).tns.accAt key =
            if 128 * r ≤ key ∧ key < 128 * (r + n) then AccEntry.reset else t.accAt key)) ∧
    (let ramps := fun (ins : Instr) (n : Nat) (f : Tensor → Tensor) =>
       ∃ u, exec ins s = .next u ∧ u.core i = { s.core i with tns := f t } ∧ (∀ j, j ≠ i → u.core j = s.core j) ∧
         u.liveAt (Reg.CORE_CNT_TRAMP c.s c.c) =
           (if n = 0 then s.liveAt (Reg.CORE_CNT_TRAMP c.s c.c)
             else min (s.liveAt (Reg.CORE_CNT_TRAMP c.s c.c) + n) 0xFFFFFFFF) ∧
         u = { s with live := u.live, cores := u.cores }
     (∀ n, t.ramp = .up n → s.coreRuns i = true → t.quiet = false → 0 < n →
       ramps (.arrayActive c) n fun t => { t with ramp := .active }) ∧
     (∀ n, t.ramp = .up n → s.coreRuns i = true → t.quiet = true → t.holding = false → 0 < n →
       ramps (.arrayActive c) n fun t => { t with ramp := .active, holding := true,
                                                  hold := s.fld (Reg.CORE_TNS_CTL c.s c.c) F.CORE_TNS_CTL.HOLD }) ∧
     (t.ramp = .active → t.holding = true → s.coreRuns i = true →
       ramps (.holdExpiry c) 0 fun t => { t with ramp := .down 32, holding := false }) ∧
     (∀ n, t.ramp = .down n → 0 < n → ramps (.arrayIdle c) n fun t => { t with ramp := .idle }))

/-! ### Cores: launch, instruction cache, numeric and memory configuration -/

/-- LAUNCH_JOB and LAUNCH_NOW arm an empty slot of a core that takes launches, in free or stopped state and with valid
bindings; refused they set BIND_ERR or LAUNCH_IGN and nothing else (R65, R67, R70, R77). ABANDON in free or stopped state
empties every slot of its core and drops its loads and requests; where no store of an issued instruction still waits, it
changes no other core, no memory and no register; in starting and job state it does nothing (R69). -/
def Obligations.SlotsLaunchAndEmpty : Prop :=
  (∀ (p : Path) (g : Gid) (s : State),
    let i := gi g
    let stat := Reg.CORE_STAT g.s g.c
    let free := s.noJob = true ∧ (s.slot i g.g).state = .empty ∧ s.coreLaunchable i = true
    let launches := fun (ins : Instr) (st : SlotState) =>
      (free → s.bindValid i g.g = true →
        ∃ t, exec ins s = .next t ∧ t.slot i g.g = { Slot.reset with state := st } ∧
          (∀ h, h ≠ g.g.val → t.slot i h = s.slot i h) ∧ OnlyCore i s t) ∧
      (free → s.bindValid i g.g = false → exec ins s = .next (s.setFlag stat F.CORE_STAT.BIND_ERR)) ∧
      (¬free → exec ins s = .next (s.setFlag stat F.CORE_STAT.LAUNCH_IGN))
    Accepts p (Reg.CORE_Gg_CTL g.s g.c g.g) s →
      launches (.launchJob p g) .armedJob ∧ launches (.launchNow p g) .armedNow) ∧
  (∀ (p : Path) (c : Cid) (s : State), Accepts p (Reg.CORE_CTL c.s c.c) s →
    (s.noJob = true → ∃ t, exec (.abandon p c) s = .next t ∧
      (∀ g, g < 8 → t.slot (ci c) g = if (s.slot (ci c) g).state = .empty then s.slot (ci c) g else Slot.reset) ∧
      (t.core (ci c)).loads = [] ∧ (t.core (ci c)).l1.miss = [] ∧ (t.core (ci c)).l1.waiting = [] ∧
      ((s.core (ci c)).l1.miss = [] → (s.core (ci c)).l1.waiting = [] →
        (∀ j, j ≠ ci c → t.core j = s.core j) ∧ t.mem = s.mem ∧ t.regs = s.regs)) ∧
    (s.noJob = false → exec (.abandon p c) s = .next s))

/-- CORE_NUM_CTL takes BLKA and BLKB with every slot empty or armed and no tensor command queued, neither at 0b11; else
IGN is set and nothing else changes (R157). CORE_SR_SEED takes a seed other than 0 and sets VALID while every slot is empty or
armed; else IGN (R171). CORE_MEM_CFG takes an L1SZ of at most 4 in free or stopped state with every slot empty or
armed, to take effect at the next boundary; else IGN (R213). -/
def Obligations.CoreConfigurationWrites : Prop :=
  ∀ (p : Path) (c : Cid) (v : Word32) (s : State),
    let i := ci c
    let num := Reg.CORE_NUM_CTL c.s c.c
    let mem := Reg.CORE_MEM_CFG c.s c.c
    let numOk := s.slotsIdle i && (s.core i).tns.cmdq.isEmpty && v.extractLsb' 0 2 != 3 && v.extractLsb' 2 2 != 3
    let seedOk := s.slotsIdle i && v.extractLsb' 0 16 != 0
    let memOk := s.noJob && s.slotsIdle i && decide (F.CORE_MEM_CFG.L1SZ.get v ≤ 4)
    (Accepts p num s →
      (numOk = true → ∃ t, exec (.coreNumCtlWrite p c v) s = .next t ∧
        RegBecomes num ((if v.getLsbD 31 then 0 else s.reg num &&& 0x80000000) ||| (v &&& 0xF)) s t) ∧
      (numOk = false → exec (.coreNumCtlWrite p c v) s = .next (s.setFlag num F.CORE_NUM_CTL.IGN))) ∧
    (Accepts p (Reg.CORE_SR_SEED c.s c.c) s →
      (seedOk = true → ∃ t, exec (.coreSrSeedWrite p c v) s = .next t ∧
        RegBecomes (Reg.CORE_SR_SEED c.s c.c) ((v &&& 0xFFFF) ||| 0x80000000) s t) ∧
      (seedOk = false → exec (.coreSrSeedWrite p c v) s = .next (s.setFlag num F.CORE_NUM_CTL.IGN))) ∧
    (Accepts p mem s →
      (memOk = true → ∃ t, exec (.coreMemCfgWrite p c v) s = .next t ∧
        t.fld mem F.CORE_MEM_CFG.L1SZ = F.CORE_MEM_CFG.L1SZ.get v ∧ t.flag mem F.CORE_MEM_CFG.PENDING = true ∧
        t.core i = { s.core i with l1szPend := some (F.CORE_MEM_CFG.L1SZ.get v) } ∧
        (∀ j, j ≠ i → t.core j = s.core j) ∧ (∀ a, a ≠ mem → t.reg a = s.reg a) ∧
        t = { s with regs := t.regs, cores := t.cores }) ∧
      (memOk = false → exec (.coreMemCfgWrite p c v) s = .next (s.setFlag mem F.CORE_MEM_CFG.IGN)))

/-- PRELOAD lists the LINES lines from ADDR to be loaded, 1 to 2,048 of them; UNPIN_ALL unpins every line and INVAL
empties the cache; each only while every slot is empty or armed and no preload runs, else IGN (R143, R144). A line a
group missed on is read and installed unpinned, so that the group finds it; its fetch is over. A preload does the same
with its next line, pinned as it was asked, unless 7 ways of its set are pinned, when it counts in UNPINNED; with no line
left it ends (R140, R141, R144). -/
def Obligations.InstructionCacheWorks : Prop :=
  (∀ (p : Path) (c : Cid) (pin : Bool) (s : State),
    let i := ci c
    let ctl := Reg.CORE_IC_CTL c.s c.c
    let stat := Reg.CORE_IC_STAT c.s c.c
    let n := s.fld (Reg.CORE_IC_PL_LEN c.s c.c) F.CORE_IC_PL_LEN.LINES
    let first := (s.reg (Reg.CORE_IC_PL_ADDR c.s c.c)).toNat * 2
    Accepts p ctl s →
      (s.icWritable i = true → 1 ≤ n → n ≤ 2048 → ∃ t, exec (.icPreload p c pin) s = .next t ∧
        t.core i = { s.core i with ic := { (s.core i).ic with
          preload := some ((List.range n).map (first + ·)), preloadPin := pin } } ∧
        t.fld stat F.CORE_IC_STAT.UNPINNED = 0 ∧ t.flag stat F.CORE_IC_STAT.ERR = false ∧
        (∀ j, j ≠ i → t.core j = s.core j) ∧ (∀ a, a ≠ ctl → a ≠ stat → t.reg a = s.reg a) ∧ t.mem = s.mem) ∧
      (s.icWritable i = true → ∃ t, exec (.icInval p c) s = .next t ∧
        t.core i = { s.core i with ic := ICache.reset } ∧ (∀ j, j ≠ i → t.core j = s.core j) ∧
        (∀ a, a ≠ ctl → t.reg a = s.reg a) ∧ t.mem = s.mem) ∧
      (s.icWritable i = true → ∃ t, exec (.icUnpinAll p c) s = .next t ∧
        (t.core i).ic.pinned = 0 ∧ (t.core i).ic.lines.map (·.1) = (s.core i).ic.lines.map (·.1) ∧
        (t.core i).slots = (s.core i).slots ∧ (∀ j, j ≠ i → t.core j = s.core j) ∧ t.mem = s.mem) ∧
      (s.icWritable i = false →
        exec (.icPreload p c pin) s = .next (s.setFlag stat F.CORE_IC_STAT.IGN) ∧
        exec (.icInval p c) s = .next (s.setFlag stat F.CORE_IC_STAT.IGN) ∧
        exec (.icUnpinAll p c) s = .next (s.setFlag stat F.CORE_IC_STAT.IGN))) ∧
  (∀ (c : Cid) (u : Upsets) (s : State),
    let i := ci c
    let x := upset u s
    s.down = false →
      (∀ (line : BitVec 33) (f : ICFetch) (tgt : Tgt) (d : List Byte) (v : State),
        let l := line.toNat
        (x.core i).ic.fetches.find? (fun f => f.line == l) = some f → x.l2Fetching (i / 16) l = false →
        x.coreRuns i = true → f.bad = none →
        (v.core i).ic.find (l * 128) = none → (v.core i).ic.pinnedIn (icSet (l * 128)) ≤ 7 →
        let w := updIc i (fun ic => { ic with fetches := ic.fetches.erase f }) x
        decodeFetch w (l * 128) = .ok tgt → readCodeLine i l w = (d, none, v) →
        ∃ t y, exec (.icacheFill c line u) s = .next t ∧ (t.core i).ic.find (l * 128) = some y ∧
          y.2.words = lineWords d ∧ y.2.pinned = false ∧ (t.core i).ic.fetches = (v.core i).ic.fetches ∧
          t = updIc i (fun _ => (t.core i).ic) v) ∧
      (∀ (l : Nat) (rest : List Nat),
        (x.core i).ic.preload = some (l :: rest) → x.preloadWaits i l = false →
        let w := updIc i (fun ic => { ic with preload := if rest.isEmpty then none else some rest }) x
        exec (.icPreloadLine c u) s = .next (preloadLine u (w.core i).ic.preloadPin i l w) ∧
        (∀ tgt, decodeFetch w (l * 128) = .ok tgt → 7 ≤ (w.core i).ic.pinnedIn (icSet (l * 128)) →
          preloadLine u (w.core i).ic.preloadPin i l w =
            w.bump (Reg.CORE_IC_STAT c.s c.c) F.CORE_IC_STAT.UNPINNED)) ∧
      ((x.core i).ic.preload = some [] →
        exec (.icPreloadLine c u) s = .next (updIc i (fun ic => { ic with preload := none }) x)))

/-! ### Stream engine -/

/-- Nothing of the cores, of memory as stored, or of any other channel's slot in its stack's table differs. -/
def ChannelOnly (k n : Nat) (s t : State) : Prop :=
  (∀ m, m ≠ n → t.chan k m = s.chan k m) ∧ (∀ j, j ≠ k → t.stk j = s.stk j) ∧ t.cores = s.cores ∧ t.mem = s.mem

/-- A doorbell starts an activation of an enabled idle channel of an admitted stack; while the channel is active it is
held, while it is halted or holds one already it is lost, and while ENABLE is 0 it does nothing. The tick timer does the
same once a tick, at its offset, which is missed where the tick is not that long (R244-R246). ABORT marks an active
channel, whose payload fails with ABORTED, CLEAR returns a halted one to idle, a write of HEAD while idle or halted also
sets CUR, and RSV takes at most 16 slots and 192 in all (R242, R246, R260, R261). -/
def Obligations.ChannelsAreTriggeredAndControlled : Prop :=
  (∀ (p : Path) (k : StackId) (n : ChanId) (s : State),
    let c := s.chan k n
    let ctl := Reg.STK_SE_CHn_CTL k n
    let starts := fun (ins : Instr) (timer : Bool) =>
      ∃ t, exec ins s = .next t ∧ (t.chan k n).phase = .fetch ∧ (t.chan k n).timer = timer ∧
        (t.chan k n).born = s.tick.bnd ∧ (t.chan k n).code = 0 ∧ ChannelOnly k n s t
    let inUse := s.stackAdmitted k = true ∧ (s.stk k).bonds.lost = false
    (Accepts p (Reg.STK_SE_CHn_DB k n) s →
      (s.flag ctl F.STK_SE_CHn_CTL.ENABLE = true → inUse → c.phase = .idle → c.held = none →
        s.waiting = false → starts (.seDoorbell p k n) false) ∧
      (s.flag ctl F.STK_SE_CHn_CTL.ENABLE = true → inUse → c.phase ≠ .halted → c.held = none →
        c.phase ≠ .idle ∨ s.waiting = true →
        exec (.seDoorbell p k n) s = .next (updChan k n (fun c => { c with held := some false }) s)) ∧
      (s.flag ctl F.STK_SE_CHn_CTL.ENABLE = true → ¬inUse ∨ c.phase = .halted ∨ c.held.isSome →
        exec (.seDoorbell p k n) s = .next (s.setFlag (Reg.STK_SE_CHn_STAT k n) F.STK_SE_CHn_STAT.TRIG_LOST)) ∧
      (s.flag ctl F.STK_SE_CHn_CTL.ENABLE = false → exec (.seDoorbell p k n) s = .next s)) ∧
    (s.down = false → s.fld ctl F.STK_SE_CHn_CTL.TRIG = 1 → c.fired = false → c.late = false →
      s.flag ctl F.STK_SE_CHn_CTL.ENABLE = true →
      let off := s.fld (Reg.STK_SE_CHn_TIMER k n) F.STK_SE_CHn_TIMER.OFFSET
      (inUse → c.phase = .idle → c.held = none → s.waiting = false → off < s.tick.period →
        starts (.seTimerTrigger k n) true) ∧
      (s.tick.period ≤ off → ∃ t, exec (.seTimerTrigger k n) s = .next t ∧
        t.flag (Reg.STK_SE_CHn_STAT k n) F.STK_SE_CHn_STAT.MISSED = true ∧
        t.chan k n = { c with late := true } ∧ ChannelOnly k n s t))) ∧
  (∀ (p : Path) (k : StackId) (n : ChanId) (hi : Bool) (v : Word32) (s : State),
    let c := s.chan k n
    let head := Reg.STK_SE_CHn_HEAD_LO k n
    let cur := Reg.STK_SE_CHn_CUR_LO k n
    let rsv := Reg.STK_SE_CHn_RSV k n
    let z := F.STK_SE_CHn_RSV.SLOTS.get v
    let others := (((List.range 32).filter (· != n.val)).map (s.rsv k)).sum
    (Accepts p (Reg.STK_SE_CHn_CTL k n) s →
      (c.phase = .fetch ∨ c.phase = .status ∨ c.phase = .own → ∃ t, exec (.seAbort p k n) s = .next t ∧
        t.chan k n = { c with abort := true } ∧ ChannelOnly k n s t) ∧
      (c.phase = .exec → ∃ t, exec (.seAbort p k n) s = .next t ∧ (t.chan k n).abort = true ∧
        (t.chan k n).code = (if c.code = 0 then 1 else c.code) ∧
        ((t.chan k n).phase = .exec ∨ (t.chan k n).phase = .status) ∧ ChannelOnly k n s t) ∧
      (c.phase = .idle ∨ c.phase = .halted → ∃ t, exec (.seAbort p k n) s = .next t ∧ t = { s with regs := t.regs }) ∧
      (c.phase = .halted → ∃ t, exec (.seClear p k n) s = .next t ∧
        t.chan k n = { c with phase := .idle } ∧ ChannelOnly k n s t) ∧
      (c.phase ≠ .halted → ∃ t, exec (.seClear p k n) s = .next t ∧ t = { s with regs := t.regs })) ∧
    (Accepts p (if hi then head + 4 else head) s →
      ∃ t, exec (.seHeadWrite p k n hi v) s = .next t ∧
        t.reg (if hi then head + 4 else head) = (if hi then v else v &&& 0xFFFFFFC0) ∧
        t.reg (if hi then head else head + 4) = s.reg (if hi then head else head + 4) ∧
        t.pair cur = (if c.phase = .idle ∨ c.phase = .halted then t.pair head else s.pair cur) ∧
        (∀ a, a ≠ head → a ≠ head + 4 → a ≠ cur → a ≠ cur + 4 → t.reg a = s.reg a) ∧
        t = { s with regs := t.regs }) ∧
    (Accepts p rsv s →
      (z ≤ 16 → others + z ≤ 192 → ∃ t, exec (.seRsvWrite p k n v) s = .next t ∧
        RegBecomes rsv (F.STK_SE_CHn_RSV.SLOTS.put (s.reg rsv) z) s t) ∧
      (16 < z ∨ 192 < others + z → exec (.seRsvWrite p k n v) s = .next s)))

/-- NOP, COPY, FILL, CHECK and SEND read their lists and run the descriptor of their own operation as far as it goes, and
leave any other alone; a NOP of the fixed form completes OK at once. FLUSH writes back, and with INV invalidates, the
lines of its range and nothing outside it, and completes; a GSET descriptor's request is granted, or fails the descriptor
with status 9 (R243, R250-R256). -/
def Obligations.ChannelOperationsRun : Prop :=
  (∀ (k : StackId) (n : ChanId) (u : Upsets) (s : State), s.down = false →
    let runs := fun (ins : Instr) (op : Nat) (x : State) =>
      ((x.chan k n).phase = .exec → (x.chan k n).desc.op = op →
        let v := seLists k n (seStart k n x)
        exec ins s = .next (moveStream k n (8 * (v.chan k n).total + 2048) v)) ∧
      ((x.chan k n).phase ≠ .exec ∨ (x.chan k n).desc.op ≠ op → exec ins s = .next x)
    runs (.seNop k n) 0 s ∧ runs (.seCopy k n u) 1 (upset u s) ∧ runs (.seFill k n) 2 s ∧
      runs (.seCheck k n u) 4 (upset u s) ∧ runs (.seSend k n u) 5 (upset u s)) ∧
  (∀ (k : StackId) (n : ChanId) (s : State),
    let c := s.chan k n
    s.down = false → c.phase = .exec → c.desc.op = 0 → c.desc.len = 0 → c.desc.crcm = 0 → c.desc.srcl = false →
    c.desc.dstl = false → c.desc.sqOn = false → c.desc.dqOn = false → s.seCanRun k n = true → c.running = false →
    c.code = 0 → c.abort = false → c.listing = false →
    c.srcPos = 0 → c.bursts = [] → c.qout = [] → c.srcList = [] → c.dstList = [] →
      ∃ t, exec (.seNop k n) s = .next t ∧ (t.chan k n).phase = .status ∧ (t.chan k n).code = 0 ∧ t.mem = s.mem) ∧
  (∀ (k : StackId) (n : ChanId) (s : State), s.down = false → (s.chan k n).phase = .exec →
    (let v := seStart k n s
     let d := (v.chan k n).desc
     (s.chan k n).desc.op = 3 → (v.chan k n).running = true → (v.chan k n).phase = .exec →
       exec (.seFlush k n) s = .next (seSettle k n (updChan k n (fun c => { c with srcPos := c.total })
         (l2FlushRange k (seHow k n v) (d.dst % 2 ^ 40) d.len (d.ctl 9) v)))) ∧
    (let c := s.chan k n
     c.code = 0 → c.abort = false → c.desc.ctl 16 = true → c.granted = false →
     ∀ v, (requestGuarantee (chMaster k n) c.desc.guar (gPoints k c.desc.gpoint) s = (true, v) →
         exec (.seGuaranteeRequest k n) s =
           .next (updChan k n (fun c => { c with granted := true, due := none }) v)) ∧
       (requestGuarantee (chMaster k n) c.desc.guar (gPoints k c.desc.gpoint) s = (false, v) →
         exec (.seGuaranteeRequest k n) s = .next (seFail k n 9 0 v))))

/-- Each engine issues one burst of the channel that the order of R243 chooses; a burst's data arrives and its write is
accepted by the burst's number; where no channel is ready, or no such burst is under way, nothing changes. -/
def Obligations.BurstsMove : Prop :=
  ∀ (k : StackId) (s : State), s.down = false →
    (∀ p n, s.choose k (s.stk k).lastRd (s.readReady k) = some (p, n) →
      exec (.seBurstRead k) s = .next (issueRead k n (seStart k n
        (updStk k (fun x => { x with lastRd := sset (fun _ => 31) x.lastRd p n }) s)))) ∧
    (s.choose k (s.stk k).lastRd (s.readReady k) = none → exec (.seBurstRead k) s = .next s) ∧
    (∀ p n, s.choose k (s.stk k).lastWr (s.writeReady k) = some (p, n) →
      exec (.seBurstWrite k) s = .next (issueWrite k n
        (updStk k (fun x => { x with lastWr := sset (fun _ => 31) x.lastWr p n }) s))) ∧
    (s.choose k (s.stk k).lastWr (s.writeReady k) = none → exec (.seBurstWrite k) s = .next s) ∧
    ∀ (n : ChanId) (id : Nat) (u : Upsets),
      let x := upset u s
      (∀ b, b ∈ (x.chan k n).bursts → b.id = id → ((x.chan k n).bursts.map (·.id)).Nodup →
        exec (.seBurstArrive k n id u) s = .next (burstArrive k n b x)) ∧
      (∀ b, b ∈ (s.chan k n).bursts → b.id = id → ((s.chan k n).bursts.map (·.id)).Nodup →
        exec (.seBurstAccept k n id) s = .next (burstAccept k n b s)) ∧
      ((∀ b ∈ (x.chan k n).bursts, b.id ≠ id) → exec (.seBurstArrive k n id u) s = .next x) ∧
      ((∀ b ∈ (s.chan k n).bursts, b.id ≠ id) → exec (.seBurstAccept k n id) s = .next s)

/-- A descriptor that comes with OWN at 1 and is well formed goes to execution; with OWN at 0 the activation ends; a
malformed one goes on with status MALFORMED; a refused or failed fetch halts the channel (R246, R257, R260). The status
write, once accepted, is followed by the OWN-clearing write; that, once accepted, counts the descriptor and ends the
activation, halts the channel, or fetches the next descriptor; either, refused, halts the channel with BUS_TIMEOUT
(R249, R257, R259, R260). The access that is due first times out: a fetch halts the channel with BUS_TIMEOUT and DETAIL
4, a status or OWN write with DETAIL 3, and a payload access fails its descriptor with DETAIL 1, 2 or 5 (R259). -/
def Obligations.DescriptorsAreFetchedAndEnd : Prop :=
  (∀ (k : StackId) (n : ChanId) (u : Upsets) (s v : State),
    let x := upset u s
    let c := v.chan k n
    let cur := v.pair (Reg.STK_SE_CHn_CUR_LO k n)
    s.down = false → (x.chan k n).phase = .fetch →
      (∀ (d : Desc) r, fetchAnswer k n x = (some (some d, r), v) → d.ctl 31 = true → c.abort = false →
        wellFormed v d = true →
        ∃ t, exec (.seDescFetch k n u) s = .next t ∧ (t.chan k n).phase = .exec ∧ (t.chan k n).desc = d ∧
          (t.chan k n).code = 0 ∧ (t.chan k n).done = c.done + 1 ∧ (t.chan k n).timer = c.timer ∧ ChannelOnly k n v t) ∧
      (∀ (d : Desc) r, fetchAnswer k n x = (some (some d, r), v) → d.ctl 31 = false →
        exec (.seDescFetch k n u) s = .next (if c.abort then haltCh k n 1 0 cur 0 v else endOk k n cur true v)) ∧
      (∀ (d : Desc) r, fetchAnswer k n x = (some (some d, r), v) → d.ctl 31 = true →
        c.abort = true ∨ wellFormed v d = false →
        ∃ t, exec (.seDescFetch k n u) s = .next t ∧ (t.chan k n).phase = .status ∧
          (t.chan k n).code = (if c.abort then 1 else 2)) ∧
      (∀ code detail, fetchAnswer k n x = (some (none, (code, detail)), v) →
        exec (.seDescFetch k n u) s = .next (haltCh k n code detail cur 0 v)) ∧
      (fetchAnswer k n x = (none, v) → exec (.seDescFetch k n u) s = .next v)) ∧
  (∀ (k : StackId) (n : ChanId) (s v : State), s.down = false →
    let c := s.chan k n
    (c.phase = .status →
      let far := match fabric s (s.pair (Reg.STK_SE_CHn_CUR_LO k n)) with | .far _ _ => true | _ => false
      let aborted := c.abort && c.code == 0
      let code := if aborted && !far then 1 else c.code
      let parts := [(4, leBytes 4 (code + 16 * c.detail + 2 ^ 15 + 2 ^ 16 * c.epoch)), (0x38, leBytes 8 c.result)]
      (dwriteAnswer k n parts s = (some true, v) → aborted = false ∨ far = false →
        exec (.seStatusWrite k n) s = .next (issueOwn k n (updChan k n (fun c => { c with code := code }) v))) ∧
      (dwriteAnswer k n parts s = (some true, v) → aborted = true → far = true →
        exec (.seStatusWrite k n) s = .next (issueStatus k n v)) ∧
      (dwriteAnswer k n parts s = (some false, v) → exec (.seStatusWrite k n) s = .next (dwriteFail k n v))) ∧
    (c.phase = .own →
      let cur := v.pair (Reg.STK_SE_CHn_CUR_LO k n)
      let w := updChan k n (fun c => { c with crcUnit := none }) (v.count (Reg.STK_SE_CHn_CNT_DESC k n))
      (dwriteAnswer k n [(0, leBytes 4 (c.desc.w 0 % 2 ^ 31))] s = (some true, v) → c.code ≠ 0 →
        exec (.seOwnWrite k n) s = .next (haltCh k n c.code c.detail cur 0 w)) ∧
      (dwriteAnswer k n [(0, leBytes 4 (c.desc.w 0 % 2 ^ 31))] s = (some true, v) → c.code = 0 →
        c.desc.ctl 8 = false → c.desc.glint = false →
        exec (.seOwnWrite k n) s = .next (
          if c.desc.ctl 7 = false then endOk k n c.desc.next false w
          else if c.done = c.budget then haltCh k n 5 0 c.desc.next 0 w
          else if c.abort then haltCh k n 1 0 c.desc.next 0 w
          else issueFetch k n (w.setPair (Reg.STK_SE_CHn_CUR_LO k n) (c.desc.next / 64 * 64)))) ∧
      (dwriteAnswer k n [(0, leBytes 4 (c.desc.w 0 % 2 ^ 31))] s = (some false, v) →
        exec (.seOwnWrite k n) s = .next (dwriteFail k n v)))) ∧
  (∀ (k : StackId) (n : ChanId) (s : State) (at_ : Nat) (b : Option Burst), s.down = false →
    let c := s.chan k n
    let v := s.advance at_
    c.firstDue = some (at_, b) →
      (c.phase = .fetch → exec (.seAccessTimeout k n) s =
        .next (haltCh k n 3 4 (v.pair (Reg.STK_SE_CHn_CUR_LO k n)) 0 v)) ∧
      (c.phase = .status ∨ c.phase = .own → exec (.seAccessTimeout k n) s = .next (dwriteFail k n v)) ∧
      (c.phase = .exec → b = none →
        exec (.seAccessTimeout k n) s = .next (seFail k n 3 (if c.listing then 1 else 5) v)) ∧
      (∀ x, c.phase = .exec → b = some x → exec (.seAccessTimeout k n) s =
        .next (seSettle k n (seFail k n 3 (if x.written then 2 else 1)
          (updChan k n (fun c => c.drop fun y => y.id == x.id) v)))))

/-- A halted channel: STATE, CODE and DETAIL say why, CUR names the descriptor, and the channel executes nothing more
until CLEAR; no other channel, no core and no memory changes (R260). -/
def Obligations.HaltKeepsItsReason : Prop :=
  ∀ (k : StackId) (n : ChanId) (code detail cur xcode : Nat) (s : State), code < 16 → detail < 16 → xcode < 16 →
    cur < 2 ^ 64 →
    let stat := Reg.STK_SE_CHn_STAT k n
    let t := haltCh k n code detail cur xcode s
    (t.chan k n).phase = .halted ∧ t.fld stat F.STK_SE_CHn_STAT.CODE = code ∧
      t.fld stat F.STK_SE_CHn_STAT.DETAIL = detail ∧ t.fld stat F.STK_SE_CHn_STAT.XCODE = xcode ∧
      t.pair (Reg.STK_SE_CHn_CUR_LO k n) = cur / 64 * 64 ∧ t.bit (Reg.STK_SE_IRQ_HALT k) n = true ∧
      (readReg .svc stat t).toNat % 4 = 2 ∧ ChannelOnly k n s t

/-! ### Ticks -/

/-- The boundary that is due opens: a free-mode one with the next index at the nominal end, and then the service
controller's work; boundary 0 of a job, or one inside a job, at the time its release names; a stopping boundary, where
the release carries the stop flag. A member that has no release 4 periods and 2 release latencies after the nominal end
stops by itself and reports the root (R46, R52, R54, R448). -/
def Obligations.BoundariesOpen : Prop :=
  ∀ (vin : Nat) (s : State), s.down = false →
    (s.boot.resetting = none →
      (s.freeDue = true → exec (.tickBoundary vin) s = .next (serviceBoundary
        (boundary .free s.nextFree s.nominalEnd (s.tick.pend.getD s.tick.period) vin s))) ∧
      (∀ r, s.tick.rel = some r → s.inStarting = true → r.time ≤ s.nominalEnd →
        exec (.tickBoundary vin) s = .next (boundary .job0 0 r.time r.period vin s)) ∧
      (∀ r, s.tick.rel = some r → s.inJob = true → r.stop = false →
        exec (.tickBoundary vin) s = .next (boundary .job r.index r.time r.period vin s))) ∧
    (∀ r, s.tick.rel = some r → s.inJob = true → r.stop = true →
      ∃ t, exec (.stoppingBoundary vin) s = .next t ∧ t = stopBoundary r s ∧ t.tickState = 3 ∧
        t.tick.restart = true ∧ t.tick.rel = none) ∧
    (s.inJob = true → s.tick.rel = none →
      let due := s.nominalEnd + 4 * s.tick.period + 2 * s.relLat
      let r : Release := { index := s.tick.index + 1, time := due, period := s.tick.period, stop := true, fault := true }
      exec .releaseLost s = .next (reportPkg s.rootPkg 0x04 3
        ((stopBoundary r s).setFlag Reg.TICK_STAT F.TICK_STAT.RELEASE_LOST)))

/-- READY, DONE and RELEASE: when the last member is ready the root sends the release of boundary 0, and when the last
is done the release of the next one, at the later of the nominal end and now plus the release latency; a member keeps
the release it hears from the root (R39, R40, R44, R45). PACKAGE_DONE sends the done message once, when every core and
channel is done, and TICK_OVERRUN is counted when the nominal end passes first (R41, R49). -/
def Obligations.TickMessagesAgree : Prop :=
  (∀ (l : InLink) (m : Msg) (s v : State),
    (TakesKind 0x13 0 l m s v → v.tickRoot = true → v.inStarting = true → v.tick.rel = none →
      let w := updTick (fun t => { t with ready := insertNat m.src t.ready }) v
      exec (.tickReady l) s = .next (
        if v.memberPkgs.all (insertNat m.src v.tick.ready).contains then
          formRelease { index := 0, time := v.edge + v.relLat, period := v.tick.pend.getD v.tick.period, stop := false } w
        else w)) ∧
    (TakesKind 0x13 1 l m s v → v.tickRoot = true → v.inJob = true → m.bodyAt 40 8 = v.tick.index → v.tick.rel = none →
      let done := insertNat m.src v.tick.done
      let bad := v.tick.badDone || m.bodyAt 60 1 % 2 == 1 || v.tick.invalid
      let atEnd := v.flag Reg.TICK_STOP_CTL F.TICK_STOP_CTL.END_EN && v.pair Reg.TICK_STOP_AT_LO == v.tick.index
      ∃ t, exec (.tickDone l) s = .next t ∧ t.tick.done = done ∧ t.regs = v.regs ∧ OutsideSame v t ∧
        t.tick.rel = if v.memberPkgs.all done.contains then
          some { index := v.tick.index + 1, time := max v.nominalEnd (v.edge + v.relLat),
                 period := v.tick.pend.getD v.tick.period, stop := v.flag Reg.TICK_CTL F.TICK_CTL.STOP || bad || atEnd,
                 invalid := bad, byEnd := atEnd }
        else none) ∧
    (TakesKind 0x13 2 l m s v → m.src = v.rootPkg → v.tick.rel = none →
      (v.inStarting = true ∧ m.bodyAt 40 8 = 0) ∨ (v.inJob = true ∧ m.bodyAt 40 8 = v.tick.index + 1) →
      let bits := m.bodyAt 60 1
      exec (.tickRelease l) s = .next { v with tick := { v.tick with rel := some {
        index := m.bodyAt 40 8, time := m.bodyAt 48 8, period := m.bodyAt 56 4,
        stop := bits.testBit 0, fault := bits.testBit 1, invalid := bits.testBit 2 } } })) ∧
  (∀ s : State, s.down = false → s.inJob = true → s.tick.doneSent = false →
    ((∀ e ∈ s.cores, s.coreDone e.1 = true) → s.seBusy = false →
      ∃ t, exec .packageDone s = .next t ∧ t.tick = { s.tick with doneSent := true } ∧
        t.flag Reg.TICK_STAT F.TICK_STAT.WAITING = true ∧ t.flag Reg.TICK_STAT F.TICK_STAT.OVERRUN = false ∧
        OutsideSame s t) ∧
    (s.tick.ovr = false →
      ∃ v, exec .tickOverrun s =
          .next (if s.flag Reg.TICK_CTL F.TICK_CTL.OVR_INT_EN then reportLocal 0 0 0x03 0 v else v) ∧
        v.tick = { s.tick with ovr := true } ∧ v.flag Reg.TICK_STAT F.TICK_STAT.OVERRUN = true ∧
        v.flag Reg.TICK_STAT F.TICK_STAT.OVR_SEEN = true ∧
        (v.reg Reg.TICK_OVR_CNT).toNat = min ((s.reg Reg.TICK_OVR_CNT).toNat + 1) 0xFFFFFFFF ∧ OutsideSame s v))

/-- A start that hears no release in 200 ms is given up by a member with reason 6, and after 100 ms without a READY by
the root, which reports each silent member; STATE returns to what it was (R45, R445). A root that misses a done message
4 periods after the nominal end, or is told of lost members, reports them and releases a stopping boundary with the
fault flag (R51, R350, R448). -/
def Obligations.StartsAndTicksFail : Prop :=
  (∀ s : State, s.down = false →
    let given := fun (v : State) => v.tickState = (if s.tick.fromFree then 0 else 3) ∧
      v.flag Reg.TICK_CTL F.TICK_CTL.START = false ∧ v.tick.rel = none ∧ v.tick.ready = [] ∧ OutsideSame s v
    let silent := s.memberPkgs.filter fun d => !s.tick.ready.contains d
    (s.inStarting = true → s.tick.rel = none →
      ∃ v, exec .startTimeout s = .next (reportLocal 0 0 0x0D 6 v) ∧ given v ∧
        v.fld Reg.GCTL_MEMB_STAT F.GCTL_MEMB_STAT.REASON = 6) ∧
    (s.inStarting = true → s.tickRoot = true → s.tick.rel = none → silent ≠ [] →
      ∃ v, exec .startAbandon s = .next (forEach silent (fun d s => reportPkg d 0x0D 7 s) v) ∧ given v) ∧
    (s.inJob = true → s.tickRoot = true → s.tick.rel = none →
      let v := s.advanceTb (64 * (s.nominalEnd + 4 * s.tick.period))
      exec .tickFaultTimeout s = .next (declareFault (forEach (v.memberPkgs.filter fun d => !v.tick.done.contains d)
        (fun d s => reportPkg d 0x04 1 s) v)))) ∧
  (∀ (l : InLink) (m : Msg) (s v : State), Takes 0x14 l m s v → v.inJob = true → v.tickRoot = true →
    let new_ := m.lossIds.dedup.filter fun d => v.memberPkgs.contains d && !v.tick.unreach.contains d
    exec (.loss l) s = .next (if new_ = [] then v else declareFault (forEach new_ (fun d s => reportPkg d 0x04 2 s)
      (updTick (fun t => { t with unreach := t.unreach ++ new_ }) v)))) ∧
  (∀ s : State, s.tick.rel = none → ∃ t, declareFault s = t ∧ OutsideSame s t ∧ t.regs = s.regs ∧
    t.tick.rel = some { index := s.tick.index + 1, time := s.edge + s.relLat, period := s.tick.pend.getD s.tick.period,
                        stop := true, fault := true, invalid := s.tick.badDone || s.tick.invalid })

/-- START of an accepted job clears the live sum of the job's energy and tells the root; STOP marks the coming boundary a
stopping one, at the root in a job; CNT_CLR clears both counters; TICK_PERIOD takes 250 to 2,048,000 units, pending, TICK_REL_LAT at least 8
outside a job; a freeze that begins holds the latched registers as they stand (R34, R42, R44, R49, R60). A TICK_IN edge
moves the timebase to the nearest multiple of the period (R37). -/
def Obligations.TickRegistersAct : Prop :=
  (∀ (p : Path) (v : Word32) (s : State),
    let ctl := Reg.TICK_CTL
    let snap := Reg.TICK_SNAP_CTL
    (Accepts p ctl s →
      (s.noJob = true → s.startReason = none → ∃ t, exec (.tickStart p) s = .next t ∧ t.tickState = 1 ∧
        t.flag ctl F.TICK_CTL.START = true ∧ t.power.eJob = 0 ∧ t.tick.startAt = s.now ∧
        t.tick.fromFree = (s.tickState == 0) ∧ t.tick.rel = none ∧ OutsideSame s t ∧
        ∀ a, a ≠ ctl → a ≠ Reg.TICK_STAT → t.reg a = s.reg a) ∧
      (s.tickRoot = true → s.inJob = true → ∃ t, exec (.tickStop p) s = .next t ∧
        RegBecomes ctl (s.reg ctl ||| 2) s t) ∧
      (∃ t, exec (.tickCntClr p) s = .next t ∧ t.reg Reg.TICK_OVR_CNT = 0 ∧ t.reg Reg.TICK_LATE_CNT = 0 ∧
        (∀ a, a ≠ Reg.TICK_OVR_CNT → a ≠ Reg.TICK_LATE_CNT → t.reg a = s.reg a) ∧ t = { s with regs := t.regs })) ∧
    (Accepts p Reg.TICK_PERIOD s →
      let u := (v.extractLsb' 0 21).toNat
      (250 ≤ u → u ≤ 2048000 → s.tickRoot = true ∨ s.inJob = false → ∃ t, exec (.tickPeriodWrite p v) s = .next t ∧
        t.tick = { s.tick with pend := some u } ∧ t.reg Reg.TICK_PERIOD = BitVec.ofNat 32 (u + 2 ^ 31) ∧
        (∀ a, a ≠ Reg.TICK_PERIOD → t.reg a = s.reg a) ∧ t = { s with regs := t.regs, tick := t.tick }) ∧
      (u < 250 ∨ 2048000 < u → exec (.tickPeriodWrite p v) s =
        .next (s.setFlag Reg.TICK_STAT F.TICK_STAT.PERIOD_ERR))) ∧
    (Accepts p Reg.TICK_REL_LAT s →
      let u := F.TICK_REL_LAT.UNITS.get v
      exec (.tickRelLatWrite p v) s =
        .next (if s.noJob && decide (8 ≤ u) then s.setFld Reg.TICK_REL_LAT F.TICK_REL_LAT.UNITS u else s)) ∧
    (Accepts p snap s →
      ∃ t, exec (.tickSnapFreeze p v) s = .next t ∧ t.bit snap 0 = v.getLsbD 0 ∧ t.bit snap 1 = v.getLsbD 1 ∧
        (let held : Frozen := { regs := s.regs, meas := s.meas, prev := s.roles.prev }
         t.frozenHost = (if v.getLsbD 0 then if s.bit snap 0 then s.frozenHost else some held else none) ∧
         t.frozenMgmt = (if v.getLsbD 1 then if s.bit snap 1 then s.frozenMgmt else some held else none)) ∧
        (∀ a, a ≠ snap → t.reg a = s.reg a) ∧
        t = { s with regs := t.regs, frozenHost := t.frozenHost, frozenMgmt := t.frozenMgmt })) ∧
  (∀ s : State, s.down = false → s.tickInRoot = true → 0 < s.tick.period →
    (∀ t0, s.lands.tickInAt = some t0 → t0 + usec 2 ≤ s.now) →
      ∃ t, exec .tickInEdge s = .next t ∧ t.tb % (64 * s.tick.period) = 0 ∧ 2 * (t.tb - s.tb) ≤ 64 * s.tick.period ∧
        2 * (s.tb - t.tb) ≤ 64 * s.tick.period ∧
        t = { s with tb := t.tb, lands := { s.lands with tickInAt := some s.now }, freeCtr := t.freeCtr })

/-- A member asks its partner for the time; the partner answers with the stamps and its own offset; the answer that was
waited for sets the offset and the round trip, and steps the timebase outside a job by an error over 256 ns or slews it
by at most 4 ns over the next interval; any other answer is dropped (R354, R355). -/
def Obligations.TimeSyncExchanges : Prop :=
  (∀ (s : State) (l : Nat), s.down = false → s.syncLink = some l →
    let v := if s.tsync.sentAt = 0 then s
      else s.advance (s.tsync.sentAt + usec (8 * s.fld Reg.LNK_TSYNC F.LNK_TSYNC.INTERVAL))
    let w := newTag 0x489 { v with tsync := { v.tsync with sentAt := v.now } }
    exec .tsyncInterval s = .next (queueOn l 0x489
      { w.2.newMsg 0x11 (s.fld (Reg.LNKp_PIDk (l / 4) (l % 4)) F.LNKp_PIDk.PKG) with tag := w.1 } w.2)) ∧
  (∀ (l : InLink) (m : Msg) (s v : State),
    (Takes 0x11 l m s v → l.val < 32 →
      let own := if v.flag Reg.TICK_CTL F.TICK_CTL.ROOT then 0 else v.tsync.offset
      let body := bodyPut 32 (m.bodyAt 32 8) + bodyPut 40 m.stamp + bodyPut 56 (bodyInt 4 own)
      let w := newTag 0x489 v
      exec (.tsyncReq l) s = .next (queueOn l 0x489 { w.2.newMsg 0x12 m.src with tag := w.1, body := body } w.2)) ∧
    (Takes 0x12 l m s v →
      let θ : Int := (((m.bodyAt 40 8 : Int) - m.bodyAt 32 8) - ((m.stamp : Int) - m.bodyAt 48 8)).tdiv 2
      (v.tsync.waiting = true → v.syncLink = some l.val → m.bodyAt 32 8 = v.tsync.t1 →
        ∃ t, exec (.tsyncRsp l) s = .next t ∧ t.tsync.waiting = false ∧
          t.tsync.offset = signedOf 32 (m.bodyAt 56 4) - θ ∧ OutsideSame v t ∧
          (v.inJob = false ∧ 2048 < θ.natAbs → t.tb = v.tb + θ.toNat ∧ t.tsync.slew = 0 ∧
            t.tsync.hold = v.tsync.hold + (-θ).toNat) ∧
          (v.inJob = true ∨ θ.natAbs ≤ 2048 → t.tb = v.tb ∧ t.tsync.hold = v.tsync.hold ∧
            t.tsync.slew = max (-32) (min 32 θ) ∧ t.tsync.left = t.tsync.span)) ∧
      (v.tsync.waiting = false → exec (.tsyncRsp l) s = .next v)))

/-! ### Bandwidth regulator -/

/-- A guarantee request is admitted when the master is listed and the point has the entry, the capacity and the sum for it, and
always when it asks for 0; admitted, it replaces that one guarantee, and refused it leaves every guarantee and sets
ADMIT_DENIED (R269, R270). At every 64 ns of the timebase each point fills its buckets, lets requests leave and compares
its occupancy with LEVEL (R272, R273). A point serves the request that R275 puts first, an HBM controller's only while it
may issue column commands (R367); a deadline already past then is a miss (R278), and so is a guarantee backlogged through
a whole window of the tick and short of its bytes (R277). -/
def Obligations.RegulatorAdmitsAndServes : Prop :=
  (∀ (p : Path) (v : Word32) (s : State), Accepts p Reg.BWR_GVAL s →
    let m := s.fld Reg.BWR_GSEL F.BWR_GSEL.MASTER
    let q := s.fld Reg.BWR_GSEL F.BWR_GSEL.POINT
    let g := (v.extractLsb' 0 11).toNat
    let x := s.point q
    let old := x.guarOf m
    let fits := g = 0 ∨ (g ≤ 1024 ∧ listed q m = true ∧ x.cap ≠ 0 ∧ (old ≠ 0 ∨ x.guar.length < 64) ∧
      (g ≤ old ∨ x.sum - old + g ≤ 1024))
    (fits → ∃ t, exec (.bwrGvalWrite p v) s = .next t ∧ (t.point q).guarOf m = g ∧
      (∀ n, n ≠ m → (t.point q).guarOf n = x.guarOf n) ∧ (∀ k, k ≠ q → t.point k = s.point k) ∧
      t.point q = { x with guar := (t.point q).guar } ∧ t = { s with points := t.points }) ∧
    (¬fits → ∃ t, exec (.bwrGvalWrite p v) s = .next t ∧ t.flag Reg.BWR_STAT F.BWR_STAT.ADMIT_DENIED = true ∧
      t.fld Reg.BWR_STAT F.BWR_STAT.DENY_POINT = q ∧ (∀ a, a ≠ Reg.BWR_STAT → t.reg a = s.reg a) ∧
      t = { s with regs := t.regs })) ∧
  (∀ s : State, s.down = false →
    (∃ t, exec .bwrFeedback s = .next t ∧
      t = { s.advanceTb ((s.tb / 512 + 1) * 512) with points := t.points } ∧
      ∀ q, t.point q = if q < 40 then
        (((s.point q).fill s.exact).leave (pointDepth q)).feedback (s.fld (Reg.BWR_Pp_CFG q) F.BWR_Pp_CFG.LEVEL)
        else s.point q) ∧
    (∀ (q : Fin 40) (r : BwrReq), (s.point q).next = some r →
      let x := s.point q
      let bytes := sget (fun _ => 0) x.served r.master + r.bytes
      let y : Point := { x with queue := x.queue.erase r, served := sset (fun _ => 0) x.served r.master bytes }
      let v := s.setPoint q (y.leave (pointDepth q)).backlogSettle
      let late := r.deadline.any fun d => decide (d < s.tb)
      let held := q.val < 8 ∧ s.colSlots q = 0
      (held → exec (.bwrRequestServe q) s = .next s) ∧
      (¬held → exec (.bwrRequestServe q) s = .next (if late then bwrMiss 1 r.master q v else v))) ∧
    (let w := 64 * s.tick.bnd + 8192 * (s.bwrWin + 1)
     (64 * s.nominalEnd < w → exec .bwrMissWindow s = .next s) ∧
     (w ≤ 64 * s.nominalEnd → ∃ t, exec .bwrMissWindow s = .next t ∧ OutsideSame s t ∧ t.links = s.links ∧
      t.bwrWin = s.bwrWin + 1 ∧
      ∀ q, q < 40 → t.point q = (s.point q).window ∧
        ∀ m, m ∈ (s.point q).backlog → m < 1184 →
          sget (fun _ => 0) (s.point q).served m + 2048 < (s.point q).guarOf m * (s.point q).cap / 10 →
          t.bit (Reg.BWR_MISSk (m / 32)) (m % 32) = true)))

/-! ### Memory -/

/-- The refresh multiplier's code after a reading of `t` degrees: up at 85 and 95, down at 82 and 92 (R239). -/
def refreshCode (old t : Nat) : Nat :=
  if 95 ≤ t then 2 else if old = 2 ∧ 92 < t then 2 else if 85 ≤ t then 1 else if old ≠ 0 ∧ 82 < t then 1 else 0

/-- A fill of a ready miss register goes to its waiters and into the L1, a stack L2's fetched line into its home slab while
the controller may issue column commands (R367), an acknowledged write-back leaves the core or the slab; a merge entry
that times out is written (R223-R225, R229, R284). Upsets that are delivered flip stored bits first (R281). A
reading of an HBM stack sets TEMP and the refresh multiplier and nothing else; a refresh changes nothing that can be
read (R239). -/
def Obligations.MemoryEventsArrive : Prop :=
  ∀ (c : Cid) (k : StackId) (slab : CoreId) (u : Upsets) (s : State), s.down = false →
    let x := upset u s
    (∀ n m, (x.core (ci c)).l1.miss.find? (fun y => y.id == n && y.fill && y.ready) = some m →
      exec (.l1Fill c n u) s = .next (l1Fill (ci c) m x)) ∧
    (∀ (line : BitVec 33) f,
      (x.stk k).l2.fetches.find? (fun y => y.slab == slab.val && y.line == line.toNat) = some f →
      exec (.l2Fill k slab line u) s = .next (if x.colSlots (hbmOf (128 * f.line)).1 = 0 then x else l2Fill k f x)) ∧
    exec (.l2WritebackAck k slab) s = .next (l2WbAck k slab s) ∧
    exec (.l1WritebackAck c) s = .next (l1WbAck (ci c) s) ∧
    (∀ m, exec (.hbmRefresh m) s = .next s) ∧
    (∀ (m : HbmId) (t : BitVec 8), ∃ v, exec (.hbmTempRead m t) s = .next v ∧
      v.fld (Reg.MCm_STAT m) F.MCm_STAT.TEMP = t.toNat ∧
      v.fld (Reg.MCm_STAT m) F.MCm_STAT.REF_MULT =
        refreshCode (s.fld (Reg.MCm_STAT m) F.MCm_STAT.REF_MULT) t.toNat ∧
      v.fld (Reg.MCm_STAT m) F.MCm_STAT.RATE = s.fld (Reg.MCm_STAT m) F.MCm_STAT.RATE ∧
      (∀ a, a ≠ Reg.MCm_STAT m → v.reg a = s.reg a) ∧ v = { s with regs := v.regs }) ∧
    (∀ (port : Fin 8) e rest, x.mergeBuf k (8 * slab.val + port.val) = e :: rest →
      exec (.mergeEntryTimeout k slab port u) s =
        .next (writeEntry e (setMergeBuf k (8 * slab.val + port.val) rest x)))

/-! ### Integrity -/

/-- The Mere scrubber reads the word at its position, which moves on by one: a word that was right stays, one that was
corrected is stored with right check bits, across the port's bonds, unless that read retired it; a plain uncorrectable
word stays, one of an L2 line drops the line, and a line without dirty bytes is fetched again (R290); a retired word is
skipped. The patrol scrubber reads its next line, or skips it, and writes a corrected line back, counted (R291). A device
count is kept, and with no rise logs nothing (R288). -/
def Obligations.ScrubbersRead : Prop :=
  (∀ (k : StackId) (u : Upsets) (s : State),
    let x := upset u s
    let p := (x.stk k).scrubPos
    let slab := p % 16
    let off := p / 16 * 8
    let v := updStk k (fun y => { y with scrubPos := (p + 1) % 134217728 }) x
    let w := (slabBase k slab + off) / 8
    let out := v.slabRetired k slab off || !(v.gate (16 * k + slab)).slabOn
    let f := flushWord w v
    s.down = false → x.fld (Reg.STK_MERE_SCRUB k) F.STK_MERE_SCRUB.PERIOD ≠ 0 → (x.stk k).bonds.lost = false →
      (out = true → exec (.mereScrubRead k u) s = .next v) ∧
      (∀ d code y, out = false → judgeCode 0 { scrub := true } w (f.rawWord w) (f.devAt w) f = (d, code, y) →
        (code = .clean → exec (.mereScrubRead k u) s = .next y) ∧
        (∀ bit, code = .corrected bit → exec (.mereScrubRead k u) s = .next (
          let z := crossing w (setRawWord w d 0 y)
          if y.slabRetired k slab off then y else flipWord w z.1 z.2)) ∧
        (code = .bad → f.storedAt k slab off = .plain → exec (.mereScrubRead k u) s = .next y) ∧
        (∀ key line o, code = .bad → f.storedAt k slab off = .line key line o →
          let drop := updStk k (fun q => { q with l2 := { q.l2 with lines := sdel q.l2.lines key } })
          exec (.mereScrubRead k u) s = .next (if line.dirty = 0 then l2Refetch k line.aclass line.line (drop y)
            else drop (poisonStore k slab line.dirtyBytes y))))) ∧
  (∀ (m : HbmId) (u : Upsets) (s : State),
    let x := upset u s
    let p := (x.mc m).patrol
    let v := x.setMc m { x.mc m with patrol := (p + 1) % 805306368 }
    let skip := v.bankOff m (64 * p) || (v.remaps m).any fun e => e.1 == p / 64
    let a := dramAddr m (64 * p)
    let r := readLine { scrub := true } a v
    s.down = false → x.fld (Reg.MCm_SCRUB m) F.MCm_SCRUB.HOURS ≠ 0 → x.hbmExcluded m = false →
      (skip = true → exec (.hbmPatrolRead m u) s = .next v) ∧
      (skip = false → r.2.1 = true ∨ (∀ i e, rsDecode (v.symsAt a) ≠ .corrected i e) →
        exec (.hbmPatrolRead m u) s = .next r.2.2) ∧
      (∀ i e, skip = false → r.2.1 = false → rsDecode (v.symsAt a) = .corrected i e →
        exec (.hbmPatrolRead m u) s =
          .next (setSyms a [] ((r.2.2.count (Reg.MCm_CNT_WR m)).setBytes a r.1)))) ∧
  (∀ (m : HbmId) (counts : List Nat) (s : State), s.down = false →
    ∃ t, exec (.hbmEcsPoll m counts) s = .next t ∧ OutsideSame s t ∧
      (∀ i, i < counts.length → sget (fun _ => 0) (t.mc m).ecs i = counts.getD i 0) ∧
      ((∀ i, i < counts.length → counts.getD i 0 ≤ sget (fun _ => 0) (s.mc m).ecs i) →
        t = { s with hbm := t.hbm }))

/-- The checker window writes and reads a stored word only in free or stopped state with CHK_EN at 1, else it sets IGN
(R292); so does the model on a word of a fenced region (its choice, log entry 83). A write of ERL_RD consumes the entries
up to it, or sets IGN where it names more than there are (R293). A write of STK_MERE_SCRUB restarts the pass. A granule
entry is written while invalid, retires its granule as VALID is set, and is cleared only outside a job (R301). A remap
entry takes VALID where neither page is in use or on a disabled bank, and loses it only outside a job, else IGN
is set (R303). Banks are disabled at once and enabled only outside a job (R304). A check-value unit takes a width of 8 to
64 and any other parameter as written (R307). RES takes 0 to 8 outside a job with every slot of the stack idle, from the
next boundary on, else IGN is set (R216). -/
def Obligations.IntegrityAndRepairRegistersAct : Prop :=
  (∀ (p : Path) (k : StackId) (v : Word32) (s : State),
    let chk := Reg.STK_MERE_CHK_CTL k
    let on := s.flag chk F.STK_MERE_CHK_CTL.CHK_EN
    (Accepts p chk s →
      (on = true → s.noJob = true → s.chkFenced k = false → ∃ w x,
        (∀ a, w.reg a = s.reg a) ∧ w = { s with regs := w.regs } ∧
        (∀ a, x.reg a = s.reg a) ∧ x = { s with regs := x.regs } ∧
        exec (.chkRawWrite p k) s = .next (rawWrite k w) ∧ exec (.chkRawRead p k) s = .next (rawRead k x)) ∧
      (on = false ∨ s.noJob = false ∨ s.chkFenced k = true → ∃ t w, exec (.chkRawWrite p k) s = .next t ∧
        exec (.chkRawRead p k) s = .next w ∧ RegBecomes chk (s.reg chk ||| 8) s t ∧ RegBecomes chk (s.reg chk ||| 8) s w)) ∧
    (Accepts p Reg.ERL_RD s →
      let n := (v.toNat % 65536 + 65536 - (s.reg Reg.ERL_RD).toNat) % 65536
      ∃ t, exec (.erlRdWrite p v) s = .next t ∧ OutsideSame s t ∧ (s.erlFill < n → t.erl = s.erl ∧
          t.reg Reg.ERL_STAT = s.reg Reg.ERL_STAT ||| 2 ∧ ∀ a, a ≠ Reg.ERL_STAT → t.reg a = s.reg a) ∧
        (n ≤ s.erlFill → t.reg Reg.ERL_RD = v &&& 0xFFFF ∧ ∀ a, a ≠ Reg.ERL_RD → t.reg a = s.reg a)) ∧
    (Accepts p (Reg.STK_MERE_SCRUB k) s →
      exec (.scrubPeriodWrite p k v) s =
        .next (updStk k (fun x => { x with scrubPos := 0 }) (s.setReg (Reg.STK_MERE_SCRUB k) (v &&& 0xFF)))) ∧
    (∀ i : Fin 64, Accepts p (Reg.STK_MERE_GRETi k i) s →
      let a := Reg.STK_MERE_GRETi k i
      let old := s.reg a
      let x := v &&& 0x80003FFF
      let slab := F.STK_MERE_GRETi.SLAB.get
      let gran := F.STK_MERE_GRETi.GRAN.get
      (old.getLsbD 31 = false → exec (.granuleRetireWrite p k i v) s = .next (
        if v.getLsbD 31 then l2RetireGranule k (slab x) (gran x) (s.setReg a x) else s.setReg a x)) ∧
      (old.getLsbD 31 = true → exec (.granuleRetireWrite p k i v) s = .next (
        if x = 0 ∧ s.noJob = true then
          updStk k (fun y => { y with granLeaving := y.granLeaving ++ [(slab old, gran old)] }) (s.setReg a 0)
        else s)))) ∧
  (∀ (p : Path) (v : Word32) (s : State),
    (∀ (m : HbmId) (i : Fin 256), Accepts p (Reg.MCm_REMAPi_HI m i) s →
      let a := Reg.MCm_REMAPi_HI m i
      let x := v &&& 0x80FFFFFF
      let from_ := s.fld (Reg.MCm_REMAPi_LO m i) F.MCm_REMAPi_LO.FROM
      let dest := F.MCm_REMAPi_HI.TO.get x
      let used := fun q => (s.remaps m).any fun e => e.1 == q || e.2 == q
      let clash := used from_ || used dest || from_ == dest || s.bankOff m (4096 * from_) || s.bankOff m (4096 * dest)
      let ign := s.setFlag (Reg.MCm_BANK_DIS_HI m) F.MCm_BANK_DIS_HI.IGN
      (v.getLsbD 31 = true → exec (.remapWrite p m i v) s = .next (if clash then ign else s.setReg a x)) ∧
      (v.getLsbD 31 = false → (s.reg a).getLsbD 31 = false →
        exec (.remapWrite p m i v) s = .next (s.setReg a x)) ∧
      (v.getLsbD 31 = false → (s.reg a).getLsbD 31 = true → s.noJob = false →
        exec (.remapWrite p m i v) s = .next ign) ∧
      (v.getLsbD 31 = false → (s.reg a).getLsbD 31 = true → s.noJob = true →
        exec (.remapWrite p m i v) s = .next ((s.setMc m { s.mc m with remapsLeaving :=
          (s.mc m).remapsLeaving ++ [(from_, F.MCm_REMAPi_HI.TO.get (s.reg a))] }).setReg a x))) ∧
    (∀ (m : HbmId) (hi : Bool), Accepts p (if hi then Reg.MCm_BANK_DIS_HI m else Reg.MCm_BANK_DIS_LO m) s →
      let a := if hi then Reg.MCm_BANK_DIS_HI m else Reg.MCm_BANK_DIS_LO m
      let mask : Word32 := if hi then 0xFFFF else 0xFFFFFFFF
      let ok := s.noJob = true ∨ s.reg a &&& mask &&& ~~~v = 0
      ∃ t, exec (.bankDisableWrite p m hi v) s = .next t ∧ OutsideSame s t ∧
        (ok → t.reg a &&& mask = v &&& mask) ∧
        (¬ok → t.reg a &&& mask = (s.reg a ||| v) &&& mask ∧
          t.flag (Reg.MCm_BANK_DIS_HI m) F.MCm_BANK_DIS_HI.IGN = true) ∧
        (∀ b, b ≠ a → b ≠ Reg.MCm_BANK_DIS_HI m → t.reg b = s.reg b) ∧ ∀ n, n ≠ m.val → t.mc n = s.mc n) ∧
    (∀ (u : Fin 56) (r : Fin 8), u.val < 48 → Accepts p (Reg.CRC_u_CFG u + 4 * r.val) s →
      let w := (v.extractLsb' 0 7).toNat
      (r = 0 → exec (.crcCfgWrite p u r v) s = .next (
        if 8 ≤ w ∧ w ≤ 64 then s.setReg (Reg.CRC_u_CFG u) (v &&& 0x1FF)
        else s.setFlag (Reg.CRC_u_STAT u) F.CRC_u_STAT.IGN)) ∧
      (2 ≤ r.val → exec (.crcCfgWrite p u r v) s = .next (s.setReg (Reg.CRC_u_CFG u + 4 * r.val) v))) ∧
    (∀ k : StackId, Accepts p (Reg.STK_MERE_SPLIT k) s →
      let a := Reg.STK_MERE_SPLIT k
      let z := (v.extractLsb' 0 4).toNat
      let ok := s.noJob = true ∧ (∀ c, c < 16 → s.slotsIdle (16 * k + c) = true) ∧ z ≤ 8
      (ok → ∃ t, exec (.mereSplitWrite p k v) s = .next t ∧ t.fld a F.STK_MERE_SPLIT.RES = z ∧
        t.flag a F.STK_MERE_SPLIT.PENDING = true ∧ (t.stk k).l2 = { (s.stk k).l2 with resPend := some z } ∧
        (∀ b, b ≠ a → t.reg b = s.reg b) ∧ t.cores = s.cores ∧ t.mem = s.mem) ∧
      (¬ok → exec (.mereSplitWrite p k v) s = .next (s.setFlag a F.STK_MERE_SPLIT.IGN))))

/-! ### Vertical bonds -/

/-- A loopback test starts outside a job with none under way, else IGN is set; as it ends, every bond that failed is in
the dead-bond table, and FAIL tells of new ones (R312, R313). A control copy that disagrees is masked once and reported; a signal
that loses its majority loses its stack, whose cores and slabs go off, and no other stack's (R320). The repair record that
is due is written (R319). -/
def Obligations.BondsAreTestedAndLost : Prop :=
  ∀ (p : Path) (k : StackId) (slab : CoreId) (port : Fin 8) (s : State),
    let lb := Reg.STK_BOND_LB k
    let u := (s.stk k).bonds
    (Accepts p lb s →
      (s.noJob = true → u.loop = none → exec (.bondLoopback p k slab port) s =
        .next (updBonds k (fun u => { u with loop := some (slab.val, port.val) })
          (s.setReg lb ((s.reg lb &&& 0xC00) ||| BitVec.ofNat 32 (slab.val + 16 * port.val))))) ∧
      (s.noJob = false ∨ u.loop.isSome = true → exec (.bondLoopback p k slab port) s =
        .next (s.setFlag lb F.STK_BOND_LB.IGN))) ∧
    (s.down = false →
      (∀ c q (fails : List (Nat × Nat)), u.loop = some (c, q) →
        ∃ t, exec (.loopbackDone k fails) s = .next t ∧ (t.stk k).bonds.loop = none ∧
          (∀ g n, (g, n) ∈ fails → g / 72 = q → n < 34 → ((t.stk k).bonds.deadEntry ⟨c, g, n⟩).isSome = true) ∧
          ((∀ g n, (g, n) ∈ fails → g / 72 = q → n < 34 → (u.deadEntry ⟨c, g, n⟩).isSome = true) →
            t = (updBonds k (fun u => { u with loop := none }) s).setFlag lb F.STK_BOND_LB.FAIL false)) ∧
      (∀ (sig : Fin 6552) (copy : Fin 3), u.lost = false →
        (sget (fun _ => none) u.masked sig = none →
          exec (.ctrlCopyMask k sig copy) s = .next (reportLocal 1 k 0x06 2 (updBonds k (fun u =>
            { u with masked := sset (fun _ => none) u.masked sig (some copy.val) }) s))) ∧
        (∀ x, sget (fun _ => none) u.masked sig = some x →
          exec (.ctrlCopyMask k sig copy) s = .next s ∧
          ∃ t, exec (.stackLost k sig) s = .next t ∧ (t.stk k).bonds.lost = true ∧
            t.flag (Reg.STK_BOND_STAT k) F.STK_BOND_STAT.STACK_LOST = true ∧
            (∀ c, c < 16 → (t.gate (16 * k + c)).coreOn = false ∧ (t.gate (16 * k + c)).slabOn = false) ∧
            (∀ j, j / 16 ≠ k → t.core j = s.core j ∧ t.gate j = s.gate j) ∧ (∀ j, j ≠ k.val → t.stk j = s.stk j) ∧
            t.mem = s.mem)) ∧
      (∀ due, s.boot.recDue = some due → exec (.repairRecordWrite true) s = .next (writeRecord s)))

/-! ### Ozmond Link -/

/-- Link l becomes `x`, and nothing else of the package differs but what `t` says of its time. -/
def LinkBecomes (l : Nat) (x : Link) (s t : State) : Prop :=
  t.link l = x ∧ (∀ j, j ≠ l → t.link j = s.link j) ∧ t = { s with links := t.links, now := t.now, tb := t.tb, tsync := t.tsync }

/-- Links train as R326 says: DETECT to TRAIN with the widest lane set, TRAIN to ALIGN or to the next narrower set (R327) and,
with none left, to DOWN, ALIGN to IDENT, and DOWN after 10 ms to DETECT or DISABLED. A port that is enabled lets its disabled links
detect, one that is disabled takes its links with it, and RETRAIN sends every link to DOWN (R325, R326). A link that
is lost starts over in DOWN with nothing of what it held (R328). -/
def Obligations.LinksTrainAndFall : Prop :=
  (∀ (l : LinkId) (s : State), s.down = false →
    let x := s.link l
    let p := l.val / 4
    let sets := laneSets (16 / s.linksOf p)
    let narrow := s.flag (Reg.LNKp_CTL p) F.LNKp_CTL.DEGRADE_EN && s.degradeOn l
    (x.state = .detect → s.lands.intOsc = false → ∃ t, exec (.linkDetect l) s = .next t ∧ t.now = s.now ∧
      LinkBecomes l { x with state := .train, since := s.now, tryLanes := sets.headD [],
                             tries := if narrow then sets.tail else [] } s t) ∧
    (x.state = .train → ∃ t, exec (.linkTrainDone l) s = .next t ∧ t.now = s.now ∧
      LinkBecomes l { x with state := .align, since := s.now, lanes := x.tryLanes.length, tries := [] } s t) ∧
    (∀ set rest, x.state = .train → x.tries = set :: rest → ∃ t, exec (.linkTrainFail l false) s = .next t ∧
      t.now = s.now ∧ LinkBecomes l { x with since := s.now, tryLanes := set, tries := rest } s t) ∧
    (∀ bad, x.state = .train → x.tries = [] →
      exec (.linkTrainFail l bad) s = .next (linkLeave l .down false (if bad then splitErr p s else s))) ∧
    (x.state = .align → ∃ t, exec (.linkAligned l) s = .next t ∧ t.now = s.now ∧
      LinkBecomes l { x with state := .ident, since := s.now, identAt := s.now, identLeft := 1, lastGood := s.now }
        s t) ∧
    (x.state = .down → ∃ t, exec (.linkDownExpiry l) s = .next t ∧ t.now = max s.now (x.since + 80000000) ∧
      LinkBecomes l { x with state := if s.portOn p && s.linkExists l then .detect else .disabled, since := t.now }
        s t) ∧
    (x.state = .active → ∃ t, exec (.linkLoss l) s = .next t ∧
      t.link l = { Link.reset with state := .down, since := s.now, lost := true } ∧
      (∀ e ∈ t.inbox, e.1 ≠ l.val) ∧ OutsideSame s t)) ∧
  (∀ (p : Path) (port : Fin 8) (v : Word32) (s : State) (l : Nat), Accepts p (Reg.LNKp_CTL port) s →
    s.boot.exclPorts.contains port.val = false → l / 4 = port → l % 4 < s.linksOf port →
    (v.getLsbD 4 = false → ∃ t, exec (.linkCtlWrite p port v) s = .next t ∧ t.portOn port = v.getLsbD 0 ∧
      OutsideSame s t ∧
      (s.portOn port = false → v.getLsbD 0 = true → (s.link l).state = .disabled →
        t.link l = { s.link l with state := .detect, since := s.now }) ∧
      (s.portOn port = true → v.getLsbD 0 = false → (t.link l).state = .disabled)) ∧
    (∃ t, exec (.linkRetrain p port) s = .next t ∧ t.portOn port = s.portOn port ∧ OutsideSame s t ∧
      (t.link l).state = .down))

/-- An IDENT goes out in IDENT and, while some are due, on an ACTIVE link, acknowledging the partner's if it has come (R329); a
received one is kept in the port's registers, or, with no revision in common, makes the link INCOMPAT (R330); a link at both
ends of which an identity with ACKED has come is ACTIVE (R326, R329). A write of a route entry's high half stages the entry
with the low half held for it and leaves the entry in force alone (R349). -/
def Obligations.LinksIdentify : Prop :=
  (∀ (l : LinkId) (s : State), s.down = false →
    (s.link l).state = .ident ∨ ((s.link l).state = .active ∧ (s.link l).identLeft ≠ 0) →
      let v := newTag 0x489 (s.advance (s.link l).identAt)
      let m : Msg := { v.2.newMsg 0x10 0xFFF with tag := v.1, body := v.2.identBody l }
      exec (.identSend l) s = .next (updLink l (fun x =>
        { x with queue := x.queue ++ [m], identAt := v.2.now + 8000, identLeft := x.identLeft - 1 }) v.2)) ∧
  (∀ (l : InLink) (m : Msg) (s v : State), Takes 0x10 l m s v → l.val < 32 →
    (v.link l).state = .ident ∨ (v.link l).state = .active →
      exec (.ident l) s = .next (takeIdent l m v) ∧
      (min (m.bodyAt 43 1) (v.fld Reg.LNK_REV F.LNK_REV.MAX) < max (m.bodyAt 42 1) (v.fld Reg.LNK_REV F.LNK_REV.MIN) →
        ((takeIdent l m v).link l).state = .incompat)) ∧
  (∀ (l : LinkId) (s : State), (s.link l).state = .ident → (s.link l).gotAcked = true → (s.link l).sentAcked = true →
    ((linkActivate l s).link l).state = .active) ∧
  (∀ (p : Path) (d : Fin 4096) (v : Word32) (s : State), Accepts p (Reg.LNK_RTd_HI d) s →
    let lo := (sget (fun _ => none) s.routeLo d).getD (s.reg (Reg.LNK_RTd_LO d))
    ∃ t, exec (.routeStage p d v) s = .next t ∧
      sget (fun _ => none) t.routeStaged d = some (lo.toNat, (v &&& 0x3F).toNat) ∧
      sget (fun _ => none) t.routeLo d = none ∧ t.regs = s.regs ∧
      (∀ n, n ≠ d.val → sget (fun _ => none) t.routeStaged n = sget (fun _ => none) s.routeStaged n))

/-- A link that frames sends a frame of 16 slots with its own sequence number, the number of the last frame it accepted, its NAK
and its credits, held for replay unless null (R333-R338), or an earlier frame that is due again (R336). A frame that fails
its checks draws a NAK, and so does one out of sequence; the expected one is taken in flit by flit (R334-R336, R339). -/
def Obligations.FramesCarryFlits : Prop :=
  ∀ (l : LinkId) (s : State), s.down = false →
    let x := s.link l
    let p := l.val / 4
    (x.state.framed = true → (x.resend.findSome? fun q => x.replay.find? fun f => f.2.seq == q) = none →
      ∃ t f, exec (.frameSend l) s = .next t ∧ (t.link l).last = some f ∧ f.slots.length = 16 ∧ f.seq = x.nextSeq ∧
        f.ackseq = (x.expect + 65535) % 65536 ∧ f.nak = x.nakDue ∧ f.credit = x.freed ∧
        f.crc = f.check (s.crcPkg l (s.fld (Reg.LNKp_PIDk p (l.val % 4)) F.LNKp_PIDk.PKG)) ∧
        (t.link l).nakDue = false ∧ (t.link l).nextSeq = (if f.null then x.nextSeq else (x.nextSeq + 1) % 65536) ∧
        (t.link l).replay = (if f.null then x.replay else x.replay ++ [(s.now, f)]) ∧ OutsideSame s t) ∧
    (∀ at_ f, x.state.framed = true →
      (x.resend.findSome? fun q => x.replay.find? fun f => f.2.seq == q) = some (at_, f) →
      sget (fun _ => 0) x.replays f.seq < 7 →
      ∃ t g, exec (.frameSend l) s = .next t ∧ (t.link l).last = some g ∧ g.slots = f.slots ∧ g.seq = f.seq ∧
        (t.link l).nextSeq = x.nextSeq ∧ OutsideSame s t) ∧
    (∀ (fr : Frame) (fixed : Nat) (bad : Bool), x.state.framed = true →
      let good := !bad && s.crcFits l fr
      let v := linkActivate l (takeTrailer l fr (s.count (Reg.LNKp_CNT_FECC p) fixed))
      let flits := fr.slots.filterMap id
      (good = false → ∃ t, exec (.frameReceive l fr fixed bad) s = .next t ∧ OutsideSame s t ∧
        t.liveAt (Reg.LNKp_CNT_CRC p) = min (s.liveAt (Reg.LNKp_CNT_CRC p) + 1) 0xFFFFFFFF ∧
        t.link l = if x.nakWait then x else { x with nakWait := true, nakAt := s.now, nakDue := true }) ∧
      (good = true → fr.null = true → exec (.frameReceive l fr fixed bad) s = .next v) ∧
      (good = true → fr.null = false → fr.seq ≠ x.expect →
        exec (.frameReceive l fr fixed bad) s = .next (startNak l v)) ∧
      (good = true → fr.null = false → fr.seq = x.expect →
        exec (.frameReceive l fr fixed bad) s = .next (forEach flits (takeFlit l) ((updLink l (fun x =>
          { x with expect := (x.expect + 1) % 65536, nakWait := false, nakDue := false }) v).count
            (Reg.LNKp_CNT_RXFLIT p) flits.length)))) ∧
    (∀ f rest, x.replay = f :: rest → ∃ t, exec (.replayTimeout l) s = .next t ∧
      LinkBecomes l { x with resend := x.replay.map (·.2.seq) } s t) ∧
    (x.nakWait = true → ∃ t, exec (.nakResend l) s = .next t ∧ t.now = max s.now (x.nakAt + 2048) ∧
      LinkBecomes l { x with nakAt := t.now, nakDue := true } s t)

/-- A WRITE or SEND that is not refused is stored, counted in the claim queues and acknowledged; a READ is answered with its
data; a refused one draws a NACK with its reason, and one at a refused address is captured (R31, R341, R342, R351). RDRESP, ACK and
NACK go to the channel whose tag they carry (R340, R341). A message for another package goes on with one hop less, or is
dropped and counted with none left (R347); one of a reserved type is dropped and counted (R340). -/
def Obligations.MessagesAreServed : Prop :=
  (∀ (l : InLink) (u : Upsets) (m : Msg) (s v : State),
    let mst := ingressMaster l
    let writes := fun (type : Nat) (ins : Instr) => Takes type l m s v →
      (∀ r, v.refuseReason m = some r → exec ins s = .next (sendNack l r m v)) ∧
      (∀ e, v.refuseReason m = none → v.ingressErr m.addr m.data.length = some e →
        exec ins s = .next (refuseAddr l e m v)) ∧
      (v.refuseReason m = none → v.ingressErr m.addr m.data.length = none → exec ins s = .next (sendAck l m
        (claimArrive m.addr m.data.length (directStore mst m.addr m.data (v.msgDeadline m) v))))
    writes 1 (.linkWrite l) ∧ writes 4 (.linkSend l) ∧
    (Takes 2 l m s v → v.refuseReason m = none → v.ingressErr m.addr m.len = none →
      ∀ bytes bad w, directLoad mst m.addr m.len (v.msgDeadline m) (upset u v) = (bytes, bad, w) →
        exec (.linkRead l u) s = .next (if bad then sendNack l 5 m w else
          sendMsg { w.newMsg 3 m.src with tag := m.tag, len := bytes.length, data := bytes } w (some mst))) ∧
    (∀ r, Takes 2 l m s v → v.refuseReason m = some r → exec (.linkRead l u) s = .next (sendNack l r m v)) ∧
    (Takes 3 l m s v → m.tag % 2048 < 0x300 → exec (.rdresp l) s =
      .next (seRdresp (m.tag % 2048 / 32) (m.tag % 32) m.tag m.data (bitOf m.body 0) v)) ∧
    (let tag := m.bodyAt 36 4
     (Takes 5 l m s v → tag % 2048 < 0x300 →
       exec (.ack l) s = .next (seAck (tag % 2048 / 32) (tag % 32) tag v)) ∧
     (Takes 6 l m s v → tag % 2048 < 0x300 →
       exec (.nack l) s = .next (seNack (tag % 2048 / 32) (tag % 32) tag (m.bodyAt 32 1) (m.bodyAt 34 2) v)))) ∧
  (∀ (l : InLink) (m : Msg) (s v : State), s.down = false →
    (takeMsg l (fun m => !s.mine m) s = some (m, v) →
      (m.hops = 0 → exec (.messageForward l) s = .next (v.count (Reg.LNKp_CNT_HOPDROP (portOfLink l)))) ∧
      (m.hops ≠ 0 →
        exec (.messageForward l) s = .next (sendMsg { m with hops := m.hops - 1 } v (some (ingressMaster l)))) ∧
      (∀ e, m.hops ≠ 0 → v.route m.dst = .link e → v.typeOn e m.type = true →
        let q := 8 + e / 4
        let asks := !bypasses m.type && listed q (ingressMaster l)
        ∃ t, exec (.messageForward l) s = .next t ∧ OutsideSame v t ∧
          (t.link e).queue = (v.link e).queue ++
            [{ m with hops := m.hops - 1, deadline := if v.featOn e 2 then m.deadline else 0,
                      req := if asks then some (v.point q).seen else none }])) ∧
    (takeMsg l (fun m => s.mine m && !knownType m.type) s = some (m, v) →
      exec (.reservedTypeMessage l) s = .next (v.count (Reg.LNKp_CNT_BADMSG (portOfLink l)))))

/-! ### Power -/

/-- CORE_PWR_CTL is judged as a whole: a core goes off only outside a job with every slot empty, a slab only with its core, and
nothing of a lost stack comes back; a core that goes off keeps its L1 size and digests, and of its contents nothing else, and
the domains that come back wait their turn (R360). A slab that has closed goes off with no line left in the L2, and the domain a stack was turning
on comes on, reading zero (R236, R360). -/
def Obligations.DomainsGoOffAndOn : Prop :=
  ∀ (p : Path) (c : Cid) (v : Word32) (s : State),
    let i := ci c
    let a := Reg.CORE_PWR_CTL c.s c.c
    let g := v.getLsbD 0
    let b := v.getLsbD 1
    let idle := !(s.core i).anySlot fun x => x.state != .empty
    let refused := (g && !s.bit a 0 && !(idle && s.noJob)) || (b && !g) || !s.stackLive c.s
    (Accepts p a s →
      (refused = true → exec (.corePwrGate p c v) s = .next (s.setFlag a F.CORE_PWR_CTL.IGN)) ∧
      (refused = false → ∃ t, exec (.corePwrGate p c v) s = .next t ∧ t.bit a 0 = g ∧ t.bit a 1 = b ∧
        t.mem = s.mem ∧ t.stks = s.stks ∧ (∀ j, j ≠ i → t.core j = s.core j ∧ t.gate j = s.gate j) ∧
        (∀ r, r ≠ a → t.reg r = s.reg r) ∧
        (g = true → s.bit a 0 = false → (t.gate i).coreOn = false ∧ t.core i = { Core.reset with
          l1sz := (s.core i).l1sz, l1szPend := (s.core i).l1szPend, glint := (s.core i).glint,
          nextLoad := (s.core i).nextLoad, l1 := { L1.reset with nextMiss := (s.core i).l1.nextMiss } }) ∧
        (¬(g = true ∧ s.bit a 0 = false) → t.core i = s.core i ∧ (t.gate i).coreOn = (s.gate i).coreOn) ∧
        (b = true → s.bit a 1 = false → (t.gate i).slabClosing = (s.gate i).slabOn) ∧
        (g = false → s.bit a 0 = true → (false, c.c.val) ∈ t.staged c.s) ∧
        (b = false → s.bit a 1 = true → (s.gate i).slabOn = false → (true, c.c.val) ∈ t.staged c.s))) ∧
    (s.down = false → (s.gate i).slabClosing = true → ∃ t, exec (.slabPowerOff c) s = .next t ∧
      (t.gate i).slabOn = false ∧ (t.gate i).slabClosing = false ∧ (t.gate i).coreOn = (s.gate i).coreOn ∧
      (∀ j, j ≠ i → t.gate j = s.gate j) ∧
      ∀ key, key / 32 / 16384 = c.c → sget (fun _ => none) (t.stk c.s).l2.lines key = none) ∧
    (∀ (k : StackId) n rest, s.down = false → n < 16 →
      let j := 16 * k.val + n
      let w := setStaged k rest s
      (s.staged k = (true, n) :: rest → ∃ t, exec (.domainPowerOn k) s = .next t ∧ (t.gate j).slabOn = true ∧
        t.staged k = rest ∧ t.cores = s.cores ∧ ∀ x, x < 0x4000000 → t.byteAt (slabBase k n + x) = 0) ∧
      (s.staged k = (false, n) :: rest → exec (.domainPowerOn k) s =
        .next (coreReturn j (setGate j { w.gate j with coreOn := true } w))))

/-- A stack above its allowance is held back and leaves at 95 % of it; a package above its cap, or drawing over 1,500 A, holds
every live stack back (R369). A regulator moves its output toward its target by at most 8 mV a sample, and one that is off puts
out none (R358); a clamp engages more than 30 mV below target, is counted, and releases after 16 ns within 10 mV, and the
core's clock skips from more than 50 mV below target to within 30 mV (R359). Leakage is evaluated for every domain at its
voltage and temperature (R370). -/
def Obligations.PowerIsSupervised : Prop :=
  ∀ (s : State), s.down = false →
    (∀ (k : StackId) (mw : Nat),
      let above := s.allowOf k < mw * s.power.allowDen
      let v := { s with power := { s.power with hold := insertNat k s.power.hold } }
      exec (.stackHoldback k mw) s = .next (shadeHold k (if above then holdCount k v else s)) ∧
      exec (.holdbackExit k mw) s = .next (if 100 * mw * s.power.allowDen ≤ 95 * s.allowOf k then
        holdCount k { s with power := { s.power with hold := s.power.hold.filter (· != k.val) } } else s)) ∧
    (∀ mw ma : Nat, exec (.packageHoldback mw ma) s = .next (if 1000 * s.capEff < mw ∨ 1500000 < ma then
      pwrEvt F.PWR_EVT.HOLD (forEach (List.range 24) holdCount
        { s with power := { s.power with hold := (List.range 24).filter s.stackLive } }) else s)) ∧
    (∀ k, ∃ t, holdCount k s = t ∧ t = { s with power := { s.power with holdFrom := t.power.holdFrom }, live := t.live } ∧
      (sget (fun _ => none) t.power.holdFrom k).isSome = (s.power.hold.contains k || s.power.shaded.contains k) ∧
      ∀ b, sget (fun _ => none) s.power.holdFrom k = some b → t.liveAt (Reg.STK_CNT_HOLD k) =
        min (s.liveAt (Reg.STK_CNT_HOLD k) + s.cyclesIn (s.now - b)) 0xFFFFFFFF) ∧
    (∀ (d : Fin 816) (sensors : List Nat), sensors ≠ [] →
      let old := sget (fun _ => 0) s.power.vout d
      ∃ t, exec (.regulatorSample d sensors) s = .next t ∧
        t = { s with power := { s.power with vout := t.power.vout } } ∧
        (∀ e, e ≠ d.val → sget (fun _ => 0) t.power.vout e = sget (fun _ => 0) s.power.vout e) ∧
        ((s.domain d).1 = false → sget (fun _ => 0) t.power.vout d = 0) ∧
        ((s.domain d).1 = true → sget (fun _ => 0) t.power.vout d ≤ old + 8 ∧
          old ≤ sget (fun _ => 0) t.power.vout d + 8 ∧
          ((∀ v ∈ sensors, v = (s.domain d).2) → sget (fun _ => 0) t.power.vout d = old) ∧
          ((∃ v ∈ sensors, v < (s.domain d).2) → old < sget (fun _ => 0) t.power.vout d))) ∧
    (∀ (c : Cid) (sensors : List Nat), (s.domain (ci c)).1 = true →
      let i := ci c
      let target := (s.domain i).2
      let on := s.power.clamped.contains i = true
      let engages := ¬on ∧ ∃ v ∈ sensors, v + 30 < target
      let calm := ∀ v ∈ sensors, target ≤ v + 10 ∧ v ≤ target + 10
      let since := sget (fun _ => none) s.power.calmFrom i
      let skips := sget (fun _ => none) s.power.skipFrom i
      let clamps := Reg.CORE_CNT_CLAMP c.s c.c
      let skipped := Reg.CORE_CNT_STRETCH c.s c.c
      ∃ t, exec (.shuntClamp c sensors) s = .next t ∧
        (i ∈ t.power.clamped ↔ engages ∨ (on ∧ ¬(calm ∧ ∃ b, since = some b ∧ b + 128 ≤ s.now))) ∧
        (on → sget (fun _ => none) t.power.calmFrom i = if calm ∧ (∀ b, since = some b → s.now < b + 128) then
          some (since.getD s.now) else none) ∧
        t.liveAt clamps = (if engages then min (s.liveAt clamps + 1) 0xFFFFFFFF else s.liveAt clamps) ∧
        sget (fun _ => none) t.power.skipFrom i = (if skips.isSome then
            if ∀ v ∈ sensors, target ≤ v + 30 then none else skips
          else if ∃ v ∈ sensors, v + 50 < target then some s.now else none) ∧
        (∀ b, skips = some b → (∀ v ∈ sensors, target ≤ v + 30) →
          t.liveAt skipped = min (s.liveAt skipped + s.cyclesIn (s.now - b)) 0xFFFFFFFF) ∧
        (∀ j, j ≠ i → (j ∈ t.power.clamped ↔ j ∈ s.power.clamped)) ∧
        t = { s with live := t.live, power := { s.power with clamped := t.power.clamped, calmFrom := t.power.calmFrom,
                                                             skipFrom := t.power.skipFrom } }) ∧
    (∃ t, exec .leakageEval s = .next t ∧ t.power.leakFrom = s.now ∧
      t = { s with power := { s.power with leak := t.power.leak, leakJ := t.power.leakJ, leakFrom := t.power.leakFrom } } ∧
      (∀ d, d < 816 → sget (fun _ => 0) t.power.leak d =
        if (s.domain d).1 then Config.leakage d (s.domain d).2 (s.domainTemp d) else 0) ∧
      (swf (fun _ => 0) s.power.leak = true → ∀ d, sget (fun _ => 0) t.power.leakJ d =
        sget (fun _ => 0) s.power.leakJ d + sget (fun _ => 0) s.power.leak d * (s.now - s.power.leakFrom)))

/-- A member sends one REPORT a tick to the root, and the coordinator keeps the last it has from each (R375). A round takes at
most eight receivers, each with a present report, a need and too little slack, and asks for DECs; its second phase gives no more
than the pool holds (R376). A member holds a DEC or INC for the boundary it names, or notes that it came late (R378). -/
def Obligations.PowerIsLent : Prop :=
  (∀ (s : State), s.down = false →
    (∀ l, s.inJob = true → s.power.reported = false → s.canSend s.rootPkg 3 = true →
      let v := { s with power := { s.power with reported := true } }
      exec (.lendReport true l) s =
        .next (sendControl { s.newMsg 0x15 s.rootPkg with body := v.lendReport s.power.vinMv } v).2) ∧
    (s.coordinator = true → (∀ r, s.power.round = some r → r.bound ≠ s.tick.index + 1) →
      ∃ t r, exec .lendRound s = .next t ∧ t.power.round = some r ∧ r.bound = s.tick.index + 1 ∧ r.phase2 = false ∧
        r.recv.length ≤ 8 ∧ t.power.pool = -(((s.members.map (·.2)).dedup.map s.deltaOf).sum) ∧
        (∀ d n, (d, n) ∈ r.recv → ∃ x, s.freshReport d = some x ∧ x.need = n ∧ 0 < n ∧
          256 * x.slack < (s.fld Reg.PWR_LEND_CFG F.PWR_LEND_CFG.LO * (8 * s.tick.period) : Nat)) ∧ OutsideSame s t) ∧
    (∀ r, s.power.round = some r → r.phase2 = false → s.coordinator = true → r.bound = s.tick.index + 1 →
      ∃ t, exec .lendPhase2 s = .next t ∧ t.power.round = some { r with phase2 := true } ∧
        t.power.pool ≤ s.power.pool ∧ (0 ≤ s.power.pool → 0 ≤ t.power.pool) ∧ OutsideSame s t)) ∧
  (∀ (l : InLink) (m : Msg) (s v : State), v.refuseReason m = none →
    (TakesKind 0x15 1 l m s v → exec (.lendReport false l) s =
      .next (sendAck l m { v with power := { v.power with
        reports := sset (fun _ => none) v.power.reports m.src (some (reportOf m)),
        incSent := sdrop (· == m.src) v.power.incSent } })) ∧
    (let b := m.bodyAt 40 8
     let x := some (b, signedOf 16 (m.bodyAt 52 2))
     let late := pwrEvt F.PWR_EVT.LATE v
     (TakesKind 0x15 2 l m s v → exec (.lendDec l) s = .next (sendAck l m (
       if b ≤ v.tick.index then late else { v with power := { v.power with dec := x } }))) ∧
     (TakesKind 0x15 3 l m s v → exec (.lendInc l) s = .next (sendAck l m (
       if b ≤ v.tick.index then late else { v with power := { v.power with inc := x } })))))

/-! ### Thermal -/

/-- The dies a sample of unit i reads: of a stack pair, of a Shore-M or of a Shore-L. -/
def diesOf (i : Nat) : List Nat := if i < 24 then [i, i + 24] else [i + 24]

/-- A sample moves its unit's level by the rules of R388 at the highest reading of its dies, or shuts the package down at
118 degrees (R384, R388, R391), as a diode does while a cold reset is held (R381, R392). A reading of an HBM stack does the same
at its own thresholds, and the third failed readout in a row sets level 4 (R385, R390). A calibration moves all offsets of a
die by the same step of at most a quarter degree, and by none where the oscillators nearest the diode agree with it (R382). -/
def Obligations.TemperaturesAct : Prop :=
  (∀ (i : Fin 40) (reads : List DieRead) (s : State), s.thermal.shut = false → s.lands.vinOk = true → s.down = true →
    reads.length = (diesOf i).length →
    ∃ t, exec (.thermalSample i reads) s = .next t ∧ OutsideSame s t ∧ t.regs = s.regs ∧
      ∀ d r, (d, r) ∈ (diesOf i).zip reads → (s.die d).diodeBad = false → 472 ≤ r.diode → r.diode ≤ 600 →
        t.thermal.shut = true) ∧
  (∀ (i : Fin 40) (reads : List DieRead) (s : State), s.down = false → s.lands.vinOk = true →
    reads.length = (diesOf i).length →
    let v := forEach ((diesOf i).zip reads) (fun (d, r) s => sampleDie d r s) s
    let t0 := ((diesOf i).map fun d => (v.die d).reading).foldl max (v.die ((diesOf i).headD 0)).reading
    (472 ≤ t0 → ∃ t, exec (.thermalSample i reads) s = .next t ∧ t.thermal.shut = true ∧ t.pcie.up = false ∧
      t.down = true ∧ OutsideSame s t) ∧
    (t0 < 472 → ∃ t, exec (.thermalSample i reads) s = .next t ∧
      t.lv i = (s.lv i).sample 420 400 (msec 1) s.now t0 ∧ (∀ j, j ≠ i.val → t.lv j = s.lv j) ∧
      (i.val < 24 → (s.lv i).level = 0 → (t.lv i).level = 1 → t.flag Reg.THM_EVT F.THM_EVT.THROTTLE = true) ∧
      OutsideSame s t)) ∧
  (∀ (m : HbmId) (s : State), s.down = false →
    let lv := 40 + m.val
    (∀ t0 : Int, t0 < 440 → ∃ t, exec (.hbmThermalRead m (some t0)) s = .next t ∧
      t.lv lv = (s.lv lv).sample 400 380 (msec 10) s.now t0 ∧ sget (fun _ => 0) t.thermal.hbmTemp m = t0 ∧
      sget (fun _ => 0) t.thermal.hbmFails m = 0 ∧ OutsideSame s t) ∧
    (∀ t0 : Int, 440 ≤ t0 → ∃ t, exec (.hbmThermalRead m (some t0)) s = .next t ∧ t.thermal.shut = true ∧
      OutsideSame s t) ∧
    (sget (fun _ => 0) s.thermal.hbmFails m < 2 → ∃ t, exec (.hbmThermalRead m none) s = .next t ∧
      sget (fun _ => 0) t.thermal.hbmFails m = sget (fun _ => 0) s.thermal.hbmFails m + 1 ∧
      t = { s with thermal := { s.thermal with hbmFails := t.thermal.hbmFails } }) ∧
    (2 ≤ sget (fun _ => 0) s.thermal.hbmFails m → ∃ t, exec (.hbmThermalRead m none) s = .next t ∧
      (t.lv lv).level = 4 ∧ sget (fun _ => 0) t.thermal.hbmFails m = 3 ∧ OutsideSame s t)) ∧
  (∀ (d : Fin 64) (r : DieRead) (s : State), s.down = false →
    let v := markBroken d r s
    let near := (v.oscReads d r).filter fun o => decide (o.1 < 2) && !(v.die d).broken.contains o.1
    let possible := (v.die d).diodeBad = false ∧ (v.die d).boot.isSome = true ∧ near ≠ []
    (¬possible → exec (.sensorCalibration d r) s = .next v) ∧
    (possible → ∃ t step, exec (.sensorCalibration d r) s = .next t ∧ -2 ≤ step ∧ step ≤ 2 ∧
      t = { v with thermal := { v.thermal with dies := t.thermal.dies } } ∧
      (∀ j, j < oscCount d → sget (fun _ => 0) (t.die d).offs j = sget (fun _ => 0) (v.die d).offs j + step) ∧
      (∀ j, oscCount d ≤ j → sget (fun _ => 0) (t.die d).offs j = sget (fun _ => 0) (v.die d).offs j) ∧
      ((∀ o ∈ near, v.oscEighths d o.1 o.2 = 2 * r.diode) → step = 0)))

/-! ### Claim queues and stop points -/

/-- A core of a dynamic queue that takes claims gets the next item, the last of which re-arms the queue; a queue that is not in
use returns NONE, and so does one to a core that is not among its own, with NOTCORE set (R395, R396, R400). CFG, CORES and
BASE are written outside a job with SZ at most 10, which re-arms the queue, else IGN is set; so does a REARM (R400). At the K-th
instruction of the counted slot the core's groups halt with HIT and INVALID set, and once it has drained, or is late, its
digests are copied (R410, R411). -/
def Obligations.ClaimsAndStopsAct : Prop :=
  (∀ (p : Path) (k : StackId) (q r : Fin 4) (core : Fin 17) (v : Word32) (s : State),
    let n := s.claimN k q
    let x := s.claimQ k q
    let cfg := Reg.STK_CLAIMq_CFG k q
    let stat := Reg.STK_CLAIMq_STAT k q
    let open_ := n ≠ 0 ∧ s.stackExcluded k = false ∧ s.stackAdmitted k = true ∧ s.stackLive k = true
    let member := core.val = 16 ∨ bitOf (s.fld (Reg.STK_CLAIMq_CORES k q) F.STK_CLAIMq_CORES.CORES) core = true
    (s.down = false →
      (open_ → member → s.exact = false → s.flag cfg F.STK_CLAIMq_CFG.KIND = false → x.returned < n →
        ∃ t, exec (.claimTake k q core) s = .next t ∧ t.answer = .data (leBytes 4 x.returned) ∧
          (t.claimQ k q).returned = (if x.returned + 1 = n then 0 else x.returned + 1) ∧ t.regs = s.regs ∧
          (∀ j, j ≠ q.val → t.claimQ k j = s.claimQ k j) ∧ t.cores = s.cores ∧ t.mem = s.mem) ∧
      (¬open_ → ∃ t, exec (.claimTake k q core) s = .next t ∧ t.answer = .data (leBytes 4 0x80000000) ∧
        t.claimQ k q = x ∧ OutsideSame s t) ∧
      (core.val < 16 → ¬member → ∃ t, exec (.claimTake k q core) s = .next t ∧ t.answer = .data (leBytes 4 0x80000000) ∧
        t.flag stat F.STK_CLAIMq_STAT.NOTCORE = true ∧ t.claimQ k q = x ∧ OutsideSame s t)) ∧
    (Accepts p stat s → ∃ t, exec (.claimRearm p k q) s = .next t ∧ t.claimQ k q = ClaimQ.reset ∧
      (∀ a, t.reg a = s.reg a) ∧ (∀ j, j ≠ q.val → t.claimQ k j = s.claimQ k j) ∧ t.cores = s.cores ∧ t.mem = s.mem) ∧
    (Accepts p (cfg + 4 * r.val) s →
      let ok := s.noJob = true ∧ (r.val = 0 → (v.extractLsb' 1 4).toNat ≤ 10)
      let m : Word32 := if r.val = 0 then 0xFFFF001F else if r.val = 1 then 0xFFFF else
        if r.val = 2 then 0xFFFFFFC0 else 0xFF
      (ok → exec (.claimCfgWrite p k q r v) s = .next (claimRearm k q (s.setReg (cfg + 4 * r.val) (v &&& m)))) ∧
      (¬ok → exec (.claimCfgWrite p k q r v) s = .next (s.setFlag stat F.STK_CLAIMq_STAT.IGN)))) ∧
  (∀ (c : Cid) (s : State), s.down = false →
    let i := ci c
    let ctl := Reg.CORE_STOP_CTL c.s c.c
    (∀ (g : Gid) (next : BitVec 40), gi g = i → s.stopOn i = true → s.fld ctl F.CORE_STOP_CTL.SLOT = g.g →
      (s.core i).stopCount + 1 = (s.reg (Reg.CORE_STOP_CNT c.s c.c)).toNat →
        ((commitTo g next s).core i).stopNow = true ∧
        (commitTo g next s).pair (Reg.CORE_STOP_PC_LO c.s c.c) = (s.slot i g.g).pc.toNat) ∧
    ((s.core i).stopNow = false → exec (.coreStopHit c) s = .next s) ∧
    ((s.core i).stopNow = true → ∃ t, exec (.coreStopHit c) s = .next t ∧
      t.flag ctl F.CORE_STOP_CTL.HIT = true ∧ t.flag Reg.TICK_STAT F.TICK_STAT.INVALID = true ∧
      (t.core i).stopNow = false ∧ (t.core i).stopDrain = true ∧
      (∀ g, g < 8 → (t.slot i g).state = (if (s.slot i g).state = .running ∨ (s.slot i g).state = .tickWait then .halted
        else (s.slot i g).state)) ∧
      (∀ j, j ≠ i → t.core j = s.core j) ∧ (∀ a, a ≠ ctl → a ≠ Reg.TICK_STAT → t.reg a = s.reg a) ∧ t.mem = s.mem) ∧
    (∀ late : Bool, (s.core i).stopDrain = true → s.coreDrained i = true ∨ late = true →
      ∃ t, exec (.glintSnapshot c late) s = .next t ∧ (t.core i).stopDrain = false ∧
        (∀ k, k < 16 → t.pair (Reg.CORE_GLINT_STOPk_LO c.s c.c k) =
          (sget (fun _ => 0) (s.core i).kept k + sget (fun _ => 0) (s.core i).glint k).toNat) ∧
        (s.coreDrained i = false → t.flag ctl F.CORE_STOP_CTL.PARTIAL = true) ∧
        (t.core i).glint = (s.core i).glint ∧ (∀ j, j ≠ i → t.core j = s.core j) ∧ t.mem = s.mem))

/-! ### Resets -/

/-- A cold reset leaves every register at its reset value, the two that tell the grade apart, and no memory, core, stack or
link as it was, and keeps fuses, flash and lands (R412, R485-R488); configuration space names the device and the grade
(R456); the thermal latch holds through it until THERMTRIP clears (R391, R490). A warm reset from READY or FAILED starts
bring-up again with every core empty, the scratch arrays zero and the generation one higher; by its land it holds until the
release (R412, R413, R441, R489). A compute-only reset from READY empties the cores (R413). From a group, or where it is not
accepted, either does nothing. -/
def Obligations.ResetsClearAndRestart : Prop :=
  (∀ s : State,
    let cleared := fun (t : State) => t.down = true ∧ t.mem = [] ∧
      (∀ a, a ≠ Reg.GCTL_ID → a ≠ Reg.PWR_CAP → t.reg a = regReset a) ∧
      (s.fuses.gradeE = false → t.regs = []) ∧
      (s.fuses.gradeE = true → t.flag Reg.GCTL_ID F.GCTL_ID.GRADE = true ∧ t.fld Reg.PWR_CAP F.PWR_CAP.CAP = 2200) ∧
      t.pcie.ident = { vendor := 0x1FA5, device := 0x0064, revision := t.fld Reg.GCTL_ID F.GCTL_ID.STEPPING,
                       classCode := 0x120000, subVendor := 0x1FA5,
                       subsystem := if s.fuses.gradeE then 0x0E01 else 0x0A01 } ∧
      t.sram = [] ∧ t.cores = [] ∧ t.stks = [] ∧ t.hbm = [] ∧ t.links = [] ∧ t.points = [] ∧ t.inbox = [] ∧
      t.boot.flash = s.boot.flash ∧ t.boot.image = none ∧ t.fuses = s.fuses ∧ t.pending = s.pending
    (∀ cause : ColdCause,
      (s.thermal.shut = false → ∃ t, exec (.coldReset cause) s = .next t ∧ cleared t ∧ t.boot.resetting = some .cold ∧
        (cause = .rstN → t.lands.rstN = false) ∧ (cause = .pwrOk → t.lands.pwrOk = false)) ∧
      (s.thermal.shut = true → ∃ t, exec (.coldReset cause) s = .next t ∧ t = { s with lands := t.lands })) ∧
    (s.thermal.shut = false → ∃ t, exec .powerDown s = .next t ∧ cleared t ∧ t.lands.hbmReset = true ∧
      t.lands.driven = false) ∧
    (s.thermal.shut = false → ∃ t, exec .vinCoreDip s = .next t ∧ cleared t ∧ t.lands.vinDip = true) ∧
    (∃ t, exec .thermtripClear s = .next t ∧ cleared t ∧ t.thermal.shut = false ∧ t.lands.vinOk = false)) ∧
  (∀ (s : State) (p : Path) (kat : Kat), s.down = false →
    (s.warmAccepted = true → p ≠ .group → exec (.warmReset false p kat) s =
      .next (bootRom (updBoot (fun b => { b with heldKat := some (katResult kat) }) (warmState s)))) ∧
    (s.warmAccepted = false ∨ p = .group → exec (.warmReset false p kat) s = .next s) ∧
    (s.warmAccepted = true → s.lands.warmN = true → ∃ t, exec (.warmReset true p kat) s = .next t ∧
      t.boot.resetting = some .warm ∧ t.lands.warmN = false ∧ t.cores = [] ∧ t.mem = (warmState s).mem) ∧
    (s.boot.resetting = some .warm → exec (.warmRstNRelease kat) s = .next (bootRom (updBoot (fun b =>
      { b with resetting := none, heldKat := some (katResult kat) }) { s with lands := { s.lands with warmN := true } }))) ∧
    (s.boot.resetting ≠ some .warm → exec (.warmRstNRelease kat) s =
      .next { s with lands := { s.lands with warmN := true } }) ∧
    (∀ x, x < 0x60000000 → (warmState s).byteAt (0xA000000000 + x) = 0) ∧ (warmState s).cores = [] ∧
    (warmState s).fld Reg.GCTL_GEN F.GCTL_GEN.GEN = (s.fld Reg.GCTL_GEN F.GCTL_GEN.GEN + 1) % 65536 ∧
    (warmState s).lastReset = 1 ∧ (warmState s).pending = s.pending ∧
    (s.stage = 8 → p ≠ .group → exec (.computeReset p kat) s = .next (computeReset (some (katResult kat)) s)) ∧
    (s.stage ≠ 8 ∨ p = .group → exec (.computeReset p kat) s = .next s) ∧
    ∀ i, let c := (computeState s).core i
      c = { Core.reset with l1sz := c.l1sz, l1szPend := c.l1szPend })

/-! ### Bring-up -/

/-- Bring-up: as RST_N and PWR_OK rise the ROM starts (R412, R416), and with no valid image it ends in FAILED (R420); the
eighth trained HBM stack ends training, and a failed one is excluded (R237, R426); BIST that finds the fabric broken ends in FAILED,
and else the known-answer tests decide (R424, R425); READY follows once every condition of R427 holds, and the resident
job starts before it where the image asks for it (R429). -/
def Obligations.BringUpAdvances : Prop :=
  (∀ s : State, s.boot.resetting = some .cold → s.thermal.shut = false → s.lands.vinOk = true →
    ∃ v, exec .coldBringupStart s = .next (bootRom v) ∧ v.down = false ∧ v.lands.rstN = true ∧ v.lands.pwrOk = true ∧
      v.pcie.up = !s.lands.pcieLost ∧ v.fld Reg.GCTL_GEN F.GCTL_GEN.GEN = ((s.record.1.getD {}).gen + 1) % 65536 ∧
      v.boot.flash = s.boot.flash ∧ OutsideSame s v) ∧
  (∀ s : State, (∀ h n, s.imgCheck h n ≠ 0) →
    (bootRom s).stage = 15 ∧ (bootRom s).fld Reg.GCTL_BOOT F.GCTL_BOOT.FAIL = 1) ∧
  (∀ (m : HbmId) (rate : Fin 3) (s : State), s.down = false → s.stage = 3 → s.boot.trained.contains m.val = false →
    ∃ t, exec (.hbmTrainDone m rate) s = .next t ∧ m.val ∈ t.boot.trained ∧
      t.stage = (if t.boot.trained.length = 8 then 4 else 3) ∧
      t.fld (Reg.MCm_STAT m) F.MCm_STAT.RATE = rate.val ∧ (rate.val = 0 → t.hbmExcluded m = true) ∧ OutsideSame s t) ∧
  (∀ (b : Bist) (kat : Kat) (s : State), s.down = false → s.stage = 4 →
    ∃ t, exec (.bistDone b kat) s = .next t ∧
      (b.fabricOk = false → t.stage = 15 ∧ t.fld Reg.GCTL_BOOT F.GCTL_BOOT.FAIL = 5) ∧
      (b.fabricOk = true → t.stage = if s.lastReset ≠ 2 ∧ kat.pkgFails = true then 15 else 6)) ∧
  (∀ s : State, s.down = false → s.boot.katDone = true → s.boot.postKat = true →
    (s.stage = 6 ∨ s.stage = 7 → s.boot.trained.length = 8 → bitOf s.boot.flags 1 = false ∨ s.boot.jobDone = true →
      ∃ t, exec .packageReady s = .next t ∧ t.stage = 8 ∧ t.flag Reg.SVC_EVT F.SVC_EVT.READY = true ∧
        OutsideSame s t) ∧
    (s.stage = 6 → bitOf s.boot.flags 1 = true → s.boot.jobDone = false → s.boot.autoStep = none → s.noJob = true →
      exec .autoJobStart s = .next (jobStart (setStage 7 s)) ∧
      (s.jobGroup = none → ∃ t, exec .autoJobStart s = .next t ∧ t.boot.jobDone = true ∧ t.stage = 7 ∧
        t.flag Reg.GCTL_BOOT F.GCTL_BOOT.AUTO = false ∧ t.flag Reg.SVC_EVT F.SVC_EVT.JOB_FAIL = true ∧
        t.fld Reg.SVC_MB_STAT F.SVC_MB_STAT.RESULT = 1 ∧ OutsideSame s t)))

/-- Each mailbox command that is not held off does what Table 16-13 says and ends with DONE, or with ERR where it is refused;
while BUSY is 1 a write of the command register does nothing (R430). -/
def Obligations.MailboxCommandsRun : Prop :=
  ∀ (p : Path) (s : State), s.down = false → s.pathOpen p Reg.SVC_MB_CMD = true → s.boot.resetting = none →
    let a0 := s.mbArg 0
    let a1 := s.mbArg 1
    let size := s.directory.1.size
    let boot := fun f => updBoot f s
    let ends := fun (ins : Instr) (good : Prop) (v : State) =>
      (good → exec ins s = .next (mbEnd true none v)) ∧ (¬good → exec ins s = .next (mbEnd false none s))
    (s.flag Reg.SVC_MB_STAT F.SVC_MB_STAT.BUSY = true →
      ∀ c ∈ [.imgBegin p, .imgData p, .imgEnd p, .imgBoot p, .nbrRead p, .retireDelete p, .recordRead p, .svnRaise p,
             .jobStart p, .hostTake p], exec c s = .next s) ∧
    (s.flag Reg.SVC_MB_STAT F.SVC_MB_STAT.BUSY = false →
      ends (.imgBegin p) (a0 ≤ 1 ∧ a1 ≤ size) (updBoot (fun b => { b with imgSlot := some a0 })
        (flashErase (s.slotBase a0) size s)) ∧
      (∀ n, s.boot.imgSlot = some n → ends (.imgData p) (a1 ≤ 4096 ∧ a0 + a1 ≤ size)
        (flashWrite (s.slotBase n + a0) (s.windowBytes a1) s)) ∧
      (s.boot.imgSlot = none → exec (.imgData p) s = .next (mbEnd false none s) ∧
        exec (.imgEnd p) s = .next (mbEnd false none s)) ∧
      (∀ n, s.boot.imgSlot = some n →
        let d := s.directory.1
        let e := s.imgCheck (if n = 0 then .slotA d.slotA else .slotB d.slotB) size
        (e = 0 → exec (.imgEnd p) s = .next (mbEnd true none (flashWrite s.directory.2
          ({ d with seq := d.seq + 1, prefer := n } : Directory).bytes s))) ∧
        (e ≠ 0 → exec (.imgEnd p) s = .next (mbEnd false (some e) s))) ∧
      (s.stage ≠ 15 → exec (.imgBoot p) s = .next (mbEnd false none s)) ∧
      (s.stage = 15 → s.mbArg 2 = 1 → ends (.imgBoot p) (a1 ≤ 4096 ∧ a0 + a1 ≤ size) (boot fun b => { b with
        ram := (s.windowBytes a1).zipIdx.foldl (fun m x => sset (fun _ => 0) m (a0 + x.2) x.1) b.ram,
        ramLen := max b.ramLen (a0 + a1) })) ∧
      (s.stage = 15 → s.mbArg 2 ≠ 1 → s.imgCheck .ram s.boot.ramLen = 0 → exec (.imgBoot p) s =
        .next (runImage .ram (mbEnd true none (s.setFld Reg.GCTL_BOOT F.GCTL_BOOT.FAIL 0)))) ∧
      ends (.nbrRead p) True (setWindow ((List.range 32).flatMap fun l =>
        let x := s.nbr l
        leBytes 32 (Config.nbrBytes [x.state.code, x.serial, x.pkg, x.gen, x.jobgrp, x.rclass, x.rev, x.feat, x.first,
          x.changed])) s) ∧
      ends (.retireDelete p) True
        (boot fun b => { b with rdel := b.rdel ++ [Config.retireArg (s.reg (Reg.SVC_MB_ARGk 0))] }) ∧
      ends (.recordRead p) True (setWindow s.recordBytes s) ∧
      ends (.svnRaise p) (s.boot.image.isSome = true) (boot fun b => { b with minSvn := max b.minSvn b.svn }) ∧
      ends (.hostTake p) (s.noJob = true) (updBoot (fun b => { b with autoStep := none })
        (s.setFlag Reg.GCTL_BOOT F.GCTL_BOOT.AUTO false)) ∧
      (s.noJob = true → s.boot.autoStep = none → exec (.jobStart p) s = .next (jobStart
        (updBoot (fun b => { b with autoMb := true }) (s.setFlag Reg.SVC_MB_STAT F.SVC_MB_STAT.BUSY)))) ∧
      (s.noJob = false ∨ s.boot.autoStep.isSome = true → exec (.jobStart p) s = .next (mbEnd false none s)))

/-! ### Modes, identity, roles and faults -/

/-- LOCK sets and stays (R428); PKG_ID is written with SET before the lock (R30); GCTL_MODE is written outside a job, and a change of
PAIR resets every accumulator (R158, R209). An entry of the staged role bank is written unless a commit is armed or it names no
kind of unit (R439); a commit is armed for a boundary that is still to come, once (R439); membership entries are written outside
a job (R443). -/
def Obligations.ModesAndRolesAreWritten : Prop :=
  (∀ (p : Path) (v : Word32) (s : State),
    let md := Reg.GCTL_MODE
    (Accepts p Reg.GCTL_LOCK s → ∃ t, exec (.configLock p) s = .next t ∧
      RegBecomes Reg.GCTL_LOCK (s.reg Reg.GCTL_LOCK ||| 1) s t) ∧
    (Accepts p Reg.GCTL_PKG_ID s → exec (.pkgIdWrite p v) s = .next (
      if s.flag Reg.GCTL_LOCK F.GCTL_LOCK.LOCK then s
      else identChanged (s.setReg Reg.GCTL_PKG_ID ((v &&& 0xFFF) ||| 0x10000)))) ∧
    (Accepts p md s →
      (s.noJob = false → exec (.gctlModeWrite p v) s = .next s) ∧
      (s.noJob = true → F.GCTL_MODE.PAIR.get v = s.fld md F.GCTL_MODE.PAIR → ∃ t, exec (.gctlModeWrite p v) s = .next t ∧
        RegBecomes md (v &&& 0xF) s t) ∧
      (s.noJob = true → F.GCTL_MODE.PAIR.get v ≠ s.fld md F.GCTL_MODE.PAIR → ∃ t, exec (.gctlModeWrite p v) s = .next t ∧
        t.reg md = v &&& 0xF ∧ (∀ i, i < 384 → (t.core i).tns.acc = [] ∧ (t.core i).slots = (s.core i).slots) ∧
        (∀ a, a ≠ md → t.reg a = s.reg a) ∧ t.mem = s.mem))) ∧
  (∀ (p : Path) (v : Word32) (s : State),
    let stat := Reg.GCTL_ROLE_STAT
    let ign := s.setFlag stat F.GCTL_ROLE_STAT.IGN
    (Accepts p Reg.GCTL_ROLE_VAL s →
      let r := s.fld Reg.GCTL_ROLE_SEL F.GCTL_ROLE_SEL.ROLE
      let staged := s.flag Reg.GCTL_ROLE_SEL F.GCTL_ROLE_SEL.BANK = true ∧ r ≠ 0xFFFF
      let bad := s.roles.commit.isSome = true ∨ (F.GCTL_ROLE_VAL.KIND.get v = 0 ∧ v.getLsbD 31 = true)
      (¬staged → exec (.roleStageWrite p v) s = .next s) ∧ (staged → bad → exec (.roleStageWrite p v) s = .next ign) ∧
      (staged → ¬bad → ∃ t, exec (.roleStageWrite p v) s = .next t ∧
        sget (fun _ => 0) t.roles.staged r = v &&& 0x80FFFFFF ∧
        (∀ n, n ≠ r → sget (fun _ => 0) t.roles.staged n = sget (fun _ => 0) s.roles.staged n) ∧
        t = { s with roles := { s.roles with staged := t.roles.staged } })) ∧
    (Accepts p Reg.GCTL_ROLE_CMT_HI s →
      let b := (s.reg Reg.GCTL_ROLE_CMT_LO).toNat + 2 ^ 32 * (v.toNat % 65536)
      (s.roles.commit.isSome = true → exec (.roleCommit p v) s = .next ign) ∧
      (s.roles.commit = none → s.tick.started = true → b ≤ s.tick.index → ∃ t, exec (.roleCommit p v) s = .next t ∧
        t.roles = s.roles ∧ t.flag stat F.GCTL_ROLE_STAT.LATE = true ∧ t = { s with regs := t.regs }) ∧
      (s.roles.commit = none → s.tick.started = false ∨ s.tick.index < b → ∃ t, exec (.roleCommit p v) s = .next t ∧
        t.roles = { s.roles with commit := some (b, v.toNat / 65536) } ∧
        t = { s with regs := t.regs, roles := t.roles })) ∧
    (∀ hi : Bool, Accepts p (if hi then Reg.GCTL_MEMB_VAL_HI else Reg.GCTL_MEMB_VAL_LO) s →
      (s.noJob = false → exec (.membershipWrite p hi v) s =
        .next (s.setFlag Reg.GCTL_MEMB_STAT F.GCTL_MEMB_STAT.IGN)) ∧
      (s.noJob = true → ∃ t, exec (.membershipWrite p hi v) s = .next t ∧
        (hi = true → t.membHi s.membSel = v &&& 0x3FFFFF ∧ ∀ n, t.membLo n = s.membLo n) ∧
        (hi = false → t.membLo s.membSel = v &&& 0x80FFFFFF ∧ ∀ n, t.membHi n = s.membHi n) ∧
        (∀ n, n ≠ s.membSel → t.membLo n = s.membLo n ∧ t.membHi n = s.membHi n) ∧
        t = { s with roles := { s.roles with membLo := t.roles.membLo, membHi := t.roles.membHi } })))

/-- A report with a new subject and class takes the lowest free record, valid and pending with both (R449, R450); a received FAULT is
such a report of its source, and acknowledged (R453); freeing a record clears it, its flood record likewise, and its
pending bit (R449). -/
def Obligations.FaultsAreRecorded : Prop :=
  (∀ (r : Report) (i : Nat) (s : State), s.findRec r.subj r.cls = none → s.freeRec = some i → r.cls < 64 →
    r.subj < 2 ^ 32 →
    let t := report r s
    (t.reg (Reg.FLT_RECi_SUBJ i)).toNat = r.subj ∧ t.fld (Reg.FLT_RECi_CLS i) F.FLT_RECi_CLS.CLASS = r.cls ∧
      t.flag (Reg.FLT_RECi_CLS i) F.FLT_RECi_CLS.VALID = true ∧
      t.bit (Reg.FLT_PEND_LO + 4 * (i / 32)) (i % 32) = true ∧ OutsideSame s t) ∧
  (∀ (l : InLink) (m : Msg) (s v : State), Takes 0x16 l m s v →
    (v.refuseReason m = none → exec (.fault l) s = .next (sendAck l m (report ⟨m.bodyAt 32 4, m.bodyAt 36 1 % 64,
      m.bodyAt 37 1, if v.selfIndex.isSome then v.memberIndex m.src else none, true⟩ v))) ∧
    (∀ r, v.refuseReason m = some r → exec (.fault l) s = .next (sendNack l r m v))) ∧
  (∀ (p : Path) (r : Fin 128) (s : State),
    let flood := 64 ≤ r.val
    let i := r.val % 64
    let b := if flood then Reg.FLT_FLOODc_SUBJ i else Reg.FLT_RECi_SUBJ i
    let pend := (if flood then Reg.FLT_FPEND_LO else Reg.FLT_PEND_LO) + 4 * (i / 32)
    Accepts p (b + 4) s → ∃ t, exec (.faultRecordFree p r) s = .next t ∧ (∀ a, b ≤ a → a < b + 64 → t.reg a = 0) ∧
      t.reg pend = s.reg pend &&& ~~~BitVec.ofNat 32 (2 ^ (i % 32)) ∧
      (∀ a, a < b ∨ b + 64 ≤ a → a ≠ pend → t.reg a = s.reg a) ∧
      t = { s with regs := t.regs, faults := t.faults, pcie := t.pcie })

/-- MGMT requests of a package on the allow list are acknowledged and carried out as accesses on the service controller's
path, reads answered with a REPLY; any other package draws NACK REFUSED (R431). -/
def Obligations.ManagementMessagesAreServed : Prop :=
  ∀ (l : InLink) (m : Msg) (s v : State), v.refuseReason m = none →
    let w := sendAck l m v
    let off := m.bodyAt 36 4 % 2 ^ 26
    let allowed := v.boot.mgmtAllow.contains m.src
    (TakesKind 0x17 1 l m s v → allowed = true →
      ∀ bs x, readAccess .mgmt hostClaimer off 4 w = (some bs, x) →
        exec (.mgmtRegRead l) s = .next (mgmtReply m (leNat bs) x)) ∧
    (TakesKind 0x17 2 l m s v → allowed = true →
      exec (.mgmtRegWrite l) s = .next (writeAccess .mgmt off (leBytes 4 (m.bodyAt 40 4)) w).2) ∧
    (TakesKind 0x17 3 l m s v → allowed = true →
      let busy := fun (x : State) => x.flag Reg.SVC_MB_STAT F.SVC_MB_STAT.BUSY
      let x := if busy w then w else mailbox (m.bodyAt 36 4 % 256)
        ((setWindow (m.data.take 256) w).setReg (Reg.SVC_MB_ARGk 0) (BitVec.ofNat 32 (m.bodyAt 40 4)))
      exec (.mgmtMbCmd l) s = .next (if busy w = false ∧ busy x = true then { x with boot := { x.boot with mbReply := some m } }
        else mgmtReply m (x.fld Reg.SVC_MB_STAT F.SVC_MB_STAT.RESULT) x)) ∧
    (TakesKind 0x17 4 l m s v → allowed = true → exec (.mgmtReply l) s = .next w) ∧
    (allowed = false →
      (TakesKind 0x17 1 l m s v → exec (.mgmtRegRead l) s = .next (sendNack l 3 m v)) ∧
      (TakesKind 0x17 2 l m s v → exec (.mgmtRegWrite l) s = .next (sendNack l 3 m v)) ∧
      (TakesKind 0x17 3 l m s v → exec (.mgmtMbCmd l) s = .next (sendNack l 3 m v)) ∧
      (TakesKind 0x17 4 l m s v → exec (.mgmtReply l) s = .next (sendNack l 3 m v)))

/-! ### Host -/

/-- An access through an enabled host window is made at the translated address as the host's, one through a disabled window is
refused, and one at a refused address aborts and is captured (R458, R459, R31, R289). -/
def Obligations.HostWindowsTranslate : Prop :=
  ∀ (off : Word32) (data : List Byte) (len : Nat) (u : Upsets) (s : State), s.down = false → s.pcie.up = true →
    data ≠ [] → len ≠ 0 →
    let w := s.reg (Reg.GCTL_HWINw (off.toNat / 2 ^ 30))
    let on := F.GCTL_HWINw.EN.get w = 1
    let a := F.GCTL_HWINw.BASE.get w * 2 ^ 30 + off.toNat % 2 ^ 30
    let refused := fun (e : Nat) => { decodeErr { master := 4 } a e s with answer := .ca }
    (¬on → exec (.hostWindowWrite off data) s = .next { s with answer := .ur } ∧
      exec (.hostWindowRead off len u) s = .next { s with answer := .ur } ∧
      exec (.pcieCompletionTimeout off) s = .next { s with answer := .ur }) ∧
    (on →
      (s.svcErr a data.length = none →
        exec (.hostWindowWrite off data) s = .next { directStore 0x488 a data none s with answer := .done }) ∧
      (∀ e, s.svcErr a data.length = some e → exec (.hostWindowWrite off data) s = .next (refused e)) ∧
      (∀ bs bad v, s.svcErr a len = none → directLoad 0x488 a len none (upset u s) = (bs, bad, v) →
        exec (.hostWindowRead off len u) s = .next { v with answer := if bad then .poisoned bs else .data bs }) ∧
      (∀ e, s.svcErr a len = some e → exec (.hostWindowRead off len u) s = .next (refused e)) ∧
      (s.svcErr a 1 = none → ∃ t, exec (.pcieCompletionTimeout off) s = .next t ∧ t.answer = .ca ∧
        t.now = s.now + 8000000 ∧ t.flag Reg.GCTL_ACC_ERR_HI F.GCTL_ACC_ERR_HI.VALID = true ∧ OutsideSame s t))

/-- A function reset closes the four windows, clears the MSI-X table and its pending bits and returns configuration space to its
identity (R456, R460), and an unmasked vector that is pending sends its message (R462). A register write of 1 to 64 bytes that crosses no 4 KiB boundary writes its registers in
ascending order and answers done; one that crosses is refused whole (R466); four aligned bytes are the write of one
register (R465). -/
def Obligations.HostCommandsAct : Prop :=
  (∀ (c : Fin 3) (s : State), s.down = false → ∃ t, exec (.pcieFunctionReset c) s = .next t ∧
    (∀ w, w < 4 → t.reg (Reg.GCTL_HWINw w) = 0) ∧
    (∀ a, (∀ w, w < 4 → a ≠ Reg.GCTL_HWINw w) → t.reg a = s.reg a) ∧
    t = { s with regs := t.regs, pcie := { s.pcie with
      ident := s.pcieIdent, bars := t.pcie.bars, table := [], unmasked := [], pba := [] } } ∧
    t.pcie.bars = [⟨0, 0x4000000, false⟩, ⟨2, 0x100000000, true⟩, ⟨4, 0x2000, false⟩]) ∧
  (∀ (v : Fin 32) (s : State), s.down = false →
    let p := s.pcie
    exec (.msixUnmask v) s = .next { s with pcie := if p.pba.contains v.val then
      { p with unmasked := insertNat v p.unmasked, pba := p.pba.filter (· != v.val), sent := v.val :: p.sent }
      else { p with unmasked := insertNat v p.unmasked } }) ∧
  (∀ (p : Path) (off : BitVec 26) (data : List Byte) (s : State), s.down = false → s.pathOpen p off.toNat = true →
    data ≠ [] → data.length ≤ 64 →
      (crosses off.toNat data.length = false → exec (.registerWrite p off data) s =
        .next { forEach (partsOf off.toNat data) (fun w s => writeReg p w.1 w.2.1 w.2.2 s) s with answer := .done }) ∧
      (crosses off.toNat data.length = true → ∃ t, exec (.registerWrite p off data) s = .next t ∧
        t.answer = (if p = .pcie then .ur else .error) ∧ OutsideSame s t ∧
        (s.flag Reg.GCTL_ACC_ERR_HI F.GCTL_ACC_ERR_HI.VALID = false →
          t.reg Reg.GCTL_ACC_ERR_LO = BitVec.ofNat 32 off.toNat ∧
          t.fld Reg.GCTL_ACC_ERR_HI F.GCTL_ACC_ERR_HI.KIND = 2))) ∧
  (∀ (p : Path) (off : BitVec 26) (v : Word32) (s : State), s.down = false → s.pathOpen p off.toNat = true →
    off.toNat % 4 = 0 →
      exec (.registerWrite p off (leBytes 4 v.toNat)) s = .next { pathWrite p off.toNat v s with answer := .done })

/-! ### Management interfaces -/

/-- An SMBus or I3C transaction that passes its packet error check, its count and its code is served: the offset of every command is
set, words are read and written at it and move it on, the status is returned; any other is refused and named in MSMB_STAT (R469-R471). -/
def Obligations.SmbTransactionsAreServed : Prop :=
  (∀ (x : SmbXfer) (s : State), s.down = false →
    let pec := s.smb.i3c = true ∨ s.flag Reg.MSMB_CFG F.MSMB_CFG.PEC_EN = false ∨ x.pecOk = true
    let fits := fun (count written : Nat) => x.knownCode = true ∧ (s.smb.i3c = true → x.hasCode = true) ∧
      (s.smb.i3c = false → x.count = count) ∧ x.bytes.length = written
    let refused := fun (f : Fld) => { s.setFlag Reg.MSMB_STAT f with answer := .nack }
    let serves := fun (ins : Instr) (count written : Nat) (served : Prop) =>
      (¬pec → exec ins s = .next (refused F.MSMB_STAT.PEC_ERR)) ∧
      (pec → ¬fits count written → exec ins s = .next (refused F.MSMB_STAT.PROTO_ERR)) ∧
      (pec → fits count written → served)
    let reads := fun (ins : Instr) (code n : Nat) => ∀ bs v, readAccess .smb hostClaimer (s.smbOff code) n s = (some bs, v) →
      ∃ t, exec ins s = .next t ∧ t.answer = .data bs ∧ t.smbOff code = (s.smbOff code + n) % 2 ^ 26 ∧
        t = { v with answer := t.answer, smb := t.smb }
    serves (.smbSetOffset x) 4 4 (∃ t, exec (.smbSetOffset x) s = .next t ∧ t.answer = .done ∧
      (∀ c, c = 2 ∨ c = 3 ∨ c = 5 → t.smbOff c = leNat x.bytes / 4 * 4 % 2 ^ 26) ∧
      t = { s with answer := t.answer, smb := t.smb }) ∧
    serves (.smbRead x) 4 0 (reads (.smbRead x) 2 4) ∧
    serves (.smbRead64 x) 8 0 (reads (.smbRead64 x) 5 8) ∧
    serves (.smbWrite x) 4 4 (∀ v, writeAccess .smb (s.smbOff 3) x.bytes s = (true, v) →
      ∃ t, exec (.smbWrite x) s = .next t ∧ t.answer = .done ∧ t.smbOff 3 = (s.smbOff 3 + 4) % 2 ^ 26 ∧
        t = { v with answer := t.answer, smb := t.smb }) ∧
    serves (.smbStatus x) 4 0 (exec (.smbStatus x) s =
      .next { s with answer := .data (leBytes 4 (readReg .smb Reg.MSMB_STAT s).toNat) })) ∧
  (∀ (s : State), s.down = false →
    exec .i3cEntry s = .next { s with smb := { s.smb with i3c := true } } ∧
    exec .i3cTargetReset s = .next { s with smb := { s.smb with i3c := false, dyn := none } } ∧
    (∀ setdasa st dyn, exec (.i3cDaa setdasa st dyn) s = .next (
      if s.smb.i3c = true ∧ (setdasa = true → st.toNat = s.fld Reg.MSMB_CFG F.MSMB_CFG.ADDR) then
        { s with smb := { s.smb with dyn := some dyn.toNat },
                 answer := if setdasa then s.answer else .data (leBytes 6 s.provisionedId) } else s)) ∧
    ∃ t, exec .smbusTimeout s = .next t ∧ t = { s with now := t.now, tb := t.tb, tsync := t.tsync })

/-- A management SPI frame with the edges its operation asks for reads, writes or returns the status; with other edges it is discarded
and counted; an access that crosses 4 KiB is refused as out of range; read data that is late returns zero, and an
operation that is none draws OP_ERR (R473-R475). -/
def Obligations.MspiFramesAreServed : Prop :=
  ∀ (h : MspiHead) (words : List Word32) (s : State), s.down = false →
    let n := 4 * (h.len.toNat + 1)
    let a := 4 * h.off.toNat
    let data := words.flatMap fun w => leBytes 4 w.toNat
    (h.op = 1 → h.edges = 8 * (8 + n) → crosses a n = false →
      (∀ bs v, h.late = false → readAccess .mspi hostClaimer a n s = (some bs, v) →
        exec (.mspiRead h) s = .next { v with answer := .data bs }) ∧
      (h.late = true → exec (.mspiRead h) s = .next
        { s.setFlag Reg.MSPI_STAT F.MSPI_STAT.RD_LATE with answer := .data (List.replicate n 0) })) ∧
    (h.op = 1 → h.edges = 8 * (8 + n) → crosses a n = true →
      exec (.mspiRead h) s = .next { accErr .mspi 2 a (s.setFlag Reg.MSPI_STAT F.MSPI_STAT.RANGE_ERR) with
        answer := .error }) ∧
    (h.op = 2 → h.edges = 8 * (4 + n) → words.length = h.len.toNat + 1 → crosses a n = false →
      ∀ v, writeAccess .mspi a data s = (true, v) →
        exec (.mspiWrite h words) s = .next { v with answer := .done }) ∧
    (h.op = 3 → h.len = 0 → h.off = 0 → h.edges = 64 → exec (.mspiStatus h) s = .next
      { s with answer := .data (leBytes 4 (readReg .mspi Reg.MSPI_STAT s).toNat) }) ∧
    (let out := { (s.setFlag Reg.MSPI_STAT F.MSPI_STAT.FRAME_ERR).bump Reg.MSPI_STAT F.MSPI_STAT.FRAMES with
       answer := .error }
     (h.op = 1 → h.edges ≠ 8 * (8 + n) → exec (.mspiRead h) s = .next out) ∧
     (h.op = 2 → h.edges ≠ 8 * (4 + n) → exec (.mspiWrite h words) s = .next out)) ∧
    (h.op = 0 ∨ 3 < h.op.toNat → ∃ t, exec (.mspiRead h) s = .next t ∧ exec (.mspiWrite h words) s = .next t ∧
      t.flag Reg.MSPI_STAT F.MSPI_STAT.OP_ERR = true ∧ t.answer = .error ∧ OutsideSame s t)

/-- The instructions of the test port that drive pins act only while RST_N is asserted, and else as BYPASS; IDCODE reads
0x40064547; SAMPLE/PRELOAD loads the boundary cells, and no instruction touches anything but the port (R478-R480). After a
thermal shutdown the port is held in reset (R391). -/
def Obligations.TestPortLoads : Prop :=
  ∀ (s : State) (cells : List Bool),
    (s.thermal.shut = true → ∀ ins ∈ [.jtagBypass, .jtagIdcode, .jtagSamplePreload cells, .jtagExtest, .jtagExtestPulse,
      .jtagExtestTrain, .jtagClamp, .jtagHighz, .jtagTrst], exec ins s = .next s) ∧
    (s.thermal.shut = false →
      let acts := s.lands.rstN = false
      let port := fun (ins : Instr) (f : Jtag → Prop) =>
        ∃ t, exec ins s = .next t ∧ f t.jtag ∧ t = { s with jtag := t.jtag }
      let pins := fun (ins : Instr) (i : JtagInstr) => port ins fun j => j.loaded = i ∧ j.cells = s.jtag.cells ∧
        (acts → j.acts = i ∧ (j.driving = true ↔ i ≠ .highz)) ∧ (¬acts → j.acts = .bypass ∧ j.driving = false)
      port .jtagBypass (fun j => j.loaded = .bypass ∧ j.acts = .bypass ∧ j.dr = 0 ∧ j.driving = false) ∧
      port .jtagIdcode (fun j => j.loaded = .idcode ∧ j.dr = 0x40064547 ∧ j.driving = false) ∧
      port (.jtagSamplePreload cells) (fun j => j.loaded = .sample ∧ j.cells = cells ∧ j.driving = false) ∧
      pins .jtagExtest .extest ∧ pins .jtagExtestPulse .extestPulse ∧ pins .jtagExtestTrain .extestTrain ∧
      pins .jtagClamp .clamp ∧ pins .jtagHighz .highz ∧
      port .jtagTrst (fun j => j.loaded = .idcode ∧ j.driving = false))

/-- The loss of SERDES_REFCLK takes every link down and is shown, and the timebase runs on, at most 200 parts per million off;
its return is shown and brings the clock back without a step; the loss of PCIE_REFCLK closes the windows and the link, and its
return lets it come up (R460, R492). -/
def Obligations.ClocksAreLostAndReturn : Prop :=
  ∀ (s : State),
    let clk := Reg.GCTL_CLK_STAT
    (s.down = false → ∃ t, exec .serdesRefclkLoss s = .next t ∧ t.lands.intOsc = true ∧
      t.flag clk F.GCTL_CLK_STAT.SRDS_LOST = true ∧ t.flag clk F.GCTL_CLK_STAT.SRDS_SEEN = true ∧
      (∀ l, l < 32 → (t.link l).state = if (s.link l).state = .disabled then .disabled else .down) ∧
      t.tb = s.tb ∧ -200 ≤ t.tsync.osc ∧ t.tsync.osc ≤ 200 ∧ OutsideSame s t) ∧
    (s.down = false → ∃ t, exec .serdesRefclkReturn s = .next t ∧ t.lands = { s.lands with intOsc := false } ∧
      t.flag clk F.GCTL_CLK_STAT.SRDS_LOST = false ∧ (∀ a, a ≠ clk → t.reg a = s.reg a) ∧
      t = { s with regs := t.regs, lands := t.lands, tsync := { s.tsync with osc := 0 } }) ∧
    (s.down = false → ∃ t, exec .pcieRefclkLoss s = .next t ∧ t.pcie.up = false ∧
      t.flag clk F.GCTL_CLK_STAT.PCIE_LOST = true ∧ t.flag clk F.GCTL_CLK_STAT.PCIE_SEEN = true ∧
      (∀ w, w < 4 → t.reg (Reg.GCTL_HWINw w) = 0) ∧
      t = { s with regs := t.regs, pcie := t.pcie, lands := { s.lands with pcieLost := true } }) ∧
    (s.down = false → ∃ t, exec .pcieRefclkReturn s = .next t ∧ t.pcie = { s.pcie with up := true } ∧
      t.flag clk F.GCTL_CLK_STAT.PCIE_LOST = false ∧
      t = { s with regs := t.regs, pcie := t.pcie, lands := { s.lands with pcieLost := false } }) ∧
    (s.down = true → exec .pcieRefclkLoss s = .next { s with lands := { s.lands with pcieLost := true } } ∧
      exec .pcieRefclkReturn s = .next { s with lands := { s.lands with pcieLost := false } })

/-! ### Reset and invariants -/

/-- Right after reset nothing runs: no core, channel or link holds anything, no command waits, memory is empty, and the tick unit's,
the cores', the links' and the regulator's registers read the values the spec gives them. -/
def Obligations.ResetLeavesItsValues : Prop :=
  let s := State.reset
  (∀ i g, (s.slot i g).state = .empty ∧ (s.slot i g).sreg 0 = 0) ∧ (∀ k n, (s.chan k n).phase = .idle) ∧
    (∀ l, (s.link l).state = .disabled) ∧ s.pending = [] ∧ Memory.wf s.mem = true ∧ s.tickState = 0 ∧
    s.reg Reg.TICK_PERIOD = 12500 ∧ s.tick.period = 12500 ∧ s.reg Reg.TICK_REL_LAT = 8 ∧ s.reg Reg.TICK_CTL = 0x20 ∧
    (∀ c : Cid, s.reg (Reg.CORE_TRAP_HI c.s c.c) = 0 ∧ s.reg (Reg.CORE_NUM_CTL c.s c.c) = 0) ∧
    (∀ p : Fin 8, s.reg (Reg.LNKp_CTL p) = 8) ∧ (∀ q : Fin 40, s.reg (Reg.BWR_Pp_CFG q) = if q.val < 8 then 0xC0 else 0x60)

/-- A command leaves the queue of the commands that wait as it finds it. -/
def Obligations.CommandsLeaveTheQueue : Prop :=
  ∀ (c : Instr) (s t : State), exec c s = .next t → t.pending = s.pending

/-- Memory keeps its canonical form: addresses strictly rising, and no byte listed that reads as an unlisted one, whatever command
a step takes. -/
def Obligations.MemoryStaysCanonical : Prop :=
  ∀ s t : State, Memory.wf s.mem = true → step s = .next t → Memory.wf t.mem = true
end

