-- ==== Sys2Proof/Laws/Sparse.lean ====
section
/-! SUPPORT. What a sparse table reads after a write, and that every write keeps the canonical form. -/

namespace Sys2Proof.Machine

variable {α : Type}

@[simp] theorem sget_nil (d : Nat → α) (k : Nat) : sget d [] k = d k := rfl

@[simp] theorem sget_cons (d : Nat → α) (e : Nat × α) (t : SMap α) (k : Nat) :
    sget d (e :: t) k = if k = e.1 then e.2 else sget d t k := rfl

theorem sget_sput (d : Nat → α) (m : SMap α) (k j : Nat) (v : α) :
    sget d (sput m k v) j = if j = k then v else sget d m j := by
  induction m with
  | nil => simp [sput]
  | cons e t ih =>
    obtain ⟨k', v'⟩ := e
    simp only [sput]
    split
    · subst_vars; by_cases h : j = k' <;> simp [h]
    · split
      · simp
      · rw [sget_cons, ih]
        by_cases h : j = k' <;> by_cases h2 : j = k <;> simp_all

theorem sget_sdel (d : Nat → α) (m : SMap α) (k j : Nat) :
    sget d (sdel m k) j = if j = k then d k else sget d m j := by
  induction m with
  | nil => simp only [sdel, List.filter_nil, sget_nil]; split <;> simp_all
  | cons e t ih =>
    simp only [sdel] at ih
    simp only [sdel, List.filter_cons]
    by_cases h : e.1 = k
    · simp only [h, bne_self_eq_false, Bool.false_eq_true, if_false, ih]
      by_cases h2 : j = k <;> simp_all
    · simp only [bne_iff_ne, ne_eq, h, not_false_eq_true, if_true, sget_cons, ih]
      by_cases h2 : j = k
      · subst h2
        have : ¬ j = e.1 := fun x => h x.symm
        simp [this]
      · simp [h2]

/-- A sparse table reads after a write what was written at its key, and elsewhere what it read before. -/
theorem sget_sset [DecidableEq α] (d : Nat → α) (m : SMap α) (k j : Nat) (v : α) :
    sget d (sset d m k v) j = if j = k then v else sget d m j := by
  unfold sset
  split
  · rename_i h; rw [sget_sdel]; split <;> simp_all
  · exact sget_sput d m k j v

@[simp] theorem sget_sset_same [DecidableEq α] (d : Nat → α) (m : SMap α) (k : Nat) (v : α) :
    sget d (sset d m k v) k = v := by simp [sget_sset]

theorem sget_sset_ne [DecidableEq α] (d : Nat → α) (m : SMap α) {k j : Nat} (v : α) (h : j ≠ k) :
    sget d (sset d m k v) j = sget d m j := by simp [sget_sset, h]

/-! ### The canonical form -/

/-- Canonical form as a proposition: keys above the bound and strictly rising, no entry at its default. -/
theorem swfFrom_cons [DecidableEq α] (d : Nat → α) (lo : Option Nat) (k : Nat) (v : α) (t : SMap α) :
    swfFrom d lo ((k, v) :: t) = true ↔
      (∀ b, lo = some b → b < k) ∧ v ≠ d k ∧ swfFrom d (some k) t = true := by
  cases lo <;> simp [swfFrom, and_assoc]

theorem swfFrom_mono [DecidableEq α] {d : Nat → α} {a b : Nat} {m : SMap α} (h : a ≤ b)
    (hm : swfFrom d (some b) m = true) : swfFrom d (some a) m = true := by
  cases m with
  | nil => rfl
  | cons e t =>
    obtain ⟨k, v⟩ := e
    rw [swfFrom_cons] at hm ⊢
    exact ⟨fun c hc => by cases hc; exact Nat.lt_of_le_of_lt h (hm.1 b rfl), hm.2⟩

theorem swfFrom_sput [DecidableEq α] {d : Nat → α} {k : Nat} {v : α} (hv : v ≠ d k) :
    ∀ {m : SMap α} {lo : Option Nat}, (∀ b, lo = some b → b < k) → swfFrom d lo m = true →
      swfFrom d lo (sput m k v) = true
  | [], lo, hlo, _ => by rw [sput, swfFrom_cons]; exact ⟨hlo, hv, rfl⟩
  | (k', v') :: t, lo, hlo, hm => by
    have hc := (swfFrom_cons d lo k' v' t).1 hm
    rw [sput]
    split
    · subst_vars; exact (swfFrom_cons ..).2 ⟨hlo, hv, hc.2.2⟩
    · split
      · rename_i hlt
        refine (swfFrom_cons ..).2 ⟨hlo, hv, (swfFrom_cons ..).2 ⟨?_, hc.2⟩⟩
        intro b hb; cases hb; exact hlt
      · refine (swfFrom_cons ..).2 ⟨hc.1, hc.2.1, swfFrom_sput hv ?_ hc.2.2⟩
        intro b hb; cases hb; omega

theorem swfFrom_filter [DecidableEq α] {d : Nat → α} (p : Nat × α → Bool) :
    ∀ {m : SMap α} {lo : Option Nat}, swfFrom d lo m = true → swfFrom d lo (m.filter p) = true
  | [], _, _ => rfl
  | (k, v) :: t, lo, hm => by
    have hc := (swfFrom_cons d lo k v t).1 hm
    have ih := swfFrom_filter p hc.2.2
    rw [List.filter_cons]
    split
    · exact (swfFrom_cons ..).2 ⟨hc.1, hc.2.1, ih⟩
    · cases lo with
      | none =>
        cases h : t.filter p with
        | nil => rfl
        | cons e r =>
          obtain ⟨k2, v2⟩ := e
          rw [h] at ih
          exact (swfFrom_cons ..).2 ⟨fun _ hb => (nomatch hb), ((swfFrom_cons ..).1 ih).2⟩
      | some b => exact swfFrom_mono (Nat.le_of_lt (hc.1 b rfl)) ih

/-- A write keeps the canonical form. -/
theorem swf_sset [DecidableEq α] {d : Nat → α} {m : SMap α} (k : Nat) (v : α) (h : swf d m = true) :
    swf d (sset d m k v) = true := by
  unfold sset
  split
  · exact swfFrom_filter _ h
  · rename_i hv; exact swfFrom_sput hv (fun _ hb => (nomatch hb)) h

theorem swf_sdel [DecidableEq α] {d : Nat → α} {m : SMap α} (k : Nat) (h : swf d m = true) :
    swf d (sdel m k) = true := swfFrom_filter _ h

theorem swf_sdrop [DecidableEq α] {d : Nat → α} {m : SMap α} (p : Nat → Bool) (h : swf d m = true) :
    swf d (sdrop p m) = true := swfFrom_filter _ h

@[simp] theorem swf_nil [DecidableEq α] (d : Nat → α) : swf d ([] : SMap α) = true := rfl

end Sys2Proof.Machine
end

