-- ==== Sys2Proof/Laws/State.lean ====
section
/-! SUPPORT. What each named update of the state leaves alone, field by field, and what a read sees after it. -/

namespace Sys2Proof.Machine

open Sys2Proof

/-! ### State.setReg -/
@[simp] theorem State.setReg_live (s : State) (a : Nat) (v : Word32) : (s.setReg a v).live = s.live := rfl
@[simp] theorem State.setReg_mem (s : State) (a : Nat) (v : Word32) : (s.setReg a v).mem = s.mem := rfl
@[simp] theorem State.setReg_sram (s : State) (a : Nat) (v : Word32) : (s.setReg a v).sram = s.sram := rfl
@[simp] theorem State.setReg_cores (s : State) (a : Nat) (v : Word32) : (s.setReg a v).cores = s.cores := rfl
@[simp] theorem State.setReg_stks (s : State) (a : Nat) (v : Word32) : (s.setReg a v).stks = s.stks := rfl
@[simp] theorem State.setReg_hbm (s : State) (a : Nat) (v : Word32) : (s.setReg a v).hbm = s.hbm := rfl
@[simp] theorem State.setReg_points (s : State) (a : Nat) (v : Word32) : (s.setReg a v).points = s.points := rfl
@[simp] theorem State.setReg_links (s : State) (a : Nat) (v : Word32) : (s.setReg a v).links = s.links := rfl
@[simp] theorem State.setReg_tick (s : State) (a : Nat) (v : Word32) : (s.setReg a v).tick = s.tick := rfl
@[simp] theorem State.setReg_tsync (s : State) (a : Nat) (v : Word32) : (s.setReg a v).tsync = s.tsync := rfl
@[simp] theorem State.setReg_power (s : State) (a : Nat) (v : Word32) : (s.setReg a v).power = s.power := rfl
@[simp] theorem State.setReg_thermal (s : State) (a : Nat) (v : Word32) : (s.setReg a v).thermal = s.thermal := rfl
@[simp] theorem State.setReg_boot (s : State) (a : Nat) (v : Word32) : (s.setReg a v).boot = s.boot := rfl
@[simp] theorem State.setReg_roles (s : State) (a : Nat) (v : Word32) : (s.setReg a v).roles = s.roles := rfl
@[simp] theorem State.setReg_faults (s : State) (a : Nat) (v : Word32) : (s.setReg a v).faults = s.faults := rfl
@[simp] theorem State.setReg_erl (s : State) (a : Nat) (v : Word32) : (s.setReg a v).erl = s.erl := rfl
@[simp] theorem State.setReg_pcie (s : State) (a : Nat) (v : Word32) : (s.setReg a v).pcie = s.pcie := rfl
@[simp] theorem State.setReg_smb (s : State) (a : Nat) (v : Word32) : (s.setReg a v).smb = s.smb := rfl
@[simp] theorem State.setReg_jtag (s : State) (a : Nat) (v : Word32) : (s.setReg a v).jtag = s.jtag := rfl
@[simp] theorem State.setReg_lands (s : State) (a : Nat) (v : Word32) : (s.setReg a v).lands = s.lands := rfl
@[simp] theorem State.setReg_fuses (s : State) (a : Nat) (v : Word32) : (s.setReg a v).fuses = s.fuses := rfl
@[simp] theorem State.setReg_frozenHost (s : State) (a : Nat) (v : Word32) :
    (s.setReg a v).frozenHost = s.frozenHost := rfl
@[simp] theorem State.setReg_frozenMgmt (s : State) (a : Nat) (v : Word32) :
    (s.setReg a v).frozenMgmt = s.frozenMgmt := rfl
@[simp] theorem State.setReg_latch (s : State) (a : Nat) (v : Word32) : (s.setReg a v).latch = s.latch := rfl
@[simp] theorem State.setReg_routeLo (s : State) (a : Nat) (v : Word32) : (s.setReg a v).routeLo = s.routeLo := rfl
@[simp] theorem State.setReg_routeStaged (s : State) (a : Nat) (v : Word32) :
    (s.setReg a v).routeStaged = s.routeStaged := rfl
@[simp] theorem State.setReg_inbox (s : State) (a : Nat) (v : Word32) : (s.setReg a v).inbox = s.inbox := rfl
@[simp] theorem State.setReg_answer (s : State) (a : Nat) (v : Word32) : (s.setReg a v).answer = s.answer := rfl
@[simp] theorem State.setReg_bwrWin (s : State) (a : Nat) (v : Word32) : (s.setReg a v).bwrWin = s.bwrWin := rfl
@[simp] theorem State.setReg_meas (s : State) (a : Nat) (v : Word32) : (s.setReg a v).meas = s.meas := rfl
@[simp] theorem State.setReg_now (s : State) (a : Nat) (v : Word32) : (s.setReg a v).now = s.now := rfl
@[simp] theorem State.setReg_tb (s : State) (a : Nat) (v : Word32) : (s.setReg a v).tb = s.tb := rfl
@[simp] theorem State.setReg_freeCtr (s : State) (a : Nat) (v : Word32) : (s.setReg a v).freeCtr = s.freeCtr := rfl
@[simp] theorem State.setReg_pending (s : State) (a : Nat) (v : Word32) : (s.setReg a v).pending = s.pending := rfl

/-! ### State.setFld -/
@[simp] theorem State.setFld_live (s : State) (a : Nat) (f : Fld) (x : Nat) :
    (s.setFld a f x).live = s.live := rfl
@[simp] theorem State.setFld_mem (s : State) (a : Nat) (f : Fld) (x : Nat) :
    (s.setFld a f x).mem = s.mem := rfl
@[simp] theorem State.setFld_sram (s : State) (a : Nat) (f : Fld) (x : Nat) :
    (s.setFld a f x).sram = s.sram := rfl
@[simp] theorem State.setFld_cores (s : State) (a : Nat) (f : Fld) (x : Nat) :
    (s.setFld a f x).cores = s.cores := rfl
@[simp] theorem State.setFld_stks (s : State) (a : Nat) (f : Fld) (x : Nat) :
    (s.setFld a f x).stks = s.stks := rfl
@[simp] theorem State.setFld_hbm (s : State) (a : Nat) (f : Fld) (x : Nat) :
    (s.setFld a f x).hbm = s.hbm := rfl
@[simp] theorem State.setFld_points (s : State) (a : Nat) (f : Fld) (x : Nat) :
    (s.setFld a f x).points = s.points := rfl
@[simp] theorem State.setFld_links (s : State) (a : Nat) (f : Fld) (x : Nat) :
    (s.setFld a f x).links = s.links := rfl
@[simp] theorem State.setFld_tick (s : State) (a : Nat) (f : Fld) (x : Nat) :
    (s.setFld a f x).tick = s.tick := rfl
@[simp] theorem State.setFld_tsync (s : State) (a : Nat) (f : Fld) (x : Nat) :
    (s.setFld a f x).tsync = s.tsync := rfl
@[simp] theorem State.setFld_power (s : State) (a : Nat) (f : Fld) (x : Nat) :
    (s.setFld a f x).power = s.power := rfl
@[simp] theorem State.setFld_thermal (s : State) (a : Nat) (f : Fld) (x : Nat) :
    (s.setFld a f x).thermal = s.thermal := rfl
@[simp] theorem State.setFld_boot (s : State) (a : Nat) (f : Fld) (x : Nat) :
    (s.setFld a f x).boot = s.boot := rfl
@[simp] theorem State.setFld_roles (s : State) (a : Nat) (f : Fld) (x : Nat) :
    (s.setFld a f x).roles = s.roles := rfl
@[simp] theorem State.setFld_faults (s : State) (a : Nat) (f : Fld) (x : Nat) :
    (s.setFld a f x).faults = s.faults := rfl
@[simp] theorem State.setFld_erl (s : State) (a : Nat) (f : Fld) (x : Nat) :
    (s.setFld a f x).erl = s.erl := rfl
@[simp] theorem State.setFld_pcie (s : State) (a : Nat) (f : Fld) (x : Nat) :
    (s.setFld a f x).pcie = s.pcie := rfl
@[simp] theorem State.setFld_smb (s : State) (a : Nat) (f : Fld) (x : Nat) :
    (s.setFld a f x).smb = s.smb := rfl
@[simp] theorem State.setFld_jtag (s : State) (a : Nat) (f : Fld) (x : Nat) :
    (s.setFld a f x).jtag = s.jtag := rfl
@[simp] theorem State.setFld_lands (s : State) (a : Nat) (f : Fld) (x : Nat) :
    (s.setFld a f x).lands = s.lands := rfl
@[simp] theorem State.setFld_fuses (s : State) (a : Nat) (f : Fld) (x : Nat) :
    (s.setFld a f x).fuses = s.fuses := rfl
@[simp] theorem State.setFld_frozenHost (s : State) (a : Nat) (f : Fld) (x : Nat) :
    (s.setFld a f x).frozenHost = s.frozenHost := rfl
@[simp] theorem State.setFld_frozenMgmt (s : State) (a : Nat) (f : Fld) (x : Nat) :
    (s.setFld a f x).frozenMgmt = s.frozenMgmt := rfl
@[simp] theorem State.setFld_latch (s : State) (a : Nat) (f : Fld) (x : Nat) :
    (s.setFld a f x).latch = s.latch := rfl
@[simp] theorem State.setFld_routeLo (s : State) (a : Nat) (f : Fld) (x : Nat) :
    (s.setFld a f x).routeLo = s.routeLo := rfl
@[simp] theorem State.setFld_routeStaged (s : State) (a : Nat) (f : Fld) (x : Nat) :
    (s.setFld a f x).routeStaged = s.routeStaged := rfl
@[simp] theorem State.setFld_inbox (s : State) (a : Nat) (f : Fld) (x : Nat) :
    (s.setFld a f x).inbox = s.inbox := rfl
@[simp] theorem State.setFld_answer (s : State) (a : Nat) (f : Fld) (x : Nat) :
    (s.setFld a f x).answer = s.answer := rfl
@[simp] theorem State.setFld_bwrWin (s : State) (a : Nat) (f : Fld) (x : Nat) :
    (s.setFld a f x).bwrWin = s.bwrWin := rfl
@[simp] theorem State.setFld_meas (s : State) (a : Nat) (f : Fld) (x : Nat) :
    (s.setFld a f x).meas = s.meas := rfl
@[simp] theorem State.setFld_now (s : State) (a : Nat) (f : Fld) (x : Nat) :
    (s.setFld a f x).now = s.now := rfl
@[simp] theorem State.setFld_tb (s : State) (a : Nat) (f : Fld) (x : Nat) : (s.setFld a f x).tb = s.tb := rfl
@[simp] theorem State.setFld_freeCtr (s : State) (a : Nat) (f : Fld) (x : Nat) :
    (s.setFld a f x).freeCtr = s.freeCtr := rfl
@[simp] theorem State.setFld_pending (s : State) (a : Nat) (f : Fld) (x : Nat) :
    (s.setFld a f x).pending = s.pending := rfl

/-! ### State.setBit -/
@[simp] theorem State.setBit_live (s : State) (a i : Nat) : (s.setBit a i).live = s.live := rfl
@[simp] theorem State.setBit_mem (s : State) (a i : Nat) : (s.setBit a i).mem = s.mem := rfl
@[simp] theorem State.setBit_sram (s : State) (a i : Nat) : (s.setBit a i).sram = s.sram := rfl
@[simp] theorem State.setBit_cores (s : State) (a i : Nat) : (s.setBit a i).cores = s.cores := rfl
@[simp] theorem State.setBit_stks (s : State) (a i : Nat) : (s.setBit a i).stks = s.stks := rfl
@[simp] theorem State.setBit_hbm (s : State) (a i : Nat) : (s.setBit a i).hbm = s.hbm := rfl
@[simp] theorem State.setBit_points (s : State) (a i : Nat) : (s.setBit a i).points = s.points := rfl
@[simp] theorem State.setBit_links (s : State) (a i : Nat) : (s.setBit a i).links = s.links := rfl
@[simp] theorem State.setBit_tick (s : State) (a i : Nat) : (s.setBit a i).tick = s.tick := rfl
@[simp] theorem State.setBit_tsync (s : State) (a i : Nat) : (s.setBit a i).tsync = s.tsync := rfl
@[simp] theorem State.setBit_power (s : State) (a i : Nat) : (s.setBit a i).power = s.power := rfl
@[simp] theorem State.setBit_thermal (s : State) (a i : Nat) : (s.setBit a i).thermal = s.thermal := rfl
@[simp] theorem State.setBit_boot (s : State) (a i : Nat) : (s.setBit a i).boot = s.boot := rfl
@[simp] theorem State.setBit_roles (s : State) (a i : Nat) : (s.setBit a i).roles = s.roles := rfl
@[simp] theorem State.setBit_faults (s : State) (a i : Nat) : (s.setBit a i).faults = s.faults := rfl
@[simp] theorem State.setBit_erl (s : State) (a i : Nat) : (s.setBit a i).erl = s.erl := rfl
@[simp] theorem State.setBit_pcie (s : State) (a i : Nat) : (s.setBit a i).pcie = s.pcie := rfl
@[simp] theorem State.setBit_smb (s : State) (a i : Nat) : (s.setBit a i).smb = s.smb := rfl
@[simp] theorem State.setBit_jtag (s : State) (a i : Nat) : (s.setBit a i).jtag = s.jtag := rfl
@[simp] theorem State.setBit_lands (s : State) (a i : Nat) : (s.setBit a i).lands = s.lands := rfl
@[simp] theorem State.setBit_fuses (s : State) (a i : Nat) : (s.setBit a i).fuses = s.fuses := rfl
@[simp] theorem State.setBit_frozenHost (s : State) (a i : Nat) : (s.setBit a i).frozenHost = s.frozenHost := rfl
@[simp] theorem State.setBit_frozenMgmt (s : State) (a i : Nat) : (s.setBit a i).frozenMgmt = s.frozenMgmt := rfl
@[simp] theorem State.setBit_latch (s : State) (a i : Nat) : (s.setBit a i).latch = s.latch := rfl
@[simp] theorem State.setBit_routeLo (s : State) (a i : Nat) : (s.setBit a i).routeLo = s.routeLo := rfl
@[simp] theorem State.setBit_routeStaged (s : State) (a i : Nat) : (s.setBit a i).routeStaged = s.routeStaged := rfl
@[simp] theorem State.setBit_inbox (s : State) (a i : Nat) : (s.setBit a i).inbox = s.inbox := rfl
@[simp] theorem State.setBit_answer (s : State) (a i : Nat) : (s.setBit a i).answer = s.answer := rfl
@[simp] theorem State.setBit_bwrWin (s : State) (a i : Nat) : (s.setBit a i).bwrWin = s.bwrWin := rfl
@[simp] theorem State.setBit_meas (s : State) (a i : Nat) : (s.setBit a i).meas = s.meas := rfl
@[simp] theorem State.setBit_now (s : State) (a i : Nat) : (s.setBit a i).now = s.now := rfl
@[simp] theorem State.setBit_tb (s : State) (a i : Nat) : (s.setBit a i).tb = s.tb := rfl
@[simp] theorem State.setBit_freeCtr (s : State) (a i : Nat) : (s.setBit a i).freeCtr = s.freeCtr := rfl
@[simp] theorem State.setBit_pending (s : State) (a i : Nat) : (s.setBit a i).pending = s.pending := rfl

/-! ### State.clrBit -/
@[simp] theorem State.clrBit_live (s : State) (a i : Nat) : (s.clrBit a i).live = s.live := rfl
@[simp] theorem State.clrBit_mem (s : State) (a i : Nat) : (s.clrBit a i).mem = s.mem := rfl
@[simp] theorem State.clrBit_sram (s : State) (a i : Nat) : (s.clrBit a i).sram = s.sram := rfl
@[simp] theorem State.clrBit_cores (s : State) (a i : Nat) : (s.clrBit a i).cores = s.cores := rfl
@[simp] theorem State.clrBit_stks (s : State) (a i : Nat) : (s.clrBit a i).stks = s.stks := rfl
@[simp] theorem State.clrBit_hbm (s : State) (a i : Nat) : (s.clrBit a i).hbm = s.hbm := rfl
@[simp] theorem State.clrBit_points (s : State) (a i : Nat) : (s.clrBit a i).points = s.points := rfl
@[simp] theorem State.clrBit_links (s : State) (a i : Nat) : (s.clrBit a i).links = s.links := rfl
@[simp] theorem State.clrBit_tick (s : State) (a i : Nat) : (s.clrBit a i).tick = s.tick := rfl
@[simp] theorem State.clrBit_tsync (s : State) (a i : Nat) : (s.clrBit a i).tsync = s.tsync := rfl
@[simp] theorem State.clrBit_power (s : State) (a i : Nat) : (s.clrBit a i).power = s.power := rfl
@[simp] theorem State.clrBit_thermal (s : State) (a i : Nat) : (s.clrBit a i).thermal = s.thermal := rfl
@[simp] theorem State.clrBit_boot (s : State) (a i : Nat) : (s.clrBit a i).boot = s.boot := rfl
@[simp] theorem State.clrBit_roles (s : State) (a i : Nat) : (s.clrBit a i).roles = s.roles := rfl
@[simp] theorem State.clrBit_faults (s : State) (a i : Nat) : (s.clrBit a i).faults = s.faults := rfl
@[simp] theorem State.clrBit_erl (s : State) (a i : Nat) : (s.clrBit a i).erl = s.erl := rfl
@[simp] theorem State.clrBit_pcie (s : State) (a i : Nat) : (s.clrBit a i).pcie = s.pcie := rfl
@[simp] theorem State.clrBit_smb (s : State) (a i : Nat) : (s.clrBit a i).smb = s.smb := rfl
@[simp] theorem State.clrBit_jtag (s : State) (a i : Nat) : (s.clrBit a i).jtag = s.jtag := rfl
@[simp] theorem State.clrBit_lands (s : State) (a i : Nat) : (s.clrBit a i).lands = s.lands := rfl
@[simp] theorem State.clrBit_fuses (s : State) (a i : Nat) : (s.clrBit a i).fuses = s.fuses := rfl
@[simp] theorem State.clrBit_frozenHost (s : State) (a i : Nat) : (s.clrBit a i).frozenHost = s.frozenHost := rfl
@[simp] theorem State.clrBit_frozenMgmt (s : State) (a i : Nat) : (s.clrBit a i).frozenMgmt = s.frozenMgmt := rfl
@[simp] theorem State.clrBit_latch (s : State) (a i : Nat) : (s.clrBit a i).latch = s.latch := rfl
@[simp] theorem State.clrBit_routeLo (s : State) (a i : Nat) : (s.clrBit a i).routeLo = s.routeLo := rfl
@[simp] theorem State.clrBit_routeStaged (s : State) (a i : Nat) : (s.clrBit a i).routeStaged = s.routeStaged := rfl
@[simp] theorem State.clrBit_inbox (s : State) (a i : Nat) : (s.clrBit a i).inbox = s.inbox := rfl
@[simp] theorem State.clrBit_answer (s : State) (a i : Nat) : (s.clrBit a i).answer = s.answer := rfl
@[simp] theorem State.clrBit_bwrWin (s : State) (a i : Nat) : (s.clrBit a i).bwrWin = s.bwrWin := rfl
@[simp] theorem State.clrBit_meas (s : State) (a i : Nat) : (s.clrBit a i).meas = s.meas := rfl
@[simp] theorem State.clrBit_now (s : State) (a i : Nat) : (s.clrBit a i).now = s.now := rfl
@[simp] theorem State.clrBit_tb (s : State) (a i : Nat) : (s.clrBit a i).tb = s.tb := rfl
@[simp] theorem State.clrBit_freeCtr (s : State) (a i : Nat) : (s.clrBit a i).freeCtr = s.freeCtr := rfl
@[simp] theorem State.clrBit_pending (s : State) (a i : Nat) : (s.clrBit a i).pending = s.pending := rfl

/-! ### State.setPair -/
@[simp] theorem State.setPair_live (s : State) (a v : Nat) : (s.setPair a v).live = s.live := rfl
@[simp] theorem State.setPair_mem (s : State) (a v : Nat) : (s.setPair a v).mem = s.mem := rfl
@[simp] theorem State.setPair_sram (s : State) (a v : Nat) : (s.setPair a v).sram = s.sram := rfl
@[simp] theorem State.setPair_cores (s : State) (a v : Nat) : (s.setPair a v).cores = s.cores := rfl
@[simp] theorem State.setPair_stks (s : State) (a v : Nat) : (s.setPair a v).stks = s.stks := rfl
@[simp] theorem State.setPair_hbm (s : State) (a v : Nat) : (s.setPair a v).hbm = s.hbm := rfl
@[simp] theorem State.setPair_points (s : State) (a v : Nat) : (s.setPair a v).points = s.points := rfl
@[simp] theorem State.setPair_links (s : State) (a v : Nat) : (s.setPair a v).links = s.links := rfl
@[simp] theorem State.setPair_tick (s : State) (a v : Nat) : (s.setPair a v).tick = s.tick := rfl
@[simp] theorem State.setPair_tsync (s : State) (a v : Nat) : (s.setPair a v).tsync = s.tsync := rfl
@[simp] theorem State.setPair_power (s : State) (a v : Nat) : (s.setPair a v).power = s.power := rfl
@[simp] theorem State.setPair_thermal (s : State) (a v : Nat) : (s.setPair a v).thermal = s.thermal := rfl
@[simp] theorem State.setPair_boot (s : State) (a v : Nat) : (s.setPair a v).boot = s.boot := rfl
@[simp] theorem State.setPair_roles (s : State) (a v : Nat) : (s.setPair a v).roles = s.roles := rfl
@[simp] theorem State.setPair_faults (s : State) (a v : Nat) : (s.setPair a v).faults = s.faults := rfl
@[simp] theorem State.setPair_erl (s : State) (a v : Nat) : (s.setPair a v).erl = s.erl := rfl
@[simp] theorem State.setPair_pcie (s : State) (a v : Nat) : (s.setPair a v).pcie = s.pcie := rfl
@[simp] theorem State.setPair_smb (s : State) (a v : Nat) : (s.setPair a v).smb = s.smb := rfl
@[simp] theorem State.setPair_jtag (s : State) (a v : Nat) : (s.setPair a v).jtag = s.jtag := rfl
@[simp] theorem State.setPair_lands (s : State) (a v : Nat) : (s.setPair a v).lands = s.lands := rfl
@[simp] theorem State.setPair_fuses (s : State) (a v : Nat) : (s.setPair a v).fuses = s.fuses := rfl
@[simp] theorem State.setPair_frozenHost (s : State) (a v : Nat) : (s.setPair a v).frozenHost = s.frozenHost := rfl
@[simp] theorem State.setPair_frozenMgmt (s : State) (a v : Nat) : (s.setPair a v).frozenMgmt = s.frozenMgmt := rfl
@[simp] theorem State.setPair_latch (s : State) (a v : Nat) : (s.setPair a v).latch = s.latch := rfl
@[simp] theorem State.setPair_routeLo (s : State) (a v : Nat) : (s.setPair a v).routeLo = s.routeLo := rfl
@[simp] theorem State.setPair_routeStaged (s : State) (a v : Nat) : (s.setPair a v).routeStaged = s.routeStaged := rfl
@[simp] theorem State.setPair_inbox (s : State) (a v : Nat) : (s.setPair a v).inbox = s.inbox := rfl
@[simp] theorem State.setPair_answer (s : State) (a v : Nat) : (s.setPair a v).answer = s.answer := rfl
@[simp] theorem State.setPair_bwrWin (s : State) (a v : Nat) : (s.setPair a v).bwrWin = s.bwrWin := rfl
@[simp] theorem State.setPair_meas (s : State) (a v : Nat) : (s.setPair a v).meas = s.meas := rfl
@[simp] theorem State.setPair_now (s : State) (a v : Nat) : (s.setPair a v).now = s.now := rfl
@[simp] theorem State.setPair_tb (s : State) (a v : Nat) : (s.setPair a v).tb = s.tb := rfl
@[simp] theorem State.setPair_freeCtr (s : State) (a v : Nat) : (s.setPair a v).freeCtr = s.freeCtr := rfl
@[simp] theorem State.setPair_pending (s : State) (a v : Nat) : (s.setPair a v).pending = s.pending := rfl

/-! ### State.bump -/
@[simp] theorem State.bump_live (s : State) (a : Nat) (f : Fld) (n : Nat) : (s.bump a f n).live = s.live := rfl
@[simp] theorem State.bump_mem (s : State) (a : Nat) (f : Fld) (n : Nat) : (s.bump a f n).mem = s.mem := rfl
@[simp] theorem State.bump_sram (s : State) (a : Nat) (f : Fld) (n : Nat) : (s.bump a f n).sram = s.sram := rfl
@[simp] theorem State.bump_cores (s : State) (a : Nat) (f : Fld) (n : Nat) :
    (s.bump a f n).cores = s.cores := rfl
@[simp] theorem State.bump_stks (s : State) (a : Nat) (f : Fld) (n : Nat) : (s.bump a f n).stks = s.stks := rfl
@[simp] theorem State.bump_hbm (s : State) (a : Nat) (f : Fld) (n : Nat) : (s.bump a f n).hbm = s.hbm := rfl
@[simp] theorem State.bump_points (s : State) (a : Nat) (f : Fld) (n : Nat) :
    (s.bump a f n).points = s.points := rfl
@[simp] theorem State.bump_links (s : State) (a : Nat) (f : Fld) (n : Nat) :
    (s.bump a f n).links = s.links := rfl
@[simp] theorem State.bump_tick (s : State) (a : Nat) (f : Fld) (n : Nat) : (s.bump a f n).tick = s.tick := rfl
@[simp] theorem State.bump_tsync (s : State) (a : Nat) (f : Fld) (n : Nat) :
    (s.bump a f n).tsync = s.tsync := rfl
@[simp] theorem State.bump_power (s : State) (a : Nat) (f : Fld) (n : Nat) :
    (s.bump a f n).power = s.power := rfl
@[simp] theorem State.bump_thermal (s : State) (a : Nat) (f : Fld) (n : Nat) :
    (s.bump a f n).thermal = s.thermal := rfl
@[simp] theorem State.bump_boot (s : State) (a : Nat) (f : Fld) (n : Nat) : (s.bump a f n).boot = s.boot := rfl
@[simp] theorem State.bump_roles (s : State) (a : Nat) (f : Fld) (n : Nat) :
    (s.bump a f n).roles = s.roles := rfl
@[simp] theorem State.bump_faults (s : State) (a : Nat) (f : Fld) (n : Nat) :
    (s.bump a f n).faults = s.faults := rfl
@[simp] theorem State.bump_erl (s : State) (a : Nat) (f : Fld) (n : Nat) : (s.bump a f n).erl = s.erl := rfl
@[simp] theorem State.bump_pcie (s : State) (a : Nat) (f : Fld) (n : Nat) : (s.bump a f n).pcie = s.pcie := rfl
@[simp] theorem State.bump_smb (s : State) (a : Nat) (f : Fld) (n : Nat) : (s.bump a f n).smb = s.smb := rfl
@[simp] theorem State.bump_jtag (s : State) (a : Nat) (f : Fld) (n : Nat) : (s.bump a f n).jtag = s.jtag := rfl
@[simp] theorem State.bump_lands (s : State) (a : Nat) (f : Fld) (n : Nat) :
    (s.bump a f n).lands = s.lands := rfl
@[simp] theorem State.bump_fuses (s : State) (a : Nat) (f : Fld) (n : Nat) :
    (s.bump a f n).fuses = s.fuses := rfl
@[simp] theorem State.bump_frozenHost (s : State) (a : Nat) (f : Fld) (n : Nat) :
    (s.bump a f n).frozenHost = s.frozenHost := rfl
@[simp] theorem State.bump_frozenMgmt (s : State) (a : Nat) (f : Fld) (n : Nat) :
    (s.bump a f n).frozenMgmt = s.frozenMgmt := rfl
@[simp] theorem State.bump_latch (s : State) (a : Nat) (f : Fld) (n : Nat) :
    (s.bump a f n).latch = s.latch := rfl
@[simp] theorem State.bump_routeLo (s : State) (a : Nat) (f : Fld) (n : Nat) :
    (s.bump a f n).routeLo = s.routeLo := rfl
@[simp] theorem State.bump_routeStaged (s : State) (a : Nat) (f : Fld) (n : Nat) :
    (s.bump a f n).routeStaged = s.routeStaged := rfl
@[simp] theorem State.bump_inbox (s : State) (a : Nat) (f : Fld) (n : Nat) :
    (s.bump a f n).inbox = s.inbox := rfl
@[simp] theorem State.bump_answer (s : State) (a : Nat) (f : Fld) (n : Nat) :
    (s.bump a f n).answer = s.answer := rfl
@[simp] theorem State.bump_bwrWin (s : State) (a : Nat) (f : Fld) (n : Nat) :
    (s.bump a f n).bwrWin = s.bwrWin := rfl
@[simp] theorem State.bump_meas (s : State) (a : Nat) (f : Fld) (n : Nat) : (s.bump a f n).meas = s.meas := rfl
@[simp] theorem State.bump_now (s : State) (a : Nat) (f : Fld) (n : Nat) : (s.bump a f n).now = s.now := rfl
@[simp] theorem State.bump_tb (s : State) (a : Nat) (f : Fld) (n : Nat) : (s.bump a f n).tb = s.tb := rfl
@[simp] theorem State.bump_freeCtr (s : State) (a : Nat) (f : Fld) (n : Nat) :
    (s.bump a f n).freeCtr = s.freeCtr := rfl
@[simp] theorem State.bump_pending (s : State) (a : Nat) (f : Fld) (n : Nat) :
    (s.bump a f n).pending = s.pending := rfl

/-! ### State.setLive -/
@[simp] theorem State.setLive_regs (s : State) (a v : Nat) : (s.setLive a v).regs = s.regs := rfl
@[simp] theorem State.setLive_mem (s : State) (a v : Nat) : (s.setLive a v).mem = s.mem := rfl
@[simp] theorem State.setLive_sram (s : State) (a v : Nat) : (s.setLive a v).sram = s.sram := rfl
@[simp] theorem State.setLive_cores (s : State) (a v : Nat) : (s.setLive a v).cores = s.cores := rfl
@[simp] theorem State.setLive_stks (s : State) (a v : Nat) : (s.setLive a v).stks = s.stks := rfl
@[simp] theorem State.setLive_hbm (s : State) (a v : Nat) : (s.setLive a v).hbm = s.hbm := rfl
@[simp] theorem State.setLive_points (s : State) (a v : Nat) : (s.setLive a v).points = s.points := rfl
@[simp] theorem State.setLive_links (s : State) (a v : Nat) : (s.setLive a v).links = s.links := rfl
@[simp] theorem State.setLive_tick (s : State) (a v : Nat) : (s.setLive a v).tick = s.tick := rfl
@[simp] theorem State.setLive_tsync (s : State) (a v : Nat) : (s.setLive a v).tsync = s.tsync := rfl
@[simp] theorem State.setLive_power (s : State) (a v : Nat) : (s.setLive a v).power = s.power := rfl
@[simp] theorem State.setLive_thermal (s : State) (a v : Nat) : (s.setLive a v).thermal = s.thermal := rfl
@[simp] theorem State.setLive_boot (s : State) (a v : Nat) : (s.setLive a v).boot = s.boot := rfl
@[simp] theorem State.setLive_roles (s : State) (a v : Nat) : (s.setLive a v).roles = s.roles := rfl
@[simp] theorem State.setLive_faults (s : State) (a v : Nat) : (s.setLive a v).faults = s.faults := rfl
@[simp] theorem State.setLive_erl (s : State) (a v : Nat) : (s.setLive a v).erl = s.erl := rfl
@[simp] theorem State.setLive_pcie (s : State) (a v : Nat) : (s.setLive a v).pcie = s.pcie := rfl
@[simp] theorem State.setLive_smb (s : State) (a v : Nat) : (s.setLive a v).smb = s.smb := rfl
@[simp] theorem State.setLive_jtag (s : State) (a v : Nat) : (s.setLive a v).jtag = s.jtag := rfl
@[simp] theorem State.setLive_lands (s : State) (a v : Nat) : (s.setLive a v).lands = s.lands := rfl
@[simp] theorem State.setLive_fuses (s : State) (a v : Nat) : (s.setLive a v).fuses = s.fuses := rfl
@[simp] theorem State.setLive_frozenHost (s : State) (a v : Nat) : (s.setLive a v).frozenHost = s.frozenHost := rfl
@[simp] theorem State.setLive_frozenMgmt (s : State) (a v : Nat) : (s.setLive a v).frozenMgmt = s.frozenMgmt := rfl
@[simp] theorem State.setLive_latch (s : State) (a v : Nat) : (s.setLive a v).latch = s.latch := rfl
@[simp] theorem State.setLive_routeLo (s : State) (a v : Nat) : (s.setLive a v).routeLo = s.routeLo := rfl
@[simp] theorem State.setLive_routeStaged (s : State) (a v : Nat) : (s.setLive a v).routeStaged = s.routeStaged := rfl
@[simp] theorem State.setLive_inbox (s : State) (a v : Nat) : (s.setLive a v).inbox = s.inbox := rfl
@[simp] theorem State.setLive_answer (s : State) (a v : Nat) : (s.setLive a v).answer = s.answer := rfl
@[simp] theorem State.setLive_bwrWin (s : State) (a v : Nat) : (s.setLive a v).bwrWin = s.bwrWin := rfl
@[simp] theorem State.setLive_meas (s : State) (a v : Nat) : (s.setLive a v).meas = s.meas := rfl
@[simp] theorem State.setLive_now (s : State) (a v : Nat) : (s.setLive a v).now = s.now := rfl
@[simp] theorem State.setLive_tb (s : State) (a v : Nat) : (s.setLive a v).tb = s.tb := rfl
@[simp] theorem State.setLive_freeCtr (s : State) (a v : Nat) : (s.setLive a v).freeCtr = s.freeCtr := rfl
@[simp] theorem State.setLive_pending (s : State) (a v : Nat) : (s.setLive a v).pending = s.pending := rfl

/-! ### State.count -/
@[simp] theorem State.count_regs (s : State) (a n : Nat) : (s.count a n).regs = s.regs := rfl
@[simp] theorem State.count_mem (s : State) (a n : Nat) : (s.count a n).mem = s.mem := rfl
@[simp] theorem State.count_sram (s : State) (a n : Nat) : (s.count a n).sram = s.sram := rfl
@[simp] theorem State.count_cores (s : State) (a n : Nat) : (s.count a n).cores = s.cores := rfl
@[simp] theorem State.count_stks (s : State) (a n : Nat) : (s.count a n).stks = s.stks := rfl
@[simp] theorem State.count_hbm (s : State) (a n : Nat) : (s.count a n).hbm = s.hbm := rfl
@[simp] theorem State.count_points (s : State) (a n : Nat) : (s.count a n).points = s.points := rfl
@[simp] theorem State.count_links (s : State) (a n : Nat) : (s.count a n).links = s.links := rfl
@[simp] theorem State.count_tick (s : State) (a n : Nat) : (s.count a n).tick = s.tick := rfl
@[simp] theorem State.count_tsync (s : State) (a n : Nat) : (s.count a n).tsync = s.tsync := rfl
@[simp] theorem State.count_power (s : State) (a n : Nat) : (s.count a n).power = s.power := rfl
@[simp] theorem State.count_thermal (s : State) (a n : Nat) : (s.count a n).thermal = s.thermal := rfl
@[simp] theorem State.count_boot (s : State) (a n : Nat) : (s.count a n).boot = s.boot := rfl
@[simp] theorem State.count_roles (s : State) (a n : Nat) : (s.count a n).roles = s.roles := rfl
@[simp] theorem State.count_faults (s : State) (a n : Nat) : (s.count a n).faults = s.faults := rfl
@[simp] theorem State.count_erl (s : State) (a n : Nat) : (s.count a n).erl = s.erl := rfl
@[simp] theorem State.count_pcie (s : State) (a n : Nat) : (s.count a n).pcie = s.pcie := rfl
@[simp] theorem State.count_smb (s : State) (a n : Nat) : (s.count a n).smb = s.smb := rfl
@[simp] theorem State.count_jtag (s : State) (a n : Nat) : (s.count a n).jtag = s.jtag := rfl
@[simp] theorem State.count_lands (s : State) (a n : Nat) : (s.count a n).lands = s.lands := rfl
@[simp] theorem State.count_fuses (s : State) (a n : Nat) : (s.count a n).fuses = s.fuses := rfl
@[simp] theorem State.count_frozenHost (s : State) (a n : Nat) : (s.count a n).frozenHost = s.frozenHost := rfl
@[simp] theorem State.count_frozenMgmt (s : State) (a n : Nat) : (s.count a n).frozenMgmt = s.frozenMgmt := rfl
@[simp] theorem State.count_latch (s : State) (a n : Nat) : (s.count a n).latch = s.latch := rfl
@[simp] theorem State.count_routeLo (s : State) (a n : Nat) : (s.count a n).routeLo = s.routeLo := rfl
@[simp] theorem State.count_routeStaged (s : State) (a n : Nat) : (s.count a n).routeStaged = s.routeStaged := rfl
@[simp] theorem State.count_inbox (s : State) (a n : Nat) : (s.count a n).inbox = s.inbox := rfl
@[simp] theorem State.count_answer (s : State) (a n : Nat) : (s.count a n).answer = s.answer := rfl
@[simp] theorem State.count_bwrWin (s : State) (a n : Nat) : (s.count a n).bwrWin = s.bwrWin := rfl
@[simp] theorem State.count_meas (s : State) (a n : Nat) : (s.count a n).meas = s.meas := rfl
@[simp] theorem State.count_now (s : State) (a n : Nat) : (s.count a n).now = s.now := rfl
@[simp] theorem State.count_tb (s : State) (a n : Nat) : (s.count a n).tb = s.tb := rfl
@[simp] theorem State.count_freeCtr (s : State) (a n : Nat) : (s.count a n).freeCtr = s.freeCtr := rfl
@[simp] theorem State.count_pending (s : State) (a n : Nat) : (s.count a n).pending = s.pending := rfl

/-! ### State.setCore -/
@[simp] theorem State.setCore_regs (s : State) (i : Nat) (c : Core) : (s.setCore i c).regs = s.regs := rfl
@[simp] theorem State.setCore_live (s : State) (i : Nat) (c : Core) : (s.setCore i c).live = s.live := rfl
@[simp] theorem State.setCore_mem (s : State) (i : Nat) (c : Core) : (s.setCore i c).mem = s.mem := rfl
@[simp] theorem State.setCore_sram (s : State) (i : Nat) (c : Core) : (s.setCore i c).sram = s.sram := rfl
@[simp] theorem State.setCore_stks (s : State) (i : Nat) (c : Core) : (s.setCore i c).stks = s.stks := rfl
@[simp] theorem State.setCore_hbm (s : State) (i : Nat) (c : Core) : (s.setCore i c).hbm = s.hbm := rfl
@[simp] theorem State.setCore_points (s : State) (i : Nat) (c : Core) : (s.setCore i c).points = s.points := rfl
@[simp] theorem State.setCore_links (s : State) (i : Nat) (c : Core) : (s.setCore i c).links = s.links := rfl
@[simp] theorem State.setCore_tick (s : State) (i : Nat) (c : Core) : (s.setCore i c).tick = s.tick := rfl
@[simp] theorem State.setCore_tsync (s : State) (i : Nat) (c : Core) : (s.setCore i c).tsync = s.tsync := rfl
@[simp] theorem State.setCore_power (s : State) (i : Nat) (c : Core) : (s.setCore i c).power = s.power := rfl
@[simp] theorem State.setCore_thermal (s : State) (i : Nat) (c : Core) : (s.setCore i c).thermal = s.thermal := rfl
@[simp] theorem State.setCore_boot (s : State) (i : Nat) (c : Core) : (s.setCore i c).boot = s.boot := rfl
@[simp] theorem State.setCore_roles (s : State) (i : Nat) (c : Core) : (s.setCore i c).roles = s.roles := rfl
@[simp] theorem State.setCore_faults (s : State) (i : Nat) (c : Core) : (s.setCore i c).faults = s.faults := rfl
@[simp] theorem State.setCore_erl (s : State) (i : Nat) (c : Core) : (s.setCore i c).erl = s.erl := rfl
@[simp] theorem State.setCore_pcie (s : State) (i : Nat) (c : Core) : (s.setCore i c).pcie = s.pcie := rfl
@[simp] theorem State.setCore_smb (s : State) (i : Nat) (c : Core) : (s.setCore i c).smb = s.smb := rfl
@[simp] theorem State.setCore_jtag (s : State) (i : Nat) (c : Core) : (s.setCore i c).jtag = s.jtag := rfl
@[simp] theorem State.setCore_lands (s : State) (i : Nat) (c : Core) : (s.setCore i c).lands = s.lands := rfl
@[simp] theorem State.setCore_fuses (s : State) (i : Nat) (c : Core) : (s.setCore i c).fuses = s.fuses := rfl
@[simp] theorem State.setCore_frozenHost (s : State) (i : Nat) (c : Core) :
    (s.setCore i c).frozenHost = s.frozenHost := rfl
@[simp] theorem State.setCore_frozenMgmt (s : State) (i : Nat) (c : Core) :
    (s.setCore i c).frozenMgmt = s.frozenMgmt := rfl
@[simp] theorem State.setCore_latch (s : State) (i : Nat) (c : Core) : (s.setCore i c).latch = s.latch := rfl
@[simp] theorem State.setCore_routeLo (s : State) (i : Nat) (c : Core) : (s.setCore i c).routeLo = s.routeLo := rfl
@[simp] theorem State.setCore_routeStaged (s : State) (i : Nat) (c : Core) :
    (s.setCore i c).routeStaged = s.routeStaged := rfl
@[simp] theorem State.setCore_inbox (s : State) (i : Nat) (c : Core) : (s.setCore i c).inbox = s.inbox := rfl
@[simp] theorem State.setCore_answer (s : State) (i : Nat) (c : Core) : (s.setCore i c).answer = s.answer := rfl
@[simp] theorem State.setCore_bwrWin (s : State) (i : Nat) (c : Core) : (s.setCore i c).bwrWin = s.bwrWin := rfl
@[simp] theorem State.setCore_meas (s : State) (i : Nat) (c : Core) : (s.setCore i c).meas = s.meas := rfl
@[simp] theorem State.setCore_now (s : State) (i : Nat) (c : Core) : (s.setCore i c).now = s.now := rfl
@[simp] theorem State.setCore_tb (s : State) (i : Nat) (c : Core) : (s.setCore i c).tb = s.tb := rfl
@[simp] theorem State.setCore_freeCtr (s : State) (i : Nat) (c : Core) : (s.setCore i c).freeCtr = s.freeCtr := rfl
@[simp] theorem State.setCore_pending (s : State) (i : Nat) (c : Core) : (s.setCore i c).pending = s.pending := rfl

/-! ### State.setSlot -/
@[simp] theorem State.setSlot_regs (s : State) (i g : Nat) (x : Slot) : (s.setSlot i g x).regs = s.regs := rfl
@[simp] theorem State.setSlot_live (s : State) (i g : Nat) (x : Slot) : (s.setSlot i g x).live = s.live := rfl
@[simp] theorem State.setSlot_mem (s : State) (i g : Nat) (x : Slot) : (s.setSlot i g x).mem = s.mem := rfl
@[simp] theorem State.setSlot_sram (s : State) (i g : Nat) (x : Slot) : (s.setSlot i g x).sram = s.sram := rfl
@[simp] theorem State.setSlot_stks (s : State) (i g : Nat) (x : Slot) : (s.setSlot i g x).stks = s.stks := rfl
@[simp] theorem State.setSlot_hbm (s : State) (i g : Nat) (x : Slot) : (s.setSlot i g x).hbm = s.hbm := rfl
@[simp] theorem State.setSlot_points (s : State) (i g : Nat) (x : Slot) :
    (s.setSlot i g x).points = s.points := rfl
@[simp] theorem State.setSlot_links (s : State) (i g : Nat) (x : Slot) : (s.setSlot i g x).links = s.links := rfl
@[simp] theorem State.setSlot_tick (s : State) (i g : Nat) (x : Slot) : (s.setSlot i g x).tick = s.tick := rfl
@[simp] theorem State.setSlot_tsync (s : State) (i g : Nat) (x : Slot) : (s.setSlot i g x).tsync = s.tsync := rfl
@[simp] theorem State.setSlot_power (s : State) (i g : Nat) (x : Slot) : (s.setSlot i g x).power = s.power := rfl
@[simp] theorem State.setSlot_thermal (s : State) (i g : Nat) (x : Slot) :
    (s.setSlot i g x).thermal = s.thermal := rfl
@[simp] theorem State.setSlot_boot (s : State) (i g : Nat) (x : Slot) : (s.setSlot i g x).boot = s.boot := rfl
@[simp] theorem State.setSlot_roles (s : State) (i g : Nat) (x : Slot) : (s.setSlot i g x).roles = s.roles := rfl
@[simp] theorem State.setSlot_faults (s : State) (i g : Nat) (x : Slot) :
    (s.setSlot i g x).faults = s.faults := rfl
@[simp] theorem State.setSlot_erl (s : State) (i g : Nat) (x : Slot) : (s.setSlot i g x).erl = s.erl := rfl
@[simp] theorem State.setSlot_pcie (s : State) (i g : Nat) (x : Slot) : (s.setSlot i g x).pcie = s.pcie := rfl
@[simp] theorem State.setSlot_smb (s : State) (i g : Nat) (x : Slot) : (s.setSlot i g x).smb = s.smb := rfl
@[simp] theorem State.setSlot_jtag (s : State) (i g : Nat) (x : Slot) : (s.setSlot i g x).jtag = s.jtag := rfl
@[simp] theorem State.setSlot_lands (s : State) (i g : Nat) (x : Slot) : (s.setSlot i g x).lands = s.lands := rfl
@[simp] theorem State.setSlot_fuses (s : State) (i g : Nat) (x : Slot) : (s.setSlot i g x).fuses = s.fuses := rfl
@[simp] theorem State.setSlot_frozenHost (s : State) (i g : Nat) (x : Slot) :
    (s.setSlot i g x).frozenHost = s.frozenHost := rfl
@[simp] theorem State.setSlot_frozenMgmt (s : State) (i g : Nat) (x : Slot) :
    (s.setSlot i g x).frozenMgmt = s.frozenMgmt := rfl
@[simp] theorem State.setSlot_latch (s : State) (i g : Nat) (x : Slot) : (s.setSlot i g x).latch = s.latch := rfl
@[simp] theorem State.setSlot_routeLo (s : State) (i g : Nat) (x : Slot) :
    (s.setSlot i g x).routeLo = s.routeLo := rfl
@[simp] theorem State.setSlot_routeStaged (s : State) (i g : Nat) (x : Slot) :
    (s.setSlot i g x).routeStaged = s.routeStaged := rfl
@[simp] theorem State.setSlot_inbox (s : State) (i g : Nat) (x : Slot) : (s.setSlot i g x).inbox = s.inbox := rfl
@[simp] theorem State.setSlot_answer (s : State) (i g : Nat) (x : Slot) :
    (s.setSlot i g x).answer = s.answer := rfl
@[simp] theorem State.setSlot_bwrWin (s : State) (i g : Nat) (x : Slot) :
    (s.setSlot i g x).bwrWin = s.bwrWin := rfl
@[simp] theorem State.setSlot_meas (s : State) (i g : Nat) (x : Slot) : (s.setSlot i g x).meas = s.meas := rfl
@[simp] theorem State.setSlot_now (s : State) (i g : Nat) (x : Slot) : (s.setSlot i g x).now = s.now := rfl
@[simp] theorem State.setSlot_tb (s : State) (i g : Nat) (x : Slot) : (s.setSlot i g x).tb = s.tb := rfl
@[simp] theorem State.setSlot_freeCtr (s : State) (i g : Nat) (x : Slot) :
    (s.setSlot i g x).freeCtr = s.freeCtr := rfl
@[simp] theorem State.setSlot_pending (s : State) (i g : Nat) (x : Slot) :
    (s.setSlot i g x).pending = s.pending := rfl

/-! ### updCore -/
@[simp] theorem updCore_regs (s : State) (i : Nat) (f : Core → Core) : (updCore i f s).regs = s.regs := rfl
@[simp] theorem updCore_live (s : State) (i : Nat) (f : Core → Core) : (updCore i f s).live = s.live := rfl
@[simp] theorem updCore_mem (s : State) (i : Nat) (f : Core → Core) : (updCore i f s).mem = s.mem := rfl
@[simp] theorem updCore_sram (s : State) (i : Nat) (f : Core → Core) : (updCore i f s).sram = s.sram := rfl
@[simp] theorem updCore_stks (s : State) (i : Nat) (f : Core → Core) : (updCore i f s).stks = s.stks := rfl
@[simp] theorem updCore_hbm (s : State) (i : Nat) (f : Core → Core) : (updCore i f s).hbm = s.hbm := rfl
@[simp] theorem updCore_points (s : State) (i : Nat) (f : Core → Core) : (updCore i f s).points = s.points := rfl
@[simp] theorem updCore_links (s : State) (i : Nat) (f : Core → Core) : (updCore i f s).links = s.links := rfl
@[simp] theorem updCore_tick (s : State) (i : Nat) (f : Core → Core) : (updCore i f s).tick = s.tick := rfl
@[simp] theorem updCore_tsync (s : State) (i : Nat) (f : Core → Core) : (updCore i f s).tsync = s.tsync := rfl
@[simp] theorem updCore_power (s : State) (i : Nat) (f : Core → Core) : (updCore i f s).power = s.power := rfl
@[simp] theorem updCore_thermal (s : State) (i : Nat) (f : Core → Core) :
    (updCore i f s).thermal = s.thermal := rfl
@[simp] theorem updCore_boot (s : State) (i : Nat) (f : Core → Core) : (updCore i f s).boot = s.boot := rfl
@[simp] theorem updCore_roles (s : State) (i : Nat) (f : Core → Core) : (updCore i f s).roles = s.roles := rfl
@[simp] theorem updCore_faults (s : State) (i : Nat) (f : Core → Core) : (updCore i f s).faults = s.faults := rfl
@[simp] theorem updCore_erl (s : State) (i : Nat) (f : Core → Core) : (updCore i f s).erl = s.erl := rfl
@[simp] theorem updCore_pcie (s : State) (i : Nat) (f : Core → Core) : (updCore i f s).pcie = s.pcie := rfl
@[simp] theorem updCore_smb (s : State) (i : Nat) (f : Core → Core) : (updCore i f s).smb = s.smb := rfl
@[simp] theorem updCore_jtag (s : State) (i : Nat) (f : Core → Core) : (updCore i f s).jtag = s.jtag := rfl
@[simp] theorem updCore_lands (s : State) (i : Nat) (f : Core → Core) : (updCore i f s).lands = s.lands := rfl
@[simp] theorem updCore_fuses (s : State) (i : Nat) (f : Core → Core) : (updCore i f s).fuses = s.fuses := rfl
@[simp] theorem updCore_frozenHost (s : State) (i : Nat) (f : Core → Core) :
    (updCore i f s).frozenHost = s.frozenHost := rfl
@[simp] theorem updCore_frozenMgmt (s : State) (i : Nat) (f : Core → Core) :
    (updCore i f s).frozenMgmt = s.frozenMgmt := rfl
@[simp] theorem updCore_latch (s : State) (i : Nat) (f : Core → Core) : (updCore i f s).latch = s.latch := rfl
@[simp] theorem updCore_routeLo (s : State) (i : Nat) (f : Core → Core) :
    (updCore i f s).routeLo = s.routeLo := rfl
@[simp] theorem updCore_routeStaged (s : State) (i : Nat) (f : Core → Core) :
    (updCore i f s).routeStaged = s.routeStaged := rfl
@[simp] theorem updCore_inbox (s : State) (i : Nat) (f : Core → Core) : (updCore i f s).inbox = s.inbox := rfl
@[simp] theorem updCore_answer (s : State) (i : Nat) (f : Core → Core) : (updCore i f s).answer = s.answer := rfl
@[simp] theorem updCore_bwrWin (s : State) (i : Nat) (f : Core → Core) : (updCore i f s).bwrWin = s.bwrWin := rfl
@[simp] theorem updCore_meas (s : State) (i : Nat) (f : Core → Core) : (updCore i f s).meas = s.meas := rfl
@[simp] theorem updCore_now (s : State) (i : Nat) (f : Core → Core) : (updCore i f s).now = s.now := rfl
@[simp] theorem updCore_tb (s : State) (i : Nat) (f : Core → Core) : (updCore i f s).tb = s.tb := rfl
@[simp] theorem updCore_freeCtr (s : State) (i : Nat) (f : Core → Core) :
    (updCore i f s).freeCtr = s.freeCtr := rfl
@[simp] theorem updCore_pending (s : State) (i : Nat) (f : Core → Core) :
    (updCore i f s).pending = s.pending := rfl

/-! ### updSlot -/
@[simp] theorem updSlot_regs (s : State) (i g : Nat) (f : Slot → Slot) : (updSlot i g f s).regs = s.regs := rfl
@[simp] theorem updSlot_live (s : State) (i g : Nat) (f : Slot → Slot) : (updSlot i g f s).live = s.live := rfl
@[simp] theorem updSlot_mem (s : State) (i g : Nat) (f : Slot → Slot) : (updSlot i g f s).mem = s.mem := rfl
@[simp] theorem updSlot_sram (s : State) (i g : Nat) (f : Slot → Slot) : (updSlot i g f s).sram = s.sram := rfl
@[simp] theorem updSlot_stks (s : State) (i g : Nat) (f : Slot → Slot) : (updSlot i g f s).stks = s.stks := rfl
@[simp] theorem updSlot_hbm (s : State) (i g : Nat) (f : Slot → Slot) : (updSlot i g f s).hbm = s.hbm := rfl
@[simp] theorem updSlot_points (s : State) (i g : Nat) (f : Slot → Slot) :
    (updSlot i g f s).points = s.points := rfl
@[simp] theorem updSlot_links (s : State) (i g : Nat) (f : Slot → Slot) :
    (updSlot i g f s).links = s.links := rfl
@[simp] theorem updSlot_tick (s : State) (i g : Nat) (f : Slot → Slot) : (updSlot i g f s).tick = s.tick := rfl
@[simp] theorem updSlot_tsync (s : State) (i g : Nat) (f : Slot → Slot) :
    (updSlot i g f s).tsync = s.tsync := rfl
@[simp] theorem updSlot_power (s : State) (i g : Nat) (f : Slot → Slot) :
    (updSlot i g f s).power = s.power := rfl
@[simp] theorem updSlot_thermal (s : State) (i g : Nat) (f : Slot → Slot) :
    (updSlot i g f s).thermal = s.thermal := rfl
@[simp] theorem updSlot_boot (s : State) (i g : Nat) (f : Slot → Slot) : (updSlot i g f s).boot = s.boot := rfl
@[simp] theorem updSlot_roles (s : State) (i g : Nat) (f : Slot → Slot) :
    (updSlot i g f s).roles = s.roles := rfl
@[simp] theorem updSlot_faults (s : State) (i g : Nat) (f : Slot → Slot) :
    (updSlot i g f s).faults = s.faults := rfl
@[simp] theorem updSlot_erl (s : State) (i g : Nat) (f : Slot → Slot) : (updSlot i g f s).erl = s.erl := rfl
@[simp] theorem updSlot_pcie (s : State) (i g : Nat) (f : Slot → Slot) : (updSlot i g f s).pcie = s.pcie := rfl
@[simp] theorem updSlot_smb (s : State) (i g : Nat) (f : Slot → Slot) : (updSlot i g f s).smb = s.smb := rfl
@[simp] theorem updSlot_jtag (s : State) (i g : Nat) (f : Slot → Slot) : (updSlot i g f s).jtag = s.jtag := rfl
@[simp] theorem updSlot_lands (s : State) (i g : Nat) (f : Slot → Slot) :
    (updSlot i g f s).lands = s.lands := rfl
@[simp] theorem updSlot_fuses (s : State) (i g : Nat) (f : Slot → Slot) :
    (updSlot i g f s).fuses = s.fuses := rfl
@[simp] theorem updSlot_frozenHost (s : State) (i g : Nat) (f : Slot → Slot) :
    (updSlot i g f s).frozenHost = s.frozenHost := rfl
@[simp] theorem updSlot_frozenMgmt (s : State) (i g : Nat) (f : Slot → Slot) :
    (updSlot i g f s).frozenMgmt = s.frozenMgmt := rfl
@[simp] theorem updSlot_latch (s : State) (i g : Nat) (f : Slot → Slot) :
    (updSlot i g f s).latch = s.latch := rfl
@[simp] theorem updSlot_routeLo (s : State) (i g : Nat) (f : Slot → Slot) :
    (updSlot i g f s).routeLo = s.routeLo := rfl
@[simp] theorem updSlot_routeStaged (s : State) (i g : Nat) (f : Slot → Slot) :
    (updSlot i g f s).routeStaged = s.routeStaged := rfl
@[simp] theorem updSlot_inbox (s : State) (i g : Nat) (f : Slot → Slot) :
    (updSlot i g f s).inbox = s.inbox := rfl
@[simp] theorem updSlot_answer (s : State) (i g : Nat) (f : Slot → Slot) :
    (updSlot i g f s).answer = s.answer := rfl
@[simp] theorem updSlot_bwrWin (s : State) (i g : Nat) (f : Slot → Slot) :
    (updSlot i g f s).bwrWin = s.bwrWin := rfl
@[simp] theorem updSlot_meas (s : State) (i g : Nat) (f : Slot → Slot) : (updSlot i g f s).meas = s.meas := rfl
@[simp] theorem updSlot_now (s : State) (i g : Nat) (f : Slot → Slot) : (updSlot i g f s).now = s.now := rfl
@[simp] theorem updSlot_tb (s : State) (i g : Nat) (f : Slot → Slot) : (updSlot i g f s).tb = s.tb := rfl
@[simp] theorem updSlot_freeCtr (s : State) (i g : Nat) (f : Slot → Slot) :
    (updSlot i g f s).freeCtr = s.freeCtr := rfl
@[simp] theorem updSlot_pending (s : State) (i g : Nat) (f : Slot → Slot) :
    (updSlot i g f s).pending = s.pending := rfl

/-! ### State.setStk -/
@[simp] theorem State.setStk_regs (s : State) (k : Nat) (x : Stack) : (s.setStk k x).regs = s.regs := rfl
@[simp] theorem State.setStk_live (s : State) (k : Nat) (x : Stack) : (s.setStk k x).live = s.live := rfl
@[simp] theorem State.setStk_mem (s : State) (k : Nat) (x : Stack) : (s.setStk k x).mem = s.mem := rfl
@[simp] theorem State.setStk_sram (s : State) (k : Nat) (x : Stack) : (s.setStk k x).sram = s.sram := rfl
@[simp] theorem State.setStk_cores (s : State) (k : Nat) (x : Stack) : (s.setStk k x).cores = s.cores := rfl
@[simp] theorem State.setStk_hbm (s : State) (k : Nat) (x : Stack) : (s.setStk k x).hbm = s.hbm := rfl
@[simp] theorem State.setStk_points (s : State) (k : Nat) (x : Stack) : (s.setStk k x).points = s.points := rfl
@[simp] theorem State.setStk_links (s : State) (k : Nat) (x : Stack) : (s.setStk k x).links = s.links := rfl
@[simp] theorem State.setStk_tick (s : State) (k : Nat) (x : Stack) : (s.setStk k x).tick = s.tick := rfl
@[simp] theorem State.setStk_tsync (s : State) (k : Nat) (x : Stack) : (s.setStk k x).tsync = s.tsync := rfl
@[simp] theorem State.setStk_power (s : State) (k : Nat) (x : Stack) : (s.setStk k x).power = s.power := rfl
@[simp] theorem State.setStk_thermal (s : State) (k : Nat) (x : Stack) : (s.setStk k x).thermal = s.thermal := rfl
@[simp] theorem State.setStk_boot (s : State) (k : Nat) (x : Stack) : (s.setStk k x).boot = s.boot := rfl
@[simp] theorem State.setStk_roles (s : State) (k : Nat) (x : Stack) : (s.setStk k x).roles = s.roles := rfl
@[simp] theorem State.setStk_faults (s : State) (k : Nat) (x : Stack) : (s.setStk k x).faults = s.faults := rfl
@[simp] theorem State.setStk_erl (s : State) (k : Nat) (x : Stack) : (s.setStk k x).erl = s.erl := rfl
@[simp] theorem State.setStk_pcie (s : State) (k : Nat) (x : Stack) : (s.setStk k x).pcie = s.pcie := rfl
@[simp] theorem State.setStk_smb (s : State) (k : Nat) (x : Stack) : (s.setStk k x).smb = s.smb := rfl
@[simp] theorem State.setStk_jtag (s : State) (k : Nat) (x : Stack) : (s.setStk k x).jtag = s.jtag := rfl
@[simp] theorem State.setStk_lands (s : State) (k : Nat) (x : Stack) : (s.setStk k x).lands = s.lands := rfl
@[simp] theorem State.setStk_fuses (s : State) (k : Nat) (x : Stack) : (s.setStk k x).fuses = s.fuses := rfl
@[simp] theorem State.setStk_frozenHost (s : State) (k : Nat) (x : Stack) :
    (s.setStk k x).frozenHost = s.frozenHost := rfl
@[simp] theorem State.setStk_frozenMgmt (s : State) (k : Nat) (x : Stack) :
    (s.setStk k x).frozenMgmt = s.frozenMgmt := rfl
@[simp] theorem State.setStk_latch (s : State) (k : Nat) (x : Stack) : (s.setStk k x).latch = s.latch := rfl
@[simp] theorem State.setStk_routeLo (s : State) (k : Nat) (x : Stack) : (s.setStk k x).routeLo = s.routeLo := rfl
@[simp] theorem State.setStk_routeStaged (s : State) (k : Nat) (x : Stack) :
    (s.setStk k x).routeStaged = s.routeStaged := rfl
@[simp] theorem State.setStk_inbox (s : State) (k : Nat) (x : Stack) : (s.setStk k x).inbox = s.inbox := rfl
@[simp] theorem State.setStk_answer (s : State) (k : Nat) (x : Stack) : (s.setStk k x).answer = s.answer := rfl
@[simp] theorem State.setStk_bwrWin (s : State) (k : Nat) (x : Stack) : (s.setStk k x).bwrWin = s.bwrWin := rfl
@[simp] theorem State.setStk_meas (s : State) (k : Nat) (x : Stack) : (s.setStk k x).meas = s.meas := rfl
@[simp] theorem State.setStk_now (s : State) (k : Nat) (x : Stack) : (s.setStk k x).now = s.now := rfl
@[simp] theorem State.setStk_tb (s : State) (k : Nat) (x : Stack) : (s.setStk k x).tb = s.tb := rfl
@[simp] theorem State.setStk_freeCtr (s : State) (k : Nat) (x : Stack) : (s.setStk k x).freeCtr = s.freeCtr := rfl
@[simp] theorem State.setStk_pending (s : State) (k : Nat) (x : Stack) : (s.setStk k x).pending = s.pending := rfl

/-! ### State.setChan -/
@[simp] theorem State.setChan_regs (s : State) (k n : Nat) (c : Chan) : (s.setChan k n c).regs = s.regs := rfl
@[simp] theorem State.setChan_live (s : State) (k n : Nat) (c : Chan) : (s.setChan k n c).live = s.live := rfl
@[simp] theorem State.setChan_mem (s : State) (k n : Nat) (c : Chan) : (s.setChan k n c).mem = s.mem := rfl
@[simp] theorem State.setChan_sram (s : State) (k n : Nat) (c : Chan) : (s.setChan k n c).sram = s.sram := rfl
@[simp] theorem State.setChan_cores (s : State) (k n : Nat) (c : Chan) : (s.setChan k n c).cores = s.cores := rfl
@[simp] theorem State.setChan_hbm (s : State) (k n : Nat) (c : Chan) : (s.setChan k n c).hbm = s.hbm := rfl
@[simp] theorem State.setChan_points (s : State) (k n : Nat) (c : Chan) :
    (s.setChan k n c).points = s.points := rfl
@[simp] theorem State.setChan_links (s : State) (k n : Nat) (c : Chan) : (s.setChan k n c).links = s.links := rfl
@[simp] theorem State.setChan_tick (s : State) (k n : Nat) (c : Chan) : (s.setChan k n c).tick = s.tick := rfl
@[simp] theorem State.setChan_tsync (s : State) (k n : Nat) (c : Chan) : (s.setChan k n c).tsync = s.tsync := rfl
@[simp] theorem State.setChan_power (s : State) (k n : Nat) (c : Chan) : (s.setChan k n c).power = s.power := rfl
@[simp] theorem State.setChan_thermal (s : State) (k n : Nat) (c : Chan) :
    (s.setChan k n c).thermal = s.thermal := rfl
@[simp] theorem State.setChan_boot (s : State) (k n : Nat) (c : Chan) : (s.setChan k n c).boot = s.boot := rfl
@[simp] theorem State.setChan_roles (s : State) (k n : Nat) (c : Chan) : (s.setChan k n c).roles = s.roles := rfl
@[simp] theorem State.setChan_faults (s : State) (k n : Nat) (c : Chan) :
    (s.setChan k n c).faults = s.faults := rfl
@[simp] theorem State.setChan_erl (s : State) (k n : Nat) (c : Chan) : (s.setChan k n c).erl = s.erl := rfl
@[simp] theorem State.setChan_pcie (s : State) (k n : Nat) (c : Chan) : (s.setChan k n c).pcie = s.pcie := rfl
@[simp] theorem State.setChan_smb (s : State) (k n : Nat) (c : Chan) : (s.setChan k n c).smb = s.smb := rfl
@[simp] theorem State.setChan_jtag (s : State) (k n : Nat) (c : Chan) : (s.setChan k n c).jtag = s.jtag := rfl
@[simp] theorem State.setChan_lands (s : State) (k n : Nat) (c : Chan) : (s.setChan k n c).lands = s.lands := rfl
@[simp] theorem State.setChan_fuses (s : State) (k n : Nat) (c : Chan) : (s.setChan k n c).fuses = s.fuses := rfl
@[simp] theorem State.setChan_frozenHost (s : State) (k n : Nat) (c : Chan) :
    (s.setChan k n c).frozenHost = s.frozenHost := rfl
@[simp] theorem State.setChan_frozenMgmt (s : State) (k n : Nat) (c : Chan) :
    (s.setChan k n c).frozenMgmt = s.frozenMgmt := rfl
@[simp] theorem State.setChan_latch (s : State) (k n : Nat) (c : Chan) : (s.setChan k n c).latch = s.latch := rfl
@[simp] theorem State.setChan_routeLo (s : State) (k n : Nat) (c : Chan) :
    (s.setChan k n c).routeLo = s.routeLo := rfl
@[simp] theorem State.setChan_routeStaged (s : State) (k n : Nat) (c : Chan) :
    (s.setChan k n c).routeStaged = s.routeStaged := rfl
@[simp] theorem State.setChan_inbox (s : State) (k n : Nat) (c : Chan) : (s.setChan k n c).inbox = s.inbox := rfl
@[simp] theorem State.setChan_answer (s : State) (k n : Nat) (c : Chan) :
    (s.setChan k n c).answer = s.answer := rfl
@[simp] theorem State.setChan_bwrWin (s : State) (k n : Nat) (c : Chan) :
    (s.setChan k n c).bwrWin = s.bwrWin := rfl
@[simp] theorem State.setChan_meas (s : State) (k n : Nat) (c : Chan) : (s.setChan k n c).meas = s.meas := rfl
@[simp] theorem State.setChan_now (s : State) (k n : Nat) (c : Chan) : (s.setChan k n c).now = s.now := rfl
@[simp] theorem State.setChan_tb (s : State) (k n : Nat) (c : Chan) : (s.setChan k n c).tb = s.tb := rfl
@[simp] theorem State.setChan_freeCtr (s : State) (k n : Nat) (c : Chan) :
    (s.setChan k n c).freeCtr = s.freeCtr := rfl
@[simp] theorem State.setChan_pending (s : State) (k n : Nat) (c : Chan) :
    (s.setChan k n c).pending = s.pending := rfl

/-! ### updStk -/
@[simp] theorem updStk_regs (s : State) (k : Nat) (f : Stack → Stack) : (updStk k f s).regs = s.regs := rfl
@[simp] theorem updStk_live (s : State) (k : Nat) (f : Stack → Stack) : (updStk k f s).live = s.live := rfl
@[simp] theorem updStk_mem (s : State) (k : Nat) (f : Stack → Stack) : (updStk k f s).mem = s.mem := rfl
@[simp] theorem updStk_sram (s : State) (k : Nat) (f : Stack → Stack) : (updStk k f s).sram = s.sram := rfl
@[simp] theorem updStk_cores (s : State) (k : Nat) (f : Stack → Stack) : (updStk k f s).cores = s.cores := rfl
@[simp] theorem updStk_hbm (s : State) (k : Nat) (f : Stack → Stack) : (updStk k f s).hbm = s.hbm := rfl
@[simp] theorem updStk_points (s : State) (k : Nat) (f : Stack → Stack) : (updStk k f s).points = s.points := rfl
@[simp] theorem updStk_links (s : State) (k : Nat) (f : Stack → Stack) : (updStk k f s).links = s.links := rfl
@[simp] theorem updStk_tick (s : State) (k : Nat) (f : Stack → Stack) : (updStk k f s).tick = s.tick := rfl
@[simp] theorem updStk_tsync (s : State) (k : Nat) (f : Stack → Stack) : (updStk k f s).tsync = s.tsync := rfl
@[simp] theorem updStk_power (s : State) (k : Nat) (f : Stack → Stack) : (updStk k f s).power = s.power := rfl
@[simp] theorem updStk_thermal (s : State) (k : Nat) (f : Stack → Stack) :
    (updStk k f s).thermal = s.thermal := rfl
@[simp] theorem updStk_boot (s : State) (k : Nat) (f : Stack → Stack) : (updStk k f s).boot = s.boot := rfl
@[simp] theorem updStk_roles (s : State) (k : Nat) (f : Stack → Stack) : (updStk k f s).roles = s.roles := rfl
@[simp] theorem updStk_faults (s : State) (k : Nat) (f : Stack → Stack) : (updStk k f s).faults = s.faults := rfl
@[simp] theorem updStk_erl (s : State) (k : Nat) (f : Stack → Stack) : (updStk k f s).erl = s.erl := rfl
@[simp] theorem updStk_pcie (s : State) (k : Nat) (f : Stack → Stack) : (updStk k f s).pcie = s.pcie := rfl
@[simp] theorem updStk_smb (s : State) (k : Nat) (f : Stack → Stack) : (updStk k f s).smb = s.smb := rfl
@[simp] theorem updStk_jtag (s : State) (k : Nat) (f : Stack → Stack) : (updStk k f s).jtag = s.jtag := rfl
@[simp] theorem updStk_lands (s : State) (k : Nat) (f : Stack → Stack) : (updStk k f s).lands = s.lands := rfl
@[simp] theorem updStk_fuses (s : State) (k : Nat) (f : Stack → Stack) : (updStk k f s).fuses = s.fuses := rfl
@[simp] theorem updStk_frozenHost (s : State) (k : Nat) (f : Stack → Stack) :
    (updStk k f s).frozenHost = s.frozenHost := rfl
@[simp] theorem updStk_frozenMgmt (s : State) (k : Nat) (f : Stack → Stack) :
    (updStk k f s).frozenMgmt = s.frozenMgmt := rfl
@[simp] theorem updStk_latch (s : State) (k : Nat) (f : Stack → Stack) : (updStk k f s).latch = s.latch := rfl
@[simp] theorem updStk_routeLo (s : State) (k : Nat) (f : Stack → Stack) :
    (updStk k f s).routeLo = s.routeLo := rfl
@[simp] theorem updStk_routeStaged (s : State) (k : Nat) (f : Stack → Stack) :
    (updStk k f s).routeStaged = s.routeStaged := rfl
@[simp] theorem updStk_inbox (s : State) (k : Nat) (f : Stack → Stack) : (updStk k f s).inbox = s.inbox := rfl
@[simp] theorem updStk_answer (s : State) (k : Nat) (f : Stack → Stack) : (updStk k f s).answer = s.answer := rfl
@[simp] theorem updStk_bwrWin (s : State) (k : Nat) (f : Stack → Stack) : (updStk k f s).bwrWin = s.bwrWin := rfl
@[simp] theorem updStk_meas (s : State) (k : Nat) (f : Stack → Stack) : (updStk k f s).meas = s.meas := rfl
@[simp] theorem updStk_now (s : State) (k : Nat) (f : Stack → Stack) : (updStk k f s).now = s.now := rfl
@[simp] theorem updStk_tb (s : State) (k : Nat) (f : Stack → Stack) : (updStk k f s).tb = s.tb := rfl
@[simp] theorem updStk_freeCtr (s : State) (k : Nat) (f : Stack → Stack) :
    (updStk k f s).freeCtr = s.freeCtr := rfl
@[simp] theorem updStk_pending (s : State) (k : Nat) (f : Stack → Stack) :
    (updStk k f s).pending = s.pending := rfl

/-! ### updChan -/
@[simp] theorem updChan_regs (s : State) (k n : Nat) (f : Chan → Chan) : (updChan k n f s).regs = s.regs := rfl
@[simp] theorem updChan_live (s : State) (k n : Nat) (f : Chan → Chan) : (updChan k n f s).live = s.live := rfl
@[simp] theorem updChan_mem (s : State) (k n : Nat) (f : Chan → Chan) : (updChan k n f s).mem = s.mem := rfl
@[simp] theorem updChan_sram (s : State) (k n : Nat) (f : Chan → Chan) : (updChan k n f s).sram = s.sram := rfl
@[simp] theorem updChan_cores (s : State) (k n : Nat) (f : Chan → Chan) :
    (updChan k n f s).cores = s.cores := rfl
@[simp] theorem updChan_hbm (s : State) (k n : Nat) (f : Chan → Chan) : (updChan k n f s).hbm = s.hbm := rfl
@[simp] theorem updChan_points (s : State) (k n : Nat) (f : Chan → Chan) :
    (updChan k n f s).points = s.points := rfl
@[simp] theorem updChan_links (s : State) (k n : Nat) (f : Chan → Chan) :
    (updChan k n f s).links = s.links := rfl
@[simp] theorem updChan_tick (s : State) (k n : Nat) (f : Chan → Chan) : (updChan k n f s).tick = s.tick := rfl
@[simp] theorem updChan_tsync (s : State) (k n : Nat) (f : Chan → Chan) :
    (updChan k n f s).tsync = s.tsync := rfl
@[simp] theorem updChan_power (s : State) (k n : Nat) (f : Chan → Chan) :
    (updChan k n f s).power = s.power := rfl
@[simp] theorem updChan_thermal (s : State) (k n : Nat) (f : Chan → Chan) :
    (updChan k n f s).thermal = s.thermal := rfl
@[simp] theorem updChan_boot (s : State) (k n : Nat) (f : Chan → Chan) : (updChan k n f s).boot = s.boot := rfl
@[simp] theorem updChan_roles (s : State) (k n : Nat) (f : Chan → Chan) :
    (updChan k n f s).roles = s.roles := rfl
@[simp] theorem updChan_faults (s : State) (k n : Nat) (f : Chan → Chan) :
    (updChan k n f s).faults = s.faults := rfl
@[simp] theorem updChan_erl (s : State) (k n : Nat) (f : Chan → Chan) : (updChan k n f s).erl = s.erl := rfl
@[simp] theorem updChan_pcie (s : State) (k n : Nat) (f : Chan → Chan) : (updChan k n f s).pcie = s.pcie := rfl
@[simp] theorem updChan_smb (s : State) (k n : Nat) (f : Chan → Chan) : (updChan k n f s).smb = s.smb := rfl
@[simp] theorem updChan_jtag (s : State) (k n : Nat) (f : Chan → Chan) : (updChan k n f s).jtag = s.jtag := rfl
@[simp] theorem updChan_lands (s : State) (k n : Nat) (f : Chan → Chan) :
    (updChan k n f s).lands = s.lands := rfl
@[simp] theorem updChan_fuses (s : State) (k n : Nat) (f : Chan → Chan) :
    (updChan k n f s).fuses = s.fuses := rfl
@[simp] theorem updChan_frozenHost (s : State) (k n : Nat) (f : Chan → Chan) :
    (updChan k n f s).frozenHost = s.frozenHost := rfl
@[simp] theorem updChan_frozenMgmt (s : State) (k n : Nat) (f : Chan → Chan) :
    (updChan k n f s).frozenMgmt = s.frozenMgmt := rfl
@[simp] theorem updChan_latch (s : State) (k n : Nat) (f : Chan → Chan) :
    (updChan k n f s).latch = s.latch := rfl
@[simp] theorem updChan_routeLo (s : State) (k n : Nat) (f : Chan → Chan) :
    (updChan k n f s).routeLo = s.routeLo := rfl
@[simp] theorem updChan_routeStaged (s : State) (k n : Nat) (f : Chan → Chan) :
    (updChan k n f s).routeStaged = s.routeStaged := rfl
@[simp] theorem updChan_inbox (s : State) (k n : Nat) (f : Chan → Chan) :
    (updChan k n f s).inbox = s.inbox := rfl
@[simp] theorem updChan_answer (s : State) (k n : Nat) (f : Chan → Chan) :
    (updChan k n f s).answer = s.answer := rfl
@[simp] theorem updChan_bwrWin (s : State) (k n : Nat) (f : Chan → Chan) :
    (updChan k n f s).bwrWin = s.bwrWin := rfl
@[simp] theorem updChan_meas (s : State) (k n : Nat) (f : Chan → Chan) : (updChan k n f s).meas = s.meas := rfl
@[simp] theorem updChan_now (s : State) (k n : Nat) (f : Chan → Chan) : (updChan k n f s).now = s.now := rfl
@[simp] theorem updChan_tb (s : State) (k n : Nat) (f : Chan → Chan) : (updChan k n f s).tb = s.tb := rfl
@[simp] theorem updChan_freeCtr (s : State) (k n : Nat) (f : Chan → Chan) :
    (updChan k n f s).freeCtr = s.freeCtr := rfl
@[simp] theorem updChan_pending (s : State) (k n : Nat) (f : Chan → Chan) :
    (updChan k n f s).pending = s.pending := rfl

/-! ### State.setMc -/
@[simp] theorem State.setMc_regs (s : State) (m : Nat) (x : Hbm) : (s.setMc m x).regs = s.regs := rfl
@[simp] theorem State.setMc_live (s : State) (m : Nat) (x : Hbm) : (s.setMc m x).live = s.live := rfl
@[simp] theorem State.setMc_mem (s : State) (m : Nat) (x : Hbm) : (s.setMc m x).mem = s.mem := rfl
@[simp] theorem State.setMc_sram (s : State) (m : Nat) (x : Hbm) : (s.setMc m x).sram = s.sram := rfl
@[simp] theorem State.setMc_cores (s : State) (m : Nat) (x : Hbm) : (s.setMc m x).cores = s.cores := rfl
@[simp] theorem State.setMc_stks (s : State) (m : Nat) (x : Hbm) : (s.setMc m x).stks = s.stks := rfl
@[simp] theorem State.setMc_points (s : State) (m : Nat) (x : Hbm) : (s.setMc m x).points = s.points := rfl
@[simp] theorem State.setMc_links (s : State) (m : Nat) (x : Hbm) : (s.setMc m x).links = s.links := rfl
@[simp] theorem State.setMc_tick (s : State) (m : Nat) (x : Hbm) : (s.setMc m x).tick = s.tick := rfl
@[simp] theorem State.setMc_tsync (s : State) (m : Nat) (x : Hbm) : (s.setMc m x).tsync = s.tsync := rfl
@[simp] theorem State.setMc_power (s : State) (m : Nat) (x : Hbm) : (s.setMc m x).power = s.power := rfl
@[simp] theorem State.setMc_thermal (s : State) (m : Nat) (x : Hbm) : (s.setMc m x).thermal = s.thermal := rfl
@[simp] theorem State.setMc_boot (s : State) (m : Nat) (x : Hbm) : (s.setMc m x).boot = s.boot := rfl
@[simp] theorem State.setMc_roles (s : State) (m : Nat) (x : Hbm) : (s.setMc m x).roles = s.roles := rfl
@[simp] theorem State.setMc_faults (s : State) (m : Nat) (x : Hbm) : (s.setMc m x).faults = s.faults := rfl
@[simp] theorem State.setMc_erl (s : State) (m : Nat) (x : Hbm) : (s.setMc m x).erl = s.erl := rfl
@[simp] theorem State.setMc_pcie (s : State) (m : Nat) (x : Hbm) : (s.setMc m x).pcie = s.pcie := rfl
@[simp] theorem State.setMc_smb (s : State) (m : Nat) (x : Hbm) : (s.setMc m x).smb = s.smb := rfl
@[simp] theorem State.setMc_jtag (s : State) (m : Nat) (x : Hbm) : (s.setMc m x).jtag = s.jtag := rfl
@[simp] theorem State.setMc_lands (s : State) (m : Nat) (x : Hbm) : (s.setMc m x).lands = s.lands := rfl
@[simp] theorem State.setMc_fuses (s : State) (m : Nat) (x : Hbm) : (s.setMc m x).fuses = s.fuses := rfl
@[simp] theorem State.setMc_frozenHost (s : State) (m : Nat) (x : Hbm) :
    (s.setMc m x).frozenHost = s.frozenHost := rfl
@[simp] theorem State.setMc_frozenMgmt (s : State) (m : Nat) (x : Hbm) :
    (s.setMc m x).frozenMgmt = s.frozenMgmt := rfl
@[simp] theorem State.setMc_latch (s : State) (m : Nat) (x : Hbm) : (s.setMc m x).latch = s.latch := rfl
@[simp] theorem State.setMc_routeLo (s : State) (m : Nat) (x : Hbm) : (s.setMc m x).routeLo = s.routeLo := rfl
@[simp] theorem State.setMc_routeStaged (s : State) (m : Nat) (x : Hbm) :
    (s.setMc m x).routeStaged = s.routeStaged := rfl
@[simp] theorem State.setMc_inbox (s : State) (m : Nat) (x : Hbm) : (s.setMc m x).inbox = s.inbox := rfl
@[simp] theorem State.setMc_answer (s : State) (m : Nat) (x : Hbm) : (s.setMc m x).answer = s.answer := rfl
@[simp] theorem State.setMc_bwrWin (s : State) (m : Nat) (x : Hbm) : (s.setMc m x).bwrWin = s.bwrWin := rfl
@[simp] theorem State.setMc_meas (s : State) (m : Nat) (x : Hbm) : (s.setMc m x).meas = s.meas := rfl
@[simp] theorem State.setMc_now (s : State) (m : Nat) (x : Hbm) : (s.setMc m x).now = s.now := rfl
@[simp] theorem State.setMc_tb (s : State) (m : Nat) (x : Hbm) : (s.setMc m x).tb = s.tb := rfl
@[simp] theorem State.setMc_freeCtr (s : State) (m : Nat) (x : Hbm) : (s.setMc m x).freeCtr = s.freeCtr := rfl
@[simp] theorem State.setMc_pending (s : State) (m : Nat) (x : Hbm) : (s.setMc m x).pending = s.pending := rfl

/-! ### State.setPoint -/
@[simp] theorem State.setPoint_regs (s : State) (p : Nat) (x : Point) : (s.setPoint p x).regs = s.regs := rfl
@[simp] theorem State.setPoint_live (s : State) (p : Nat) (x : Point) : (s.setPoint p x).live = s.live := rfl
@[simp] theorem State.setPoint_mem (s : State) (p : Nat) (x : Point) : (s.setPoint p x).mem = s.mem := rfl
@[simp] theorem State.setPoint_sram (s : State) (p : Nat) (x : Point) : (s.setPoint p x).sram = s.sram := rfl
@[simp] theorem State.setPoint_cores (s : State) (p : Nat) (x : Point) : (s.setPoint p x).cores = s.cores := rfl
@[simp] theorem State.setPoint_stks (s : State) (p : Nat) (x : Point) : (s.setPoint p x).stks = s.stks := rfl
@[simp] theorem State.setPoint_hbm (s : State) (p : Nat) (x : Point) : (s.setPoint p x).hbm = s.hbm := rfl
@[simp] theorem State.setPoint_links (s : State) (p : Nat) (x : Point) : (s.setPoint p x).links = s.links := rfl
@[simp] theorem State.setPoint_tick (s : State) (p : Nat) (x : Point) : (s.setPoint p x).tick = s.tick := rfl
@[simp] theorem State.setPoint_tsync (s : State) (p : Nat) (x : Point) : (s.setPoint p x).tsync = s.tsync := rfl
@[simp] theorem State.setPoint_power (s : State) (p : Nat) (x : Point) : (s.setPoint p x).power = s.power := rfl
@[simp] theorem State.setPoint_thermal (s : State) (p : Nat) (x : Point) :
    (s.setPoint p x).thermal = s.thermal := rfl
@[simp] theorem State.setPoint_boot (s : State) (p : Nat) (x : Point) : (s.setPoint p x).boot = s.boot := rfl
@[simp] theorem State.setPoint_roles (s : State) (p : Nat) (x : Point) : (s.setPoint p x).roles = s.roles := rfl
@[simp] theorem State.setPoint_faults (s : State) (p : Nat) (x : Point) :
    (s.setPoint p x).faults = s.faults := rfl
@[simp] theorem State.setPoint_erl (s : State) (p : Nat) (x : Point) : (s.setPoint p x).erl = s.erl := rfl
@[simp] theorem State.setPoint_pcie (s : State) (p : Nat) (x : Point) : (s.setPoint p x).pcie = s.pcie := rfl
@[simp] theorem State.setPoint_smb (s : State) (p : Nat) (x : Point) : (s.setPoint p x).smb = s.smb := rfl
@[simp] theorem State.setPoint_jtag (s : State) (p : Nat) (x : Point) : (s.setPoint p x).jtag = s.jtag := rfl
@[simp] theorem State.setPoint_lands (s : State) (p : Nat) (x : Point) : (s.setPoint p x).lands = s.lands := rfl
@[simp] theorem State.setPoint_fuses (s : State) (p : Nat) (x : Point) : (s.setPoint p x).fuses = s.fuses := rfl
@[simp] theorem State.setPoint_frozenHost (s : State) (p : Nat) (x : Point) :
    (s.setPoint p x).frozenHost = s.frozenHost := rfl
@[simp] theorem State.setPoint_frozenMgmt (s : State) (p : Nat) (x : Point) :
    (s.setPoint p x).frozenMgmt = s.frozenMgmt := rfl
@[simp] theorem State.setPoint_latch (s : State) (p : Nat) (x : Point) : (s.setPoint p x).latch = s.latch := rfl
@[simp] theorem State.setPoint_routeLo (s : State) (p : Nat) (x : Point) :
    (s.setPoint p x).routeLo = s.routeLo := rfl
@[simp] theorem State.setPoint_routeStaged (s : State) (p : Nat) (x : Point) :
    (s.setPoint p x).routeStaged = s.routeStaged := rfl
@[simp] theorem State.setPoint_inbox (s : State) (p : Nat) (x : Point) : (s.setPoint p x).inbox = s.inbox := rfl
@[simp] theorem State.setPoint_answer (s : State) (p : Nat) (x : Point) :
    (s.setPoint p x).answer = s.answer := rfl
@[simp] theorem State.setPoint_bwrWin (s : State) (p : Nat) (x : Point) :
    (s.setPoint p x).bwrWin = s.bwrWin := rfl
@[simp] theorem State.setPoint_meas (s : State) (p : Nat) (x : Point) : (s.setPoint p x).meas = s.meas := rfl
@[simp] theorem State.setPoint_now (s : State) (p : Nat) (x : Point) : (s.setPoint p x).now = s.now := rfl
@[simp] theorem State.setPoint_tb (s : State) (p : Nat) (x : Point) : (s.setPoint p x).tb = s.tb := rfl
@[simp] theorem State.setPoint_freeCtr (s : State) (p : Nat) (x : Point) :
    (s.setPoint p x).freeCtr = s.freeCtr := rfl
@[simp] theorem State.setPoint_pending (s : State) (p : Nat) (x : Point) :
    (s.setPoint p x).pending = s.pending := rfl

/-! ### State.setLink -/
@[simp] theorem State.setLink_regs (s : State) (l : Nat) (x : Link) : (s.setLink l x).regs = s.regs := rfl
@[simp] theorem State.setLink_live (s : State) (l : Nat) (x : Link) : (s.setLink l x).live = s.live := rfl
@[simp] theorem State.setLink_mem (s : State) (l : Nat) (x : Link) : (s.setLink l x).mem = s.mem := rfl
@[simp] theorem State.setLink_sram (s : State) (l : Nat) (x : Link) : (s.setLink l x).sram = s.sram := rfl
@[simp] theorem State.setLink_cores (s : State) (l : Nat) (x : Link) : (s.setLink l x).cores = s.cores := rfl
@[simp] theorem State.setLink_stks (s : State) (l : Nat) (x : Link) : (s.setLink l x).stks = s.stks := rfl
@[simp] theorem State.setLink_hbm (s : State) (l : Nat) (x : Link) : (s.setLink l x).hbm = s.hbm := rfl
@[simp] theorem State.setLink_points (s : State) (l : Nat) (x : Link) : (s.setLink l x).points = s.points := rfl
@[simp] theorem State.setLink_tick (s : State) (l : Nat) (x : Link) : (s.setLink l x).tick = s.tick := rfl
@[simp] theorem State.setLink_tsync (s : State) (l : Nat) (x : Link) : (s.setLink l x).tsync = s.tsync := rfl
@[simp] theorem State.setLink_power (s : State) (l : Nat) (x : Link) : (s.setLink l x).power = s.power := rfl
@[simp] theorem State.setLink_thermal (s : State) (l : Nat) (x : Link) : (s.setLink l x).thermal = s.thermal := rfl
@[simp] theorem State.setLink_boot (s : State) (l : Nat) (x : Link) : (s.setLink l x).boot = s.boot := rfl
@[simp] theorem State.setLink_roles (s : State) (l : Nat) (x : Link) : (s.setLink l x).roles = s.roles := rfl
@[simp] theorem State.setLink_faults (s : State) (l : Nat) (x : Link) : (s.setLink l x).faults = s.faults := rfl
@[simp] theorem State.setLink_erl (s : State) (l : Nat) (x : Link) : (s.setLink l x).erl = s.erl := rfl
@[simp] theorem State.setLink_pcie (s : State) (l : Nat) (x : Link) : (s.setLink l x).pcie = s.pcie := rfl
@[simp] theorem State.setLink_smb (s : State) (l : Nat) (x : Link) : (s.setLink l x).smb = s.smb := rfl
@[simp] theorem State.setLink_jtag (s : State) (l : Nat) (x : Link) : (s.setLink l x).jtag = s.jtag := rfl
@[simp] theorem State.setLink_lands (s : State) (l : Nat) (x : Link) : (s.setLink l x).lands = s.lands := rfl
@[simp] theorem State.setLink_fuses (s : State) (l : Nat) (x : Link) : (s.setLink l x).fuses = s.fuses := rfl
@[simp] theorem State.setLink_frozenHost (s : State) (l : Nat) (x : Link) :
    (s.setLink l x).frozenHost = s.frozenHost := rfl
@[simp] theorem State.setLink_frozenMgmt (s : State) (l : Nat) (x : Link) :
    (s.setLink l x).frozenMgmt = s.frozenMgmt := rfl
@[simp] theorem State.setLink_latch (s : State) (l : Nat) (x : Link) : (s.setLink l x).latch = s.latch := rfl
@[simp] theorem State.setLink_routeLo (s : State) (l : Nat) (x : Link) : (s.setLink l x).routeLo = s.routeLo := rfl
@[simp] theorem State.setLink_routeStaged (s : State) (l : Nat) (x : Link) :
    (s.setLink l x).routeStaged = s.routeStaged := rfl
@[simp] theorem State.setLink_inbox (s : State) (l : Nat) (x : Link) : (s.setLink l x).inbox = s.inbox := rfl
@[simp] theorem State.setLink_answer (s : State) (l : Nat) (x : Link) : (s.setLink l x).answer = s.answer := rfl
@[simp] theorem State.setLink_bwrWin (s : State) (l : Nat) (x : Link) : (s.setLink l x).bwrWin = s.bwrWin := rfl
@[simp] theorem State.setLink_meas (s : State) (l : Nat) (x : Link) : (s.setLink l x).meas = s.meas := rfl
@[simp] theorem State.setLink_now (s : State) (l : Nat) (x : Link) : (s.setLink l x).now = s.now := rfl
@[simp] theorem State.setLink_tb (s : State) (l : Nat) (x : Link) : (s.setLink l x).tb = s.tb := rfl
@[simp] theorem State.setLink_freeCtr (s : State) (l : Nat) (x : Link) : (s.setLink l x).freeCtr = s.freeCtr := rfl
@[simp] theorem State.setLink_pending (s : State) (l : Nat) (x : Link) : (s.setLink l x).pending = s.pending := rfl

/-! ### updLink -/
@[simp] theorem updLink_regs (s : State) (l : Nat) (f : Link → Link) : (updLink l f s).regs = s.regs := rfl
@[simp] theorem updLink_live (s : State) (l : Nat) (f : Link → Link) : (updLink l f s).live = s.live := rfl
@[simp] theorem updLink_mem (s : State) (l : Nat) (f : Link → Link) : (updLink l f s).mem = s.mem := rfl
@[simp] theorem updLink_sram (s : State) (l : Nat) (f : Link → Link) : (updLink l f s).sram = s.sram := rfl
@[simp] theorem updLink_cores (s : State) (l : Nat) (f : Link → Link) : (updLink l f s).cores = s.cores := rfl
@[simp] theorem updLink_stks (s : State) (l : Nat) (f : Link → Link) : (updLink l f s).stks = s.stks := rfl
@[simp] theorem updLink_hbm (s : State) (l : Nat) (f : Link → Link) : (updLink l f s).hbm = s.hbm := rfl
@[simp] theorem updLink_points (s : State) (l : Nat) (f : Link → Link) : (updLink l f s).points = s.points := rfl
@[simp] theorem updLink_tick (s : State) (l : Nat) (f : Link → Link) : (updLink l f s).tick = s.tick := rfl
@[simp] theorem updLink_tsync (s : State) (l : Nat) (f : Link → Link) : (updLink l f s).tsync = s.tsync := rfl
@[simp] theorem updLink_power (s : State) (l : Nat) (f : Link → Link) : (updLink l f s).power = s.power := rfl
@[simp] theorem updLink_thermal (s : State) (l : Nat) (f : Link → Link) :
    (updLink l f s).thermal = s.thermal := rfl
@[simp] theorem updLink_boot (s : State) (l : Nat) (f : Link → Link) : (updLink l f s).boot = s.boot := rfl
@[simp] theorem updLink_roles (s : State) (l : Nat) (f : Link → Link) : (updLink l f s).roles = s.roles := rfl
@[simp] theorem updLink_faults (s : State) (l : Nat) (f : Link → Link) : (updLink l f s).faults = s.faults := rfl
@[simp] theorem updLink_erl (s : State) (l : Nat) (f : Link → Link) : (updLink l f s).erl = s.erl := rfl
@[simp] theorem updLink_pcie (s : State) (l : Nat) (f : Link → Link) : (updLink l f s).pcie = s.pcie := rfl
@[simp] theorem updLink_smb (s : State) (l : Nat) (f : Link → Link) : (updLink l f s).smb = s.smb := rfl
@[simp] theorem updLink_jtag (s : State) (l : Nat) (f : Link → Link) : (updLink l f s).jtag = s.jtag := rfl
@[simp] theorem updLink_lands (s : State) (l : Nat) (f : Link → Link) : (updLink l f s).lands = s.lands := rfl
@[simp] theorem updLink_fuses (s : State) (l : Nat) (f : Link → Link) : (updLink l f s).fuses = s.fuses := rfl
@[simp] theorem updLink_frozenHost (s : State) (l : Nat) (f : Link → Link) :
    (updLink l f s).frozenHost = s.frozenHost := rfl
@[simp] theorem updLink_frozenMgmt (s : State) (l : Nat) (f : Link → Link) :
    (updLink l f s).frozenMgmt = s.frozenMgmt := rfl
@[simp] theorem updLink_latch (s : State) (l : Nat) (f : Link → Link) : (updLink l f s).latch = s.latch := rfl
@[simp] theorem updLink_routeLo (s : State) (l : Nat) (f : Link → Link) :
    (updLink l f s).routeLo = s.routeLo := rfl
@[simp] theorem updLink_routeStaged (s : State) (l : Nat) (f : Link → Link) :
    (updLink l f s).routeStaged = s.routeStaged := rfl
@[simp] theorem updLink_inbox (s : State) (l : Nat) (f : Link → Link) : (updLink l f s).inbox = s.inbox := rfl
@[simp] theorem updLink_answer (s : State) (l : Nat) (f : Link → Link) : (updLink l f s).answer = s.answer := rfl
@[simp] theorem updLink_bwrWin (s : State) (l : Nat) (f : Link → Link) : (updLink l f s).bwrWin = s.bwrWin := rfl
@[simp] theorem updLink_meas (s : State) (l : Nat) (f : Link → Link) : (updLink l f s).meas = s.meas := rfl
@[simp] theorem updLink_now (s : State) (l : Nat) (f : Link → Link) : (updLink l f s).now = s.now := rfl
@[simp] theorem updLink_tb (s : State) (l : Nat) (f : Link → Link) : (updLink l f s).tb = s.tb := rfl
@[simp] theorem updLink_freeCtr (s : State) (l : Nat) (f : Link → Link) :
    (updLink l f s).freeCtr = s.freeCtr := rfl
@[simp] theorem updLink_pending (s : State) (l : Nat) (f : Link → Link) :
    (updLink l f s).pending = s.pending := rfl

/-! ### State.setByte -/
@[simp] theorem State.setByte_regs (s : State) (a : Nat) (v : Byte) : (s.setByte a v).regs = s.regs := rfl
@[simp] theorem State.setByte_live (s : State) (a : Nat) (v : Byte) : (s.setByte a v).live = s.live := rfl
@[simp] theorem State.setByte_sram (s : State) (a : Nat) (v : Byte) : (s.setByte a v).sram = s.sram := rfl
@[simp] theorem State.setByte_cores (s : State) (a : Nat) (v : Byte) : (s.setByte a v).cores = s.cores := rfl
@[simp] theorem State.setByte_stks (s : State) (a : Nat) (v : Byte) : (s.setByte a v).stks = s.stks := rfl
@[simp] theorem State.setByte_hbm (s : State) (a : Nat) (v : Byte) : (s.setByte a v).hbm = s.hbm := rfl
@[simp] theorem State.setByte_points (s : State) (a : Nat) (v : Byte) : (s.setByte a v).points = s.points := rfl
@[simp] theorem State.setByte_links (s : State) (a : Nat) (v : Byte) : (s.setByte a v).links = s.links := rfl
@[simp] theorem State.setByte_tick (s : State) (a : Nat) (v : Byte) : (s.setByte a v).tick = s.tick := rfl
@[simp] theorem State.setByte_tsync (s : State) (a : Nat) (v : Byte) : (s.setByte a v).tsync = s.tsync := rfl
@[simp] theorem State.setByte_power (s : State) (a : Nat) (v : Byte) : (s.setByte a v).power = s.power := rfl
@[simp] theorem State.setByte_thermal (s : State) (a : Nat) (v : Byte) : (s.setByte a v).thermal = s.thermal := rfl
@[simp] theorem State.setByte_boot (s : State) (a : Nat) (v : Byte) : (s.setByte a v).boot = s.boot := rfl
@[simp] theorem State.setByte_roles (s : State) (a : Nat) (v : Byte) : (s.setByte a v).roles = s.roles := rfl
@[simp] theorem State.setByte_faults (s : State) (a : Nat) (v : Byte) : (s.setByte a v).faults = s.faults := rfl
@[simp] theorem State.setByte_erl (s : State) (a : Nat) (v : Byte) : (s.setByte a v).erl = s.erl := rfl
@[simp] theorem State.setByte_pcie (s : State) (a : Nat) (v : Byte) : (s.setByte a v).pcie = s.pcie := rfl
@[simp] theorem State.setByte_smb (s : State) (a : Nat) (v : Byte) : (s.setByte a v).smb = s.smb := rfl
@[simp] theorem State.setByte_jtag (s : State) (a : Nat) (v : Byte) : (s.setByte a v).jtag = s.jtag := rfl
@[simp] theorem State.setByte_lands (s : State) (a : Nat) (v : Byte) : (s.setByte a v).lands = s.lands := rfl
@[simp] theorem State.setByte_fuses (s : State) (a : Nat) (v : Byte) : (s.setByte a v).fuses = s.fuses := rfl
@[simp] theorem State.setByte_frozenHost (s : State) (a : Nat) (v : Byte) :
    (s.setByte a v).frozenHost = s.frozenHost := rfl
@[simp] theorem State.setByte_frozenMgmt (s : State) (a : Nat) (v : Byte) :
    (s.setByte a v).frozenMgmt = s.frozenMgmt := rfl
@[simp] theorem State.setByte_latch (s : State) (a : Nat) (v : Byte) : (s.setByte a v).latch = s.latch := rfl
@[simp] theorem State.setByte_routeLo (s : State) (a : Nat) (v : Byte) : (s.setByte a v).routeLo = s.routeLo := rfl
@[simp] theorem State.setByte_routeStaged (s : State) (a : Nat) (v : Byte) :
    (s.setByte a v).routeStaged = s.routeStaged := rfl
@[simp] theorem State.setByte_inbox (s : State) (a : Nat) (v : Byte) : (s.setByte a v).inbox = s.inbox := rfl
@[simp] theorem State.setByte_answer (s : State) (a : Nat) (v : Byte) : (s.setByte a v).answer = s.answer := rfl
@[simp] theorem State.setByte_bwrWin (s : State) (a : Nat) (v : Byte) : (s.setByte a v).bwrWin = s.bwrWin := rfl
@[simp] theorem State.setByte_meas (s : State) (a : Nat) (v : Byte) : (s.setByte a v).meas = s.meas := rfl
@[simp] theorem State.setByte_now (s : State) (a : Nat) (v : Byte) : (s.setByte a v).now = s.now := rfl
@[simp] theorem State.setByte_tb (s : State) (a : Nat) (v : Byte) : (s.setByte a v).tb = s.tb := rfl
@[simp] theorem State.setByte_freeCtr (s : State) (a : Nat) (v : Byte) : (s.setByte a v).freeCtr = s.freeCtr := rfl
@[simp] theorem State.setByte_pending (s : State) (a : Nat) (v : Byte) : (s.setByte a v).pending = s.pending := rfl

/-! ### State.draw -/
@[simp] theorem State.draw_regs (s : State) (w : Nat) : ((s.draw w).2).regs = s.regs := rfl
@[simp] theorem State.draw_live (s : State) (w : Nat) : ((s.draw w).2).live = s.live := rfl
@[simp] theorem State.draw_mem (s : State) (w : Nat) : ((s.draw w).2).mem = s.mem := rfl
@[simp] theorem State.draw_sram (s : State) (w : Nat) : ((s.draw w).2).sram = s.sram := rfl
@[simp] theorem State.draw_cores (s : State) (w : Nat) : ((s.draw w).2).cores = s.cores := rfl
@[simp] theorem State.draw_stks (s : State) (w : Nat) : ((s.draw w).2).stks = s.stks := rfl
@[simp] theorem State.draw_hbm (s : State) (w : Nat) : ((s.draw w).2).hbm = s.hbm := rfl
@[simp] theorem State.draw_points (s : State) (w : Nat) : ((s.draw w).2).points = s.points := rfl
@[simp] theorem State.draw_links (s : State) (w : Nat) : ((s.draw w).2).links = s.links := rfl
@[simp] theorem State.draw_tick (s : State) (w : Nat) : ((s.draw w).2).tick = s.tick := rfl
@[simp] theorem State.draw_tsync (s : State) (w : Nat) : ((s.draw w).2).tsync = s.tsync := rfl
@[simp] theorem State.draw_power (s : State) (w : Nat) : ((s.draw w).2).power = s.power := rfl
@[simp] theorem State.draw_thermal (s : State) (w : Nat) : ((s.draw w).2).thermal = s.thermal := rfl
@[simp] theorem State.draw_boot (s : State) (w : Nat) : ((s.draw w).2).boot = s.boot := rfl
@[simp] theorem State.draw_roles (s : State) (w : Nat) : ((s.draw w).2).roles = s.roles := rfl
@[simp] theorem State.draw_faults (s : State) (w : Nat) : ((s.draw w).2).faults = s.faults := rfl
@[simp] theorem State.draw_erl (s : State) (w : Nat) : ((s.draw w).2).erl = s.erl := rfl
@[simp] theorem State.draw_pcie (s : State) (w : Nat) : ((s.draw w).2).pcie = s.pcie := rfl
@[simp] theorem State.draw_smb (s : State) (w : Nat) : ((s.draw w).2).smb = s.smb := rfl
@[simp] theorem State.draw_jtag (s : State) (w : Nat) : ((s.draw w).2).jtag = s.jtag := rfl
@[simp] theorem State.draw_lands (s : State) (w : Nat) : ((s.draw w).2).lands = s.lands := rfl
@[simp] theorem State.draw_fuses (s : State) (w : Nat) : ((s.draw w).2).fuses = s.fuses := rfl
@[simp] theorem State.draw_frozenHost (s : State) (w : Nat) : ((s.draw w).2).frozenHost = s.frozenHost := rfl
@[simp] theorem State.draw_frozenMgmt (s : State) (w : Nat) : ((s.draw w).2).frozenMgmt = s.frozenMgmt := rfl
@[simp] theorem State.draw_latch (s : State) (w : Nat) : ((s.draw w).2).latch = s.latch := rfl
@[simp] theorem State.draw_routeLo (s : State) (w : Nat) : ((s.draw w).2).routeLo = s.routeLo := rfl
@[simp] theorem State.draw_routeStaged (s : State) (w : Nat) : ((s.draw w).2).routeStaged = s.routeStaged := rfl
@[simp] theorem State.draw_inbox (s : State) (w : Nat) : ((s.draw w).2).inbox = s.inbox := rfl
@[simp] theorem State.draw_answer (s : State) (w : Nat) : ((s.draw w).2).answer = s.answer := rfl
@[simp] theorem State.draw_bwrWin (s : State) (w : Nat) : ((s.draw w).2).bwrWin = s.bwrWin := rfl
@[simp] theorem State.draw_meas (s : State) (w : Nat) : ((s.draw w).2).meas = s.meas := rfl
@[simp] theorem State.draw_now (s : State) (w : Nat) : ((s.draw w).2).now = s.now := rfl
@[simp] theorem State.draw_tb (s : State) (w : Nat) : ((s.draw w).2).tb = s.tb := rfl
@[simp] theorem State.draw_pending (s : State) (w : Nat) : ((s.draw w).2).pending = s.pending := rfl

/-! ### Reads of another table -/
@[simp] theorem State.setReg_liveAt (s : State) (a : Nat) (v : Word32) (x : Nat) :
    (s.setReg a v).liveAt x = s.liveAt x := rfl
@[simp] theorem State.setReg_core (s : State) (a : Nat) (v : Word32) (x : Nat) :
    (s.setReg a v).core x = s.core x := rfl
@[simp] theorem State.setReg_stk (s : State) (a : Nat) (v : Word32) (x : Nat) :
    (s.setReg a v).stk x = s.stk x := rfl
@[simp] theorem State.setReg_mc (s : State) (a : Nat) (v : Word32) (x : Nat) :
    (s.setReg a v).mc x = s.mc x := rfl
@[simp] theorem State.setReg_point (s : State) (a : Nat) (v : Word32) (x : Nat) :
    (s.setReg a v).point x = s.point x := rfl
@[simp] theorem State.setReg_link (s : State) (a : Nat) (v : Word32) (x : Nat) :
    (s.setReg a v).link x = s.link x := rfl
@[simp] theorem State.setReg_byteAt (s : State) (a : Nat) (v : Word32) (x : Nat) :
    (s.setReg a v).byteAt x = s.byteAt x := rfl
@[simp] theorem State.setFld_liveAt (s : State) (a : Nat) (f : Fld) (y : Nat) (x : Nat) :
    (s.setFld a f y).liveAt x = s.liveAt x := rfl
@[simp] theorem State.setFld_core (s : State) (a : Nat) (f : Fld) (y : Nat) (x : Nat) :
    (s.setFld a f y).core x = s.core x := rfl
@[simp] theorem State.setFld_stk (s : State) (a : Nat) (f : Fld) (y : Nat) (x : Nat) :
    (s.setFld a f y).stk x = s.stk x := rfl
@[simp] theorem State.setFld_mc (s : State) (a : Nat) (f : Fld) (y : Nat) (x : Nat) :
    (s.setFld a f y).mc x = s.mc x := rfl
@[simp] theorem State.setFld_point (s : State) (a : Nat) (f : Fld) (y : Nat) (x : Nat) :
    (s.setFld a f y).point x = s.point x := rfl
@[simp] theorem State.setFld_link (s : State) (a : Nat) (f : Fld) (y : Nat) (x : Nat) :
    (s.setFld a f y).link x = s.link x := rfl
@[simp] theorem State.setFld_byteAt (s : State) (a : Nat) (f : Fld) (y : Nat) (x : Nat) :
    (s.setFld a f y).byteAt x = s.byteAt x := rfl
@[simp] theorem State.setBit_liveAt (s : State) (a i : Nat) (x : Nat) :
    (s.setBit a i).liveAt x = s.liveAt x := rfl
@[simp] theorem State.setBit_core (s : State) (a i : Nat) (x : Nat) :
    (s.setBit a i).core x = s.core x := rfl
@[simp] theorem State.setBit_stk (s : State) (a i : Nat) (x : Nat) :
    (s.setBit a i).stk x = s.stk x := rfl
@[simp] theorem State.setBit_mc (s : State) (a i : Nat) (x : Nat) :
    (s.setBit a i).mc x = s.mc x := rfl
@[simp] theorem State.setBit_point (s : State) (a i : Nat) (x : Nat) :
    (s.setBit a i).point x = s.point x := rfl
@[simp] theorem State.setBit_link (s : State) (a i : Nat) (x : Nat) :
    (s.setBit a i).link x = s.link x := rfl
@[simp] theorem State.setBit_byteAt (s : State) (a i : Nat) (x : Nat) :
    (s.setBit a i).byteAt x = s.byteAt x := rfl
@[simp] theorem State.clrBit_liveAt (s : State) (a i : Nat) (x : Nat) :
    (s.clrBit a i).liveAt x = s.liveAt x := rfl
@[simp] theorem State.clrBit_core (s : State) (a i : Nat) (x : Nat) :
    (s.clrBit a i).core x = s.core x := rfl
@[simp] theorem State.clrBit_stk (s : State) (a i : Nat) (x : Nat) :
    (s.clrBit a i).stk x = s.stk x := rfl
@[simp] theorem State.clrBit_mc (s : State) (a i : Nat) (x : Nat) :
    (s.clrBit a i).mc x = s.mc x := rfl
@[simp] theorem State.clrBit_point (s : State) (a i : Nat) (x : Nat) :
    (s.clrBit a i).point x = s.point x := rfl
@[simp] theorem State.clrBit_link (s : State) (a i : Nat) (x : Nat) :
    (s.clrBit a i).link x = s.link x := rfl
@[simp] theorem State.clrBit_byteAt (s : State) (a i : Nat) (x : Nat) :
    (s.clrBit a i).byteAt x = s.byteAt x := rfl
@[simp] theorem State.setPair_liveAt (s : State) (a v : Nat) (x : Nat) :
    (s.setPair a v).liveAt x = s.liveAt x := rfl
@[simp] theorem State.setPair_core (s : State) (a v : Nat) (x : Nat) :
    (s.setPair a v).core x = s.core x := rfl
@[simp] theorem State.setPair_stk (s : State) (a v : Nat) (x : Nat) :
    (s.setPair a v).stk x = s.stk x := rfl
@[simp] theorem State.setPair_mc (s : State) (a v : Nat) (x : Nat) :
    (s.setPair a v).mc x = s.mc x := rfl
@[simp] theorem State.setPair_point (s : State) (a v : Nat) (x : Nat) :
    (s.setPair a v).point x = s.point x := rfl
@[simp] theorem State.setPair_link (s : State) (a v : Nat) (x : Nat) :
    (s.setPair a v).link x = s.link x := rfl
@[simp] theorem State.setPair_byteAt (s : State) (a v : Nat) (x : Nat) :
    (s.setPair a v).byteAt x = s.byteAt x := rfl
@[simp] theorem State.bump_liveAt (s : State) (a : Nat) (f : Fld) (n : Nat) (x : Nat) :
    (s.bump a f n).liveAt x = s.liveAt x := rfl
@[simp] theorem State.bump_core (s : State) (a : Nat) (f : Fld) (n : Nat) (x : Nat) :
    (s.bump a f n).core x = s.core x := rfl
@[simp] theorem State.bump_stk (s : State) (a : Nat) (f : Fld) (n : Nat) (x : Nat) :
    (s.bump a f n).stk x = s.stk x := rfl
@[simp] theorem State.bump_mc (s : State) (a : Nat) (f : Fld) (n : Nat) (x : Nat) :
    (s.bump a f n).mc x = s.mc x := rfl
@[simp] theorem State.bump_point (s : State) (a : Nat) (f : Fld) (n : Nat) (x : Nat) :
    (s.bump a f n).point x = s.point x := rfl
@[simp] theorem State.bump_link (s : State) (a : Nat) (f : Fld) (n : Nat) (x : Nat) :
    (s.bump a f n).link x = s.link x := rfl
@[simp] theorem State.bump_byteAt (s : State) (a : Nat) (f : Fld) (n : Nat) (x : Nat) :
    (s.bump a f n).byteAt x = s.byteAt x := rfl
@[simp] theorem State.setLive_reg (s : State) (a v : Nat) (x : Nat) :
    (s.setLive a v).reg x = s.reg x := rfl
@[simp] theorem State.setLive_core (s : State) (a v : Nat) (x : Nat) :
    (s.setLive a v).core x = s.core x := rfl
@[simp] theorem State.setLive_stk (s : State) (a v : Nat) (x : Nat) :
    (s.setLive a v).stk x = s.stk x := rfl
@[simp] theorem State.setLive_mc (s : State) (a v : Nat) (x : Nat) :
    (s.setLive a v).mc x = s.mc x := rfl
@[simp] theorem State.setLive_point (s : State) (a v : Nat) (x : Nat) :
    (s.setLive a v).point x = s.point x := rfl
@[simp] theorem State.setLive_link (s : State) (a v : Nat) (x : Nat) :
    (s.setLive a v).link x = s.link x := rfl
@[simp] theorem State.setLive_byteAt (s : State) (a v : Nat) (x : Nat) :
    (s.setLive a v).byteAt x = s.byteAt x := rfl
@[simp] theorem State.count_reg (s : State) (a n : Nat) (x : Nat) :
    (s.count a n).reg x = s.reg x := rfl
@[simp] theorem State.count_core (s : State) (a n : Nat) (x : Nat) :
    (s.count a n).core x = s.core x := rfl
@[simp] theorem State.count_stk (s : State) (a n : Nat) (x : Nat) :
    (s.count a n).stk x = s.stk x := rfl
@[simp] theorem State.count_mc (s : State) (a n : Nat) (x : Nat) :
    (s.count a n).mc x = s.mc x := rfl
@[simp] theorem State.count_point (s : State) (a n : Nat) (x : Nat) :
    (s.count a n).point x = s.point x := rfl
@[simp] theorem State.count_link (s : State) (a n : Nat) (x : Nat) :
    (s.count a n).link x = s.link x := rfl
@[simp] theorem State.count_byteAt (s : State) (a n : Nat) (x : Nat) :
    (s.count a n).byteAt x = s.byteAt x := rfl
@[simp] theorem State.setCore_reg (s : State) (i : Nat) (c : Core) (x : Nat) :
    (s.setCore i c).reg x = s.reg x := rfl
@[simp] theorem State.setCore_liveAt (s : State) (i : Nat) (c : Core) (x : Nat) :
    (s.setCore i c).liveAt x = s.liveAt x := rfl
@[simp] theorem State.setCore_stk (s : State) (i : Nat) (c : Core) (x : Nat) :
    (s.setCore i c).stk x = s.stk x := rfl
@[simp] theorem State.setCore_mc (s : State) (i : Nat) (c : Core) (x : Nat) :
    (s.setCore i c).mc x = s.mc x := rfl
@[simp] theorem State.setCore_point (s : State) (i : Nat) (c : Core) (x : Nat) :
    (s.setCore i c).point x = s.point x := rfl
@[simp] theorem State.setCore_link (s : State) (i : Nat) (c : Core) (x : Nat) :
    (s.setCore i c).link x = s.link x := rfl
@[simp] theorem State.setCore_byteAt (s : State) (i : Nat) (c : Core) (x : Nat) :
    (s.setCore i c).byteAt x = s.byteAt x := rfl
@[simp] theorem State.setSlot_reg (s : State) (i g : Nat) (y : Slot) (x : Nat) :
    (s.setSlot i g y).reg x = s.reg x := rfl
@[simp] theorem State.setSlot_liveAt (s : State) (i g : Nat) (y : Slot) (x : Nat) :
    (s.setSlot i g y).liveAt x = s.liveAt x := rfl
@[simp] theorem State.setSlot_stk (s : State) (i g : Nat) (y : Slot) (x : Nat) :
    (s.setSlot i g y).stk x = s.stk x := rfl
@[simp] theorem State.setSlot_mc (s : State) (i g : Nat) (y : Slot) (x : Nat) :
    (s.setSlot i g y).mc x = s.mc x := rfl
@[simp] theorem State.setSlot_point (s : State) (i g : Nat) (y : Slot) (x : Nat) :
    (s.setSlot i g y).point x = s.point x := rfl
@[simp] theorem State.setSlot_link (s : State) (i g : Nat) (y : Slot) (x : Nat) :
    (s.setSlot i g y).link x = s.link x := rfl
@[simp] theorem State.setSlot_byteAt (s : State) (i g : Nat) (y : Slot) (x : Nat) :
    (s.setSlot i g y).byteAt x = s.byteAt x := rfl
@[simp] theorem updCore_reg (s : State) (i : Nat) (f : Core → Core) (x : Nat) :
    (updCore i f s).reg x = s.reg x := rfl
@[simp] theorem updCore_liveAt (s : State) (i : Nat) (f : Core → Core) (x : Nat) :
    (updCore i f s).liveAt x = s.liveAt x := rfl
@[simp] theorem updCore_stk (s : State) (i : Nat) (f : Core → Core) (x : Nat) :
    (updCore i f s).stk x = s.stk x := rfl
@[simp] theorem updCore_mc (s : State) (i : Nat) (f : Core → Core) (x : Nat) :
    (updCore i f s).mc x = s.mc x := rfl
@[simp] theorem updCore_point (s : State) (i : Nat) (f : Core → Core) (x : Nat) :
    (updCore i f s).point x = s.point x := rfl
@[simp] theorem updCore_link (s : State) (i : Nat) (f : Core → Core) (x : Nat) :
    (updCore i f s).link x = s.link x := rfl
@[simp] theorem updCore_byteAt (s : State) (i : Nat) (f : Core → Core) (x : Nat) :
    (updCore i f s).byteAt x = s.byteAt x := rfl
@[simp] theorem updSlot_reg (s : State) (i g : Nat) (f : Slot → Slot) (x : Nat) :
    (updSlot i g f s).reg x = s.reg x := rfl
@[simp] theorem updSlot_liveAt (s : State) (i g : Nat) (f : Slot → Slot) (x : Nat) :
    (updSlot i g f s).liveAt x = s.liveAt x := rfl
@[simp] theorem updSlot_stk (s : State) (i g : Nat) (f : Slot → Slot) (x : Nat) :
    (updSlot i g f s).stk x = s.stk x := rfl
@[simp] theorem updSlot_mc (s : State) (i g : Nat) (f : Slot → Slot) (x : Nat) :
    (updSlot i g f s).mc x = s.mc x := rfl
@[simp] theorem updSlot_point (s : State) (i g : Nat) (f : Slot → Slot) (x : Nat) :
    (updSlot i g f s).point x = s.point x := rfl
@[simp] theorem updSlot_link (s : State) (i g : Nat) (f : Slot → Slot) (x : Nat) :
    (updSlot i g f s).link x = s.link x := rfl
@[simp] theorem updSlot_byteAt (s : State) (i g : Nat) (f : Slot → Slot) (x : Nat) :
    (updSlot i g f s).byteAt x = s.byteAt x := rfl
@[simp] theorem State.setStk_reg (s : State) (k : Nat) (y : Stack) (x : Nat) :
    (s.setStk k y).reg x = s.reg x := rfl
@[simp] theorem State.setStk_liveAt (s : State) (k : Nat) (y : Stack) (x : Nat) :
    (s.setStk k y).liveAt x = s.liveAt x := rfl
@[simp] theorem State.setStk_core (s : State) (k : Nat) (y : Stack) (x : Nat) :
    (s.setStk k y).core x = s.core x := rfl
@[simp] theorem State.setStk_mc (s : State) (k : Nat) (y : Stack) (x : Nat) :
    (s.setStk k y).mc x = s.mc x := rfl
@[simp] theorem State.setStk_point (s : State) (k : Nat) (y : Stack) (x : Nat) :
    (s.setStk k y).point x = s.point x := rfl
@[simp] theorem State.setStk_link (s : State) (k : Nat) (y : Stack) (x : Nat) :
    (s.setStk k y).link x = s.link x := rfl
@[simp] theorem State.setStk_byteAt (s : State) (k : Nat) (y : Stack) (x : Nat) :
    (s.setStk k y).byteAt x = s.byteAt x := rfl
@[simp] theorem State.setChan_reg (s : State) (k n : Nat) (c : Chan) (x : Nat) :
    (s.setChan k n c).reg x = s.reg x := rfl
@[simp] theorem State.setChan_liveAt (s : State) (k n : Nat) (c : Chan) (x : Nat) :
    (s.setChan k n c).liveAt x = s.liveAt x := rfl
@[simp] theorem State.setChan_core (s : State) (k n : Nat) (c : Chan) (x : Nat) :
    (s.setChan k n c).core x = s.core x := rfl
@[simp] theorem State.setChan_mc (s : State) (k n : Nat) (c : Chan) (x : Nat) :
    (s.setChan k n c).mc x = s.mc x := rfl
@[simp] theorem State.setChan_point (s : State) (k n : Nat) (c : Chan) (x : Nat) :
    (s.setChan k n c).point x = s.point x := rfl
@[simp] theorem State.setChan_link (s : State) (k n : Nat) (c : Chan) (x : Nat) :
    (s.setChan k n c).link x = s.link x := rfl
@[simp] theorem State.setChan_byteAt (s : State) (k n : Nat) (c : Chan) (x : Nat) :
    (s.setChan k n c).byteAt x = s.byteAt x := rfl
@[simp] theorem updStk_reg (s : State) (k : Nat) (f : Stack → Stack) (x : Nat) :
    (updStk k f s).reg x = s.reg x := rfl
@[simp] theorem updStk_liveAt (s : State) (k : Nat) (f : Stack → Stack) (x : Nat) :
    (updStk k f s).liveAt x = s.liveAt x := rfl
@[simp] theorem updStk_core (s : State) (k : Nat) (f : Stack → Stack) (x : Nat) :
    (updStk k f s).core x = s.core x := rfl
@[simp] theorem updStk_mc (s : State) (k : Nat) (f : Stack → Stack) (x : Nat) :
    (updStk k f s).mc x = s.mc x := rfl
@[simp] theorem updStk_point (s : State) (k : Nat) (f : Stack → Stack) (x : Nat) :
    (updStk k f s).point x = s.point x := rfl
@[simp] theorem updStk_link (s : State) (k : Nat) (f : Stack → Stack) (x : Nat) :
    (updStk k f s).link x = s.link x := rfl
@[simp] theorem updStk_byteAt (s : State) (k : Nat) (f : Stack → Stack) (x : Nat) :
    (updStk k f s).byteAt x = s.byteAt x := rfl
@[simp] theorem updChan_reg (s : State) (k n : Nat) (f : Chan → Chan) (x : Nat) :
    (updChan k n f s).reg x = s.reg x := rfl
@[simp] theorem updChan_liveAt (s : State) (k n : Nat) (f : Chan → Chan) (x : Nat) :
    (updChan k n f s).liveAt x = s.liveAt x := rfl
@[simp] theorem updChan_core (s : State) (k n : Nat) (f : Chan → Chan) (x : Nat) :
    (updChan k n f s).core x = s.core x := rfl
@[simp] theorem updChan_mc (s : State) (k n : Nat) (f : Chan → Chan) (x : Nat) :
    (updChan k n f s).mc x = s.mc x := rfl
@[simp] theorem updChan_point (s : State) (k n : Nat) (f : Chan → Chan) (x : Nat) :
    (updChan k n f s).point x = s.point x := rfl
@[simp] theorem updChan_link (s : State) (k n : Nat) (f : Chan → Chan) (x : Nat) :
    (updChan k n f s).link x = s.link x := rfl
@[simp] theorem updChan_byteAt (s : State) (k n : Nat) (f : Chan → Chan) (x : Nat) :
    (updChan k n f s).byteAt x = s.byteAt x := rfl
@[simp] theorem State.setMc_reg (s : State) (m : Nat) (y : Hbm) (x : Nat) :
    (s.setMc m y).reg x = s.reg x := rfl
@[simp] theorem State.setMc_liveAt (s : State) (m : Nat) (y : Hbm) (x : Nat) :
    (s.setMc m y).liveAt x = s.liveAt x := rfl
@[simp] theorem State.setMc_core (s : State) (m : Nat) (y : Hbm) (x : Nat) :
    (s.setMc m y).core x = s.core x := rfl
@[simp] theorem State.setMc_stk (s : State) (m : Nat) (y : Hbm) (x : Nat) :
    (s.setMc m y).stk x = s.stk x := rfl
@[simp] theorem State.setMc_point (s : State) (m : Nat) (y : Hbm) (x : Nat) :
    (s.setMc m y).point x = s.point x := rfl
@[simp] theorem State.setMc_link (s : State) (m : Nat) (y : Hbm) (x : Nat) :
    (s.setMc m y).link x = s.link x := rfl
@[simp] theorem State.setMc_byteAt (s : State) (m : Nat) (y : Hbm) (x : Nat) :
    (s.setMc m y).byteAt x = s.byteAt x := rfl
@[simp] theorem State.setPoint_reg (s : State) (p : Nat) (y : Point) (x : Nat) :
    (s.setPoint p y).reg x = s.reg x := rfl
@[simp] theorem State.setPoint_liveAt (s : State) (p : Nat) (y : Point) (x : Nat) :
    (s.setPoint p y).liveAt x = s.liveAt x := rfl
@[simp] theorem State.setPoint_core (s : State) (p : Nat) (y : Point) (x : Nat) :
    (s.setPoint p y).core x = s.core x := rfl
@[simp] theorem State.setPoint_stk (s : State) (p : Nat) (y : Point) (x : Nat) :
    (s.setPoint p y).stk x = s.stk x := rfl
@[simp] theorem State.setPoint_mc (s : State) (p : Nat) (y : Point) (x : Nat) :
    (s.setPoint p y).mc x = s.mc x := rfl
@[simp] theorem State.setPoint_link (s : State) (p : Nat) (y : Point) (x : Nat) :
    (s.setPoint p y).link x = s.link x := rfl
@[simp] theorem State.setPoint_byteAt (s : State) (p : Nat) (y : Point) (x : Nat) :
    (s.setPoint p y).byteAt x = s.byteAt x := rfl
@[simp] theorem State.setLink_reg (s : State) (l : Nat) (y : Link) (x : Nat) :
    (s.setLink l y).reg x = s.reg x := rfl
@[simp] theorem State.setLink_liveAt (s : State) (l : Nat) (y : Link) (x : Nat) :
    (s.setLink l y).liveAt x = s.liveAt x := rfl
@[simp] theorem State.setLink_core (s : State) (l : Nat) (y : Link) (x : Nat) :
    (s.setLink l y).core x = s.core x := rfl
@[simp] theorem State.setLink_stk (s : State) (l : Nat) (y : Link) (x : Nat) :
    (s.setLink l y).stk x = s.stk x := rfl
@[simp] theorem State.setLink_mc (s : State) (l : Nat) (y : Link) (x : Nat) :
    (s.setLink l y).mc x = s.mc x := rfl
@[simp] theorem State.setLink_point (s : State) (l : Nat) (y : Link) (x : Nat) :
    (s.setLink l y).point x = s.point x := rfl
@[simp] theorem State.setLink_byteAt (s : State) (l : Nat) (y : Link) (x : Nat) :
    (s.setLink l y).byteAt x = s.byteAt x := rfl
@[simp] theorem updLink_reg (s : State) (l : Nat) (f : Link → Link) (x : Nat) :
    (updLink l f s).reg x = s.reg x := rfl
@[simp] theorem updLink_liveAt (s : State) (l : Nat) (f : Link → Link) (x : Nat) :
    (updLink l f s).liveAt x = s.liveAt x := rfl
@[simp] theorem updLink_core (s : State) (l : Nat) (f : Link → Link) (x : Nat) :
    (updLink l f s).core x = s.core x := rfl
@[simp] theorem updLink_stk (s : State) (l : Nat) (f : Link → Link) (x : Nat) :
    (updLink l f s).stk x = s.stk x := rfl
@[simp] theorem updLink_mc (s : State) (l : Nat) (f : Link → Link) (x : Nat) :
    (updLink l f s).mc x = s.mc x := rfl
@[simp] theorem updLink_point (s : State) (l : Nat) (f : Link → Link) (x : Nat) :
    (updLink l f s).point x = s.point x := rfl
@[simp] theorem updLink_byteAt (s : State) (l : Nat) (f : Link → Link) (x : Nat) :
    (updLink l f s).byteAt x = s.byteAt x := rfl
@[simp] theorem State.setByte_reg (s : State) (a : Nat) (v : Byte) (x : Nat) :
    (s.setByte a v).reg x = s.reg x := rfl
@[simp] theorem State.setByte_liveAt (s : State) (a : Nat) (v : Byte) (x : Nat) :
    (s.setByte a v).liveAt x = s.liveAt x := rfl
@[simp] theorem State.setByte_core (s : State) (a : Nat) (v : Byte) (x : Nat) :
    (s.setByte a v).core x = s.core x := rfl
@[simp] theorem State.setByte_stk (s : State) (a : Nat) (v : Byte) (x : Nat) :
    (s.setByte a v).stk x = s.stk x := rfl
@[simp] theorem State.setByte_mc (s : State) (a : Nat) (v : Byte) (x : Nat) :
    (s.setByte a v).mc x = s.mc x := rfl
@[simp] theorem State.setByte_point (s : State) (a : Nat) (v : Byte) (x : Nat) :
    (s.setByte a v).point x = s.point x := rfl
@[simp] theorem State.setByte_link (s : State) (a : Nat) (v : Byte) (x : Nat) :
    (s.setByte a v).link x = s.link x := rfl
@[simp] theorem State.draw_reg (s : State) (w : Nat) (x : Nat) :
    ((s.draw w).2).reg x = s.reg x := rfl
@[simp] theorem State.draw_liveAt (s : State) (w : Nat) (x : Nat) :
    ((s.draw w).2).liveAt x = s.liveAt x := rfl
@[simp] theorem State.draw_core (s : State) (w : Nat) (x : Nat) :
    ((s.draw w).2).core x = s.core x := rfl
@[simp] theorem State.draw_stk (s : State) (w : Nat) (x : Nat) :
    ((s.draw w).2).stk x = s.stk x := rfl
@[simp] theorem State.draw_mc (s : State) (w : Nat) (x : Nat) :
    ((s.draw w).2).mc x = s.mc x := rfl
@[simp] theorem State.draw_point (s : State) (w : Nat) (x : Nat) :
    ((s.draw w).2).point x = s.point x := rfl
@[simp] theorem State.draw_link (s : State) (w : Nat) (x : Nat) :
    ((s.draw w).2).link x = s.link x := rfl
@[simp] theorem State.draw_byteAt (s : State) (w : Nat) (x : Nat) :
    ((s.draw w).2).byteAt x = s.byteAt x := rfl

/-! ### Reads of the table written -/

theorem State.reg_setReg (s : State) (a b : Nat) (v : Word32) :
    (s.setReg a v).reg b = if b = a then v else s.reg b := sget_sset ..

@[simp] theorem State.reg_setReg_same (s : State) (a : Nat) (v : Word32) : (s.setReg a v).reg a = v := by
  simp [State.reg_setReg]

theorem State.reg_setReg_ne (s : State) {a b : Nat} (v : Word32) (h : b ≠ a) :
    (s.setReg a v).reg b = s.reg b := by simp [State.reg_setReg, h]

@[simp] theorem State.fld_setFld_reg (s : State) (a : Nat) (f : Fld) (x : Nat) :
    (s.setFld a f x).reg a = f.put (s.reg a) x := State.reg_setReg_same ..

theorem State.reg_setFld_ne (s : State) {a b : Nat} (f : Fld) (x : Nat) (h : b ≠ a) :
    (s.setFld a f x).reg b = s.reg b := State.reg_setReg_ne s _ h

theorem State.liveAt_setLive (s : State) (a b v : Nat) :
    (s.setLive a v).liveAt b = if b = a then v else s.liveAt b := sget_sset ..

theorem State.liveAt_count (s : State) (a b n : Nat) :
    (s.count a n).liveAt b = if b = a then min (s.liveAt a + n) 0xFFFFFFFF else s.liveAt b := sget_sset ..

theorem State.core_setCore (s : State) (i j : Nat) (c : Core) :
    (s.setCore i c).core j = if j = i then c else s.core j := sget_sset ..

theorem State.core_updCore (s : State) (i j : Nat) (f : Core → Core) :
    (updCore i f s).core j = if j = i then f (s.core i) else s.core j := sget_sset ..

theorem State.stk_setStk (s : State) (i j : Nat) (x : Stack) :
    (s.setStk i x).stk j = if j = i then x else s.stk j := sget_sset ..

theorem State.stk_updStk (s : State) (i j : Nat) (f : Stack → Stack) :
    (updStk i f s).stk j = if j = i then f (s.stk i) else s.stk j := sget_sset ..

theorem State.mc_setMc (s : State) (i j : Nat) (x : Hbm) :
    (s.setMc i x).mc j = if j = i then x else s.mc j := sget_sset ..

theorem State.point_setPoint (s : State) (i j : Nat) (x : Point) :
    (s.setPoint i x).point j = if j = i then x else s.point j := sget_sset ..

theorem State.link_setLink (s : State) (i j : Nat) (x : Link) :
    (s.setLink i x).link j = if j = i then x else s.link j := sget_sset ..

theorem State.link_updLink (s : State) (i j : Nat) (f : Link → Link) :
    (updLink i f s).link j = if j = i then f (s.link i) else s.link j := sget_sset ..

theorem State.byteAt_setByte (s : State) (a b : Nat) (v : Byte) :
    (s.setByte a v).byteAt b = if b = a then v else s.byteAt b := sget_sset ..

theorem Core.slot_setSlot (c : Core) (g h : Nat) (x : Slot) :
    (c.setSlot g x).slot h = if h = g then x else c.slot h := sget_sset ..

theorem Stack.chan_setChan (k : Stack) (n j : Nat) (c : Chan) :
    (k.setChan n c).chan j = if j = n then c else k.chan j := sget_sset ..

theorem State.slot_setSlot (s : State) (i j g h : Nat) (x : Slot) :
    (s.setSlot i g x).slot j h = if j = i ∧ h = g then x else s.slot j h := by
  simp only [State.slot, State.setSlot, State.core_setCore]
  split
  · subst_vars; simp [Core.slot_setSlot]
  · simp_all

theorem State.slot_updSlot (s : State) (i j g h : Nat) (f : Slot → Slot) :
    (updSlot i g f s).slot j h = if j = i ∧ h = g then f (s.slot i g) else s.slot j h :=
  State.slot_setSlot ..

theorem State.chan_setChan (s : State) (k j n m : Nat) (c : Chan) :
    (s.setChan k n c).chan j m = if j = k ∧ m = n then c else s.chan j m := by
  simp only [State.chan, State.setChan, State.stk_setStk]
  split
  · subst_vars; simp [Stack.chan_setChan]
  · simp_all

theorem State.chan_updChan (s : State) (k j n m : Nat) (f : Chan → Chan) :
    (updChan k n f s).chan j m = if j = k ∧ m = n then f (s.chan k n) else s.chan j m :=
  State.chan_setChan ..

/-! ### The canonical form of memory -/

theorem State.setByte_memWf (s : State) (a : Nat) (v : Byte) (h : memWf s.mem = true) :
    memWf (s.setByte a v).mem = true := swf_sset a v h

theorem State.setBytes_memWf (bs : List Byte) :
    ∀ (s : State) (a : Nat), memWf s.mem = true → memWf (s.setBytes a bs).mem = true := by
  induction bs with
  | nil => intro s a h; exact h
  | cons b t ih => intro s a h; exact ih _ _ (s.setByte_memWf a b h)

/-- What a byte reads as after the bytes `bs` have been stored from `a` on. -/
theorem State.byteAt_setBytes (bs : List Byte) :
    ∀ (s : State) (a b : Nat), (s.setBytes a bs).byteAt b =
      if a ≤ b ∧ b < a + bs.length then bs.getD (b - a) 0 else s.byteAt b := by
  induction bs with
  | nil => intro s a b; simp [State.setBytes]
  | cons x t ih =>
    intro s a b
    simp only [State.setBytes, ih, State.byteAt_setByte, List.length_cons]
    by_cases h1 : b = a
    · subst h1; simp
    · by_cases h2 : a + 1 ≤ b ∧ b < a + 1 + t.length
      · have h3 : a ≤ b ∧ b < a + (t.length + 1) := by omega
        obtain ⟨k, hk⟩ : ∃ k, b - a = k + 1 := ⟨b - a - 1, by omega⟩
        have h4 : b - (a + 1) = k := by omega
        rw [if_pos h2, if_pos h3, hk, List.getD_cons_succ, h4]
      · have h3 : ¬(a ≤ b ∧ b < a + (t.length + 1)) := by omega
        rw [if_neg h2, if_neg h3, if_neg h1]

end Sys2Proof.Machine
end

