-- ==== Sys2Proof/Laws/Issue.lean ====
section
/-! SUPPORT. What the shared operations of an issued instruction do: pops, pushes and the commit. -/

namespace Sys2Proof.Machine

open Sys2Proof

/-! ### One thread's queue -/

/-- Queue q of thread t after queue p of thread u has been set. -/
theorem Slot.queue_setQueue (x : Slot) {p q t u : Nat} (es : List QEntry) (ht : t < 64) (hu : u < 64) :
    (x.setQueue p u es).queue q t = if q = p ∧ t = u then es else x.queue q t := by
  unfold Slot.queue Slot.setQueue
  rw [sget_sset]
  have : (64 * q + t = 64 * p + u) ↔ (q = p ∧ t = u) := by omega
  simp only [this]

theorem Slot.setQueue_fields (x : Slot) (p u : Nat) (es : List QEntry) :
    x.setQueue p u es = { x with queues := (x.setQueue p u es).queues } := rfl

/-- The threads below n of queue q after `f` has been applied for the threads of `act`. -/
theorem Slot.queue_mapQueue_aux (act : Word64) (q : Nat) (f : Nat → List QEntry → List QEntry) (x : Slot) :
    ∀ n, n ≤ 64 → ∀ p t, t < 64 →
      ((List.range n).foldl (fun x t => if act.getLsbD t then x.setQueue q t (f t (x.queue q t)) else x) x).queue p t =
        if p = q ∧ t < n ∧ act.getLsbD t = true then f t (x.queue p t) else x.queue p t := by
  intro n
  induction n with
  | zero => intro _ p t _; simp
  | succ n ih =>
    intro hn p t ht
    rw [List.range_succ, List.foldl_append]
    simp only [List.foldl_cons, List.foldl_nil]
    have ihn := ih (by omega)
    by_cases ha : act.getLsbD n = true
    · rw [if_pos ha, Slot.queue_setQueue _ _ ht (by omega), ihn p t ht, ihn q n (by omega)]
      by_cases h1 : p = q
      · subst h1
        by_cases h2 : t = n
        · subst h2; simp [ha]
        · have : t < n + 1 ↔ t < n := by omega
          simp [h2, this]
      · simp [h1]
    · rw [if_neg ha, ihn p t ht]
      by_cases h2 : t = n
      · subst h2; simp [ha]
      · have : t < n + 1 ↔ t < n := by omega
        simp [this]

/-- Applying `f` to queue q of the active threads changes those and no others. -/
theorem Slot.queue_mapQueue (x : Slot) (q : Nat) (act : Word64) (f : Nat → List QEntry → List QEntry) (p t : Nat)
    (ht : t < 64) :
    (x.mapQueue q act f).queue p t = if p = q ∧ act.getLsbD t = true then f t (x.queue p t) else x.queue p t := by
  have := Slot.queue_mapQueue_aux act q f x 64 (Nat.le_refl 64) p t ht
  simpa [Slot.mapQueue, ht] using this

theorem Slot.mapQueue_fields (x : Slot) (q : Nat) (act : Word64) (f : Nat → List QEntry → List QEntry) :
    x.mapQueue q act f = { x with queues := (x.mapQueue q act f).queues } := by
  have aux : ∀ (l : List Nat) (y : Slot),
      l.foldl (fun x t => if act.getLsbD t then x.setQueue q t (f t (x.queue q t)) else x) y =
        { y with queues := (l.foldl (fun x t => if act.getLsbD t then x.setQueue q t (f t (x.queue q t)) else x) y).queues } := by
    intro l
    induction l with
    | nil => intro y; rfl
    | cons a l ih =>
      intro y
      simp only [List.foldl_cons]
      rw [ih]
      split <;> rfl
  exact aux _ x

/-! ### Cores -/

/-- A core whose slots, tensor array and inbound queues alone may differ. -/
def Core.sameBody (c d : Core) : Prop := d = { c with slots := d.slots, tns := d.tns, qi := d.qi }

theorem Core.sameBody_refl (c : Core) : c.sameBody c := rfl

theorem Core.sameBody_trans {a b c : Core} (h : a.sameBody b) (k : b.sameBody c) : a.sameBody c := by
  unfold Core.sameBody at *
  rw [k, h]

theorem Core.setSlot_sameBody (c : Core) (g : Nat) (x : Slot) : c.sameBody (c.setSlot g x) := rfl

theorem Core.setWide_sameBody (c : Core) (w : WideQ) (es : List Entry) : c.sameBody (c.setWide w es) := by
  cases w <;> rfl

theorem Core.loaderTake_sameBody (c : Core) : c.sameBody c.loaderTake := by
  unfold Core.loaderTake
  split
  · rfl
  · split
    · exact Core.sameBody_trans (Core.setWide_sameBody ..) rfl
    · rfl

theorem Core.pushWide_sameBody (c : Core) (w : WideQ) (e : Entry) : c.sameBody (c.pushWide w e) :=
  Core.sameBody_trans (Core.setWide_sameBody ..) (Core.loaderTake_sameBody _)

@[simp] theorem Core.setWide_slots (c : Core) (w : WideQ) (es : List Entry) : (c.setWide w es).slots = c.slots := by
  cases w <;> rfl

@[simp] theorem Core.loaderTake_slots (c : Core) : c.loaderTake.slots = c.slots := by
  unfold Core.loaderTake
  split
  · rfl
  · split
    · exact Core.setWide_slots ..
    · rfl

@[simp] theorem Core.pushWide_slots (c : Core) (w : WideQ) (e : Entry) : (c.pushWide w e).slots = c.slots := by
  simp [Core.pushWide]

/-! ### What moves the queues of a slot -/

/-- From u to t only core i differs, there only slot g and the tensor and inbound queues, and of the slot only its
queues. -/
structure MovesQueues (i g : Nat) (u t : State) : Prop where
  state : t = { u with cores := t.cores }
  core : ∀ j, j ≠ i → t.core j = u.core j
  body : (u.core i).sameBody (t.core i)
  other : ∀ h, h ≠ g → t.slot i h = u.slot i h
  slot : t.slot i g = { u.slot i g with queues := (t.slot i g).queues }

theorem MovesQueues.refl (i g : Nat) (u : State) : MovesQueues i g u u :=
  ⟨rfl, fun _ _ => rfl, rfl, fun _ _ => rfl, rfl⟩

theorem MovesQueues.trans {i g : Nat} {u v t : State} (h : MovesQueues i g u v) (k : MovesQueues i g v t) :
    MovesQueues i g u t where
  state := by rw [k.state, h.state]
  core j hj := (k.core j hj).trans (h.core j hj)
  body := Core.sameBody_trans h.body k.body
  other x hx := (k.other x hx).trans (h.other x hx)
  slot := by rw [k.slot, h.slot]

theorem MovesQueues.regs {i g : Nat} {u t : State} (h : MovesQueues i g u t) : t.regs = u.regs := by rw [h.state]

theorem MovesQueues.binding {i g : Nat} {u t : State} (h : MovesQueues i g u t) (j k q : Nat) :
    t.binding j k q = u.binding j k q := by
  unfold State.binding State.reg; rw [h.regs]

theorem movesQueues_updCore {i g : Nat} {u : State} {f : Core → Core} (hb : (u.core i).sameBody (f (u.core i)))
    (hs : (f (u.core i)).slots = (u.core i).slots) : MovesQueues i g u (updCore i f u) where
  state := rfl
  core j hj := by rw [State.core_updCore, if_neg hj]
  body := by rw [State.core_updCore, if_pos rfl]; exact hb
  other h _ := by simp only [State.slot, State.core_updCore, if_true, Core.slot, hs]
  slot := by simp only [State.slot, State.core_updCore, if_true, Core.slot, hs]

theorem movesQueues_updSlot {i g : Nat} {u : State} {f : Slot → Slot}
    (hf : f (u.slot i g) = { u.slot i g with queues := (f (u.slot i g)).queues }) :
    MovesQueues i g u (updSlot i g f u) where
  state := rfl
  core j hj := by
    show (u.setCore i _).core j = _
    rw [State.core_setCore, if_neg hj]
  body := by
    show Core.sameBody _ ((u.setCore i _).core i)
    rw [State.core_setCore, if_pos rfl]; rfl
  other h hh := by rw [State.slot_updSlot, if_neg (by simp [hh])]
  slot := by rw [State.slot_updSlot, if_pos ⟨rfl, rfl⟩]; exact hf

theorem movesQueues_pushQ (i g : Nat) (act : Word64) (q : Nat) (v : Nat → Word32) (u : State) :
    MovesQueues i g u (pushQ i g act q v u) := by
  unfold pushQ
  split
  · exact .refl ..
  · split
    · exact movesQueues_updCore (Core.pushWide_sameBody ..) (Core.pushWide_slots ..)
    · exact movesQueues_updSlot (Slot.mapQueue_fields ..)

/-- One queue's part of the pops. -/
def popOne (i g : Nat) (act : Word64) (fs : List (BitVec 7)) (q : Nat) (s : State) : State :=
  if q = 31 then s
  else if s.boundIn i g q then
    updCore i (fun c => c.setWide (wideOf q (s.binding i g q)) ((c.wide (wideOf q (s.binding i g q))).drop (popCount fs q))) s
  else updSlot i g (fun x => x.mapQueue q act fun _ l => l.drop (popCount fs q)) s

theorem popSrcs_eq (i g : Nat) (act : Word64) (fs : List (BitVec 7)) (s : State) :
    popSrcs i g act fs s = forEach (((fs.filter fun f => srcMode f = 0).map srcIdx).dedup) (popOne i g act fs) s := rfl

theorem movesQueues_popOne (i g : Nat) (act : Word64) (fs : List (BitVec 7)) (q : Nat) (u : State) :
    MovesQueues i g u (popOne i g act fs q u) := by
  unfold popOne
  split
  · exact .refl ..
  · split
    · exact movesQueues_updCore (Core.setWide_sameBody ..) (Core.setWide_slots ..)
    · exact movesQueues_updSlot (Slot.mapQueue_fields ..)

theorem movesQueues_forEach {α : Type} {i g : Nat} {f : α → State → State} (hf : ∀ a s, MovesQueues i g s (f a s)) :
    ∀ (l : List α) (u : State), MovesQueues i g u (forEach l f u)
  | [], _ => .refl ..
  | a :: l, u => (hf a u).trans (movesQueues_forEach hf l (f a u))

theorem movesQueues_popSrcs (i g : Nat) (act : Word64) (fs : List (BitVec 7)) (u : State) :
    MovesQueues i g u (popSrcs i g act fs u) := by
  rw [popSrcs_eq]; exact movesQueues_forEach (fun q s => movesQueues_popOne i g act fs q s) _ u

/-! ### The queues after the pops and a push -/

theorem MovesQueues.boundIn {i g : Nat} {u t : State} (h : MovesQueues i g u t) (q : Nat) :
    t.boundIn i g q = u.boundIn i g q := by unfold State.boundIn; rw [h.binding]

theorem MovesQueues.boundOut {i g : Nat} {u t : State} (h : MovesQueues i g u t) (q : Nat) :
    t.boundOut i g q = u.boundOut i g q := by unfold State.boundOut; rw [h.binding]

theorem queue_popOne (i g : Nat) (act : Word64) (fs : List (BitVec 7)) (q : Nat) (u : State) (p k : Nat) (hk : k < 64) :
    ((popOne i g act fs q u).slot i g).queue p k =
      if p = q ∧ q ≠ 31 ∧ u.boundIn i g q = false ∧ act.getLsbD k = true then
        ((u.slot i g).queue p k).drop (popCount fs q) else (u.slot i g).queue p k := by
  unfold popOne
  split
  · rename_i h; subst h; simp
  · rename_i h31
    split
    · rename_i hb
      simp only [State.slot, State.core_updCore, if_true, Core.slot, Core.setWide_slots, hb]
      simp
    · rename_i hb
      rw [State.slot_updSlot, if_pos ⟨rfl, rfl⟩, Slot.queue_mapQueue _ _ _ _ _ _ hk]
      simp only [h31, hb, ne_eq, not_false_eq_true, true_and]

theorem queue_popList (i g : Nat) (act : Word64) (fs : List (BitVec 7)) (p k : Nat) (hk : k < 64) (hp : p ≠ 31) :
    ∀ (l : List Nat), l.Nodup → ∀ u : State,
      ((forEach l (popOne i g act fs) u).slot i g).queue p k =
        if p ∈ l ∧ u.boundIn i g p = false ∧ act.getLsbD k = true then
          ((u.slot i g).queue p k).drop (popCount fs p) else (u.slot i g).queue p k
  | [], _, _ => by simp [forEach]
  | q :: l, hn, u => by
    have hq := List.nodup_cons.1 hn
    have ih := queue_popList i g act fs p k hk hp l hq.2 (popOne i g act fs q u)
    have hm := movesQueues_popOne i g act fs q u
    show ((forEach l (popOne i g act fs) (popOne i g act fs q u)).slot i g).queue p k = _
    rw [ih, queue_popOne _ _ _ _ _ _ _ _ hk, hm.boundIn]
    by_cases h : p = q
    · subst h
      simp [hq.1, hp]
    · simp [h]

/-- A pop takes from every thread of `act` of an ordinary queue what the sources pop, and leaves every other thread's
queue alone (R75). -/
theorem queue_popSrcs (i g : Nat) (act : Word64) (fs : List (BitVec 7)) (u : State) (p k : Nat) (hk : k < 64)
    (hp : p < 31) :
    ((popSrcs i g act fs u).slot i g).queue p k =
      if act.getLsbD k && !u.boundIn i g p then ((u.slot i g).queue p k).drop (popCount fs p)
      else (u.slot i g).queue p k := by
  rw [popSrcs_eq, queue_popList i g act fs p k hk (by omega) _ (List.nodup_dedup _)]
  by_cases hm : p ∈ (fs.filter fun f => srcMode f = 0).map srcIdx
  · simp only [List.mem_dedup, hm, true_and, Bool.and_eq_true, Bool.not_eq_true']
    simp only [and_comm]
  · have h0 : popCount fs p = 0 := by
      unfold popCount
      rw [List.length_eq_zero_iff, List.filter_eq_nil_iff]
      intro x hx hc
      apply hm
      simp only [Bool.and_eq_true, decide_eq_true_eq] at hc
      exact List.mem_map.2 ⟨x, List.mem_filter.2 ⟨hx, by simpa using hc.1⟩, hc.2⟩
    simp [List.mem_dedup, hm, h0]

/-- A push appends to the active threads' queue, unless the queue is bound (R71, R79). -/
theorem queue_pushQ (i g : Nat) (act : Word64) (q : Nat) (v : Nat → Word32) (u : State) (p k : Nat) (hk : k < 64)
    (hp : p < 31) :
    ((pushQ i g act q v u).slot i g).queue p k = (u.slot i g).queue p k ++
      (if q = p ∧ u.boundOut i g p = false ∧ act.getLsbD k = true then [.present (v k)] else []) := by
  unfold pushQ
  split
  · rename_i h; subst h
    have : ¬(31 = p) := by omega
    simp [this]
  · split
    · rename_i hb
      simp only [State.slot, State.core_updCore, if_true, Core.slot, Core.pushWide_slots]
      by_cases h : q = p
      · subst h; simp [hb]
      · simp [h]
    · rename_i hb
      rw [State.slot_updSlot, if_pos ⟨rfl, rfl⟩, Slot.queue_mapQueue _ _ _ _ _ _ hk]
      by_cases h : q = p
      · subst h
        simp only [hb, true_and]
        split <;> simp_all
      · have : ¬ p = q := fun x => h x.symm
        simp [h, this]

/-! ### Issue -/

/-- A command whose word its group issues finds the group running, so no other slot's trap has halted it. -/
theorem haltedBeside_of_enter {g : Gid} {w : Word64} {s u : State} (he : enter g w s = .ok u) :
    s.haltedBeside (gi g) g.g = false := by
  have hn : s.hasNext (gi g) g.g = true := by
    by_contra h
    rw [Bool.not_eq_true] at h
    simp [enter, h] at he
  have hr : (s.slot (gi g) g.g).state = .running := by
    simp only [State.hasNext, Bool.and_eq_true, beq_iff_eq] at hn
    exact hn.1.1.2
  simp [State.haltedBeside, hr]

/-- The trap conditions of a halted group matter only to a halted group. -/
theorem withTraps_enter {g : Gid} {w : Word64} {s u : State} (he : enter g w s = .ok u) (body : State → Out) :
    withTraps g body s = body s := by
  simp [withTraps, haltedBeside_of_enter he]

/-- Structures with no wrong bit read without an error. -/
theorem readInner_nil {i : Nat} {s : State} (h : (s.core i).inner = []) (ks : List Inner) :
    readInner i ks s = (false, s) := by
  unfold readInner
  induction ks with
  | nil => rfl
  | cons k ks ih => simpa [h] using ih

section
variable {g : Gid} {w : Word64} {legal : State → Bool} {fs : List (BitVec 7)} {fl : List Bool}
  {srcAct act : Slot → Word64} {push : Option Nat} {body : (Nat → Nat → Word32) → State → State} {s u : State}
  {busy : State → Bool}

/-- An instruction that reaches its pipe commits its effect. -/
theorem issue_next
    (he : enter g w s = .ok u) (hl : legal u = true) (hb : bindOk u (gi g) g.g fs push = true)
    (hf : u.fenced (gi g) g.g = false) (hi : (u.core (gi g)).inner = []) (hy : busy u = false)
    (hr : readySrcs u (gi g) g.g (srcAct (u.slot (gi g) g.g)) fs = .ok)
    (hp : ∀ q, push = some q → pushStalls u (gi g) g.g (act (u.slot (gi g) g.g)) fs q = false) :
    issue g w legal fs fl srcAct act push body s busy =
      .next (commit g (body
        (fun n t => srcVal u (gi g) g.g (fl.getD n false) (fs.getD n unusedSrc) ((positions [] fs).getD n 0) t)
        (popSrcs (gi g) g.g (srcAct (u.slot (gi g) g.g)) fs u))) := by
  unfold issue
  rw [withTraps_enter he]
  cases push with
  | none => simp [he, hl, hb, hf, hy, hr, readInner_nil hi]
  | some q => simp [he, hl, hb, hf, hy, hr, readInner_nil hi, hp q rfl]

/-- An illegal form traps, held back or not (R96-R104, R114, R139). -/
theorem issue_illegal (he : enter g w s = .ok u) (hl : (legal u && bindOk u (gi g) g.g fs push) = false) :
    issue g w legal fs fl srcAct act push body s busy =
      .next (trap (gi g) g.g 0 .illegal (u.slot (gi g) g.g).pc u) := by
  unfold issue
  rw [withTraps_enter he]
  simp only [he, hl]; rfl

/-- A source queue with no entry traps, held back or not (R73, R139). -/
theorem issue_empty {k : Nat} (he : enter g w s = .ok u) (hl : legal u = true)
    (hb : bindOk u (gi g) g.g fs push = true)
    (hr : readySrcs u (gi g) g.g (srcAct (u.slot (gi g) g.g)) fs = .empty k) :
    issue g w legal fs fl srcAct act push body s busy =
      .next (trap (gi g) g.g k .queueEmpty (u.slot (gi g) g.g).pc u) := by
  unfold issue
  rw [withTraps_enter he]
  simp only [he, hl, hb, Bool.and_true, Bool.not_true, Bool.false_eq_true, if_false, hr]

/-- An instruction whose entries have not come, or that a fence or its pipe holds back, waits (R73, R86). -/
theorem issue_waits (he : enter g w s = .ok u) (hl : legal u = true) (hb : bindOk u (gi g) g.g fs push = true)
    (hr : readySrcs u (gi g) g.g (srcAct (u.slot (gi g) g.g)) fs = .stall ∨
      readySrcs u (gi g) g.g (srcAct (u.slot (gi g) g.g)) fs = .ok ∧
        (u.fenced (gi g) g.g = true ∨ busy u = true ∨
          ∃ q, push = some q ∧ pushStalls u (gi g) g.g (act (u.slot (gi g) g.g)) fs q = true)) :
    issue g w legal fs fl srcAct act push body s busy = .next u := by
  unfold issue
  rw [withTraps_enter he]
  obtain hr | ⟨hr, hf | hy | ⟨q, rfl, hq⟩⟩ := hr
  · simp only [he, hl, hb, Bool.and_true, Bool.not_true, Bool.false_eq_true, if_false, hr]
  · simp [he, hl, hb, hr, hf]
  · simp [he, hl, hb, hr, hy]
  · simp [he, hl, hb, hr, hq]

end

/-! ### The commit -/

/-- The commit but for the PC capture. -/
def commitBody (g : Gid) (next : BitVec 40) (rp : Nat) (k : Core → Nat) (n : Core → Bool) (m : State) : State :=
  updCore (gi g) (fun c => { c with rp := rp, stopCount := k c, stopNow := n c })
    ((updSlot (gi g) g.g (fun x => { x with pc := next }) m).count (Reg.CORE_CNT_ISSUE g.s g.c) 1)

/-- The commit is its body, after which the counted slot's K-th instruction has its PC captured (R410). -/
theorem commitTo_cases (g : Gid) (next : BitVec 40) (m : State) :
    ∃ rp k n v, commitTo g next m = commitBody g next rp k n m ∨
      commitTo g next m = (commitBody g next rp k n m).setPair (Reg.CORE_STOP_PC_LO g.s g.c) v := by
  unfold commitTo
  dsimp only
  exact ⟨_, _, _, _, (ite_eq_or_eq _ _ _).symm⟩

theorem slot_commitBody (g : Gid) (next : BitVec 40) (rp : Nat) (k : Core → Nat) (n : Core → Bool) (m : State) (j h : Nat) :
    (commitBody g next rp k n m).slot j h =
      if j = gi g ∧ h = g.g.val then { m.slot (gi g) g.g with pc := next } else m.slot j h := by
  have e := State.slot_updSlot m (gi g) j g.g h (fun x => { x with pc := next })
  rw [← e]
  simp only [State.slot, commitBody, State.core_updCore, State.count_core]
  split
  · subst_vars; rfl
  · rfl

theorem core_commitBody (g : Gid) (next : BitVec 40) (rp : Nat) (k : Core → Nat) (n : Core → Bool) (m : State) (j : Nat) :
    (commitBody g next rp k n m).core j = if j = gi g then
        { (m.core (gi g)).setSlot g.g { m.slot (gi g) g.g with pc := next } with
          rp := rp, stopCount := k ((m.core (gi g)).setSlot g.g { m.slot (gi g) g.g with pc := next }),
          stopNow := n ((m.core (gi g)).setSlot g.g { m.slot (gi g) g.g with pc := next }) }
      else m.core j := by
  have e : ∀ f j, (updSlot (gi g) g.g f m).core j =
      if j = gi g then (m.core (gi g)).setSlot g.g (f (m.slot (gi g) g.g)) else m.core j :=
    fun f j => State.core_setCore ..
  simp only [commitBody, State.core_updCore, State.count_core, e]
  by_cases h : j = gi g
  · simp only [h, if_true]
  · simp only [h, if_false]

theorem slot_setPair (s : State) (a v j h : Nat) : (s.setPair a v).slot j h = s.slot j h := by
  unfold State.slot; rw [State.setPair_core]

/-- The commit moves the program counter of its slot and nothing else of any slot. -/
theorem slot_commitTo (g : Gid) (next : BitVec 40) (m : State) (j h : Nat) :
    (commitTo g next m).slot j h =
      if j = gi g ∧ h = g.g.val then { m.slot (gi g) g.g with pc := next } else m.slot j h := by
  obtain ⟨rp, k, n, v, e | e⟩ := commitTo_cases g next m
  · rw [e, slot_commitBody]
  · rw [e, slot_setPair, slot_commitBody]

theorem core_commitTo_ne (g : Gid) (next : BitVec 40) (m : State) {j : Nat} (hj : j ≠ gi g) :
    (commitTo g next m).core j = m.core j := by
  obtain ⟨rp, k, n, v, e | e⟩ := commitTo_cases g next m
  · rw [e, core_commitBody, if_neg hj]
  · rw [e, State.setPair_core, core_commitBody, if_neg hj]

theorem core_commitTo_same (g : Gid) (next : BitVec 40) (m : State) :
    (commitTo g next m).core (gi g) = { m.core (gi g) with
      slots := ((commitTo g next m).core (gi g)).slots, rp := ((commitTo g next m).core (gi g)).rp,
      stopCount := ((commitTo g next m).core (gi g)).stopCount,
      stopNow := ((commitTo g next m).core (gi g)).stopNow } := by
  obtain ⟨rp, k, n, v, e | e⟩ := commitTo_cases g next m
  · rw [e, core_commitBody, if_pos rfl]; rfl
  · rw [e, State.setPair_core, core_commitBody, if_pos rfl]; rfl

/-- The commit counts the instruction once. -/
theorem live_commitTo (g : Gid) (next : BitVec 40) (m : State) (a : Nat) :
    (commitTo g next m).liveAt a = if a = Reg.CORE_CNT_ISSUE g.s g.c then min (m.liveAt a + 1) 0xFFFFFFFF
      else m.liveAt a := by
  have body : ∀ rp k n, (commitBody g next rp k n m).liveAt a = if a = Reg.CORE_CNT_ISSUE g.s g.c then
      min (m.liveAt a + 1) 0xFFFFFFFF else m.liveAt a := by
    intro rp k n
    simp only [commitBody, updCore_liveAt, State.liveAt_count, updSlot_liveAt]
    split
    · subst_vars; rfl
    · rfl
  obtain ⟨rp, k, n, v, e | e⟩ := commitTo_cases g next m
  · rw [e, body]
  · rw [e, State.setPair_liveAt, body]

/-- The commit writes no register but the PC captured at a stop (R410). -/
theorem reg_commitTo (g : Gid) (next : BitVec 40) (m : State) {a : Nat}
    (h1 : a ≠ Reg.CORE_STOP_PC_LO g.s g.c) (h2 : a ≠ Reg.CORE_STOP_PC_LO g.s g.c + 4) :
    (commitTo g next m).reg a = m.reg a := by
  obtain ⟨rp, k, n, v, e | e⟩ := commitTo_cases g next m
  · rw [e]; rfl
  · rw [e]
    unfold State.setPair
    rw [State.reg_setReg_ne _ _ h2, State.reg_setReg_ne _ _ h1]; rfl

theorem state_commitBody (g : Gid) (next : BitVec 40) (rp : Nat) (k : Core → Nat) (n : Core → Bool) (m : State) :
    commitBody g next rp k n m =
      { m with live := (commitBody g next rp k n m).live, cores := (commitBody g next rp k n m).cores } := rfl

theorem state_setPair (s : State) (a v : Nat) : s.setPair a v = { s with regs := (s.setPair a v).regs } := rfl

theorem state_commitTo (g : Gid) (next : BitVec 40) (m : State) :
    commitTo g next m = { m with regs := (commitTo g next m).regs, live := (commitTo g next m).live,
                                 cores := (commitTo g next m).cores } := by
  obtain ⟨rp, k, n, v, e | e⟩ := commitTo_cases g next m
  · rw [e]; exact state_commitBody ..
  · rw [e, state_setPair, state_commitBody]

end Sys2Proof.Machine
end

