-- ==== Sys2Proof/Laws/Done.lean ====
section
/-! SUPPORT. From the shared operations of an issued instruction to the effects the statements name. -/

namespace Sys2Proof.Machine

open Sys2Proof

/-- From u to m only slot g of its core changes, and there the program counter does not; of the core also the tensor
and inbound queues may. -/
structure MovesSlot (i g : Nat) (u m : State) : Prop where
  state : m = { u with cores := m.cores }
  core : ∀ j, j ≠ i → m.core j = u.core j
  body : (u.core i).sameBody (m.core i)
  other : ∀ h, h ≠ g → m.slot i h = u.slot i h
  pc : (m.slot i g).pc = (u.slot i g).pc

theorem MovesQueues.toSlot {i g : Nat} {u m : State} (h : MovesQueues i g u m) : MovesSlot i g u m :=
  ⟨h.state, h.core, h.body, h.other, by rw [h.slot]⟩

/-- The predicates stand while queues move. -/
theorem MovesQueues.guard {i g : Nat} {u t : State} (h : MovesQueues i g u t) (p : BitVec 3) (n : BitVec 1) :
    (t.slot i g).guard p n = (u.slot i g).guard p n := by
  have e : (t.slot i g).pred = (u.slot i g).pred := by rw [h.slot]
  unfold Slot.guard Slot.predMask; rw [e]

theorem MovesSlot.trans {i g : Nat} {u v t : State} (h : MovesSlot i g u v) (k : MovesSlot i g v t) :
    MovesSlot i g u t where
  state := by rw [k.state, h.state]
  core j hj := (k.core j hj).trans (h.core j hj)
  body := Core.sameBody_trans h.body k.body
  other x hx := (k.other x hx).trans (h.other x hx)
  pc := k.pc.trans h.pc

theorem movesSlot_updSlot {i g : Nat} {u : State} {f : Slot → Slot} (hf : (f (u.slot i g)).pc = (u.slot i g).pc) :
    MovesSlot i g u (updSlot i g f u) where
  state := rfl
  core j hj := by
    show (u.setCore i _).core j = _
    rw [State.core_setCore, if_neg hj]
  body := by
    show Core.sameBody _ ((u.setCore i _).core i)
    rw [State.core_setCore, if_pos rfl]; rfl
  other h hh := by rw [State.slot_updSlot, if_neg (by simp [hh])]
  pc := by rw [State.slot_updSlot, if_pos ⟨rfl, rfl⟩]; exact hf

/-- A commit after a change of the slot alone is the issue of one instruction. -/
theorem issued_commitTo {g : Gid} {next : BitVec 40} {u m : State} (h : MovesSlot (gi g) g.g u m) :
    Issued g next [] u (commitTo g next m) := by
  have hr : m.regs = u.regs := by rw [h.state]
  have hl : m.live = u.live := by rw [h.state]
  refine ⟨?_, ?_, ?_, ?_, ?_, ?_, ?_, ?_⟩
  · rw [slot_commitTo, if_pos ⟨rfl, rfl⟩]
  · intro j k hn
    rw [slot_commitTo, if_neg hn]
    by_cases hj : j = gi g
    · subst hj; exact h.other k (fun e => hn ⟨rfl, e⟩)
    · unfold State.slot; rw [h.core j hj]
  · intro j hj
    rw [core_commitTo_ne _ _ _ hj, h.core j hj]
  · rw [core_commitTo_same, h.body]
  · rw [live_commitTo, if_pos rfl]; unfold State.liveAt; rw [hl]
  · intro a ha _
    rw [live_commitTo, if_neg ha]; unfold State.liveAt; rw [hl]
  · intro a h1 h2
    rw [reg_commitTo _ _ _ h1 h2]; unfold State.reg; rw [hr]
  · rw [state_commitTo, h.state]

theorem issued_commit {g : Gid} {u m : State} (h : MovesSlot (gi g) g.g u m) :
    Issued g ((u.slot (gi g) g.g).pc + 8) [] u (commit g m) := by
  unfold commit; rw [h.pc]; exact issued_commitTo h

theorem core_commitTo_tns (g : Gid) (next : BitVec 40) (m : State) :
    ((commitTo g next m).core (gi g)).tns = (m.core (gi g)).tns := by rw [core_commitTo_same]

theorem core_commitTo_qi (g : Gid) (next : BitVec 40) (m : State) :
    ((commitTo g next m).core (gi g)).qi = (m.core (gi g)).qi := by rw [core_commitTo_same]

/-- The queues after pops, a push, and anything that leaves queues alone. -/
theorem queuesMoved_commit {g : Gid} {fs : List (BitVec 7)} {src act : Word64} {q : Nat} {v : Nat → Word32}
    {u : State} :
    QueuesMoved g fs src act (some q) v u (commit g (pushQ (gi g) g.g act q v (popSrcs (gi g) g.g src fs u))) := by
  refine ⟨?_, ?_⟩
  · intro p k hp hk
    have hm := movesQueues_popSrcs (gi g) g.g src fs u
    show ((commitTo g _ _).slot (gi g) g.g).queue p k = _
    rw [slot_commitTo, if_pos ⟨rfl, rfl⟩]
    show ((pushQ (gi g) g.g act q v (popSrcs (gi g) g.g src fs u)).slot (gi g) g.g).queue p k = _
    rw [queue_pushQ _ _ _ _ _ _ _ _ hk hp, queue_popSrcs _ _ _ _ _ _ _ hk hp, hm.boundOut]
    simp only [Option.some.injEq]
  · exact ⟨core_commitTo_tns .., core_commitTo_qi ..⟩

/-- The queues after pops and a change of the slot that leaves queues alone. -/
theorem queuesMoved_slot {g : Gid} {fs : List (BitVec 7)} {src act : Word64} {v : Nat → Word32} {u : State}
    {f : Slot → Slot} (hf : ∀ x, (f x).queues = x.queues) :
    QueuesMoved g fs src act none v u (commit g (updSlot (gi g) g.g f (popSrcs (gi g) g.g src fs u))) := by
  refine ⟨?_, ?_⟩
  · intro p k hp hk
    show ((commitTo g _ _).slot (gi g) g.g).queue p k = _
    rw [slot_commitTo, if_pos ⟨rfl, rfl⟩]
    show Slot.queue (State.slot (updSlot _ _ _ _) (gi g) g.g) p k = _
    rw [State.slot_updSlot, if_pos ⟨rfl, rfl⟩, ← queue_popSrcs _ _ _ _ _ _ _ hk hp]
    unfold Slot.queue; rw [hf]; simp
  · have e : ∀ w : State, (updSlot (gi g) g.g f w).core (gi g) = (w.core (gi g)).setSlot g.g (f (w.slot (gi g) g.g)) := by
      intro w
      show (State.setCore w _ _).core (gi g) = _
      rw [State.core_setCore, if_pos rfl]
    refine ⟨?_, ?_⟩
    · show ((commitTo g _ _).core (gi g)).tns = _
      rw [core_commitTo_tns, e]; rfl
    · show ((commitTo g _ _).core (gi g)).qi = _
      rw [core_commitTo_qi, e]; rfl

theorem Slot.sreg_setSreg (x : Slot) (n m : Nat) (v : Word64) :
    (x.setSreg n v).sreg m = if m = n ∧ m ≠ 0 then v else x.sreg m := by
  unfold Slot.setSreg
  by_cases hn : n = 0
  · subst hn; simp
  · rw [if_neg hn]
    unfold Slot.sreg
    by_cases hm : m = 0
    · simp [hm]
    · simp only [hm, if_false, sget_sset, ne_eq, not_false_eq_true, and_true]

theorem Slot.predMask_setPred (x : Slot) (n m : Nat) (v : Word64) :
    (x.setPred n v).predMask m = if m = n ∧ m ≠ 0 then v else x.predMask m := by
  unfold Slot.setPred
  by_cases hn : n = 0
  · subst hn; simp
  · rw [if_neg hn]
    unfold Slot.predMask
    by_cases hm : m = 0
    · simp [hm]
    · simp only [hm, if_false, sget_sset, ne_eq, not_false_eq_true, and_true]

theorem Slot.setSreg_fields (x : Slot) (n : Nat) (v : Word64) :
    x.setSreg n v = { x with scal := (x.setSreg n v).scal } := by unfold Slot.setSreg; split <;> rfl

theorem Slot.setPred_fields (x : Slot) (n : Nat) (v : Word64) :
    x.setPred n v = { x with pred := (x.setPred n v).pred } := by unfold Slot.setPred; split <;> rfl

/-- The slot after pops, a push and the commit: its queues and its program counter alone have changed. -/
theorem slot_push_commit (g : Gid) (fs : List (BitVec 7)) (src act : Word64) (q : Nat) (v : Nat → Word32) (u : State) :
    (commit g (pushQ (gi g) g.g act q v (popSrcs (gi g) g.g src fs u))).slot (gi g) g.g =
      { u.slot (gi g) g.g with
        pc := ((commit g (pushQ (gi g) g.g act q v (popSrcs (gi g) g.g src fs u))).slot (gi g) g.g).pc,
        queues := ((commit g (pushQ (gi g) g.g act q v (popSrcs (gi g) g.g src fs u))).slot (gi g) g.g).queues } := by
  have h := ((movesQueues_popSrcs (gi g) g.g src fs u).trans (movesQueues_pushQ (gi g) g.g act q v _)).slot
  unfold commit
  rw [slot_commitTo, if_pos ⟨rfl, rfl⟩, h]

/-- A row that pushes completes whenever its arm is an issue of its form. -/
theorem vrow_complete {r : VRow} {g : Gid} {f : RegForm} {s u : State} (hr : r.Reaches g f s u)
    (he : exec (r.make g f) s = vecQ r.op r.n r.types r.fl g f (r.res f) s) :
    ∃ t, exec (r.make g f) s = .next t ∧ r.Done g f u t := by
  obtain ⟨h1, h2, h3, h4, h5, h6, h7⟩ := hr
  refine ⟨_, he.trans (issue_next h1 h2 h3 h4 h5 rfl h6 h7), ?_⟩
  have hm := movesQueues_popSrcs (gi g) g.g (u.active g f) (usedSrcs r.n f) u
  have ha : State.active (popSrcs (gi g) g.g (u.active g f) (usedSrcs r.n f) u) g f = u.active g f := hm.guard ..
  change r.Done g f u (commit g (pushQ (gi g) g.g
    (State.active (popSrcs (gi g) g.g (u.active g f) (usedSrcs r.n f) u) g f) f.dst.toNat _
      (popSrcs (gi g) g.g (u.active g f) (usedSrcs r.n f) u)))
  rw [ha]
  exact ⟨issued_commit (hm.trans (movesQueues_pushQ ..)).toSlot, queuesMoved_commit, slot_push_commit ..⟩

end Sys2Proof.Machine
end

