-- ==== Sys2Proof/Laws/Fields.lean ====
section
/-! SUPPORT. What register fields, flags and bits read after a write of a field, a flag or a bit. -/

namespace Sys2Proof.Machine

open Sys2Proof

/-- A number as what lies above a field, the field, and what lies below it. -/
theorem split_field (v lo n : Nat) : v = 2 ^ (lo + n) * (v / 2 ^ (lo + n)) + (2 ^ lo * bitsOf v lo n + v % 2 ^ lo) := by
  unfold bitsOf
  rw [Nat.shiftRight_eq_div_pow]
  have h1 := Nat.div_add_mod v (2 ^ lo)
  have h2 := Nat.div_add_mod (v / 2 ^ lo) (2 ^ n)
  rw [Nat.div_div_eq_div_mul, ← pow_add] at h2
  rw [pow_add]
  calc v = 2 ^ lo * (v / 2 ^ lo) + v % 2 ^ lo := h1.symm
    _ = 2 ^ lo * (2 ^ n * (v / 2 ^ (lo + n)) + v / 2 ^ lo % 2 ^ n) + v % 2 ^ lo := by rw [h2]
    _ = _ := by rw [pow_add]; ring

/-- A field write, as the parts above, in and below the field. -/
theorem putBits_eq (v lo n x : Nat) :
    putBits v lo n x = 2 ^ (lo + n) * (v / 2 ^ (lo + n)) + (2 ^ lo * (x % 2 ^ n) + v % 2 ^ lo) := by
  have h := split_field v lo n
  unfold putBits
  rw [Nat.shiftLeft_eq, Nat.shiftLeft_eq]
  have e1 : bitsOf v lo n * 2 ^ lo = 2 ^ lo * bitsOf v lo n := Nat.mul_comm ..
  have e2 : x % 2 ^ n * 2 ^ lo = 2 ^ lo * (x % 2 ^ n) := Nat.mul_comm ..
  rw [e1, e2]
  generalize 2 ^ (lo + n) * (v / 2 ^ (lo + n)) = A at *
  generalize 2 ^ lo * bitsOf v lo n = B at *
  omega

/-- Bit by bit, a field write takes the new bits inside the field and the old ones elsewhere. -/
theorem putBits_testBit (v lo n x i : Nat) :
    (putBits v lo n x).testBit i = if lo ≤ i ∧ i < lo + n then x.testBit (i - lo) else v.testBit i := by
  have hlow : v % 2 ^ lo < 2 ^ lo := Nat.mod_lt _ (by positivity)
  have hmid : x % 2 ^ n < 2 ^ n := Nat.mod_lt _ (by positivity)
  have hin : 2 ^ lo * (x % 2 ^ n) + v % 2 ^ lo < 2 ^ (lo + n) := by
    rw [pow_add]
    calc 2 ^ lo * (x % 2 ^ n) + v % 2 ^ lo < 2 ^ lo * (x % 2 ^ n + 1) := by rw [Nat.mul_add]; omega
      _ ≤ 2 ^ lo * 2 ^ n := Nat.mul_le_mul_left _ hmid
  rw [putBits_eq, Nat.testBit_two_pow_mul_add _ hin]
  by_cases h1 : i < lo + n
  · rw [if_pos h1, Nat.testBit_two_pow_mul_add _ hlow]
    by_cases h2 : i < lo
    · rw [if_pos h2, if_neg (by omega), Nat.testBit_mod_two_pow]; simp [h2]
    · rw [if_neg h2, if_pos (by omega), Nat.testBit_mod_two_pow]; 
      have : i - lo < n := by omega
      simp [this]
  · rw [if_neg h1, if_neg (by omega), Nat.testBit_div_two_pow]; congr 1; omega

/-- Bit by bit, a field read shifts the field down. -/
theorem bitsOf_testBit (v lo n i : Nat) : (bitsOf v lo n).testBit i = (decide (i < n) && v.testBit (lo + i)) := by
  unfold bitsOf; rw [Nat.testBit_mod_two_pow, Nat.testBit_shiftRight]

/-- Bit by bit, what a named field write leaves. -/
theorem Fld.put_getLsbD (f : Fld) (w : Word32) (x i : Nat) (hi : i < 32) :
    (f.put w x).getLsbD i = if f.lo ≤ i ∧ i < f.lo + f.width then x.testBit (i - f.lo) else w.getLsbD i := by
  unfold Fld.put
  rw [BitVec.getLsbD_ofNat, putBits_testBit]; simp [hi, BitVec.testBit_toNat]

/-- A field reads what was written to it. -/
theorem Fld.get_put (f : Fld) (w : Word32) (x : Nat) (h : f.lo + f.width ≤ 32) : f.get (f.put w x) = x % 2 ^ f.width := by
  apply Nat.eq_of_testBit_eq
  intro i
  unfold Fld.get
  rw [bitsOf_testBit, BitVec.testBit_toNat, Nat.testBit_mod_two_pow]
  by_cases hi : i < f.width
  · rw [Fld.put_getLsbD _ _ _ _ (by omega)]; simp [hi]
  · simp [hi]

/-- A field depends on its own bits alone. -/
theorem Fld.get_congr (f : Fld) (v w : Word32) (h : ∀ i, f.lo ≤ i → i < f.lo + f.width → v.getLsbD i = w.getLsbD i) :
    f.get v = f.get w := by
  apply Nat.eq_of_testBit_eq
  intro i
  unfold Fld.get
  rw [bitsOf_testBit, bitsOf_testBit, BitVec.testBit_toNat, BitVec.testBit_toNat]
  by_cases hi : i < f.width
  · rw [h _ (by omega) (by omega)]
  · simp [hi]

/-- Another field keeps its value. -/
theorem Fld.get_put_ne (f g : Fld) (w : Word32) (x : Nat) (h : g.lo + g.width ≤ 32)
    (d : f.lo + f.width ≤ g.lo ∨ g.lo + g.width ≤ f.lo) : g.get (f.put w x) = g.get w := by
  apply Fld.get_congr
  intro i h1 h2
  rw [Fld.put_getLsbD _ _ _ _ (by omega), if_neg (by omega)]

/-- Bit by bit, setting one bit. -/
theorem getLsbD_or_bit (w : Word32) (n i : Nat) (h : n < 32) :
    (w ||| BitVec.ofNat 32 (2 ^ n)).getLsbD i = (w.getLsbD i || decide (i = n)) := by
  rw [BitVec.getLsbD_or, BitVec.getLsbD_ofNat, Nat.testBit_two_pow]
  by_cases h1 : i = n
  · subst h1; simp [h]
  · have : ¬ n = i := fun e => h1 e.symm
    simp [h1, this]

/-- Bit by bit, clearing one bit. -/
theorem getLsbD_and_bit (w : Word32) (n i : Nat) (h : n < 32) :
    (w &&& ~~~BitVec.ofNat 32 (2 ^ n)).getLsbD i = (w.getLsbD i && decide (i ≠ n)) := by
  rw [BitVec.getLsbD_and, BitVec.getLsbD_not, BitVec.getLsbD_ofNat, Nat.testBit_two_pow]
  by_cases h1 : i = n
  · subst h1; simp [h]
  · have : ¬ n = i := fun e => h1 e.symm
    by_cases h2 : i < 32
    · simp [h1, h2, this]
    · simp [h1, this, BitVec.getLsbD_of_ge w i (by omega)]

theorem State.reg_setBit (s : State) (a i b : Nat) :
    (s.setBit a i).reg b = if b = a then s.reg a ||| BitVec.ofNat 32 (2 ^ i) else s.reg b := State.reg_setReg ..
theorem State.reg_clrBit (s : State) (a i b : Nat) :
    (s.clrBit a i).reg b = if b = a then s.reg a &&& ~~~BitVec.ofNat 32 (2 ^ i) else s.reg b := State.reg_setReg ..
theorem State.reg_setFlag (s : State) (a b : Nat) (f : Fld) :
    (s.setFlag a f).reg b = if b = a then s.reg a ||| BitVec.ofNat 32 (2 ^ f.lo) else s.reg b := State.reg_setReg ..
theorem State.reg_clrFlag (s : State) (a b : Nat) (f : Fld) :
    (s.setFlag a f false).reg b = if b = a then s.reg a &&& ~~~BitVec.ofNat 32 (2 ^ f.lo) else s.reg b := State.reg_setReg ..
theorem State.reg_setFld (s : State) (a b : Nat) (f : Fld) (x : Nat) :
    (s.setFld a f x).reg b = if b = a then f.put (s.reg a) x else s.reg b := State.reg_setReg ..
theorem State.reg_bump (s : State) (a b : Nat) (f : Fld) (n : Nat) :
    (s.bump a f n).reg b = if b = a then f.put (s.reg a) (min (s.fld a f + n) (2 ^ f.width - 1)) else s.reg b := State.reg_setReg ..

theorem State.bit_setFlag (s : State) (a b i : Nat) (f : Fld) (h : f.lo < 32) :
    (s.setFlag a f).bit b i = (s.bit b i || decide (b = a ∧ i = f.lo)) := by
  unfold State.bit; rw [State.reg_setFlag]
  by_cases e : b = a
  · subst e; rw [if_pos rfl, getLsbD_or_bit _ _ _ h]; simp
  · simp [e]
theorem State.bit_clrFlag (s : State) (a b i : Nat) (f : Fld) (h : f.lo < 32) :
    (s.setFlag a f false).bit b i = (s.bit b i && !decide (b = a ∧ i = f.lo)) := by
  unfold State.bit; rw [State.reg_clrFlag]
  by_cases e : b = a
  · subst e; rw [if_pos rfl, getLsbD_and_bit _ _ _ h]; simp
  · simp [e]
theorem State.bit_setBit (s : State) (a b i n : Nat) (h : n < 32) :
    (s.setBit a n).bit b i = (s.bit b i || decide (b = a ∧ i = n)) := by
  unfold State.bit; rw [State.reg_setBit]
  by_cases e : b = a
  · subst e; rw [if_pos rfl, getLsbD_or_bit _ _ _ h]; simp
  · simp [e]
theorem State.bit_setFld (s : State) (a b i x : Nat) (f : Fld) (h : i < 32) :
    (s.setFld a f x).bit b i = if b = a ∧ f.lo ≤ i ∧ i < f.lo + f.width then x.testBit (i - f.lo) else s.bit b i := by
  unfold State.bit; rw [State.reg_setFld]
  by_cases e : b = a
  · subst e; rw [if_pos rfl, Fld.put_getLsbD _ _ _ _ h]; simp
  · simp [e]
/-- A flag is the bit its field starts at. -/
theorem State.flag_eq (s : State) (a : Nat) (f : Fld) : s.flag a f = s.bit a f.lo := rfl
theorem State.fld_setFld (s : State) (a x : Nat) (f : Fld) (h : f.lo + f.width ≤ 32) :
    (s.setFld a f x).fld a f = x % 2 ^ f.width := by
  unfold State.fld; rw [State.reg_setFld, if_pos rfl, Fld.get_put _ _ _ h]
theorem State.fld_setFld_ne (s : State) (a b x : Nat) (f g : Fld) (h : g.lo + g.width ≤ 32)
    (d : b ≠ a ∨ f.lo + f.width ≤ g.lo ∨ g.lo + g.width ≤ f.lo) : (s.setFld a f x).fld b g = s.fld b g := by
  unfold State.fld; rw [State.reg_setFld]
  by_cases e : b = a
  · subst e; rw [if_pos rfl, Fld.get_put_ne _ _ _ _ h (by tauto)]
  · simp [e]
theorem State.fld_setFlag_ne (s : State) (a b : Nat) (f g : Fld) (h : f.lo < 32)
    (d : b ≠ a ∨ f.lo < g.lo ∨ g.lo + g.width ≤ f.lo) : (s.setFlag a f).fld b g = s.fld b g := by
  unfold State.fld; rw [State.reg_setFlag]
  by_cases e : b = a
  · subst e; rw [if_pos rfl]
    apply Fld.get_congr
    intro i h1 h2
    rw [getLsbD_or_bit _ _ _ h]; simp; omega
  · simp [e]
end Sys2Proof.Machine
end

