-- ==== Sys2Proof/Laws/Memory.lean ====
section
/-! SUPPORT. Every operation on the stored bytes keeps memory canonical, and reset's memory is. The byte writes are in
Laws/State. -/

namespace Sys2Proof.Machine

open Sys2Proof

/-- The memory after reset lists nothing. -/
theorem reset_memWf : memWf State.reset.mem = true := by decide

/-- The two names of the canonical form agree. -/
theorem wf_eq_memWf (m : SMap Byte) : Memory.wf m = memWf m := rfl

/-- Zeroing a range keeps memory canonical. -/
theorem zeroRange_memWf (a n : Nat) {s : State} (h : memWf s.mem = true) : memWf (zeroRange a n s).mem = true :=
  swf_sdrop (fun x => decide (a ≤ x) && decide (x < a + n)) h

/-- Giving up the image leaves memory empty. -/
theorem noImage_mem (s : State) : (noImage s).mem = [] := rfl

end Sys2Proof.Machine
end

