-- ==== Sys2Proof/Laws/Write.lean ====
section
/-! SUPPORT. What an accepted write of a register does. -/

namespace Sys2Proof.Machine

open Sys2Proof

/-- With all byte enables a write replaces the whole word. -/
theorem merge_full (r : RegRow) (a : Nat) (v : Word32) (s : State) : mergeEnables r a 15 v s = v := by
  have h : beMask 15 = BitVec.allOnes 32 := by decide
  unfold mergeEnables
  simp only [h, BitVec.not_allOnes, BitVec.and_zero, BitVec.or_zero, BitVec.and_allOnes]

/-- An accepted whole write of a register of the map is its effect (R463). -/
theorem pathWrite_eq {p : Path} {a : Nat} {v : Word32} {s : State} {r : RegRow} (h : Accepts p a s)
    (hr : regRowAt a = some r) (h1 : a ≠ Reg.GCTL_RST) (h2 : a ≠ Reg.SVC_MB_CMD) :
    pathWrite p a v s = writeEffect r a v s := by
  obtain ⟨_, hp, hb, ha⟩ := h
  unfold pathWrite writeReg writePart
  rw [if_pos hp, if_neg (by simp [h1]), if_neg h2]
  have : ((!s.blockUp a && p != .svc) || s.autoHeld p a || 15 % 16 == 0) = false := by
    rw [ha]; rcases hb with hb | hb <;> simp [hb]
  rw [if_neg (by rw [this]; simp)]
  simp only [hr, merge_full]
  simp

/-- A package that is up takes the command. -/
theorem ifUp_eq {s : State} (h : s.down = false) (o : Out) : ifUp s o = o := by simp [ifUp, h]

/-- The effect of a write of a register with an effect of its own that feeds no vector. -/
theorem writeEffect_of {r : RegRow} {a : Nat} {v : Word32} {s : State} {n : Nat} {f : List Nat → Word32 → State → State} 
    (hf : regEffects.find? (fun f => f.1 == r.base) = some (n, f)) (hv : feedVec r.base (rowIdx r.strides (a - r.base)) = none) :
    writeEffect r a v s = f (rowIdx r.strides (a - r.base)) v s := by
  unfold writeEffect; simp only [hv, hf]

/-- The effect of a write of a register without an effect of its own that feeds no vector. -/
theorem writeEffect_plain {r : RegRow} {a : Nat} {v : Word32} {s : State} 
    (hf : regEffects.find? (fun f => f.1 == r.base) = none) (hv : feedVec r.base (rowIdx r.strides (a - r.base)) = none) :
    writeEffect r a v s = writePlain r a v s := by
  unfold writeEffect; simp only [hv, hf]
end Sys2Proof.Machine
end

