-- ==== Sys2Proof/Tests/Slice0.lean ====
section
/-! SUPPORT. The model's own tests: ill-formed commands that WellFormed refuses, values of the spec's own examples, and
for each statement the states and operands that meet the hypotheses of its clauses. -/

namespace Sys2Proof.Tests

open Sys2Proof Sys2Proof.Machine

-- One theorem at a time: kernel evaluations that wait for each other would each hold a thread.
set_option Elab.async false

/-! ### Ill-formed commands -/

theorem test_wf_upset_word : (Upsets.wf { sram := [(2 ^ 37, 1)] }) = false := by decide
theorem test_wf_upset_bits : (Upsets.wf { sram := [(0, 0)] }) = false := by decide
theorem test_wf_upset_line : (Upsets.wf { dram := [(2 ^ 34, [(0, 1)])] }) = false := by decide
theorem test_wf_upset_no_symbol : (Upsets.wf { dram := [(0, [])] }) = false := by decide
theorem test_wf_upset_symbol : (Upsets.wf { dram := [(0, [(68, 1)])] }) = false := by decide
theorem test_wf_upset_value : (Upsets.wf { dram := [(0, [(67, 0)])] }) = false := by decide
theorem test_wf_upset : (Upsets.wf { sram := [(2 ^ 37 - 1, 1)], dram := [(2 ^ 34 - 1, [(67, 1)])] }) = true := by decide
theorem test_wf_upset_l1 : (Upsets.wf { l1 := [(384, 0, 1)] }) = false ∧ (Upsets.wf { l1 := [(0, 2 ^ 37, 1)] }) = false ∧
    (Upsets.wf { l1 := [(0, 0, 0)] }) = false ∧ (Upsets.wf { l1 := [(383, 0, 1)] }) = true := by decide

theorem test_wf_upset_icache : (Upsets.wf { icache := [(2 ^ 37, 1)] }) = false ∧ (Upsets.wf { icache := [(0, 0)] }) = false ∧
    (Upsets.wf { icache := [(2 ^ 37 - 1, 1)] }) = true := by decide
theorem test_wf_upset_core : (Upsets.wf { core := [(384, .queues, 1)] }) = false ∧
    (Upsets.wf { core := [(0, .acc, 0)] }) = false ∧ (Upsets.wf { core := [(383, .tiles, 1)] }) = true := by decide
theorem test_wf_upset_buf : (Upsets.wf { buf := [(24, 0, 1)] }) = false ∧ (Upsets.wf { buf := [(0, 32, 1)] }) = false ∧
    (Upsets.wf { buf := [(0, 0, 0)] }) = false ∧ (Upsets.wf { buf := [(23, 31, 1)] }) = true := by decide

/-- A frame as a link sends it, of nothing. -/
def nullFrame : Frame := { slots := List.replicate 16 none, seq := 0, ackseq := 0, credit := [0, 0, 0, 0] }

theorem test_wf_frame : frameWf nullFrame = true := by decide
theorem test_wf_frame_slots : frameWf { nullFrame with slots := [] } = false := by decide
theorem test_wf_frame_seq : frameWf { nullFrame with seq := 2 ^ 16 } = false := by decide
theorem test_wf_frame_ackseq : frameWf { nullFrame with ackseq := 2 ^ 16 } = false := by decide
theorem test_wf_frame_credits : frameWf { nullFrame with credit := [0, 0, 0] } = false := by decide
theorem test_wf_frame_credit : frameWf { nullFrame with credit := [0, 0, 0, 2 ^ 16] } = false := by decide
theorem test_wf_die_read : DieRead.wf 63 ⟨0, [1, 2, 3, 4]⟩ = true ∧ DieRead.wf 63 ⟨0, [1, 2, 3, 4, 5]⟩ = false := by decide
theorem test_wf_kat : Kat.wf { coreFails := [384] } = false ∧ Kat.wf { stackFails := [24] } = false ∧
    Kat.wf { portFails := [8] } = false ∧ Kat.wf { hbmFails := [16] } = false := by decide
theorem test_wf_bist : Bist.wf { cores := [384] } = false ∧ Bist.wf { bonds := [(24, 0, 0, 0)] } = false ∧
    Bist.wf { bonds := [(0, 16, 0, 0)] } = false := by decide
theorem test_wf_smb : SmbXfer.wf { bytes := [1, 2, 3, 4, 5] } = false ∧ SmbXfer.wf { count := 256 } = false := by decide
theorem test_wf_window_read : (Instr.hostWindowRead 0 0 {}).wf = false ∧
    (Instr.hostWindowRead 0x3FFFFFFF 2 {}).wf = false ∧ (Instr.hostWindowRead 0x3FFFFFFF 1 {}).wf = true := by decide
theorem test_wf_window_write : (Instr.hostWindowWrite 0 []).wf = false ∧
    (Instr.hostWindowWrite 0x3FFFFFFF [1, 2]).wf = false := by decide
theorem test_wf_register_write : (Instr.registerWrite .svc 0 []).wf = false ∧
    (Instr.registerWrite .svc 0x3FFFFFF [1, 2]).wf = false := by decide
theorem test_wf_thermal : (Instr.thermalSample 3 [⟨0, []⟩]).wf = false ∧
    (Instr.thermalSample 30 [⟨0, []⟩, ⟨0, []⟩]).wf = false ∧ (Instr.thermalSample 3 [⟨0, []⟩, ⟨0, []⟩]).wf = true := by decide
theorem test_wf_sensors : (Instr.regulatorSample 0 []).wf = false ∧ (Instr.shuntClamp ⟨0, 0⟩ []).wf = false := by decide
theorem test_wf_loopback : (Instr.loopbackDone 0 [(576, 0)]).wf = false ∧ (Instr.loopbackDone 0 [(0, 34)]).wf = false := by
  decide
theorem test_wf_mspi : (Instr.mspiWrite { op := 2, len := 0, off := 0, edges := 64 } [1, 2]).wf = false := by decide
theorem test_wf_undefined : (Instr.undefinedOpcode ⟨0, 0, 0⟩ (encReg 0 0x10 {})).wf = false ∧
    (Instr.undefinedOpcode ⟨0, 0, 0⟩ 0xE000000000000000).wf = true := by decide
theorem test_wf_upsets_of_read : (Instr.loadReturn ⟨0, 0⟩ 0 { sram := [(0, 0)] }).wf = false := by decide
theorem test_no_word_spells : decodeTableWord 64 0 = none := rfl

/-! ### States -/

/-- A package in READY. -/
def rdy : State :=
  let b : Boot := { State.reset.boot with
    resetting := none, coreIn := List.range 384, stackIn := List.range 24, trained := List.range 8, katDone := true,
    bistDone := true, postKat := true }
  { State.reset with boot := b, pcie := { up := true } }.setFld Reg.GCTL_BOOT F.GCTL_BOOT.STAGE 8

/-- Queues 0 to 2 with `n` entries in the threads of `ts`. -/
def qs (ts : List Nat) (n : Nat) : SMap (List QEntry) :=
  (List.range 3).flatMap fun q => ts.map fun t =>
    (64 * q + t, (List.range n).map fun j => QEntry.present (BitVec.ofNat 32 (0x9E3779B9 * (q + 3 * t + 7 * j + 1))))

/-- The threads of P1 below. -/
def some8 : List Nat := [0, 1, 2, 3, 8, 9, 10, 11]

/-- A running slot. -/
def slot0 : Slot := {
  state := .running, pc := 0x1080, queues := qs some8 2, sr := 0xACE1, seeded := true,
  scal := [(1, 0x123456789ABCDEF0), (2, 3), (3, BitVec.allOnes 64), (4, 0x40)], pred := [(1, 0xF0F), (2, 0)] }

/-- An instruction cache that holds the line of address `pc`, each word of it `w`. -/
def icOf (pc : Nat) (w : Word64) : ICache := {
  lines := [(8 * icSet pc + 3, some { tag := icTag pc, pinned := false, words := List.replicate 16 w })] }

/-- Slot g about to issue `w`, with another slot of its core running. -/
def about (g : Gid) (w : Word64) (x : Slot) (s : State) : State :=
  updCore (gi g) (fun c => (({ c with ic := icOf x.pc.toNat w }).setSlot g.g x).setSlot ((g.g.val + 1) % 8)
    { slot0 with pc := 0x4000 }) s

/-- Slot 3 of core 5 of stack 2, global core 37. -/
def g0 : Gid := ⟨2, 5, 3⟩

/-- The state after the fetch of `w`. -/
def ent (g : Gid) (w : Word64) (s : State) : State := match enter g w s with | .ok u => u | .error u => u

def rf (dst : BitVec 6) (a b c : BitVec 7) (mod : BitVec 22 := 0) (pred : BitVec 3 := 1) : RegForm :=
  { pred := pred, dst := dst, a := a, b := b, c := c, mod := mod }

/-- The word of class `cls` and opcode `op` with the fields `f` about to issue, and the state after its fetch. -/
def go (cls op : Nat) (f : RegForm) (x : Slot := slot0) (s : State := rdy) : State := about g0 (encReg cls op f) x s
def en (cls op : Nat) (f : RegForm) (x : Slot := slot0) (s : State := rdy) : State :=
  ent g0 (encReg cls op f) (go cls op f x s)
def goi (cls op : Nat) (f : ImmForm) : State := about g0 (encImm cls op f) slot0 rdy
def eni (cls op : Nat) (f : ImmForm) : State := ent g0 (encImm cls op f) (goi cls op f)

/-- Whether the word reaches its pipe in the state after its fetch, to be evaluated. -/
def reaches (g : Gid) (w : Word64) (legal : Bool) (fs : List (BitVec 7)) (src act : Word64) (push : Option Nat) (s : State) :
    Bool :=
  match enter g w s with
  | .ok u => legal && bindOk u (gi g) g.g fs push && !u.fenced (gi g) g.g && (u.core (gi g)).inner.isEmpty &&
      readySrcs u (gi g) g.g src fs == .ok &&
      (match push with | some q => !pushStalls u (gi g) g.g act fs q | none => true)
  | .error _ => false

theorem reaches_sound {g : Gid} {w : Word64} {legal : Bool} {fs : List (BitVec 7)} {src act : Word64} {push : Option Nat}
    {s : State} (h : reaches g w legal fs src act push s = true) :
    Reaches g w legal fs src act push s (ent g w s) := by
  unfold reaches at h
  unfold Machine.Reaches ent
  split at h
  · rename_i u hu
    rw [hu]
    cases push <;> simp_all
  · simp at h

theorem reachesMem_sound {g : Gid} {w : Word64} {legal : Bool} {fs : List (BitVec 7)} {act : Word64} {push : Option Nat}
    {s : State} (h : reaches g w legal fs act act push s = true) (hm : (ent g w s).memBusy (gi g) = false) :
    ReachesMem g w legal fs act push s (ent g w s) := ⟨reaches_sound h, hm⟩

theorem enter_ok {g : Gid} {w : Word64} {s : State} (h : (enter g w s).isOk = true) : enter g w s = .ok (ent g w s) := by
  unfold ent
  cases he : enter g w s <;> simp_all [Except.isOk, Except.toBool]


/-! ### V-class instructions -/

/-- A form of a V-class row: its sources the queues Q0 and Q1, its destination Q5, its lowest TYPE. -/
def vf (r : VRow) : RegForm :=
  rf 5 0 (if 2 ≤ r.n then 1 else 0x60) (if 3 ≤ r.n then 1 else 0x60) (BitVec.ofNat 22 (2 ^ 20 * r.types.headD 0))

theorem witness_VectorInstructionsPush :
    ∀ r ∈ vectorRows, r.Reaches g0 (vf r) (go 0 r.op (vf r)) (en 0 r.op (vf r)) := by
  have h : (vectorRows.all fun r => reaches g0 (encReg 0 r.op (vf r))
      (vForm r.n r.types (vf r) zeroOnly zeroOnly zeroOnly && dstQ (vf r).dst) (usedSrcs r.n (vf r))
      ((en 0 r.op (vf r)).active g0 (vf r)) ((en 0 r.op (vf r)).active g0 (vf r)) (some (vf r).dst.toNat)
      (go 0 r.op (vf r))) = true := by decide +kernel
  intro r hr
  exact reaches_sound (List.all_eq_true.1 h r hr)

/-- The guard of the forms below, and the state after the fetch of their word. -/
def actV (op : Nat) (f : RegForm) : Word64 := (en 0 op f).active g0 f

theorem witness_ConversionsPush :
    let f := rf 5 0 1 0x60 (BitVec.ofNat 22 (2 ^ 13))
    let w := rf 5 0 0x60 0x60 (BitVec.ofNat 22 (2 ^ 16))
    let v := rf 5 0 0x60 0x60
    let n := rf 5 0 1 0x60 (BitVec.ofNat 22 (2 ^ 17 * 2))
    Reaches g0 (encReg 0 0x01 f) (vForm 2 [0] f zeroOnly (fun _ => true) zeroOnly && dstQ f.dst) (usedSrcs 2 f)
        (actV 0x01 f) (actV 0x01 f) (some f.dst.toNat) (go 0 0x01 f) (en 0 0x01 f) ∧
      Reaches g0 (encReg 0 0x41 w) (vForm 1 [0] w (fun _ => true) (fun _ => true) zeroOnly && elemOk w && dstQ w.dst)
        (usedSrcs 1 w) (actV 0x41 w) (actV 0x41 w) (some w.dst.toNat) (go 0 0x41 w) (en 0 0x41 w) ∧
      Reaches g0 (encReg 0 0x42 v) (vForm 1 [0, 1] v zeroOnly zeroOnly (fun r => r == 0 || r == 2) && dstQ v.dst)
        (usedSrcs 1 v) (actV 0x42 v) (actV 0x42 v) (some v.dst.toNat) (go 0 0x42 v) (en 0 0x42 v) ∧
      Reaches g0 (encReg 0 0x40 n) (vForm 2 [0] n (fun _ => true) (fun _ => true) (fun r => decide (r < 3)) &&
          elemOk n && dstQ n.dst && !((en 0 0x40 n).srUsed n && (en 0 0x40 n).exact &&
            !((en 0 0x40 n).slot (gi g0) g0.g).seeded))
        (usedSrcs 2 n) (actV 0x40 n) (actV 0x40 n) (some n.dst.toNat) (go 0 0x40 n) (en 0 0x40 n) :=
  ⟨reaches_sound (by decide +kernel), reaches_sound (by decide +kernel), reaches_sound (by decide +kernel),
    reaches_sound (by decide +kernel)⟩

theorem witness_ComparesWritePredicates :
    let f := rf 34 1 0 0x60 (BitVec.ofNat 22 (2 ^ 13 * 5))
    let x := rf 32 1 0 0x60 (BitVec.ofNat 22 (2 ^ 21 + 2 ^ 13 * 6))
    Reaches g0 (encReg 0 0x14 f) (vForm 2 [0, 1] f zeroOnly (fun a => decide (a ≤ 5)) zeroOnly && dstP f.dst)
        (usedSrcs 2 f) (actV 0x14 f) (actV 0x14 f) none (go 0 0x14 f) (en 0 0x14 f) ∧
      Reaches g0 (encReg 0 0x26 x) (vForm 2 [2] x zeroOnly (fun a => decide (a ≤ 6)) zeroOnly && dstP x.dst)
        (usedSrcs 2 x) (actV 0x26 x) (actV 0x26 x) none (go 0 0x26 x) (en 0 0x26 x) :=
  ⟨reaches_sound (by decide +kernel), reaches_sound (by decide +kernel)⟩

/-! ### S-class instructions -/

/-- A form of an S-class row that writes S[d] of S1 and S3. -/
def sf (d : Nat) (a b : BitVec 7) (m : Nat) : RegForm := rf (BitVec.ofNat 6 (32 + d)) a b 0x60 (BitVec.ofNat 22 m) 0
def sImm (r : SImmRow) : ImmForm := { dst := 35, a := if r.useA then 0x41 else 0x60, imm := 0x80000001 }

theorem witness_ScalarRowsWriteScalar : ∀ r ∈ scalarRows, ∀ d ∈ [0, 31],
    Reaches g0 (encReg 1 r.op (sf d 0x41 0x43 0))
      (sForm 2 (sf d 0x41 0x43 0) (fun m => m == 0) && dstS (sf d 0x41 0x43 0).dst) [] 0 0 none
      (go 1 r.op (sf d 0x41 0x43 0)) (en 1 r.op (sf d 0x41 0x43 0)) := by
  have h : (scalarRows.all fun r => [0, 31].all fun d => reaches g0 (encReg 1 r.op (sf d 0x41 0x43 0))
      (sForm 2 (sf d 0x41 0x43 0) (fun m => m == 0) && dstS (sf d 0x41 0x43 0).dst) [] 0 0 none
      (go 1 r.op (sf d 0x41 0x43 0))) = true := by decide +kernel
  intro r hr d hd
  exact reaches_sound (List.all_eq_true.1 (List.all_eq_true.1 h r hr) d hd)

theorem witness_ScalarImmediatesWriteScalar : ∀ r ∈ scalarImmRows,
    Reaches g0 (encImm 1 r.op (sImm r)) (sImmForm r.useA (sImm r) && dstS (sImm r).dst) [] 0 0 none
      (goi 1 r.op (sImm r)) (eni 1 r.op (sImm r)) := by
  have h : (scalarImmRows.all fun r => reaches g0 (encImm 1 r.op (sImm r))
      (sImmForm r.useA (sImm r) && dstS (sImm r).dst) [] 0 0 none (goi 1 r.op (sImm r))) = true := by decide +kernel
  intro r hr
  exact reaches_sound (List.all_eq_true.1 h r hr)

theorem witness_ScalarTransfersWrite :
    let c := sf 7 0x41 0x43 (2 ^ 18 * 7)
    let p := sf 6 0x60 0x60 7
    let q := sf 0 0x41 0x60 0
    let n : RegForm := {}
    Reaches g0 (encReg 1 0x0C c)
        (sForm 2 c (fun m => bitsOf m 0 18 == 0 && decide (bitsOf m 18 4 < 8)) && dstS c.dst) [] 0 0 none
        (go 1 0x0C c) (en 1 0x0C c) ∧
      Reaches g0 (encReg 1 0x10 p) (sForm 0 p (fun m => decide (m < 8)) && dstS p.dst) [] 0 0 none
        (go 1 0x10 p) (en 1 0x10 p) ∧
      Reaches g0 (encReg 1 0x11 q) (sForm 1 q (fun m => m == 0) && dstP q.dst) [] 0 0 none
        (go 1 0x11 q) (en 1 0x11 q) ∧
      Reaches g0 (encReg 1 0x00 n) (sForm 0 n (fun m => m == 0) && dstNone n.dst) [] 0 0 none
        (go 1 0x00 n) (en 1 0x00 n) :=
  ⟨reaches_sound (by decide +kernel), reaches_sound (by decide +kernel), reaches_sound (by decide +kernel),
    reaches_sound (by decide +kernel)⟩

/-! ### X-class instructions -/

/-- A running slot with its queues filled in every thread. -/
def slotX : Slot := { slot0 with queues := qs (List.range 64) 2 }

theorem witness_ReductionsWriteScalar : ∀ x ∈ [(0, 0, [0]), (1, 0, [0]), (2, 2, [0, 1, 2]), (3, 1, [0, 1, 2]), (4, 1, [0, 1]),
      (4, 2, [2])],
    let f := rf 35 1 0x60 0x60 (BitVec.ofNat 22 (2 ^ 20 * x.2.1))
    Reaches g0 (encReg 5 x.1 f) (xForm 1 x.2.2 f (fun _ => true) && dstS f.dst) (usedSrcs 1 f) (BitVec.allOnes 64) 0 none
      (go 5 x.1 f slotX) (en 5 x.1 f slotX) := by
  have h : ([(0, 0, [0]), (1, 0, [0]), (2, 2, [0, 1, 2]), (3, 1, [0, 1, 2]), (4, 1, [0, 1]), (4, 2, [2])].all
      fun (x : Nat × Nat × List Nat) =>
        let f := rf 35 1 0x60 0x60 (BitVec.ofNat 22 (2 ^ 20 * x.2.1))
        reaches g0 (encReg 5 x.1 f) (xForm 1 x.2.2 f (fun _ => true) && dstS f.dst) (usedSrcs 1 f) (BitVec.allOnes 64) 0
          none (go 5 x.1 f slotX)) = true := by decide +kernel
  intro x hx
  exact reaches_sound (List.all_eq_true.1 h x hx)

theorem witness_ExchangesMoveThreads :
    let f := rf 5 1 0x21 0x60
    let r := rf 5 1 0x6F 0x60
    let q := rf 35 1 0x6F 0x60 (BitVec.ofNat 22 (2 ^ 21))
    let act := fun (op : Nat) (f : RegForm) => (en 5 op f slotX).active g0 f
    Reaches g0 (encReg 5 0x08 f) (xForm 2 [0] f (fun _ => true) && dstQ f.dst) (usedSrcs 2 f) (BitVec.allOnes 64)
        (act 8 f) (some f.dst.toNat) (go 5 8 f slotX) (en 5 8 f slotX) ∧
      Reaches g0 (encReg 5 0x09 r) (xForm 2 [0] r (fun b => !isQueue b) && dstQ r.dst) (usedSrcs 2 r)
        (BitVec.allOnes 64) (act 9 r) (some r.dst.toNat) (go 5 9 r slotX) (en 5 9 r slotX) ∧
      Reaches g0 (encReg 5 0x0A r) (xForm 2 [0] r (fun b => !isQueue b) && dstQ r.dst) (usedSrcs 2 r)
        (BitVec.allOnes 64) (act 10 r) (some r.dst.toNat) (go 5 10 r slotX) (en 5 10 r slotX) ∧
      Reaches g0 (encReg 5 0x0B q) (xForm 2 [0, 1, 2] q (fun b => !isQueue b) && dstS q.dst) (usedSrcs 2 q)
        (BitVec.allOnes 64) 0 none (go 5 11 q slotX) (en 5 11 q slotX) :=
  ⟨reaches_sound (by decide +kernel), reaches_sound (by decide +kernel), reaches_sound (by decide +kernel),
    reaches_sound (by decide +kernel)⟩

/-! ### C-class instructions -/

/-- A branch on S1 and 0 to 16 words before it. -/
def bf (cond : Nat) : ImmForm := { a := 0x41, cond := BitVec.ofNat 4 cond, imm := 0xFFFFFFF0 }

theorem witness_BranchesMoveThePc : (∀ c ∈ [0, 8],
    Reaches g0 (encImm 4 0x00 (bf c)) (noPred (bf c).pred (bf c).pneg && decide (2 ≤ srcMode (bf c).a) &&
        dstNone (bf c).dst && decide ((bf c).cond.toNat ≤ 8)) [] 0 0 none (goi 4 0 (bf c)) (eni 4 0 (bf c))) ∧
    let j : RegForm := { a := 0x44 }
    let v := srcVal64 ((en 4 1 j).slot (gi g0) g0.g) j.a
    Reaches g0 (encReg 4 0x01 j)
      (cForm 1 j (fun m => m == 0) && srcMode j.a == 2 && v.toNat % 8 == 0 && decide (v.toNat < 2 ^ 40)) [] 0 0 none
      (go 4 1 j) (en 4 1 j) := by
  refine ⟨?_, reaches_sound (by decide +kernel)⟩
  intro c hc
  simp only [List.mem_cons, List.not_mem_nil, or_false] at hc
  rcases hc with rfl | rfl <;> exact reaches_sound (by decide +kernel)

/-- Slot 3 of core 37 in a wait. -/
def waiting (w : SlotWait) : State :=
  updCore (gi g0) (fun c => (c.setSlot g0.g { slot0 with wait := w }).setSlot 6 slot0) rdy

theorem witness_WaitsBegin : ∀ x ∈ [(0x02, 0, 2, 3), (0x02, 2, 3, 4), (0x03, 0, 1, 2), (0x04, 0, 0, 1), (0x05, 0, 0, 1)],
    let f : RegForm := { a := if x.2.1 = 2 then 0x44 else 0x60, b := if x.2.1 = 2 then 0x42 else 0x60,
                         mod := BitVec.ofNat 22 x.2.2.1 }
    Reaches g0 (encReg 4 x.1 f) (cForm x.2.1 f (fun m => decide (m < x.2.2.2))) [] 0 0 none (go 4 x.1 f) (en 4 x.1 f) := by
  have h : ([(0x02, 0, 2, 3), (0x02, 2, 3, 4), (0x03, 0, 1, 2), (0x04, 0, 0, 1), (0x05, 0, 0, 1)].all
      fun (x : Nat × Nat × Nat × Nat) =>
        let f : RegForm := { a := if x.2.1 = 2 then 0x44 else 0x60, b := if x.2.1 = 2 then 0x42 else 0x60,
                             mod := BitVec.ofNat 22 x.2.2.1 }
        reaches g0 (encReg 4 x.1 f) (cForm x.2.1 f (fun m => decide (m < x.2.2.2))) [] 0 0 none (go 4 x.1 f)) = true := by
    decide +kernel
  intro x hx
  exact reaches_sound (List.all_eq_true.1 h x hx)

theorem witness_WaitsEnd : ∀ x ∈ [SlotWait.fence 0 0 0, .tfence true, .tfence false, .endt, .exit],
    (waiting x).down = false ∧ ((waiting x).slot (gi g0) g0.g).wait = x ∧
      ((waiting x).slot (gi g0) g0.g).state = .running ∧ (waiting x).coreRuns (gi g0) = true ∧
      (waiting x).slotBusy (gi g0) g0.g = false ∧ ((waiting x).core (gi g0)).tns.slotTaken g0.g = true ∧
      ((waiting x).core (gi g0)).tns.slotDone g0.g = true ∧ (waiting x).slotFinished (gi g0) g0.g = true := by
  decide +kernel

theorem witness_FencesWriteBack : ∀ x ∈ [1, 2, 3],
    let s := waiting (.fence x 0x1000 0x4000)
    s.down = false ∧ (s.slot (gi g0) g0.g).wait = .fence x 0x1000 0x4000 ∧ (s.slot (gi g0) g0.g).state = .running ∧
      s.coreRuns (gi g0) = true ∧ s.slotBusy (gi g0) g0.g = false ∧ x ≠ 0 ∧
      (l1WriteBack (x == 2) (gi g0) s).l2StoreWaits (gi g0 / 16) (16 * gi g0 + 8) = false := by decide +kernel

/-! ### Traps -/

theorem witness_UndefinedOpcodeTraps :
    let w : Word64 := 0xE000000000000000
    let s := about g0 w slot0 rdy
    s.down = false ∧ enter g0 w s = .ok (ent g0 w s) ∧ undefinedWord w = true :=
  ⟨by decide +kernel, enter_ok (by decide +kernel), by decide +kernel⟩

/-- IADD, and the four ways in which it does not execute: Q6 is empty; SRCC is in no fixed form; its data is still to
come; its destination is full. -/
def addRow : VRow := ⟨.iadd, 0x10, 2, [0, 1], [], fun _ a b _ => BitVec.ofNat 32 (a.toNat + b.toNat)⟩
def slotReserved : Slot := { slot0 with
  queues := (List.range 2).flatMap fun q => some8.map fun t => (64 * q + t, [QEntry.reserved 4]) }
def slotFull : Slot := { slot0 with queues := qs some8 4 }

theorem witness_IllegalAndEmptyTrap :
    let ok := fun (f : RegForm) (u : State) => vForm 2 [0, 1] f zeroOnly zeroOnly zeroOnly && dstQ f.dst &&
      bindOk u (gi g0) g0.g (usedSrcs 2 f) (some f.dst.toNat)
    let ready := fun (f : RegForm) (u : State) => readySrcs u (gi g0) g0.g (u.active g0 f) (usedSrcs 2 f)
    let bad := rf 5 0 1 0
    let e := rf 5 0 6 0x60
    let st := rf 5 0 1 0x60
    let fu := rf 2 0 1 0x60
    (enter g0 (encReg 0 0x10 bad) (go 0 0x10 bad) = .ok (en 0 0x10 bad) ∧ ok bad (en 0 0x10 bad) = false) ∧
      (enter g0 (encReg 0 0x10 e) (go 0 0x10 e) = .ok (en 0 0x10 e) ∧ ok e (en 0 0x10 e) = true ∧
        ready e (en 0 0x10 e) = .empty 0) ∧
      (enter g0 (encReg 0 0x10 st) (go 0 0x10 st slotReserved) = .ok (en 0 0x10 st slotReserved) ∧
        ok st (en 0 0x10 st slotReserved) = true ∧ ready st (en 0 0x10 st slotReserved) = .stall) ∧
      (enter g0 (encReg 0 0x10 fu) (go 0 0x10 fu slotFull) = .ok (en 0 0x10 fu slotFull) ∧
        ok fu (en 0 0x10 fu slotFull) = true ∧ ready fu (en 0 0x10 fu slotFull) = .ok ∧
        pushStalls (en 0 0x10 fu slotFull) (gi g0) g0.g ((en 0 0x10 fu slotFull).active g0 fu) (usedSrcs 2 fu) 2 = true) :=
  ⟨⟨enter_ok (by decide +kernel), by decide +kernel⟩, ⟨enter_ok (by decide +kernel), by decide +kernel⟩,
    ⟨enter_ok (by decide +kernel), by decide +kernel⟩, ⟨enter_ok (by decide +kernel), by decide +kernel⟩⟩

/-- Core 37 with a running slot, one in tick-wait and one armed. -/
def threeSlots : State :=
  updCore 37 (fun c => ((c.setSlot 1 { slot0 with state := .tickWait }).setSlot 2
    { slot0 with state := .armedJob }).setSlot 3 slot0) rdy

theorem witness_TrapHaltsItsCore : (threeSlots.slot 37 3).state = .running ∧ (threeSlots.slot 37 1).state = .tickWait ∧
    ¬((threeSlots.slot 37 2).state = .running ∨ (threeSlots.slot 37 2).state = .tickWait) := by decide +kernel

theorem witness_TrapIsCaptured : threeSlots.flag (Reg.CORE_TRAP_HI 2 5) F.CORE_TRAP_HI.VALID = false ∧
    (recordTrap 37 1 2 .illegal 0xCD11 threeSlots).flag (Reg.CORE_TRAP_HI 2 5) F.CORE_TRAP_HI.VALID = true := by
  decide +kernel

/-! ### M-class instructions -/

/-- Slots whose S5 is an address: a scratch word of core 37, the first DRAM lines, and an odd address. -/
def slotMem (a : Nat) : Slot := { slot0 with scal := [(5, BitVec.ofNat 64 a), (6, 0x40)], pred := [(1, 0xF0F)] }
def memA : Nat := scratchBase 2 5
/-- Loads and stores of four bytes, with LAST where `m` has bit 15; stores of Q1. -/
def ldf (m : Nat) : RegForm := rf 5 0x45 0x46 0x60 (BitVec.ofNat 22 (2 ^ 18 + m))
def stf (m : Nat) : RegForm := rf 0x1F 0x45 0x46 0x1 (BitVec.ofNat 22 (2 ^ 18 + m))

/-- The popped state and the lanes of an access. -/
def popped (n op : Nat) (f : RegForm) (x : Slot) : State :=
  popSrcs (gi g0) g0.g ((en 2 op f x).active g0 f) (usedSrcs n f) (en 2 op f x)
def lanes (n op : Nat) (f : RegForm) (x : Slot) : List LoadLane :=
  memLanes g0 f (operand (en 2 op f x) g0 (usedSrcs n f) [] 1) (popped n op f x)

theorem witness_LoadsAndStoresComplete : ∀ x ∈ [(memA, true), (0x1000, true), (0x1001, false)],
    let y := slotMem x.1
    let act := fun (op : Nat) (f : RegForm) => (en 2 op f y).active g0 f
    ReachesMem g0 (encReg 2 0x00 (ldf 0)) (memForm 2 true true true (ldf 0)) (usedSrcs 2 (ldf 0)) (act 0 (ldf 0))
        (some (ldf 0).dst.toNat) (go 2 0 (ldf 0) y) (en 2 0 (ldf 0) y) ∧
      (laneTrap g0 (memSize (ldf 0)) false (lanes 2 0 (ldf 0) y) (popped 2 0 (ldf 0) y) = none ↔ x.2 = true) ∧
      ReachesMem g0 (encReg 2 0x01 (stf 0)) (memForm 3 false false true (stf 0)) (usedSrcs 3 (stf 0)) (act 1 (stf 0))
        none (go 2 1 (stf 0) y) (en 2 1 (stf 0) y) ∧
      (laneTrap g0 (memSize (stf 0)) false (lanes 3 1 (stf 0) y) (popped 3 1 (stf 0) y) = none ↔ x.2 = true) := by
  intro x hx
  simp only [List.mem_cons, List.not_mem_nil, or_false] at hx
  rcases hx with rfl | rfl | rfl <;>
    exact ⟨reachesMem_sound (by decide +kernel) (by decide +kernel), by decide +kernel,
      reachesMem_sound (by decide +kernel) (by decide +kernel), by decide +kernel⟩

theorem witness_HintsComplete : ∀ op ∈ [0x02, 0x03], ∀ x ∈ [(0x1000, false), (0x1001, true)],
    let f := rf 0x1F 0x45 0x46 0x60 (BitVec.ofNat 22 (2 ^ 18))
    let u := en 2 op f (slotMem x.1)
    let act := u.active g0 f
    ReachesMem g0 (encReg 2 op f) (memForm 2 false false false f) (usedSrcs 2 f) act none (go 2 op f (slotMem x.1)) u ∧
      (hintLanes g0 f (operand u g0 (usedSrcs 2 f) [] 1) (popSrcs (gi g0) g0.g act (usedSrcs 2 f) u)).isEmpty = x.2 := by
  intro op h x hx
  simp only [List.mem_cons, List.not_mem_nil, or_false] at h hx
  rcases h with rfl | rfl <;> rcases hx with rfl | rfl <;>
    exact ⟨reachesMem_sound (by decide +kernel) (by decide +kernel), by decide +kernel⟩

/-- An atomic of Q1 on the words at S5 + S6, pushed to Q5. -/
def atf : RegForm := rf 5 0x45 0x46 0x1 (BitVec.ofNat 22 (2 ^ 18))

theorem witness_AtomicsComplete : ∀ r ∈ [(0x04, false), (0x05, true), (0x06, true)],
    ∀ x ∈ [(memA, true), (0x1000, false)],
    let act := (en 2 r.1 atf (slotMem x.1)).active g0 atf
    ReachesMem g0 (encReg 2 r.1 atf) (memForm 3 true r.2 false atf && memSize atf == 4) (usedSrcs 3 atf) act
        (some atf.dst.toNat) (go 2 r.1 atf (slotMem x.1)) (en 2 r.1 atf (slotMem x.1)) ∧
      (laneTrap g0 4 true (lanes 3 r.1 atf (slotMem x.1)) (popped 3 r.1 atf (slotMem x.1)) = none ↔ x.2 = true) := by
  intro r hr x hx
  simp only [List.mem_cons, List.not_mem_nil, or_false] at hr hx
  rcases hr with rfl | rfl | rfl <;> rcases hx with rfl | rfl <;>
    exact ⟨reachesMem_sound (by decide +kernel) (by decide +kernel), by decide +kernel⟩

/-- The MOD fields an M-class opcode does not use are zero: SX on a store and LAST on an atomic are illegal (R101). -/
theorem test_unused_mod_is_illegal :
    memForm 3 false false true { stf 0 with mod := BitVec.ofNat 22 (2 ^ 18 + 2 ^ 16) } = false ∧
      memForm 3 true false false { atf with mod := BitVec.ofNat 22 (2 ^ 18 + 2 ^ 15) } = false := by decide +kernel

theorem witness_FailingThreadTraps :
    let ls : List LoadLane := [{ thread := 1, addr := memA }, { thread := 2, addr := memA + 1 },
      { thread := 5, addr := 0xFF00000000 }]
    let s := go 2 4 atf (slotMem memA)
    ls = [{ thread := 1, addr := memA }] ++ { thread := 2, addr := memA + 1 } ::
        [{ thread := 5, addr := 0xFF00000000 }] ∧
      (∀ x ∈ [({ thread := 1, addr := memA } : LoadLane)], laneCheck s (gi g0) 4 false x.addr = none) ∧
      ∃ c k, laneCheck s (gi g0) 4 false (memA + 1) = some (c, k) := by
  refine ⟨rfl, by decide +kernel, ?_⟩
  exact ⟨.access, _, rfl⟩

theorem witness_AtomicReturnsOldValue :
    let a := (memA + 4) % 2 ^ 40
    a % 4 = 0 ∧ (go 2 4 atf (slotMem memA)).devAt (a / 8) = 0 := by decide +kernel

/-! ### Loads that return -/

/-- The state after a load of scratch words, whose lanes all have their data. -/
def nx (o : Host.Outcome State Fault Refusal) : State := match o with | .next t => t | _ => rdy
def loaded : State := nx (exec (.ld g0 (ldf 0)) (go 2 0 (ldf 0) (slotMem memA)))
def noLoad : Load := { id := 0, slot := 0, queue := 0, size := 4, sx := false, lanes := [], pc := 0, aclass := 0, last := false }
def theLoad : Load := (loaded.core 37).loads.headD noLoad
def judged : List LoadLane × State := judgeLanes {} 37 theLoad.lanes (upset {} loaded)

theorem witness_LoadReturnDelivers :
    loaded.down = false ∧ (loaded.core 37).loads.find? (fun x => x.id == theLoad.id) = some theLoad ∧
      (loaded.core 37).returns theLoad = true ∧ (∀ y ∈ judged.1, y.bad = false) ∧ theLoad.lanes.length = 8 := by
  decide +kernel

theorem witness_DeliveredEntriesBecomePresent :
    loaded.boundOut 37 theLoad.slot theLoad.queue = false ∧ 5 < 31 ∧ 63 < 64 ∧ (∀ y ∈ judged.1, y.thread < 64) ∧
      (judged.1.map (·.thread)).Nodup ∧ (judged.1.find? fun y => y.thread == 8).isSome = true ∧
      (judged.1.find? fun y => y.thread == 63) = none := by decide +kernel

/-! ### The tensor array -/

/-- The forms of T-class instructions in slot 3, with the count in S5, the row in S6 and 600 in S8, guarded by P0. -/
def slotT : Slot := { slot0 with scal := [(5, 4), (6, 7), (8, 600)] }
def tf (a b : BitVec 7) (m : Nat) (p : BitVec 3 := 0) : RegForm := rf 0x1F a b 0x60 (BitVec.ofNat 22 m) p
def tRow (n : Nat) : TRow := tensorRows.getD n ⟨.tswap, 1, 0, 0, fun _ => true, fun _ _ _ _ _ => none⟩

/-- Core 37 with a changed tensor array. -/
def tn (f : Tensor → Tensor) : State := updCore 37 (fun c => { c with tns := f c.tns }) rdy
def fullQueue : State := tn fun t => { t with cmdq := List.replicate 16 ⟨1, 2, .tswap⟩, nextId := 16 }

/-- The hypotheses of a T-class row, with the queue full or not, thread 0 active or not, and its command made or not. -/
def tMeets (r : TRow) (f : RegForm) (s : State) (full on : Bool) (cmd : Option TOp) : Bool :=
  let u := en 3 r.op f slotT s
  let fs := usedSrcs r.n f
  let v := fun n => tOperand u (gi g0) g0.g (fs.getD n unusedSrc) ((positions [] fs).getD n 0)
  (enter g0 (encReg 3 r.op f) (go 3 r.op f slotT s)).isOk && (u.core (gi g0)).inner.isEmpty &&
    (tForm r.n f r.mask && r.ok f && bindOk u (gi g0) g0.g fs none) && !u.fenced (gi g0) g0.g &&
    (decide (16 ≤ (u.core (gi g0)).tns.cmdq.length) == full) && ((u.active g0 f).getLsbD 0 == on) &&
    (!on || readySrcs u (gi g0) g0.g 1 fs == .ok && r.cmd f u g0 (v 0) (v 1) == cmd)

theorem witness_TensorInstructionsQueueCommands :
    tMeets (tRow 0) (tf 0x45 0x60 (2 ^ 14 * 3 + 2 ^ 8)) rdy false true (some (.tldt 4 3 1)) = true ∧
      tMeets (tRow 0) (tf 0x48 0x60 (2 ^ 14 * 3 + 2 ^ 8)) rdy false true none = true ∧
      tMeets (tRow 1) (tf 0x60 0x60 0) rdy false true (some .tswap) = true ∧
      tMeets (tRow 2) (tf 0x45 0x46 (2 ^ 18 * 7 + 2 ^ 11 * 2 + 2 ^ 8)) rdy false true (some (.trun 4 7 7 2 false 1)) = true ∧
      tMeets (tRow 2) (tf 0x48 0x46 (2 ^ 18 * 7 + 2 ^ 11 * 2 + 2 ^ 8)) rdy false true none = true ∧
      tMeets (tRow 3) (tf 0x45 0x46 (2 ^ 8 * 2 + 2 ^ 7)) rdy false true (some (.tdrn 4 7 true 2)) = true ∧
      tMeets (tRow 4) (tf 0x45 0x46 0) rdy false true (some (.tclr 4 7)) = true ∧
      tMeets (tRow 4) (tf 0x45 0x46 0) fullQueue true true (some (.tclr 4 7)) = true ∧
      tMeets (tRow 4) (tf 0x48 0x46 0) fullQueue true true none = true ∧
      tMeets (tRow 4) (tf 0x45 0x46 0 2) rdy false false none = true ∧
      tMeets (tRow 4) (tf 0x45 0x46 0 2) fullQueue true false none = true := by decide +kernel

/-- An entry of a core-wide queue, and a tensor array with some in TA1, TB1 and TD2. -/
def wideE (k : Nat) : Entry :=
  { words := (List.range 64).map fun j => BitVec.ofNat 32 (0x3C3C3C3C + 0x01010101 * ((j * k) % 7)) }
def wideEs (n : Nat) : List Entry := (List.range n).map wideE
def tBase (t : Tensor) : Tensor :=
  { t with ta := [(1, wideEs 8)], tb := [(1, wideEs 6)], td := [(2, wideEs 3)], ramp := .active, nextId := 20 }
def trunC : TCmd := ⟨6, 2, .trun 4 10 7 1 false 1⟩
def tldtC : TCmd := ⟨5, 2, .tldt 8 7 1⟩

/-- A load of a tile that has all its entries, and a stream of rows whose first row is in flight. -/
def tileHere : State :=
  tn fun t => { tBase t with cmdq := [trunC], loading := some { cmd := tldtC, need := 3, taken := wideEs 3 } }
def rowsOn : State := nx (exec (.trunStart ⟨2, 5⟩) (tn fun t => { tBase t with cmdq := [trunC] }))
def rowHere : State := nx (exec (.trunRowEnter ⟨2, 5⟩) rowsOn)

theorem witness_TilesLoadAndSwap :
    (let s := tn fun t => { tBase t with cmdq := [tldtC, trunC] }
     s.down = false ∧ s.coreRuns 37 = true ∧
       (s.core 37).tns.cmdq = { id := 5, slot := 2, op := .tldt 8 7 1 } :: [trunC] ∧ (s.core 37).tns.loading = none) ∧
      (tileHere.down = false ∧ tileHere.coreRuns 37 = true ∧
        (tileHere.core 37).tns.loading = some { cmd := tldtC, need := 3, taken := wideEs 3 } ∧
        3 ≤ (wideEs 3).length ∧ tldtC.op = .tldt 8 7 1) ∧
      (let s := tn fun t => { tBase t with cmdq := [⟨5, 2, .tswap⟩, trunC] }
       s.down = false ∧ s.coreRuns 37 = true ∧ (s.core 37).tns.cmdq = { id := 5, slot := 2, op := .tswap } :: [trunC] ∧
         (s.core 37).tns.loading = none ∧ (s.core 37).tns.streaming = none) ∧
      (let s := tn fun t => { tBase t with cmdq := [trunC] }
       s.down = false ∧ s.coreRuns 37 = true ∧ (s.core 37).tns.cmdq = trunC :: [] ∧ trunC.trun?.isSome ∧
         (s.core 37).tns.streaming = none) := by decide +kernel

theorem witness_RowsEnterAndAccumulate :
    (let t := (rowsOn.core 37).tns
     rowsOn.down = false ∧ rowsOn.coreRuns 37 = true ∧ t.ramp = .active ∧
       (match t.streaming, trunC.trun? with
        | some st, some a => st.cmd == trunC &&
          (match trunTake a (a.k t.front) (rowsOn.blkA 37 a.fmta) st.entered ((rowsOn.core 37).wide (.ta a.qsel)) with
           | some _ => (a.targets t.front st.entered).all (t.accFree st.cmd.id)
           | none => false)
        | _, _ => false) = true) ∧
      (rowHere.down = false ∧ rowHere.coreRuns 37 = true ∧ (rowHere.core 37).tns.tclr = none ∧
        (match (rowHere.core 37).tns.rows with | r :: _ => r.cmd.trun?.isSome | _ => false) = true) := by decide +kernel

/-- A drain of two rows of TD2 that has begun. -/
def tdrnC : TCmd := ⟨7, 2, .tdrn 2 10 false 2⟩
def draining : State := tn fun t => { tBase t with tdrn := some (tdrnC, 0) }

theorem witness_DrainsAndClearsStart :
    (let s := tn fun t => { tBase t with cmdq := [tdrnC] }
     s.down = false ∧ s.coreRuns 37 = true ∧
       (s.core 37).tns.cmdq = { id := 7, slot := 2, op := .tdrn 2 10 false 2 } :: [] ∧ (s.core 37).tns.tdrn = none ∧
       (s.core 37).tns.tclr = none) ∧
      (draining.down = false ∧ draining.coreRuns 37 = true ∧ (draining.core 37).tns.tdrn = some (tdrnC, 0) ∧
        tdrnC.op = .tdrn 2 10 false 2 ∧ (draining.core 37).tns.pendingUpdate tdrnC.id (10 + 0 / drainPer false) = false ∧
        ((draining.core 37).wide (.td 2)).length < 15 ∧ 0 + 2 ≤ drainPer false * 2 ∧
        (draining.core 37).tns.pendingUpdate tdrnC.id (10 + (0 + 1) / drainPer false) = false ∧
        draining.flag (Reg.CORE_GLINT_SEL 2 5) F.CORE_GLINT_SEL.EN = false) ∧
      (let s := tn fun t => { tBase t with cmdq := [⟨5, 2, .tclr 2 9⟩] }
       s.down = false ∧ s.coreRuns 37 = true ∧ (s.core 37).tns.cmdq = { id := 5, slot := 2, op := .tclr 2 9 } :: [] ∧
         (s.core 37).tns.tdrn = none ∧ (s.core 37).tns.tclr = none ∧
         ∀ k, k < 2 → ({ (s.core 37).tns with cmdq := [] } : Tensor).pendingUpdate 5 (9 + k) = false) := by decide +kernel

theorem witness_RampMoves :
    (let s := tn fun t => { t with ramp := .up 3, cmdq := [trunC] }
     s.down = false ∧ (s.core 37).tns.ramp = .up 3 ∧ s.coreRuns 37 = true ∧ (s.core 37).tns.quiet = false) ∧
      (let s := tn fun t => { t with ramp := .up 32 }
       s.down = false ∧ (s.core 37).tns.ramp = .up 32 ∧ s.coreRuns 37 = true ∧ (s.core 37).tns.quiet = true ∧
         (s.core 37).tns.holding = false) ∧
      (let s := tn fun t => { t with ramp := .active, holding := true }
       s.down = false ∧ (s.core 37).tns.ramp = .active ∧ (s.core 37).tns.holding = true ∧ s.coreRuns 37 = true) ∧
      (let s := tn fun t => { t with ramp := .down 8 }
       s.down = false ∧ (s.core 37).tns.ramp = .down 8) := by decide +kernel

/-! ### Cores -/

def setSt (n : Nat) (s : State) : State := s.setFld Reg.TICK_STAT F.TICK_STAT.STATE n
/-- A halted slot 5 of core 37, and an armed one. -/
def halted5 : State := updCore 37 (fun c => c.setSlot 5 { slot0 with state := .halted }) rdy
def armed5 : State := updCore 37 (fun c => c.setSlot 5 { slot0 with state := .armedNow }) rdy

theorem witness_LaunchArmsTheSlot :
    let free := fun (g : Gid) (s : State) =>
      s.noJob = true ∧ (s.slot (gi g) g.g).state = .empty ∧ s.coreLaunchable (gi g) = true
    let bad := halted5.setReg (Reg.CORE_Gg_QBIND 2 5 3) 0xFFFFFFFF
    (Accepts .svc (Reg.CORE_Gg_CTL 2 5 3) halted5 ∧ free g0 halted5 ∧ halted5.bindValid 37 3 = true) ∧
      (Accepts .pcie (Reg.CORE_Gg_CTL 2 5 3) bad ∧ free g0 bad ∧ bad.bindValid 37 3 = false) ∧
      (Accepts .svc (Reg.CORE_Gg_CTL 2 5 5) halted5 ∧ ¬free ⟨2, 5, 5⟩ halted5) := by unfold Accepts; decide +kernel

theorem witness_AbandonEmptiesTheCore : ∀ x ∈ [(0, true), (3, true), (1, false), (2, false)],
    Accepts .svc (Reg.CORE_CTL 2 5) (setSt x.1 halted5) ∧ (setSt x.1 halted5).noJob = x.2 ∧
      ((setSt x.1 halted5).core 37).l1.miss = [] ∧ ((setSt x.1 halted5).core 37).l1.waiting = [] := by
  unfold Accepts; decide +kernel

theorem witness_CoreConfigurationWrites :
    let numOk := fun (v : Word32) (s : State) => s.slotsIdle 37 && (s.core 37).tns.cmdq.isEmpty &&
      v.extractLsb' 0 2 != 3 && v.extractLsb' 2 2 != 3
    let seedOk := fun (v : Word32) (s : State) => s.slotsIdle 37 && v.extractLsb' 0 16 != 0
    let memOk := fun (v : Word32) (s : State) => s.noJob && s.slotsIdle 37 && decide (F.CORE_MEM_CFG.L1SZ.get v ≤ 4)
    Accepts .svc (Reg.CORE_NUM_CTL 2 5) armed5 ∧ Accepts .svc (Reg.CORE_SR_SEED 2 5) armed5 ∧
      Accepts .svc (Reg.CORE_MEM_CFG 2 5) armed5 ∧ numOk 0xA armed5 = true ∧ numOk 0x3 armed5 = false ∧
      numOk 0xC armed5 = false ∧ numOk 0 halted5 = false ∧ seedOk 0xFFFF armed5 = true ∧ seedOk 0x10000 armed5 = false ∧
      memOk 4 armed5 = true ∧ memOk 5 armed5 = false ∧ memOk 4 (setSt 1 armed5) = false := by
  unfold Accepts; decide +kernel

theorem witness_InstructionCacheControl :
    let n := fun (s : State) => s.fld (Reg.CORE_IC_PL_LEN 2 5) F.CORE_IC_PL_LEN.LINES
    let one := armed5.setReg (Reg.CORE_IC_PL_LEN 2 5) 1
    let most := armed5.setReg (Reg.CORE_IC_PL_LEN 2 5) 2048
    Accepts .svc (Reg.CORE_IC_CTL 2 5) one ∧ one.icWritable 37 = true ∧ 1 ≤ n one ∧ n most = 2048 ∧
      Accepts .svc (Reg.CORE_IC_CTL 2 5) halted5 ∧ halted5.icWritable 37 = false := by unfold Accepts; decide +kernel

/-- A group whose line is not in its cache, after the attempt to issue: its line is being fetched. -/
def missed : State :=
  nx (execUndefinedOpcode g0 0xE000000000000000 (updCore 37 (fun c => c.setSlot 3 slot0) rdy))
def missLine : ICFetch := (missed.core 37).ic.fetches.headD { line := 0 }
def missW : State := updIc 37 (fun ic => { ic with fetches := ic.fetches.erase missLine }) missed

theorem witness_InstructionLinesArrive :
    (let v := (readCodeLine 37 33 missW).2.2
     missed.down = false ∧ ((upset {} missed).core 37).ic.fetches.find? (fun f => f.line == 33) = some missLine ∧
        missed.l2Fetching (37 / 16) 33 = false ∧ missed.coreRuns 37 = true ∧ missLine.bad = none ∧
        (v.core 37).ic.find (33 * 128) = none ∧ (v.core 37).ic.pinnedIn (icSet (33 * 128)) ≤ 7 ∧
        (match decodeFetch missW (33 * 128) with | .ok _ => true | _ => false) = true ∧
        (readCodeLine 37 33 missW).2.1 = none) ∧
      (let x := upset {} (updIc 37 (fun ic => { ic with preload := some [33, 34] }) missed)
       (x.core 37).ic.preload = some (33 :: [34]) ∧ x.preloadWaits 37 33 = false) ∧
      (let pinnedSet : SMap (Option ICLine) := (List.range 7).map fun w =>
         (8 * icSet (33 * 128) + w, some { tag := 100 + w, pinned := true, words := [] })
       let x := updIc 37 (fun ic => { ic with preload := some [33], lines := pinnedSet }) missed
       let w := updIc 37 (fun ic => { ic with preload := none }) x
       x.preloadWaits 37 33 = false ∧ 7 ≤ (w.core 37).ic.pinnedIn (icSet (33 * 128))) ∧
      ((upset {} (updIc 37 (fun ic => { ic with preload := some [] }) missed)).core 37).ic.preload = some [] := by
  decide +kernel

/-! ### Stream engine -/

/-- Scratch of cores 5 and 6 of stack 2, and the package's own fabric prefix. -/
def descA : Nat := scratchBase 2 5
def dataA : Nat := scratchBase 2 6
def pkgA : Nat := rdy.pkgId * 2 ^ 52

def put8 (a v : Nat) (s : State) : State := putWord (a / 8) (BitVec.ofNat 64 v) s

/-- Channel 4 of stack 2, enabled, with its list at `descA`. -/
def chan0 : State :=
  ((rdy.setReg (Reg.STK_SE_CHn_CTL 2 4) 9).setPair (Reg.STK_SE_CHn_HEAD_LO 2 4) (pkgA + descA))

/-- The same with a descriptor of operation `op` at `descA`, OWN at `own`. -/
def withDesc (own op ctl src dst len : Nat) : State :=
  put8 (descA + 24) len (put8 (descA + 16) dst (put8 (descA + 8) src (put8 descA (op + ctl + 2 ^ 31 * own) chan0)))

def ring (s : State) : State := nx (execSeDoorbell .svc 2 4 s)

/-- Fetches of a NOP, of a descriptor with OWN at 0, of an operation that is none, of a list outside the map, and of one in another package. -/
def fetchNop : State := ring (withDesc 1 0 0 0 0 0)
def fetchFree : State := ring chan0
def fetchBad : State := ring (withDesc 1 7 0 0 0 0)
def fetchOut : State := ring (chan0.setPair (Reg.STK_SE_CHn_HEAD_LO 2 4) (pkgA + 0xE000000000))
def fetchAway : State :=
  updChan 2 4 (fun c => { c with tags := [5] }) (fetchNop.setPair (Reg.STK_SE_CHn_CUR_LO 2 4) (9 * 2 ^ 52))
/-- The same channel with its descriptor in execution. -/
def fetched (s : State) : State := nx (execSeDescFetch 2 4 {} s)
def runNop : State := fetched fetchNop
def runCopy : State := fetched (ring (withDesc 1 1 0 (pkgA + dataA) (pkgA + dataA + 0x1003) 300))
def runFlush : State := fetched (ring (withDesc 1 3 0 0 (pkgA + 0x10000) 300))
def runGset : State :=
  updPoint 18 (fun x => { x with cap := 1000 })
    (fetched (ring (withDesc 1 1 (2 ^ 16 + 2 ^ 17 + 2 ^ 20 * 5) (pkgA + dataA) (pkgA + dataA + 0x1003) 300)))
/-- The same with every token of its points guaranteed to the channel's neighbour. -/
def runGsetNone : State :=
  forEach (gPoints 2 (runGset.chan 2 4).desc.gpoint)
    (fun p s => updPoint p (fun x => { x with guar := [(chMaster 2 5, 1024)] }) s) runGset
/-- A copy whose first burst is under way, has come, and is written. -/
def burstOut : State := nx (execSeBurstRead 2 runCopy)
def noBurst : Burst := { id := 0, pos := 0, len := 0 }
def burst0 : Burst := (burstOut.chan 2 4).bursts.headD noBurst
def burstIn : State := nx (execSeBurstArrive 2 4 burst0.id {} burstOut)
def burstWritten : State := nx (execSeBurstWrite 2 burstIn)
/-- A copy whose source list is awaited. -/
def runList : State := seStart 2 4 (fetched (ring (withDesc 1 1 (2 ^ 14) (pkgA + dataA) (pkgA + dataA + 0x1003) 300)))
/-- A NOP about to write its status, and then about to clear OWN. -/
def atStatus : State := nx (execSeNop 2 4 runNop)
def atOwn : State := nx (execSeStatusWrite 2 4 atStatus)
/-- A status write to package 9 that has been accepted there, of a channel aborted meanwhile. -/
def farStatus : State :=
  updChan 2 4 (fun c => { c with abort := true, got := some (0, 0, []) })
    (atStatus.setPair (Reg.STK_SE_CHn_CUR_LO 2 4) (9 * 2 ^ 52))
/-- A copy that failed, about to clear OWN. -/
def failOwn : State :=
  nx (execSeStatusWrite 2 4 (nx (execSeCopy 2 4 {} (fetched (ring (withDesc 1 1 0 (pkgA + 0xE000000000) (pkgA + dataA) 300))))))

theorem witness_TriggersStartChannels :
    let en := fun (s : State) => s.flag (Reg.STK_SE_CHn_CTL 2 4) F.STK_SE_CHn_CTL.ENABLE
    let held := updChan 2 4 (fun c => { c with held := some true }) chan0
    let off := chan0.setReg (Reg.STK_SE_CHn_CTL 2 4) 8
    let lost := updStk 2 (fun x => { x with bonds := { x.bonds with lost := true } }) chan0
    let halted := updChan 2 4 (fun c => { c with phase := .halted }) chan0
    (Accepts .svc (Reg.STK_SE_CHn_DB 2 4) chan0 ∧ en chan0 = true ∧ chan0.stackAdmitted 2 = true ∧
        (chan0.stk 2).bonds.lost = false ∧
        (chan0.chan 2 4).phase = .idle ∧ (chan0.chan 2 4).held = none ∧ chan0.waiting = false) ∧
      (Accepts .svc (Reg.STK_SE_CHn_DB 2 4) fetchNop ∧ en fetchNop = true ∧ fetchNop.stackAdmitted 2 = true ∧
        (fetchNop.chan 2 4).phase ≠ .idle ∧ (fetchNop.chan 2 4).phase ≠ .halted ∧ (fetchNop.chan 2 4).held = none) ∧
      (Accepts .svc (Reg.STK_SE_CHn_DB 2 4) held ∧ en held = true ∧ (held.chan 2 4).held.isSome) ∧
      (Accepts .svc (Reg.STK_SE_CHn_DB 2 4) lost ∧ en lost = true ∧ (lost.stk 2).bonds.lost = true) ∧
      (Accepts .svc (Reg.STK_SE_CHn_DB 2 4) halted ∧ en halted = true ∧ (halted.chan 2 4).phase = .halted) ∧
      (Accepts .svc (Reg.STK_SE_CHn_DB 2 4) off ∧ en off = false):= by
  unfold Accepts; decide +kernel

theorem witness_TimersStartChannels :
    let en := fun (s : State) => s.flag (Reg.STK_SE_CHn_CTL 2 4) F.STK_SE_CHn_CTL.ENABLE
    let timer := (chan0.setReg (Reg.STK_SE_CHn_CTL 2 4) 0).setReg (Reg.STK_SE_CHn_CTL 2 4)
      (F.STK_SE_CHn_CTL.TRIG.put 9 1)
    (timer.down = false ∧ timer.fld (Reg.STK_SE_CHn_CTL 2 4) F.STK_SE_CHn_CTL.TRIG = 1 ∧
        (timer.chan 2 4).fired = false ∧ (timer.chan 2 4).late = false ∧ en timer = true ∧
        timer.stackAdmitted 2 = true ∧ (timer.stk 2).bonds.lost = false ∧
        (timer.chan 2 4).phase = .idle ∧ (timer.chan 2 4).held = none ∧ timer.waiting = false ∧
        timer.fld (Reg.STK_SE_CHn_TIMER 2 4) F.STK_SE_CHn_TIMER.OFFSET < timer.tick.period) ∧
      (let far := timer.setReg (Reg.STK_SE_CHn_TIMER 2 4) 0x3FFFFFFF
       far.down = false ∧ far.fld (Reg.STK_SE_CHn_CTL 2 4) F.STK_SE_CHn_CTL.TRIG = 1 ∧ (far.chan 2 4).fired = false ∧
         (far.chan 2 4).late = false ∧ en far = true ∧
         far.tick.period ≤ far.fld (Reg.STK_SE_CHn_TIMER 2 4) F.STK_SE_CHn_TIMER.OFFSET) := by
  decide +kernel

theorem witness_ChannelControlWrites :
    let halted := updChan 2 4 (fun c => { c with phase := .halted }) chan0
    let head := Reg.STK_SE_CHn_HEAD_LO 2 4
    let others := (((List.range 32).filter (· != 4)).map (chan0.rsv 2)).sum
    (Accepts .svc (Reg.STK_SE_CHn_CTL 2 4) fetchNop ∧ (fetchNop.chan 2 4).phase = .fetch) ∧
      (Accepts .svc (Reg.STK_SE_CHn_CTL 2 4) runCopy ∧ (runCopy.chan 2 4).phase = .exec) ∧
      (Accepts .svc (Reg.STK_SE_CHn_CTL 2 4) halted ∧ (halted.chan 2 4).phase = .halted) ∧
      (Accepts .svc head chan0 ∧ Accepts .svc (head + 4) halted ∧ (chan0.chan 2 4).phase = .idle) ∧
      (Accepts .svc (Reg.STK_SE_CHn_RSV 2 4) chan0 ∧ F.STK_SE_CHn_RSV.SLOTS.get 16 = 16 ∧ others + 16 ≤ 192 ∧
        F.STK_SE_CHn_RSV.SLOTS.get 17 = 17) := by unfold Accepts; decide +kernel

/-- How the fetch of a descriptor ends: `a` of the descriptor, the state after it and its code. -/
def fetchMeets (s : State) (a : Option (Desc × State) → Bool) : Bool :=
  let x := upset {} s
  !s.down && (x.chan 2 4).phase == .fetch &&
    match fetchAnswer 2 4 x with
    | (some (some d, _), v) => a (some (d, v))
    | (some (none, _), _) => a none
    | (none, _) => false

theorem witness_DescriptorFetchEnds :
    fetchMeets fetchNop (fun | some (d, v) => d.ctl 31 && !(v.chan 2 4).abort && wellFormed v d | none => false) = true ∧
      fetchMeets fetchFree (fun | some (d, v) => !d.ctl 31 && !(v.chan 2 4).abort | none => false) = true ∧
      fetchMeets fetchBad (fun | some (d, v) => d.ctl 31 && !(v.chan 2 4).abort && !wellFormed v d | none => false) =
        true ∧
      fetchMeets fetchOut (fun x => x.isNone) = true ∧
      (fetchAway.down = false ∧ ((upset {} fetchAway).chan 2 4).phase = .fetch ∧
        (fetchAnswer 2 4 (upset {} fetchAway)).1 = none) := by
  decide +kernel

theorem witness_OperationsRunTheirDescriptor :
    (runCopy.down = false ∧ ((upset {} runCopy).chan 2 4).phase = .exec ∧
        ((upset {} runCopy).chan 2 4).desc.op = 1) ∧
      (runNop.down = false ∧ (runNop.chan 2 4).phase = .exec ∧ (runNop.chan 2 4).desc.op = 0 ∧
        (runNop.chan 2 4).desc.op ≠ 1 ∧ fetchNop.down = false ∧ (fetchNop.chan 2 4).phase ≠ .exec) ∧
      (let c := runNop.chan 2 4
       c.desc.len = 0 ∧ c.desc.crcm = 0 ∧ c.desc.srcl = false ∧ c.desc.dstl = false ∧ c.desc.sqOn = false ∧
         c.desc.dqOn = false ∧ runNop.seCanRun 2 4 = true ∧ c.running = false ∧ c.code = 0 ∧ c.abort = false ∧
         c.listing = false ∧ c.srcPos = 0 ∧ c.bursts = [] ∧ c.qout = [] ∧ c.srcList = [] ∧ c.dstList = []) := by decide +kernel

theorem witness_FlushAndGuaranteeRun :
    (runFlush.down = false ∧ (runFlush.chan 2 4).phase = .exec ∧ (runFlush.chan 2 4).desc.op = 3 ∧
        ((seStart 2 4 runFlush).chan 2 4).running = true ∧ ((seStart 2 4 runFlush).chan 2 4).phase = .exec) ∧
      (let c := runGset.chan 2 4
       runGset.down = false ∧ c.phase = .exec ∧ c.code = 0 ∧ c.abort = false ∧ c.desc.ctl 16 = true ∧
         c.granted = false) ∧
      (let ask := fun s : State =>
         (requestGuarantee (chMaster 2 4) (s.chan 2 4).desc.guar (gPoints 2 (s.chan 2 4).desc.gpoint) s).1
       ask runGset = true ∧ ask runGsetNone = false) := by decide +kernel

theorem witness_BurstsMove :
    (runCopy.down = false ∧ (runCopy.choose 2 (runCopy.stk 2).lastRd (runCopy.readReady 2)).isSome ∧
        runCopy.choose 2 (runCopy.stk 2).lastWr (runCopy.writeReady 2) = none) ∧
      (rdy.choose 2 (rdy.stk 2).lastRd (rdy.readReady 2) = none) ∧
      (burstIn.down = false ∧ (burstIn.choose 2 (burstIn.stk 2).lastWr (burstIn.writeReady 2)).isSome) ∧
      (let x := upset {} burstOut
       burstOut.down = false ∧ burst0 ∈ (x.chan 2 4).bursts ∧ ((x.chan 2 4).bursts.map (·.id)).Nodup ∧
         burst0 ∈ (burstOut.chan 2 4).bursts ∧ ((burstOut.chan 2 4).bursts.map (·.id)).Nodup ∧
         (∀ b ∈ (burstOut.chan 2 4).bursts, b.id ≠ burst0.id + 1) ∧
         ∀ b ∈ (x.chan 2 4).bursts, b.id ≠ burst0.id + 1) := by decide +kernel

theorem witness_DescriptorsEnd :
    let out := fun (s : State) => s.setPair (Reg.STK_SE_CHn_CUR_LO 2 4) (pkgA + 2 ^ 40)
    let st := fun (s : State) => (dwriteAnswer 2 4 [(4, leBytes 4 (2 ^ 15)), (0x38, leBytes 8 0)] s).1
    let own := fun (s : State) => (dwriteAnswer 2 4 [(0, leBytes 4 ((s.chan 2 4).desc.w 0 % 2 ^ 31))] s).1
    let far := fun (s : State) =>
      match fabric s (s.pair (Reg.STK_SE_CHn_CUR_LO 2 4)) with | .far _ _ => true | _ => false
    (atStatus.down = false ∧ (atStatus.chan 2 4).phase = .status ∧ st atStatus = some true ∧ far atStatus = false ∧
        ((atStatus.chan 2 4).abort && (atStatus.chan 2 4).code == 0) = false) ∧
      (farStatus.down = false ∧ (farStatus.chan 2 4).phase = .status ∧ st farStatus = some true ∧
        far farStatus = true ∧ ((farStatus.chan 2 4).abort && (farStatus.chan 2 4).code == 0) = true) ∧
      (let o := updChan 2 4 (fun c => { c with phase := .own }) (out atStatus)
       st (out atStatus) = some false ∧ (o.chan 2 4).phase = .own ∧ own o = some false) ∧
      (atOwn.down = false ∧ (atOwn.chan 2 4).phase = .own ∧ own atOwn = some true ∧ (atOwn.chan 2 4).code = 0 ∧
        (atOwn.chan 2 4).desc.ctl 8 = false ∧ (atOwn.chan 2 4).desc.glint = false) ∧
      (failOwn.down = false ∧ (failOwn.chan 2 4).phase = .own ∧ own failOwn = some true ∧ (failOwn.chan 2 4).code ≠ 0) := by
  decide +kernel

theorem witness_AccessesTimeOut :
    (fetchNop.down = false ∧ (fetchNop.chan 2 4).firstDue.isSome ∧ (fetchNop.chan 2 4).phase = .fetch) ∧
      ((atOwn.chan 2 4).firstDue.isSome ∧ (atOwn.chan 2 4).phase = .own) ∧
      (((runList.chan 2 4).firstDue.map (·.2)) = some none ∧ (runList.chan 2 4).phase = .exec ∧
        (runList.chan 2 4).listing = true) ∧
      (((runGset.chan 2 4).firstDue.map (·.2)) = some none ∧ (runGset.chan 2 4).phase = .exec) ∧
      (((burstOut.chan 2 4).firstDue.bind (·.2)).map (·.written) = some false) ∧
      (((burstWritten.chan 2 4).firstDue.bind (·.2)).map (·.written) = some true) := by decide +kernel

theorem witness_HaltKeepsItsReason : 15 < 16 ∧ pkgA + 0x123456789 < 2 ^ 64 := by decide +kernel

/-! ### Ticks and messages -/

/-- A locked package 7 whose membership table names packages 7 and 9 with their class and generation. -/
def member : State :=
  let s := (rdy.setReg Reg.GCTL_PKG_ID 0x10007).setFlag Reg.GCTL_LOCK F.GCTL_LOCK.LOCK
  let rc := rdy.fld Reg.GCTL_ID F.GCTL_ID.RCLASS
  { s with roles := { s.roles with
    membLo := [(0, F.GCTL_MEMB_VAL_LO.RCLASS.put 0x80000007 rc), (1, F.GCTL_MEMB_VAL_LO.RCLASS.put 0x80000009 rc)],
    membHi := [(0, F.GCTL_MEMB_VAL_HI.GEN.put 0 (rdy.fld Reg.GCTL_GEN F.GCTL_GEN.GEN))] } }
def asRoot (s : State) : State := s.setFlag Reg.TICK_CTL F.TICK_CTL.ROOT

/-- A message of package 9, come in on link 9 after another one. -/
def mk (type dst body : Nat) : Msg := { member.newMsg type dst with src := 9, body := body }
def inb (m : Msg) (s : State) : State := { s with inbox := [(5, mk 1 7 0), (9, m)] }
def l9 : InLink := ⟨9, by decide⟩

/-- The state that has taken the oldest message of a type. -/
def took (type : Nat) (l : InLink) (s : State) : State :=
  match takeMsg l (fun m => m.type == type && s.mine m) s with
  | some (m, w) => if l.val < 32 ∧ w.freshGen m = true then memberLost [m.src] w else w
  | none => s
def takes (type : Nat) (l : InLink) (m : Msg) (s : State) : Bool :=
  !s.down && match takeMsg l (fun m => m.type == type && s.mine m) s with
    | some (x, w) => x == m && (!w.inReset || linkLocal type) &&
        (decide (32 ≤ l.val) || !w.staleGen m) &&
        (decide (type < 0x10) || decide (0x14 < type) || !(took type l s).roleStale m)
    | none => false

theorem takes_sound {type : Nat} {l : InLink} {m : Msg} {s : State} (h : takes type l m s = true) :
    Takes type l m s (took type l s) := by
  unfold takes at h
  unfold Takes
  cases ht : takeMsg l (fun m => m.type == type && s.mine m) s with
  | none => simp [ht] at h
  | some x =>
    obtain ⟨x, w⟩ := x
    simp only [ht, Bool.and_eq_true, Bool.or_eq_true, beq_iff_eq, decide_eq_true_eq, Bool.not_eq_true'] at h
    obtain ⟨h1, ⟨⟨rfl, h2⟩, h3⟩, h4⟩ := h
    exact ⟨h1, w, rfl, h2, fun hl => h3.resolve_left (by omega), by simp [took, ht],
      fun ha hb => h4.resolve_left (by omega)⟩

/-- The same for the oldest message of a kind. -/
def front (type kind : Nat) (l : InLink) (s : State) : State :=
  match s.inbox.find? (fun e => e.1 == l.val && e.2.type == type && s.mine e.2 && e.2.bodyAt 32 1 == kind) with
  | some e => { s with inbox := e :: s.inbox.erase e }
  | none => s
def tookKind (type kind : Nat) (l : InLink) (s : State) : State := took type l (front type kind l s)
def takesKind (type kind : Nat) (l : InLink) (m : Msg) (s : State) : Bool :=
  (s.inbox.find? (fun e => e.1 == l.val && e.2.type == type && s.mine e.2 && e.2.bodyAt 32 1 == kind)).isSome &&
    takes type l m (front type kind l s)

theorem takesKind_sound {type kind : Nat} {l : InLink} {m : Msg} {s : State} (h : takesKind type kind l m s = true) :
    TakesKind type kind l m s (tookKind type kind l s) := by
  unfold takesKind at h
  unfold TakesKind tookKind
  cases he : s.inbox.find? (fun e => e.1 == l.val && e.2.type == type && s.mine e.2 && e.2.bodyAt 32 1 == kind) with
  | none => simp [he] at h
  | some e =>
    have hf : front type kind l s = { s with inbox := e :: s.inbox.erase e } := by unfold front; rw [he]
    simp only [he, Option.isSome_some, Bool.true_and] at h
    rw [hf] at h ⊢
    exact ⟨e, rfl, takes_sound h⟩

/-- Package time past the nominal end of a free tick; a release of boundary 6. -/
def late (s : State) : State := { s with tb := 64 * 20000, now := 64 * 20000 }
def rel6 (stop : Bool) : Release := { index := 6, time := 30000, period := 12500, stop := stop }
def inJob (rel : Option Release) : State :=
  { setSt 2 member with tick := { rdy.tick with rel := rel, index := 5, bnd := 100000 } }
def starting (rel : Option Release) : State :=
  { setSt 1 member with tick := { rdy.tick with rel := rel, bnd := 100000 } }

theorem witness_BoundariesOpen :
    ((late rdy).down = false ∧ (late rdy).boot.resetting = none ∧ (late rdy).freeDue = true) ∧
      (let s := starting (some (rel6 false))
       s.tick.rel = some (rel6 false) ∧ s.inStarting = true ∧ (rel6 false).time ≤ s.nominalEnd) ∧
      (let s := inJob (some (rel6 false))
       s.tick.rel = some (rel6 false) ∧ s.inJob = true ∧ (rel6 false).stop = false) ∧
      (let s := inJob (some (rel6 true))
       s.tick.rel = some (rel6 true) ∧ s.inJob = true ∧ (rel6 true).stop = true) ∧
      ((inJob none).inJob = true ∧ (inJob none).tick.rel = none) ∧
      ∀ s ∈ [starting (some (rel6 false)), inJob (some (rel6 false)), inJob (some (rel6 true)), inJob none],
        s.down = false ∧ s.boot.resetting = none := by decide +kernel

def doneMsg : Msg := mk 0x13 7 (bodyPut 32 1 + bodyPut 40 5)
def relMsg : Msg := mk 0x13 7 (bodyPut 32 2 + bodyPut 40 6 + bodyPut 48 77777 + bodyPut 56 12500)
def atReady : State := inb (mk 0x13 7 0) (asRoot (starting none))
def atDone : State := inb doneMsg (asRoot (inJob none))
def atRelease : State := inb relMsg ((inJob none).setReg Reg.TICK_ROOT_ID 9)

theorem witness_TickMessagesAgree :
    (TakesKind 0x13 0 l9 (mk 0x13 7 0) atReady (tookKind 0x13 0 l9 atReady) ∧
        (tookKind 0x13 0 l9 atReady).tickRoot = true ∧ (tookKind 0x13 0 l9 atReady).inStarting = true ∧
        (tookKind 0x13 0 l9 atReady).tick.rel = none) ∧
      (TakesKind 0x13 1 l9 doneMsg atDone (tookKind 0x13 1 l9 atDone) ∧ (tookKind 0x13 1 l9 atDone).tickRoot = true ∧
        (tookKind 0x13 1 l9 atDone).inJob = true ∧ doneMsg.bodyAt 40 8 = (tookKind 0x13 1 l9 atDone).tick.index ∧
        (tookKind 0x13 1 l9 atDone).tick.rel = none) ∧
      (TakesKind 0x13 2 l9 relMsg atRelease (tookKind 0x13 2 l9 atRelease) ∧
        relMsg.src = (tookKind 0x13 2 l9 atRelease).rootPkg ∧ (tookKind 0x13 2 l9 atRelease).tick.rel = none ∧
        (tookKind 0x13 2 l9 atRelease).inJob = true ∧
        relMsg.bodyAt 40 8 = (tookKind 0x13 2 l9 atRelease).tick.index + 1) ∧
      ((inJob none).down = false ∧ (inJob none).inJob = true ∧ (inJob none).tick.doneSent = false ∧
        (∀ e ∈ (inJob none).cores, (inJob none).coreDone e.1 = true) ∧ (inJob none).seBusy = false ∧
        (inJob none).tick.ovr = false) :=
  ⟨⟨takesKind_sound (by decide +kernel), by decide +kernel⟩, ⟨takesKind_sound (by decide +kernel), by decide +kernel⟩,
    ⟨takesKind_sound (by decide +kernel), by decide +kernel⟩, by decide +kernel⟩

def lossMsg : Msg := mk 0x14 7 (bodyPut 32 1 + 2 ^ 8 * 9)
def atLoss : State := inb lossMsg (asRoot (inJob none))

theorem witness_StartsAndTicksFail :
    ((asRoot (starting none)).down = false ∧ (asRoot (starting none)).inStarting = true ∧
        (asRoot (starting none)).tickRoot = true ∧ (asRoot (starting none)).tick.rel = none ∧
        (asRoot (starting none)).memberPkgs.filter (fun d => !(asRoot (starting none)).tick.ready.contains d) ≠ []) ∧
      ((asRoot (inJob none)).inJob = true ∧ (asRoot (inJob none)).tickRoot = true ∧ (asRoot (inJob none)).tick.rel = none) ∧
      (Takes 0x14 l9 lossMsg atLoss (took 0x14 l9 atLoss) ∧ (took 0x14 l9 atLoss).inJob = true ∧
        (took 0x14 l9 atLoss).tickRoot = true) :=
  ⟨by decide +kernel, by decide +kernel, takes_sound (by decide +kernel), by decide +kernel⟩

theorem witness_TickRegistersAct :
    let edge := fun (ph : Nat) =>
      ({ (late rdy).setReg Reg.TICK_CTL 0x34 with tb := 64 * 12500 * 3 + ph } : State)
    (Accepts .svc Reg.TICK_CTL (asRoot member) ∧ (asRoot member).noJob = true ∧ (asRoot member).startReason = none) ∧
      (Accepts .svc Reg.TICK_CTL (asRoot (inJob none)) ∧ (asRoot (inJob none)).tickRoot = true ∧
        (asRoot (inJob none)).inJob = true) ∧
      (Accepts .svc Reg.TICK_PERIOD (asRoot (inJob none)) ∧ ((250 : Word32).extractLsb' 0 21).toNat = 250 ∧
        ((2048000 : Word32).extractLsb' 0 21).toNat = 2048000 ∧ ((249 : Word32).extractLsb' 0 21).toNat = 249 ∧
        ((2048001 : Word32).extractLsb' 0 21).toNat = 2048001) ∧
      Accepts .svc Reg.TICK_REL_LAT rdy ∧ Accepts .svc Reg.TICK_SNAP_CTL rdy ∧
      (∀ ph ∈ [399999, 400001], (edge ph).down = false ∧ (edge ph).tickInRoot = true ∧ 0 < (edge ph).tick.period ∧
        (edge ph).lands.tickInAt = none) := by unfold Accepts; decide +kernel

/-- A member whose link 9 to package 9 is active and its sync link. -/
def onLink (x : Link) (s : State) : State := updLink 9 (fun _ => x) s
def synced : State := (onLink { Link.reset with state := .active } member).setReg Reg.LNK_TSYNC 0x0A29
def reqMsg : Msg := { mk 0x11 7 (bodyPut 32 12345) with stamp := 777 }
def rspMsg : Msg :=
  { mk 0x12 7 (bodyPut 32 12345 + bodyPut 40 99999 + bodyPut 48 100050 + bodyPut 56 (bodyInt 4 (-5))) with stamp := 13000 }
def asked : State := inb rspMsg { synced with tsync := { member.tsync with waiting := true, t1 := 12345 } }

theorem witness_TimeSyncExchanges :
    (synced.down = false ∧ synced.syncLink = some 9) ∧
      Takes 0x11 l9 reqMsg (inb reqMsg synced) (took 0x11 l9 (inb reqMsg synced)) ∧
      (Takes 0x12 l9 rspMsg asked (took 0x12 l9 asked) ∧ (took 0x12 l9 asked).tsync.waiting = true ∧
        (took 0x12 l9 asked).syncLink = some l9.val ∧ rspMsg.bodyAt 32 8 = (took 0x12 l9 asked).tsync.t1) ∧
      (Takes 0x12 l9 rspMsg (inb rspMsg synced) (took 0x12 l9 (inb rspMsg synced)) ∧
        (took 0x12 l9 (inb rspMsg synced)).tsync.waiting = false) :=
  ⟨by decide +kernel, takes_sound (by decide +kernel), ⟨takes_sound (by decide +kernel), by decide +kernel⟩,
    ⟨takes_sound (by decide +kernel), by decide +kernel⟩⟩

/-! ### Bandwidth regulator -/

/-- Points 3 and 17 with guarantees of masters 5 and 0x480, a queue and what they have served. -/
def point1 : Point := {
  guar := [(5, 30), (0x480, 100)], gBucket := [(5, 60000)], cap := 800, share := 500,
  queue := [⟨5, 128, none, false, 3⟩, ⟨7, 256, some 3, false, 9⟩], served := [(5, 64)], backlog := [5, 7],
  waiting := [⟨0x480, 64, none, true, 1⟩] }
def regd : State := { rdy with points := [(3, point1), (17, point1)], tb := 1000 }
/-- The same with the controller of point 3 issuing no column commands. -/
def regdHeld : State := { regd with power := { regd.power with memSlots := 0 } }
def gsel (q m : Nat) : State :=
  regd.setReg Reg.BWR_GSEL (BitVec.ofNat 32 (F.BWR_GSEL.POINT.put (F.BWR_GSEL.MASTER.put (0 : Word32) m) q).toNat)

theorem witness_RegulatorAdmitsAndServes :
    let fits := fun (q m g : Nat) =>
      let x := (gsel q m).point q
      let old := x.guarOf m
      g = 0 ∨ (g ≤ 1024 ∧ listed q m = true ∧ x.cap ≠ 0 ∧ (old ≠ 0 ∨ x.guar.length < 64) ∧
        (g ≤ old ∨ x.sum - old + g ≤ 1024))
    let at_ := fun (q m : Nat) => Accepts .svc Reg.BWR_GVAL (gsel q m) ∧
      (gsel q m).fld Reg.BWR_GSEL F.BWR_GSEL.MASTER = m ∧ (gsel q m).fld Reg.BWR_GSEL F.BWR_GSEL.POINT = q
    (at_ 3 5 ∧ fits 3 5 924 ∧ ¬fits 3 5 925) ∧ (at_ 17 5 ∧ fits 17 5 0) ∧ (at_ 45 5 ∧ ¬fits 45 5 7) := by
  unfold Accepts; decide +kernel

theorem witness_RegulatorServes :
    (regd.down = false ∧ (regd.point 3).next.isSome ∧ regd.colSlots 3 ≠ 0) ∧
      (regdHeld.down = false ∧ (regdHeld.point 3).next.isSome ∧ regdHeld.colSlots 3 = 0) ∧
      (64 * regd.tick.bnd + 8192 * (regd.bwrWin + 1) ≤ 64 * regd.nominalEnd) ∧
      (let s := { regd with bwrWin := 97 }
       s.down = false ∧ 64 * s.nominalEnd < 64 * s.tick.bnd + 8192 * (s.bwrWin + 1)) ∧
      (5 ∈ (regd.point 3).backlog ∧
        sget (fun _ => 0) (regd.point 3).served 5 + 2048 < (regd.point 3).guarOf 5 * (regd.point 3).cap / 10) := by
  decide +kernel

/-! ### Memory -/

/-- After a load of DRAM: a line is being fetched into the home slab; then a fill of the core's register is ready. -/
def cached : State :=
  { updCore 37 (fun c => { c with l1sz := 4 }) rdy with stks := [(2, { rdy.stk 2 with l2 := { (rdy.stk 2).l2 with res := 4 } })] }
def fetchingL2 : State := nx (execLd g0 (ldf 0) (go 2 0 (ldf 0) (slotMem 0x1000) cached))
def fetchedL2 : State :=
  nx (execL2Fill 2 (Fin.ofNat 16 (((fetchingL2.stk 2).l2.fetches.map (·.slab)).headD 0)) 32 {} fetchingL2)
def merging : State :=
  let k : Stack := { rdy.stk 2 with merge := [(3, [⟨slabBase 2 0 / 8, 0xF, 0x1234⟩])] }
  { rdy with stks := sset (fun _ => Stack.reset) rdy.stks 2 k }

theorem witness_MemoryEventsArrive :
    (fetchingL2.down = false ∧ (((upset {} fetchingL2).stk 2).l2.fetches.map (·.line)) = [32]) ∧
      (fetchedL2.down = false ∧ (((upset {} fetchedL2).core 37).l1.miss.any fun m => m.fill && m.ready) = true) ∧
      (merging.down = false ∧ (upset {} merging).mergeBuf 2 (8 * 0 + 3) = ⟨slabBase 2 0 / 8, 0xF, 0x1234⟩ :: []) := by
  decide +kernel

/-! ### Integrity -/

def scrubbing : State := rdy.setReg (Reg.STK_MERE_SCRUB 2) 5

/-- What the Mere scrubber of stack 2 meets after the upsets `u`: `none` where it skips its word, else how the word reads
(0 right, 1 corrected, 2 neither) and whether it is of an L2 line, with dirty bytes or without. -/
def scrubMeets (u : Upsets) (s : State) : Option (Nat × Option Bool) :=
  let x := upset u s
  let p := (x.stk 2).scrubPos
  let slab := p % 16
  let off := p / 16 * 8
  let v := updStk 2 (fun y => { y with scrubPos := (p + 1) % 134217728 }) x
  let w := (slabBase 2 slab + off) / 8
  let f := flushWord w v
  if s.down || x.fld (Reg.STK_MERE_SCRUB 2) F.STK_MERE_SCRUB.PERIOD == 0 || (x.stk 2).bonds.lost then none
  else if v.slabRetired 2 slab off || !(v.gate (32 + slab)).slabOn then none
  else
    let code := match (judgeCode 0 { scrub := true } w (f.rawWord w) (f.devAt w) f).2.1 with
      | .clean => 0
      | .corrected _ => 1
      | .bad => 2
    some (code, match f.storedAt 2 slab off with | .plain => none | .line _ x _ => some (x.dirty != 0))

/-- The first line that stack 2's L2 holds, and the scrubber at its first word. -/
def atLine (dirty : Bool) : State :=
  let e := (fetchedL2.stk 2).l2.lines.headD (0, none)
  let key := e.1
  let n := key / 32 % 16384
  let q := n / 8 * 4096 + key % 32 * 128 + (fetchedL2.stk 2).l2.res * 0x100000
  let off := q / 256 * 2048 + n % 8 * 256 + q % 256
  let y := e.2.map fun l => { l with dirty := if dirty then 1 else 0 }
  updStk 2 (fun x => { x with scrubPos := key / 32 / 16384 + off / 8 * 16,
                              l2 := { x.l2 with lines := sset (fun _ => none) x.l2.lines key y } })
    (fetchedL2.setReg (Reg.STK_MERE_SCRUB 2) 5)
/-- Upsets of the first word of a line: its code word with `n` bits wrong. -/
def lineUpset (s : State) (n : Nat) : Upsets :=
  let p := (s.stk 2).scrubPos
  { sram := [((slabBase 2 (p % 16) + p / 16 * 8) / 8, BitVec.ofNat 72 (2 ^ n - 1))] }

theorem witness_ScrubbersRead :
    let off := setGate 32 { rdy.gate 32 with slabOn := false } scrubbing
    (scrubMeets {} scrubbing = some (0, none) ∧ scrubMeets (lineUpset scrubbing 1) scrubbing = some (1, none) ∧
        scrubMeets (lineUpset scrubbing 2) scrubbing = some (2, none)) ∧
      (off.down = false ∧ off.fld (Reg.STK_MERE_SCRUB 2) F.STK_MERE_SCRUB.PERIOD ≠ 0 ∧
        (off.stk 2).bonds.lost = false ∧ scrubMeets {} off = none) ∧
      (scrubMeets (lineUpset (atLine false) 2) (atLine false) = some (2, some false) ∧
        scrubMeets (lineUpset (atLine true) 2) (atLine true) = some (2, some true)) := by decide +kernel

/-- HBM stack 3 under patrol, at line 0; its page 0 remapped; and what the patrol reads there after the upsets `u`. -/
def patrolled : State := rdy.setReg (Reg.MCm_SCRUB 3) 5
def patrolPage : State := (patrolled.setReg (Reg.MCm_REMAPi_HI 3 5) 0x80000077).setReg (Reg.MCm_REMAPi_LO 3 5) 0
def patrolMeets (u : Upsets) (s : State) : Bool × Bool × Bool :=
  let x := upset u s
  let p := (x.mc 3).patrol
  let v := x.setMc 3 { x.mc 3 with patrol := (p + 1) % 805306368 }
  let a := dramAddr 3 (64 * p)
  (v.bankOff 3 (64 * p) || (v.remaps 3).any fun e => e.1 == p / 64,
    match rsDecode (v.symsAt a) with | .corrected _ _ => true | _ => false, (readLine { scrub := true } a v).2.1)

theorem witness_PatrolReads :
    (∀ s ∈ [patrolled, patrolPage], ∀ u ∈ [({} : Upsets), { dram := [(dramAddr 3 0 / 64, [(3, 7)])] }],
      s.down = false ∧ (upset u s).fld (Reg.MCm_SCRUB 3) F.MCm_SCRUB.HOURS ≠ 0 ∧ (upset u s).hbmExcluded 3 = false) ∧
      patrolMeets {} patrolled = (false, false, false) ∧
      patrolMeets { dram := [(dramAddr 3 0 / 64, [(3, 7)])] } patrolled = (false, true, false) ∧
      (patrolMeets {} patrolPage).1 = true ∧
      (rdy.down = false ∧ ∀ i, i < [1, 2, 0, 5].length → [1, 2, 0, 5].getD i 0 ≤ sget (fun _ => 0) ((rdy.setMc 3
        { rdy.mc 3 with ecs := [(0, 1), (1, 2), (3, 5)] }).mc 3).ecs i) := by decide +kernel

theorem witness_IntegrityRegistersAct :
    let on := rdy.setFlag (Reg.STK_MERE_CHK_CTL 2) F.STK_MERE_CHK_CTL.CHK_EN
    let erl := rdy.setReg Reg.ERL_WR 3
    let gone := rdy.setReg (Reg.STK_MERE_GRETi 2 63) 0x80000105
    let fence := updBonds 2 (fun u => { u with fenced := [(0, 0)] }) on
    (Accepts .svc (Reg.STK_MERE_CHK_CTL 2) on ∧ on.flag (Reg.STK_MERE_CHK_CTL 2) F.STK_MERE_CHK_CTL.CHK_EN = true ∧
        on.noJob = true ∧ on.chkFenced 2 = false) ∧
      (Accepts .svc (Reg.STK_MERE_CHK_CTL 2) fence ∧ fence.chkFenced 2 = true) ∧
      (Accepts .svc (Reg.STK_MERE_CHK_CTL 2) rdy ∧
        rdy.flag (Reg.STK_MERE_CHK_CTL 2) F.STK_MERE_CHK_CTL.CHK_EN = false) ∧
      (Accepts .svc Reg.ERL_RD erl ∧ erl.erlFill = 3 ∧ (3 + 65536 - (erl.reg Reg.ERL_RD).toNat) % 65536 = 3 ∧
        (4 + 65536 - (erl.reg Reg.ERL_RD).toNat) % 65536 = 4) ∧
      Accepts .svc (Reg.STK_MERE_SCRUB 2) rdy ∧
      (Accepts .svc (Reg.STK_MERE_GRETi 2 63) rdy ∧ (rdy.reg (Reg.STK_MERE_GRETi 2 63)).getLsbD 31 = false) ∧
      (Accepts .svc (Reg.STK_MERE_GRETi 2 63) gone ∧ (gone.reg (Reg.STK_MERE_GRETi 2 63)).getLsbD 31 = true) := by
  unfold Accepts; decide +kernel

/-- Remap entry 5 of HBM stack 3 from page 9 to page 0x77, and banks off. -/
def remapped : State := (rdy.setReg (Reg.MCm_REMAPi_HI 3 5) 0x80000077).setReg (Reg.MCm_REMAPi_LO 3 5) 9
def banksOff : State := (rdy.setReg (Reg.MCm_BANK_DIS_HI 3) 0xF0).setReg (Reg.MCm_BANK_DIS_LO 3) 9

theorem witness_RepairRegistersAct :
    let a := Reg.MCm_REMAPi_HI 3 5
    (Accepts .svc a rdy ∧ (0x80000123 : Word32).getLsbD 31 = true ∧ (0x123 : Word32).getLsbD 31 = false ∧
        (rdy.reg a).getLsbD 31 = false) ∧
      (Accepts .svc a remapped ∧ (remapped.reg a).getLsbD 31 = true ∧ remapped.noJob = true) ∧
      (Accepts .svc a (setSt 2 remapped) ∧ (setSt 2 remapped).noJob = false) ∧
      (Accepts .svc (Reg.MCm_BANK_DIS_LO 3) banksOff ∧ banksOff.noJob = true ∧
        Accepts .svc (Reg.MCm_BANK_DIS_HI 3) (setSt 2 banksOff) ∧
        ¬((setSt 2 banksOff).noJob = true ∨
          (setSt 2 banksOff).reg (Reg.MCm_BANK_DIS_HI 3) &&& 0xFFFF &&& ~~~(0 : Word32) = 0)) ∧
      (Accepts .svc (Reg.CRC_u_CFG 47) rdy ∧ Accepts .svc (Reg.CRC_u_CFG 0 + 8) rdy) ∧
      (Accepts .svc (Reg.STK_MERE_SPLIT 2) rdy ∧ rdy.noJob = true ∧ (∀ c, c < 16 → rdy.slotsIdle (32 + c) = true) ∧
        ((8 : Word32).extractLsb' 0 4).toNat ≤ 8 ∧ ¬((9 : Word32).extractLsb' 0 4).toNat ≤ 8) := by
  unfold Accepts; decide +kernel

/-! ### Vertical bonds -/

def bonded (f : BondUnit → BondUnit) : State := updBonds 2 f rdy

theorem witness_BondsAreTestedAndLost :
    let looping := bonded fun u => { u with loop := some (5, 0) }
    let masked := bonded fun u => { u with masked := [(6551, some 2)] }
    let u := fun (s : State) => (s.stk 2).bonds
    (Accepts .svc (Reg.STK_BOND_LB 2) rdy ∧ rdy.noJob = true ∧ (u rdy).loop = none ∧ rdy.down = false ∧
        (u rdy).lost = false ∧ sget (fun _ => none) (u rdy).masked 6551 = none) ∧
      (Accepts .svc (Reg.STK_BOND_LB 2) looping ∧ (u looping).loop = some (5, 0)) ∧
      (masked.down = false ∧ (u masked).lost = false ∧ sget (fun _ => none) (u masked).masked 6551 = some 2) ∧
      (updBoot (fun b => { b with recDue := some 7 }) rdy).boot.recDue = some 7 := by unfold Accepts; decide +kernel

/-! ### Ozmond Link -/

/-- Link 9 in a state of training, its port on. -/
def linkIn (st : LinkState) : State :=
  onLink { Link.reset with state := st, since := 777, tries := [[0, 1], [3]], tryLanes := [0, 1, 2, 3], gotAcked := true,
                           sentAcked := true, identLeft := 3 } member
def portOn (s : State) : State := s.setReg (Reg.LNKp_CTL 2) 0xB
def portOff (s : State) : State := s.setReg (Reg.LNKp_CTL 2) 0xA

theorem witness_LinksTrainAndFall :
    (∀ st ∈ [LinkState.detect, .train, .align, .down, .active],
      (linkIn st).down = false ∧ ((linkIn st).link 9).state = st ∧ (linkIn st).lands.intOsc = false) ∧
      ((linkIn .train).link 9).tries = [0, 1] :: [[3]] ∧
      (((onLink { Link.reset with state := .train } member).link 9).tries = []) ∧
      (∀ s ∈ [portOn (linkIn .active), portOff (linkIn .disabled)], Accepts .svc (Reg.LNKp_CTL 2) s ∧
        s.boot.exclPorts.contains 2 = false ∧ 9 / 4 = 2 ∧ 9 % 4 < s.linksOf 2) ∧
      ((portOff (linkIn .disabled)).portOn 2 = false ∧ (9 : Word32).getLsbD 0 = true ∧ (9 : Word32).getLsbD 4 = false ∧
        ((portOff (linkIn .disabled)).link 9).state = .disabled) ∧
      ((portOn (linkIn .active)).portOn 2 = true ∧ (8 : Word32).getLsbD 0 = false) := by unfold Accepts; decide +kernel

/-- Identities of revision 1 and of revision 9. -/
def identMsg (rev : Nat) : Msg := mk 0x10 7 (bodyPut 42 rev + bodyPut 43 rev)
def atIdent (rev : Nat) : State := inb (identMsg rev) (linkIn .ident)

theorem witness_LinksIdentify :
    ((linkIn .ident).down = false ∧ ((linkIn .ident).link 9).state = .ident ∧ ((linkIn .active).link 9).state = .active ∧
        ((linkIn .active).link 9).identLeft ≠ 0 ∧ ((linkIn .ident).link 9).gotAcked = true ∧
        ((linkIn .ident).link 9).sentAcked = true) ∧
      (∀ rev ∈ [1, 9], Takes 0x10 l9 (identMsg rev) (atIdent rev) (took 0x10 l9 (atIdent rev)) ∧ l9.val < 32 ∧
        ((took 0x10 l9 (atIdent rev)).link 9).state = .ident) ∧
      min ((identMsg 9).bodyAt 43 1) ((took 0x10 l9 (atIdent 9)).fld Reg.LNK_REV F.LNK_REV.MAX) <
        max ((identMsg 9).bodyAt 42 1) ((took 0x10 l9 (atIdent 9)).fld Reg.LNK_REV F.LNK_REV.MIN) ∧
      Accepts .svc (Reg.LNK_RTd_HI 4095) member := by
  refine ⟨by decide +kernel, ?_, by decide +kernel, by unfold Accepts; decide +kernel⟩
  intro rev h
  simp only [List.mem_cons, List.not_mem_nil, or_false] at h
  rcases h with rfl | rfl <;> exact ⟨takes_sound (by decide +kernel), by decide +kernel⟩

/-- A frame with sequence number `seq` whose check is right, two flits, and a link with frames to send again. -/
def plainFrame (seq : Nat) (slots : List (Option Flit)) : Frame :=
  { slots := slots, seq := seq, ackseq := 3, credit := [1, 2, 3, 4] }
def frameOf (seq : Nat) (slots : List (Option Flit)) : Frame :=
  { plainFrame seq slots with
    crc := (plainFrame seq slots).check ((linkIn .active).crcPkg 9 (linkIn .active).pkgId) }
def twoFlits : List (Option Flit) :=
  [some (.head (mk 3 7 0)), some (.data (List.replicate 64 3))] ++ List.replicate 14 none
def replaying : State :=
  updLink 9 (fun x => { x with replay := [(55, plainFrame 11 twoFlits), (60, plainFrame 12 twoFlits)], resend := [12],
                               nakWait := true, replays := [(12, 2)] }) (linkIn .active)

theorem frameOf_good (seq : Nat) (slots : List (Option Flit)) :
    (linkIn .active).crcFits 9 (frameOf seq slots) = true := by
  have h : ((frameOf seq slots).check ((linkIn .active).crcPkg 9 (linkIn .active).pkgId) == (frameOf seq slots).crc) =
      true := beq_self_eq_true _
  simp [State.crcFits, h]

theorem witness_FramesCarryFlits :
    let x := fun (s : State) => s.link 9
    let again := fun (s : State) => (x s).resend.findSome? fun q => (x s).replay.find? fun f => f.2.seq == q
    ((linkIn .active).down = false ∧ (x (linkIn .active)).state.framed = true ∧ again (linkIn .active) = none ∧
        (x (linkIn .active)).expect = 0) ∧
      (replaying.down = false ∧ (x replaying).state.framed = true ∧ again replaying = some (60, plainFrame 12 twoFlits) ∧
        sget (fun _ => 0) (x replaying).replays 12 < 7 ∧ (x replaying).nakWait = true ∧
        (x replaying).replay = (55, plainFrame 11 twoFlits) :: [(60, plainFrame 12 twoFlits)]) ∧
      (plainFrame 7 (List.replicate 16 none)).null = true ∧ (plainFrame 0 twoFlits).null = false := by decide +kernel

/-- A WRITE, READ, RDRESP or SEND of package 9 on the active link, and an answer to channel 5 of stack 2. -/
def dataMsg (type a n : Nat) : Msg :=
  { mk type 7 0 with addr := a, len := n, data := if type = 2 then [] else (List.range n).map (BitVec.ofNat 8), tag := 0x45 }
def ackMsg (type : Nat) : Msg := mk type 7 (bodyPut 36 0x45 + 5)
def atLink (m : Msg) : State := inb m (linkIn .active)
/-- The same with role 3 held by this package, and in a job. -/
def withRole (s : State) : State := { s with roles := { s.roles with active := [(3, 0x80001007)] } }
def tookIn (f : State → State) (m : Msg) : State := took m.type l9 (f (atLink m))
/-- Messages for package 99, with hops left and with none, and one of a reserved type. -/
def farMsg (hops : Nat) : Msg := { mk 1 99 0 with hops := hops }
def routed (s : State) : State := (s.setReg (Reg.LNK_RTd_LO 99) 0xFFFFFFFF).setReg (Reg.LNK_RTd_HI 99) 0x29
def goesOn (f : State → State) (hops : Nat) : Option (Msg × State) :=
  takeMsg 9 (fun m => !(f (atLink (farMsg hops))).mine m) (f (atLink (farMsg hops)))

theorem witness_MessagesAreServed :
    (∀ m ∈ [dataMsg 1 memA 64, { dataMsg 4 memA 64 with role := 3 }, dataMsg 2 memA 64],
      Takes m.type l9 m (withRole (atLink m)) (tookIn withRole m) ∧ (tookIn withRole m).refuseReason m = none ∧
        (tookIn withRole m).ingressErr m.addr 64 = none) ∧
      (∀ m ∈ [dataMsg 1 0xE000000000 64, { dataMsg 4 0xE000000000 64 with role := 3 }],
        Takes m.type l9 m (withRole (atLink m)) (tookIn withRole m) ∧ (tookIn withRole m).refuseReason m = none ∧
          ((tookIn withRole m).ingressErr m.addr m.data.length).isSome) ∧
      (∀ m ∈ [dataMsg 4 memA 64, { dataMsg 2 memA 64 with src := 55 }], Takes m.type l9 m (setSt 2 (atLink m))
        (tookIn (setSt 2) m) ∧ ((tookIn (setSt 2) m).refuseReason m).isSome) ∧
      (∀ m ∈ [dataMsg 3 0 64, ackMsg 5, ackMsg 6], Takes m.type l9 m (atLink m) (tookIn id m)) ∧
      ((dataMsg 3 0 64).tag % 2048 < 0x300 ∧ (ackMsg 5).bodyAt 36 4 % 2048 < 0x300 ∧
        (ackMsg 6).bodyAt 36 4 % 2048 < 0x300) ∧
      ((atLink (farMsg 0)).down = false ∧ (goesOn id 0).isSome ∧ (goesOn routed 3).isSome ∧
        (goesOn routed 3).any (fun x => match x.2.route 99 with | .link e => e == 9 && x.2.typeOn e 1 | _ => false) =
          true ∧
        (goesOn id 3).any (fun x => match x.2.route 99 with | .link _ => false | _ => true) = true) ∧
      (takeMsg 9 (fun m => (atLink (mk 9 7 0)).mine m && !knownType m.type) (atLink (mk 9 7 0))).isSome := by
  refine ⟨?_, ?_, ?_, ?_, by decide +kernel, by decide +kernel, by decide +kernel⟩ <;>
    (intro m h
     simp only [List.mem_cons, List.not_mem_nil, or_false] at h
     rcases h with rfl | rfl | rfl) <;>
    first
    | exact takes_sound (by decide +kernel)
    | exact ⟨takes_sound (by decide +kernel), by decide +kernel⟩

/-! ### Power -/

def gated (v : Word32) (s : State) : State := s.setReg (Reg.CORE_PWR_CTL 2 5) v

theorem witness_DomainsGoOffAndOn :
    let refused := fun (g b : Bool) (s : State) =>
      (g && !s.bit (Reg.CORE_PWR_CTL 2 5) 0 && !(!((s.core 37).anySlot fun x => x.state != .empty) && s.noJob)) ||
        (b && !g) || !s.stackLive 2
    let closing := setStaged 2 [(true, 5), (false, 5)]
      (setGate 37 { coreOn := false, slabOn := true, slabClosing := true } (gated 3 rdy))
    (Accepts .svc (Reg.CORE_PWR_CTL 2 5) rdy ∧ refused true true rdy = false ∧ refused false true rdy = true ∧
        rdy.bit (Reg.CORE_PWR_CTL 2 5) 0 = false) ∧
      (Accepts .svc (Reg.CORE_PWR_CTL 2 5) halted5 ∧ refused true false halted5 = true) ∧
      (refused false false (gated 3 rdy) = false ∧ (gated 3 rdy).bit (Reg.CORE_PWR_CTL 2 5) 0 = true ∧
        (gated 3 rdy).bit (Reg.CORE_PWR_CTL 2 5) 1 = true) ∧
      (closing.down = false ∧ (closing.gate 37).slabClosing = true ∧ closing.staged 2 = (true, 5) :: [(false, 5)]) ∧
      (setStaged 2 [(false, 15)] rdy).staged 2 = (false, 15) :: [] := by unfold Accepts; decide +kernel

/-- The target of a core's domain is above 30 mV whatever the trim, so a sensor at 0 mV engages its clamp. -/
theorem witness_PowerIsSupervised :
    (rdy.down = false ∧ (rdy.domain 37).1 = true ∧ rdy.power.clamped.contains 37 = false ∧
      ((setGate 37 { coreOn := false, slabOn := false } rdy).domain 37).1 = false) ∧
      (∃ v ∈ [0], v + 30 < (rdy.domain 37).2) ∧
      ¬∃ v ∈ [(rdy.domain 37).2], v + 30 < (rdy.domain 37).2 := by
  have ht : (rdy.domain 37).2 = nominalMv rdy.power.step - Config.vfTrim rdy.power.step % 41 := rfl
  have hn : 71 < nominalMv rdy.power.step := by decide +kernel
  have hm := Nat.mod_lt (Config.vfTrim rdy.power.step) (show 41 > 0 by decide)
  refine ⟨by decide +kernel, ⟨0, by simp, by omega⟩, ?_⟩
  rintro ⟨v, hv, h⟩
  simp only [List.mem_cons, List.not_mem_nil, or_false] at hv
  omega

/-- Stack 3 held back since 5 (in units of 1/8 ns), core 37's clock skipping since 7 and its clamp calm since 9. -/
def supervised : State :=
  { rdy with now := 500, power := { rdy.power with hold := [3], holdFrom := [(3, some 5)], clamped := [37],
                                                   skipFrom := [(37, some 7)], calmFrom := [(37, some 9)] } }

theorem witness_HeldBackAndClamped :
    supervised.down = false ∧ sget (fun _ => none) supervised.power.holdFrom 3 = some 5 ∧
      supervised.power.clamped.contains 37 = true ∧ sget (fun _ => none) supervised.power.skipFrom 37 = some 7 ∧
      (supervised.domain 37).1 = true ∧ sget (fun _ => none) supervised.power.calmFrom 37 = some 9 ∧
      9 + 128 ≤ supervised.now ∧ (∀ v ∈ [(supervised.domain 37).2], (supervised.domain 37).2 ≤ v + 30) ∧
      swf (fun _ => 0) supervised.power.leak = true := by
  refine ⟨by decide +kernel, by decide +kernel, by decide +kernel, by decide +kernel, by decide +kernel,
    by decide +kernel, by decide +kernel, ?_, by decide +kernel⟩
  simp

/-- A coordinator in a job, with a report of each member, and the same in a round. -/
def reported (need : Nat) : LendReport := ⟨0, 5, 20, 100, 300, need, 50⟩
def lender : State :=
  let s := ((asRoot (setSt 2 (linkIn .active))).setReg Reg.PWR_LEND_CFG 0x00FF800A).setReg (Reg.LNK_RTd_HI 9) 0x29
  { s with power := { s.power with ctl := 0xFFF, reports := [(7, some (reported 10)), (9, some (reported 7))], pool := 15 } }
def aRound : LendRound := { bound := 1, recv := [(7, 10), (9, 7)], decs := [], phase2 := false }
def lending : State := { lender with power := { lender.power with round := some aRound } }
def lendMsg (kind bound : Nat) : Msg := mk 0x15 7 (bodyPut 32 kind + bodyPut 40 bound + bodyPut 52 77)
def atLend (kind bound : Nat) : State := inb (lendMsg kind bound) lending

theorem witness_PowerIsLent :
    (lender.down = false ∧ lender.inJob = true ∧ lender.power.reported = false ∧ lender.canSend lender.rootPkg 3 = true) ∧
      (lender.coordinator = true ∧ lender.power.round = none) ∧
      (lending.power.round = some aRound ∧ aRound.phase2 = false ∧ lending.coordinator = true ∧
        aRound.bound = lending.tick.index + 1 ∧ 0 ≤ lending.power.pool) ∧
      (∀ k ∈ [1, 2, 3], ∀ b ∈ [0, 1], TakesKind 0x15 k l9 (lendMsg k b) (atLend k b) (tookKind 0x15 k l9 (atLend k b)) ∧
        (tookKind 0x15 k l9 (atLend k b)).refuseReason (lendMsg k b) = none) ∧
      ((lendMsg 2 0).bodyAt 40 8 ≤ (tookKind 0x15 2 l9 (atLend 2 0)).tick.index ∧
        ¬(lendMsg 3 1).bodyAt 40 8 ≤ (tookKind 0x15 3 l9 (atLend 3 1)).tick.index) := by
  refine ⟨by decide +kernel, by decide +kernel, by decide +kernel, ?_, by decide +kernel⟩
  intro k hk b hb
  simp only [List.mem_cons, List.not_mem_nil, or_false] at hk hb
  rcases hk with rfl | rfl | rfl <;> rcases hb with rfl | rfl <;>
    exact ⟨takesKind_sound (by decide +kernel), by decide +kernel⟩

/-! ### Thermal -/

def hot (n : Int) : List DieRead := [⟨n, []⟩]
def hbmFailed (n : Nat) : State := { rdy with thermal := { rdy.thermal with hbmFails := [(3, n)] } }
/-- A package held in cold reset with VIN_CORE applied. -/
def heldCold : State :=
  { updBoot (fun b => { b with resetting := some .cold }) State.reset with lands := { State.reset.lands with vinOk := true } }
/-- Die 48 calibrated at boot, with the offset `off` of its first oscillator, and a reading of that oscillator. -/
def calibrated (off : Int) : State :=
  { rdy with thermal := { rdy.thermal with dies := [(48, { Die.reset with boot := some 0, offs := [(0, off)] })] } }
def oscAt (n : Nat) : DieRead := { diode := 0, osc := [n] }

theorem witness_TemperaturesAct :
    let t0 := fun (n : Int) =>
      let v := forEach ((diesOf 33).zip (hot n)) (fun (d, r) s => sampleDie d r s) rdy
      ((diesOf 33).map fun d => (v.die d).reading).foldl max (v.die ((diesOf 33).headD 0)).reading
    (heldCold.thermal.shut = false ∧ heldCold.lands.vinOk = true ∧ heldCold.down = true ∧
        (hot 472).length = (diesOf 33).length ∧ (57, ⟨472, []⟩) ∈ (diesOf 33).zip (hot 472) ∧
        (heldCold.die 57).diodeBad = false) ∧
      (rdy.down = false ∧ rdy.lands.vinOk = true ∧ (hot 0).length = (diesOf 33).length ∧ t0 471 < 472 ∧
        472 ≤ t0 472) ∧
      ((3 : Fin 40).val < 24 ∧ (rdy.lv 3).level = 0) ∧ ((439 : Int) < 440) ∧
      (sget (fun _ => 0) (hbmFailed 1).thermal.hbmFails 3 < 2 ∧ 2 ≤ sget (fun _ => 0) (hbmFailed 2).thermal.hbmFails 3) ∧
      ((markBroken 3 ⟨0, []⟩ rdy).die 3).boot = none := by decide +kernel

/-- A reading at the bottom of its oscillator's factory range, which the offset makes agree with the diode. -/
theorem witness_CalibrationMovesOffsets : ∃ off n,
    let v := markBroken 48 (oscAt n) (calibrated off)
    (calibrated off).down = false ∧ (v.die 48).diodeBad = false ∧ (v.die 48).boot.isSome = true ∧
      ((v.oscReads 48 (oscAt n)).filter fun o => decide (o.1 < 2) && !(v.die 48).broken.contains o.1) = [(0, n)] ∧
      v.oscEighths 48 0 n = 2 * (oscAt n).diode := by
  let n := (Config.oscRange 48 0).1
  let base := Config.oscTemp 48 0 ((calibrated 0).oscMv 48 0) n + Config.bootOffset 0 48 0
  refine ⟨-base, n, ?_⟩
  have hr : (calibrated (-base)).oscReads 48 (oscAt n) = [(0, n)] := rfl
  have hd : (calibrated (-base)).die 48 = { Die.reset with boot := some 0, offs := [(0, -base)] } := rfl
  have he : (calibrated (-base)).oscEighths 48 0 n = 0 := by
    have ho : (calibrated (-base)).oscOffset 48 0 = Config.bootOffset 0 48 0 + -base := rfl
    have hv : (calibrated (-base)).oscMv 48 0 = (calibrated 0).oscMv 48 0 := rfl
    unfold State.oscEighths
    rw [ho, hv]
    simp only [base]
    omega
  have hm : markBroken 48 (oscAt n) (calibrated (-base)) = calibrated (-base) := by
    have h1 : ¬n < (Config.oscRange 48 0).1 := by simp [n]
    have h2 : ¬(Config.oscRange 48 0).1 + (Config.oscRange 48 0).2 < n := by simp [n]
    have h0 : (oscAt n).diode = 0 := rfl
    simp [markBroken, hr, hd, forEach, State.oscTemp, he, h1, h2, h0, Die.reset]
  simp only [hm, hd, hr]
  exact ⟨rfl, rfl, rfl, rfl, by simp [he, oscAt]⟩

/-! ### Claim queues and stop points -/

/-- Claim queue 1 of stack 2 for core 5, and core 37 with running groups and a stop point at five instructions. -/
def claims (cfg : Nat) : State :=
  let s := (rdy.setReg (Reg.STK_CLAIMq_CFG 2 1) (BitVec.ofNat 32 cfg)).setReg (Reg.STK_CLAIMq_CORES 2 1) 0x20
  { s with stks := [(2, { rdy.stk 2 with claims := [(1, { ClaimQ.reset with returned := 3 })] })] }
def stopAt : State :=
  setSt 2 ((updCore 37 (fun c => { (c.setSlot 1 slot0).setSlot 2 { slot0 with state := .tickWait } with stopCount := 4 })
    ((rdy.setReg (Reg.CORE_STOP_CTL 2 5) 3).setReg (Reg.CORE_STOP_CNT 2 5) 5)).setFlag Reg.TICK_STOP_CTL
      F.TICK_STOP_CTL.IN_EN)
/-- The same at the instruction that is the K-th. -/
def stopHit : State := updCore 37 (fun c => { c with stopNow := true }) stopAt
def stopped : State := nx (execCoreStopHit ⟨2, 5⟩ stopHit)

theorem witness_ClaimsAndStopsAct :
    let isOpen := fun (s : State) => s.claimN 2 1 ≠ 0 ∧ s.stackExcluded 2 = false ∧ s.stackAdmitted 2 = true ∧
      s.stackLive 2 = true
    let s := claims 0x40000
    (s.down = false ∧ isOpen s ∧ bitOf (s.fld (Reg.STK_CLAIMq_CORES 2 1) F.STK_CLAIMq_CORES.CORES) 5 = true ∧
        s.exact = false ∧ s.flag (Reg.STK_CLAIMq_CFG 2 1) F.STK_CLAIMq_CFG.KIND = false ∧
        (s.claimQ 2 1).returned + 1 = s.claimN 2 1) ∧
      (¬isOpen (claims 0) ∧ (claims 0).down = false) ∧
      ((claims 0).down = false ∧ bitOf ((claims 0).fld (Reg.STK_CLAIMq_CORES 2 1) F.STK_CLAIMq_CORES.CORES) 6 = false) ∧
      Accepts .svc (Reg.STK_CLAIMq_STAT 2 1) s ∧
      (Accepts .svc (Reg.STK_CLAIMq_CFG 2 1 + 4 * 0) s ∧ s.noJob = true ∧
        ((0x14 : Word32).extractLsb' 1 4).toNat ≤ 10 ∧ ¬((0x16 : Word32).extractLsb' 1 4).toNat ≤ 10) ∧
      (stopAt.down = false ∧ stopAt.stopOn 37 = true ∧
        stopAt.fld (Reg.CORE_STOP_CTL 2 5) F.CORE_STOP_CTL.SLOT = 1 ∧
        (stopAt.core 37).stopCount + 1 = (stopAt.reg (Reg.CORE_STOP_CNT 2 5)).toNat ∧
        (stopAt.core 37).stopNow = false) ∧
      (stopHit.down = false ∧ (stopHit.core 37).stopNow = true) ∧
      (stopped.down = false ∧ (stopped.core 37).stopDrain = true ∧ stopped.coreDrained 37 = true) := by
  unfold Accepts; decide +kernel

/-! ### Resets -/

theorem witness_ColdResetsClear : rdy.thermal.shut = false ∧
    ({ rdy with thermal := { rdy.thermal with shut := true } } : State).thermal.shut = true := by decide +kernel

theorem witness_WarmResetsRestart :
    let held := updBoot (fun b => { b with resetting := some .warm }) rdy
    let early := updBoot (fun b => { b with resetting := none }) State.reset
    (rdy.down = false ∧ rdy.warmAccepted = true ∧ Path.svc ≠ .group ∧ rdy.stage = 8 ∧
        rdy.boot.resetting ≠ some .warm) ∧
      (held.down = false ∧ held.boot.resetting = some .warm) ∧
      (early.down = false ∧ early.warmAccepted = false ∧ early.stage ≠ 8) ∧
      (let s := { rdy with lands := { rdy.lands with warmN := true } }
       s.down = false ∧ s.warmAccepted = true ∧ s.lands.warmN = true) := by decide +kernel

/-! ### Bring-up and the mailbox -/

def stage (n : Nat) (s : State) : State := s.setFld Reg.GCTL_BOOT F.GCTL_BOOT.STAGE n

/-- The flash of a new package reads all ones: no image of it has the magic number. -/
theorem imgCheck_reset (h : ImageHome) (n : Nat) : State.reset.imgCheck h n ≠ 0 := by
  have hs : State.reset.imgShape h n = false := by
    have hm : numAt (State.reset.imgBytes h 0 256) 0 4 ≠ 0x565A4D53 := by
      have hl : State.reset.imgBytes h 0 256 = (List.range 256).map fun _ => if h = .ram then 0 else 0xFF := by
        have hf : State.reset.boot.flash = [] := rfl
        have hr : State.reset.boot.ram = [] := rfl
        cases h <;> exact List.map_congr_left fun _ _ => by simp [hf, hr, sget, flashDefault]
      rw [hl]
      split <;> decide
    simp [State.imgShape, hm]
  unfold State.imgCheck
  simp only [hs, Bool.not_false, if_true]
  split <;> decide

theorem witness_BringUpAdvances :
    (heldCold.boot.resetting = some .cold ∧ heldCold.thermal.shut = false ∧ heldCold.lands.vinOk = true) ∧
      (let s := stage 3 (updBoot (fun b => { b with trained := [0, 1, 2, 4, 5, 6, 7] }) rdy)
       s.down = false ∧ s.stage = 3 ∧ s.boot.trained.contains 3 = false) ∧
      ((stage 4 rdy).down = false ∧ (stage 4 rdy).stage = 4) ∧
      (let s := stage 6 rdy
       s.down = false ∧ s.boot.katDone = true ∧ s.boot.postKat = true ∧ s.stage = 6 ∧ s.boot.trained.length = 8 ∧
         bitOf s.boot.flags 1 = false) ∧
      (let s := stage 6 (updBoot (fun b => { b with flags := 2 }) rdy)
       s.stage = 6 ∧ bitOf s.boot.flags 1 = true ∧ s.boot.jobDone = false ∧ s.boot.autoStep = none ∧ s.noJob = true ∧
         s.jobGroup = none) := by decide +kernel

/-- The mailbox with its first three arguments. -/
def mb (a0 a1 a2 : Nat) (s : State) : State :=
  ((s.setReg (Reg.SVC_MB_ARGk 0) (BitVec.ofNat 32 a0)).setReg (Reg.SVC_MB_ARGk 1) (BitVec.ofNat 32 a1)).setReg
    (Reg.SVC_MB_ARGk 2) (BitVec.ofNat 32 a2)

theorem witness_MailboxCommandsRun :
    let s := mb 1 100 0 (updBoot (fun b => { b with imgSlot := some 1 }) rdy)
    let far := mb 2 100000000 0 rdy
    let ram := mb 0 4096 1 (stage 15 rdy)
    (s.down = false ∧ s.pathOpen .svc Reg.SVC_MB_CMD = true ∧ s.boot.resetting = none ∧
        s.flag Reg.SVC_MB_STAT F.SVC_MB_STAT.BUSY = false ∧ s.boot.imgSlot = some 1 ∧ s.stage ≠ 15 ∧ s.noJob = true ∧
        s.boot.autoStep = none) ∧
      (far.boot.imgSlot = none ∧ far.mbArg 0 = 2 ∧ far.mbArg 1 = 100000000) ∧
      (ram.stage = 15 ∧ ram.mbArg 2 = 1 ∧ ram.mbArg 1 ≤ 4096) ∧ (mb 0 4096 0 (stage 15 rdy)).mbArg 2 ≠ 1 ∧
      (setSt 2 rdy).noJob = false ∧
      (rdy.setFlag Reg.SVC_MB_STAT F.SVC_MB_STAT.BUSY).flag Reg.SVC_MB_STAT F.SVC_MB_STAT.BUSY = true := by
  decide +kernel

/-! ### Modes, roles and faults -/

theorem witness_ModesAndIdentityWrite :
    Accepts .svc Reg.GCTL_LOCK rdy ∧ Accepts .svc Reg.GCTL_PKG_ID member ∧
      (Accepts .svc Reg.GCTL_MODE rdy ∧ rdy.noJob = true ∧
        F.GCTL_MODE.PAIR.get 0xF ≠ rdy.fld Reg.GCTL_MODE F.GCTL_MODE.PAIR ∧
        F.GCTL_MODE.PAIR.get 0 = rdy.fld Reg.GCTL_MODE F.GCTL_MODE.PAIR) ∧
      (Accepts .svc Reg.GCTL_MODE (setSt 1 rdy) ∧ (setSt 1 rdy).noJob = false) := by unfold Accepts; decide +kernel

theorem witness_RolesAreStagedAndCommitted :
    let bank := (rdy.setReg Reg.GCTL_ROLE_SEL 0xFFFE).setFlag Reg.GCTL_ROLE_SEL F.GCTL_ROLE_SEL.BANK
    let armed := { rdy with roles := { rdy.roles with commit := some (5, 6) } }
    let at5 := { rdy.setReg Reg.GCTL_ROLE_CMT_LO 5 with tick := { rdy.tick with started := true, index := 5 } }
    (Accepts .svc Reg.GCTL_ROLE_VAL bank ∧ bank.flag Reg.GCTL_ROLE_SEL F.GCTL_ROLE_SEL.BANK = true ∧
        bank.fld Reg.GCTL_ROLE_SEL F.GCTL_ROLE_SEL.ROLE = 0xFFFE ∧ bank.roles.commit.isSome = false ∧
        F.GCTL_ROLE_VAL.KIND.get 0x80001007 ≠ 0 ∧ F.GCTL_ROLE_VAL.KIND.get 0x80000007 = 0) ∧
      (rdy.flag Reg.GCTL_ROLE_SEL F.GCTL_ROLE_SEL.BANK = false) ∧
      (Accepts .svc Reg.GCTL_ROLE_CMT_HI armed ∧ armed.roles.commit.isSome = true) ∧
      (Accepts .svc Reg.GCTL_ROLE_CMT_HI at5 ∧ at5.roles.commit = none ∧ at5.tick.started = true ∧
        (at5.reg Reg.GCTL_ROLE_CMT_LO).toNat = at5.tick.index) ∧
      (rdy.roles.commit = none ∧ rdy.tick.started = false) ∧
      (Accepts .svc Reg.GCTL_MEMB_VAL_HI rdy ∧ Accepts .svc Reg.GCTL_MEMB_VAL_LO (setSt 2 rdy) ∧ rdy.noJob = true ∧
        (setSt 2 rdy).noJob = false) := by unfold Accepts; decide +kernel

/-- Fault reports of 64 subjects; a FAULT message. -/
def faulted (n : Nat) : State := (List.range n).foldl (fun s i => report ⟨i, 5, 3, none, false⟩ s) member
def faultMsg (src : Nat) : Msg := { mk 0x16 7 (bodyPut 32 0x12345 + bodyPut 36 9) with src := src }
def atFault (src : Nat) : State := inb (faultMsg src) (inJob none)

theorem witness_FaultsAreRecorded :
    ((faulted 1).findRec 0x12345007 63 = none ∧ (faulted 1).freeRec = some 1) ∧
      (member.findRec 0x12345007 5 = none ∧ member.freeRec = some 0) ∧
      (∀ src ∈ [9, 55], Takes 0x16 l9 (faultMsg src) (atFault src) (took 0x16 l9 (atFault src))) ∧
      ((took 0x16 l9 (atFault 9)).refuseReason (faultMsg 9) = none ∧
        ((took 0x16 l9 (atFault 55)).refuseReason (faultMsg 55)).isSome) ∧
      (Accepts .svc (Reg.FLT_RECi_SUBJ 0 + 4) (faulted 1) ∧ Accepts .svc (Reg.FLT_FLOODc_SUBJ 63 + 4) (faulted 1)) := by
  refine ⟨by decide +kernel, by decide +kernel, ?_, by decide +kernel, by unfold Accepts; decide +kernel⟩
  intro src h
  simp only [List.mem_cons, List.not_mem_nil, or_false] at h
  rcases h with rfl | rfl <;> exact takes_sound (by decide +kernel)

/-! ### Management messages and the host -/

def mgmtMsg (kind : Nat) : Msg := mk 0x17 7 (bodyPut 32 kind + bodyPut 36 4 + bodyPut 40 3)
def atMgmt (ok : Bool) (kind : Nat) : State :=
  inb (mgmtMsg kind) (updBoot (fun b => { b with mgmtAllow := if ok then [9] else [] }) (linkIn .active))

theorem witness_ManagementMessagesAreServed : ∀ ok ∈ [true, false], ∀ k ∈ [1, 2, 3, 4],
    TakesKind 0x17 k l9 (mgmtMsg k) (atMgmt ok k) (tookKind 0x17 k l9 (atMgmt ok k)) ∧
      (tookKind 0x17 k l9 (atMgmt ok k)).refuseReason (mgmtMsg k) = none ∧
      (tookKind 0x17 k l9 (atMgmt ok k)).boot.mgmtAllow.contains (mgmtMsg k).src = ok ∧
      (k = 1 → (readAccess .mgmt hostClaimer ((mgmtMsg k).bodyAt 36 4 % 2 ^ 26) 4
        (sendAck l9 (mgmtMsg k) (tookKind 0x17 k l9 (atMgmt ok k)))).1.isSome) := by
  intro ok ho k hk
  simp only [List.mem_cons, List.not_mem_nil, or_false] at ho hk
  rcases ho with rfl | rfl <;> rcases hk with rfl | rfl | rfl | rfl <;>
    exact ⟨takesKind_sound (by decide +kernel), by decide +kernel⟩

/-- Window 3 open on the scratch of core 37, on nothing, and closed. -/
def window (base : Nat) : State :=
  rdy.setReg (Reg.GCTL_HWINw 3) (F.GCTL_HWINw.EN.put (F.GCTL_HWINw.BASE.put 0 base) 1)

theorem witness_HostWindowsTranslate :
    let off : Word32 := BitVec.ofNat 32 (3 * 2 ^ 30 + memA % 2 ^ 30)
    let at_ := fun (s : State) =>
      F.GCTL_HWINw.BASE.get (s.reg (Reg.GCTL_HWINw (off.toNat / 2 ^ 30))) * 2 ^ 30 + off.toNat % 2 ^ 30
    let on := fun (s : State) => F.GCTL_HWINw.EN.get (s.reg (Reg.GCTL_HWINw (off.toNat / 2 ^ 30)))
    let mapped := window (memA / 2 ^ 30)
    (rdy.down = false ∧ rdy.pcie.up = true ∧ on rdy ≠ 1) ∧
      (mapped.down = false ∧ mapped.pcie.up = true ∧ on mapped = 1 ∧ mapped.svcErr (at_ mapped) 1 = none) ∧
      (on (window 0x380) = 1 ∧ ((window 0x380).svcErr (at_ (window 0x380)) 1).isSome) := by decide +kernel

theorem witness_HostCommandsAct :
    rdy.down = false ∧ (rdy.pathOpen .pcie 0x1001 = true ∧ crosses 0x1001 7 = false ∧ crosses 0x1FC0 64 = false) ∧
      (rdy.pathOpen .smb 0x1FFD = true ∧ crosses 0x1FFD 7 = true ∧
        rdy.flag Reg.GCTL_ACC_ERR_HI F.GCTL_ACC_ERR_HI.VALID = false) ∧
      (rdy.pathOpen .mspi 0x3FFFFFC = true ∧ 0x3FFFFFC % 4 = 0) := by decide +kernel

/-! ### Management interfaces and clocks -/

theorem witness_SmbTransactionsAreServed :
    let x := fun (count : Nat) (bytes : List Byte) => ({ count := count, bytes := bytes } : SmbXfer)
    let pec := fun (x : SmbXfer) (s : State) =>
      s.smb.i3c = true ∨ s.flag Reg.MSMB_CFG F.MSMB_CFG.PEC_EN = false ∨ x.pecOk = true
    let i3c := { rdy with smb := { rdy.smb with i3c := true } }
    let pecOn := rdy.setFlag Reg.MSMB_CFG F.MSMB_CFG.PEC_EN
    rdy.down = false ∧ rdy.smb.i3c = false ∧ pec (x 4 [4, 0, 0, 0]) rdy ∧ ¬pec { x 4 [] with pecOk := false } pecOn ∧
      pec { x 4 [] with pecOk := false } i3c ∧ (x 4 [4, 0, 0, 0]).bytes.length = 4 ∧
      (readAccess .smb hostClaimer (rdy.smbOff 2) 4 rdy).1.isSome ∧
      (readAccess .smb hostClaimer (rdy.smbOff 5) 8 rdy).1.isSome ∧
      (writeAccess .smb (rdy.smbOff 3) [4, 0, 0, 0] rdy).1 = true := by decide +kernel

theorem witness_MspiFramesAreServed :
    let n := fun (len : Nat) => 4 * (len + 1)
    8 * (8 + n 15) = 576 ∧ crosses (4 * 0x3F0) (n 15) = false ∧ crosses (4 * 0x3F1) (n 15) = true ∧
      (readAccess .mspi hostClaimer (4 * 1) (n 15) rdy).1.isSome ∧
      (writeAccess .mspi (4 * 1) (leBytes 4 3) rdy).1 = true := by decide +kernel

theorem witness_TestPortLoads :
    ({ rdy with thermal := { rdy.thermal with shut := true } } : State).thermal.shut = true ∧
      ∀ b ∈ [true, false], let s := { rdy with lands := { rdy.lands with rstN := b } }
        s.thermal.shut = false ∧ s.lands.rstN = b := by decide +kernel

theorem witness_ClocksAreLostAndReturn : rdy.down = false := by decide +kernel

/-! ### Invariants -/

theorem witness_CommandsLeaveTheQueue :
    ∃ t, exec .jtagTrst rdy = .next t := ⟨_, rfl⟩

theorem witness_MemoryStaysCanonical :
    let s := { rdy with mem := [(0x40, 7)], pending := [.jtagTrst] }
    Memory.wf s.mem = true ∧ ∃ t, step s = .next t := ⟨by decide, ⟨_, rfl⟩⟩

/-! ### Values of the spec's own worked examples -/

/-- Chapter 4, encoding one instruction. -/
theorem test_fma_encoding :
    encReg 0 0x23 { pred := 3, dst := 4, a := 0x01, b := 0x22, c := 0x45, mod := 0x200000 } = 0x046C201451600000 := by
  decide +kernel

/-- Chapter 1, decoding two local addresses. -/
theorem test_slab_address :
    slabBase 13 6 + 0x2123B40 = 0x835A123B40 ∧ portOf 0x2123B40 = 3 := by decide +kernel
theorem test_dram_address : hbmOf 0x1234567000 = (7, 0x2468AC000) ∧ dramAddr 7 0x2468AC000 = 0x1234567000 := by
  decide +kernel

/-- Chapter 5, Table 5-9: binary32 values in ZF8, to nearest with saturation, to nearest with NaN, toward zero. -/
theorem test_zf8_rounding : ∀ r ∈ [
    ((0x43E80000 : Word32), 0x7E, 0x7E, 0x7E), (0x43F80000, 0x7F, 0x7F, 0x7F), (0x43F88000, 0x7F, 0x80, 0x7F),
    (0x7F800000, 0x7F, 0x80, 0x7F), (0xFF800000, 0xFF, 0x80, 0xFF), (0x3C700000, 0x08, 0x08, 0x07),
    (0xBAC00000, 0x81, 0x81, 0x00), (0xBA800000, 0x00, 0x00, 0x00)],
    ((narrow 3 false .rne r.1).1, (narrow 3 true .rne r.1).1, (narrow 3 false .rtz r.1).1) = r.2 := by decide +kernel

/-- Chapter 5, three threads rounding 1.3 into ZF4. -/
theorem test_stochastic_draws : srDraws 3 0x1D3A = [3741, 45902, 22951] := by decide +kernel
theorem test_stochastic_rounding :
    (srDraws 3 0x1D3A).map (fun r => (narrow 6 false (.sr r) 0x3FA66666).1) = [2, 3, 2] := by decide +kernel

/-- Chapter 10, the published check value of CRC-32C. -/
theorem test_crc32c : crc32c ([0x31, 0x32, 0x33, 0x34, 0x35, 0x36, 0x37, 0x38, 0x39] : List Byte) = 0xE3069283 := by
  decide +kernel

/-- Chapter 2, one late boundary: the last DONE comes at 15.520 us of a tick of 14.656 us, with a release latency of
1.2 us. -/
theorem test_late_boundary :
    let s := { atDone.setReg Reg.TICK_REL_LAT 150 with
      tb := 64 * 1940, tick := { atDone.tick with period := 1832, bnd := 0, done := [7] } }
    (nx (execTickDone l9 s)).tick.rel.map (·.time) = some 2090 := by decide +kernel

/-- Chapter 9, admission at controller 7: 200 units more than 900 are refused, 124 fill the point. -/
theorem test_admission :
    let p : Point := { guar := [(0x1A2, 400), (0x3D6, 200), (0x483, 300)], cap := 12713 }
    let s := { (rdy.setReg Reg.BWR_GSEL (BitVec.ofNat 32
      (F.BWR_GSEL.POINT.put (F.BWR_GSEL.MASTER.put (0 : Word32) 0x1A5) 7).toNat)) with points := [(7, p)] }
    ((nx (execBwrGvalWrite .svc 200 s)).point 7).sum = 900 ∧
      (nx (execBwrGvalWrite .svc 200 s)).fld Reg.BWR_STAT F.BWR_STAT.DENY_POINT = 7 ∧
      ((nx (execBwrGvalWrite .svc 124 s)).point 7).sum = 1024 := by decide +kernel

/-- Chapter 18, a WRITE frame of 63 edges: it is discarded and counted. -/
theorem test_short_frame :
    let t := nx (execMspiWrite { op := 2, len := 0, off := 0x400B, edges := 63 } [2] rdy)
    t.reg Reg.MSPI_STAT = 0x101 ∧ t.reg Reg.TICK_SNAP_CTL = rdy.reg Reg.TICK_SNAP_CTL := by decide +kernel

/-- R122: one NaN makes RSIGN of F32 2, and the exact sum of 2^25, 1 and -2^25 is positive. -/
theorem test_rsign_f32 : signF32 ([0x4C000000, 0x3F800000, 0xCC000000].map decF32) = 1 ∧
    signF32 ([0x7FC00000, 0x3F800000].map decF32) = 2 := by decide +kernel

/-- R115: to nearest, ties to even. -/
theorem test_fadd_tie : fadd 0x4B800000 0x3F800000 = 0x4B800000 := by decide +kernel

/-- R118: no order with a NaN; the zeros are equal. -/
theorem test_fcmp_nan : fcompare 0x7FC00000 0 = none ∧ fcompare 0x80000000 0 = some .eq := by decide +kernel

/-- R117: an arithmetic right shift keeps the sign. -/
theorem test_ssar : (0x8000000000000000 : Word64).sshiftRight 63 = BitVec.allOnes 64 := by decide

/-- Table 4-10: SSUB of S1 and -1 to S31, in the state after it. -/
theorem test_ssub :
    let f := sf 31 0x41 0x7F 0
    ((nx (exec (.ssub g0 f) (go 1 0x02 f))).slot (gi g0) g0.g).sreg 31 = 0x123456789ABCDEF1 := by decide +kernel

/-- R81: a write to S0 is discarded. -/
theorem test_write_s0 :
    let f := sf 0 0x41 0x43 0
    ((nx (exec (.sadd g0 f) (go 1 0x01 f))).slot (gi g0) g0.g).sreg 0 = 0 := by decide +kernel

end Sys2Proof.Tests
end

section
/-! What an instruction that reaches its pipe commits: the effect of `issue` from `Reaches`, and the three shapes of
effect, a push, a scalar written and a predicate mask written. -/

namespace Sys2Proof.Machine

open Sys2Proof

/-- An instruction that reaches its pipe commits its effect on the operands its sources give. -/
theorem Reaches.issue_eq {g : Gid} {w : Word64} {legal : State → Bool} {fs : List (BitVec 7)} {fl : List Bool}
    {srcAct act : Slot → Word64} {push : Option Nat} {body : (Nat → Nat → Word32) → State → State} {s u : State}
    (h : Reaches g w (legal u) fs (srcAct (u.slot (gi g) g.g)) (act (u.slot (gi g) g.g)) push s u) :
    issue g w legal fs fl srcAct act push body s =
      .next (commit g (body (operand u g fs fl) (popSrcs (gi g) g.g (srcAct (u.slot (gi g) g.g)) fs u))) := by
  obtain ⟨henter, hlegal, hbind, hfence, hinner, hready, hroom⟩ := h
  exact issue_next henter hlegal hbind hfence hinner rfl hready hroom

/-- The form of an instruction that reaches its pipe is legal. -/
theorem Reaches.legal {g : Gid} {w : Word64} {legal : Bool} {fs : List (BitVec 7)} {src act : Word64}
    {push : Option Nat} {s u : State} (h : Reaches g w legal fs src act push s u) : legal = true := by
  obtain ⟨-, hlegal, -⟩ := h
  exact hlegal

/-- The scalars stand while queues move. -/
theorem MovesQueues.sreg {i g : Nat} {u t : State} (h : MovesQueues i g u t) (n : Nat) :
    (t.slot i g).sreg n = (u.slot i g).sreg n := by rw [h.slot]; rfl

/-- The predicate masks stand while queues move. -/
theorem MovesQueues.predMask {i g : Nat} {u t : State} (h : MovesQueues i g u t) (n : Nat) :
    (t.slot i g).predMask n = (u.slot i g).predMask n := by rw [h.slot]; rfl

section
variable (g : Gid) (fs : List (BitVec 7)) (src act : Word64) (u : State)

/-- Pops, a push and the commit are the effect of a pushing instruction that draws nothing from the generator. -/
theorem pushDone_commit (q : Nat) (v : Nat → Word32) :
    let t := commit g (pushQ (gi g) g.g act q v (popSrcs (gi g) g.g src fs u))
    PushDone g fs src act q v [] u t ∧ (t.slot (gi g) g.g).sr = (u.slot (gi g) g.g).sr := by
  have hslot := slot_push_commit g fs src act q v u
  have hsr := congrArg Slot.sr hslot
  have hm := (movesQueues_popSrcs (gi g) g.g src fs u).trans (movesQueues_pushQ (gi g) g.g act q v _)
  exact ⟨⟨issued_commit hm.toSlot, queuesMoved_commit, by rw [hsr]; exact hslot⟩, hsr⟩

/-- The slot after pops, a change of it and the commit is what the change makes of it, but for its program counter. -/
theorem slot_updSlot_commit (f : Slot → Slot) :
    (commit g (updSlot (gi g) g.g f (popSrcs (gi g) g.g src fs u))).slot (gi g) g.g =
      { f ((popSrcs (gi g) g.g src fs u).slot (gi g) g.g) with
        pc := ((commit g (updSlot (gi g) g.g f (popSrcs (gi g) g.g src fs u))).slot (gi g) g.g).pc } := by
  simp only [commit, slot_commitTo, State.slot_updSlot, and_self, if_true]

/-- Pops, a change of the slot that leaves its queues and its program counter alone, and the commit are the issue of one
instruction that pushes nothing. -/
theorem issued_updSlot_commit {f : Slot → Slot} (hq : ∀ x, (f x).queues = x.queues) (hpc : ∀ x, (f x).pc = x.pc) :
    let t := commit g (updSlot (gi g) g.g f (popSrcs (gi g) g.g src fs u))
    Issued g ((u.slot (gi g) g.g).pc + 8) [] u t ∧ QueuesMoved g fs src act none (fun _ => 0) u t :=
  ⟨issued_commit ((movesQueues_popSrcs (gi g) g.g src fs u).toSlot.trans (movesSlot_updSlot (hpc _))),
    queuesMoved_slot hq⟩

/-- Pops, a write of scalar `d` and the commit write that scalar and nothing else (R81). -/
theorem scalarWritten_commit (d : Nat) (v : Word64) :
    let t := commit g (updSlot (gi g) g.g (fun x => x.setSreg d v) (popSrcs (gi g) g.g src fs u))
    Issued g ((u.slot (gi g) g.g).pc + 8) [] u t ∧ QueuesMoved g fs src act none (fun _ => 0) u t ∧
      ScalarWritten g d v u t := by
  have hmoves := movesQueues_popSrcs (gi g) g.g src fs u
  have hslot := slot_updSlot_commit g fs src u (fun x => x.setSreg d v)
  obtain ⟨hissued, hqueues⟩ := issued_updSlot_commit g fs src act u (f := fun x => x.setSreg d v)
    (fun x => by rw [Slot.setSreg_fields]) (fun x => by rw [Slot.setSreg_fields])
  refine ⟨hissued, hqueues, fun n => ?_, ?_⟩
  · rw [hslot, ← hmoves.sreg n]
    exact Slot.sreg_setSreg ..
  · rw [hslot, Slot.setSreg_fields, hmoves.slot]

/-- Pops, a write of predicate mask `d` and the commit write that mask and nothing else (R82). -/
theorem predWritten_commit (d : Nat) (v : Word64) :
    let t := commit g (updSlot (gi g) g.g (fun x => x.setPred d v) (popSrcs (gi g) g.g src fs u))
    Issued g ((u.slot (gi g) g.g).pc + 8) [] u t ∧ QueuesMoved g fs src act none (fun _ => 0) u t ∧
      PredWritten g d v u t := by
  have hmoves := movesQueues_popSrcs (gi g) g.g src fs u
  have hslot := slot_updSlot_commit g fs src u (fun x => x.setPred d v)
  obtain ⟨hissued, hqueues⟩ := issued_updSlot_commit g fs src act u (f := fun x => x.setPred d v)
    (fun x => by rw [Slot.setPred_fields]) (fun x => by rw [Slot.setPred_fields])
  refine ⟨hissued, hqueues, fun n => ?_, ?_⟩
  · rw [hslot, ← hmoves.predMask n]
    exact Slot.predMask_setPred ..
  · rw [hslot, Slot.setPred_fields, hmoves.slot]

end

/-- Only the slot as it stands matters to an update of it. -/
theorem updSlot_congr {i g : Nat} {f h : Slot → Slot} {s : State} (e : f (s.slot i g) = h (s.slot i g)) :
    updSlot i g f s = updSlot i g h s := by
  unfold updSlot; rw [e]

end Sys2Proof.Machine
end

section
/-! ICMP and FCMP (R82, R118): what the new mask reads, and the conditions of Table 4-8. -/

namespace Sys2Proof.Machine

open Sys2Proof

/-- Bit by bit, the bit of one thread set where a condition holds. -/
theorem getLsbD_setThread (m : Word64) (b : Bool) {t : Nat} (ht : t < 64) (k : Nat) :
    (if b then m ||| BitVec.ofNat 64 (2 ^ t) else m).getLsbD k = (m.getLsbD k || (b && decide (t = k))) := by
  cases b with
  | false => simp
  | true =>
    rw [if_pos rfl, BitVec.getLsbD_or, BitVec.getLsbD_ofNat, Nat.testBit_two_pow]
    by_cases h : t = k
    · simp [← h, ht]
    · simp [h]

/-- The threads below n that are active and meet the condition, set in a mask one after the other. -/
theorem getLsbD_setThreads (act : Word64) (c : Nat → Bool) (m : Word64) (k n : Nat) (hn : n ≤ 64) :
    ((List.range n).foldl (fun m t => if act.getLsbD t && c t then m ||| BitVec.ofNat 64 (2 ^ t) else m) m).getLsbD k =
      (m.getLsbD k || (decide (k < n) && (act.getLsbD k && c k))) := by
  induction n with
  | zero => simp
  | succ n ih =>
    rw [List.range_succ, List.foldl_append, List.foldl_cons, List.foldl_nil, getLsbD_setThread _ _ (by omega),
      ih (by omega)]
    by_cases hk : n = k
    · simp [hk]
    · have hlt : k < n + 1 ↔ k < n := by omega
      simp [hk, hlt]

/-- A compare's new mask has the condition in the active threads and keeps the other bits (R118). -/
theorem getLsbD_maskUpdate (old act : Word64) (c : Nat → Bool) {k : Nat} (hk : k < 64) :
    (maskUpdate old act c).getLsbD k = if act.getLsbD k then c k else old.getLsbD k := by
  unfold maskUpdate
  rw [getLsbD_setThreads _ _ _ _ _ (Nat.le_refl 64), BitVec.getLsbD_and, BitVec.getLsbD_not]
  cases act.getLsbD k <;> simp [hk]

/-- A compare that reaches its pipe writes its condition to the active threads' bits of its mask. -/
theorem vecP_writes {op : Nat} {types : List Nat} {fl : List Bool} {top : Nat} {g : Gid} {f : RegForm}
    (res : Word32 → Word32 → Bool) {s u : State}
    (h : Reaches g (encReg 0 op f) (vForm 2 types f zeroOnly (fun a => decide (a ≤ top)) zeroOnly && dstP f.dst)
      (usedSrcs 2 f) (u.active g f) (u.active g f) none s u) :
    ∃ t v, vecP op types fl top g f res s = .next t ∧ Issued g ((u.slot (gi g) g.g).pc + 8) [] u t ∧
      QueuesMoved g (usedSrcs 2 f) (u.active g f) (u.active g f) none (fun _ => 0) u t ∧
      PredWritten g (f.dst.toNat % 8) v u t ∧
      ∀ k, k < 64 → v.getLsbD k =
        if (u.active g f).getLsbD k then
          res (operand u g (usedSrcs 2 f) fl 0 k) (operand u g (usedSrcs 2 f) fl 1 k)
        else ((u.slot (gi g) g.g).predMask (f.dst.toNat % 8)).getLsbD k := by
  obtain ⟨hissued, hqueues, hpred⟩ :=
    predWritten_commit g (usedSrcs 2 f) (u.active g f) (u.active g f) u (f.dst.toNat % 8)
      (maskUpdate ((u.slot (gi g) g.g).predMask (f.dst.toNat % 8)) (u.active g f) fun k =>
        res (operand u g (usedSrcs 2 f) fl 0 k) (operand u g (usedSrcs 2 f) fl 1 k))
  refine ⟨_, _, h.issue_eq.trans ?_, hissued, hqueues, hpred, fun k hk => getLsbD_maskUpdate _ _ _ hk⟩
  have hmoves := movesQueues_popSrcs (gi g) g.g (u.active g f) (usedSrcs 2 f) u
  exact congrArg (fun m => Host.Outcome.next (commit g m)) (updSlot_congr (congrArg (Slot.setPred _ _)
    (congrArg₂ (fun old a => maskUpdate old a _) (hmoves.predMask _) (hmoves.guard f.pred f.pneg))))

/-- The AUX field of a legal V-class form is one its opcode permits. -/
theorem aux_of_vForm {n : Nat} {types : List Nat} {f : RegForm} {fmt aux rnd : Nat → Bool}
    (h : vForm n types f fmt aux rnd = true) : aux (modAux f) = true := by
  simp only [vForm, Bool.and_eq_true] at h
  obtain ⟨⟨⟨-, haux⟩, -⟩, -⟩ := h
  exact haux

/-- The two's-complement value of a word's bits is its signed value. -/
theorem signedOf_toNat (a : Word32) : signedOf 32 a.toNat = a.toInt := by
  have := a.isLt
  rw [BitVec.toInt_eq_toNat_cond, signedOf, Nat.mod_eq_of_lt this]
  split <;> split <;> omega

/-- The value by TYPE, as the condition of an integer compare reads it. -/
theorem typedValue_eq (f : RegForm) (a : Word32) :
    (if typeSigned f then signedOf 32 a.toNat else (a.toNat : Int)) = typedValue f a := by
  simp only [typeSigned, typedValue, signedOf_toNat, beq_iff_eq]

/-- Words are equal when their values by TYPE are. -/
theorem typedValue_inj (f : RegForm) (a b : Word32) : typedValue f a = typedValue f b ↔ a = b := by
  unfold typedValue
  split
  · exact BitVec.toInt_inj
  · rw [Int.natCast_inj, BitVec.toNat_inj]

/-- Codes 0 to 5 of Table 4-8 compare the values by TYPE. -/
theorem intCond_eq (f : RegForm) (a b : Word32) (c : Nat) : c ≤ 5 →
    intCond 32 c (typeSigned f) a.toNat b.toNat =
      match c with
      | 0 => decide (typedValue f a = typedValue f b)
      | 1 => decide (typedValue f a ≠ typedValue f b)
      | 2 => decide (typedValue f a < typedValue f b)
      | 3 => decide (typedValue f a ≤ typedValue f b)
      | 4 => decide (typedValue f a > typedValue f b)
      | _ => decide (typedValue f a ≥ typedValue f b) := by
  intro hc
  unfold intCond
  simp only [typedValue_eq]
  have heq : (a.toNat == b.toNat) = decide (typedValue f a = typedValue f b) := by
    rw [Bool.eq_iff_iff, beq_iff_eq, decide_eq_true_eq, BitVec.toNat_inj, typedValue_inj]
  match c, hc with
  | 0, _ => exact heq
  | 1, _ => simp only [bne, heq, ne_eq, decide_not]
  | 2, _ | 3, _ | 4, _ | 5, _ => rfl

/-- Without an order NE and UN alone are true (R118). -/
theorem floatCond_none {c : Nat} (hc : c ≤ 6) : floatCond c none = (c == 1 || c == 6) := by
  interval_cases c <;> rfl

/-- What the condition codes of Table 4-8 say of an order. -/
theorem floatCond_some (c : Nat) (o : Ordering) :
    floatCond c (some o) =
      match c with
      | 0 => some o == some .eq
      | 1 => some o != some .eq
      | 2 => some o == some .lt
      | 3 => some o == some .lt || some o == some .eq
      | 4 => some o == some .gt
      | 5 => some o == some .gt || some o == some .eq
      | _ => some o == none := by
  match c with
  | 0 | 1 | 2 | 3 | 4 | 5 | 6 | _ + 7 => cases o <;> rfl

/-- A NaN leaves two values unordered, and the codes then say so; any other two values have an order (R118). -/
theorem floatCond_fcompare (a b : Word32) (c : Nat) : c ≤ 6 →
    floatCond c (fcompare a b) =
      if isNaN a || isNaN b then c == 1 || c == 6
      else match c with
      | 0 => fcompare a b == some .eq
      | 1 => fcompare a b != some .eq
      | 2 => fcompare a b == some .lt
      | 3 => fcompare a b == some .lt || fcompare a b == some .eq
      | 4 => fcompare a b == some .gt
      | 5 => fcompare a b == some .gt || fcompare a b == some .eq
      | _ => fcompare a b == none := by
  intro hc
  unfold fcompare
  split
  · exact floatCond_none hc
  · exact floatCond_some c _

/-- Settles O4: the condition of each opcode is the one of the statement, and `vecP_writes` says where it goes. -/
theorem comparesWritePredicates : Obligations.ComparesWritePredicates := by
  unfold Obligations.ComparesWritePredicates
  intro g f s u
  refine ⟨fun h => ?_, fun h => ?_⟩
  · obtain ⟨t, v, hexec, hissued, hqueues, hpred, hbits⟩ := vecP_writes (fl := [])
      (fun a b => intCond 32 (modAux f) (typeSigned f) a.toNat b.toNat) h
    have haux : modAux f ≤ 5 := of_decide_eq_true (aux_of_vForm (Bool.and_eq_true_iff.1 h.legal).1)
    refine ⟨t, v, hexec, hissued, hqueues, hpred, fun k hk => (hbits k hk).trans ?_⟩
    exact congrArg (fun c => if (u.active g f).getLsbD k then c else _) (intCond_eq f _ _ _ haux)
  · obtain ⟨t, v, hexec, hissued, hqueues, hpred, hbits⟩ := vecP_writes (fl := [true, true])
      (fun a b => floatCond (modAux f) (fcompare a b)) h
    have haux : modAux f ≤ 6 := of_decide_eq_true (aux_of_vForm (Bool.and_eq_true_iff.1 h.legal).1)
    refine ⟨t, v, hexec, hissued, hqueues, hpred, fun k hk => (hbits k hk).trans ?_⟩
    exact congrArg (fun c => if (u.active g f).getLsbD k then c else _) (floatCond_fcompare _ _ _ haux)

end Sys2Proof.Machine
end

section
/-! XSHFL, XROT, XBFLY and QTOS (R123, R124). -/

namespace Sys2Proof.Machine

open Sys2Proof

/-- An exchange that reaches its pipe pushes to each active thread the value of the thread its opcode chooses (R123). -/
theorem exchangeX_pushes {op : Nat} {b : BitVec 7 → Bool} {g : Gid} {f : RegForm} (src : Nat → Nat → Nat)
    {s u : State}
    (h : Reaches g (encReg 5 op f) (xForm 2 [0] f b && dstQ f.dst) (usedSrcs 2 f) (BitVec.allOnes 64) (u.active g f)
      (some f.dst.toNat) s u) :
    let x := operand u g (usedSrcs 2 f) []
    ∃ t, exchangeX op b g f src s = .next t ∧
      PushDone g (usedSrcs 2 f) (BitVec.allOnes 64) (u.active g f) f.dst.toNat
        (fun k => x 0 (src k ((x 1 k).toNat % 64))) [] u t ∧
      (t.slot (gi g) g.g).sr = (u.slot (gi g) g.g).sr := by
  have hguard := (movesQueues_popSrcs (gi g) g.g allThreads (usedSrcs 2 f) u).guard f.pred f.pneg
  refine ⟨_, h.issue_eq.trans ?_, pushDone_commit ..⟩
  exact congrArg (fun act => Host.Outcome.next (commit g (pushQ (gi g) g.g act _ _ _))) hguard

/-- Settles O7: the exchanges push by `exchangeX_pushes`, with the source thread reduced modulo 64 once; QTOS writes its
scalar by `scalarWritten_commit`. -/
theorem exchangesMoveThreads : Obligations.ExchangesMoveThreads := by
  unfold Obligations.ExchangesMoveThreads
  intro g f s u
  refine ⟨fun h => ?xshfl, fun h => ?xrot, fun h => ?xbfly, fun h => ?qtos⟩
  case xshfl => exact exchangeX_pushes (fun _ b => b) h
  case xrot =>
    have hpush := exchangeX_pushes (fun k b => (k + b) % 64) h
    simp only [Nat.add_mod_mod] at hpush
    exact hpush
  case xbfly => exact exchangeX_pushes (fun k b => k ^^^ b) h
  case qtos =>
    have harm : exec (.qtos g f) s = execQtos g f s := rfl
    exact ⟨_, harm.trans h.issue_eq, scalarWritten_commit ..⟩

end Sys2Proof.Machine
end

section
/-! Undefined words, illegal forms, empty queues and stalls (R73, R74, R96-R104, R114, R139). -/

namespace Sys2Proof.Machine

open Sys2Proof

/-- An undefined word that is its group's next instruction traps ILLEGAL (R96, R114). -/
theorem execUndefinedOpcode_traps {g : Gid} {w : Word64} {s u : State} (hup : s.down = false)
    (henter : enter g w s = .ok u) (hw : undefinedWord w = true) :
    execUndefinedOpcode g w s = .next (trap (gi g) g.g 0 .illegal (u.slot (gi g) g.g).pc u) := by
  unfold execUndefinedOpcode
  rw [ifUp_eq hup, withTraps_enter henter]
  simp only [henter, hw, if_true]

/-- The row's arm of `exec` is an issue of its form. -/
def VRow.IsArm (r : VRow) : Prop :=
  ∀ (g : Gid) (f : RegForm) (s : State), ∃ res, exec (r.make g f) s = vecQ r.op r.n r.types r.fl g f res s

/-- A row whose arm of `exec` is `ex`, itself an issue of the row's form. -/
theorem VRow.IsArm.of_exec {r : VRow} (ex : Gid → RegForm → State → Out)
    (hexec : ∀ g f s, exec (r.make g f) s = ex g f s := by intros; rfl)
    (hvec : ∀ g f s, ∃ res, ex g f s = vecQ r.op r.n r.types r.fl g f res s := by exact fun _ _ _ => ⟨_, rfl⟩) :
    r.IsArm := fun g f s => by rw [hexec]; exact hvec g f s

/-- Each V-class row of the tables is an issue of its form. -/
theorem isArm_of_mem_vectorRows : ∀ r ∈ vectorRows, r.IsArm := by
  simp only [vectorRows, moveRows, shiftRows, integerRows, floatRows, List.cons_append, List.nil_append,
    List.forall_mem_cons]
  exact ⟨.of_exec execMov, .of_exec execAnd, .of_exec execOr, .of_exec execXor, .of_exec execAndn,
    .of_exec execShl, .of_exec execShr, .of_exec execSar, .of_exec execClz, .of_exec execPopc,
    .of_exec execIadd, .of_exec execIsub, .of_exec execImin, .of_exec execImax, .of_exec execImul,
    .of_exec execImulh, .of_exec execImad,
    .of_exec execFadd, .of_exec execFsub, .of_exec execFmul, .of_exec execFma, .of_exec execFmin,
    .of_exec execFmax, .of_exec execFabs, .of_exec execFneg, .of_exec execFscale, .of_exec execFrcp,
    .of_exec execFrsq, .of_exec execFsqrt, .of_exec execFexp2, .of_exec execFlog2, .of_exec execCvtif,
    List.forall_mem_nil _⟩

/-- Settles O10: an undefined word by `execUndefinedOpcode_traps`; a row of the tables by what `issue` does with an
illegal form, an empty queue and an instruction that is held back. -/
theorem illegalInstructionsTrap : Obligations.IllegalInstructionsTrap := by
  unfold Obligations.IllegalInstructionsTrap
  refine ⟨fun g w s u hup henter hw => execUndefinedOpcode_traps hup henter hw, ?_⟩
  intro r hr g f s u i act ok henter
  obtain ⟨res, harm⟩ := isArm_of_mem_vectorRows r hr g f s
  rw [harm]
  have hok : ok = true → (vForm r.n r.types f zeroOnly zeroOnly zeroOnly && dstQ f.dst) = true ∧
      bindOk u (gi g) g.g (usedSrcs r.n f) (some f.dst.toNat) = true := Bool.and_eq_true_iff.1
  refine ⟨fun h => ?illegal, fun k h hready => ?empty, fun h hready => ?notYet, fun h hready hheld => ?heldBack⟩
  case illegal => exact issue_illegal henter h
  case empty => exact issue_empty henter (hok h).1 (hok h).2 hready
  case notYet => exact issue_waits henter (hok h).1 (hok h).2 (.inl hready)
  case heldBack =>
    refine issue_waits henter (hok h).1 (hok h).2 (.inr ⟨hready, ?_⟩)
    rcases hheld with hfull | hfence
    · exact .inr (.inr ⟨_, rfl, hfull⟩)
    · exact .inl hfence

end Sys2Proof.Machine
end

section
/-! The registers of a core: core c of stack s has the registers of core 0 of stack 0, at the offsets of Table 1-7, and
an accepted write of one with an effect of its own is that effect on that core. -/

namespace Sys2Proof.Machine

open Sys2Proof

/-! ### Rows of the register map -/

/-- The farthest that the strides of a row reach from its base. -/
def strideReach (l : List (Nat × Nat)) : Nat := (l.map fun e => (e.1 - 1) * e.2).sum

theorem le_strideReach : ∀ {l : List (Nat × Nat)} {d : Nat}, strideHit l d = true → d ≤ strideReach l
  | [], _, h => Nat.le_of_eq (eq_of_beq h)
  | (n, x) :: t, d, h => by
    simp only [strideHit, Bool.and_eq_true, decide_eq_true_eq] at h
    obtain ⟨hn, ht⟩ := h
    calc d = d / x * x + d % x := (Nat.div_add_mod' d x).symm
      _ ≤ (n - 1) * x + strideReach t := Nat.add_le_add (Nat.mul_le_mul_right x (by omega)) (le_strideReach ht)

/-- Do the strides `l` from `base` meet `a`? -/
def meets (l : List (Nat × Nat)) (base a : Nat) : Bool := decide (base ≤ a) && strideHit l (a - base)

/-- A register has the first row that meets it. -/
theorem regRowAt_eq_find (a : Nat) : regRowAt a = regRows.find? fun r => meets r.strides r.base a := rfl

theorem meets_add (l : List (Nat × Nat)) (b base a : Nat) : meets l (b + base) (b + a) = meets l base a := by
  simp [meets, Nat.add_sub_add_left]

/-- Strides meet nothing outside their reach. -/
theorem meets_of_outside {l : List (Nat × Nat)} {base a : Nat} (h : a < base ∨ base + strideReach l < a) :
    meets l base a = false := by
  rw [meets, Bool.and_eq_false_iff, decide_eq_false_iff_not]
  refine h.imp (by omega) fun h => Bool.eq_false_iff.2 fun hit => ?_
  have := le_strideReach hit
  omega

/-- Strides that repeat every `x` and otherwise stay within `x` meet in block `k` what they meet in block 0. -/
theorem meets_block {n x k base a : Nat} {t : List (Nat × Nat)} (hk : k < n) (hbase : base + strideReach t < x)
    (ha : a < x) : meets ((n, x) :: t) base (k * x + a) = meets t base a := by
  have hx : 0 < x := by omega
  rcases Nat.lt_or_ge a base with hlt | hle
  · rw [meets_of_outside (.inl hlt)]
    rcases Nat.eq_zero_or_pos k with rfl | hpos
    · exact meets_of_outside (.inl (by omega))
    · obtain ⟨j, rfl⟩ : ∃ j, k = j + 1 := ⟨k - 1, by omega⟩
      have hd : (j + 1) * x + a - base = x * j + (x + a - base) := by rw [Nat.succ_mul, Nat.mul_comm]; omega
      have hmiss : strideHit t (x + a - base) = false := Bool.eq_false_iff.2 fun hit => by
        have := le_strideReach hit
        omega
      rw [meets, strideHit, hd, Nat.mul_add_mod, Nat.mod_eq_of_lt (by omega), hmiss, Bool.and_false, Bool.and_false]
  · have hd : k * x + a - base = x * k + (a - base) := by rw [Nat.mul_comm]; omega
    rw [meets, meets, strideHit, hd, Nat.mul_add_mod, Nat.mod_eq_of_lt (by omega), Nat.mul_add_div hx,
      Nat.div_eq_of_lt (by omega)]
    simp [hk, hle, Nat.le_add_left_of_le hle]

/-- Where the rows of the map lie (Table 1-7): a row of the cores within a core's 4 KiB, a row of the stacks outside its
cores' 64 KiB, and any other row outside the stacks. -/
def RegRow.inItsBlock (r : RegRow) : Bool :=
  match r.strides with
  | (24, 0x100000) :: (16, 0x1000) :: t =>
    decide (0x1040000 ≤ r.base) && decide (r.base + strideReach t < 0x1041000)
  | (24, 0x100000) :: t =>
    decide (0x1000000 ≤ r.base) && decide (r.base + strideReach t < 0x1100000) &&
      (decide (r.base + strideReach t < 0x1040000) || decide (0x1050000 ≤ r.base))
  | t => decide (r.base + strideReach t < 0x1000000) || decide (0x2800000 ≤ r.base)

theorem regRows_inItsBlock : ∀ r ∈ regRows, r.inItsBlock = true := by decide +kernel

/-- Strides that repeat in every stack meet in stack `k` what they meet in stack 0. -/
theorem meets_stack {t : List (Nat × Nat)} {base a k : Nat} (hb : base + strideReach t < 0x100000) (hk : k < 24)
    (ha : a < 0x100000) :
    meets ((24, 0x100000) :: t) (0x1000000 + base) (0x1000000 + (k * 0x100000 + a)) = meets t base a :=
  (meets_add ..).trans (meets_block hk hb ha)

/-- Where core `c` of stack `s` has the register that core 0 of stack 0 has at `b` (Table 1-7). -/
def coreAddr (b s c : Nat) : Nat := b + s * 0x100000 + c * 0x1000

/-- Is `b` in the 4 KiB of core 0 of stack 0? -/
def InCore (b : Nat) : Prop := 0x1040000 ≤ b ∧ b < 0x1041000

/-- What a row in its block meets at a register of the cores is the same in every core. -/
theorem RegRow.meets_coreAddr {r : RegRow} (h : r.inItsBlock = true) {b : Nat} (hb : InCore b) :
    ∃ m, ∀ s c, s < 24 → c < 16 → meets r.strides r.base (coreAddr b s c) = m := by
  obtain ⟨base, strides⟩ := r
  obtain ⟨o, rfl⟩ : ∃ o, b = 0x1040000 + o := ⟨b - 0x1040000, by unfold InCore at hb; omega⟩
  have ho : o < 0x1000 := by unfold InCore at hb; omega
  have haddr : ∀ s c, coreAddr (0x1040000 + o) s c = 0x1000000 + (s * 0x100000 + (0x40000 + (c * 0x1000 + o))) :=
    fun s c => by unfold coreAddr; omega
  simp only [haddr]
  unfold RegRow.inItsBlock at h
  dsimp only at h ⊢
  split at h
  next t =>
    simp only [Bool.and_eq_true, decide_eq_true_eq] at h
    obtain ⟨k, rfl⟩ : ∃ k, base = 0x1000000 + (0x40000 + k) := ⟨base - 0x1040000, by omega⟩
    have hreach : strideReach ((16, 0x1000) :: t) = 0xF000 + strideReach t := rfl
    exact ⟨meets t k o, fun s c hs hc => (meets_stack (by omega) hs (by omega)).trans
      ((meets_add ..).trans (meets_block hc (by omega) ho))⟩
  next t _ =>
    simp only [Bool.and_eq_true, Bool.or_eq_true, decide_eq_true_eq] at h
    obtain ⟨k, rfl⟩ : ∃ k, base = 0x1000000 + k := ⟨base - 0x1000000, by omega⟩
    exact ⟨false, fun s c hs hc => (meets_stack (by omega) hs (by omega)).trans (meets_of_outside (by omega))⟩
  next =>
    simp only [Bool.or_eq_true, decide_eq_true_eq] at h
    exact ⟨false, fun s c hs hc => meets_of_outside (by omega)⟩

/-- A core's register has the row of the same register of core 0 of stack 0. -/
theorem regRowAt_coreAddr {b s c : Nat} (hb : InCore b) (hs : s < 24) (hc : c < 16) :
    regRowAt (coreAddr b s c) = regRowAt b := by
  rw [regRowAt_eq_find, regRowAt_eq_find]
  refine List.find?_congr fun r hr => ?_
  obtain ⟨m, hm⟩ := RegRow.meets_coreAddr (regRows_inItsBlock r hr) hb
  exact (hm s c hs hc).trans (hm 0 0 (by omega) (by omega)).symm

/-- The indices of a core's register are its stack and its core. -/
theorem rowIdx_coreAddr {b s c : Nat} (hc : c < 16) :
    rowIdx [(24, 0x100000), (16, 0x1000)] (coreAddr b s c - b) = [s, c] := by
  have hd : coreAddr b s c - b = s * 0x100000 + c * 0x1000 := by unfold coreAddr; omega
  rw [hd, rowIdx, rowIdx, rowIdx]
  exact congrArg₂ (fun i j => [i, j]) (by omega) (by omega)

/-- A command that writes a core's register with an effect of its own has, where the write is accepted, that effect on
the core. -/
theorem ifUp_pathWrite_coreAddr {p : Path} {c : Cid} {v : Word32} {s : State} {b n : Nat}
    {f : List Nat → Word32 → State → State} (hacc : Accepts p (coreAddr b c.s c.c) s) (hb : InCore b)
    (hrow : (regRowAt b).map (fun r => (r.base, r.strides)) = some (b, [(24, 0x100000), (16, 0x1000)]))
    (heffect : regEffects.find? (fun e => e.1 == b) = some (n, f)) (hfeeds : feeds.find? (fun e => e.1 == b) = none) :
    ifUp s (.next (pathWrite p (coreAddr b c.s c.c) v s)) = .next (f [c.s.val, c.c.val] v s) := by
  obtain ⟨r, hr, heq⟩ := Option.map_eq_some_iff.1 hrow
  obtain ⟨rfl, hstrides⟩ := Prod.mk.inj heq
  have hidx : rowIdx r.strides (coreAddr r.base c.s c.c - r.base) = [c.s.val, c.c.val] :=
    hstrides ▸ rowIdx_coreAddr c.c.isLt
  have hplace : ∀ a, a < 0x1000000 → coreAddr r.base c.s c.c ≠ a := fun a ha => by
    unfold InCore at hb; unfold coreAddr; omega
  have hup : s.down = false := hacc.1
  rw [ifUp_eq hup, pathWrite_eq hacc ((regRowAt_coreAddr hb c.s.isLt c.c.isLt).trans hr)
    (hplace _ (by decide)) (hplace _ (by decide)), writeEffect_of heffect (by rw [feedVec, hfeeds]; rfl), hidx]

end Sys2Proof.Machine
end

section
/-! CORE_NUM_CTL, CORE_SR_SEED and CORE_MEM_CFG (R157, R171, R213). -/

namespace Sys2Proof.Machine

open Sys2Proof

section
variable {p : Path} {c : Cid} {s : State} (v : Word32)

/-- An accepted write of CORE_NUM_CTL (R157). -/
theorem exec_coreNumCtlWrite (h : Accepts p (Reg.CORE_NUM_CTL c.s c.c) s) :
    exec (.coreNumCtlWrite p c v) s = .next (writeNumCtl (ci c) v s) :=
  ifUp_pathWrite_coreAddr (b := 0x1040300) h (by unfold InCore; decide) (by decide +kernel) rfl rfl

/-- An accepted write of CORE_SR_SEED (R171). -/
theorem exec_coreSrSeedWrite (h : Accepts p (Reg.CORE_SR_SEED c.s c.c) s) :
    exec (.coreSrSeedWrite p c v) s = .next (writeSrSeed (ci c) v s) :=
  ifUp_pathWrite_coreAddr (b := 0x1040304) h (by unfold InCore; decide) (by decide +kernel) rfl rfl

/-- An accepted write of CORE_MEM_CFG (R213). -/
theorem exec_coreMemCfgWrite (h : Accepts p (Reg.CORE_MEM_CFG c.s c.c) s) :
    exec (.coreMemCfgWrite p c v) s = .next (writeMemCfg (ci c) v s) :=
  ifUp_pathWrite_coreAddr (b := 0x1040500) h (by unfold InCore; decide) (by decide +kernel) rfl rfl

end

/-- The stack of a global core index. -/
@[simp] theorem ci_div (c : Cid) : ci c / 16 = c.s := by unfold ci; omega

/-- The core of a global core index. -/
@[simp] theorem ci_mod (c : Cid) : ci c % 16 = c.c := by unfold ci; omega

/-- A field differs from a value of its width exactly when its bits do. -/
theorem Fld.get_bne (f : Fld) (w : Word32) (x : BitVec f.width) :
    (f.get w != x.toNat) = (w.extractLsb' f.lo f.width != x) := by
  have hget : f.get w = (w.extractLsb' f.lo f.width).toNat := (BitVec.extractLsb'_toNat ..).symm
  rw [hget, Bool.eq_iff_iff, bne_iff_ne, bne_iff_ne, ne_eq, ne_eq, BitVec.toNat_inj]

/-- Nothing but the register at `a` differs. -/
def OnlyReg (a : Nat) (s t : State) : Prop := (∀ b, b ≠ a → t.reg b = s.reg b) ∧ t = { s with regs := t.regs }

theorem onlyReg_setReg (a : Nat) (v : Word32) (s : State) : OnlyReg a s (s.setReg a v) :=
  ⟨fun _ h => State.reg_setReg_ne _ _ h, rfl⟩

theorem OnlyReg.trans {a : Nat} {s t u : State} (h : OnlyReg a s t) (k : OnlyReg a t u) : OnlyReg a s u := by
  obtain ⟨hregs, hrest⟩ := h
  obtain ⟨hregs', hrest'⟩ := k
  exact ⟨fun b hb => (hregs' b hb).trans (hregs b hb), by rw [hrest', hrest]⟩

theorem regBecomes_setReg (a : Nat) (v : Word32) (s : State) : RegBecomes a v s (s.setReg a v) :=
  ⟨State.reg_setReg_same .., onlyReg_setReg a v s⟩

/-- CORE_NUM_CTL takes its block formats, and clears IGN where it is told to, or sets IGN (R157). -/
theorem writeNumCtl_ci (c : Cid) (v : Word32) (s : State) :
    writeNumCtl (ci c) v s =
      if s.slotsIdle (ci c) && (s.core (ci c)).tns.cmdq.isEmpty && v.extractLsb' 0 2 != 3 && v.extractLsb' 2 2 != 3 then
        s.setReg (Reg.CORE_NUM_CTL c.s c.c)
          ((if v.getLsbD 31 then 0 else s.reg (Reg.CORE_NUM_CTL c.s c.c) &&& 0x80000000) ||| (v &&& 0xF))
      else s.setFlag (Reg.CORE_NUM_CTL c.s c.c) F.CORE_NUM_CTL.IGN := by
  have hblka : (F.CORE_NUM_CTL.BLKA.get v != 3) = (v.extractLsb' 0 2 != 3) := Fld.get_bne ⟨0, 2⟩ v 3
  have hblkb : (F.CORE_NUM_CTL.BLKB.get v != 3) = (v.extractLsb' 2 2 != 3) := Fld.get_bne ⟨2, 2⟩ v 3
  rw [writeNumCtl, ci_div, ci_mod, hblka, hblkb]

/-- CORE_SR_SEED takes its seed, or CORE_NUM_CTL has IGN set (R171). -/
theorem writeSrSeed_ci (c : Cid) (v : Word32) (s : State) :
    writeSrSeed (ci c) v s =
      if s.slotsIdle (ci c) && v.extractLsb' 0 16 != 0 then
        s.setReg (Reg.CORE_SR_SEED c.s c.c) ((v &&& 0xFFFF) ||| 0x80000000)
      else s.setFlag (Reg.CORE_NUM_CTL c.s c.c) F.CORE_NUM_CTL.IGN := by
  have hseed : (F.CORE_SR_SEED.SEED.get v != 0) = (v.extractLsb' 0 16 != 0) := Fld.get_bne ⟨0, 16⟩ v 0
  rw [writeSrSeed, ci_div, ci_mod, hseed]

/-- The L1SZ `z` pending in the register at `a`, IGN cleared where it is told to be. -/
def State.pendL1sz (s : State) (a z : Nat) (clear : Bool) : State :=
  ((if clear then s.setFlag a F.CORE_MEM_CFG.IGN false else s).setFld a F.CORE_MEM_CFG.L1SZ z).setFlag a
    F.CORE_MEM_CFG.PENDING

/-- CORE_MEM_CFG takes its L1SZ, pending in its register and in its core, or sets IGN (R213). -/
theorem writeMemCfg_ci (c : Cid) (v : Word32) (s : State) :
    writeMemCfg (ci c) v s =
      if s.noJob && s.slotsIdle (ci c) && decide (F.CORE_MEM_CFG.L1SZ.get v ≤ 4) then
        updCore (ci c) (fun x => { x with l1szPend := some (F.CORE_MEM_CFG.L1SZ.get v) })
          (s.pendL1sz (Reg.CORE_MEM_CFG c.s c.c) (F.CORE_MEM_CFG.L1SZ.get v) (v.getLsbD 31))
      else s.setFlag (Reg.CORE_MEM_CFG c.s c.c) F.CORE_MEM_CFG.IGN := by
  rw [writeMemCfg, ci_div, ci_mod]; rfl

theorem onlyReg_pendL1sz (s : State) (a z : Nat) (clear : Bool) : OnlyReg a s (s.pendL1sz a z clear) := by
  have hpend (t : State) : OnlyReg a t ((t.setFld a F.CORE_MEM_CFG.L1SZ z).setFlag a F.CORE_MEM_CFG.PENDING) :=
    (onlyReg_setReg a _ t).trans (onlyReg_setReg a _ _)
  cases clear
  case false => exact hpend s
  case true => exact (onlyReg_setReg a _ s).trans (hpend _)

theorem fld_pendL1sz (s : State) (a : Nat) {z : Nat} (clear : Bool) (hz : z < 8) :
    (s.pendL1sz a z clear).fld a F.CORE_MEM_CFG.L1SZ = z := by
  rw [State.pendL1sz, State.fld_setFlag_ne _ _ _ _ _ (by decide) (.inr (.inr (by decide))),
    State.fld_setFld _ _ _ _ (by decide)]
  exact Nat.mod_eq_of_lt hz

theorem flag_pendL1sz (s : State) (a z : Nat) (clear : Bool) :
    (s.pendL1sz a z clear).flag a F.CORE_MEM_CFG.PENDING = true := by
  rw [State.flag_eq, State.pendL1sz, State.bit_setFlag _ _ _ _ _ (by decide)]
  simp

/-- An L1SZ taken waits in its register and in its core, and nothing else differs. -/
theorem l1szPends (s : State) (a i : Nat) {z : Nat} (clear : Bool) (hz : z < 8) :
    let t := updCore i (fun x => { x with l1szPend := some z }) (s.pendL1sz a z clear)
    t.fld a F.CORE_MEM_CFG.L1SZ = z ∧ t.flag a F.CORE_MEM_CFG.PENDING = true ∧
      t.core i = { s.core i with l1szPend := some z } ∧ (∀ j, j ≠ i → t.core j = s.core j) ∧
      (∀ b, b ≠ a → t.reg b = s.reg b) ∧ t = { s with regs := t.regs, cores := t.cores } := by
  obtain ⟨hregs, hrest⟩ := onlyReg_pendL1sz s a z clear
  have hcore : (s.pendL1sz a z clear).core = s.core :=
    (congrArg State.core hrest).trans rfl
  refine ⟨fld_pendL1sz s a _ hz, flag_pendL1sz s a _ _, ?core, fun j hj => ?otherCores, hregs, ?rest⟩
  case core => rw [State.core_updCore, if_pos rfl, hcore]
  case otherCores => rw [State.core_updCore, if_neg hj, hcore]
  case rest =>
    generalize s.pendL1sz a z clear = r at hrest
    rw [hrest]; rfl

/-- Settles O20: an accepted write is the effect of its register on the core, which takes the value or sets IGN. -/
theorem coreConfigurationWrites : Obligations.CoreConfigurationWrites := by
  unfold Obligations.CoreConfigurationWrites
  intro p c v s i num mem numOk seedOk memOk
  refine ⟨fun hacc => ?numCtl, fun hacc => ?srSeed, fun hacc => ?memCfg⟩
  case numCtl =>
    rw [exec_coreNumCtlWrite v hacc, writeNumCtl_ci]
    exact ⟨fun hok => ⟨_, congrArg _ (if_pos hok), regBecomes_setReg ..⟩,
      fun hno => congrArg _ (if_neg (ne_true_of_eq_false hno))⟩
  case srSeed =>
    rw [exec_coreSrSeedWrite v hacc, writeSrSeed_ci]
    exact ⟨fun hok => ⟨_, congrArg _ (if_pos hok), regBecomes_setReg ..⟩,
      fun hno => congrArg _ (if_neg (ne_true_of_eq_false hno))⟩
  case memCfg =>
    have hz : F.CORE_MEM_CFG.L1SZ.get v < 8 := Nat.mod_lt _ (by decide)
    rw [exec_coreMemCfgWrite v hacc, writeMemCfg_ci]
    exact ⟨fun hok => ⟨_, congrArg _ (if_pos hok), l1szPends s mem i (v.getLsbD 31) hz⟩,
      fun hno => congrArg _ (if_neg (ne_true_of_eq_false hno))⟩

end Sys2Proof.Machine
end

section
/-! The registers of global control that a package keeps once, outside the blocks of its stacks: the lock, the package
ID, the modes, the role banks and the membership table (R30, R158, R209, R428, R439, R443). -/

namespace Sys2Proof.Machine

open Sys2Proof

/-! ### The commands -/

/-- A command that writes a register that stands alone and has an effect of its own has, where the write is accepted,
that effect. -/
theorem ifUp_pathWrite_single {p : Path} {a n : Nat} {v : Word32} {s : State} {f : List Nat → Word32 → State → State}
    (hacc : Accepts p a s) (hrow : (regRowAt a).map (fun r => (r.base, r.strides)) = some (a, []))
    (heffect : regEffects.find? (fun e => e.1 == a) = some (n, f)) (hfeeds : feeds.find? (fun e => e.1 == a) = none)
    (hrst : a ≠ Reg.GCTL_RST) (hcmd : a ≠ Reg.SVC_MB_CMD) :
    ifUp s (.next (pathWrite p a v s)) = .next (f [] v s) := by
  obtain ⟨r, hr, heq⟩ := Option.map_eq_some_iff.1 hrow
  obtain ⟨rfl, hstrides⟩ := Prod.mk.inj heq
  have hup : s.down = false := hacc.1
  rw [ifUp_eq hup, pathWrite_eq hacc hr hrst hcmd, writeEffect_of heffect (by rw [feedVec, hfeeds]; rfl), hstrides]
  rfl

section
variable {p : Path} {s : State}

/-- An accepted write of 1 to GCTL_LOCK sets LOCK and leaves START_IGN (R428). -/
theorem exec_configLock (h : Accepts p Reg.GCTL_LOCK s) :
    exec (.configLock p) s = .next (s.setReg Reg.GCTL_LOCK (s.reg Reg.GCTL_LOCK ||| 1)) := by
  have hrow : regRowAt Reg.GCTL_LOCK =
      some { base := Reg.GCTL_LOCK, strides := [], reset := 0, w1c := 2, w1s := 1, whole := true } := by decide +kernel
  have hup : s.down = false := h.1
  have hset (old : Word32) :
      (((old &&& ~~~(0 ||| 0)) ||| (1 &&& (0 ||| 0))) &&& ~~~(1 &&& 2)) ||| (1 &&& 1) = old ||| 1 := by
    have hbits : 1#32 &&& 2#32 = 0#32 := by decide
    simp only [BitVec.ofNat_eq_ofNat, hbits, BitVec.or_self, BitVec.not_zero, BitVec.and_zero, BitVec.or_zero,
      BitVec.and_allOnes, BitVec.and_self]
  calc exec (.configLock p) s
      = ifUp s (.next (pathWrite p Reg.GCTL_LOCK 1 s)) := rfl
    _ = .next (writePlain _ Reg.GCTL_LOCK 1 s) := by
        rw [ifUp_eq hup, pathWrite_eq h hrow (by decide) (by decide), writeEffect_plain rfl rfl]
    _ = _ := by simp only [writePlain, ite_self, hset]

/-- An accepted write of GCTL_PKG_ID (R30). -/
theorem exec_pkgIdWrite (v : Word32) (h : Accepts p Reg.GCTL_PKG_ID s) :
    exec (.pkgIdWrite p v) s = .next (writePkgId v s) :=
  ifUp_pathWrite_single (f := fun _ => writePkgId) h (by decide +kernel) rfl rfl (by decide) (by decide)

/-- An accepted write of GCTL_MODE (R158). -/
theorem exec_gctlModeWrite (v : Word32) (h : Accepts p Reg.GCTL_MODE s) :
    exec (.gctlModeWrite p v) s = .next (writeMode v s) :=
  ifUp_pathWrite_single (f := fun _ => writeMode) h (by decide +kernel) rfl rfl (by decide) (by decide)

/-- An accepted write of GCTL_ROLE_VAL (R439). -/
theorem exec_roleStageWrite (v : Word32) (h : Accepts p Reg.GCTL_ROLE_VAL s) :
    exec (.roleStageWrite p v) s = .next (writeRoleVal v s) :=
  ifUp_pathWrite_single (f := fun _ => writeRoleVal) h (by decide +kernel) rfl rfl (by decide) (by decide)

/-- An accepted write of GCTL_ROLE_CMT_HI (R439). -/
theorem exec_roleCommit (v : Word32) (h : Accepts p Reg.GCTL_ROLE_CMT_HI s) :
    exec (.roleCommit p v) s = .next (writeRoleCmt v s) :=
  ifUp_pathWrite_single (f := fun _ => writeRoleCmt) h (by decide +kernel) rfl rfl (by decide) (by decide)

/-- An accepted write of GCTL_MEMB_VAL_LO or GCTL_MEMB_VAL_HI (R443). -/
theorem exec_membershipWrite (hi : Bool) (v : Word32)
    (h : Accepts p (if hi then Reg.GCTL_MEMB_VAL_HI else Reg.GCTL_MEMB_VAL_LO) s) :
    exec (.membershipWrite p hi v) s = .next (writeMemb hi v s) := by
  cases hi
  case false => exact ifUp_pathWrite_single h (by decide +kernel) rfl rfl (by decide) (by decide)
  case true => exact ifUp_pathWrite_single h (by decide +kernel) rfl rfl (by decide) (by decide)

end

/-! ### Modes and accumulators -/

/-- What one core's part of `clearAccs` does to the cores. -/
theorem core_clearAcc (i j : Nat) (s : State) :
    (if (s.core i).tns.acc.isEmpty then s else updTns i (fun t => { t with acc := [] }) s).core j =
      if j = i then { s.core i with tns := { (s.core i).tns with acc := [] } } else s.core j := by
  split
  next hempty =>
    have hacc : (s.core i).tns.acc = [] := List.isEmpty_iff.1 hempty
    split
    next hj => rw [hj, ← hacc]
    next => rfl
  next => exact State.core_updCore ..

/-- Every core of the package has its accumulators reset, and keeps the rest (R209). -/
theorem core_clearAccs (s : State) (j : Nat) :
    (clearAccs s).core j = if j < 384 then { s.core j with tns := { (s.core j).tns with acc := [] } } else s.core j := by
  unfold clearAccs
  generalize 384 = n
  induction n with
  | zero => rfl
  | succ n ih =>
    rw [forEach, List.range_succ, List.foldl_append]
    refine (core_clearAcc n j _).trans ?_
    rw [forEach] at ih
    rcases Nat.lt_trichotomy j n with hlt | rfl | hgt
    · rw [if_neg (by omega), ih, if_pos hlt, if_pos (by omega)]
    · rw [if_pos rfl, ih, if_neg (by omega), if_pos (by omega)]
    · rw [if_neg (by omega), ih, if_neg (by omega), if_neg (by omega)]

/-- Steps that change only the cores change together only the cores. -/
theorem forEach_onlyCores {α : Type} {f : α → State → State} (hf : ∀ a t, f a t = { t with cores := (f a t).cores }) :
    ∀ (l : List α) (s : State), forEach l f s = { s with cores := (forEach l f s).cores }
  | [], _ => rfl
  | a :: l, s => (forEach_onlyCores hf l (f a s)).trans
      (congrArg (fun t => { t with cores := (forEach l f (f a s)).cores }) (hf a s))

theorem clearAccs_onlyCores (s : State) : clearAccs s = { s with cores := (clearAccs s).cores } := by
  refine forEach_onlyCores (fun i t => ?_) _ s
  split
  next => rfl
  next => rfl

@[simp] theorem clearAccs_regs (s : State) : (clearAccs s).regs = s.regs := by rw [clearAccs_onlyCores]

@[simp] theorem clearAccs_mem (s : State) : (clearAccs s).mem = s.mem := by rw [clearAccs_onlyCores]

/-- GCTL_MODE keeps its bits while a job starts or runs (R158). -/
theorem writeMode_inJob {s : State} (v : Word32) (h : s.noJob = false) : writeMode v s = s := by
  simp [writeMode, h]

/-- A write that leaves PAIR changes GCTL_MODE alone (R158). -/
theorem writeMode_samePair {s : State} {v : Word32} (h : s.noJob = true)
    (hpair : F.GCTL_MODE.PAIR.get v = s.fld Reg.GCTL_MODE F.GCTL_MODE.PAIR) :
    writeMode v s = s.setReg Reg.GCTL_MODE (v &&& 0xF) := by
  have hold : F.GCTL_MODE.PAIR.get (s.reg Reg.GCTL_MODE) = F.GCTL_MODE.PAIR.get v := hpair.symm
  simp [writeMode, h, hold]

/-- A write that changes PAIR resets every accumulator as well (R209). -/
theorem writeMode_newPair {s : State} {v : Word32} (h : s.noJob = true)
    (hpair : F.GCTL_MODE.PAIR.get v ≠ s.fld Reg.GCTL_MODE F.GCTL_MODE.PAIR) :
    writeMode v s = clearAccs (s.setReg Reg.GCTL_MODE (v &&& 0xF)) := by
  have hold : F.GCTL_MODE.PAIR.get (s.reg Reg.GCTL_MODE) ≠ F.GCTL_MODE.PAIR.get v := hpair.symm
  simp [writeMode, h, hold]

/-- A register written and every accumulator reset (R209): slots, the other registers and memory are as before. -/
theorem setReg_clearAccs_effect (s : State) (a : Nat) (v : Word32) :
    let t := clearAccs (s.setReg a v)
    t.reg a = v ∧ (∀ i, i < 384 → (t.core i).tns.acc = [] ∧ (t.core i).slots = (s.core i).slots) ∧
      (∀ b, b ≠ a → t.reg b = s.reg b) ∧ t.mem = s.mem := by
  have hreg (b : Nat) : (clearAccs (s.setReg a v)).reg b = (s.setReg a v).reg b :=
    congrArg (sget regReset · b) (clearAccs_regs _)
  refine ⟨(hreg a).trans (State.reg_setReg_same ..), fun i hi => ?cores,
    fun b hb => (hreg b).trans (State.reg_setReg_ne _ _ hb), clearAccs_mem _⟩
  rw [core_clearAccs, if_pos hi]
  exact ⟨rfl, rfl⟩

/-! ### Roles -/

/-- Does GCTL_ROLE_SEL name an entry of the staged bank? -/
def State.SelectsStaged (s : State) : Prop :=
  s.flag Reg.GCTL_ROLE_SEL F.GCTL_ROLE_SEL.BANK = true ∧ s.fld Reg.GCTL_ROLE_SEL F.GCTL_ROLE_SEL.ROLE ≠ 0xFFFF

/-- Is the role value `v` refused: a commit is armed, or `v` is valid and names no kind of unit (R439)? -/
def State.RefusesRole (s : State) (v : Word32) : Prop :=
  s.roles.commit.isSome = true ∨ (F.GCTL_ROLE_VAL.KIND.get v = 0 ∧ v.getLsbD 31 = true)

/-- Only the staged bank is written (Table 17-5). -/
theorem writeRoleVal_of_not_selectsStaged {s : State} (v : Word32) (h : ¬s.SelectsStaged) : writeRoleVal v s = s := by
  refine if_pos ?_
  simpa [State.SelectsStaged, ← Bool.not_eq_true, or_iff_not_imp_left] using h

/-- A refused role value sets IGN (R439). -/
theorem writeRoleVal_of_refusesRole {s : State} {v : Word32} (h : s.SelectsStaged) (hbad : s.RefusesRole v) :
    writeRoleVal v s = roleIgn s := by
  obtain ⟨hbank, hrole⟩ := h
  exact (if_neg (by simp [hbank, hrole])).trans (if_pos (by simpa [State.RefusesRole] using hbad))

/-- An accepted role value takes its entry of the staged bank (R439). -/
theorem writeRoleVal_takes {s : State} {v : Word32} (h : s.SelectsStaged) (hgood : ¬s.RefusesRole v) :
    writeRoleVal v s = { s with roles := { s.roles with
      staged := sset (fun _ => 0) s.roles.staged (s.fld Reg.GCTL_ROLE_SEL F.GCTL_ROLE_SEL.ROLE) (v &&& 0x80FFFFFF) } } := by
  obtain ⟨hbank, hrole⟩ := h
  exact (if_neg (by simp [hbank, hrole])).trans (if_neg (by simpa [State.RefusesRole] using hgood))

/-- The boundary a commit written with `v` names (Table 17-5). -/
def State.commitBoundary (s : State) (v : Word32) : Nat :=
  (s.reg Reg.GCTL_ROLE_CMT_LO).toNat + 2 ^ 32 * (v.toNat % 65536)

/-- BND_HI is the low half of GCTL_ROLE_CMT_HI. -/
theorem bndHi_get (v : Word32) : F.GCTL_ROLE_CMT_HI.BND_HI.get v = v.toNat % 65536 := rfl

/-- EPOCH is the high half of GCTL_ROLE_CMT_HI. -/
theorem epoch_get (v : Word32) : F.GCTL_ROLE_CMT_HI.EPOCH.get v = v.toNat / 65536 := by
  change (v.toNat >>> 16) % 65536 = v.toNat / 65536
  rw [Nat.shiftRight_eq_div_pow]
  omega

/-- A second commit sets IGN (R439). -/
theorem writeRoleCmt_armed {s : State} (v : Word32) (h : s.roles.commit.isSome = true) :
    writeRoleCmt v s = roleIgn s := if_pos h

/-- With no commit armed, one for a boundary that has passed is late, and any other is armed (R439). -/
theorem writeRoleCmt_none {s : State} (v : Word32) (h : s.roles.commit = none) :
    writeRoleCmt v s =
      if s.tick.started = true ∧ s.commitBoundary v ≤ s.tick.index then
        (s.setReg Reg.GCTL_ROLE_CMT_HI v).setFlag Reg.GCTL_ROLE_STAT F.GCTL_ROLE_STAT.LATE
      else
        { s.setReg Reg.GCTL_ROLE_CMT_HI v with
          roles := { s.roles with commit := some (s.commitBoundary v, v.toNat / 65536) } } := by
  have hpast : (s.tick.started && decide (s.commitBoundary v ≤ s.tick.index)) = true ↔
      s.tick.started = true ∧ s.commitBoundary v ≤ s.tick.index := by rw [Bool.and_eq_true, decide_eq_true_eq]
  rw [← epoch_get]
  exact (if_neg (by simp [h])).trans (if_congr hpast rfl rfl)

/-! ### Membership -/

/-- A membership write while a job starts or runs sets IGN (R443). -/
theorem writeMemb_inJob {s : State} (hi : Bool) (v : Word32) (h : s.noJob = false) :
    writeMemb hi v s = s.setFlag Reg.GCTL_MEMB_STAT F.GCTL_MEMB_STAT.IGN := by simp [writeMemb, h]

/-- Outside a job a write of the high half takes the selected entry's (R443). -/
theorem writeMemb_hi {s : State} (v : Word32) (h : s.noJob = true) :
    writeMemb true v s =
      { s with roles := { s.roles with membHi := sset (fun _ => 0) s.roles.membHi s.membSel (v &&& 0x3FFFFF) } } := by
  simp [writeMemb, h]

/-- Outside a job a write of the low half takes the selected entry's (R443). -/
theorem writeMemb_lo {s : State} (v : Word32) (h : s.noJob = true) :
    writeMemb false v s =
      { s with roles := { s.roles with membLo := sset (fun _ => 0) s.roles.membLo s.membSel (v &&& 0x80FFFFFF) } } := by
  simp [writeMemb, h]

/-- What an accepted membership write changes: its half of the selected entry. -/
theorem writeMemb_takes {s : State} (hi : Bool) (v : Word32) (h : s.noJob = true) :
    let t := writeMemb hi v s
    (hi = true → t.membHi s.membSel = v &&& 0x3FFFFF ∧ ∀ n, t.membLo n = s.membLo n) ∧
      (hi = false → t.membLo s.membSel = v &&& 0x80FFFFFF ∧ ∀ n, t.membHi n = s.membHi n) ∧
      (∀ n, n ≠ s.membSel → t.membLo n = s.membLo n ∧ t.membHi n = s.membHi n) ∧
      t = { s with roles := { s.roles with membLo := t.roles.membLo, membHi := t.roles.membHi } } := by
  cases hi
  case true =>
    rw [writeMemb_hi v h]
    exact ⟨fun _ => ⟨sget_sset_same .., fun _ => rfl⟩, nofun, fun n hn => ⟨rfl, sget_sset_ne _ _ _ hn⟩, rfl⟩
  case false =>
    rw [writeMemb_lo v h]
    exact ⟨nofun, fun _ => ⟨sget_sset_same .., fun _ => rfl⟩, fun n hn => ⟨sget_sset_ne _ _ _ hn, rfl⟩, rfl⟩

/-- Settles O49: an accepted write is the effect of its register, taken case by case. -/
theorem modesAndRolesAreWritten : Obligations.ModesAndRolesAreWritten := by
  unfold Obligations.ModesAndRolesAreWritten
  refine ⟨fun p v s => ⟨fun hacc => ?lock, exec_pkgIdWrite v, fun hacc => ?mode⟩,
    fun p v s => ⟨fun hacc => ?stage, fun hacc => ?commit, fun hi hacc => ?membership⟩⟩
  case lock => exact ⟨_, exec_configLock hacc, regBecomes_setReg ..⟩
  case mode =>
    rw [exec_gctlModeWrite v hacc]
    refine ⟨fun hjob => congrArg _ (writeMode_inJob v hjob), fun hjob hpair => ?samePair, fun hjob hpair => ?newPair⟩
    case samePair => exact ⟨_, congrArg _ (writeMode_samePair hjob hpair), regBecomes_setReg ..⟩
    case newPair => exact ⟨_, congrArg _ (writeMode_newPair hjob hpair), setReg_clearAccs_effect ..⟩
  case stage =>
    rw [exec_roleStageWrite v hacc]
    exact ⟨fun hsel => congrArg _ (writeRoleVal_of_not_selectsStaged v hsel),
      fun hsel hbad => congrArg _ (writeRoleVal_of_refusesRole hsel hbad),
      fun hsel hgood => ⟨_, congrArg _ (writeRoleVal_takes hsel hgood), sget_sset_same ..,
        fun n hn => sget_sset_ne _ _ _ hn, rfl⟩⟩
  case commit =>
    rw [exec_roleCommit v hacc]
    refine ⟨fun harmed => congrArg _ (writeRoleCmt_armed v harmed), fun hnone hstarted hpast => ?late,
      fun hnone hcome => ?armed⟩
    case late =>
      refine ⟨_, congrArg _ ((writeRoleCmt_none v hnone).trans (if_pos ⟨hstarted, hpast⟩)), rfl, ?flag, rfl⟩
      rw [State.flag_eq, State.bit_setFlag _ _ _ _ _ (by decide)]
      simp
    case armed =>
      have hnot : ¬(s.tick.started = true ∧ s.commitBoundary v ≤ s.tick.index) := fun ⟨hstarted, hpast⟩ =>
        hcome.elim (ne_true_of_eq_false · hstarted) (Nat.not_lt.2 hpast)
      exact ⟨_, congrArg _ ((writeRoleCmt_none v hnone).trans (if_neg hnot)), rfl, rfl⟩
  case membership =>
    rw [exec_membershipWrite hi v hacc]
    exact ⟨fun hjob => congrArg _ (writeMemb_inJob hi v hjob), fun hjob => ⟨_, rfl, writeMemb_takes hi v hjob⟩⟩

end Sys2Proof.Machine
end

section
/-! The test port (R478-R480): what loading an instruction does to it, after a thermal shutdown, for the instructions that
leave the pins alone and for those that drive them. -/

namespace Sys2Proof.Machine

open Sys2Proof

section
variable {s : State} (i : JtagInstr)

/-- A thermal shutdown holds the port: nothing is loaded (R391). -/
theorem jtagLoad_shut (pins : Bool) (h : s.thermal.shut = true) : jtagLoad i pins s = s := if_pos h

/-- Loading an instruction touches nothing but the port (R480). -/
theorem jtagLoad_frame (pins : Bool) (s : State) :
    jtagLoad i pins s = { s with jtag := (jtagLoad i pins s).jtag } := by
  cases h : s.thermal.shut
  case true => rw [jtagLoad_shut i pins h]
  case false => simp [jtagLoad, h]

/-- What an instruction that leaves the pins alone does to the port: it acts as itself, and only IDCODE puts the identity
in the data register (R479). -/
theorem jtagLoad_inward (h : s.thermal.shut = false) :
    (jtagLoad i false s).jtag = { s.jtag with
      loaded := i, acts := i, dr := if i = .idcode then 0x40064547 else 0, driving := false } :=
  congrArg State.jtag (if_neg (ne_true_of_eq_false h))

/-- Short of a shutdown the pins may be driven exactly while RST_N is asserted (R480). -/
theorem jtagActs_eq (h : s.thermal.shut = false) : s.jtagActs = !s.lands.rstN := by
  simp [State.jtagActs, h]

/-- An instruction that drives the pins is loaded, but acts, and all but HIGHZ drive, only while RST_N is asserted;
else it acts as BYPASS. The boundary cells stay (R480). -/
theorem jtagLoad_pins (h : s.thermal.shut = false) :
    let j := (jtagLoad i true s).jtag
    j.loaded = i ∧ j.cells = s.jtag.cells ∧
      (s.lands.rstN = false → j.acts = i ∧ (j.driving = true ↔ i ≠ .highz)) ∧
      (¬s.lands.rstN = false → j.acts = .bypass ∧ j.driving = false) := by
  rw [jtagLoad, if_neg (ne_true_of_eq_false h), jtagActs_eq h]
  refine ⟨rfl, rfl, fun hasserted => ?asserted, fun hreleased => ?released⟩
  case asserted => simp [hasserted]
  case released => simp [eq_true_of_ne_false hreleased]

end

/-! ### SAMPLE/PRELOAD and TRST_N -/

section
variable {s : State} (cells : List Bool)

/-- Loading an instruction leaves the shutdown latch. -/
theorem jtagLoad_thermal (i : JtagInstr) (pins : Bool) (s : State) : (jtagLoad i pins s).thermal = s.thermal := by
  rw [jtagLoad_frame]

/-- After a thermal shutdown the boundary cells take nothing (R391). -/
theorem exec_jtagSamplePreload_shut (h : s.thermal.shut = true) : exec (.jtagSamplePreload cells) s = .next s := by
  change execJtagSamplePreload cells s = _
  simp only [execJtagSamplePreload, jtagLoad_shut _ _ h, if_pos h]

/-- SAMPLE/PRELOAD loads itself and the boundary cells (R478). -/
theorem exec_jtagSamplePreload (h : s.thermal.shut = false) :
    exec (.jtagSamplePreload cells) s = .next { s with jtag := { (jtagLoad .sample false s).jtag with cells := cells } } := by
  change execJtagSamplePreload cells s = _
  rw [execJtagSamplePreload, jtagLoad_thermal, if_neg (ne_true_of_eq_false h), jtagLoad_frame]

/-- After a thermal shutdown TRST_N does nothing (R391). -/
theorem exec_jtagTrst_shut (h : s.thermal.shut = true) : exec .jtagTrst s = .next s :=
  congrArg Host.Outcome.next (if_pos h)

/-- TRST_N puts the port back to its start, with IDCODE loaded (R478). -/
theorem exec_jtagTrst (h : s.thermal.shut = false) :
    exec .jtagTrst s = .next { s with jtag := { ({} : Jtag) with dr := 0x40064547 } } :=
  congrArg Host.Outcome.next (if_neg (ne_true_of_eq_false h))

end

/-- Settles O56: seven instructions are one load each, SAMPLE/PRELOAD takes the boundary cells besides, and TRST_N
puts the port back to its start. -/
theorem testPortLoads : Obligations.TestPortLoads := by
  unfold Obligations.TestPortLoads
  refine fun s cells => ⟨fun hshut => ?held, fun hrun => ?loads⟩
  case held =>
    have hload (i : JtagInstr) (pins : Bool) : (.next (jtagLoad i pins s) : Out) = .next s :=
      congrArg _ (jtagLoad_shut i pins hshut)
    simp only [List.forall_mem_cons]
    exact ⟨hload .bypass false, hload .idcode false, exec_jtagSamplePreload_shut cells hshut, hload .extest true,
      hload .extestPulse true, hload .extestTrain true, hload .clamp true, hload .highz true,
      exec_jtagTrst_shut hshut, nofun⟩
  case loads =>
    have hinward (i : JtagInstr) := jtagLoad_inward i hrun
    have hpins (i : JtagInstr) := And.intro (jtagLoad_pins i hrun) (jtagLoad_frame i true s)
    refine ⟨⟨_, rfl, ?bypass, jtagLoad_frame ..⟩, ⟨_, rfl, ?idcode, jtagLoad_frame ..⟩, ?sample, ⟨_, rfl, hpins .extest⟩,
      ⟨_, rfl, hpins .extestPulse⟩, ⟨_, rfl, hpins .extestTrain⟩, ⟨_, rfl, hpins .clamp⟩, ⟨_, rfl, hpins .highz⟩, ?trst⟩
    case bypass => simp [hinward]
    case idcode => simp [hinward]
    case sample => exact ⟨_, exec_jtagSamplePreload cells hrun, by simp [hinward], rfl⟩
    case trst => exact ⟨_, exec_jtagTrst hrun, ⟨rfl, rfl⟩, rfl⟩

end Sys2Proof.Machine
end

section
/-! What an operation leaves as it was. `Keeps K s t` says of a state `t` reached from `s` that the queue of waiting commands
is that of `s`, that memory is canonical if it was, and that the parts of the state flagged in `K` are those of `s`. An
operation `f` then has one lemma, `f_keeps`: an equivalence where it does not touch memory, so that `simp` passes it by, and
an implication where it does. Its hypotheses `K.part = false` name the parts that `f` may change. -/

namespace Sys2Proof.Machine

open Sys2Proof

/-- The parts of a state that an operation is said to leave as they are. -/
structure Kept where
  cores : Bool := false
  stks : Bool := false
  mem : Bool := false
  regs : Bool := false
  tick : Bool := false
  power : Bool := false
  thermal : Bool := false
  lands : Bool := false
  clock : Bool := false

/-- What `Keeps` says, of the parts it speaks of alone: an update of any other part of a state does not show in it. -/
def KeepsParts (K : Kept) (s : State) (pending : List Instr) (cores : SMap Core) (stks : SMap Stack) (mem : SMap Byte)
    (regs : SMap Word32) (tick : Tick) (power : Power) (thermal : Thermal) (lands : Lands) (now tb : Nat)
    (tsync : Tsync) : Prop :=
  pending = s.pending ∧ (memWf s.mem = true → memWf mem = true) ∧ (K.cores = true → cores = s.cores) ∧
    (K.stks = true → stks = s.stks) ∧ (K.mem = true → mem = s.mem) ∧ (K.regs = true → regs = s.regs) ∧
    (K.tick = true → tick = s.tick) ∧ (K.power = true → power = s.power) ∧ (K.thermal = true → thermal = s.thermal) ∧
    (K.lands = true → lands = s.lands) ∧ (K.clock = true → now = s.now ∧ tb = s.tb ∧ tsync = s.tsync)

/-- State `t` has the queue of waiting commands of `s`, canonical memory if `s` has, and the parts in `K` of `s`. -/
def Keeps (K : Kept) (s t : State) : Prop :=
  KeepsParts K s t.pending t.cores t.stks t.mem t.regs t.tick t.power t.thermal t.lands t.now t.tb t.tsync

/-- Every next state that `o` answers keeps what `K` says of `s`. -/
def NextKeeps (K : Kept) (s : State) (o : Out) : Prop := ∀ t, o = .next t → Keeps K s t

theorem Keeps.refl {K : Kept} {s : State} : Keeps K s s := by simp [Keeps, KeepsParts]

section
variable {K : Kept} {s t u : State}

@[simp] theorem keepsParts_self :
    KeepsParts K s t.pending t.cores t.stks t.mem t.regs t.tick t.power t.thermal t.lands t.now t.tb t.tsync ↔
      Keeps K s t := Iff.rfl

@[simp] theorem keeps_mk {regs live mem sram cores stks hbm points bwrWin links tick tsync power thermal boot roles
    faults erl pcie smb jtag lands fuses frozenHost frozenMgmt latch routeLo routeStaged inbox answer meas now tb freeCtr
    pending} :
    Keeps K s { regs, live, mem, sram, cores, stks, hbm, points, bwrWin, links, tick, tsync, power, thermal, boot,
                roles, faults, erl, pcie, smb, jtag, lands, fuses, frozenHost, frozenMgmt, latch, routeLo, routeStaged, inbox,
                answer, meas, now, tb, freeCtr, pending } ↔
      KeepsParts K s pending cores stks mem regs tick power thermal lands now tb tsync := Iff.rfl

@[simp] theorem keeps_ite {c : Prop} [Decidable c] :
    Keeps K s (if c then t else u) ↔ if c then Keeps K s t else Keeps K s u := by
  split <;> rfl

@[simp] theorem nextKeeps_next : NextKeeps K s (.next t) ↔ Keeps K s t :=
  ⟨fun h => h t rfl, fun h _ e => by cases e; exact h⟩

@[simp] theorem nextKeeps_ite {c : Prop} [Decidable c] {o p : Out} :
    NextKeeps K s (if c then o else p) ↔ if c then NextKeeps K s o else NextKeeps K s p := by
  split <;> rfl

/-- An update of one part shows only where `K` holds that part. -/
@[simp] theorem keeps_cores {cores : SMap Core} (h : K.cores = false) :
    KeepsParts K s t.pending cores t.stks t.mem t.regs t.tick t.power t.thermal t.lands t.now t.tb t.tsync ↔
      Keeps K s t := by
  simp only [KeepsParts, Keeps, h, Bool.false_eq_true, false_implies, true_and]

@[simp] theorem keeps_stks {stks : SMap Stack} (h : K.stks = false) :
    KeepsParts K s t.pending t.cores stks t.mem t.regs t.tick t.power t.thermal t.lands t.now t.tb t.tsync ↔
      Keeps K s t := by
  simp only [KeepsParts, Keeps, h, Bool.false_eq_true, false_implies, true_and]

@[simp] theorem keeps_regs {regs : SMap Word32} (h : K.regs = false) :
    KeepsParts K s t.pending t.cores t.stks t.mem regs t.tick t.power t.thermal t.lands t.now t.tb t.tsync ↔
      Keeps K s t := by
  simp only [KeepsParts, Keeps, h, Bool.false_eq_true, false_implies, true_and]

@[simp] theorem keeps_tick {tick : Tick} (h : K.tick = false) :
    KeepsParts K s t.pending t.cores t.stks t.mem t.regs tick t.power t.thermal t.lands t.now t.tb t.tsync ↔
      Keeps K s t := by
  simp only [KeepsParts, Keeps, h, Bool.false_eq_true, false_implies, true_and]

@[simp] theorem keeps_power {power : Power} (h : K.power = false) :
    KeepsParts K s t.pending t.cores t.stks t.mem t.regs t.tick power t.thermal t.lands t.now t.tb t.tsync ↔
      Keeps K s t := by
  simp only [KeepsParts, Keeps, h, Bool.false_eq_true, false_implies, true_and]

@[simp] theorem keeps_thermal {thermal : Thermal} (h : K.thermal = false) :
    KeepsParts K s t.pending t.cores t.stks t.mem t.regs t.tick t.power thermal t.lands t.now t.tb t.tsync ↔
      Keeps K s t := by
  simp only [KeepsParts, Keeps, h, Bool.false_eq_true, false_implies, true_and]

@[simp] theorem keeps_power_thermal {power : Power} {thermal : Thermal} (hpower : K.power = false)
    (hthermal : K.thermal = false) :
    KeepsParts K s t.pending t.cores t.stks t.mem t.regs t.tick power thermal t.lands t.now t.tb t.tsync ↔
      Keeps K s t := by
  simp only [KeepsParts, Keeps, hpower, hthermal, Bool.false_eq_true, false_implies, true_and]

@[simp] theorem keeps_lands {lands : Lands} (h : K.lands = false) :
    KeepsParts K s t.pending t.cores t.stks t.mem t.regs t.tick t.power t.thermal lands t.now t.tb t.tsync ↔
      Keeps K s t := by
  simp only [KeepsParts, Keeps, h, Bool.false_eq_true, false_implies, true_and]

@[simp] theorem keeps_clock {now tb : Nat} {tsync : Tsync} (h : K.clock = false) :
    KeepsParts K s t.pending t.cores t.stks t.mem t.regs t.tick t.power t.thermal t.lands now tb tsync ↔
      Keeps K s t := by
  simp only [KeepsParts, Keeps, h, Bool.false_eq_true, false_implies]

/-- Memory that is canonical if the memory before was may take its place where `K` does not hold it. -/
theorem keeps_mem {mem : SMap Byte} (hmem : K.mem = false) (hwf : memWf t.mem = true → memWf mem = true)
    (h : Keeps K s t) :
    KeepsParts K s t.pending t.cores t.stks mem t.regs t.tick t.power t.thermal t.lands t.now t.tb t.tsync := by
  obtain ⟨hp, hw, hc, hk, -, hrest⟩ := h
  exact ⟨hp, fun e => hwf (hw e), hc, hk, by simp [hmem], hrest⟩

/-- What each element's operation keeps, an operation for each element keeps. -/
theorem forEach_keeps {α : Type} {xs : List α} {f : α → State → State}
    (hf : ∀ x t, Keeps K s t → Keeps K s (f x t)) (h : Keeps K s t) : Keeps K s (forEach xs f t) := by
  induction xs generalizing t with
  | nil => exact h
  | cons x xs ih => exact ih (hf x t h)

/-- Operations of which none shows do not show together. -/
@[simp] theorem forEach_keeps_iff {α : Type} {xs : List α} {f : α → State → State}
    (hf : ∀ x t, Keeps K s (f x t) ↔ Keeps K s t) : Keeps K s (forEach xs f t) ↔ Keeps K s t := by
  induction xs generalizing t with
  | nil => rfl
  | cons x xs ih => exact ih.trans (hf x t)

/-- The same of a fold over an accumulator that carries the state in `g`. -/
theorem foldl_keeps {α β : Type} {xs : List α} {f : β → α → β} (g : β → State) {b : β}
    (hf : ∀ x b, Keeps K s (g b) → Keeps K s (g (f b x))) (h : Keeps K s (g b)) : Keeps K s (g (xs.foldl f b)) := by
  induction xs generalizing b with
  | nil => exact h
  | cons x xs ih => exact ih (hf x b h)

theorem foldl_keeps_iff {α β : Type} {xs : List α} {f : β → α → β} (g : β → State) {b : β}
    (hf : ∀ x b, Keeps K s (g (f b x)) ↔ Keeps K s (g b)) : Keeps K s (g (xs.foldl f b)) ↔ Keeps K s (g b) := by
  induction xs generalizing b with
  | nil => rfl
  | cons x xs ih => exact ih.trans (hf x b)

@[simp] theorem foldl_keeps_state {α : Type} {xs : List α} {f : State → α → State}
    (hf : ∀ x t, Keeps K s (f t x) ↔ Keeps K s t) : Keeps K s (xs.foldl f t) ↔ Keeps K s t :=
  foldl_keeps_iff id hf

@[simp] theorem foldl_keeps_snd {α β : Type} {xs : List α} {f : β × State → α → β × State} {b : β × State}
    (hf : ∀ x b, Keeps K s (f b x).2 ↔ Keeps K s b.2) : Keeps K s (xs.foldl f b).2 ↔ Keeps K s b.2 :=
  foldl_keeps_iff Prod.snd hf

@[simp] theorem foldl_keeps_trd {α β γ : Type} {xs : List α} {f : β × γ × State → α → β × γ × State}
    {b : β × γ × State} (hf : ∀ x b, Keeps K s (f b x).2.2 ↔ Keeps K s b.2.2) :
    Keeps K s (xs.foldl f b).2.2 ↔ Keeps K s b.2.2 :=
  foldl_keeps_iff (fun b : β × γ × State => b.2.2) hf

/-- The same where the state is the last of three components: read off what a step of the fold answers, so that no check
has to evaluate it. -/
theorem foldl_keeps_of_eq {α β γ : Type} {xs : List α} {f : β × γ × State → α → β × γ × State} {b : β × γ × State}
    (hf : ∀ x b, Keeps K s b.2.2 → ∀ y z u, f b x = (y, z, u) → Keeps K s u) (h : Keeps K s b.2.2) :
    Keeps K s (xs.foldl f b).2.2 := by
  induction xs generalizing b with
  | nil => exact h
  | cons x xs ih => exact ih (hf x b h _ _ _ rfl)

/-- The state that is the last of three components keeps `K` of `s`. (A definition of its own, so that a check compares
the triples and evaluates neither.) -/
def KeepsLast {α β : Type} (K : Kept) (s : State) (o : α × β × State) : Prop := Keeps K s o.2.2

theorem keeps_of_eq_snd {α : Type} {o : α × State} {a : α} (e : o = (a, u)) (h : Keeps K s o.2) : Keeps K s u := by
  subst e
  exact h

theorem keeps_of_eq {α β : Type} {o : α × β × State} {a : α} {b : β} (e : o = (a, b, u)) (h : Keeps K s o.2.2) :
    Keeps K s u := by
  subst e
  exact h

end

end Sys2Proof.Machine
end

section
/-! The state, its registers and what each operation on them keeps. -/

namespace Sys2Proof.Machine

open Sys2Proof

section
variable {K : Kept} {s t u : State}

/-- A package that is down answers the state as it is. -/
@[simp] theorem ifUp_keeps {o : Out} (h : Keeps K s t) :
    NextKeeps K s (ifUp t o) ↔ (t.down = false → NextKeeps K s o) := by
  unfold ifUp
  cases t.down <;> simp [h]

@[simp] theorem State.setReg_keeps {a : ℕ} {v : Word32} (hregs : K.regs = false) : Keeps K s (t.setReg a v) ↔ Keeps
    K s t := by
  simp [State.setReg, hregs]

@[simp] theorem State.setFld_keeps {a : ℕ} {f : Fld} {x : ℕ} (hregs : K.regs = false) : Keeps K s (t.setFld a f x) ↔
    Keeps K s t := by
  simp [State.setFld, hregs]

@[simp] theorem State.setBit_keeps {a i : ℕ} (hregs : K.regs = false) : Keeps K s (t.setBit a i) ↔ Keeps K s t := by
  simp [State.setBit, hregs]

@[simp] theorem State.clrBit_keeps {a i : ℕ} (hregs : K.regs = false) : Keeps K s (t.clrBit a i) ↔ Keeps K s t := by
  simp [State.clrBit, hregs]

@[simp] theorem State.setFlag_keeps {a : ℕ} {f : Fld} {b : Bool} (hregs : K.regs = false) : Keeps K s (t.setFlag a f
    b) ↔ Keeps K s t := by
  simp [State.setFlag, hregs]

@[simp] theorem State.setPair_keeps {a v : ℕ} (hregs : K.regs = false) : Keeps K s (t.setPair a v) ↔ Keeps K s t :=
    by
  simp [State.setPair, hregs]

@[simp] theorem State.setLive_keeps {a v : ℕ} : Keeps K s (t.setLive a v) ↔ Keeps K s t := by
  simp [State.setLive]

@[simp] theorem State.count_keeps {a n : ℕ} : Keeps K s (t.count a n) ↔ Keeps K s t := by
  simp [State.count]

@[simp] theorem State.bump_keeps {a : ℕ} {f : Fld} {n : ℕ} (hregs : K.regs = false) : Keeps K s (t.bump a f n) ↔
    Keeps K s t := by
  simp [State.bump, hregs]

@[simp] theorem State.setCore_keeps {i : ℕ} {c : Core} (hcores : K.cores = false) : Keeps K s (t.setCore i c) ↔
    Keeps K s t := by
  simp [State.setCore, hcores]

@[simp] theorem State.setStk_keeps {i : ℕ} {x : Stack} (hstks : K.stks = false) : Keeps K s (t.setStk i x) ↔ Keeps K
    s t := by
  simp [State.setStk, hstks]

@[simp] theorem State.setMc_keeps {m : ℕ} {x : Hbm} : Keeps K s (t.setMc m x) ↔ Keeps K s t := by
  simp [State.setMc]

@[simp] theorem State.setPoint_keeps {p : ℕ} {x : Point} : Keeps K s (t.setPoint p x) ↔ Keeps K s t := by
  simp [State.setPoint]

@[simp] theorem State.setLink_keeps {l : ℕ} {x : Link} : Keeps K s (t.setLink l x) ↔ Keeps K s t := by
  simp [State.setLink]

@[simp] theorem State.setSlot_keeps {i g : ℕ} {x : Slot} (hcores : K.cores = false) : Keeps K s (t.setSlot i g x) ↔
    Keeps K s t := by
  simp [State.setSlot, hcores]

@[simp] theorem State.setChan_keeps {k n : ℕ} {c : Chan} (hstks : K.stks = false) : Keeps K s (t.setChan k n c) ↔
    Keeps K s t := by
  simp [State.setChan, hstks]

@[simp] theorem updCore_keeps {i : ℕ} {f : Core → Core} (hcores : K.cores = false) : Keeps K s (updCore i f t) ↔
    Keeps K s t := by
  simp [updCore, hcores]

@[simp] theorem updSlot_keeps {i g : ℕ} {f : Slot → Slot} (hcores : K.cores = false) : Keeps K s (updSlot i g f t) ↔
    Keeps K s t := by
  simp [updSlot, hcores]

@[simp] theorem updStk_keeps {k : ℕ} {f : Stack → Stack} (hstks : K.stks = false) : Keeps K s (updStk k f t) ↔ Keeps
    K s t := by
  simp [updStk, hstks]

@[simp] theorem updChan_keeps {k n : ℕ} {f : Chan → Chan} (hstks : K.stks = false) : Keeps K s (updChan k n f t) ↔
    Keeps K s t := by
  simp [updChan, hstks]

@[simp] theorem updLink_keeps {l : ℕ} {f : Link → Link} : Keeps K s (updLink l f t) ↔ Keeps K s t := by
  simp [updLink]

@[simp] theorem State.draw_keeps {w : ℕ} : Keeps K s (t.draw w).2 ↔ Keeps K s t := by
  simp [State.draw]

@[simp] theorem State.setByte_keeps {a : Nat} {v : Byte} (hmem : K.mem = false) (h : Keeps K s t) :
    Keeps K s (t.setByte a v) := by
  obtain ⟨hp, hwf, hc, hk, -, hrest⟩ := h
  exact ⟨hp, fun e => swf_sset _ _ (hwf e), hc, hk, by simp [hmem], hrest⟩

@[simp] theorem State.setBytes_keeps {a : Nat} {bs : List Byte} (hmem : K.mem = false) (h : Keeps K s t) :
    Keeps K s (t.setBytes a bs) := by
  induction bs generalizing a t with
  | nil => exact h
  | cons b bs ih => exact ih (State.setByte_keeps hmem h)

@[simp] theorem State.advance_keeps {t' : ℕ} (hclock : K.clock = false) : Keeps K s (t.advance t') ↔ Keeps K s t :=
    by
  simp [State.advance, hclock]

@[simp] theorem State.advanceTb_keeps {t' : ℕ} (hclock : K.clock = false) : Keeps K s (t.advanceTb t') ↔ Keeps K s t
    := by
  simp [State.advanceTb, hclock]

@[simp] theorem updPoint_keeps {p : ℕ} {f : Point → Point} : Keeps K s (updPoint p f t) ↔ Keeps K s t := by
  simp [updPoint]

@[simp] theorem bwrSend_keeps {p m bytes : ℕ} {deadline issued : Option ℕ} : Keeps K s (bwrSend p m bytes deadline t
    issued) ↔ Keeps K s t := by
  simp [bwrSend]

@[simp] theorem bwrDram_keeps {h' m bytes : ℕ} {deadline issued : Option ℕ} : Keeps K s (bwrDram h' m bytes deadline
    t issued) ↔ Keeps K s t := by
  unfold bwrDram
  split <;> simp

@[simp] theorem bwrSram_keeps {t' m bytes : ℕ} {deadline issued : Option ℕ} : Keeps K s (bwrSram t' m bytes deadline
    t issued) ↔ Keeps K s t := by
  unfold bwrSram
  split <;> simp

@[simp] theorem intSettle1_keeps {fed : Bool} {v : ℕ} : Keeps K s (intSettle1 t fed v) ↔ Keeps K s t := by
  simp [intSettle1]

@[simp] theorem intEvent_keeps {v : ℕ} : Keeps K s (intEvent v t) ↔ Keeps K s t := by
  simp [intEvent]

@[simp] theorem queueOn_keeps {l mst : ℕ} {m : Msg} : Keeps K s (queueOn l mst m t) ↔ Keeps K s t := by
  simp [queueOn]

@[simp] theorem sendMsg_keeps {m : Msg} {via : Option ℕ} : Keeps K s (sendMsg m t via) ↔ Keeps K s t := by
  unfold sendMsg
  simp only
  repeat' split
  all_goals simp

@[simp] theorem State.awaitAnswer_keeps {tag type role : ℕ} : Keeps K s (t.awaitAnswer tag type role) ↔ Keeps K s t
    := by
  simp [State.awaitAnswer]

@[simp] theorem newTag_keeps {mst : ℕ} : Keeps K s (newTag mst t).2 ↔ Keeps K s t := by
  simp [newTag]

@[simp] theorem setRecLife_keeps {i : ℕ} {x : RecLife} : Keeps K s (setRecLife i x t) ↔ Keeps K s t := by
  simp [setRecLife]

@[simp] theorem setFloodLife_keeps {i : ℕ} {x : RecLife} : Keeps K s (setFloodLife i x t) ↔ Keeps K s t := by
  simp [setFloodLife]

@[simp] theorem markReporter_keeps {b : ℕ} {who : Option ℕ} (hregs : K.regs = false) : Keeps K s (markReporter b who
    t) ↔ Keeps K s t := by
  unfold markReporter
  split <;> simp [hregs]

@[simp] theorem countReport_keeps {b : ℕ} {who : Option ℕ} (hregs : K.regs = false) : Keeps K s (countReport b who
    t) ↔ Keeps K s t := by
  simp [countReport, hregs]

@[simp] theorem forwardRec_keeps {i : ℕ} (hregs : K.regs = false) : Keeps K s (forwardRec i t) ↔ Keeps K s t := by
  simp [forwardRec, hregs]

@[simp] theorem openRec_keeps {i : ℕ} {r : Report} (hregs : K.regs = false) : Keeps K s (openRec i r t) ↔ Keeps K s
    t := by
  simp [openRec, hregs]

@[simp] theorem foldFlood_keeps {r : Report} (hregs : K.regs = false) : Keeps K s (foldFlood r t) ↔ Keeps K s t :=
    by
  simp [foldFlood, hregs]

@[simp] theorem report_keeps {r : Report} (hregs : K.regs = false) : Keeps K s (report r t) ↔ Keeps K s t := by
  unfold report
  split <;> split <;> simp [hregs]

@[simp] theorem reportLocal_keeps {kind index cls detail : ℕ} (hregs : K.regs = false) : Keeps K s (reportLocal kind
    index cls detail t) ↔ Keeps K s t := by
  simp [reportLocal, hregs]

@[simp] theorem reportPkg_keeps {p cls detail : ℕ} (hregs : K.regs = false) : Keeps K s (reportPkg p cls detail t) ↔
    Keeps K s t := by
  simp [reportPkg, hregs]

@[simp] theorem decodeErr_keeps {who : Src} {a k : ℕ} (hregs : K.regs = false) : Keeps K s (decodeErr who a k t) ↔
    Keeps K s t := by
  simp [decodeErr, hregs]

end

end Sys2Proof.Machine
end

section
/-! The address map, the regulator, the checkers of stored words and lines, DRAM, bonds and the SRAM keep the queue and
the form of memory. -/

namespace Sys2Proof.Machine

open Sys2Proof

section
variable {K : Kept} {s t u : State}

@[simp] theorem requestGuarantee_keeps {m g : ℕ} {ps : List ℕ} (hregs : K.regs = false) : Keeps K s
    (requestGuarantee m g ps t).2 ↔ Keeps K s t := by
  unfold requestGuarantee
  split <;> simp [hregs]

@[simp] theorem releaseGuarantees_keeps {p : ℕ → Bool} : Keeps K s (releaseGuarantees p t) ↔ Keeps K s t := by
  simp [releaseGuarantees]

theorem execBwrFeedback_keeps (hclock : K.clock = false) (h : Keeps K s t) : NextKeeps K s (execBwrFeedback t) := by
  simp [execBwrFeedback, hclock, h]

@[simp] theorem bwrMiss_keeps {kind m p : ℕ} (hregs : K.regs = false) : Keeps K s (bwrMiss kind m p t) ↔ Keeps K s t
    := by
  simp [bwrMiss, hregs]

@[simp] theorem bwrServe_keeps {p : ℕ} {r : BwrReq} (hregs : K.regs = false) : Keeps K s (bwrServe p r t) ↔ Keeps K
    s t := by
  simp [bwrServe, hregs]

theorem execBwrRequestServe_keeps {p : Fin 40} (hregs : K.regs = false) (h : Keeps K s t) : NextKeeps K s
    (execBwrRequestServe p t) := by
  unfold execBwrRequestServe
  split <;> simp [hregs, h]

@[simp] theorem bwrRestart_keeps : Keeps K s (bwrRestart t) ↔ Keeps K s t := by
  simp [bwrRestart]

theorem execBwrMissWindow_keeps (hregs : K.regs = false) (hclock : K.clock = false) (h : Keeps K s t) :
    NextKeeps K s (execBwrMissWindow t) := by
  have hmiss {p : ℕ} {xs : List ℕ} {v : State} :
      Keeps K s (forEach xs (fun m s => bwrMiss 0 m p s) v) ↔ Keeps K s v := by
    simp [hregs]
  simp [execBwrMissWindow, hmiss, hclock, h]

@[simp] theorem writeGval_keeps {v : Word32} (hregs : K.regs = false) : Keeps K s (writeGval v t) ↔ Keeps K s t :=
    by
  simp [writeGval, hregs]

@[simp] theorem logWrite_keeps {e0 : ErrEntry} (hregs : K.regs = false) : Keeps K s (logWrite e0 t) ↔ Keeps K s t :=
    by
  simp [logWrite, hregs]

@[simp] theorem logMerge_keeps {i : ℕ} : Keeps K s (logMerge i t) ↔ Keeps K s t := by
  simp [logMerge]

@[simp] theorem logErr_keeps {e0 : ErrEntry} (hregs : K.regs = false) : Keeps K s (logErr e0 t) ↔ Keeps K s t := by
  unfold logErr
  simp only
  repeat' split
  all_goals simp [hregs]

/-- Bytes stored one by one. -/
@[simp] theorem setEach_keeps {a : ℕ} {bs : List (ℕ × Byte)} (hmem : K.mem = false) (h : Keeps K s t) :
    Keeps K s (bs.foldl (fun t x => t.setByte (a + x.1) x.2) t) :=
  foldl_keeps id (fun _ _ => State.setByte_keeps hmem) h

@[simp] theorem setSyms_keeps {a : ℕ} {e0 : List (ℕ × Byte)} : Keeps K s (setSyms a e0 t) ↔ Keeps K s t := by
  simp [setSyms]

@[simp] theorem setPoison_keeps {a : ℕ} {p : Bool} : Keeps K s (setPoison a p t) ↔ Keeps K s t := by
  simp [setPoison]

@[simp] theorem judgeLine_keeps {e0 : List (ℕ × Byte)} {how : How} {a off : ℕ} {raw : List Byte} {tag0 : ℕ} (hregs :
    K.regs = false) : Keeps K s (judgeLine e0 how a off raw tag0 t).2.2 ↔ Keeps K s t := by
  unfold judgeLine
  simp only
  repeat' split
  all_goals simp [hregs]

@[simp] theorem readLine_keeps {how : How} {a : ℕ} (hregs : K.regs = false) : Keeps K s (readLine how a t).2.2 ↔
    Keeps K s t := by
  simp [readLine, hregs]

@[simp] theorem writeLine_keeps {how : How} {a : ℕ} {bs : List (ℕ × Byte)} (hmem : K.mem = false)
    (hregs : K.regs = false) (h : Keeps K s t) : Keeps K s (writeLine how a bs t) := by
  unfold writeLine
  simp only
  split
  · split <;> simp [hmem, h]
  · have hread (v : State) : Keeps K s (readLine { how with rmw := true } a v).2.2 ↔ Keeps K s v := readLine_keeps hregs
    repeat' split
    all_goals simp [hmem, h, hread]

@[simp] theorem dramStore_keeps {how : How} {wb : Bool} {bs : StoreBytes} (hmem : K.mem = false) (hregs : K.regs =
    false) (h : Keeps K s t) : Keeps K s (dramStore how wb bs t) := by
  unfold dramStore
  refine forEach_keeps (fun _ t h => ?_) h
  simp only
  repeat' split
  all_goals simp [hmem, hregs, h]

@[simp] theorem poisonStore_keeps {stack slab : ℕ} {bs : StoreBytes} (hmem : K.mem = false) (hregs : K.regs = false)
    (h : Keeps K s t) : Keeps K s (poisonStore stack slab bs t) := by
  unfold poisonStore
  refine forEach_keeps (fun l t h => ?_) h
  split <;> simp [hmem, hregs, h]

@[simp] theorem dramLoad_keeps {how : How} {a n : ℕ} (hregs : K.regs = false) :
    Keeps K s (dramLoad how a n t).2.2 ↔ Keeps K s t := by
  refine foldl_keeps_iff (fun b : List Byte × Bool × State => b.2.2) fun _ b => ?_
  simp only
  split <;> simp [hregs]

@[simp] theorem markInvalid_keeps (htick : K.tick = false) : Keeps K s (markInvalid t) ↔ Keeps K s t := by
  simp [markInvalid, htick]

@[simp] theorem l2Retire_keeps {k : ℕ} {gone blind : ℕ → ℕ → Bool} (hstks : K.stks = false) (hmem : K.mem = false)
    (hregs : K.regs = false) (htick : K.tick = false) (h : Keeps K s t) : Keeps K s (l2Retire k gone blind t) := by
  unfold l2Retire
  extract_lets set hit dirty t' u
  have hu : Keeps K s u := forEach_keeps (fun e t h => poisonStore_keeps hmem hregs h) (by simp [t', hstks, h])
  split <;> simp [hregs, htick, hu]

@[simp] theorem l2RetirePort_keeps {k c r : ℕ} (hstks : K.stks = false) (hmem : K.mem = false) (hregs : K.regs =
    false) (htick : K.tick = false) (h : Keeps K s t) : Keeps K s (l2RetirePort k c r t) := by
  simp [l2RetirePort, hstks, hmem, hregs, htick, h]

@[simp] theorem l2RetireGranule_keeps {k c g : ℕ} (hstks : K.stks = false) (hmem : K.mem = false) (hregs : K.regs =
    false) (htick : K.tick = false) (h : Keeps K s t) : Keeps K s (l2RetireGranule k c g t) := by
  simp [l2RetireGranule, hstks, hmem, hregs, htick, h]

/-- Words whose storage is given up. -/
theorem keeps_drop {mine : ℕ → Bool} {sram : SMap Byte} (hmem : K.mem = false) (h : Keeps K s t) :
    Keeps K s { t with mem := sdrop mine t.mem, sram := sram } :=
  keeps_mem (t := t) hmem (fun e => swf_sdrop _ e) h

@[simp] theorem fenceRegion_keeps {k c r : ℕ} (hstks : K.stks = false) (hmem : K.mem = false)
    (hregs : K.regs = false) (htick : K.tick = false) (h : Keeps K s t) : Keeps K s (fenceRegion k c r t) := by
  unfold fenceRegion
  split
  · exact h
  · refine (updStk_keeps hstks).2 (keeps_drop hmem ?_)
    simp [hstks, hmem, hregs, htick, h]

@[simp] theorem enterDead_keeps {k : ℕ} {b : Bond} (hstks : K.stks = false) (hregs : K.regs = false) : Keeps K s
    (enterDead k b t) ↔ Keeps K s t := by
  simp [enterDead, hstks, hregs]

@[simp] theorem declareBond_keeps {k : ℕ} {b : Bond} (hstks : K.stks = false) (hmem : K.mem = false) (hregs : K.regs
    = false) (htick : K.tick = false) (h : Keeps K s t) : Keeps K s (declareBond k b t) := by
  unfold declareBond
  simp only
  repeat' split
  all_goals simp [hstks, hmem, hregs, htick, h]

@[simp] theorem bondHit_keeps {k : ℕ} {b : Bond} {off : ℕ} (hstks : K.stks = false) (hmem : K.mem = false) (hregs :
    K.regs = false) (htick : K.tick = false) (h : Keeps K s t) : Keeps K s (bondHit k b off t) := by
  simp [bondHit, hstks, hmem, hregs, htick, h]

@[simp] theorem bondDouble_keeps {k c off y : ℕ} (hstks : K.stks = false) (hmem : K.mem = false) (hregs : K.regs =
    false) (htick : K.tick = false) (h : Keeps K s t) : Keeps K s (bondDouble k c off y t) := by
  unfold bondDouble
  simp only
  split <;> simp [hstks, hmem, hregs, htick, h]

@[simp] theorem State.setDev_keeps {w : ℕ} {d : Byte} : Keeps K s (t.setDev w d) ↔ Keeps K s t := by
  simp [State.setDev]

@[simp] theorem putWord_keeps {w : ℕ} {v : Word64} (hmem : K.mem = false) (h : Keeps K s t) : Keeps K s (putWord w v
    t) := by
  simp [putWord, hmem, h]

@[simp] theorem crossing_keeps {w : ℕ} : Keeps K s (crossing w t).2 ↔ Keeps K s t := by
  unfold crossing
  split <;> simp

@[simp] theorem flipMem_keeps {w : ℕ} {x : BitVec 72} (hmem : K.mem = false) (h : Keeps K s t) : Keeps K s (flipMem
    w x t) := by
  simp [flipMem, hmem, h]

@[simp] theorem portWrite_keeps {w : ℕ} {v : Word64} (hmem : K.mem = false) (h : Keeps K s t) : Keeps K s (portWrite
    w v t) := by
  simp [portWrite, hmem, h]

@[simp] theorem judgeCode_keeps {up : BitVec 72} {how : How} {w : ℕ} {d : Word64} {dev : Byte} (hstks : K.stks =
    false) (hmem : K.mem = false) (hregs : K.regs = false) (htick : K.tick = false) (h : Keeps K s t) : Keeps K s
    (judgeCode up how w d dev t).2.2 := by
  unfold judgeCode
  simp only
  repeat' split
  all_goals simp [hstks, hmem, hregs, htick, h]

@[simp] theorem judgeWord_keeps {up : BitVec 72} {how : How} {w : ℕ} {d : Word64} {dev : Byte} (hstks : K.stks =
    false) (hmem : K.mem = false) (hregs : K.regs = false) (htick : K.tick = false) (h : Keeps K s t) : Keeps K s
    (judgeWord up how w d dev t).2.2 := by
  simp [judgeWord, hstks, hmem, hregs, htick, h]

@[simp] theorem setMergeBuf_keeps {k key : ℕ} {es : List MergeEntry} (hstks : K.stks = false) : Keeps K s
    (setMergeBuf k key es t) ↔ Keeps K s t := by
  simp [setMergeBuf, hstks]

@[simp] theorem writeEntry_keeps {e0 : MergeEntry} (hstks : K.stks = false) (hmem : K.mem = false) (hregs : K.regs =
    false) (htick : K.tick = false) (h : Keeps K s t) : Keeps K s (writeEntry e0 t) := by
  simp [writeEntry, hstks, hmem, hregs, htick, h]

@[simp] theorem flushWord_keeps {w : ℕ} (hstks : K.stks = false) (hmem : K.mem = false) (hregs : K.regs = false)
    (htick : K.tick = false) (h : Keeps K s t) : Keeps K s (flushWord w t) := by
  unfold flushWord
  simp only
  repeat' split
  all_goals simp [hstks, hmem, hregs, htick, h]

@[simp] theorem mergeStore_keeps {w : ℕ} {mask : BitVec 8} {data : Word64} (hstks : K.stks = false) (hmem : K.mem =
    false) (hregs : K.regs = false) (htick : K.tick = false) (h : Keeps K s t) : Keeps K s (mergeStore w mask data
    t) := by
  unfold mergeStore
  simp only
  repeat' split
  all_goals simp [hstks, hmem, hregs, htick, h]

@[simp] theorem sramStore_keeps {how : How} {bs : StoreBytes} (hstks : K.stks = false) (hmem : K.mem = false)
    (hregs : K.regs = false) (htick : K.tick = false) (h : Keeps K s t) : Keeps K s (sramStore how bs t) := by
  refine forEach_keeps (fun w t h => ?_) (by split <;> simp [h])
  simp only
  repeat' split
  all_goals simp [hstks, hmem, hregs, htick, h]

@[simp] theorem sramLoad_keeps {how : How} {a n : ℕ} (hstks : K.stks = false) (hmem : K.mem = false)
    (hregs : K.regs = false) (htick : K.tick = false) (h : Keeps K s t) : Keeps K s (sramLoad how a n t).2.2 := by
  refine foldl_keeps (fun b : List Byte × Bool × State => b.2.2) (fun _ b h => ?_) (by simp [h])
  simp [hstks, hmem, hregs, htick, h]

end

end Sys2Proof.Machine
end

section
/-! The caches and the flags keep the queue and the form of memory. -/

namespace Sys2Proof.Machine

open Sys2Proof

section
variable {K : Kept} {s t u : State}

theorem putBytes_keeps {rd : ℕ → State → Word64 × Bool × State} {x : CLine} {bs : List (ℕ × Byte)}
    (hrd : ∀ o t, Keeps K s t → Keeps K s (rd o t).2.2) (h : Keeps K s t) : Keeps K s (putBytes rd x bs t).2.2 := by
  unfold putBytes
  refine foldl_keeps (fun b : CLine × List (ℕ × Byte) × State => b.2.2) (fun i b hb => ?_) h
  have := hrd (8 * i) _ hb
  simp only
  repeat' split
  all_goals assumption

theorem putBytes_keeps_iff {rd : ℕ → State → Word64 × Bool × State} {x : CLine} {bs : List (ℕ × Byte)}
    (hrd : ∀ o t, Keeps K s (rd o t).2.2 ↔ Keeps K s t) : Keeps K s (putBytes rd x bs t).2.2 ↔ Keeps K s t := by
  unfold putBytes
  refine foldl_keeps_iff (fun b : CLine × List (ℕ × Byte) × State => b.2.2) fun i b => ?_
  simp only
  repeat' split
  all_goals simp [hrd]

@[simp] theorem updL2_keeps {k : ℕ} {f : L2 → L2} (hstks : K.stks = false) : Keeps K s (updL2 k f t) ↔ Keeps K s t
    := by
  simp [updL2, hstks]

@[simp] theorem l2WbAck_keeps {k h' : ℕ} (hstks : K.stks = false) (hmem : K.mem = false) (hregs : K.regs = false) (h
    : Keeps K s t) : Keeps K s (l2WbAck k h' t) := by
  unfold l2WbAck
  split <;> simp [hstks, hmem, hregs, h]

/-- Words judged one by one; the judgement is a variable here, so that no check evaluates it. -/
theorem judgedWords_keeps {k key : ℕ} {x : CLine} {os : List ℕ}
    {judge : ℕ → Word64 → Byte → State → Word64 × Bool × State}
    (hjudge : ∀ w d dev v, Keeps K s v → Keeps K s (judge w d dev v).2.2) (h : Keeps K s t) :
    Keeps K s (os.foldl (fun (acc : CLine × Bool × State) i =>
      let (y, bad, s) := acc
      let w := s.l2Word k key (8 * i)
      let (v, e, s) := judge w (x.word (8 * i)) (s.devAt w) s
      (y.setWord (8 * i) v, bad || e, s)) (x, false, t)).2.2 := by
  refine foldl_keeps (fun b : CLine × Bool × State => b.2.2) (fun i b h => ?_) h
  simp [hjudge, h]

@[simp] theorem l2ReadDirty_keeps {k key : ℕ} {how : How} {x : CLine} (hstks : K.stks = false) (hmem : K.mem = false)
    (hregs : K.regs = false) (htick : K.tick = false) (h : Keeps K s t) :
    Keeps K s (l2ReadDirty k key how x t).2.2 := by
  have := judgedWords_keeps (k := k) (key := key) (x := x) (judge := judgeWord 0 how)
    (os := (List.range 16).filter fun i => x.dirty8 (8 * i) != 0)
    (fun _ _ _ _ h => judgeWord_keeps hstks hmem hregs htick h) h
  exact this

@[simp] theorem l2SendLine_keeps {k : ℕ} {how : How} {x : CLine} {bad : Bool} (hmem : K.mem = false) (hregs : K.regs
    = false) (h : Keeps K s t) : Keeps K s (l2SendLine k how x bad t) := by
  simp [l2SendLine, hmem, hregs, h]

@[simp] theorem l2Evict_keeps {k key master : ℕ} {x : CLine} (hstks : K.stks = false) (hmem : K.mem = false) (hregs
    : K.regs = false) (htick : K.tick = false) (h : Keeps K s t) : Keeps K s (l2Evict k key master x t) := by
  simp [l2Evict, hstks, hmem, hregs, htick, h]

@[simp] theorem l2Flip_keeps {k key o : ℕ} {x : BitVec 72} (hstks : K.stks = false) : Keeps K s (l2Flip k key o x t)
    ↔ Keeps K s t := by
  simp [l2Flip, hstks]

@[simp] theorem l2Encode_keeps {k key : ℕ} {os : List ℕ} (hstks : K.stks = false) :
    Keeps K s (l2Encode k key os t) ↔ Keeps K s t := by
  unfold l2Encode
  split
  · rfl
  · refine forEach_keeps_iff fun o t => ?_
    extract_lets w
    have hcross : Keeps K s (crossing w (t.setDev w 0)).2 ↔ Keeps K s t := by simp
    rcases hc : crossing w (t.setDev w 0) with ⟨x, v⟩
    rw [hc] at hcross
    exact (l2Flip_keeps hstks).trans hcross

@[simp] theorem l2Merge_keeps {k key : ℕ} {how : How} {x : CLine} {o : ℕ} (hstks : K.stks = false) (hmem : K.mem =
    false) (hregs : K.regs = false) (htick : K.tick = false) (h : Keeps K s t) : Keeps K s (l2Merge k key how x o
    t).2.2 := by
  simp [l2Merge, hstks, hmem, hregs, htick, h]

@[simp] theorem l2Put_keeps {k key : ℕ} {how : How} {x y : CLine} {bs : List (ℕ × Byte)} (hstks : K.stks = false)
    (hmem : K.mem = false) (hregs : K.regs = false) (htick : K.tick = false) (h : Keeps K s t) :
    Keeps K s (putBytes (l2Merge k key how x) y bs t).2.2 :=
  putBytes_keeps (fun _ _ h => l2Merge_keeps hstks hmem hregs htick h) h

@[simp] theorem l2Install_keeps {k l ac master : ℕ} {f : CLine → CLine} (hstks : K.stks = false) (hmem : K.mem =
    false) (hregs : K.regs = false) (htick : K.tick = false) (h : Keeps K s t) : Keeps K s (l2Install k l ac master
    f t) := by
  unfold l2Install
  simp only
  split <;> simp [hstks, hmem, hregs, htick, h]

@[simp] theorem l2Update_keeps {k : ℕ} {x : CLine} (hstks : K.stks = false) : Keeps K s (l2Update k x t) ↔ Keeps K s
    t := by
  unfold l2Update
  split <;> simp [hstks]

@[simp] theorem l2Touch_keeps {k l : ℕ} (hstks : K.stks = false) : Keeps K s (l2Touch k l t) ↔ Keeps K s t := by
  unfold l2Touch
  split <;> simp [hstks]

@[simp] theorem l2Count_keeps {k ac : ℕ} {hit : Bool} : Keeps K s (l2Count k ac hit t) ↔ Keeps K s t := by
  simp [l2Count]

@[simp] theorem l2Request_keeps {k ac l : ℕ} {w : L2Waiter} (hstks : K.stks = false) : Keeps K s (l2Request k ac l w
    t) ↔ Keeps K s t := by
  simp [l2Request, hstks]

@[simp] theorem l2Drop_keeps {k l : ℕ} (hstks : K.stks = false) : Keeps K s (l2Drop k l t) ↔ Keeps K s t := by
  unfold l2Drop
  split <;> simp [hstks]

@[simp] theorem l2Mark_keeps {k ac l : ℕ} (hstks : K.stks = false) : Keeps K s (l2Mark k ac l t) ↔ Keeps K s t := by
  simp [l2Mark, hstks]

@[simp] theorem l2StoreLine_keeps {k ac : ℕ} {how : How} {l : ℕ} {bs : List (ℕ × Byte)} (hstks : K.stks = false)
    (hmem : K.mem = false) (hregs : K.regs = false) (htick : K.tick = false) (h : Keeps K s t) :
    Keeps K s (l2StoreLine k ac how l bs t) := by
  unfold l2StoreLine
  simp only
  repeat' split
  all_goals simp [hstks, hmem, hregs, htick, h]

@[simp] theorem l2Store_keeps {k ac owner miss : ℕ} {last : Bool} {bs : StoreBytes} {how : How} (hstks : K.stks =
    false) (hmem : K.mem = false) (hregs : K.regs = false) (htick : K.tick = false) (h : Keeps K s t) : Keeps K s
    (l2Store k ac owner miss last bs how t) := by
  unfold l2Store
  refine forEach_keeps (fun _ t h => ?_) h
  simp [hstks, hmem, hregs, htick, h]

@[simp] theorem l2FillLine_keeps {k l ac master : ℕ} {bytes : List Byte} (hstks : K.stks = false) (hmem : K.mem =
    false) (hregs : K.regs = false) (htick : K.tick = false) (h : Keeps K s t) : Keeps K s (l2FillLine k l ac master
    bytes t) := by
  unfold l2FillLine
  split <;> simp [hstks, hmem, hregs, htick, h]

@[simp] theorem l2Refetch_keeps {k ac l : ℕ} (hstks : K.stks = false) : Keeps K s (l2Refetch k ac l t) ↔ Keeps K s t
    := by
  simp [l2Refetch, hstks]

/-- The words that an L2 holds of a line; the judgement is a variable here, so that no check evaluates it. -/
theorem heldWords_keeps {k key o n l : ℕ} {x : CLine} {os : List ℕ} {mask : ℕ → Byte} {all : Bool}
    {judge : ℕ → Word64 → Byte → State → Word64 × Bool × State}
    (hjudge : ∀ w d dev v, Keeps K s v → Keeps K s (judge w d dev v).2.2) (h : Keeps K s t) :
    KeepsLast K s (os.foldl (fun (acc : List Byte × Option ℕ × State) i =>
          let (bs, bad, s) := acc
          if mask (8 * i) = 0 || (all && (decide (8 * i + 8 ≤ o) || decide (o + n ≤ 8 * i))) then
            (bs ++ List.replicate 8 0, bad, s)
          else
            let w := s.l2Word k key (8 * i)
            let (v, e, s) := judge w (x.word (8 * i)) (s.devAt w) s
            (bs ++ leBytes 8 v.toNat, if bad.isNone && e then some (l * 128 + 8 * i) else bad, s))
          ([], none, t)) := by
  refine foldl_keeps (fun b : List Byte × Option ℕ × State => b.2.2) (fun i b h => ?_) h
  simp only
  split <;> simp [hjudge, h]

/-- A line read past the L2, half by half. -/
theorem farLine_keeps {l : ℕ} {load : ℕ → ℕ → State → List Byte × Bool × State}
    (hload : ∀ a n v, Keeps K s v → Keeps K s (load a n v).2.2) (h : Keeps K s t) :
    Keeps K s ((List.range 2).foldl (fun (acc : List Byte × Option ℕ × State) h =>
      let a := l * 128 + 64 * h
      let (d, e, s) := load a 64 acc.2.2
      (acc.1 ++ d, if acc.2.1.isNone && e then some a else acc.2.1, s)) ([], none, t)).2.2 := by
  refine foldl_keeps (fun b : List Byte × Option ℕ × State => b.2.2) (fun i b h => ?_) h
  simp [hload, h]

/-- What the ways to read a line keep, the reading of the line keeps, whichever of them it takes. -/
theorem readHeld_keeps {how : How} {k l o n : ℕ} {held : Option CLine} {found : Option (ℕ × CLine)}
    {far : State → List Byte × Option ℕ × State} {drop : State → State}
    {read : CLine → ℕ → List Byte × Option ℕ × State} (hstks : K.stks = false) (hmem : K.mem = false)
    (hregs : K.regs = false) (htick : K.tick = false) (hfar : ∀ v, Keeps K s v → Keeps K s (far v).2.2)
    (hdrop : ∀ v, Keeps K s v → Keeps K s (drop v)) (hread : ∀ x key, KeepsLast K s (read x key)) (h : Keeps K s t) :
    Keeps K s (match held with
      | none => far t
      | some x =>
        let (words, bad, s) := match found with
          | none => ([], none, t)
          | some (key, _) => read x key
        let bytes := if words.isEmpty then (List.range 128).map x.byte else words
        if bad.isSome && x.dirty != 0 then (bytes, bad, drop (poisonStore k (homeSlab l) x.dirtyBytes s))
        else if bad.isSome then
          let (d, e, s) := far (drop s)
          (d, e, if e.isSome then s else l2FillLine k l x.aclass how.master d s)
        else if x.has o n then (bytes, none, l2Touch k l s)
        else
          let (d, e, s) := far s
          (d.zipIdx.map fun (b, o) => if x.valid.getLsbD o then bytes.getD o 0 else b, e, s)).2.2 := by
  split
  · exact hfar t h
  split
  next x words bad v hv =>
  have hv : Keeps K s v := by
    split at hv
    · cases hv
      exact h
    · exact keeps_of_eq hv (hread _ _)
  extract_lets bytes
  split
  · exact hdrop _ (poisonStore_keeps hmem hregs hv)
  split
  · split
    next hu =>
    have := keeps_of_eq hu (hfar _ (hdrop _ hv))
    split
    · exact this
    · exact l2FillLine_keeps hstks hmem hregs htick this
  split
  · simp [hstks, hv]
  · split
    next hu =>
    exact keeps_of_eq hu (hfar _ hv)

@[simp] theorem l2ReadLine_keeps {how : How} {k l o n : ℕ} (hstks : K.stks = false) (hmem : K.mem = false)
    (hregs : K.regs = false) (htick : K.tick = false) (h : Keeps K s t) :
    Keeps K s (l2ReadLine how k l t o n).2.2 := by
  have hjudge (w d dev v) : Keeps K s v → Keeps K s (judgeWord 0 how w d dev v).2.2 :=
    judgeWord_keeps hstks hmem hregs htick
  have hload (a n v) : Keeps K s v → Keeps K s (dramLoad how a n v).2.2 := (dramLoad_keeps hregs).2
  unfold l2ReadLine
  generalize judgeWord 0 how = judge, dramLoad how = load, t.l2Held k l = held, t.l2Find k l = found at hjudge hload ⊢
  exact readHeld_keeps hstks hmem hregs htick (fun _ => farLine_keeps hload) (fun _ => (updL2_keeps hstks).2)
    (fun x key => heldWords_keeps hjudge h) h

@[simp] theorem deliver_keeps {i id : ℕ} {threads : List ℕ} {f : ℕ → List Fetched} (hcores : K.cores = false) :
    Keeps K s (deliver i id threads f t) ↔ Keeps K s t := by
  simp [deliver, hcores]

@[simp] theorem updL1_keeps {i : ℕ} {f : L1 → L1} (hcores : K.cores = false) : Keeps K s (updL1 i f t) ↔ Keeps K s t
    := by
  simp [updL1, hcores]

@[simp] theorem judgeL1_keeps {up : BitVec 72} {rmw : Bool} {i a : ℕ} {w : Word64} {dev : Byte} (hregs : K.regs =
    false) : Keeps K s (judgeL1 up rmw i a w dev t).2.2 ↔ Keeps K s t := by
  unfold judgeL1
  split <;> split <;> simp [hregs]

@[simp] theorem l1Merge_keeps {i : ℕ} {x : CLine} {o : ℕ} (hregs : K.regs = false) : Keeps K s (l1Merge i x o t).2.2
    ↔ Keeps K s t := by
  simp [l1Merge, hregs]

@[simp] theorem l1Put_keeps {i : ℕ} {x y : CLine} {bs : List (ℕ × Byte)} (hregs : K.regs = false) :
    Keeps K s (putBytes (l1Merge i x) y bs t).2.2 ↔ Keeps K s t :=
  putBytes_keeps_iff fun _ _ => l1Merge_keeps hregs

@[simp] theorem l1ReadDirty_keeps {i : ℕ} {x : CLine} (hregs : K.regs = false) :
    Keeps K s (l1ReadDirty i x t).2 ↔ Keeps K s t := by
  unfold l1ReadDirty
  refine foldl_keeps_iff Prod.snd fun n b => ?_
  simp only
  split <;> simp [hregs]

@[simp] theorem pastL1_keeps {i ac owner miss : ℕ} {last : Bool} {bs : StoreBytes} (hstks : K.stks = false) (hmem :
    K.mem = false) (hregs : K.regs = false) (htick : K.tick = false) (h : Keeps K s t) : Keeps K s (pastL1 i ac
    owner miss last bs t) := by
  unfold pastL1
  repeat' split
  all_goals simp [hstks, hmem, hregs, htick, h]

@[simp] theorem l1Send_keeps {i : ℕ} {x : CLine} (hstks : K.stks = false) (hmem : K.mem = false) (hregs : K.regs =
    false) (htick : K.tick = false) (h : Keeps K s t) : Keeps K s (l1Send i x t) := by
  simp [l1Send, hstks, hmem, hregs, htick, h]

@[simp] theorem l1WbAck_keeps {i : ℕ} (h : Keeps {} s t) : Keeps {} s (l1WbAck i t) := by
  unfold l1WbAck
  split <;> simp [h]

@[simp] theorem l1Evict_keeps {i : ℕ} {x : CLine} (h : Keeps {} s t) : Keeps {} s (l1Evict i x t) := by
  simp [l1Evict, h]

@[simp] theorem l1Install_keeps {i l ac : ℕ} {f : CLine → CLine} (h : Keeps {} s t) : Keeps {} s (l1Install i l ac f
    t) := by
  unfold l1Install
  simp only
  split <;> simp [h]

@[simp] theorem l1Update_keeps {i : ℕ} {x : CLine} (hcores : K.cores = false) : Keeps K s (l1Update i x t) ↔ Keeps K
    s t := by
  unfold l1Update
  split <;> simp [hcores]

@[simp] theorem l1Count_keeps {i ac : ℕ} {hit : Bool} : Keeps K s (l1Count i ac hit t) ↔ Keeps K s t := by
  simp [l1Count]

@[simp] theorem l1Mark_keeps {i ac l : ℕ} (hcores : K.cores = false) : Keeps K s (l1Mark i ac l t) ↔ Keeps K s t :=
    by
  unfold l1Mark
  repeat' split
  all_goals simp [hcores]

@[simp] theorem deadMark_keeps {i ac a : ℕ} (hcores : K.cores = false) (hstks : K.stks = false) : Keeps K s
    (deadMark i ac a t) ↔ Keeps K s t := by
  simp [deadMark, hcores, hstks]

@[simp] theorem l1StoreLine_keeps {i ac owner miss l : ℕ} {bs : List (ℕ × Byte)} (h : Keeps {} s t) : Keeps {} s
    (l1StoreLine i ac owner miss l bs t) := by
  unfold l1StoreLine
  split <;> simp [h]

@[simp] theorem fillSource_keeps {i ac l id : ℕ} (hstks : K.stks = false) : Keeps K s (fillSource i ac l id t).2 ↔
    Keeps K s t := by
  unfold fillSource
  simp only
  repeat' split
  all_goals simp [hstks]

@[simp] theorem lanesNow_keeps {i load : ℕ} {ls : List LoadLane} (hcores : K.cores = false) : Keeps K s (lanesNow i
    load ls t) ↔ Keeps K s t := by
  simp [lanesNow, hcores]

@[simp] theorem laneSource_keeps {fresh : Bool} {i ac l load : ℕ} {threads : List ℕ} {lanes : List LoadLane} {size
    : ℕ} (h : Keeps {} s t) : Keeps {} s (laneSource fresh i ac l load threads lanes size t) := by
  unfold laneSource
  split
  · simp only
    repeat' split
    all_goals simp [h]
  · exact forEach_keeps (fun y t h => by simp [h]) (by simp [h])
  · exact h

@[simp] theorem freeMiss_keeps {i id : ℕ} (hcores : K.cores = false) : Keeps K s (freeMiss i id t) ↔ Keeps K s t :=
    by
  simp [freeMiss, hcores]

@[simp] theorem storeMiss_keeps {i id slot ac l : ℕ} {bs : List (ℕ × Byte)} (h : Keeps {} s t) : Keeps {} s
    (storeMiss i id slot ac l bs t) := by
  simp [storeMiss, h]

@[simp] theorem noteNear_keeps {i load : ℕ} {threads : List ℕ} (hcores : K.cores = false) : Keeps K s (noteNear i
    load threads t) ↔ Keeps K s t := by
  simp [noteNear, hcores]

@[simp] theorem takeMiss_keeps {i : ℕ} {r : MissReq} (h : Keeps {} s t) : Keeps {} s (takeMiss i r t) := by
  unfold takeMiss
  simp only
  repeat' split
  all_goals simp [h]

@[simp] theorem l1Wait_keeps {i : ℕ} {r : MissReq} (hcores : K.cores = false) : Keeps K s (l1Wait i r t) ↔ Keeps K s
    t := by
  simp [l1Wait, hcores]

@[simp] theorem missRequest_keeps {i : ℕ} {r : MissReq} (h : Keeps {} s t) : Keeps {} s (missRequest i r t) := by
  unfold missRequest
  simp only
  repeat' split
  all_goals simp [h]

@[simp] theorem lanesMark_keeps {i : ℕ} {ls : List (ℕ × ℕ × ℕ)} (hcores : K.cores = false) (hstks : K.stks = false)
    : Keeps K s (lanesMark i ls t) ↔ Keeps K s t := by
  simp [lanesMark, hcores, hstks]

@[simp] theorem retryWaiting_keeps {i : ℕ} (h : Keeps {} s t) : Keeps {} s (retryWaiting i t) := by
  unfold retryWaiting
  simp only [lanesMark_keeps]
  exact forEach_keeps (fun r t h => missRequest_keeps h) (by simp [h])

@[simp] theorem l1LoadLanes_keeps {i ac load size l : ℕ} {lanes : List LoadLane} (h : Keeps {} s t) : Keeps {} s
    (l1LoadLanes i ac load size l lanes t) := by
  unfold l1LoadLanes
  split <;> simp [h]

@[simp] theorem l1Store_keeps {i slot ac : ℕ} {last : Bool} {l : ℕ} {bs : List (ℕ × Byte)} (h : Keeps {} s t) :
    Keeps {} s (l1Store i slot ac last l bs t) := by
  simp [l1Store, h]

@[simp] theorem serveL1_keeps {i l : ℕ} {bad : Bool} {id : ℕ} {w : L1Waiter} (h : Keeps {} s t) : Keeps {} s
    (serveL1 i l bad id w t) := by
  unfold serveL1
  split <;> simp [h]

@[simp] theorem l1FillLine_keeps {i l ac : ℕ} {bytes : List Byte} (h : Keeps {} s t) : Keeps {} s (l1FillLine i l ac
    bytes t) := by
  unfold l1FillLine
  split <;> simp [h]

/-- The waiters of a miss register are served in order. -/
theorem serveAll_keeps {i l id : ℕ} {bad : Bool} {ws : List L1Waiter} (h : Keeps {} s t) :
    Keeps {} s (forEach ws (serveL1 i l bad id) t) :=
  forEach_keeps (fun _ _ h => serveL1_keeps h) h

@[simp] theorem l1Fill_keeps {i : ℕ} {m : MissReg} (h : Keeps {} s t) : Keeps {} s (l1Fill i m t) := by
  unfold l1Fill
  simp only
  refine retryWaiting_keeps ((forEach_keeps_iff fun ac t => deadMark_keeps rfl rfl).2
    (forEach_keeps (fun x t h => serveAll_keeps h) (serveAll_keeps ?_)))
  simp only [freeMiss_keeps, keeps_ite]
  repeat' split
  all_goals simp [h]

@[simp] theorem serveL2_keeps {k l : ℕ} {bad : Option ℕ} {w : L2Waiter} (h : Keeps {} s t) : Keeps {} s (serveL2 k l
    bad w t) := by
  unfold serveL2
  split <;> simp [h]

@[simp] theorem l2Fill_keeps {k : ℕ} {f : L2Fetch} (h : Keeps {} s t) : Keeps {} s (l2Fill k f t) := by
  unfold l2Fill
  split
  next hu =>
  split
  next v hv =>
  have hv : Keeps {} s v := keeps_of_eq hv ((dramLoad_keeps rfl).2 (keeps_of_eq hu ((dramLoad_keeps rfl).2 h)))
  extract_lets bad v1 v2 v3 v4
  have h1 : Keeps {} s v1 := by
    simp only [v1]
    split <;> simp [hv]
  have h2 : Keeps {} s v2 := (updL2_keeps rfl).2 h1
  have h3 : Keeps {} s v3 := forEach_keeps (fun w t h => serveL2_keeps h) h2
  have h4 : Keeps {} s v4 := forEach_keeps (fun ac t h => by simp [h]) h3
  clear_value v4
  split <;> simp [h4]

@[simp] theorem l2Flush_keeps {k : ℕ} {how : How} {inv : Bool} {key : ℕ} {x : CLine} (hstks : K.stks = false) (hmem
    : K.mem = false) (hregs : K.regs = false) (htick : K.tick = false) (h : Keeps K s t) : Keeps K s (l2Flush k how
    inv key x t) := by
  unfold l2Flush
  simp only
  split <;> simp [hstks, hmem, hregs, htick, h]

@[simp] theorem l2FlushRange_keeps {k : ℕ} {how : How} {a n : ℕ} {inv : Bool} (hstks : K.stks = false)
    (hmem : K.mem = false) (hregs : K.regs = false) (htick : K.tick = false) (h : Keeps K s t) :
    Keeps K s (l2FlushRange k how a n inv t) := by
  unfold l2FlushRange
  split
  · exact h
  · refine forEach_keeps (fun e t h => ?_) (forEach_keeps (fun e t h => by simp [hstks, hmem, hregs, h]) h)
    repeat' split
    all_goals simp [hstks, hmem, hregs, htick, h]

@[simp] theorem settleStores_keeps {i : ℕ} (h : Keeps {} s t) : Keeps {} s (settleStores i t) := by
  unfold settleStores
  refine (forEach_keeps_iff fun x t => deadMark_keeps rfl rfl).2 (forEach_keeps (fun x t h => ?_) (by simp [h]))
  split <;> simp [h]

@[simp] theorem l1Clean_keeps {i : ℕ} (h : Keeps {} s t) : Keeps {} s (l1Clean i t) := by
  unfold l1Clean
  refine forEach_keeps (fun x t h => ?_) (by simp [h])
  split <;> simp [h]

/-- What is kept of a word in memory and of one in an L2 line is kept of a word of a slab, wherever it lies. -/
theorem flipStored_keeps {w : ℕ} {x : BitVec 72} {slab : Bool} {place : ℕ × ℕ × ℕ} {look : ℕ → ℕ → ℕ → Stored}
    (hstks : K.stks = false) (hmem : K.mem = false) (h : Keeps K s t) :
    Keeps K s (if slab then match place with
      | (k, c, off) => match look k c off with
        | .plain => flipMem w x t
        | .line key _ o => l2Flip k key o x t
      else flipMem w x t) := by
  split
  · split
    split
    · exact flipMem_keeps hmem h
    · exact (l2Flip_keeps hstks).2 h
  · exact flipMem_keeps hmem h

@[simp] theorem flipWord_keeps {w : ℕ} {x : BitVec 72} (hstks : K.stks = false) (hmem : K.mem = false)
    (h : Keeps K s t) : Keeps K s (flipWord w x t) :=
  flipStored_keeps (slab := isSlabWord w) (place := slabOfWord w) (look := t.storedAt) hstks hmem h

@[simp] theorem flipL1_keeps {i w : ℕ} {x : BitVec 72} (hcores : K.cores = false) : Keeps K s (flipL1 i w x t) ↔
    Keeps K s t := by
  unfold flipL1
  split <;> simp [hcores]

@[simp] theorem upset_keeps {u' : Upsets} (hcores : K.cores = false) (hstks : K.stks = false) (hmem : K.mem = false)
    (h : Keeps K s t) : Keeps K s (upset u' t) := by
  have hflip : Keeps K s
      (forEach (u'.sram.filter fun x => decide (0x1000000000 ≤ x.1)) (fun x => flipWord x.1 x.2) t) :=
    forEach_keeps (fun x t h => flipWord_keeps hstks hmem h) h
  unfold upset
  simp only [forEach_keeps_iff, flipL1_keeps hcores, setSyms_keeps, updCore_keeps hcores, updChan_keeps hstks, hflip,
    implies_true]

end

end Sys2Proof.Machine
end

section
/-! Operands, traps and the issue of an instruction keep the queue and the form of memory. -/

namespace Sys2Proof.Machine

open Sys2Proof

section
variable {K : Kept} {s t u : State}

@[simp] theorem haltSlots_keeps {trapped : Bool} {i : ℕ} (hcores : K.cores = false) : Keeps K s (haltSlots trapped i
    t) ↔ Keeps K s t := by
  simp [haltSlots, hcores]

@[simp] theorem recordTrap_keeps {i slot thread : ℕ} {cause : Cause} {pc : BitVec 40} (hcores : K.cores = false)
    (hregs : K.regs = false) : Keeps K s (recordTrap i slot thread cause pc t) ↔ Keeps K s t := by
  simp [recordTrap, hcores, hregs]

@[simp] theorem trap_keeps {i slot thread : ℕ} {cause : Cause} {pc : BitVec 40} (hcores : K.cores = false) (hregs :
    K.regs = false) (htick : K.tick = false) : Keeps K s (trap i slot thread cause pc t) ↔ Keeps K s t := by
  simp [trap, hcores, hregs, htick]

@[simp] theorem stopCore_keeps {i : ℕ} (hcores : K.cores = false) (hregs : K.regs = false) (htick : K.tick = false)
    : Keeps K s (stopCore i t) ↔ Keeps K s t := by
  simp [stopCore, hcores, hregs, htick]

@[simp] theorem trapCore_keeps {i : ℕ} (hcores : K.cores = false) (hregs : K.regs = false) (htick : K.tick = false)
    : Keeps K s (trapCore i t) ↔ Keeps K s t := by
  unfold trapCore
  split <;> simp [hcores, hregs, htick]

@[simp] theorem popSrcs_keeps {i g : ℕ} {act : Word64} {fs : List (BitVec 7)} (hcores : K.cores = false) : Keeps K s
    (popSrcs i g act fs t) ↔ Keeps K s t := by
  simp [popSrcs, hcores]

@[simp] theorem pushQ_keeps {i g : ℕ} {act : Word64} {q : ℕ} {v : ℕ → Word32} (hcores : K.cores = false) : Keeps K s
    (pushQ i g act q v t) ↔ Keeps K s t := by
  simp [pushQ, hcores]

@[simp] theorem reserveQ_keeps {i g : ℕ} {act : Word64} {q id : ℕ} (hcores : K.cores = false) : Keeps K s (reserveQ
    i g act q id t) ↔ Keeps K s t := by
  simp [reserveQ, hcores]

@[simp] theorem updIc_keeps {i : ℕ} {f : ICache → ICache} (hcores : K.cores = false) : Keeps K s (updIc i f t) ↔
    Keeps K s t := by
  simp [updIc, hcores]

@[simp] theorem icRequest_keeps {i a : ℕ} (hcores : K.cores = false) (hstks : K.stks = false) : Keeps K s (icRequest
    i a t) ↔ Keeps K s t := by
  unfold icRequest
  simp only
  split <;> simp [hcores, hstks]

@[simp] theorem icMiss_keeps {i g : ℕ} {pc : BitVec 40} (hcores : K.cores = false) (hstks : K.stks = false) (hregs :
    K.regs = false) (htick : K.tick = false) : Keeps K s (icMiss i g pc t) ↔ Keeps K s t := by
  unfold icMiss
  split <;> simp [hcores, hstks, hregs, htick]

/-- A fetch keeps `K` whether it gives a word or the state in which the group waits or has trapped. -/
theorem icFetch_keeps {i g : ℕ} {pc : BitVec 40} (hcores : K.cores = false) (hstks : K.stks = false)
    (hregs : K.regs = false) (htick : K.tick = false) (h : Keeps K s t) :
    (∀ u, icFetch i g pc t = .error u → Keeps K s u) ∧ ∀ w u, icFetch i g pc t = .ok (w, u) → Keeps K s u := by
  unfold icFetch
  split
  · simp [hcores, hstks, hregs, htick, h]
  · simp only
    split
    · simp [h]
    · simp [hregs, h]
    · split <;> simp [hcores, hstks, hregs, htick, h]

/-- So does an issue up to the word that the group is to run. -/
theorem enter_keeps {g : Gid} {w : Word64} (hcores : K.cores = false) (hstks : K.stks = false)
    (hregs : K.regs = false) (htick : K.tick = false) (h : Keeps K s t) :
    (∀ u, enter g w t = .error u → Keeps K s u) ∧ ∀ u, enter g w t = .ok u → Keeps K s u := by
  obtain ⟨herr, hok⟩ := icFetch_keeps (i := gi g) (g := g.g) (pc := (t.slot (gi g) g.g).pc) hcores hstks hregs htick h
  unfold enter
  simp only
  split
  · simp [h]
  · split
    next hf => simpa using herr _ hf
    next v u hf =>
      have := hok v u hf
      split <;> simp [h, this]

@[simp] theorem commitTo_keeps {g : Gid} {next : BitVec 40} (hcores : K.cores = false) (hregs : K.regs = false) :
    Keeps K s (commitTo g next t) ↔ Keeps K s t := by
  simp [commitTo, hcores, hregs]

@[simp] theorem commit_keeps {g : Gid} (hcores : K.cores = false) (hregs : K.regs = false) : Keeps K s (commit g t)
    ↔ Keeps K s t := by
  simp [commit, hcores, hregs]

theorem withTraps_keeps {g : Gid} {body : State → Out} (hcores : K.cores = false) (hregs : K.regs = false)
    (hbody : ∀ v, Keeps K s v → NextKeeps K s (body v)) (h : Keeps K s t) : NextKeeps K s (withTraps g body t) := by
  unfold withTraps
  simp only
  split
  · split
    next v hv =>
      have : Keeps K s v := hbody _ (by simp [hcores, hregs, h]) v hv
      simp [hcores, hregs, h, this]
    next ho =>
      intro v hv
      exact absurd hv (ho v)
  · exact hbody t h

theorem readInner_keeps {i : ℕ} {ks : List Inner} (hcores : K.cores = false) (hregs : K.regs = false) :
    Keeps K s (readInner i ks t).2 ↔ Keeps K s t := by
  unfold readInner
  refine foldl_keeps_iff Prod.snd fun k b => ?_
  simp only
  split
  · rfl
  · split <;> simp [hcores, hregs]

theorem issue_keeps {g : Gid} {w : Word64} {legal : State → Bool} {fs : List (BitVec 7)} {fl : List Bool}
    {srcAct act : Slot → Word64} {push : Option ℕ} {body : (ℕ → ℕ → Word32) → State → State} {busy : State → Bool}
    (hcores : K.cores = false) (hstks : K.stks = false) (hregs : K.regs = false) (htick : K.tick = false)
    (hbody : ∀ rd v, Keeps K s v → Keeps K s (body rd v)) (h : Keeps K s t) :
    NextKeeps K s (issue g w legal fs fl srcAct act push body t busy) := by
  refine withTraps_keeps hcores hregs (fun v hv => ?_) h
  obtain ⟨herr, hok⟩ := enter_keeps (g := g) (w := w) hcores hstks hregs htick hv
  split
  next hu => simpa using herr _ hu
  next u hu =>
    have hu := hok u hu
    extract_lets i x held
    clear_value held
    split
    · simp [hcores, hregs, htick, hu]
    · split
      · simp [hcores, hregs, htick, hu]
      · simpa using hu
      · split
        · simpa using hu
        · have hread (ks) : Keeps K s (readInner i ks u).2 := (readInner_keeps hcores hregs).2 hu
          split
          next hr =>
            have := hr ▸ hread _
            simp [hcores, hregs, htick, this]
          next hr =>
            have := hr ▸ hread _
            simp [hcores, hregs, hbody, this]

end

end Sys2Proof.Machine
end

section
/-! The tensor array, the slots, temperatures and energies keep the queue and the form of memory. -/

namespace Sys2Proof.Machine

open Sys2Proof

section
variable {K : Kept} {s t u : State}

@[simp] theorem updTns_keeps {i : ℕ} {f : Tensor → Tensor} (hcores : K.cores = false) : Keeps K s (updTns i f t) ↔
    Keeps K s t := by
  simp [updTns, hcores]

@[simp] theorem rampWake_keeps {i : ℕ} (hcores : K.cores = false) : Keeps K s (rampWake i t) ↔ Keeps K s t := by
  unfold rampWake
  split <;> simp [hcores]

@[simp] theorem holdSettle_keeps {i : ℕ} (hcores : K.cores = false) : Keeps K s (holdSettle i t) ↔ Keeps K s t := by
  simp [holdSettle, hcores]

@[simp] theorem rampPass_keeps {i : ℕ} (hcores : K.cores = false) : Keeps K s (rampPass i t) ↔ Keeps K s t := by
  unfold rampPass
  simp only
  split <;> simp [hcores]

@[simp] theorem rampDrop_keeps {i : ℕ} (hcores : K.cores = false) : Keeps K s (rampDrop i t) ↔ Keeps K s t := by
  unfold rampDrop
  split <;> simp [hcores]

@[simp] theorem tensorReset_keeps {i : ℕ} (hcores : K.cores = false) : Keeps K s (tensorReset i t) ↔ Keeps K s t :=
    by
  simp [tensorReset, hcores]

@[simp] theorem rampForStep_keeps {i : ℕ} (hcores : K.cores = false) : Keeps K s (rampForStep i t) ↔ Keeps K s t :=
    by
  unfold rampForStep
  simp only
  split <;> simp [hcores]

@[simp] theorem clearAccs_keeps (hcores : K.cores = false) : Keeps K s (clearAccs t) ↔ Keeps K s t := by
  simp [clearAccs, hcores]

@[simp] theorem emptySlot_keeps {i g : ℕ} (hcores : K.cores = false) : Keeps K s (emptySlot i g t) ↔ Keeps K s t :=
    by
  simp [emptySlot, hcores]

@[simp] theorem launch_keeps {how : SlotState} {i g : ℕ} (hcores : K.cores = false) (hregs : K.regs = false) : Keeps
    K s (launch how i g t) ↔ Keeps K s t := by
  simp [launch, hcores, hregs]

@[simp] theorem startSlot_keeps {i g : ℕ} (hcores : K.cores = false) : Keeps K s (startSlot i g t) ↔ Keeps K s t :=
    by
  unfold startSlot
  simp only
  split <;> simp [hcores]

@[simp] theorem startArmed_keeps {job0 : Bool} {i : ℕ} (hcores : K.cores = false) : Keeps K s (startArmed job0 i t)
    ↔ Keeps K s t := by
  simp [startArmed, hcores]

@[simp] theorem emptySlots_keeps {all : Bool} {i : ℕ} (hcores : K.cores = false) : Keeps K s (emptySlots all i t) ↔
    Keeps K s t := by
  simp [emptySlots, hcores]

@[simp] theorem dropLoads_keeps {i : ℕ} (h : Keeps {} s t) : Keeps {} s (dropLoads i t) := by
  simp [dropLoads, h]

@[simp] theorem abandonCore_keeps {i : ℕ} (h : Keeps {} s t) : Keeps {} s (abandonCore i t) := by
  simp [abandonCore, h]

@[simp] theorem setDie_keeps {d : ℕ} {x : Die} (hthermal : K.thermal = false) : Keeps K s (setDie d x t) ↔ Keeps K s
    t := by
  simp [setDie, hthermal]

@[simp] theorem setLv_keeps {i : ℕ} {x : Level} (hthermal : K.thermal = false) : Keeps K s (setLv i x t) ↔ Keeps K s
    t := by
  simp [setLv, hthermal]

@[simp] theorem thmEvt_keeps {f : Fld} (hregs : K.regs = false) : Keeps K s (thmEvt f t) ↔ Keeps K s t := by
  simp [thmEvt, hregs]

@[simp] theorem sensorBroken_keeps {d : ℕ} (hregs : K.regs = false) : Keeps K s (sensorBroken d t) ↔ Keeps K s t :=
    by
  simp [sensorBroken, hregs]

@[simp] theorem markBroken_keeps {d : ℕ} {r : DieRead} (hregs : K.regs = false) (hthermal : K.thermal = false) :
    Keeps K s (markBroken d r t) ↔ Keeps K s t := by
  simp [markBroken, hregs, hthermal]

@[simp] theorem shutdown_keeps (hthermal : K.thermal = false) : Keeps K s (shutdown t) ↔ Keeps K s t := by
  simp [shutdown, hthermal]

@[simp] theorem notePeak_keeps {d : ℕ} {t' : ℤ} : Keeps K s (notePeak d t' t) ↔ Keeps K s t := by
  simp [notePeak]

@[simp] theorem holdCount_keeps {k : ℕ} (hpower : K.power = false) : Keeps K s (holdCount k t) ↔ Keeps K s t := by
  unfold holdCount
  split <;> simp [hpower]

@[simp] theorem shadeHold_keeps {k : ℕ} (hpower : K.power = false) : Keeps K s (shadeHold k t) ↔ Keeps K s t := by
  simp [shadeHold, hpower]

@[simp] theorem sampleDie_keeps {d : ℕ} {r : DieRead} (hregs : K.regs = false) (hthermal : K.thermal = false) :
    Keeps K s (sampleDie d r t) ↔ Keeps K s t := by
  simp [sampleDie, hregs, hthermal]

@[simp] theorem diodeCheck_keeps {ds : List ℕ} {reads : List DieRead} (hthermal : K.thermal = false) : Keeps K s
    (diodeCheck ds reads t) ↔ Keeps K s t := by
  simp [diodeCheck, hthermal]

theorem execThermalSample_keeps {i : Fin 40} {reads : List DieRead} (hregs : K.regs = false) (hpower : K.power =
    false) (hthermal : K.thermal = false) (h : Keeps K s t) : NextKeeps K s (execThermalSample i reads t) := by
  simp [execThermalSample, hregs, hpower, hthermal, h]

theorem execHbmThermalRead_keeps {m : HbmId} {temp : Option ℤ} (hregs : K.regs = false) (hthermal : K.thermal =
    false) (h : Keeps K s t) : NextKeeps K s (execHbmThermalRead m temp t) := by
  unfold execHbmThermalRead
  split <;> simp [hregs, hthermal, h]

@[simp] theorem bootCalibrate_keeps (hthermal : K.thermal = false) : Keeps K s (bootCalibrate t) ↔ Keeps K s t := by
  simp [bootCalibrate, hthermal]

theorem execSensorCalibration_keeps {d : Fin 64} {read : DieRead} (hregs : K.regs = false) (hthermal : K.thermal =
    false) (h : Keeps K s t) : NextKeeps K s (execSensorCalibration d read t) := by
  simp [execSensorCalibration, hregs, hthermal, h]

@[simp] theorem writeThmCtl_keeps {v : Word32} (hregs : K.regs = false) : Keeps K s (writeThmCtl v t) ↔ Keeps K s t
    := by
  simp [writeThmCtl, hregs]

@[simp] theorem updPower_keeps {f : Power → Power} (hpower : K.power = false) : Keeps K s (updPower f t) ↔ Keeps K s
    t := by
  simp [updPower, hpower]

@[simp] theorem leakSettle_keeps (hpower : K.power = false) : Keeps K s (leakSettle t) ↔ Keeps K s t := by
  simp [leakSettle, hpower]

@[simp] theorem skipCount_keeps {i : ℕ} {go : Bool} (hpower : K.power = false) : Keeps K s (skipCount i go t) ↔
    Keeps K s t := by
  unfold skipCount
  split <;> simp [hpower]

@[simp] theorem settleTick_keeps (hpower : K.power = false) : Keeps K s (settleTick t) ↔ Keeps K s t := by
  simp [settleTick, hpower]

end

end Sys2Proof.Machine
end

section
/-! Memory rows, barriers and the rows of integrity and repair keep the queue and the form of memory. -/

namespace Sys2Proof.Machine

open Sys2Proof

section
variable {K : Kept} {s t u : State}

theorem execL1Fill_keeps {c : Cid} {miss : ℕ} {u' : Upsets} (h : Keeps {} s t) : NextKeeps {} s (execL1Fill c miss
    u' t) := by
  unfold execL1Fill
  simp only
  split <;> simp [h]

theorem execL2Fill_keeps {k : StackId} {slab : CoreId} {line : BitVec 33} {u' : Upsets} (h : Keeps {} s t) :
    NextKeeps {} s (execL2Fill k slab line u' t) := by
  unfold execL2Fill
  simp only
  split <;> simp [h]

theorem execL2WritebackAck_keeps {k : StackId} {slab : CoreId} (hstks : K.stks = false) (hmem : K.mem = false)
    (hregs : K.regs = false) (h : Keeps K s t) : NextKeeps K s (execL2WritebackAck k slab t) := by
  simp [execL2WritebackAck, hstks, hmem, hregs, h]

theorem execL1WritebackAck_keeps {c : Cid} (h : Keeps {} s t) : NextKeeps {} s (execL1WritebackAck c t) := by
  simp [execL1WritebackAck, h]

theorem execHbmRefresh_keeps {_m : HbmId} (h : Keeps K s t) : NextKeeps K s (execHbmRefresh _m t) := by
  simp [execHbmRefresh, h]

theorem execHbmTempRead_keeps {m : HbmId} {temp : BitVec 8} (hregs : K.regs = false) (h : Keeps K s t) : NextKeeps K
    s (execHbmTempRead m temp t) := by
  simp [execHbmTempRead, hregs, h]

theorem execMergeEntryTimeout_keeps {k : StackId} {slab : CoreId} {port : Fin 8} {u' : Upsets} (h : Keeps {} s t) :
    NextKeeps {} s (execMergeEntryTimeout k slab port u' t) := by
  unfold execMergeEntryTimeout
  simp only
  split <;> simp [h]

@[simp] theorem zeroRange_keeps {a n : ℕ} (hmem : K.mem = false) (h : Keeps K s t) : Keeps K s (zeroRange a n t) :=
  keeps_drop hmem h

@[simp] theorem writeMemCfg_keeps {i : ℕ} {v : Word32} (hcores : K.cores = false) (hregs : K.regs = false) : Keeps K
    s (writeMemCfg i v t) ↔ Keeps K s t := by
  simp [writeMemCfg, hcores, hregs]

@[simp] theorem applyL1sz_keeps {i : ℕ} (hcores : K.cores = false) (hmem : K.mem = false) (hregs : K.regs = false)
    (h : Keeps K s t) : Keeps K s (applyL1sz i t) := by
  unfold applyL1sz
  split <;> simp [hcores, hmem, hregs, h]

@[simp] theorem writeSplit_keeps {k : ℕ} {v : Word32} (hstks : K.stks = false) (hregs : K.regs = false) : Keeps K s
    (writeSplit k v t) ↔ Keeps K s t := by
  simp [writeSplit, hstks, hregs]

@[simp] theorem applySplit_keeps {k : ℕ} (hstks : K.stks = false) (hmem : K.mem = false) (hregs : K.regs = false)
    (htick : K.tick = false) (h : Keeps K s t) : Keeps K s (applySplit k t) := by
  unfold applySplit
  split
  · exact h
  · extract_lets keep u merge v
    have hu : Keeps K s u := l2FlushRange_keeps hstks hmem hregs htick h
    have hv : Keeps K s v := (updStk_keeps hstks).2 hu
    clear_value v
    refine (updL2_keeps hstks).2 ((State.setFlag_keeps hregs).2 ?_)
    exact forEach_keeps (fun c t h => zeroRange_keeps hmem h) hv

@[simp] theorem updTick_keeps {f : Tick → Tick} (htick : K.tick = false) : Keeps K s (updTick f t) ↔ Keeps K s t :=
    by
  simp [updTick, htick]

@[simp] theorem sendTick_keeps {kind d index time period bits : ℕ} : Keeps K s (sendTick kind d index time period
    bits t) ↔ Keeps K s t := by
  simp [sendTick]

@[simp] theorem formRelease_keeps {r : Release} : Keeps K s (formRelease r t) ↔ Keeps K s t := by
  simp [formRelease]

@[simp] theorem declareFault_keeps (htick : K.tick = false) : Keeps K s (declareFault t) ↔ Keeps K s t := by
  simp [declareFault, htick]

@[simp] theorem memberLost_keeps {ds : List ℕ} (hregs : K.regs = false) (htick : K.tick = false) : Keeps K s
    (memberLost ds t) ↔ Keeps K s t := by
  simp [memberLost, hregs, htick]

/-- What is kept of a word written in memory and of one in an L2 line is kept of a word of a slab, wherever it lies. -/
theorem rawStored_keeps {w : ℕ} {v : Word64} {dev : Byte} {place : ℕ × ℕ × ℕ} {look : ℕ → ℕ → ℕ → Stored}
    (hstks : K.stks = false) (hmem : K.mem = false) (h : Keeps K s t) :
    Keeps K s (match place with
      | (k, c, off) => match look k c off with
        | .plain => (putWord w v t).setDev w dev
        | .line key x o => (updL2 k (fun l =>
            { l with lines := sset (fun _ => none) l.lines key (some (x.setWord o v)) }) t).setDev w dev) := by
  split
  split <;> simp [hstks, hmem, h]

/- (The definition is opened as an equation of functions, so that no check evaluates where the word lies.) -/
@[simp] theorem setRawWord_keeps {w : ℕ} {v : Word64} {dev : Byte} (hstks : K.stks = false) (hmem : K.mem = false)
    (h : Keeps K s t) : Keeps K s (setRawWord w v dev t) := by
  have key (f) (hf : setRawWord = f) (h : Keeps K s (f w v dev t)) : Keeps K s (setRawWord w v dev t) := hf ▸ h
  refine key _ (by delta setRawWord; rfl) ?_
  generalize slabOfWord w = place, t.storedAt = look
  exact rawStored_keeps hstks hmem h

theorem execMereScrubRead_keeps {k : StackId} {u' : Upsets} (h : Keeps {} s t) :
    NextKeeps {} s (execMereScrubRead k u' t) := by
  have hjudge {w d dev v} : Keeps {} s v → Keeps {} s (judgeCode 0 { scrub := true } w d dev v).2.2 :=
    judgeCode_keeps rfl rfl rfl rfl
  have hcross {w v} : Keeps {} s v → Keeps {} s (crossing w v).2 := crossing_keeps.2
  unfold execMereScrubRead
  generalize judgeCode 0 { scrub := true } = judge, crossing = cross, State.storedAt = look at hjudge hcross ⊢
  refine (ifUp_keeps h).2 fun _ => ?_
  extract_lets v p c off v1 w v2 st
  have hv : Keeps {} s v := upset_keeps rfl rfl rfl h
  split
  · exact nextKeeps_next.2 hv
  have h1 : Keeps {} s v1 := (updStk_keeps rfl).2 hv
  split
  · exact nextKeeps_next.2 h1
  have h2 : Keeps {} s v2 := flushWord_keeps rfl rfl rfl rfl h1
  have hj : Keeps {} s (judge w (v2.rawWord w) (v2.devAt w) v2).2.2 := hjudge h2
  generalize judge w (v2.rawWord w) (v2.devAt w) v2 = o at hj ⊢
  split
  next d code v3 =>
  have h3 : Keeps {} s v3 := hj
  cases code
  · exact nextKeeps_next.2 h3
  · show NextKeeps {} s (if v3.slabRetired (↑k) c off then .next v3 else _)
    split
    · exact nextKeeps_next.2 h3
    · have hc := hcross (w := w) (setRawWord_keeps (w := w) (v := d) (dev := 0) rfl rfl h3)
      generalize cross w (setRawWord w d 0 v3) = o at hc ⊢
      split
      exact nextKeeps_next.2 (flipWord_keeps rfl rfl hc)
  · generalize st = place
    cases place
    · exact nextKeeps_next.2 h3
    · refine nextKeeps_next.2 ?_
      split <;> simp [h3]

theorem execHbmPatrolRead_keeps {m : HbmId} {u' : Upsets} (hcores : K.cores = false) (hstks : K.stks = false) (hmem
    : K.mem = false) (hregs : K.regs = false) (h : Keeps K s t) : NextKeeps K s (execHbmPatrolRead m u' t) := by
  unfold execHbmPatrolRead
  simp only
  repeat' split
  all_goals simp [hcores, hstks, hmem, hregs, h]

theorem execHbmEcsPoll_keeps {m : HbmId} {counts : List ℕ} (hregs : K.regs = false) (h : Keeps K s t) : NextKeeps K
    s (execHbmEcsPoll m counts t) := by
  simp [execHbmEcsPoll, hregs, h]

@[simp] theorem rawWrite_keeps {k : ℕ} (hstks : K.stks = false) (hmem : K.mem = false) (hregs : K.regs = false)
    (htick : K.tick = false) (h : Keeps K s t) : Keeps K s (rawWrite k t) := by
  have key (f) (hf : rawWrite = f) (h : Keeps K s (f k t)) : Keeps K s (rawWrite k t) := hf ▸ h
  refine key _ (by delta rawWrite; rfl) ?_
  extract_lets w u v c
  have hu : Keeps K s u := by simp [u, hstks, hmem, hregs, htick, h]
  have hc : Keeps K s (crossing w (setRawWord w v (c ^^^ checkBits v) u)).2 :=
    crossing_keeps.2 (setRawWord_keeps hstks hmem hu)
  generalize crossing w (setRawWord w v (c ^^^ checkBits v) u) = o at hc ⊢
  split
  exact flipWord_keeps hstks hmem hc

@[simp] theorem rawRead_keeps {k : ℕ} (hstks : K.stks = false) (hmem : K.mem = false) (hregs : K.regs = false)
    (htick : K.tick = false) (h : Keeps K s t) : Keeps K s (rawRead k t) := by
  have key (f) (hf : rawRead = f) (h : Keeps K s (f k t)) : Keeps K s (rawRead k t) := hf ▸ h
  refine key _ (by delta rawRead; rfl) ?_
  extract_lets w
  have hc : Keeps K s (crossing w (flushWord w t)).2 := by simp [hstks, hmem, hregs, htick, h]
  generalize crossing w (flushWord w t) = o at hc ⊢
  split
  extract_lets v c u
  have hu : Keeps K s u := (State.setPair_keeps hregs).2 hc
  exact (State.setFld_keeps hregs).2 hu

@[simp] theorem writeChkCtl_keeps {k : ℕ} {v : Word32} (hstks : K.stks = false) (hmem : K.mem = false) (hregs :
    K.regs = false) (htick : K.tick = false) (h : Keeps K s t) : Keeps K s (writeChkCtl k v t) := by
  simp [writeChkCtl, hstks, hmem, hregs, htick, h]

@[simp] theorem writeErlRd_keeps {v : Word32} (hregs : K.regs = false) : Keeps K s (writeErlRd v t) ↔ Keeps K s t :=
    by
  simp [writeErlRd, hregs]

@[simp] theorem writeScrub_keeps {k : ℕ} {v : Word32} (hstks : K.stks = false) (hregs : K.regs = false) : Keeps K s
    (writeScrub k v t) ↔ Keeps K s t := by
  simp [writeScrub, hstks, hregs]

@[simp] theorem writeGret_keeps {k i : ℕ} {v : Word32} (hstks : K.stks = false) (hmem : K.mem = false) (hregs :
    K.regs = false) (htick : K.tick = false) (h : Keeps K s t) : Keeps K s (writeGret k i v t) := by
  simp [writeGret, hstks, hmem, hregs, htick, h]

@[simp] theorem writeRemapLo_keeps {m i : ℕ} {v : Word32} (hregs : K.regs = false) : Keeps K s (writeRemapLo m i v
    t) ↔ Keeps K s t := by
  simp [writeRemapLo, hregs]

@[simp] theorem remapIgn_keeps {m : ℕ} (hregs : K.regs = false) : Keeps K s (remapIgn m t) ↔ Keeps K s t := by
  simp [remapIgn, hregs]

@[simp] theorem writeRemapHi_keeps {m i : ℕ} {v : Word32} (hregs : K.regs = false) : Keeps K s (writeRemapHi m i v
    t) ↔ Keeps K s t := by
  simp [writeRemapHi, hregs]

@[simp] theorem writeBankDis_keeps {m : ℕ} {hi : Bool} {v : Word32} (hregs : K.regs = false) : Keeps K s
    (writeBankDis m hi v t) ↔ Keeps K s t := by
  simp [writeBankDis, hregs]

@[simp] theorem writeCrcCfg_keeps {u' reg : ℕ} {v : Word32} (hregs : K.regs = false) : Keeps K s (writeCrcCfg u' reg
    v t) ↔ Keeps K s t := by
  simp [writeCrcCfg, hregs]

end

end Sys2Proof.Machine
end

section
/-! The stream engine keeps the queue and the form of memory. -/

namespace Sys2Proof.Machine

open Sys2Proof

section
variable {K : Kept} {s t u : State}

@[simp] theorem seMessage_keeps {k n type pkg addr len : ℕ} {data : List Byte} : Keeps K s (seMessage k n type pkg
    addr len data t).2 ↔ Keeps K s t := by
  simp [seMessage]

@[simp] theorem issueFetch_keeps {k n : ℕ} (hstks : K.stks = false) : Keeps K s (issueFetch k n t) ↔ Keeps K s t :=
    by
  unfold issueFetch
  simp only
  split <;> simp [hstks]

@[simp] theorem startActivation_keeps {k n : ℕ} {timer : Bool} (hstks : K.stks = false) (hregs : K.regs = false) :
    Keeps K s (startActivation k n timer t) ↔ Keeps K s t := by
  simp [startActivation, hstks, hregs]

@[simp] theorem trigLost_keeps {k n : ℕ} (hregs : K.regs = false) : Keeps K s (trigLost k n t) ↔ Keeps K s t := by
  simp [trigLost, hregs]

@[simp] theorem trigger_keeps {k n : ℕ} {timer : Bool} (hstks : K.stks = false) (hregs : K.regs = false) : Keeps K s
    (trigger k n timer t) ↔ Keeps K s t := by
  simp [trigger, hstks, hregs]

@[simp] theorem startHeld_keeps {k n : ℕ} (hstks : K.stks = false) (hregs : K.regs = false) : Keeps K s (startHeld k
    n t) ↔ Keeps K s t := by
  unfold startHeld
  simp only
  split <;> simp [hstks, hregs]

@[simp] theorem endOk_keeps {k n cur : ℕ} {empty : Bool} (hstks : K.stks = false) (hregs : K.regs = false) : Keeps K
    s (endOk k n cur empty t) ↔ Keeps K s t := by
  simp [endOk, hstks, hregs]

@[simp] theorem haltCh_keeps {k n code detail cur xcode : ℕ} (hstks : K.stks = false) (hregs : K.regs = false) :
    Keeps K s (haltCh k n code detail cur xcode t) ↔ Keeps K s t := by
  simp [haltCh, hstks, hregs]

@[simp] theorem seDecodeErr_keeps {k n a kind : ℕ} (hregs : K.regs = false) : Keeps K s (seDecodeErr k n a kind t) ↔
    Keeps K s t := by
  simp [seDecodeErr, hregs]

@[simp] theorem seReadDram_keeps {how : How} {k ac a n : ℕ} (hstks : K.stks = false) (hmem : K.mem = false)
    (hregs : K.regs = false) (htick : K.tick = false) (h : Keeps K s t) :
    Keeps K s (seReadDram how k ac a n t).2.2 := by
  have hread {l v o m} : Keeps K s v → Keeps K s (l2ReadLine how k l v o m).2.2 :=
    l2ReadLine_keeps hstks hmem hregs htick
  unfold seReadDram
  generalize l2ReadLine how k = read at hread ⊢
  simp only
  refine foldl_keeps (fun b : List Byte × Bool × State => b.2.2) (fun i b h => ?_) h
  have : Keeps K s (l2Count k ac (((b.2.2.l2Held k (a / 128 + i)).map fun x =>
      x.has (partOf a n (a / 128 + i)).1 (partOf a n (a / 128 + i)).2).getD false) b.2.2) := by simp [h]
  simp only
  split
  · exact hread this
  · exact l2FillLine_keeps hstks hmem hregs htick (hread this)

@[simp] theorem seRead_keeps {k n ac a len d : ℕ} {issued : Option ℕ} (hstks : K.stks = false) (hmem : K.mem =
    false) (hregs : K.regs = false) (htick : K.tick = false) (h : Keeps K s t) : Keeps K s (seRead k n ac a len d t
    issued).2.2 := by
  unfold seRead
  simp only
  repeat' split
  all_goals simp [hstks, hmem, hregs, htick, h]

@[simp] theorem seWrite_keeps {k n ac a : ℕ} {data : List Byte} {issued : Option ℕ} (hstks : K.stks = false) (hmem :
    K.mem = false) (hregs : K.regs = false) (htick : K.tick = false) (h : Keeps K s t) : Keeps K s (seWrite k n ac a
    data t issued).2 := by
  unfold seWrite
  repeat' split
  all_goals simp [hstks, hmem, hregs, htick, h]

@[simp] theorem pushBytes_keeps {i : ℕ} {w : WideQ} {f : ℕ} {bs : List Byte} (hcores : K.cores = false) :
    Keeps K s (pushBytes i w f bs t).2 ↔ Keeps K s t := by
  induction f generalizing bs t with
  | zero => rfl
  | succ f ih =>
    unfold pushBytes
    split
    · rfl
    · simp [ih, hcores]

@[simp] theorem setBytesReg_keeps {k n : ℕ} (hregs : K.regs = false) : Keeps K s (setBytesReg k n t) ↔ Keeps K s t
    := by
  simp [setBytesReg, hregs]

@[simp] theorem issueStatus_keeps {k n : ℕ} (hstks : K.stks = false) : Keeps K s (issueStatus k n t) ↔ Keeps K s t
    := by
  unfold issueStatus
  simp only
  split <;> simp [hstks]

@[simp] theorem issueOwn_keeps {k n : ℕ} (hstks : K.stks = false) : Keeps K s (issueOwn k n t) ↔ Keeps K s t := by
  unfold issueOwn
  simp only
  split <;> simp [hstks]

@[simp] theorem seSettle_keeps {k n : ℕ} (hstks : K.stks = false) (hregs : K.regs = false) : Keeps K s (seSettle k n
    t) ↔ Keeps K s t := by
  simp [seSettle, hstks, hregs]

@[simp] theorem seFail_keeps {k n code detail epoch : ℕ} {p : Burst → Bool} (hstks : K.stks = false) (hregs : K.regs
    = false) : Keeps K s (seFail k n code detail t epoch p) ↔ Keeps K s t := by
  simp [seFail, hstks, hregs]

@[simp] theorem readList_keeps {k n a cnt : ℕ} (hstks : K.stks = false) (hmem : K.mem = false)
    (hregs : K.regs = false) (htick : K.tick = false) (h : Keeps K s t) : Keeps K s (readList k n a cnt t).2.2 := by
  have hread {b len} : Keeps K s (seRead k n 7 b len 1 t).2.2 := seRead_keeps hstks hmem hregs htick h
  unfold readList
  generalize seRead k n 7 = read, fabric t a = dest at hread ⊢
  split
  · exact h
  split
  · split
    next hr => exact keeps_of_eq hr hread
    next hr => exact keeps_of_eq hr hread
  · simp [hregs, h]
  · exact h

@[simp] theorem seBegin_keeps {k n : ℕ} (hstks : K.stks = false) (hregs : K.regs = false) : Keeps K s (seBegin k n
    t) ↔ Keeps K s t := by
  simp [seBegin, hstks, hregs]

@[simp] theorem seStart_keeps {k n : ℕ} (hstks : K.stks = false) (hregs : K.regs = false) : Keeps K s (seStart k n
    t) ↔ Keeps K s t := by
  simp [seStart, hstks, hregs]

@[simp] theorem seLists_keeps {k n : ℕ} (hstks : K.stks = false) (hmem : K.mem = false) (hregs : K.regs = false)
    (htick : K.tick = false) (h : Keeps K s t) : Keeps K s (seLists k n t) := by
  have hlist {a m v} : Keeps K s v → Keeps K s (readList k n a m v).2.2 := readList_keeps hstks hmem hregs htick
  unfold seLists
  generalize readList k n = list at hlist ⊢
  extract_lets c d u
  have hu : Keeps K s u := by simp [u, hstks, h]
  split
  · exact h
  split
  next sl r1 v e =>
  have hv : Keeps K s v := by
    split at e
    · exact keeps_of_eq e (hlist hu)
    · exact keeps_of_eq e hu
  split
  · simp [hstks, hregs, hv]
  split
  next dl r2 w e =>
  have hw : Keeps K s w := by
    split at e
    · exact keeps_of_eq e (hlist hv)
    · exact keeps_of_eq e hv
  split <;> simp [hstks, hregs, hw]

@[simp] theorem seRefuse_keeps {k n f e0 : ℕ} (hstks : K.stks = false) (hregs : K.regs = false) : Keeps K s
    (seRefuse k n f e0 t) ↔ Keeps K s t := by
  simp [seRefuse, hstks, hregs]

@[simp] theorem issueRead_keeps {k n : ℕ} (hstks : K.stks = false) (hregs : K.regs = false) : Keeps K s (issueRead k
    n t) ↔ Keeps K s t := by
  unfold issueRead
  simp only
  repeat' split
  all_goals simp [hstks, hregs]

@[simp] theorem popBytes_keeps {i : ℕ} {w : WideQ} {n f : ℕ} {bs : List Byte} (hcores : K.cores = false) :
    Keeps K s (popBytes i w n f bs t).2 ↔ Keeps K s t := by
  induction f generalizing bs t with
  | zero => rfl
  | succ f ih =>
    unfold popBytes
    split
    · rfl
    · split
      · rfl
      · simp [ih, hcores]

@[simp] theorem burstArrive_keeps {k n : ℕ} {b : Burst} (h : Keeps {} s t) : Keeps {} s (burstArrive k n b t) := by
  have hpop {i w m f bs} : Keeps {} s (popBytes i w m f bs t).2 := (popBytes_keeps rfl).2 h
  have hread {ac a len d iss} : Keeps {} s (seRead k n ac a len d t iss).2.2 := seRead_keeps rfl rfl rfl rfl h
  unfold burstArrive
  generalize popBytes = pop, seRead k n = read, queueOf k = queue, fabric t b.src = dest at hpop hread ⊢
  extract_lets c
  split
  · exact h
  split
  · simp [h]
  split
  · split
    · simp [h]
    split
    · exact h
    split
    split
    next hv =>
    have := keeps_of_eq_snd hv hpop
    split <;> simp [this]
  split
  · split
    · exact h
    split
    next hv =>
      have := keeps_of_eq hv hread
      simp [this]
    next hv =>
      have := keeps_of_eq hv hread
      simp [this]
  · exact h

@[simp] theorem sendBurst_keeps {k n type pkg a role : ℕ} {b : Burst} (hstks : K.stks = false) (hregs : K.regs =
    false) : Keeps K s (sendBurst k n type pkg a role b t) ↔ Keeps K s t := by
  simp [sendBurst, hstks, hregs]

@[simp] theorem readSlot_keeps {k n : ℕ} (hstks : K.stks = false) (hregs : K.regs = false) : Keeps K s (readSlot k n
    t).2 ↔ Keeps K s t := by
  unfold readSlot
  simp only
  repeat' split
  all_goals simp [hstks, hregs]

@[simp] theorem issueWrite_keeps {k n : ℕ} (hstks : K.stks = false) (hregs : K.regs = false) : Keeps K s (issueWrite
    k n t) ↔ Keeps K s t := by
  unfold issueWrite
  simp only
  repeat' split
  all_goals simp [hstks, hregs]

@[simp] theorem countBytes_keeps {k n p m : ℕ} : Keeps K s (countBytes k n p m t) ↔ Keeps K s t := by
  simp [countBytes]

@[simp] theorem endBurst_keeps {k n : ℕ} {b : Burst} (hstks : K.stks = false) (hregs : K.regs = false) : Keeps K s
    (endBurst k n b t) ↔ Keeps K s t := by
  simp [endBurst, hstks, hregs]

@[simp] theorem acceptBurst_keeps {k n : ℕ} {b : Burst} (hstks : K.stks = false) (hregs : K.regs = false) : Keeps K
    s (acceptBurst k n b t) ↔ Keeps K s t := by
  simp [acceptBurst, hstks, hregs]

@[simp] theorem burstAccept_keeps {k n : ℕ} {b : Burst} (h : Keeps {} s t) : Keeps {} s (burstAccept k n b t) := by
  have hpush {i w f bs} : Keeps {} s (pushBytes i w f bs t).2 := (pushBytes_keeps rfl).2 h
  have hwrite {ac a bs iss} : Keeps {} s (seWrite k n ac a bs t iss).2 := seWrite_keeps rfl rfl rfl rfl h
  unfold burstAccept
  generalize pushBytes = push, seWrite k n = write, queueOf k = queue, fabric t b.dst = dest at hpush hwrite ⊢
  extract_lets c
  split
  · exact h
  split
  · split
    · split <;> simp [h]
    split
    · exact h
    split
    split
    next hv =>
    have := keeps_of_eq_snd hv hpush
    simp only
    repeat' split
    all_goals simp [this]
  split
  · split
    · exact h
    split
    next hv =>
      have := keeps_of_eq_snd hv hwrite
      simp [this]
    next hv =>
      have := keeps_of_eq_snd hv hwrite
      simp [this]
  · exact h

@[simp] theorem engineRead_keeps {k : ℕ} (hstks : K.stks = false) (hregs : K.regs = false) : Keeps K s (engineRead k
    t) ↔ Keeps K s t := by
  unfold engineRead
  split <;> simp [hstks, hregs]

@[simp] theorem engineWrite_keeps {k : ℕ} (hstks : K.stks = false) (hregs : K.regs = false) : Keeps K s (engineWrite
    k t) ↔ Keeps K s t := by
  unfold engineWrite
  split <;> simp [hstks, hregs]

@[simp] theorem seRdresp_keeps {k n t' : ℕ} {data : List Byte} {uncorr : Bool} (hstks : K.stks = false) (hregs :
    K.regs = false) : Keeps K s (seRdresp k n t' data uncorr t) ↔ Keeps K s t := by
  unfold seRdresp
  simp only
  repeat' split
  all_goals simp [hstks, hregs]

@[simp] theorem seAck_keeps {k n t' : ℕ} (hstks : K.stks = false) (hregs : K.regs = false) : Keeps K s (seAck k n t'
    t) ↔ Keeps K s t := by
  unfold seAck
  simp only
  repeat' split
  all_goals simp [hstks, hregs]

@[simp] theorem seNack_keeps {k n t' reason epoch : ℕ} (hstks : K.stks = false) (hregs : K.regs = false) : Keeps K s
    (seNack k n t' reason epoch t) ↔ Keeps K s t := by
  unfold seNack
  simp only
  repeat' split
  all_goals simp [hstks, hregs]

@[simp] theorem resetSe_keeps {k : ℕ} (hstks : K.stks = false) (hregs : K.regs = false) : Keeps K s (resetSe k t) ↔
    Keeps K s t := by
  simp [resetSe, hstks, hregs]

theorem execSeTimerTrigger_keeps {k : StackId} {n : ChanId} (hstks : K.stks = false) (hregs : K.regs = false)
    (hclock : K.clock = false) (h : Keeps K s t) : NextKeeps K s (execSeTimerTrigger k n t) := by
  simp [execSeTimerTrigger, hstks, hregs, hclock, h]

@[simp] theorem fetchAnswer_keeps {k n : ℕ} (hstks : K.stks = false) (hmem : K.mem = false)
    (hregs : K.regs = false) (htick : K.tick = false) (h : Keeps K s t) : Keeps K s (fetchAnswer k n t).2 := by
  have hread {b} : Keeps K s (seRead k n 7 b 64 4 t).2.2 := seRead_keeps hstks hmem hregs htick h
  unfold fetchAnswer
  generalize seRead k n 7 = read, fabric t (t.pair (Reg.STK_SE_CHn_CUR_LO k n)) = dest at hread ⊢
  simp only
  split
  · split
    · exact h
    split
    next hr => exact keeps_of_eq hr hread
    next hr => exact keeps_of_eq hr hread
  · simp [hregs, h]
  · split
    · exact h
    · exact h
    · split <;> simp [hregs, h]

theorem execSeDescFetch_keeps {k : StackId} {n : ChanId} {u' : Upsets} (h : Keeps {} s t) :
    NextKeeps {} s (execSeDescFetch k n u' t) := by
  have hans {v} : Keeps {} s v → Keeps {} s (fetchAnswer k n v).2 := fetchAnswer_keeps rfl rfl rfl rfl
  unfold execSeDescFetch
  generalize fetchAnswer k n = ans at hans ⊢
  refine (ifUp_keeps h).2 fun _ => ?_
  extract_lets v
  have hv : Keeps {} s v := upset_keeps rfl rfl rfl h
  split
  · exact nextKeeps_next.2 hv
  split
  next hw => exact nextKeeps_next.2 (keeps_of_eq_snd hw (hans hv))
  next hw =>
    have := keeps_of_eq_snd hw (hans hv)
    simp [this]
  next hw =>
    have := keeps_of_eq_snd hw (hans hv)
    simp only
    repeat' split
    all_goals simp [this]

@[simp] theorem acceptFirst_keeps {k n : ℕ} (h : Keeps {} s t) : Keeps {} s (acceptFirst k n t) := by
  unfold acceptFirst
  split <;> simp [h]

@[simp] theorem arriveFirst_keeps {k n : ℕ} (h : Keeps {} s t) : Keeps {} s (arriveFirst k n t) := by
  unfold arriveFirst
  split <;> simp [h]

theorem firstAct_keeps {k : ℕ} {fs : List (State → State)} (hfs : ∀ f ∈ fs, Keeps K s (f t))
    (e : firstAct k t fs = some u) : Keeps K s u := by
  induction fs with
  | nil => cases e
  | cons f fs ih =>
    unfold firstAct at e
    simp only at e
    split at e
    · exact ih (fun g hg => hfs g (List.mem_cons_of_mem f hg)) e
    · cases e
      exact hfs f List.mem_cons_self

@[simp] theorem moveStream_keeps {k n f : ℕ} (h : Keeps {} s t) : Keeps {} s (moveStream k n f t) := by
  induction f generalizing t with
  | zero => exact h
  | succ f ih =>
    unfold moveStream
    split
    · exact h
    · split
      next hf =>
        refine ih (firstAct_keeps (fun g hg => ?_) hf)
        simp only [List.mem_cons, List.not_mem_nil, or_false] at hg
        obtain rfl | rfl | rfl | rfl := hg <;> simp [h]
      · exact h

@[simp] theorem seRun_keeps {op k n : ℕ} (h : Keeps {} s t) : Keeps {} s (seRun op k n t) := by
  unfold seRun
  extract_lets c
  split
  · exact h
  · exact moveStream_keeps (seLists_keeps rfl rfl rfl rfl (by simp [h]))

theorem execSeNop_keeps {k : StackId} {n : ChanId} (h : Keeps {} s t) : NextKeeps {} s (execSeNop k n t) := by
  simp [execSeNop, h]

theorem execSeCopy_keeps {k : StackId} {n : ChanId} {u' : Upsets} (h : Keeps {} s t) : NextKeeps {} s (execSeCopy k
    n u' t) := by
  simp [execSeCopy, h]

theorem execSeFill_keeps {k : StackId} {n : ChanId} (h : Keeps {} s t) : NextKeeps {} s (execSeFill k n t) := by
  simp [execSeFill, h]

theorem execSeFlush_keeps {k : StackId} {n : ChanId} (hstks : K.stks = false) (hmem : K.mem = false) (hregs : K.regs
    = false) (htick : K.tick = false) (h : Keeps K s t) : NextKeeps K s (execSeFlush k n t) := by
  simp [execSeFlush, hstks, hmem, hregs, htick, h]

theorem execSeCheck_keeps {k : StackId} {n : ChanId} {u' : Upsets} (h : Keeps {} s t) : NextKeeps {} s (execSeCheck
    k n u' t) := by
  simp [execSeCheck, h]

theorem execSeSend_keeps {k : StackId} {n : ChanId} {u' : Upsets} (h : Keeps {} s t) : NextKeeps {} s (execSeSend k
    n u' t) := by
  simp [execSeSend, h]

theorem execSeGuaranteeRequest_keeps {k : StackId} {n : ChanId} (hstks : K.stks = false) (hregs : K.regs = false)
    (h : Keeps K s t) : NextKeeps K s (execSeGuaranteeRequest k n t) := by
  have hreq {m g ps} : Keeps K s (requestGuarantee m g ps t).2 := (requestGuarantee_keeps hregs).2 h
  unfold execSeGuaranteeRequest
  generalize requestGuarantee = req at hreq ⊢
  refine (ifUp_keeps h).2 fun _ => ?_
  extract_lets c
  split
  · exact nextKeeps_next.2 h
  split
  next hv =>
    have := keeps_of_eq_snd hv hreq
    simp [hstks, this]
  next hv =>
    have := keeps_of_eq_snd hv hreq
    simp [hstks, hregs, this]

theorem execSeBurstRead_keeps {k : StackId} (hstks : K.stks = false) (hregs : K.regs = false) (h : Keeps K s t) :
    NextKeeps K s (execSeBurstRead k t) := by
  simp [execSeBurstRead, hstks, hregs, h]

theorem execSeBurstArrive_keeps {k : StackId} {n : ChanId} {burst : ℕ} {u' : Upsets} (h : Keeps {} s t) : NextKeeps
    {} s (execSeBurstArrive k n burst u' t) := by
  unfold execSeBurstArrive
  simp only
  split <;> simp [h]

theorem execSeBurstWrite_keeps {k : StackId} (hstks : K.stks = false) (hregs : K.regs = false) (h : Keeps K s t) :
    NextKeeps K s (execSeBurstWrite k t) := by
  simp [execSeBurstWrite, hstks, hregs, h]

theorem execSeBurstAccept_keeps {k : StackId} {n : ChanId} {burst : ℕ} (h : Keeps {} s t) : NextKeeps {} s
    (execSeBurstAccept k n burst t) := by
  unfold execSeBurstAccept
  split <;> simp [h]

@[simp] theorem dwriteAnswer_keeps {k n : ℕ} {parts : List (ℕ × List Byte)} (hstks : K.stks = false)
    (hmem : K.mem = false) (hregs : K.regs = false) (htick : K.tick = false) (h : Keeps K s t) :
    Keeps K s (dwriteAnswer k n parts t).2 := by
  have hwrite {a bs v} : Keeps K s v → Keeps K s (seWrite k n 7 a bs v).2 := seWrite_keeps hstks hmem hregs htick
  unfold dwriteAnswer
  generalize fabric t (t.pair (Reg.STK_SE_CHn_CUR_LO k n)) = dest
  simp only
  split
  · split
    · exact h
    refine foldl_keeps (fun b : Option Bool × State => b.2) (fun p b h => ?_) h
    generalize seWrite k n 7 = write at hwrite ⊢
    split
    next hv => exact hwrite h
    · exact h
  · simp [hregs, h]
  · split
    · exact h
    · split <;> simp [hregs, h]

@[simp] theorem dwriteFail_keeps {k n : ℕ} (hstks : K.stks = false) (hregs : K.regs = false) : Keeps K s (dwriteFail
    k n t) ↔ Keeps K s t := by
  simp [dwriteFail, hstks, hregs]

theorem execSeStatusWrite_keeps {k : StackId} {n : ChanId} (hstks : K.stks = false) (hmem : K.mem = false)
    (hregs : K.regs = false) (htick : K.tick = false) (h : Keeps K s t) : NextKeeps K s (execSeStatusWrite k n t) := by
  have hans {parts} : Keeps K s (dwriteAnswer k n parts t).2 := dwriteAnswer_keeps hstks hmem hregs htick h
  unfold execSeStatusWrite
  generalize dwriteAnswer k n = ans at hans ⊢
  refine (ifUp_keeps h).2 fun _ => ?_
  extract_lets c aborted far code st
  split
  · exact nextKeeps_next.2 h
  split
  next hw => exact nextKeeps_next.2 (keeps_of_eq_snd hw hans)
  next hw =>
    have := keeps_of_eq_snd hw hans
    simp [hstks, hregs, this]
  next hw =>
    have := keeps_of_eq_snd hw hans
    rw [nextKeeps_next]
    split <;> simp [hstks, this]

theorem execSeOwnWrite_keeps {k : StackId} {n : ChanId} (hstks : K.stks = false) (hmem : K.mem = false)
    (hregs : K.regs = false) (htick : K.tick = false) (h : Keeps K s t) : NextKeeps K s (execSeOwnWrite k n t) := by
  have hans {parts} : Keeps K s (dwriteAnswer k n parts t).2 := dwriteAnswer_keeps hstks hmem hregs htick h
  unfold execSeOwnWrite
  generalize dwriteAnswer k n = ans at hans ⊢
  refine (ifUp_keeps h).2 fun _ => ?_
  extract_lets c
  split
  · exact nextKeeps_next.2 h
  split
  next hw => exact nextKeeps_next.2 (keeps_of_eq_snd hw hans)
  next hw =>
    have := keeps_of_eq_snd hw hans
    simp [hstks, hregs, this]
  next hw =>
    have := keeps_of_eq_snd hw hans
    simp only
    repeat' split
    all_goals simp [hstks, hregs, this]

theorem execSeAccessTimeout_keeps {k : StackId} {n : ChanId} (hstks : K.stks = false) (hregs : K.regs = false)
    (hclock : K.clock = false) (h : Keeps K s t) : NextKeeps K s (execSeAccessTimeout k n t) := by
  unfold execSeAccessTimeout
  simp only
  repeat' split
  all_goals simp [hstks, hregs, hclock, h]

@[simp] theorem abortCh_keeps {k n : ℕ} (hstks : K.stks = false) (hregs : K.regs = false) : Keeps K s (abortCh k n
    t) ↔ Keeps K s t := by
  simp [abortCh, hstks, hregs]

@[simp] theorem clearCh_keeps {k n : ℕ} (hstks : K.stks = false) : Keeps K s (clearCh k n t) ↔ Keeps K s t := by
  simp [clearCh, hstks]

@[simp] theorem timerRewrite_keeps {k n : ℕ} (hstks : K.stks = false) : Keeps K s (timerRewrite k n t) ↔ Keeps K s t
    := by
  simp [timerRewrite, hstks]

@[simp] theorem writeChCtl_keeps {k n : ℕ} {v : Word32} (hstks : K.stks = false) (hregs : K.regs = false) : Keeps K
    s (writeChCtl k n v t) ↔ Keeps K s t := by
  simp [writeChCtl, hstks, hregs]

@[simp] theorem writeChTimer_keeps {k n : ℕ} {v : Word32} (hstks : K.stks = false) (hregs : K.regs = false) : Keeps
    K s (writeChTimer k n v t) ↔ Keeps K s t := by
  simp [writeChTimer, hstks, hregs]

@[simp] theorem writeChDb_keeps {k n : ℕ} {v : Word32} (hstks : K.stks = false) (hregs : K.regs = false) : Keeps K s
    (writeChDb k n v t) ↔ Keeps K s t := by
  simp [writeChDb, hstks, hregs]

@[simp] theorem writeChHead_keeps {k n : ℕ} {hi : Bool} {v : Word32} (hregs : K.regs = false) : Keeps K s
    (writeChHead k n hi v t) ↔ Keeps K s t := by
  simp [writeChHead, hregs]

@[simp] theorem writeChRsv_keeps {k n : ℕ} {v : Word32} (hregs : K.regs = false) : Keeps K s (writeChRsv k n v t) ↔
    Keeps K s t := by
  simp [writeChRsv, hregs]

@[simp] theorem writeChBudget_keeps {k n : ℕ} {v : Word32} (hregs : K.regs = false) : Keeps K s (writeChBudget k n v
    t) ↔ Keeps K s t := by
  simp [writeChBudget, hregs]

@[simp] theorem writeSeCfg_keeps {k : ℕ} {v : Word32} (hregs : K.regs = false) : Keeps K s (writeSeCfg k v t) ↔
    Keeps K s t := by
  simp [writeSeCfg, hregs]

end

end Sys2Proof.Machine
end

section
/-! Messages, power, bonds, the instruction cache and claims keep the queue and the form of memory. -/

namespace Sys2Proof.Machine

open Sys2Proof

section
variable {K : Kept} {s t u : State}

theorem takeMsg_keeps {l : ℕ} {p : Msg → Bool} {m : Msg} (e : takeMsg l p t = some (m, u)) (h : Keeps K s t) :
    Keeps K s u := by
  unfold takeMsg at e
  split at e
  · cases e
  · cases e
    split <;> simp [h]

@[simp] theorem sendAck_keeps {l : ℕ} {m : Msg} : Keeps K s (sendAck l m t) ↔ Keeps K s t := by
  simp [sendAck]

@[simp] theorem sendNack_keeps {l reason : ℕ} {m : Msg} : Keeps K s (sendNack l reason m t) ↔ Keeps K s t := by
  simp [sendNack]

@[simp] theorem sendControl_keeps {m : Msg} : Keeps K s (sendControl m t).2 ↔ Keeps K s t := by
  simp [sendControl]

/-- What the effect of a message keeps, its receipt keeps. -/
theorem receive_keeps {l : InLink} {type : ℕ} {f : Msg → State → State} (hregs : K.regs = false)
    (htick : K.tick = false) (hf : ∀ m v, Keeps K s v → Keeps K s (f m v)) (h : Keeps K s t) :
    NextKeeps K s (receive l type f t) := by
  unfold receive
  split
  · exact nextKeeps_next.2 h
  next m v e =>
  have hv := takeMsg_keeps e h
  split
  · simp [hv]
  split
  · simp [hv]
  extract_lets w
  have hw : Keeps K s w := by
    simp only [w]
    split <;> simp [hregs, htick, hv]
  split
  · simp [hw]
  · exact nextKeeps_next.2 (hf m w hw)

theorem receiveControl_keeps {l : InLink} {type : ℕ} {f : Msg → State → State} (hregs : K.regs = false)
    (htick : K.tick = false) (hf : ∀ m v, Keeps K s v → Keeps K s (f m v)) (h : Keeps K s t) :
    NextKeeps K s (receiveControl l type f t) :=
  receive_keeps hregs htick (fun m v h => by split <;> simp [hf, h]) h

@[simp] theorem pwrEvt_keeps {f : Fld} (hregs : K.regs = false) : Keeps K s (pwrEvt f t) ↔ Keeps K s t := by
  simp [pwrEvt, hregs]

@[simp] theorem applyBudget_keeps {fresh : Bool} {b vin : ℕ} (hpower : K.power = false) : Keeps K s (applyBudget
    fresh b vin t) ↔ Keeps K s t := by
  simp [applyBudget, hpower]

@[simp] theorem chooseStep_keeps (hregs : K.regs = false) (hpower : K.power = false) (hthermal : K.thermal = false) :
    Keeps K s (chooseStep t) ↔ Keeps K s t := by
  have hcount {v} : Keeps K s (forEach (List.range 24) holdCount v) ↔ Keeps K s v :=
    forEach_keeps_iff fun k v => holdCount_keeps hpower
  unfold chooseStep
  generalize forEach (List.range 24) holdCount = count at hcount ⊢
  simp [hcount, hregs, hpower, hthermal]

theorem execStackHoldback_keeps {k : StackId} {mw : ℕ} (hpower : K.power = false) (h : Keeps K s t) : NextKeeps K s
    (execStackHoldback k mw t) := by
  simp [execStackHoldback, hpower, h]

theorem execHoldbackExit_keeps {k : StackId} {mw : ℕ} (hpower : K.power = false) (h : Keeps K s t) : NextKeeps K s
    (execHoldbackExit k mw t) := by
  simp [execHoldbackExit, hpower, h]

theorem execPackageHoldback_keeps {mw ma : ℕ} (hregs : K.regs = false) (hpower : K.power = false) (h : Keeps K s t)
    : NextKeeps K s (execPackageHoldback mw ma t) := by
  simp [execPackageHoldback, hregs, hpower, h]

theorem execRegulatorSample_keeps {dom : Fin 816} {sensors : List ℕ} (hpower : K.power = false) (h : Keeps K s t) :
    NextKeeps K s (execRegulatorSample dom sensors t) := by
  unfold execRegulatorSample
  split <;> simp [hpower, h]

@[simp] theorem stretchClock_keeps {i target : ℕ} {sensors : List ℕ} (hpower : K.power = false) : Keeps K s
    (stretchClock i target sensors t) ↔ Keeps K s t := by
  simp [stretchClock, hpower]

@[simp] theorem clampCore_keeps {i target : ℕ} {sensors : List ℕ} (hpower : K.power = false) : Keeps K s (clampCore
    i target sensors t) ↔ Keeps K s t := by
  unfold clampCore
  repeat' split
  all_goals simp [hpower]

theorem execShuntClamp_keeps {c : Cid} {sensors : List ℕ} (hpower : K.power = false) (h : Keeps K s t) : NextKeeps K
    s (execShuntClamp c sensors t) := by
  simp [execShuntClamp, hpower, h]

theorem execLeakageEval_keeps (hpower : K.power = false) (h : Keeps K s t) : NextKeeps K s (execLeakageEval t) := by
  simp [execLeakageEval, hpower, h]

@[simp] theorem setGate_keeps {i : ℕ} {g : Gate} (hpower : K.power = false) : Keeps K s (setGate i g t) ↔ Keeps K s
    t := by
  simp [setGate, hpower]

@[simp] theorem setStaged_keeps {k : ℕ} {xs : List (Bool × ℕ)} (hpower : K.power = false) : Keeps K s (setStaged k
    xs t) ↔ Keeps K s t := by
  simp [setStaged, hpower]

@[simp] theorem stageOn_keeps {k : ℕ} {x : Bool × ℕ} (hpower : K.power = false) : Keeps K s (stageOn k x t) ↔ Keeps
    K s t := by
  unfold stageOn
  split <;> simp [hpower]

@[simp] theorem stageDrop_keeps {k : ℕ} {x : Bool × ℕ} (hpower : K.power = false) : Keeps K s (stageDrop k x t) ↔
    Keeps K s t := by
  simp [stageDrop, hpower]

@[simp] theorem coreOff_keeps {i : ℕ} (hcores : K.cores = false) (hpower : K.power = false) : Keeps K s (coreOff i
    t) ↔ Keeps K s t := by
  simp [coreOff, hcores, hpower]

@[simp] theorem writeCorePwr_keeps {i : ℕ} {v : Word32} (hcores : K.cores = false) (hregs : K.regs = false) (hpower
    : K.power = false) : Keeps K s (writeCorePwr i v t) ↔ Keeps K s t := by
  simp [writeCorePwr, hcores, hregs, hpower]

theorem execSlabPowerOff_keeps {c : Cid} (hstks : K.stks = false) (hmem : K.mem = false) (hregs : K.regs = false)
    (htick : K.tick = false) (hpower : K.power = false) (h : Keeps K s t) : NextKeeps K s (execSlabPowerOff c t) := by
  unfold execSlabPowerOff
  refine (ifUp_keeps h).2 fun _ => ?_
  extract_lets i k mine u v w
  have hu : Keeps K s u := forEach_keeps (fun e t h => by split <;> simp [hstks, hmem, hregs, htick, h]) h
  have hv : Keeps K s v := forEach_keeps (fun e t h => l2WbAck_keeps hstks hmem hregs h) hu
  split
  · exact nextKeeps_next.2 h
  · simp [w, hstks, hpower, hv]

@[simp] theorem coreReturn_keeps {i : ℕ} (hcores : K.cores = false) (hmem : K.mem = false) (hregs : K.regs = false)
    (h : Keeps K s t) : Keeps K s (coreReturn i t) := by
  simp [coreReturn, hcores, hmem, hregs, h]

@[simp] theorem slabReturn_keeps {k c : ℕ} (hstks : K.stks = false) (hmem : K.mem = false) (h : Keeps K s t) : Keeps
    K s (slabReturn k c t) := by
  simp [slabReturn, hstks, hmem, h]

theorem execDomainPowerOn_keeps {k : StackId} (hcores : K.cores = false) (hstks : K.stks = false) (hmem : K.mem =
    false) (hregs : K.regs = false) (hpower : K.power = false) (h : Keeps K s t) : NextKeeps K s (execDomainPowerOn
    k t) := by
  unfold execDomainPowerOn
  split <;> simp [hcores, hstks, hmem, hregs, hpower, h]

theorem receiveLend_keeps {kind : ℕ} {f : Msg → State → State} {l : InLink} (hregs : K.regs = false)
    (htick : K.tick = false) (hf : ∀ m v, Keeps K s v → Keeps K s (f m v)) (h : Keeps K s t) :
    NextKeeps K s (receiveLend kind f l t) := by
  unfold receiveLend
  split
  · exact nextKeeps_next.2 h
  · exact receiveControl_keeps hregs htick hf (by simp [h])

theorem execLendReport_keeps {send : Bool} {l : InLink} (hregs : K.regs = false) (htick : K.tick = false)
    (hpower : K.power = false) (h : Keeps K s t) : NextKeeps K s (execLendReport send l t) := by
  unfold execLendReport
  refine (ifUp_keeps h).2 fun _ => ?_
  split
  · extract_lets root
    split
    · exact nextKeeps_next.2 (sendControl_keeps.2 ((updPower_keeps hpower).2 h))
    · exact nextKeeps_next.2 h
  · exact receiveLend_keeps hregs htick (fun m v hv => by simp [hpower, hv]) h

@[simp] theorem sendLend_keeps {kind d b : ℕ} {delta : ℤ} : Keeps K s (sendLend kind d b delta t).2 ↔ Keeps K s t :=
    by
  simp [sendLend]

theorem execLendRound_keeps (hpower : K.power = false) (h : Keeps K s t) : NextKeeps K s (execLendRound t) := by
  unfold execLendRound
  refine (ifUp_keeps h).2 fun _ => ?_
  extract_lets b ms ns lo hi q fresh up down recv don ret pool want ask go
  have hgo : Keeps K s go.2.2 := by
    refine foldl_keeps (fun b : Int × List (ℕ × ℕ) × State => b.2.2) (fun e b h => ?_) h
    simp only
    repeat' split
    all_goals simp [h]
  split
  · exact nextKeeps_next.2 h
  · exact nextKeeps_next.2 ((updPower_keeps hpower).2 hgo)

theorem execLendPhase2_keeps (hpower : K.power = false) (hclock : K.clock = false) (h : Keeps K s t) :
    NextKeeps K s (execLendPhase2 t) := by
  unfold execLendPhase2
  refine (ifUp_keeps h).2 fun _ => ?_
  split
  · exact nextKeeps_next.2 h
  split
  · exact nextKeeps_next.2 h
  extract_lets lat t2 u v
  have hu : Keeps K s u := by
    simp only [u]
    split <;> simp [hclock, h]
  refine nextKeeps_next.2 (forEach_keeps (fun e t h => ?_) ((updPower_keeps hpower).2 hu))
  simp only
  split
  · exact h
  · split <;> simp [hpower, h]

@[simp] theorem lendAnswered_keeps {tag : ℕ} {ok : Bool} (hregs : K.regs = false) (hpower : K.power = false) : Keeps
    K s (lendAnswered tag ok t) ↔ Keeps K s t := by
  unfold lendAnswered
  simp only
  repeat' split
  all_goals simp [hregs, hpower]

@[simp] theorem holdLend_keeps {kind : ℕ} {m : Msg} (hregs : K.regs = false) (hpower : K.power = false) : Keeps K s
    (holdLend kind m t) ↔ Keeps K s t := by
  simp [holdLend, hregs, hpower]

theorem execLendDec_keeps {l : InLink} (hregs : K.regs = false) (htick : K.tick = false) (hpower : K.power = false)
    (h : Keeps K s t) : NextKeeps K s (execLendDec l t) :=
  (ifUp_keeps h).2 fun _ => receiveLend_keeps hregs htick (fun m v hv => by simp [hpower, hregs, hv]) h

theorem execLendInc_keeps {l : InLink} (hregs : K.regs = false) (htick : K.tick = false) (hpower : K.power = false)
    (h : Keeps K s t) : NextKeeps K s (execLendInc l t) :=
  (ifUp_keeps h).2 fun _ => receiveLend_keeps hregs htick (fun m v hv => by simp [hpower, hregs, hv]) h

@[simp] theorem writePwrCtl_keeps {v : Word32} (hregs : K.regs = false) (hpower : K.power = false) : Keeps K s
    (writePwrCtl v t) ↔ Keeps K s t := by
  simp [writePwrCtl, hregs, hpower]

@[simp] theorem writePwrCap_keeps {v : Word32} (hregs : K.regs = false) (hpower : K.power = false) : Keeps K s
    (writePwrCap v t) ↔ Keeps K s t := by
  simp [writePwrCap, hregs, hpower]

@[simp] theorem writeLendCfg_keeps {v : Word32} (hregs : K.regs = false) : Keeps K s (writeLendCfg v t) ↔ Keeps K s
    t := by
  simp [writeLendCfg, hregs]

@[simp] theorem updBonds_keeps {k : ℕ} {f : BondUnit → BondUnit} (hstks : K.stks = false) : Keeps K s (updBonds k f
    t) ↔ Keeps K s t := by
  simp [updBonds, hstks]

@[simp] theorem writeBondLb_keeps {k : ℕ} {v : Word32} (hstks : K.stks = false) (hregs : K.regs = false) : Keeps K s
    (writeBondLb k v t) ↔ Keeps K s t := by
  simp [writeBondLb, hstks, hregs]

theorem execLoopbackDone_keeps {k : StackId} {fails : List (ℕ × ℕ)} (hstks : K.stks = false) (hmem : K.mem = false)
    (hregs : K.regs = false) (htick : K.tick = false) (h : Keeps K s t) :
    NextKeeps K s (execLoopbackDone k fails t) := by
  unfold execLoopbackDone
  refine (ifUp_keeps h).2 fun _ => ?_
  split
  · exact nextKeeps_next.2 h
  · exact nextKeeps_next.2 (forEach_keeps (fun x t h => declareBond_keeps hstks hmem hregs htick h)
      (by simp [hstks, hregs, h]))

theorem execCtrlCopyMask_keeps {k : StackId} {sig : Fin 6552} {copy : Fin 3} (hstks : K.stks = false) (hregs :
    K.regs = false) (h : Keeps K s t) : NextKeeps K s (execCtrlCopyMask k sig copy t) := by
  simp [execCtrlCopyMask, hstks, hregs, h]

@[simp] theorem loseStack_keeps {k : ℕ} (hcores : K.cores = false) (hstks : K.stks = false) (hregs : K.regs = false)
    (htick : K.tick = false) (hpower : K.power = false) : Keeps K s (loseStack k t) ↔ Keeps K s t := by
  simp [loseStack, hcores, hstks, hregs, htick, hpower]

theorem execStackLost_keeps {k : StackId} {sig : Fin 6552} (hcores : K.cores = false) (hstks : K.stks = false)
    (hregs : K.regs = false) (htick : K.tick = false) (hpower : K.power = false) (h : Keeps K s t) : NextKeeps K s
    (execStackLost k sig t) := by
  simp [execStackLost, hcores, hstks, hregs, htick, hpower, h]

@[simp] theorem readCodeLine_keeps {i l : ℕ} (hstks : K.stks = false) (hmem : K.mem = false) (hregs : K.regs = false)
    (htick : K.tick = false) (h : Keeps K s t) : Keeps K s (readCodeLine i l t).2.2 := by
  have hload {how a n v} : Keeps K s v → Keeps K s (sramLoad how a n v).2.2 := sramLoad_keeps hstks hmem hregs htick
  have hline {how k} : Keeps K s (l2ReadLine how k l t).2.2 := l2ReadLine_keeps hstks hmem hregs htick h
  unfold readCodeLine
  generalize sramLoad = load, l2ReadLine = line, decode t (l * 128) = dest at hload hline ⊢
  simp only
  split
  · exact hline
  · refine foldl_keeps (fun b : List Byte × Option ℕ × State => b.2.2) (fun n b h => ?_) h
    exact hload h
  · exact h

@[simp] theorem trapWaiting_keeps {i l : ℕ} {cause : Cause} {pc : ℕ} (hcores : K.cores = false) (hregs : K.regs =
    false) (htick : K.tick = false) : Keeps K s (trapWaiting i l cause pc t) ↔ Keeps K s t := by
  unfold trapWaiting
  split <;> simp [hcores, hregs, htick]

theorem execIcacheFill_keeps {c : Cid} {line : BitVec 33} {u' : Upsets} (h : Keeps {} s t) : NextKeeps {} s
    (execIcacheFill c line u' t) := by
  unfold execIcacheFill
  simp only
  repeat' split
  all_goals simp [h]

@[simp] theorem icIgn_keeps {i : ℕ} (hregs : K.regs = false) : Keeps K s (icIgn i t) ↔ Keeps K s t := by
  simp [icIgn, hregs]

@[simp] theorem icInvalidate_keeps {i : ℕ} (hcores : K.cores = false) : Keeps K s (icInvalidate i t) ↔ Keeps K s t
    := by
  simp [icInvalidate, hcores]

@[simp] theorem icUnpin_keeps {i : ℕ} (hcores : K.cores = false) : Keeps K s (icUnpin i t) ↔ Keeps K s t := by
  simp [icUnpin, hcores]

@[simp] theorem icPreloadStart_keeps {pin : Bool} {i : ℕ} (hcores : K.cores = false) (hregs : K.regs = false) :
    Keeps K s (icPreloadStart pin i t) ↔ Keeps K s t := by
  simp [icPreloadStart, hcores, hregs]

@[simp] theorem writeIcCtl_keeps {i : ℕ} {v : Word32} (hcores : K.cores = false) (hregs : K.regs = false) : Keeps K
    s (writeIcCtl i v t) ↔ Keeps K s t := by
  simp [writeIcCtl, hcores, hregs]

@[simp] theorem preloadLine_keeps {u' : Upsets} {pin : Bool} {i l : ℕ} (h : Keeps {} s t) : Keeps {} s (preloadLine
    u' pin i l t) := by
  unfold preloadLine
  simp only
  repeat' split
  all_goals simp [h]

theorem execIcPreloadLine_keeps {c : Cid} {u' : Upsets} (h : Keeps {} s t) : NextKeeps {} s (execIcPreloadLine c u'
    t) := by
  unfold execIcPreloadLine
  simp only
  split <;> simp [h]

@[simp] theorem setClaimQ_keeps {k q : ℕ} {x : ClaimQ} (hstks : K.stks = false) : Keeps K s (setClaimQ k q x t) ↔
    Keeps K s t := by
  simp [setClaimQ, hstks]

@[simp] theorem claimRearm_keeps {k q : ℕ} (hstks : K.stks = false) : Keeps K s (claimRearm k q t) ↔ Keeps K s t :=
    by
  simp [claimRearm, hstks]

@[simp] theorem takeClaim_keeps {k q c : ℕ} (hstks : K.stks = false) (hregs : K.regs = false) : Keeps K s (takeClaim
    k q c t).2 ↔ Keeps K s t := by
  unfold takeClaim
  simp only
  split <;> simp [hstks, hregs]

theorem execClaimTake_keeps {k : StackId} {q : Fin 4} {core : Fin 17} (hstks : K.stks = false) (hregs : K.regs =
    false) (h : Keeps K s t) : NextKeeps K s (execClaimTake k q core t) := by
  simp [execClaimTake, hstks, hregs, h]

@[simp] theorem claimArrive_keeps {a n : ℕ} (hstks : K.stks = false) (hregs : K.regs = false) : Keeps K s
    (claimArrive a n t) ↔ Keeps K s t := by
  simp [claimArrive, hstks, hregs]

@[simp] theorem writeClaimCfg_keeps {k q reg : ℕ} {v : Word32} (hstks : K.stks = false) (hregs : K.regs = false) :
    Keeps K s (writeClaimCfg k q reg v t) ↔ Keeps K s t := by
  simp [writeClaimCfg, hstks, hregs]

@[simp] theorem writeClaimStat_keeps {k q : ℕ} {v : Word32} (hstks : K.stks = false) (hregs : K.regs = false) :
    Keeps K s (writeClaimStat k q v t) ↔ Keeps K s t := by
  simp [writeClaimStat, hstks, hregs]

@[simp] theorem takeSnapshot_keeps {i : ℕ} (hcores : K.cores = false) (hregs : K.regs = false) : Keeps K s
    (takeSnapshot i t) ↔ Keeps K s t := by
  simp [takeSnapshot, hcores, hregs]

theorem execCoreStopHit_keeps {c : Cid} (hcores : K.cores = false) (hregs : K.regs = false) (htick : K.tick = false)
    (h : Keeps K s t) : NextKeeps K s (execCoreStopHit c t) := by
  simp [execCoreStopHit, hcores, hregs, htick, h]

theorem execGlintSnapshot_keeps {c : Cid} {late : Bool} (hcores : K.cores = false) (hregs : K.regs = false) (h :
    Keeps K s t) : NextKeeps K s (execGlintSnapshot c late t) := by
  simp [execGlintSnapshot, hcores, hregs, h]

end

end Sys2Proof.Machine
end

section
/-! Links and the tick unit keep the queue and the form of memory. -/

namespace Sys2Proof.Machine

open Sys2Proof

section
variable {K : Kept} {s t u : State}

@[simp] theorem lnkEvt_keeps {f : Fld} {l : ℕ} (hregs : K.regs = false) : Keeps K s (lnkEvt f l t) ↔ Keeps K s t :=
    by
  simp [lnkEvt, hregs]

@[simp] theorem splitErr_keeps {p : ℕ} (hregs : K.regs = false) : Keeps K s (splitErr p t) ↔ Keeps K s t := by
  simp [splitErr, hregs]

@[simp] theorem writeRouteLo_keeps {d : ℕ} {v : Word32} : Keeps K s (writeRouteLo d v t) ↔ Keeps K s t := by
  simp [writeRouteLo]

@[simp] theorem stageRoute_keeps {d : ℕ} {lo hi : Word32} : Keeps K s (stageRoute d lo hi t) ↔ Keeps K s t := by
  simp [stageRoute]

@[simp] theorem writeRouteHi_keeps {d : ℕ} {v : Word32} : Keeps K s (writeRouteHi d v t) ↔ Keeps K s t := by
  simp [writeRouteHi]

@[simp] theorem applyRoutes_keeps (hregs : K.regs = false) : Keeps K s (applyRoutes t) ↔ Keeps K s t := by
  have hput {e : ℕ × Option (ℕ × ℕ)} {v : State} : Keeps K s (match e.2 with
      | some (lo, hi) =>
        (v.setReg (Reg.LNK_RTd_LO e.1) (BitVec.ofNat 32 lo)).setReg (Reg.LNK_RTd_HI e.1) (BitVec.ofNat 32 hi)
      | none => v) ↔ Keeps K s v := by split <;> simp [hregs]
  unfold applyRoutes
  extract_lets u v gone w
  have hu : Keeps K s u ↔ Keeps K s t := forEach_keeps_iff fun e v => hput
  have hw : Keeps K s w ↔ Keeps K s t := by
    rw [← hu]
    simp only [w]
    split
    · rfl
    · refine forEach_keeps_iff fun d v => ?_
      rw [forEach_keeps_iff fun l v => State.clrBit_keeps hregs]
      split <;> simp [hregs]
  rw [forEach_keeps_iff fun l v => updLink_keeps, hw]

@[simp] theorem sendLosses_keeps {n : ℕ} {ds : List ℕ} : Keeps K s (sendLosses n ds t) ↔ Keeps K s t := by
  induction n generalizing ds t with
  | zero => rfl
  | succ n ih =>
    cases ds with
    | nil => rfl
    | cons d ds => simp [sendLosses, ih]

@[simp] theorem policyLoss_keeps {l : ℕ} : Keeps K s (policyLoss l t) ↔ Keeps K s t := by
  unfold policyLoss
  split
  · rfl
  · refine forEach_keeps_iff fun d v => ?_
    simp only
    repeat' split
    all_goals simp

@[simp] theorem setNbr_keeps {l : ℕ} {x : Nbr} (hregs : K.regs = false) : Keeps K s (setNbr l x t) ↔ Keeps K s t :=
    by
  simp [setNbr, hregs]

@[simp] theorem discardLink_keeps {l : ℕ} : Keeps K s (discardLink l t) ↔ Keeps K s t := by
  simp [discardLink]

@[simp] theorem linkLeave_keeps {l : ℕ} {next : LinkState} {loss : Bool} (hregs : K.regs = false) :
    Keeps K s (linkLeave l next loss t) ↔ Keeps K s t := by
  unfold linkLeave
  simp only
  repeat' split
  all_goals simp [hregs]

theorem execLinkLoss_keeps {l : LinkId} (hregs : K.regs = false) (h : Keeps K s t) : NextKeeps K s (execLinkLoss l
    t) := by
  simp [execLinkLoss, hregs, h]

@[simp] theorem linkEnter_keeps {l : ℕ} {st : LinkState} : Keeps K s (linkEnter l st t) ↔ Keeps K s t := by
  simp [linkEnter]

@[simp] theorem writeLnkCtl_keeps {p : ℕ} {v : Word32} (hregs : K.regs = false) : Keeps K s (writeLnkCtl p v t) ↔
    Keeps K s t := by
  simp [writeLnkCtl, hregs]

theorem execLinkDetect_keeps {l : LinkId} (h : Keeps K s t) : NextKeeps K s (execLinkDetect l t) := by
  simp [execLinkDetect, h]

theorem execLinkTrainDone_keeps {l : LinkId} (h : Keeps K s t) : NextKeeps K s (execLinkTrainDone l t) := by
  simp [execLinkTrainDone, h]

theorem execLinkTrainFail_keeps {l : LinkId} {mismatch : Bool} (hregs : K.regs = false) (h : Keeps K s t) :
    NextKeeps K s (execLinkTrainFail l mismatch t) := by
  unfold execLinkTrainFail
  simp only
  repeat' split
  all_goals simp [hregs, h]

theorem execLinkAligned_keeps {l : LinkId} (h : Keeps K s t) : NextKeeps K s (execLinkAligned l t) := by
  simp [execLinkAligned, h]

theorem execLinkDownExpiry_keeps {l : LinkId} (hclock : K.clock = false) (h : Keeps K s t) : NextKeeps K s
    (execLinkDownExpiry l t) := by
  simp [execLinkDownExpiry, hclock, h]

@[simp] theorem identChanged_keeps : Keeps K s (identChanged t) ↔ Keeps K s t := by
  simp [identChanged]

@[simp] theorem noteNbr_keeps {l : ℕ} (hregs : K.regs = false) : Keeps K s (noteNbr l t) ↔ Keeps K s t := by
  simp [noteNbr, hregs]

@[simp] theorem linkActivate_keeps {l : ℕ} (hregs : K.regs = false) : Keeps K s (linkActivate l t) ↔ Keeps K s t :=
    by
  simp [linkActivate, hregs]

theorem execIdentSend_keeps {l : LinkId} (hclock : K.clock = false) (h : Keeps K s t) : NextKeeps K s (execIdentSend
    l t) := by
  simp [execIdentSend, hclock, h]

@[simp] theorem takeIdent_keeps {l : ℕ} {m : Msg} (hregs : K.regs = false) : Keeps K s (takeIdent l m t) ↔ Keeps K s
    t := by
  simp [takeIdent, hregs]

theorem execIdent_keeps {l : InLink} (hregs : K.regs = false) (htick : K.tick = false) (h : Keeps K s t) :
    NextKeeps K s (execIdent l t) :=
  (ifUp_keeps h).2 fun _ => receive_keeps hregs htick (fun m v hv => by split <;> simp [hregs, hv]) h

@[simp] theorem loadWire_keeps {l : ℕ} {vcs : List ℕ} (hregs : K.regs = false) (hclock : K.clock = false) : Keeps K
    s (loadWire l vcs t) ↔ Keeps K s t := by
  unfold loadWire
  repeat' split
  all_goals simp [hregs, hclock]

@[simp] theorem fillSlot_keeps {l i : ℕ} (hregs : K.regs = false) (hclock : K.clock = false) : Keeps K s (fillSlot l
    i t).2 ↔ Keeps K s t := by
  unfold fillSlot
  simp only
  repeat' split
  all_goals simp [hregs, hclock]

theorem execFrameSend_keeps {l : LinkId} (hregs : K.regs = false) (hclock : K.clock = false) (h : Keeps K s t) :
    NextKeeps K s (execFrameSend l t) := by
  unfold execFrameSend
  simp only
  repeat' split
  all_goals simp [hregs, hclock, h]

@[simp] theorem takeFlit_keeps {l : ℕ} {f : Flit} : Keeps K s (takeFlit l f t) ↔ Keeps K s t := by
  unfold takeFlit
  simp only
  split <;> simp

@[simp] theorem startNak_keeps {l : ℕ} : Keeps K s (startNak l t) ↔ Keeps K s t := by
  simp [startNak]

@[simp] theorem takeTrailer_keeps {l : ℕ} {fr : Frame} : Keeps K s (takeTrailer l fr t) ↔ Keeps K s t := by
  simp [takeTrailer]

theorem execFrameReceive_keeps {l : LinkId} {fr : Frame} {fecFixed : ℕ} {fecBad : Bool} (hregs : K.regs = false) (h
    : Keeps K s t) : NextKeeps K s (execFrameReceive l fr fecFixed fecBad t) := by
  simp [execFrameReceive, hregs, h]

theorem execReplayTimeout_keeps {l : LinkId} (hclock : K.clock = false) (h : Keeps K s t) : NextKeeps K s
    (execReplayTimeout l t) := by
  unfold execReplayTimeout
  simp only
  split <;> simp [hclock, h]

theorem execNakResend_keeps {l : LinkId} (hclock : K.clock = false) (h : Keeps K s t) : NextKeeps K s (execNakResend
    l t) := by
  simp [execNakResend, hclock, h]

@[simp] theorem refuseAddr_keeps {l e0 : ℕ} {m : Msg} (hregs : K.regs = false) : Keeps K s (refuseAddr l e0 m t) ↔
    Keeps K s t := by
  simp [refuseAddr, hregs]

@[simp] theorem directStore_keeps {master a : ℕ} {data : List Byte} {dl : Option ℕ} (hstks : K.stks = false) (hmem :
    K.mem = false) (hregs : K.regs = false) (htick : K.tick = false) (h : Keeps K s t) : Keeps K s (directStore
    master a data dl t) := by
  simp [directStore, hstks, hmem, hregs, htick, h]

@[simp] theorem directLoad_keeps {master a n : ℕ} {dl : Option ℕ} (hstks : K.stks = false) (hmem : K.mem = false)
    (hregs : K.regs = false) (htick : K.tick = false) (h : Keeps K s t) : Keeps K s (directLoad master a n dl t).2.2
    := by
  unfold directLoad
  repeat' split
  all_goals simp [hstks, hmem, hregs, htick, h]

@[simp] theorem ingressWrite_keeps {l : ℕ} {m : Msg} (hstks : K.stks = false) (hmem : K.mem = false) (hregs : K.regs
    = false) (htick : K.tick = false) (h : Keeps K s t) : Keeps K s (ingressWrite l m t) := by
  unfold ingressWrite
  repeat' split
  all_goals simp [hstks, hmem, hregs, htick, h]

theorem execLinkWrite_keeps {l : InLink} (hstks : K.stks = false) (hmem : K.mem = false) (hregs : K.regs = false)
    (htick : K.tick = false) (h : Keeps K s t) : NextKeeps K s (execLinkWrite l t) :=
  (ifUp_keeps h).2 fun _ => receive_keeps hregs htick (fun _ _ hv => ingressWrite_keeps hstks hmem hregs htick hv) h

theorem execLinkSend_keeps {l : InLink} (hstks : K.stks = false) (hmem : K.mem = false) (hregs : K.regs = false)
    (htick : K.tick = false) (h : Keeps K s t) : NextKeeps K s (execLinkSend l t) :=
  (ifUp_keeps h).2 fun _ => receive_keeps hregs htick (fun _ _ hv => ingressWrite_keeps hstks hmem hregs htick hv) h

theorem execLinkRead_keeps {l : InLink} {u' : Upsets} (h : Keeps {} s t) : NextKeeps {} s (execLinkRead l u' t) := by
  have hload {m a n d v} : Keeps {} s v → Keeps {} s (directLoad m a n d v).2.2 := directLoad_keeps rfl rfl rfl rfl
  unfold execLinkRead
  generalize directLoad = load at hload ⊢
  refine (ifUp_keeps h).2 fun _ => receive_keeps rfl rfl (fun m v hv => ?_) h
  split
  · simp [hv]
  · split
    · simp [hv]
    · split
      next hw =>
      have := keeps_of_eq hw (hload (upset_keeps rfl rfl rfl hv))
      split <;> simp [this]

@[simp] theorem State.answered_keeps {w : Wait} : Keeps K s (t.answered w) ↔ Keeps K s t := by
  simp [State.answered]

theorem execRdresp_keeps {l : InLink} (hstks : K.stks = false) (hregs : K.regs = false) (htick : K.tick = false)
    (h : Keeps K s t) : NextKeeps K s (execRdresp l t) :=
  (ifUp_keeps h).2 fun _ => receive_keeps hregs htick (fun m v hv => by
    simp only
    split <;> simp [hstks, hregs, hv]) h

theorem execAck_keeps {l : InLink} (hstks : K.stks = false) (hregs : K.regs = false) (htick : K.tick = false)
    (hpower : K.power = false) (h : Keeps K s t) : NextKeeps K s (execAck l t) :=
  (ifUp_keeps h).2 fun _ => receive_keeps hregs htick (fun m v hv => by
    simp only
    repeat' split
    all_goals simp [hstks, hregs, hpower, hv]) h

@[simp] theorem captureNack_keeps {l : ℕ} {w : Wait} {epoch : ℕ} (hregs : K.regs = false) : Keeps K s (captureNack l
    w epoch t) ↔ Keeps K s t := by
  simp [captureNack, hregs]

theorem execNack_keeps {l : InLink} (hstks : K.stks = false) (hregs : K.regs = false) (htick : K.tick = false)
    (hpower : K.power = false) (h : Keeps K s t) : NextKeeps K s (execNack l t) :=
  (ifUp_keeps h).2 fun _ => receive_keeps hregs htick (fun m v hv => by
    simp only
    repeat' split
    all_goals simp [hstks, hregs, hpower, hv]) h

theorem execMessageForward_keeps {l : InLink} (h : Keeps K s t) : NextKeeps K s (execMessageForward l t) := by
  unfold execMessageForward
  refine (ifUp_keeps h).2 fun _ => ?_
  split
  · exact nextKeeps_next.2 h
  next e =>
    have := takeMsg_keeps e h
    simp only
    split <;> simp [this]

theorem execReservedTypeMessage_keeps {l : InLink} (h : Keeps K s t) : NextKeeps K s (execReservedTypeMessage l t) := by
  unfold execReservedTypeMessage
  refine (ifUp_keeps h).2 fun _ => ?_
  split
  · exact nextKeeps_next.2 h
  next e =>
    have := takeMsg_keeps e h
    simp [this]

theorem execTsyncInterval_keeps (hclock : K.clock = false) (h : Keeps K s t) : NextKeeps K s (execTsyncInterval t)
    := by
  unfold execTsyncInterval
  split <;> simp [hclock, h]

theorem execTsyncReq_keeps {l : InLink} (hregs : K.regs = false) (htick : K.tick = false) (h : Keeps K s t) :
    NextKeeps K s (execTsyncReq l t) :=
  (ifUp_keeps h).2 fun _ => receive_keeps hregs htick (fun m v hv => by split <;> simp [hv]) h

@[simp] theorem syncResult_keeps {l : ℕ} {m : Msg} (hregs : K.regs = false) (hclock : K.clock = false) : Keeps K s
    (syncResult l m t) ↔ Keeps K s t := by
  simp [syncResult, hregs, hclock]

theorem execTsyncRsp_keeps {l : InLink} (hregs : K.regs = false) (htick : K.tick = false) (hclock : K.clock = false)
    (h : Keeps K s t) : NextKeeps K s (execTsyncRsp l t) :=
  (ifUp_keeps h).2 fun _ => receive_keeps hregs htick (fun m v hv => by split <;> simp [hregs, hclock, hv]) h

@[simp] theorem writeTsync_keeps {v : Word32} (hregs : K.regs = false) : Keeps K s (writeTsync v t) ↔ Keeps K s t :=
    by
  simp [writeTsync, hregs]

@[simp] theorem writeLastNack_keeps {v : Word32} (hregs : K.regs = false) : Keeps K s (writeLastNack v t) ↔ Keeps K
    s t := by
  simp [writeLastNack, hregs]

@[simp] theorem setTickState_keeps {x : ℕ} (hregs : K.regs = false) : Keeps K s (setTickState x t) ↔ Keeps K s t :=
    by
  simp [setTickState, hregs]

@[simp] theorem startJob_keeps (hregs : K.regs = false) (htick : K.tick = false) (hpower : K.power = false) : Keeps
    K s (startJob t) ↔ Keeps K s t := by
  unfold startJob
  split <;> simp [hregs, htick, hpower]

@[simp] theorem writeTickCtl_keeps {v : Word32} (hregs : K.regs = false) (htick : K.tick = false) (hpower : K.power
    = false) : Keeps K s (writeTickCtl v t) ↔ Keeps K s t := by
  simp [writeTickCtl, hregs, htick, hpower]

@[simp] theorem writeTickPeriod_keeps {v : Word32} (hregs : K.regs = false) (htick : K.tick = false) : Keeps K s
    (writeTickPeriod v t) ↔ Keeps K s t := by
  simp [writeTickPeriod, hregs, htick]

@[simp] theorem writeRelLat_keeps {v : Word32} (hregs : K.regs = false) : Keeps K s (writeRelLat v t) ↔ Keeps K s t
    := by
  simp [writeRelLat, hregs]

@[simp] theorem writeRootId_keeps {v : Word32} (hregs : K.regs = false) : Keeps K s (writeRootId v t) ↔ Keeps K s t
    := by
  simp [writeRootId, hregs]

@[simp] theorem writeSnapCtl_keeps {v : Word32} (hregs : K.regs = false) : Keeps K s (writeSnapCtl v t) ↔ Keeps K s
    t := by
  simp [writeSnapCtl, hregs]

theorem receiveTick_keeps {kind : ℕ} {f : Msg → State → State} {l : InLink} (hregs : K.regs = false)
    (htick : K.tick = false) (hf : ∀ m v, Keeps K s v → Keeps K s (f m v)) (h : Keeps K s t) :
    NextKeeps K s (receiveTick kind f l t) := by
  unfold receiveTick
  split
  · exact nextKeeps_next.2 h
  · exact receive_keeps hregs htick hf (by simp [h])

@[simp] theorem notRoot_keeps {m : Msg} (hregs : K.regs = false) : Keeps K s (notRoot m t) ↔ Keeps K s t := by
  simp [notRoot, hregs]

theorem execTickReady_keeps {l : InLink} (hregs : K.regs = false) (htick : K.tick = false) (h : Keeps K s t) :
    NextKeeps K s (execTickReady l t) :=
  (ifUp_keeps h).2 fun _ => receiveTick_keeps hregs htick (fun m v hv => by
    simp only
    repeat' split
    all_goals simp [hregs, htick, hv]) h

theorem execTickDone_keeps {l : InLink} (hregs : K.regs = false) (htick : K.tick = false) (h : Keeps K s t) :
    NextKeeps K s (execTickDone l t) :=
  (ifUp_keeps h).2 fun _ => receiveTick_keeps hregs htick (fun m v hv => by
    simp only
    repeat' split
    all_goals simp [hregs, htick, hv]) h

theorem execTickRelease_keeps {l : InLink} (hregs : K.regs = false) (htick : K.tick = false) (h : Keeps K s t) :
    NextKeeps K s (execTickRelease l t) :=
  (ifUp_keeps h).2 fun _ => receiveTick_keeps hregs htick (fun m v hv => by
    simp only
    repeat' split
    all_goals simp [htick, hv]) h

theorem execPackageDone_keeps (hregs : K.regs = false) (htick : K.tick = false) (hpower : K.power = false) (h :
    Keeps K s t) : NextKeeps K s (execPackageDone t) := by
  simp [execPackageDone, hregs, htick, hpower, h]

theorem execTickOverrun_keeps (hregs : K.regs = false) (htick : K.tick = false) (hclock : K.clock = false) (h :
    Keeps K s t) : NextKeeps K s (execTickOverrun t) := by
  simp [execTickOverrun, hregs, htick, hclock, h]

@[simp] theorem abandonStart_keeps (hregs : K.regs = false) (htick : K.tick = false) : Keeps K s (abandonStart t) ↔
    Keeps K s t := by
  simp [abandonStart, hregs, htick]

theorem execStartTimeout_keeps (hregs : K.regs = false) (htick : K.tick = false) (hclock : K.clock = false) (h :
    Keeps K s t) : NextKeeps K s (execStartTimeout t) := by
  simp [execStartTimeout, hregs, htick, hclock, h]

theorem execStartAbandon_keeps (hregs : K.regs = false) (htick : K.tick = false) (hclock : K.clock = false) (h :
    Keeps K s t) : NextKeeps K s (execStartAbandon t) := by
  simp [execStartAbandon, hregs, htick, hclock, h]

theorem execTickFaultTimeout_keeps (hregs : K.regs = false) (htick : K.tick = false) (hclock : K.clock = false) (h :
    Keeps K s t) : NextKeeps K s (execTickFaultTimeout t) := by
  simp [execTickFaultTimeout, hregs, htick, hclock, h]

theorem execLoss_keeps {l : InLink} (hregs : K.regs = false) (htick : K.tick = false) (h : Keeps K s t) :
    NextKeeps K s (execLoss l t) :=
  (ifUp_keeps h).2 fun _ => receive_keeps hregs htick (fun m v hv => by simp [hregs, htick, hv]) h

@[simp] theorem latchPeaks_keeps (hregs : K.regs = false) : Keeps K s (latchPeaks t) ↔ Keeps K s t := by
  simp [latchPeaks, hregs]

@[simp] theorem latchGlint_keeps (hcores : K.cores = false) (hstks : K.stks = false) (hregs : K.regs = false) :
    Keeps K s (latchGlint t) ↔ Keeps K s t := by
  unfold latchGlint
  extract_lets u v
  have hu : Keeps K s u ↔ Keeps K s t := by simp [u, hregs]
  have hv : Keeps K s v ↔ Keeps K s u := forEach_keeps_iff fun e w => by simp [hcores, hregs]
  rw [forEach_keeps_iff fun e w => by simp [hstks, hregs], hv, hu]

@[simp] theorem latchTick_keeps {b d : ℕ} (hcores : K.cores = false) (hstks : K.stks = false) (hregs : K.regs =
    false) (htick : K.tick = false) (hpower : K.power = false) : Keeps K s (latchTick b d t) ↔ Keeps K s t := by
  simp [latchTick, hcores, hstks, hregs, htick, hpower]

@[simp] theorem cleanL1s_keeps (h : Keeps {} s t) : Keeps {} s (cleanL1s t) := by
  unfold cleanL1s
  refine forEach_keeps (fun i t h => ?_) h
  split <;> simp [h]

@[simp] theorem applyClears_keeps (hstks : K.stks = false) : Keeps K s (applyClears t) ↔ Keeps K s t := by
  simp [applyClears, hstks]

@[simp] theorem recountStack_keeps {k : ℕ} (hregs : K.regs = false) :
    Keeps K s (recountStack k t) ↔ Keeps K s t := by
  unfold recountStack
  extract_lets u cs s1 s2 s3 n on plain sets offPort off s4 st s5 s6 s7 s8 s9
  have h3 : Keeps K s s3 ↔ Keeps K s t := by simp [s3, s2, s1, hregs]
  have h8 : Keeps K s s8 ↔ Keeps K s s3 := by simp [s8, s7, s6, s5, s4, hregs]
  clear_value s8
  have h9 : Keeps K s s9 ↔ Keeps K s s8 := keeps_mk.trans (keeps_regs hregs)
  clear_value s9
  exact (forEach_keeps_iff fun _ _ => by simp [hregs]).trans (h9.trans (h8.trans h3))

@[simp] theorem recountHbm_keeps {m : ℕ} (hregs : K.regs = false) : Keeps K s (recountHbm m t) ↔ Keeps K s t := by
  simp [recountHbm, hregs]

@[simp] theorem recountPoint_keeps {p : ℕ} (hregs : K.regs = false) : Keeps K s (recountPoint p t) ↔ Keeps K s t :=
    by
  simp [recountPoint, hregs]

@[simp] theorem latchExclusions_keeps (hregs : K.regs = false) : Keeps K s (latchExclusions t) ↔ Keeps K s t := by
  simp [latchExclusions, hregs]

@[simp] theorem dropAdmitted_keeps (hregs : K.regs = false) : Keeps K s (dropAdmitted t) ↔ Keeps K s t := by
  simp [dropAdmitted, hregs]

@[simp] theorem recount_keeps (hstks : K.stks = false) (hmem : K.mem = false) (hregs : K.regs = false)
    (htick : K.tick = false) (h : Keeps K s t) : Keeps K s (recount t) := by
  have hsplits : Keeps K s (forEach (((applyClears t).stks.map (·.1))) (fun k s => applySplit k s) (applyClears t)) :=
    forEach_keeps (fun k t h => applySplit_keeps hstks hmem hregs htick h) (by simp [hstks, h])
  unfold recount
  simp [hregs, hsplits]

@[simp] theorem admitUnits_keeps (hregs : K.regs = false) : Keeps K s (admitUnits t) ↔ Keeps K s t := by
  simp [admitUnits, hregs]

@[simp] theorem applyRoles_keeps {b : ℕ} {restarts : Bool} (hregs : K.regs = false) : Keeps K s (applyRoles b
    restarts t) ↔ Keeps K s t := by
  simp [applyRoles, hregs]

@[simp] theorem applyJobFeat_keeps (hregs : K.regs = false) : Keeps K s (applyJobFeat t) ↔ Keeps K s t := by
  simp [applyJobFeat, hregs]

@[simp] theorem raiseVolts_keeps (hpower : K.power = false) : Keeps K s (raiseVolts t) ↔ Keeps K s t := by
  simp [raiseVolts, hpower]

@[simp] theorem setStep_keeps (hcores : K.cores = false) (hregs : K.regs = false) (hpower : K.power = false)
    (hthermal : K.thermal = false) : Keeps K s (setStep t) ↔ Keeps K s t := by
  simp [setStep, hcores, hregs, hpower, hthermal]

@[simp] theorem applyPeriod_keeps {p : ℕ} {keep : Bool} (hregs : K.regs = false) (htick : K.tick = false) : Keeps K
    s (applyPeriod p keep t) ↔ Keeps K s t := by
  simp [applyPeriod, hregs, htick]

@[simp] theorem tickPulse_keeps (hlands : K.lands = false) : Keeps K s (tickPulse t) ↔ Keeps K s t := by
  simp [tickPulse, hlands]

@[simp] theorem endTick_keeps (hregs : K.regs = false) (hlands : K.lands = false) : Keeps K s (endTick t) ↔ Keeps K
    s t := by
  simp [endTick, hregs, hlands]

@[simp] theorem openTick_keeps {keep : Bool} {t0 : ℕ} (hcores : K.cores = false) (hstks : K.stks = false)
    (hregs : K.regs = false) (htick : K.tick = false) (hpower : K.power = false) :
    Keeps K s (openTick keep t0 t) ↔ Keeps K s t := by
  have hchans {e : ℕ × Stack} {v : State} : Keeps K s (forEach (e.2.chans.map (·.1)) (fun n s =>
      updChan e.1 n (fun c => { c with fired := false, late := false }) s) v) ↔ Keeps K s v :=
    forEach_keeps_iff fun n v => updChan_keeps hstks
  unfold openTick
  rw [forEach_keeps_iff fun e v => hchans]
  simp [hcores, hregs, htick, hpower]

/-- Held triggers of every channel. -/
theorem startHelds_keeps {es : List (ℕ × Stack)} (hstks : K.stks = false) (hregs : K.regs = false) :
    Keeps K s (forEach es (fun e s => forEach (e.2.chans.map (·.1)) (fun n s => startHeld e.1 n s) s) t) ↔
      Keeps K s t :=
  forEach_keeps_iff fun _ _ => forEach_keeps_iff fun _ _ => startHeld_keeps hstks hregs

@[simp] theorem resumeWork_keeps {job0 : Bool} (hcores : K.cores = false) (hstks : K.stks = false)
    (hregs : K.regs = false) : Keeps K s (resumeWork job0 t) ↔ Keeps K s t := by
  unfold resumeWork
  rw [startHelds_keeps hstks hregs, forEach_keeps_iff fun i v => by simp [hcores]]

@[simp] theorem noteLate_keeps {d : ℕ} (hregs : K.regs = false) : Keeps K s (noteLate d t) ↔ Keeps K s t := by
  simp [noteLate, hregs]

@[simp] theorem boundary_keeps {kind : BndKind} {b t0 period vin : ℕ} (h : Keeps {} s t) :
    Keeps {} s (boundary kind b t0 period vin t) := by
  unfold boundary
  extract_lets stopped d restarts ramped cleaned recounted roles feat step periodic opened freed counted resumed
  have hcleaned : Keeps {} s cleaned := by
    refine cleanL1s_keeps ?_
    simp [ramped, stopped, h]
  have hrecounted : Keeps {} s recounted := recount_keeps rfl rfl rfl rfl ((applyRoutes_keeps rfl).2 hcleaned)
  have hfeat : Keeps {} s feat := by
    simp only [feat]
    split <;> simp [roles, hrecounted]
  have hperiodic : Keeps {} s periodic := by simp [periodic, step, hfeat]
  have hopened : Keeps {} s opened := by
    simp only [opened]
    split <;> simp [hperiodic]
  have hcounted : Keeps {} s counted := by
    simp only [counted]
    split
    · simp only [freed]
      split <;> simp [hopened]
    · simp [hopened]
    · exact hopened
  have hresumed : Keeps {} s resumed := (resumeWork_keeps rfl rfl rfl).2 hcounted
  split <;> simp [hresumed]

@[simp] theorem tickBoundary_keeps {vin : ℕ} (h : Keeps {} s t) : Keeps {} s (tickBoundary vin t) := by
  unfold tickBoundary
  split <;> simp [h]

@[simp] theorem stopBoundary_keeps {r : Release} (h : Keeps {} s t) : Keeps {} s (stopBoundary r t) := by
  unfold stopBoundary
  extract_lets stopped d invalid ramped aborted cleaned step opened emptied rearmed state fault inval ctl stop ticked
    powered
  have hramped : Keeps {} s ramped :=
    forEach_keeps (fun i v hv => (rampPass_keeps rfl).2 (settleStores_keeps ((haltSlots_keeps rfl).2 hv)))
      (by simp [stopped, h])
  have haborted : Keeps {} s aborted :=
    (forEach_keeps_iff fun e v => forEach_keeps_iff fun n v => abortCh_keeps rfl rfl).2 hramped
  have hcleaned : Keeps {} s cleaned := cleanL1s_keeps (by simp [haborted])
  have hstep : Keeps {} s step := (setStep_keeps rfl rfl rfl rfl).2 (recount_keeps rfl rfl rfl rfl (by simp [hcleaned]))
  have hemptied : Keeps {} s emptied :=
    forEach_keeps (fun i v hv => dropLoads_keeps ((tensorReset_keeps rfl).2 ((emptySlots_keeps rfl).2 hv)))
      (by simp [opened, hstep])
  have hrearmed : Keeps {} s rearmed :=
    (forEach_keeps_iff fun e v => forEach_keeps_iff fun q v => claimRearm_keeps rfl).2 hemptied
  have hinval : Keeps {} s inval := by
    simp only [inval, fault, state]
    split <;> split <;> simp [hrearmed]
  refine (startHelds_keeps rfl rfl).2 ?_
  simp [powered, ticked, stop, ctl, hinval]

theorem execStoppingBoundary_keeps {_vin : ℕ} (h : Keeps {} s t) : NextKeeps {} s (execStoppingBoundary _vin t) :=
    by
  unfold execStoppingBoundary
  split <;> simp [h]

theorem execReleaseLost_keeps (h : Keeps {} s t) : NextKeeps {} s (execReleaseLost t) := by
  simp [execReleaseLost, h]

theorem execTickInEdge_keeps (hlands : K.lands = false) (hclock : K.clock = false) (h : Keeps K s t) :
    NextKeeps K s (execTickInEdge t) := by
  refine (ifUp_keeps h).2 fun _ => ?_
  extract_lets close lands edge p r down
  have hedge : Keeps K s edge := by simp [edge, hlands, h]
  clear_value close
  have hclocked {v : State} {tb : ℕ} (hv : Keeps K s v) : NextKeeps K s (.next { v with tb := tb }) := by
    simp [hclock, hv]
  split
  · simpa using h
  · split
    · exact hclocked hedge
    · split
      · exact hclocked hedge
      · split
        next e =>
          have hdraw := (State.draw_keeps (w := 1)).2 hedge
          rw [e] at hdraw
          exact hclocked hdraw

end

end Sys2Proof.Machine
end

section
/-! Reads and writes of registers keep the queue and the form of memory. -/

namespace Sys2Proof.Machine

open Sys2Proof

section
variable {K : Kept} {s t u : State}

@[simp] theorem State.asFrozen_keeps {f : Frozen} (hregs : K.regs = false) : Keeps K s (t.asFrozen f) ↔ Keeps K s t
    := by
  simp [State.asFrozen, hregs]

@[simp] theorem readWord_keeps {p : Path} {who a : ℕ} (hstks : K.stks = false) (hregs : K.regs = false) : Keeps K s
    (readWord p who a t).2 ↔ Keeps K s t := by
  unfold readWord
  simp only
  repeat' split
  all_goals simp [hstks, hregs]

@[simp] theorem accErr_keeps {p : Path} {kind off : ℕ} (hregs : K.regs = false) : Keeps K s (accErr p kind off t) ↔
    Keeps K s t := by
  simp [accErr, hregs]

@[simp] theorem readAccess_keeps {p : Path} {who a n : ℕ} (hstks : K.stks = false) (hregs : K.regs = false) : Keeps
    K s (readAccess p who a n t).2 ↔ Keeps K s t := by
  unfold readAccess
  simp only
  repeat' split
  all_goals simp [hstks, hregs]

@[simp] theorem writeMode_keeps {v : Word32} (hcores : K.cores = false) (hregs : K.regs = false) : Keeps K s
    (writeMode v t) ↔ Keeps K s t := by
  simp [writeMode, hcores, hregs]

@[simp] theorem writePkgId_keeps {v : Word32} (hregs : K.regs = false) : Keeps K s (writePkgId v t) ↔ Keeps K s t :=
    by
  simp [writePkgId, hregs]

@[simp] theorem clearCapture_keeps {lo : ℕ} {v : Word32} (hregs : K.regs = false) : Keeps K s (clearCapture lo v t)
    ↔ Keeps K s t := by
  simp [clearCapture, hregs]

@[simp] theorem roleIgn_keeps (hregs : K.regs = false) : Keeps K s (roleIgn t) ↔ Keeps K s t := by
  simp [roleIgn, hregs]

@[simp] theorem writeRoleVal_keeps {v : Word32} (hregs : K.regs = false) : Keeps K s (writeRoleVal v t) ↔ Keeps K s
    t := by
  simp [writeRoleVal, hregs]

@[simp] theorem writeRoleCmt_keeps {v : Word32} (hregs : K.regs = false) : Keeps K s (writeRoleCmt v t) ↔ Keeps K s
    t := by
  simp [writeRoleCmt, hregs]

@[simp] theorem writeMemb_keeps {hi : Bool} {v : Word32} (hregs : K.regs = false) : Keeps K s (writeMemb hi v t) ↔
    Keeps K s t := by
  simp [writeMemb, hregs]

@[simp] theorem writeMspiStat_keeps {v : Word32} (hregs : K.regs = false) : Keeps K s (writeMspiStat v t) ↔ Keeps K
    s t := by
  simp [writeMspiStat, hregs]

@[simp] theorem writeFltCfg_keeps {v : Word32} (hregs : K.regs = false) : Keeps K s (writeFltCfg v t) ↔ Keeps K s t
    := by
  simp [writeFltCfg, hregs]

@[simp] theorem freeRecord_keeps {flood : Bool} {i : ℕ} {v : Word32} (hregs : K.regs = false) : Keeps K s
    (freeRecord flood i v t) ↔ Keeps K s t := by
  simp [freeRecord, hregs]

@[simp] theorem writeGsel_keeps {v : Word32} (hregs : K.regs = false) : Keeps K s (writeGsel v t) ↔ Keeps K s t :=
    by
  simp [writeGsel, hregs]

@[simp] theorem writePointCfg_keeps {p : ℕ} {v : Word32} (hregs : K.regs = false) : Keeps K s (writePointCfg p v t)
    ↔ Keeps K s t := by
  simp [writePointCfg, hregs]

@[simp] theorem writeSlotReg_keeps {i g a : ℕ} {v : Word32} (hregs : K.regs = false) : Keeps K s (writeSlotReg i g a
    v t) ↔ Keeps K s t := by
  simp [writeSlotReg, hregs]

@[simp] theorem writeSlotCtl_keeps {i g : ℕ} {v : Word32} (hcores : K.cores = false) (hregs : K.regs = false) :
    Keeps K s (writeSlotCtl i g v t) ↔ Keeps K s t := by
  simp [writeSlotCtl, hcores, hregs]

@[simp] theorem writeNumCtl_keeps {i : ℕ} {v : Word32} (hregs : K.regs = false) : Keeps K s (writeNumCtl i v t) ↔
    Keeps K s t := by
  simp [writeNumCtl, hregs]

@[simp] theorem writeSrSeed_keeps {i : ℕ} {v : Word32} (hregs : K.regs = false) : Keeps K s (writeSrSeed i v t) ↔
    Keeps K s t := by
  simp [writeSrSeed, hregs]

@[simp] theorem writePreload_keeps {i a : ℕ} {v : Word32} (hregs : K.regs = false) : Keeps K s (writePreload i a v
    t) ↔ Keeps K s t := by
  simp [writePreload, hregs]

@[simp] theorem writeBondCfg_keeps {k : ℕ} {v : Word32} (hregs : K.regs = false) : Keeps K s (writeBondCfg k v t) ↔
    Keeps K s t := by
  simp [writeBondCfg, hregs]

theorem regEffects0_keeps : ∀ e ∈ regEffects0, ∀ ix v t, Keeps {} s t → Keeps {} s (e.2 ix v t) := by
  rw [← List.forall_iff_forall_mem, regEffects0]
  simp only [List.Forall]
  repeat' apply And.intro
  all_goals
    intro ix v t h
    simp [h]

theorem regEffects1_keeps : ∀ e ∈ regEffects1, ∀ ix v t, Keeps {} s t → Keeps {} s (e.2 ix v t) := by
  rw [← List.forall_iff_forall_mem, regEffects1]
  simp only [List.Forall]
  repeat' apply And.intro
  all_goals
    intro ix v t h
    simp [h]

/-- The effect of a write of any register that has one. -/
theorem regEffects_keeps : ∀ e ∈ regEffects, ∀ ix v t, Keeps {} s t → Keeps {} s (e.2 ix v t) := by
  intro e he
  exact (List.mem_append.1 he).elim (regEffects0_keeps e) (regEffects1_keeps e)

@[simp] theorem writePlain_keeps {r : RegRow} {a : ℕ} {v : Word32} (hregs : K.regs = false) : Keeps K s (writePlain
    r a v t) ↔ Keeps K s t := by
  simp [writePlain, hregs]

@[simp] theorem writeEffect_keeps {r : RegRow} {a : ℕ} {v : Word32} (h : Keeps {} s t) :
    Keeps {} s (writeEffect r a v t) := by
  unfold writeEffect
  extract_lets ix act was
  have hact : Keeps {} s (act t) := by
    simp only [act]
    split
    next f hf => exact regEffects_keeps f (List.mem_of_find?_eq_some hf) ix v t h
    next => exact (writePlain_keeps rfl).2 h
  split
  · exact hact
  · simp [hact]

@[simp] theorem writeWindow_keeps {o : ℕ} {bs : List (ℕ × Byte)} : Keeps K s (writeWindow o bs t) ↔ Keeps K s t :=
    by
  simp [writeWindow]

@[simp] theorem writePart_keeps {p : Path} {a be : ℕ} {v : Word32} (h : Keeps {} s t) : Keeps {} s (writePart p a be
    v t) := by
  unfold writePart
  repeat' split
  all_goals simp [h]

end

end Sys2Proof.Machine
end

section
/-! Images, resets and bring-up keep the queue and the form of memory. -/

namespace Sys2Proof.Machine

open Sys2Proof

section
variable {K : Kept} {s t u : State}

@[simp] theorem flashWrite_keeps {a : ℕ} {bs : List Byte} : Keeps K s (flashWrite a bs t) ↔ Keeps K s t := by
  simp [flashWrite]

@[simp] theorem flashErase_keeps {a n : ℕ} : Keeps K s (flashErase a n t) ↔ Keeps K s t := by
  simp [flashErase]

@[simp] theorem writeRecord_keeps : Keeps K s (writeRecord t) ↔ Keeps K s t := by
  simp [writeRecord]

@[simp] theorem takeImage_keeps {h' : ImageHome} (hregs : K.regs = false) : Keeps K s (takeImage h' t) ↔ Keeps K s t
    := by
  simp [takeImage, hregs]

@[simp] theorem updBoot_keeps {f : Boot → Boot} : Keeps K s (updBoot f t) ↔ Keeps K s t := by
  simp [updBoot]

@[simp] theorem clkLost_keeps {lost seen : Fld} {b : Bool} (hregs : K.regs = false) : Keeps K s (clkLost lost seen b
    t) ↔ Keeps K s t := by
  simp [clkLost, hregs]

@[simp] theorem clkShow_keeps (hregs : K.regs = false) : Keeps K s (clkShow t) ↔ Keeps K s t := by
  simp [clkShow, hregs]

@[simp] theorem setStage_keeps {x : ℕ} (hregs : K.regs = false) : Keeps K s (setStage x t) ↔ Keeps K s t := by
  simp [setStage, hregs]

@[simp] theorem failBoot_keeps {cause : ℕ} (hregs : K.regs = false) : Keeps K s (failBoot cause t) ↔ Keeps K s t :=
    by
  simp [failBoot, hregs]

@[simp] theorem svcEvt_keeps {f : Fld} (hregs : K.regs = false) : Keeps K s (svcEvt f t) ↔ Keeps K s t := by
  simp [svcEvt, hregs]

@[simp] theorem gradeInit_keeps (hregs : K.regs = false) (hpower : K.power = false) :
    Keeps K s (gradeInit t) ↔ Keeps K s t := by
  unfold gradeInit
  split
  · extract_lets s1
    have h1 : Keeps K s s1 ↔ Keeps K s t := by simp [s1, hregs]
    clear_value s1
    simp [hpower, h1]
  · rfl

@[simp] theorem bumpGen_keeps (hregs : K.regs = false) : Keeps K s (bumpGen t) ↔ Keeps K s t := by
  simp [bumpGen, hregs]

@[simp] theorem recordDue_keeps : Keeps K s (recordDue t) ↔ Keeps K s t := by
  simp [recordDue]

@[simp] theorem bumpUnits_keeps : Keeps K s (bumpUnits t) ↔ Keeps K s t := by
  simp [bumpUnits]

/-- Where nothing but the queue and the form of memory is kept, a new state with both keeps all. -/
theorem keeps_of_pending_mem (hp : u.pending = t.pending) (hm : memWf t.mem = true → memWf u.mem = true)
    (h : Keeps {} s t) : Keeps {} s u := by
  obtain ⟨hpending, hwf, -⟩ := h
  exact ⟨hp.trans hpending, fun e => hm (hwf e), nofun, nofun, nofun, nofun, nofun, nofun, nofun, nofun, nofun⟩

@[simp] theorem coldState_keeps (h : Keeps {} s t) : Keeps {} s (coldState t) :=
  (gradeInit_keeps rfl rfl).2 (keeps_of_pending_mem (t := t) rfl (fun _ => reset_memWf) h)

@[simp] theorem flushMerges_keeps (hstks : K.stks = false) (hmem : K.mem = false) (hregs : K.regs = false)
    (htick : K.tick = false) (h : Keeps K s t) : Keeps K s (flushMerges t) := by
  unfold flushMerges
  refine forEach_keeps (fun e t h => forEach_keeps (fun m t h => (setMergeBuf_keeps hstks).2 ?_) h) h
  exact forEach_keeps (fun x t h => writeEntry_keeps hstks hmem hregs htick h) h

@[simp] theorem zeroDarkSlabs_keeps (hmem : K.mem = false) (h : Keeps K s t) : Keeps K s (zeroDarkSlabs t) := by
  unfold zeroDarkSlabs
  refine forEach_keeps (fun _ t h => ?_) h
  simp [hmem, h]

@[simp] theorem zeroScratch_keeps (hmem : K.mem = false) (h : Keeps K s t) : Keeps K s (zeroScratch t) := by
  simp [zeroScratch, hmem, h]

@[simp] theorem dropInbox_keeps : Keeps K s (dropInbox t) ↔ Keeps K s t := by
  simp [dropInbox]

@[simp] theorem gateLost_keeps (hregs : K.regs = false) (hpower : K.power = false) :
    Keeps K s (gateLost t) ↔ Keeps K s t := by
  unfold gateLost
  refine forEach_keeps_iff fun e t => ?_
  rw [forEach_keeps_iff fun i t => by simp [hregs, hpower]]
  simp [hregs]

/-- What a reset does before it clears the registers. -/
theorem settled_keeps (h : Keeps {} s t) : Keeps {} s (dropInbox (zeroScratch (zeroDarkSlabs (flushMerges t)))) := by
  have := zeroDarkSlabs_keeps rfl (flushMerges_keeps rfl rfl rfl rfl h)
  simp [this]

@[simp] theorem warmState_keeps (h : Keeps {} s t) : Keeps {} s (warmState t) := by
  unfold warmState
  refine (gateLost_keeps rfl rfl).2 ((gradeInit_keeps rfl rfl).2 (bumpUnits_keeps.2 (recordDue_keeps.2 ?_)))
  refine (bumpGen_keeps rfl).2 ((State.setFld_keeps rfl).2 ?_)
  exact keeps_of_pending_mem (t := dropInbox (zeroScratch (zeroDarkSlabs (flushMerges t)))) rfl id (settled_keeps h)

@[simp] theorem computeState_keeps (h : Keeps {} s t) : Keeps {} s (computeState t) := by
  unfold computeState
  refine (gateLost_keeps rfl rfl).2 (bumpUnits_keeps.2 (recordDue_keeps.2 ((bumpGen_keeps rfl).2 ?_)))
  refine (State.setFld_keeps rfl).2 (releaseGuarantees_keeps.2 ?_)
  exact keeps_of_pending_mem (t := dropInbox (zeroScratch (zeroDarkSlabs (flushMerges t)))) rfl id (settled_keeps h)

@[simp] theorem excluded_keeps {kind i : ℕ} (hregs : K.regs = false) : Keeps K s (excluded kind i t) ↔ Keeps K s t
    := by
  simp [excluded, hregs]

@[simp] theorem excludeCore_keeps {i : ℕ} (hregs : K.regs = false) : Keeps K s (excludeCore i t) ↔ Keeps K s t := by
  simp [excludeCore, hregs]

@[simp] theorem excludeStack_keeps {k : ℕ} (hregs : K.regs = false) : Keeps K s (excludeStack k t) ↔ Keeps K s t :=
    by
  simp [excludeStack, hregs]

@[simp] theorem excludeHbm_keeps {m : ℕ} (hregs : K.regs = false) : Keeps K s (excludeHbm m t) ↔ Keeps K s t := by
  simp [excludeHbm, hregs]

@[simp] theorem excludePort_keeps {p : ℕ} (hregs : K.regs = false) : Keeps K s (excludePort p t) ↔ Keeps K s t := by
  simp [excludePort, hregs]

@[simp] theorem substitute_keeps {k : ℕ} (hstks : K.stks = false) : Keeps K s (substitute k t).2 ↔ Keeps K s t := by
  simp [substitute, hstks]

@[simp] theorem fenceDoubled_keeps {k : ℕ} (hstks : K.stks = false) (hmem : K.mem = false) (hregs : K.regs = false)
    (htick : K.tick = false) (h : Keeps K s t) : Keeps K s (fenceDoubled k t) := by
  unfold fenceDoubled
  refine forEach_keeps (fun _ t h => ?_) h
  simp [hstks, hmem, hregs, htick, h]

@[simp] theorem sweepPort_keeps {k c p : ℕ} (hstks : K.stks = false) (hmem : K.mem = false) (hregs : K.regs = false)
    (htick : K.tick = false) (h : Keeps K s t) : Keeps K s (sweepPort k c p t) := by
  have hjudge {w d dev v} : Keeps K s v → Keeps K s (judgeWord 0 { scrub := true } w d dev v).2.2 :=
    judgeWord_keeps hstks hmem hregs htick
  unfold sweepPort
  generalize judgeWord 0 { scrub := true } = judge at hjudge ⊢
  split
  · exact h
  · refine forEach_keeps (fun w t h => ?_) h
    split
    next e =>
    have := keeps_of_eq e (hjudge h)
    split <;> simp [hmem, this]

@[simp] theorem repair_keeps (hstks : K.stks = false) (hmem : K.mem = false) (hregs : K.regs = false)
    (htick : K.tick = false) (h : Keeps K s t) : Keeps K s (repair t) := by
  unfold repair
  refine forEach_keeps (fun k t h => ?_) h
  refine forEach_keeps (fun r t h => sweepPort_keeps hstks hmem hregs htick h) ?_
  simp [hstks, hmem, hregs, htick, h]

@[simp] theorem loadDead_keeps {k c g lane st : ℕ} (hstks : K.stks = false) : Keeps K s (loadDead k c g lane st t) ↔
    Keeps K s t := by
  simp [loadDead, hstks]

@[simp] theorem loadRecord_keeps {r : Record} (hstks : K.stks = false) (hregs : K.regs = false)
    (hpower : K.power = false) : Keeps K s (loadRecord r t) ↔ Keeps K s t := by
  unfold loadRecord
  rw [gateLost_keeps hregs hpower, forEach_keeps_iff fun x t => updBonds_keeps hstks]
  refine forEach_keeps_iff fun e t => ?_
  repeat' split
  all_goals simp [hstks]

@[simp] theorem loadRetire_keeps (hstks : K.stks = false) (hmem : K.mem = false) (hregs : K.regs = false) (htick :
    K.tick = false) (h : Keeps K s t) : Keeps K s (loadRetire t) := by
  unfold loadRetire
  refine forEach_keeps (fun _ t h => ?_) h
  simp only
  repeat' split
  all_goals simp [hstks, hmem, hregs, htick, h]

@[simp] theorem unitsPending_keeps : Keeps K s (unitsPending t) ↔ Keeps K s t := by
  simp [unitsPending]

@[simp] theorem openKat_keeps : Keeps K s (openKat t).2 ↔ Keeps K s t := by
  simp [openKat]

@[simp] theorem knownAnswers_keeps (hregs : K.regs = false) (hthermal : K.thermal = false) : Keeps K s (knownAnswers
    t) ↔ Keeps K s t := by
  unfold knownAnswers
  simp only
  split <;> simp [hregs, hthermal]

@[simp] theorem lockAndLink_keeps (h : Keeps {} s t) : Keeps {} s (lockAndLink t) := by
  unfold lockAndLink
  extract_lets u
  have hu : Keeps {} s u := by
    simp only [u]
    split <;> simp [h]
  split
  · exact hu
  · refine (forEach_keeps_iff fun e t => by simp).2 (writePart_keeps (writePart_keeps ?_))
    refine forEach_keeps (fun p t h => ?_) hu
    simp only
    split <;> simp [h]

@[simp] theorem warmFinish_keeps (hstks : K.stks = false) (hmem : K.mem = false) (hregs : K.regs = false)
    (htick : K.tick = false) (hthermal : K.thermal = false) (h : Keeps K s t) : Keeps K s (warmFinish t) := by
  unfold warmFinish
  extract_lets u v
  have hv : Keeps K s v := by simp [v, u, hregs, h]
  have := loadRetire_keeps hstks hmem hregs htick (repair_keeps hstks hmem hregs htick hv)
  simp [hregs, hthermal, this]

@[simp] theorem afterConfig_keeps (h : Keeps {} s t) : Keeps {} s (afterConfig t) := by
  simp [afterConfig, h]

@[simp] theorem applyRecord_keeps {a v m : ℕ} (h : Keeps {} s t) : Keeps {} s (applyRecord a v m t) := by
  unfold applyRecord
  simp only
  split <;> simp [h]

@[simp] theorem runConfig_keeps {go : Bool} {rs : List (ℕ × ℕ × ℕ × Bool)} (h : Keeps {} s t) :
    Keeps {} s (runConfig go rs t) := by
  induction rs generalizing go t with
  | nil => simp [runConfig, h]
  | cons r rs ih =>
    unfold runConfig
    split
    · simp [h]
    split
    · simp [h]
    · exact ih (applyRecord_keeps h)

@[simp] theorem configStep_keeps {go : Bool} (h : Keeps {} s t) : Keeps {} s (configStep go t) := by
  have := runConfig_keeps (go := go) (rs := t.boot.config) h
  unfold configStep
  simp only
  split <;> simp [this]

@[simp] theorem trySlot_keeps {size : ℕ} {h' : ImageHome} (hregs : K.regs = false) : Keeps K s (trySlot size h' t).2
    ↔ Keeps K s t := by
  simp [trySlot, hregs]

@[simp] theorem noImage_keeps (h : Keeps {} s t) : Keeps {} s (noImage t) := by
  unfold noImage
  extract_lets u v
  have hu : Keeps {} s u := forEach_keeps (fun p t h => writePart_keeps h) h
  have hv : Keeps {} s v := keeps_of_pending_mem (t := u) rfl (fun _ => rfl) hu
  simp [hv]

@[simp] theorem runImage_keeps {h' : ImageHome} (h : Keeps {} s t) : Keeps {} s (runImage h' t) := by
  simp [runImage, h]

@[simp] theorem bootRom_keeps (h : Keeps {} s t) : Keeps {} s (bootRom t) := by
  have htry {n x v} : Keeps {} s v → Keeps {} s (trySlot n x v).2 := (trySlot_keeps rfl).2
  unfold bootRom
  generalize trySlot = slot at htry ⊢
  extract_lets u d a b
  have hu : Keeps {} s u := (setStage_keeps rfl).2 h
  split
  split
  next e => exact runImage_keeps (keeps_of_eq_snd e (htry hu))
  next e =>
    have hv := keeps_of_eq_snd e (htry hu)
    split
    next e => exact runImage_keeps (keeps_of_eq_snd e (htry hv))
    next e => exact noImage_keeps (keeps_of_eq_snd e (htry hv))

theorem execColdReset_keeps {cause : ColdCause} (h : Keeps {} s t) : NextKeeps {} s (execColdReset cause t) := by
  simp [execColdReset, h]

theorem execColdBringupStart_keeps (h : Keeps {} s t) : NextKeeps {} s (execColdBringupStart t) := by
  simp [execColdBringupStart, h]

theorem execHbmTrainDone_keeps {m : HbmId} {rate : Fin 3} (hregs : K.regs = false) (h : Keeps K s t) : NextKeeps K s
    (execHbmTrainDone m rate t) := by
  simp [execHbmTrainDone, hregs, h]

theorem execBistDone_keeps {bist : Bist} {kat : Kat} (hstks : K.stks = false) (hmem : K.mem = false)
    (hregs : K.regs = false) (htick : K.tick = false) (hpower : K.power = false) (hthermal : K.thermal = false)
    (h : Keeps K s t) : NextKeeps K s (execBistDone bist kat t) := by
  unfold execBistDone
  refine (ifUp_keeps h).2 fun _ => ?_
  extract_lets u cores v w x y z new r
  have hw : Keeps K s w := by
    refine (forEach_keeps_iff fun i t => excludeCore_keeps hregs).2 ((updBoot_keeps).2 ?_)
    exact (forEach_keeps_iff fun e t => logErr_keeps hregs).2 h
  have hy : Keeps K s y := by
    simp only [y, x]
    split <;> simp [hstks, hregs, hpower, hw]
  have hr : Keeps K s r := by
    refine (forEach_keeps_iff fun e t => ?_).2 (updBoot_keeps.2 hy)
    split <;> simp [hstks, hregs]
  have := loadRetire_keeps hstks hmem hregs htick (repair_keeps hstks hmem hregs htick hr)
  split
  · exact nextKeeps_next.2 h
  split <;> simp [hregs, hthermal, hw, this]

@[simp] theorem warmReset_keeps {kat : Option KatResult} (h : Keeps {} s t) : Keeps {} s (warmReset kat t) := by
  simp [warmReset, h]

theorem execWarmReset_keeps {byLand : Bool} {path : Path} {kat : Kat} (h : Keeps {} s t) : NextKeeps {} s
    (execWarmReset byLand path kat t) := by
  simp [execWarmReset, h]

theorem execWarmRstNRelease_keeps {kat : Kat} (h : Keeps {} s t) : NextKeeps {} s (execWarmRstNRelease kat t) := by
  simp [execWarmRstNRelease, h]

@[simp] theorem computeReset_keeps {kat : Option KatResult} (h : Keeps {} s t) : Keeps {} s (computeReset kat t) := by
  unfold computeReset
  split
  · exact h
  · refine configStep_keeps ((setStage_keeps rfl).2 ?_)
    have := computeState_keeps ((memberLost_keeps (ds := [t.pkgId]) rfl rfl).2 h)
    simp [this]

theorem execComputeReset_keeps {path : Path} {kat : Kat} (h : Keeps {} s t) : NextKeeps {} s (execComputeReset path
    kat t) := by
  simp [execComputeReset, h]

theorem execPackageReady_keeps (hregs : K.regs = false) (h : Keeps K s t) : NextKeeps K s (execPackageReady t) := by
  simp [execPackageReady, hregs, h]

end

end Sys2Proof.Machine
end

section
/-! Control instructions, exchanges, the job procedure, accesses, the host and the lands keep the queue and the form of
memory. -/

namespace Sys2Proof.Machine

open Sys2Proof

section
variable {K : Kept} {s t u : State}

theorem issueC_keeps {g : Gid} {w : Word64} {ok : State → Bool} {go : State → State} {fs : List (BitVec 7)}
    (hcores : K.cores = false) (hstks : K.stks = false) (hregs : K.regs = false) (htick : K.tick = false)
    (hgo : ∀ v, Keeps K s v → Keeps K s (go v)) (h : Keeps K s t) : NextKeeps K s (issueC g w ok go t fs) := by
  refine withTraps_keeps hcores hregs (fun v hv => ?_) h
  obtain ⟨herr, hok⟩ := enter_keeps (g := g) (w := w) hcores hstks hregs htick hv
  split
  next hu => simpa using herr _ hu
  next u hu =>
    have hu := hok u hu
    split
    · simp [hcores, hregs, htick, hu]
    · split
      · simpa using hu
      · have hread (ks) : Keeps K s (readInner (gi g) ks u).2 := (readInner_keeps hcores hregs).2 hu
        split
        next hr =>
          have := hr ▸ hread _
          simp [hcores, hregs, htick, this]
        next hr =>
          have := hr ▸ hread _
          simp [hgo, this]

theorem execBr_keeps {g : Gid} {f : ImmForm} (hcores : K.cores = false) (hstks : K.stks = false)
    (hregs : K.regs = false) (htick : K.tick = false) (h : Keeps K s t) :
    NextKeeps K s (execBr g f t) :=
  issueC_keeps hcores hstks hregs htick (fun v hv => by simp [hcores, hregs, hv]) h

theorem execJr_keeps {g : Gid} {f : RegForm} (hcores : K.cores = false) (hstks : K.stks = false)
    (hregs : K.regs = false) (htick : K.tick = false) (h : Keeps K s t) :
    NextKeeps K s (execJr g f t) :=
  issueC_keeps hcores hstks hregs htick (fun v hv => by simp [hcores, hregs, hv]) h

@[simp] theorem waitFor_keeps {g : Gid} {w : SlotWait} (hcores : K.cores = false) (hregs : K.regs = false) : Keeps K
    s (waitFor g w t) ↔ Keeps K s t := by
  simp [waitFor, hcores, hregs]

theorem execFence_keeps {g : Gid} {f : RegForm} (hcores : K.cores = false) (hstks : K.stks = false)
    (hregs : K.regs = false) (htick : K.tick = false) (h : Keeps K s t) :
    NextKeeps K s (execFence g f t) :=
  issueC_keeps hcores hstks hregs htick (fun v hv => by
    simp only
    split <;> simp [hcores, hregs, hv]) h

theorem execTfence_keeps {g : Gid} {f : RegForm} (hcores : K.cores = false) (hstks : K.stks = false)
    (hregs : K.regs = false) (htick : K.tick = false) (h : Keeps K s t) :
    NextKeeps K s (execTfence g f t) :=
  issueC_keeps hcores hstks hregs htick (fun v hv => by simp [hcores, hregs, hv]) h

theorem execEndt_keeps {g : Gid} {f : RegForm} (hcores : K.cores = false) (hstks : K.stks = false)
    (hregs : K.regs = false) (htick : K.tick = false) (h : Keeps K s t) :
    NextKeeps K s (execEndt g f t) :=
  issueC_keeps hcores hstks hregs htick (fun v hv => by simp [hcores, hregs, hv]) h

theorem execExit_keeps {g : Gid} {f : RegForm} (hcores : K.cores = false) (hstks : K.stks = false)
    (hregs : K.regs = false) (htick : K.tick = false) (h : Keeps K s t) :
    NextKeeps K s (execExit g f t) :=
  issueC_keeps hcores hstks hregs htick (fun v hv => by simp [hcores, hregs, hv]) h

@[simp] theorem l1WriteBack_keeps {inv : Bool} {i : ℕ} (h : Keeps {} s t) : Keeps {} s (l1WriteBack inv i t) := by
  unfold l1WriteBack
  extract_lets u v
  have hu : Keeps {} s u := foldl_keeps id (fun _ _ h => l1WbAck_keeps h) h
  have hv : Keeps {} s v := by
    refine forEach_keeps (fun e t h => ?_) hu
    split
    · split
      · exact h
      · simp [h]
    · exact h
  split <;> simp [hv]

theorem execFenceComplete_keeps {g : Gid} (h : Keeps {} s t) : NextKeeps {} s (execFenceComplete g t) := by
  unfold execFenceComplete
  simp only
  split <;> simp [h]

theorem execTfenceComplete_keeps {g : Gid} (hcores : K.cores = false) (h : Keeps K s t) : NextKeeps K s
    (execTfenceComplete g t) := by
  unfold execTfenceComplete
  simp only
  split <;> simp [hcores, h]

theorem execEndtComplete_keeps {g : Gid} (hcores : K.cores = false) (h : Keeps K s t) : NextKeeps K s
    (execEndtComplete g t) := by
  simp [execEndtComplete, hcores, h]

theorem execExitComplete_keeps {g : Gid} (hcores : K.cores = false) (h : Keeps K s t) : NextKeeps K s
    (execExitComplete g t) := by
  simp [execExitComplete, hcores, h]

theorem execUndefinedOpcode_keeps {g : Gid} {word : Word64} (hcores : K.cores = false) (hstks : K.stks = false)
    (hregs : K.regs = false) (htick : K.tick = false) (h : Keeps K s t) :
    NextKeeps K s (execUndefinedOpcode g word t) := by
  refine (ifUp_keeps h).2 fun _ => withTraps_keeps hcores hregs (fun v hv => ?_) h
  obtain ⟨herr, hok⟩ := enter_keeps (g := g) (w := word) hcores hstks hregs htick hv
  split
  next hu => simpa using herr _ hu
  next u hu =>
    have hu := hok u hu
    split <;> simp [hcores, hregs, htick, hu]

theorem reduceX_keeps {op : ℕ} {types : List ℕ} {g : Gid} {f : RegForm} {res : (ℕ → Word32) → Word64 → Word64}
    (hcores : K.cores = false) (hstks : K.stks = false)
    (hregs : K.regs = false) (htick : K.tick = false) (h : Keeps K s t) :
    NextKeeps K s (reduceX op types g f res t) :=
  issue_keeps hcores hstks hregs htick (fun rd v hv => by simp [hcores, hv]) h

theorem exchangeX_keeps {op : ℕ} {b : BitVec 7 → Bool} {g : Gid} {f : RegForm} {src : ℕ → ℕ → ℕ}
    (hcores : K.cores = false) (hstks : K.stks = false)
    (hregs : K.regs = false) (htick : K.tick = false) (h : Keeps K s t) :
    NextKeeps K s (exchangeX op b g f src t) :=
  issue_keeps hcores hstks hregs htick (fun rd v hv => by simp [hcores, hv]) h

theorem execQtos_keeps {g : Gid} {f : RegForm} (hcores : K.cores = false) (hstks : K.stks = false)
    (hregs : K.regs = false) (htick : K.tick = false) (h : Keeps K s t) :
    NextKeeps K s (execQtos g f t) :=
  issue_keeps hcores hstks hregs htick (fun rd v hv => by simp [hcores, hv]) h

@[simp] theorem svcWrite_keeps {a v : ℕ} (h : Keeps {} s t) : Keeps {} s (svcWrite a v t) := by
  simp [svcWrite, h]

@[simp] theorem mgmtReply_keeps {m : Msg} {v : ℕ} : Keeps K s (mgmtReply m v t) ↔ Keeps K s t := by
  simp [mgmtReply]

@[simp] theorem jobMailbox_keeps {ok : Bool} (hregs : K.regs = false) : Keeps K s (jobMailbox ok t) ↔ Keeps K s t :=
    by
  unfold jobMailbox
  simp only
  repeat' split
  all_goals simp [hregs]

@[simp] theorem jobFail_keeps {n : ℕ} (hregs : K.regs = false) : Keeps K s (jobFail n t) ↔ Keeps K s t := by
  simp [jobFail, hregs]

theorem jobStep_keeps {n : ℕ} {bad : Bool} {f : State → State} (hregs : K.regs = false) (hf : Keeps K s (f t))
    (h : Keeps K s t) : Keeps K s (jobStep n bad f t) := by
  unfold jobStep
  split <;> simp [hregs, hf, h]

@[simp] theorem jobStart_keeps (h : Keeps {} s t) : Keeps {} s (jobStart t) := by
  unfold jobStart
  extract_lets u
  have hu : Keeps {} s u := (State.setFlag_keeps rfl).2 h
  split
  · simp [hu]
  · refine updBoot_keeps.2 (forEach_keeps (fun b t h => ?_) (forEach_keeps (fun b t h => svcWrite_keeps h) ?_))
    · refine forEach_keeps (fun q t h => ?_) (svcWrite_keeps h)
      exact svcWrite_keeps (svcWrite_keeps (svcWrite_keeps (svcWrite_keeps h)))
    · simp [hu]

@[simp] theorem jobPut_keeps {dst : ℕ} {bs : List Byte} (h : Keeps {} s t) : Keeps {} s (jobPut dst bs t) := by
  unfold jobPut
  split
  · exact forEach_keeps (fun w t h => writePart_keeps h) h
  · simp [h]

@[simp] theorem jobLoad_keeps {b : List Byte} (h : Keeps {} s t) : Keeps {} s (jobLoad b t).2 := by
  unfold jobLoad
  extract_lets f
  split
  · extract_lets u
    split
    · exact h
    · split
      · simp [h]
      · have hu : Keeps {} s u := jobPut_keeps h
        show Keeps {} s (if _ then _ else _)
        split
        · exact forEach_keeps (fun k t h => l2FlushRange_keeps rfl rfl rfl rfl h) hu
        · exact hu
  · exact h

theorem jobEach_keeps {f : List Byte → State → Bool × State} {bs : List (List Byte)}
    (hf : ∀ b v, Keeps K s v → Keeps K s (f b v).2) (h : Keeps K s t) : Keeps K s (jobEach f bs t).2 := by
  induction bs generalizing t with
  | nil => exact h
  | cons b bs ih =>
    unfold jobEach
    split
    next e => exact ih (keeps_of_eq_snd e (hf b t h))
    next e => exact keeps_of_eq_snd e (hf b t h)

@[simp] theorem jobCore_keeps {b : List Byte} (h : Keeps {} s t) : Keeps {} s (jobCore b t) := by
  simp [jobCore, h]

@[simp] theorem jobPreload_keeps {b : List Byte} (h : Keeps {} s t) : Keeps {} s (jobPreload b t).2 := by
  unfold jobPreload
  extract_lets f i k c u v pin w x y stat
  have hw : Keeps {} s w := svcWrite_keeps (svcWrite_keeps (svcWrite_keeps h))
  have hx : Keeps {} s x := forEach_keeps (fun l t h => preloadLine_keeps h) hw
  have hy : Keeps {} s y := (updIc_keeps rfl).2 hx
  split
  · exact h
  · exact hy

@[simp] theorem jobGuarantee_keeps {b : List Byte} (h : Keeps {} s t) : Keeps {} s (jobGuarantee b t).2 := by
  simp [jobGuarantee, h]

@[simp] theorem jobSlot_keeps {b : List Byte} (h : Keeps {} s t) : Keeps {} s (jobSlot b t) :=
  svcWrite_keeps (svcWrite_keeps (svcWrite_keeps h))

@[simp] theorem jobRoles_keeps {b : List Byte} : Keeps K s (jobRoles b t) ↔ Keeps K s t := by
  simp [jobRoles]

@[simp] theorem jobFinish_keeps {g : List Byte} (h : Keeps {} s t) : Keeps {} s (jobFinish g t) := by
  simp [jobFinish, h]

@[simp] theorem jobRun_keeps {g : List Byte} (h : Keeps {} s t) : Keeps {} s (jobRun g t) := by
  have heach {f bs v} (hf : ∀ b v, Keeps {} s v → Keeps {} s (f b v).2) :
      Keeps {} s v → Keeps {} s (jobEach f bs v).2 :=
    jobEach_keeps hf
  have hload := fun b v => jobLoad_keeps (s := s) (t := v) (b := b)
  have hpreload := fun b v => jobPreload_keeps (s := s) (t := v) (b := b)
  have hguar := fun b v => jobGuarantee_keeps (s := s) (t := v) (b := b)
  unfold jobRun
  generalize jobLoad = load, jobPreload = preload, jobGuarantee = guar, @jobEach = each at heach hload hpreload hguar ⊢
  split
  next _ v e =>
  have h1 := keeps_of_eq_snd e (heach hload h)
  refine jobStep_keeps rfl ?_ h1
  extract_lets w
  have h2 : Keeps {} s w := forEach_keeps (fun b v h => jobCore_keeps h) h1
  split
  next e =>
  have h3 := keeps_of_eq_snd e (heach hpreload h2)
  refine jobStep_keeps rfl ?_ h3
  split
  next e =>
  have h4 := keeps_of_eq_snd e (heach hguar h3)
  refine jobStep_keeps rfl (jobFinish_keeps (svcWrite_keeps (svcWrite_keeps (svcWrite_keeps ?_)))) h4
  exact (forEach_keeps_iff fun b v => jobRoles_keeps).2 (forEach_keeps (fun b v h => jobSlot_keeps h) h4)

@[simp] theorem jobBoundary_keeps (h : Keeps {} s t) : Keeps {} s (jobBoundary t) := by
  unfold jobBoundary
  split <;> simp [h]

theorem execAutoJobStart_keeps (h : Keeps {} s t) : NextKeeps {} s (execAutoJobStart t) := by
  simp [execAutoJobStart, h]

@[simp] theorem mbEnd_keeps {ok : Bool} {result : Option ℕ} (hregs : K.regs = false) : Keeps K s (mbEnd ok result t)
    ↔ Keeps K s t := by
  unfold mbEnd
  split <;> split <;> simp [hregs]

@[simp] theorem setWindow_keeps {bs : List Byte} : Keeps K s (setWindow bs t) ↔ Keeps K s t := by
  simp [setWindow]

@[simp] theorem mbImgBegin_keeps (hregs : K.regs = false) : Keeps K s (mbImgBegin t) ↔ Keeps K s t := by
  simp [mbImgBegin, hregs]

@[simp] theorem mbImgData_keeps (hregs : K.regs = false) : Keeps K s (mbImgData t) ↔ Keeps K s t := by
  unfold mbImgData
  split <;> simp [hregs]

@[simp] theorem mbImgEnd_keeps (hregs : K.regs = false) : Keeps K s (mbImgEnd t) ↔ Keeps K s t := by
  unfold mbImgEnd
  split <;> simp [hregs]

@[simp] theorem mbImgBoot_keeps (h : Keeps {} s t) : Keeps {} s (mbImgBoot t) := by
  simp [mbImgBoot, h]

@[simp] theorem mbNbrRead_keeps (hregs : K.regs = false) : Keeps K s (mbNbrRead t) ↔ Keeps K s t := by
  simp [mbNbrRead, hregs]

@[simp] theorem mbRetireDelete_keeps (hregs : K.regs = false) : Keeps K s (mbRetireDelete t) ↔ Keeps K s t := by
  simp [mbRetireDelete, hregs]

@[simp] theorem mbRecordRead_keeps (hregs : K.regs = false) : Keeps K s (mbRecordRead t) ↔ Keeps K s t := by
  simp [mbRecordRead, hregs]

@[simp] theorem mbSvnRaise_keeps (hregs : K.regs = false) : Keeps K s (mbSvnRaise t) ↔ Keeps K s t := by
  simp [mbSvnRaise, hregs]

@[simp] theorem mbJobStart_keeps (h : Keeps {} s t) : Keeps {} s (mbJobStart t) := by
  simp [mbJobStart, h]

@[simp] theorem mbHostTake_keeps (hregs : K.regs = false) : Keeps K s (mbHostTake t) ↔ Keeps K s t := by
  simp [mbHostTake, hregs]

@[simp] theorem mbComputeReset_keeps (h : Keeps {} s t) : Keeps {} s (mbComputeReset t) := by
  simp [mbComputeReset, h]

@[simp] theorem mailbox_keeps {cmd : ℕ} (h : Keeps {} s t) : Keeps {} s (mailbox cmd t) := by
  unfold mailbox
  repeat' split
  all_goals simp [h]

@[simp] theorem writeReg_keeps {p : Path} {a be : ℕ} {v : Word32} (h : Keeps {} s t) : Keeps {} s (writeReg p a be v
    t) := by
  simp [writeReg, h]

@[simp] theorem writeAccess_keeps {p : Path} {a : ℕ} {data : List Byte} (h : Keeps {} s t) :
    Keeps {} s (writeAccess p a data t).2 := by
  unfold writeAccess
  split
  · exact h
  split
  · simp [h]
  · exact forEach_keeps (fun w t h => writeReg_keeps h) h

@[simp] theorem pathWrite_keeps {p : Path} {a : ℕ} {v : Word32} (h : Keeps {} s t) : Keeps {} s (pathWrite p a v t)
    := by
  simp [pathWrite, h]

@[simp] theorem answer_keeps {a : Answer} : Keeps K s (answer a t) ↔ Keeps K s t := by
  simp [answer]

theorem hostWindow_keeps {off : Word32} {n : ℕ} {f : ℕ → State → State} (hregs : K.regs = false)
    (hf : ∀ a, Keeps K s (f a t)) (h : Keeps K s t) : NextKeeps K s (hostWindow off n f t) := by
  unfold hostWindow
  repeat' split
  all_goals simp [hregs, hf, h]

theorem execHostWindowWrite_keeps {off : Word32} {data : List Byte} (hstks : K.stks = false) (hmem : K.mem = false)
    (hregs : K.regs = false) (htick : K.tick = false) (h : Keeps K s t) :
    NextKeeps K s (execHostWindowWrite off data t) :=
  (ifUp_keeps h).2 fun _ => hostWindow_keeps hregs (fun a => by simp [hstks, hmem, hregs, htick, h]) h

theorem execHostWindowRead_keeps {off : Word32} {len : ℕ} {u' : Upsets} (h : Keeps {} s t) :
    NextKeeps {} s (execHostWindowRead off len u' t) := by
  have hload {a v} : Keeps {} s v → Keeps {} s (directLoad 0x488 a len none v).2.2 := directLoad_keeps rfl rfl rfl rfl
  unfold execHostWindowRead
  generalize directLoad = load at hload ⊢
  refine (ifUp_keeps h).2 fun _ => hostWindow_keeps rfl (fun a => ?_) h
  split
  next e =>
  have := keeps_of_eq e (hload (upset_keeps rfl rfl rfl h))
  simp [this]

theorem execPcieCompletionTimeout_keeps {off : Word32} (hregs : K.regs = false) (hclock : K.clock = false)
    (h : Keeps K s t) : NextKeeps K s (execPcieCompletionTimeout off t) :=
  (ifUp_keeps h).2 fun _ => hostWindow_keeps hregs (fun a => by simp [hregs, hclock, h]) h

@[simp] theorem endpointReset_keeps (hregs : K.regs = false) : Keeps K s (endpointReset t) ↔ Keeps K s t := by
  simp [endpointReset, hregs]

theorem execPcieFunctionReset_keeps {_cause : Fin 3} (hregs : K.regs = false) (h : Keeps K s t) : NextKeeps K s
    (execPcieFunctionReset _cause t) := by
  simp [execPcieFunctionReset, hregs, h]

theorem execMsixUnmask_keeps {v : Fin 32} (h : Keeps K s t) : NextKeeps K s (execMsixUnmask v t) := by
  simp [execMsixUnmask, h]

@[simp] theorem smbRefuse_keeps {f : Fld} (hregs : K.regs = false) : Keeps K s (smbRefuse f t) ↔ Keeps K s t := by
  simp [smbRefuse, hregs]

theorem smbServe_keeps {x : SmbXfer} {count written : ℕ} {f : State → State} (hregs : K.regs = false)
    (hf : Keeps K s (f t)) (h : Keeps K s t) : NextKeeps K s (smbServe x count written f t) := by
  unfold smbServe
  repeat' split
  all_goals simp [hregs, hf, h]

@[simp] theorem setSmbOff_keeps {code v : ℕ} : Keeps K s (setSmbOff code v t) ↔ Keeps K s t := by
  simp [setSmbOff]

theorem execSmbSetOffset_keeps {x : SmbXfer} (hregs : K.regs = false) (h : Keeps K s t) :
    NextKeeps K s (execSmbSetOffset x t) :=
  (ifUp_keeps h).2 fun _ => smbServe_keeps hregs (by simp [h]) h

@[simp] theorem smbFetch_keeps {code n : ℕ} (hstks : K.stks = false) (hregs : K.regs = false) :
    Keeps K s (smbFetch code n t) ↔ Keeps K s t := by
  have hread {a} : Keeps K s (readAccess .smb hostClaimer a n t).2 ↔ Keeps K s t := readAccess_keeps hstks hregs
  unfold smbFetch
  extract_lets a
  rw [← hread (a := a)]
  split
  next e => rw [e]; simp
  next e => rw [e]; simp

theorem execSmbRead_keeps {x : SmbXfer} (hstks : K.stks = false) (hregs : K.regs = false) (h : Keeps K s t) :
    NextKeeps K s (execSmbRead x t) :=
  (ifUp_keeps h).2 fun _ => smbServe_keeps hregs ((smbFetch_keeps hstks hregs).2 h) h

theorem execSmbWrite_keeps {x : SmbXfer} (h : Keeps {} s t) : NextKeeps {} s (execSmbWrite x t) :=
  (ifUp_keeps h).2 fun _ => smbServe_keeps rfl (by simp [h]) h

theorem execSmbRead64_keeps {x : SmbXfer} (hstks : K.stks = false) (hregs : K.regs = false) (h : Keeps K s t) :
    NextKeeps K s (execSmbRead64 x t) :=
  (ifUp_keeps h).2 fun _ => smbServe_keeps hregs ((smbFetch_keeps hstks hregs).2 h) h

theorem execSmbStatus_keeps {x : SmbXfer} (hregs : K.regs = false) (h : Keeps K s t) :
    NextKeeps K s (execSmbStatus x t) :=
  (ifUp_keeps h).2 fun _ => smbServe_keeps hregs (by simp [h]) h

theorem execI3cEntry_keeps (h : Keeps K s t) : NextKeeps K s (execI3cEntry t) := by
  simp [execI3cEntry, h]

theorem execI3cDaa_keeps {setdasa : Bool} {static dyn : BitVec 7} (h : Keeps K s t) : NextKeeps K s (execI3cDaa
    setdasa static dyn t) := by
  simp [execI3cDaa, h]

theorem execI3cTargetReset_keeps (h : Keeps K s t) : NextKeeps K s (execI3cTargetReset t) := by
  simp [execI3cTargetReset, h]

theorem execSmbusTimeout_keeps (hclock : K.clock = false) (h : Keeps K s t) : NextKeeps K s (execSmbusTimeout t) :=
    by
  simp [execSmbusTimeout, hclock, h]

@[simp] theorem mspiDiscard_keeps (hregs : K.regs = false) : Keeps K s (mspiDiscard t) ↔ Keeps K s t := by
  simp [mspiDiscard, hregs]

@[simp] theorem mspiUnknown_keeps (hregs : K.regs = false) : Keeps K s (mspiUnknown t) ↔ Keeps K s t := by
  simp [mspiUnknown, hregs]

theorem mspiServe_keeps {hd : MspiHead} {op hb db : ℕ} {f : State → State} (hregs : K.regs = false)
    (hf : Keeps K s (f t)) (h : Keeps K s t) : NextKeeps K s (mspiServe hd op hb db f t) := by
  unfold mspiServe
  repeat' split
  all_goals simp [hregs, hf, h]

@[simp] theorem mspiRange_keeps {hd : MspiHead} (hregs : K.regs = false) : Keeps K s (mspiRange hd t) ↔ Keeps K s t
    := by
  simp [mspiRange, hregs]

theorem execMspiRead_keeps {hd : MspiHead} (hstks : K.stks = false) (hregs : K.regs = false) (h : Keeps K s t) :
    NextKeeps K s (execMspiRead hd t) := by
  have hread {a n} : Keeps K s (readAccess .mspi hostClaimer a n t).2 := (readAccess_keeps hstks hregs).2 h
  unfold execMspiRead
  refine (ifUp_keeps h).2 fun _ => mspiServe_keeps hregs ?_ h
  split
  · simp [hregs, h]
  split
  · simp [hregs, h]
  · split
    next e => exact answer_keeps.2 (keeps_of_eq_snd e hread)
    next e => exact answer_keeps.2 (keeps_of_eq_snd e hread)

theorem execMspiWrite_keeps {hd : MspiHead} {words : List Word32} (h : Keeps {} s t) :
    NextKeeps {} s (execMspiWrite hd words t) := by
  unfold execMspiWrite
  refine (ifUp_keeps h).2 fun _ => mspiServe_keeps rfl ?_ h
  split
  · simp [h]
  split
  · simp [h]
  · split
    next e => exact answer_keeps.2 (keeps_of_eq_snd e (writeAccess_keeps h))

theorem execMspiStatus_keeps {hd : MspiHead} (hregs : K.regs = false) (h : Keeps K s t) :
    NextKeeps K s (execMspiStatus hd t) := by
  unfold execMspiStatus
  refine (ifUp_keeps h).2 fun _ => ?_
  split
  · simp only [nextKeeps_next]
    split <;> simp [hregs, h]
  · exact mspiServe_keeps hregs (by simp [h]) h

@[simp] theorem jtagLoad_keeps {i : JtagInstr} {pins : Bool} : Keeps K s (jtagLoad i pins t) ↔ Keeps K s t := by
  simp [jtagLoad]

theorem execJtagBypass_keeps (h : Keeps K s t) : NextKeeps K s (execJtagBypass t) := by
  simp [execJtagBypass, h]

theorem execJtagIdcode_keeps (h : Keeps K s t) : NextKeeps K s (execJtagIdcode t) := by
  simp [execJtagIdcode, h]

theorem execJtagSamplePreload_keeps {cells : List Bool} (h : Keeps K s t) : NextKeeps K s (execJtagSamplePreload
    cells t) := by
  simp [execJtagSamplePreload, h]

theorem execJtagExtest_keeps (h : Keeps K s t) : NextKeeps K s (execJtagExtest t) := by
  simp [execJtagExtest, h]

theorem execJtagExtestPulse_keeps (h : Keeps K s t) : NextKeeps K s (execJtagExtestPulse t) := by
  simp [execJtagExtestPulse, h]

theorem execJtagExtestTrain_keeps (h : Keeps K s t) : NextKeeps K s (execJtagExtestTrain t) := by
  simp [execJtagExtestTrain, h]

theorem execJtagClamp_keeps (h : Keeps K s t) : NextKeeps K s (execJtagClamp t) := by
  simp [execJtagClamp, h]

theorem execJtagHighz_keeps (h : Keeps K s t) : NextKeeps K s (execJtagHighz t) := by
  simp [execJtagHighz, h]

theorem execJtagTrst_keeps (h : Keeps K s t) : NextKeeps K s (execJtagTrst t) := by
  simp [execJtagTrst, h]

theorem execPowerDown_keeps (h : Keeps {} s t) : NextKeeps {} s (execPowerDown t) := by
  simp [execPowerDown, h]

theorem execVinCoreDip_keeps (h : Keeps {} s t) : NextKeeps {} s (execVinCoreDip t) := by
  simp [execVinCoreDip, h]

theorem execThermtripClear_keeps (h : Keeps {} s t) : NextKeeps {} s (execThermtripClear t) := by
  have key (u : State) (hu : Keeps {} s u) : Keeps {} s (coldState { u with
      lands := { u.lands with vinOk := false }, thermal := { u.thermal with shut := false } }) :=
    coldState_keeps (keeps_of_pending_mem (t := u) rfl id hu)
  exact nextKeeps_next.2 (key _ (by simp [h]))

theorem execSerdesRefclkLoss_keeps (hregs : K.regs = false) (hlands : K.lands = false) (hclock : K.clock = false)
    (h : Keeps K s t) : NextKeeps K s (execSerdesRefclkLoss t) := by
  unfold execSerdesRefclkLoss
  extract_lets lands s1
  have h1 : Keeps K s s1 := by simp [s1, hlands, h]
  clear_value s1
  split
  next v s2 e =>
    have h2 : Keeps K s s2 := by simpa [e] using (State.draw_keeps (w := 9)).2 h1
    extract_lets tsync s3 s4
    have h3 : Keeps K s s3 := by simp [s3, hclock, h2]
    have h4 : Keeps K s s4 := by simp [s4, hregs, h3]
    split
    · simpa using h3
    · exact nextKeeps_next.2 ((forEach_keeps_iff fun _ _ => by split <;> simp [hregs]).2 h4)

theorem execSerdesRefclkReturn_keeps (hregs : K.regs = false) (hlands : K.lands = false) (hclock : K.clock = false)
    (h : Keeps K s t) : NextKeeps K s (execSerdesRefclkReturn t) := by
  have hu {lands : Lands} {tsync : Tsync} : Keeps K s { t with lands := lands, tsync := tsync } := by
    obtain ⟨hp, hw, hc, hk, hm, hr, ht, hpw, hth, -, -⟩ := h
    exact ⟨hp, hw, hc, hk, hm, hr, ht, hpw, hth, by simp [hlands], by simp [hclock]⟩
  refine nextKeeps_next.2 ?_
  split
  · exact hu
  · exact (clkLost_keeps hregs).2 hu

theorem execPcieRefclkLoss_keeps (hregs : K.regs = false) (hlands : K.lands = false) (h : Keeps K s t) : NextKeeps K
    s (execPcieRefclkLoss t) := by
  simp [execPcieRefclkLoss, hregs, hlands, h]

theorem execPcieRefclkReturn_keeps (hregs : K.regs = false) (hlands : K.lands = false) (h : Keeps K s t) : NextKeeps
    K s (execPcieRefclkReturn t) := by
  simp [execPcieRefclkReturn, hregs, hlands, h]

end

end Sys2Proof.Machine
end

section
/-! V-, M-, S- and T-class instructions, management messages and the commands that write one register keep the queue and
the form of memory. -/

namespace Sys2Proof.Machine

open Sys2Proof

section
variable {K : Kept} {s t u : State}

theorem vecQ_keeps {op n : ℕ} {types : List ℕ} {fl : List Bool} {g : Gid} {f : RegForm}
    {res : Word32 → Word32 → Word32 → Word32} (hcores : K.cores = false) (hstks : K.stks = false)
    (hregs : K.regs = false) (htick : K.tick = false) (h : Keeps K s t) :
    NextKeeps K s (vecQ op n types fl g f res t) :=
  issue_keeps hcores hstks hregs htick (fun rd v hv => by simp [hcores, hv]) h

theorem vecP_keeps {op : ℕ} {types : List ℕ} {fl : List Bool} {top : ℕ} {g : Gid} {f : RegForm}
    {res : Word32 → Word32 → Bool} (hcores : K.cores = false) (hstks : K.stks = false)
    (hregs : K.regs = false) (htick : K.tick = false) (h : Keeps K s t) :
    NextKeeps K s (vecP op types fl top g f res t) :=
  issue_keeps hcores hstks hregs htick (fun rd v hv => by simp [hcores, hv]) h

theorem execSelp_keeps {g : Gid} {f : RegForm} (hcores : K.cores = false) (hstks : K.stks = false)
    (hregs : K.regs = false) (htick : K.tick = false) (h : Keeps K s t) :
    NextKeeps K s (execSelp g f t) :=
  issue_keeps hcores hstks hregs htick (fun rd v hv => by simp [hcores, hv]) h

theorem execCvtn_keeps {g : Gid} {f : RegForm} (hcores : K.cores = false) (hstks : K.stks = false)
    (hregs : K.regs = false) (htick : K.tick = false) (h : Keeps K s t) :
    NextKeeps K s (execCvtn g f t) :=
  issue_keeps hcores hstks hregs htick (fun rd v hv => by
    extract_lets i act sr draws rnd res n u w
    have hu : Keeps K s u := by
      simp only [u]
      split <;> simp [hv]
    have hw : Keeps K s w := by
      simp only [w]
      split <;> simp [hcores, hu]
    simp [hcores, hw]) h

theorem execCvtw_keeps {g : Gid} {f : RegForm} (hcores : K.cores = false) (hstks : K.stks = false)
    (hregs : K.regs = false) (htick : K.tick = false) (h : Keeps K s t) :
    NextKeeps K s (execCvtw g f t) :=
  issue_keeps hcores hstks hregs htick (fun rd v hv => by simp [hcores, hv]) h

theorem execCvtfi_keeps {g : Gid} {f : RegForm} (hcores : K.cores = false) (hstks : K.stks = false)
    (hregs : K.regs = false) (htick : K.tick = false) (h : Keeps K s t) :
    NextKeeps K s (execCvtfi g f t) :=
  issue_keeps hcores hstks hregs htick (fun rd v hv => by simp [hcores, hv]) h

theorem laneTrap_keeps {g : Gid} {size : ℕ} {atomic : Bool} {ls : List LoadLane} (hcores : K.cores = false)
    (hregs : K.regs = false) (htick : K.tick = false) (e : laneTrap g size atomic ls t = some u) (h : Keeps K s t) :
    Keeps K s u := by
  unfold laneTrap at e
  extract_lets i fails v at e
  have hv : Keeps K s v := by
    simp only [v]
    split
    · simp [hregs, h]
    · exact h
  clear_value v fails
  cases fails with
  | nil => cases e
  | cons y ys =>
    cases e
    simpa [hcores, hregs, htick] using hv

theorem quarters_keeps {ls : List LoadLane} {f : ℕ → List LoadLane → State → State}
    (hf : ∀ q ls v, Keeps K s v → Keeps K s (f q ls v)) (h : Keeps K s t) : Keeps K s (quarters ls f t) :=
  forEach_keeps (fun q v hv => hf q (quarter q ls) v hv) h

@[simp] theorem startLoad_keeps {g : Gid} {f : RegForm} {ls : List LoadLane} (hcores : K.cores = false) : Keeps K s
    (startLoad g f ls t).2 ↔ Keeps K s t := by
  simp [startLoad, hcores]

@[simp] theorem holdMiss_keeps {i id ac : ℕ} {ls : List LoadLane} (h : Keeps {} s t) : Keeps {} s (holdMiss i id ac
    ls t) := by
  unfold holdMiss
  refine forEach_keeps (fun _ t h => ?_) h
  simp [h]

theorem loadQuarter_keeps {i id ac size : ℕ} {ls : List LoadLane} (h : Keeps {} s t) :
    Keeps {} s (loadQuarter i id ac size ls t) := by
  unfold loadQuarter
  extract_lets far direct regs s1 s2 s3 s4
  have h1 : Keeps {} s s1 := forEach_keeps (fun _ v hv => by simp [hv]) h
  have h2 : Keeps {} s s2 := forEach_keeps (fun _ v hv => by simp [hv]) h1
  have h3 : Keeps {} s s3 := by
    refine forEach_keeps (fun y v hv => ?_) h2
    split
    · simp [hv]
    · exact hv
  exact forEach_keeps (fun _ v hv => l1LoadLanes_keeps hv) (holdMiss_keeps h3)

theorem loadEffect_keeps {g : Gid} {f : RegForm} {ls : List LoadLane} (h : Keeps {} s t) :
    Keeps {} s (loadEffect g f ls t) := by
  unfold loadEffect
  simp only
  have h2 : Keeps {} s (quarters ls (fun _ q v => loadQuarter (gi g) (startLoad g f ls t).1 (memClass f)
      (memSize f) q v)
      (startLoad g f ls t).2) :=
    quarters_keeps (fun _ _ v hv => loadQuarter_keeps hv) ((startLoad_keeps rfl).2 h)
  split
  · exact (lanesMark_keeps rfl rfl).2 h2
  · exact h2

theorem execLd_keeps {g : Gid} {f : RegForm} (h : Keeps {} s t) :
    NextKeeps {} s (execLd g f t) :=
  issue_keeps rfl rfl rfl rfl (fun rd v hv => by
    simp only
    split
    next u e => exact laneTrap_keeps rfl rfl rfl e hv
    next => exact loadEffect_keeps hv) h

theorem storeQuarter_keeps {i slot ac size : ℕ} {last : Bool} {data : ℕ → Word32} {later ls : List LoadLane}
    (h : Keeps {} s t) : Keeps {} s (storeQuarter i slot ac size last data later ls t) := by
  unfold storeQuarter
  extract_lets direct far s1 s2 s3 after
  have h1 : Keeps {} s s1 := forEach_keeps (fun _ v hv => sramStore_keeps rfl rfl rfl rfl hv) h
  have h2 : Keeps {} s s2 := forEach_keeps (fun _ v hv => missRequest_keeps hv) h1
  have h3 : Keeps {} s s3 := by
    refine forEach_keeps (fun y v hv => ?_) h2
    split
    · exact writeAccess_keeps hv
    · exact hv
  exact forEach_keeps (fun _ v hv => l1Store_keeps hv) h3

theorem storeEffect_keeps {g : Gid} {f : RegForm} {data : ℕ → Word32} {ls : List LoadLane} (h : Keeps {} s t) :
    Keeps {} s (storeEffect g f data ls t) :=
  quarters_keeps (fun _ _ _ hv => storeQuarter_keeps hv) h

theorem execSt_keeps {g : Gid} {f : RegForm} (h : Keeps {} s t) :
    NextKeeps {} s (execSt g f t) :=
  issue_keeps rfl rfl rfl rfl (fun rd v hv => by
    simp only
    split
    next u e => exact laneTrap_keeps rfl rfl rfl e hv
    next => exact storeEffect_keeps hv) h

@[simp] theorem prefetch_keeps {i ac l : ℕ} (hcores : K.cores = false) (hstks : K.stks = false) : Keeps K s
    (prefetch i ac l t) ↔ Keeps K s t := by
  unfold prefetch
  simp only
  repeat' split
  all_goals simp [hcores, hstks]

@[simp] theorem prefetchEffect_keeps {i : ℕ} {f : RegForm} {ls : List LoadLane} (hcores : K.cores = false)
    (hstks : K.stks = false) : Keeps K s (prefetchEffect i f ls t) ↔ Keeps K s t :=
  forEach_keeps_iff fun _ _ => forEach_keeps_iff fun _ _ => prefetch_keeps hcores hstks

theorem execPf_keeps {g : Gid} {f : RegForm} (hcores : K.cores = false) (hstks : K.stks = false)
    (hregs : K.regs = false) (htick : K.tick = false) (h : Keeps K s t) :
    NextKeeps K s (execPf g f t) :=
  issue_keeps hcores hstks hregs htick (fun rd v hv => by simp [hcores, hstks, hv]) h

@[simp] theorem dbmCount_keeps {i ac l : ℕ} : Keeps K s (dbmCount i ac l t) ↔ Keeps K s t := by
  simp [dbmCount]

@[simp] theorem markEffect_keeps {i : ℕ} {f : RegForm} {ls : List LoadLane} (hcores : K.cores = false)
    (hstks : K.stks = false) : Keeps K s (markEffect i f ls t) ↔ Keeps K s t :=
  (forEach_keeps_iff fun _ _ => deadMark_keeps hcores hstks).trans
    (forEach_keeps_iff fun _ _ => forEach_keeps_iff fun _ _ => dbmCount_keeps)

theorem execDbm_keeps {g : Gid} {f : RegForm} (hcores : K.cores = false) (hstks : K.stks = false)
    (hregs : K.regs = false) (htick : K.tick = false) (h : Keeps K s t) :
    NextKeeps K s (execDbm g f t) :=
  issue_keeps hcores hstks hregs htick (fun rd v hv => by simp [hcores, hstks, hv]) h

@[simp] theorem atomicLane_keeps {i id : ℕ} {op : Word32 → Word32 → Word32} {data : ℕ → Word32} {y : LoadLane} (h :
    Keeps {} s t) : Keeps {} s (atomicLane i id op data y t) := by
  simp [atomicLane, h]

theorem atomicEffect_keeps {g : Gid} {f : RegForm} {upd : Word32 → Word32 → Word32} {data : ℕ → Word32}
    {ls : List LoadLane} (h : Keeps {} s t) : Keeps {} s (atomicEffect g f upd data ls t) := by
  unfold atomicEffect
  refine quarters_keeps (fun _ q v hv => ?_) ((startLoad_keeps rfl).2 h)
  refine holdMiss_keeps (forEach_keeps (fun _ _ hw => atomicLane_keeps hw) ?_)
  exact forEach_keeps (fun _ w hw => by simp [hw]) hv

theorem atomic_keeps {op : ℕ} {sx : Bool} {upd : Word32 → Word32 → Word32} {g : Gid} {f : RegForm} (h : Keeps {} s t) :
    NextKeeps {} s (atomic op sx upd g f t) :=
  issue_keeps rfl rfl rfl rfl (fun rd v hv => by
    simp only
    split
    next u e => exact laneTrap_keeps rfl rfl rfl e hv
    next => exact atomicEffect_keeps hv) h

@[simp] theorem judgeFetched_keeps {up : Upsets} {i a : ℕ} {x : Fetched} (hstks : K.stks = false) (hmem : K.mem =
    false) (hregs : K.regs = false) (htick : K.tick = false) (h : Keeps K s t) : Keeps K s (judgeFetched up i a x
    t).2.2 := by
  unfold judgeFetched
  repeat' split
  all_goals simp [hstks, hmem, hregs, htick, h]

theorem judgeLanes_keeps {up : Upsets} {i : ℕ} {ls : List LoadLane} (hstks : K.stks = false) (hmem : K.mem = false)
    (hregs : K.regs = false) (htick : K.tick = false) (h : Keeps K s t) : Keeps K s (judgeLanes up i ls t).2 := by
  unfold judgeLanes
  extract_lets piece r
  refine foldl_keeps (fun b : List LoadLane × List (ℕ × ℕ × ℕ) × State => b.2.2) (fun y b hb => ?_) h
  simp only
  split
  · exact hb
  · refine foldl_keeps (fun b : Fetched × List (ℕ × ℕ × ℕ) × State => b.2.2) (fun x b hb => ?_) hb
    simp only [piece, keeps_ite]
    split
    · exact hb
    · exact judgeFetched_keeps hstks hmem hregs htick hb

theorem l2Spoilt_keeps {i : ℕ} {ls : List LoadLane} (hstks : K.stks = false) (hmem : K.mem = false)
    (hregs : K.regs = false) (h : Keeps K s t) : Keeps K s (l2Spoilt i ls t).2 := by
  unfold l2Spoilt
  refine foldl_keeps Prod.snd (fun l b hb => ?_) h
  simp only
  split
  · exact hb
  · split <;> simp [hstks, hmem, hregs, hb]

@[simp] theorem endLoad_keeps {i id : ℕ} (h : Keeps {} s t) : Keeps {} s (endLoad i id t) := by
  simp [endLoad, h]

@[simp] theorem deliverLoad_keeps {i : ℕ} {ld : Load} {ls : List LoadLane} (hcores : K.cores = false) : Keeps K s
    (deliverLoad i ld ls t) ↔ Keeps K s t := by
  simp [deliverLoad, hcores]

theorem execLoadReturn_keeps {c : Cid} {load : ℕ} {u' : Upsets} (h : Keeps {} s t) :
    NextKeeps {} s (execLoadReturn c load u' t) := by
  refine (ifUp_keeps h).2 fun _ => ?_
  extract_lets i
  split
  · simpa using h
  next ld _ =>
    split
    · simpa using h
    · have h1 : Keeps {} s (judgeLanes u' i ld.lanes (upset u' t)).2 :=
        judgeLanes_keeps rfl rfl rfl rfl (upset_keeps rfl rfl rfl h)
      simp only
      have hw := l2Spoilt_keeps (i := i) (ls := (judgeLanes u' i ld.lanes (upset u' t)).1) rfl rfl rfl h1
      split
      · exact nextKeeps_next.2 (forEach_keeps (fun _ _ hv => laneSource_keeps hv) (by simp [hw]))
      · split
        · simp [hw]
        · simp [hw]

theorem receiveMgmt_keeps {op : ℕ} {f : Msg → State → State} {l : InLink} (hregs : K.regs = false)
    (htick : K.tick = false) (hf : ∀ m v, Keeps K s v → Keeps K s (f m v)) (h : Keeps K s t) :
    NextKeeps K s (receiveMgmt op f l t) := by
  unfold receiveMgmt
  split
  · simpa using h
  · refine receive_keeps hregs htick (fun m v hv => ?_) (by simpa using h)
    split
    · simpa using hv
    · split
      · exact hf m _ (sendAck_keeps.2 hv)
      · simpa using hv

theorem execMgmtRegRead_keeps {l : InLink} (hstks : K.stks = false) (hregs : K.regs = false)
    (htick : K.tick = false) (h : Keeps K s t) : NextKeeps K s (execMgmtRegRead l t) := by
  refine (ifUp_keeps h).2 fun _ => receiveMgmt_keeps hregs htick (fun m v hv => ?_) h
  have hread : Keeps K s (readAccess .mgmt hostClaimer (m.bodyAt 36 4 % 2 ^ 26) 4 v).2 :=
    (readAccess_keeps hstks hregs).2 hv
  split
  next e =>
    have := e ▸ hread
    simpa using this
  next e =>
    have := e ▸ hread
    simpa using this

theorem execMgmtRegWrite_keeps {l : InLink} (h : Keeps {} s t) : NextKeeps {} s (execMgmtRegWrite l t) :=
  (ifUp_keeps h).2 fun _ => receiveMgmt_keeps rfl rfl (fun _ _ hv => writeAccess_keeps hv) h

theorem execMgmtMbCmd_keeps {l : InLink} (h : Keeps {} s t) : NextKeeps {} s (execMgmtMbCmd l t) := by
  refine (ifUp_keeps h).2 fun _ => receiveMgmt_keeps rfl rfl (fun m v hv => ?_) h
  split
  · simpa using hv
  · extract_lets s1 s2
    have h2 : Keeps {} s s2 := mailbox_keeps (by simp [s1, hv])
    split <;> simp [h2]

theorem execMgmtReply_keeps {l : InLink} (hregs : K.regs = false) (htick : K.tick = false) (h : Keeps K s t) :
    NextKeeps K s (execMgmtReply l t) :=
  (ifUp_keeps h).2 fun _ => receiveMgmt_keeps hregs htick (fun _ _ hv => hv) h

theorem execFault_keeps {l : InLink} (hregs : K.regs = false) (htick : K.tick = false) (h : Keeps K s t) :
    NextKeeps K s (execFault l t) :=
  (ifUp_keeps h).2 fun _ => receiveControl_keeps hregs htick (fun _ _ hv => by simp [hregs, hv]) h

theorem execRepairRecordWrite_keeps {readBackOk : Bool} (hregs : K.regs = false) (h : Keeps K s t) : NextKeeps K s
    (execRepairRecordWrite readBackOk t) := by
  unfold execRepairRecordWrite
  split <;> simp [hregs, h]

@[simp] theorem pathTrigger_keeps {p : Path} {a : ℕ} {bits : Word32} (h : Keeps {} s t) : Keeps {} s (pathTrigger p
    a bits t) := by
  simp [pathTrigger, h]

/-- A command that is the write of one register. -/
theorem pathWriteRow_keeps {p : Path} {a : ℕ} {v : Word32} (h : Keeps {} s t) :
    NextKeeps {} s (ifUp t (.next (pathWrite p a v t))) :=
  (ifUp_keeps h).2 fun _ => nextKeeps_next.2 (pathWrite_keeps h)

/-- A command that triggers by the write of one register. -/
theorem pathTriggerRow_keeps {p : Path} {a : ℕ} {bits : Word32} (h : Keeps {} s t) :
    NextKeeps {} s (ifUp t (.next (pathTrigger p a bits t))) :=
  (ifUp_keeps h).2 fun _ => nextKeeps_next.2 (pathTrigger_keeps h)

theorem execRegisterWrite_keeps {p : Path} {off : BitVec 26} {data : List Byte} (h : Keeps {} s t) : NextKeeps {} s
    (execRegisterWrite p off data t) := by
  simp [execRegisterWrite, h]

theorem scal_keeps {op n : ℕ} {g : Gid} {f : RegForm} {res : Word64 → Word64 → Word64}
    (hcores : K.cores = false) (hstks : K.stks = false)
    (hregs : K.regs = false) (htick : K.tick = false) (h : Keeps K s t) :
    NextKeeps K s (scal op n g f res t) :=
  issue_keeps hcores hstks hregs htick (fun rd v hv => by simp [hcores, hv]) h

theorem scalImm_keeps {op : ℕ} {useA : Bool} {g : Gid} {f : ImmForm} {res : Word64 → Word64 → Word64 → Word64}
    (hcores : K.cores = false) (hstks : K.stks = false)
    (hregs : K.regs = false) (htick : K.tick = false) (h : Keeps K s t) :
    NextKeeps K s (scalImm op useA g f res t) :=
  issue_keeps hcores hstks hregs htick (fun rd v hv => by simp [hcores, hv]) h

theorem execSnop_keeps {g : Gid} {f : RegForm} (hcores : K.cores = false) (hstks : K.stks = false)
    (hregs : K.regs = false) (htick : K.tick = false) (h : Keeps K s t) :
    NextKeeps K s (execSnop g f t) :=
  issue_keeps hcores hstks hregs htick (fun rd v hv => by simp [hv]) h

theorem execScmp_keeps {g : Gid} {f : RegForm} (hcores : K.cores = false) (hstks : K.stks = false)
    (hregs : K.regs = false) (htick : K.tick = false) (h : Keeps K s t) :
    NextKeeps K s (execScmp g f t) :=
  issue_keeps hcores hstks hregs htick (fun rd v hv => by simp [hcores, hv]) h

theorem execPget_keeps {g : Gid} {f : RegForm} (hcores : K.cores = false) (hstks : K.stks = false)
    (hregs : K.regs = false) (htick : K.tick = false) (h : Keeps K s t) :
    NextKeeps K s (execPget g f t) :=
  issue_keeps hcores hstks hregs htick (fun rd v hv => by simp [hcores, hv]) h

theorem execPset_keeps {g : Gid} {f : RegForm} (hcores : K.cores = false) (hstks : K.stks = false)
    (hregs : K.regs = false) (htick : K.tick = false) (h : Keeps K s t) :
    NextKeeps K s (execPset g f t) :=
  issue_keeps hcores hstks hregs htick (fun rd v hv => by simp [hcores, hv]) h

@[simp] theorem pushTCmd_keeps {i g : ℕ} {op : TOp} (hcores : K.cores = false) : Keeps K s (pushTCmd i g op t) ↔
    Keeps K s t := by
  unfold pushTCmd
  split <;> simp [hcores]

theorem issueT_keeps {op n : ℕ} {g : Gid} {f : RegForm} {mask : ℕ} {ok : Bool} {mk : State → ℤ → ℤ → Option TOp}
    (hcores : K.cores = false) (hstks : K.stks = false) (hregs : K.regs = false) (htick : K.tick = false)
    (h : Keeps K s t) : NextKeeps K s (issueT op n g f mask ok mk t) := by
  refine withTraps_keeps hcores hregs (fun v hv => ?_) h
  obtain ⟨herr, hok⟩ := enter_keeps (g := g) (w := encReg 3 op f) hcores hstks hregs htick hv
  split
  next hu => simpa using herr _ hu
  next u hu =>
    have hu := hok u hu
    extract_lets i x on fs held ps vals
    clear_value held
    split
    · simp [hcores, hregs, htick, hu]
    · split
      · split <;> simp [hcores, hregs, hu]
      · split
        · simp [hcores, hregs, htick, hu]
        · simpa using hu
        · have hread (ks) : Keeps K s (readInner i ks u).2 := (readInner_keeps hcores hregs).2 hu
          split
          next hr =>
            have := hr ▸ hread _
            split <;> simp [hcores, hregs, htick, hu, this]
          · simp [hcores, hregs, htick, hu]
          next hr _ =>
            have := hr ▸ hread _
            split <;> simp [hcores, hregs, hu, this]

theorem execTldtStart_keeps {c : Cid} (hcores : K.cores = false) (h : Keeps K s t) : NextKeeps K s (execTldtStart c
    t) := by
  unfold execTldtStart
  simp only
  split <;> simp [hcores, h]

theorem execTldtComplete_keeps {c : Cid} (hcores : K.cores = false) (hregs : K.regs = false)
    (htick : K.tick = false) (h : Keeps K s t) : NextKeeps K s (execTldtComplete c t) := by
  refine (ifUp_keeps h).2 fun _ => ?_
  have hread (ks) : Keeps K s (readInner (ci c) ks t).2 := (readInner_keeps hcores hregs).2 h
  simp only
  split
  · simpa using h
  · split
    · simpa using h
    · split
      · split
        next hr =>
          have := hr ▸ hread _
          simp [hcores, hregs, htick, this]
        next hr =>
          have := hr ▸ hread _
          simp [hcores, this]
      · simpa using h

theorem execTswapStart_keeps {c : Cid} (hcores : K.cores = false) (h : Keeps K s t) : NextKeeps K s (execTswapStart
    c t) := by
  unfold execTswapStart
  simp only
  split <;> simp [hcores, h]

theorem execTrunStart_keeps {c : Cid} (hcores : K.cores = false) (h : Keeps K s t) : NextKeeps K s (execTrunStart c
    t) := by
  unfold execTrunStart
  simp only
  split <;> simp [hcores, h]

theorem execTrunRowEnter_keeps {c : Cid} (hcores : K.cores = false) (hregs : K.regs = false)
    (htick : K.tick = false) (h : Keeps K s t) : NextKeeps K s (execTrunRowEnter c t) := by
  refine (ifUp_keeps h).2 fun _ => ?_
  have hread (ks) : Keeps K s (readInner (ci c) ks t).2 := (readInner_keeps hcores hregs).2 h
  simp only
  split
  · simpa using h
  · split
    · simpa using h
    · split
      · simpa using h
      · split
        · simpa using h
        · split
          next hr =>
            have := hr ▸ hread _
            simp [hcores, hregs, htick, this]
          next hr =>
            have := hr ▸ hread _
            simp [hcores, this]

theorem execTrunRowUpdate_keeps {c : Cid} (hcores : K.cores = false) (hregs : K.regs = false)
    (htick : K.tick = false) (h : Keeps K s t) : NextKeeps K s (execTrunRowUpdate c t) := by
  refine (ifUp_keeps h).2 fun _ => ?_
  have hread (ks) : Keeps K s (readInner (ci c) ks t).2 := (readInner_keeps hcores hregs).2 h
  simp only
  split
  · simpa using h
  · split
    · simpa using h
    · split
      next hr =>
        have := hr ▸ hread _
        simp [hcores, hregs, htick, this]
      next hr =>
        have := hr ▸ hread _
        simp [hcores, this]

theorem execTdrnStart_keeps {c : Cid} (hcores : K.cores = false) (h : Keeps K s t) : NextKeeps K s (execTdrnStart c
    t) := by
  unfold execTdrnStart
  simp only
  split <;> simp [hcores, h]

theorem execTdrnPush_keeps {c : Cid} (hcores : K.cores = false) (hregs : K.regs = false) (htick : K.tick = false)
    (h : Keeps K s t) : NextKeeps K s (execTdrnPush c t) := by
  refine (ifUp_keeps h).2 fun _ => ?_
  extract_lets i pair sel fold drain
  clear_value fold drain
  have hread (ks) : Keeps K s (readInner i ks t).2 := (readInner_keeps hcores hregs).2 h
  split
  · simpa using h
  · split
    · simpa using h
    · split
      next hr =>
        have := hr ▸ hread _
        simp [hcores, hregs, htick, this]
      next hr =>
        have := hr ▸ hread _
        simp [hcores, this]

theorem execTclrStart_keeps {c : Cid} (hcores : K.cores = false) (h : Keeps K s t) : NextKeeps K s (execTclrStart c
    t) := by
  unfold execTclrStart
  simp only
  split <;> simp [hcores, h]

theorem execArrayActive_keeps {c : Cid} (hcores : K.cores = false) (h : Keeps K s t) : NextKeeps K s
    (execArrayActive c t) := by
  unfold execArrayActive
  simp only
  split <;> simp [hcores, h]

theorem execHoldExpiry_keeps {c : Cid} (hcores : K.cores = false) (h : Keeps K s t) : NextKeeps K s (execHoldExpiry
    c t) := by
  simp [execHoldExpiry, hcores, h]

theorem execArrayIdle_keeps {c : Cid} (hcores : K.cores = false) (h : Keeps K s t) : NextKeeps K s (execArrayIdle c
    t) := by
  unfold execArrayIdle
  simp only
  split <;> simp [hcores, h]

@[simp] theorem serviceBoundary_keeps (h : Keeps {} s t) : Keeps {} s (serviceBoundary t) := by
  simp [serviceBoundary, h]

theorem execTickBoundary_keeps {vin : ℕ} (h : Keeps {} s t) : NextKeeps {} s (execTickBoundary vin t) := by
  simp [execTickBoundary, h]

@[simp] theorem idle_keeps (hregs : K.regs = false) (hclock : K.clock = false) : Keeps K s (idle t) ↔ Keeps K s t :=
    by
  simp [idle, hregs, hclock]

end

end Sys2Proof.Machine
end

section
/-! Every command keeps the queue and the form of memory. -/

namespace Sys2Proof.Machine

open Sys2Proof

section
variable {s t u : State}

/-- Whatever command runs, the queue stays as it was and memory stays canonical. -/
theorem exec_keeps {c : Instr} (h : Keeps {} s t) : NextKeeps {} s (exec c t) := by
  cases c with
  | tickBoundary => exact execTickBoundary_keeps h
  | stoppingBoundary => exact execStoppingBoundary_keeps (_vin := 0) h
  | tickOverrun => exact execTickOverrun_keeps rfl rfl rfl h
  | packageDone => exact execPackageDone_keeps rfl rfl rfl h
  | tickFaultTimeout => exact execTickFaultTimeout_keeps rfl rfl rfl h
  | releaseLost => exact execReleaseLost_keeps h
  | startTimeout => exact execStartTimeout_keeps rfl rfl rfl h
  | startAbandon => exact execStartAbandon_keeps rfl rfl rfl h
  | tickStart | tickStop | tickCntClr | icUnpinAll | icInval | seAbort | seClear | chkRawWrite | chkRawRead |
    linkRetrain =>
    delta exec
    exact pathTriggerRow_keeps h
  | tickPeriodWrite | tickRelLatWrite | tickSnapFreeze | launchJob | launchNow | abandon | icPreload |
    coreNumCtlWrite | coreSrSeedWrite | coreMemCfgWrite | seDoorbell | seHeadWrite | seRsvWrite | bwrGvalWrite
    | erlRdWrite | scrubPeriodWrite | granuleRetireWrite | remapWrite | bankDisableWrite | crcCfgWrite |
    mereSplitWrite | bondLoopback | linkCtlWrite | routeStage | corePwrGate | claimRearm | claimCfgWrite |
    configLock | pkgIdWrite | imgBegin | imgData | imgEnd | imgBoot | nbrRead | retireDelete | recordRead |
    svnRaise | jobStart | hostTake | gctlModeWrite | roleStageWrite | roleCommit | membershipWrite |
    faultRecordFree =>
    delta exec
    exact pathWriteRow_keeps h
  | tickInEdge => exact execTickInEdge_keeps rfl rfl h
  | tickReady => exact execTickReady_keeps rfl rfl h
  | tickDone => exact execTickDone_keeps rfl rfl h
  | tickRelease => exact execTickRelease_keeps rfl rfl h
  | tsyncInterval => exact execTsyncInterval_keeps rfl h
  | tsyncReq => exact execTsyncReq_keeps rfl rfl h
  | tsyncRsp => exact execTsyncRsp_keeps rfl rfl rfl h
  | mov | and | or | xor | andn | shl | shr | sar | clz | popc | iadd | isub | imin | imax | imul | imulh |
    imad | fadd | fsub | fmul | fma | fmin | fmax | fabs | fneg | fscale | frcp | frsq | fsqrt | fexp2 | flog2
    | cvtif =>
    delta exec
    exact vecQ_keeps rfl rfl rfl rfl h
  | selp => exact execSelp_keeps rfl rfl rfl rfl h
  | icmp | fcmp =>
    delta exec
    exact vecP_keeps rfl rfl rfl rfl h
  | cvtn => exact execCvtn_keeps rfl rfl rfl rfl h
  | cvtw => exact execCvtw_keeps rfl rfl rfl rfl h
  | cvtfi => exact execCvtfi_keeps rfl rfl rfl rfl h
  | snop => exact execSnop_keeps rfl rfl rfl rfl h
  | sadd | ssub | smul | sand | sor | sxor | sshl | sshr | ssar | smin | smax =>
    delta exec
    exact scal_keeps rfl rfl rfl rfl h
  | scmp => exact execScmp_keeps rfl rfl rfl rfl h
  | pget => exact execPget_keeps rfl rfl rfl rfl h
  | pset => exact execPset_keeps rfl rfl rfl rfl h
  | sli | slih | saddi | spc =>
    delta exec
    exact scalImm_keeps rfl rfl rfl rfl h
  | rany | rall | rsum | rmax | rsign =>
    delta exec
    exact reduceX_keeps rfl rfl rfl rfl h
  | xshfl | xrot | xbfly =>
    delta exec
    exact exchangeX_keeps rfl rfl rfl rfl h
  | qtos => exact execQtos_keeps rfl rfl rfl rfl h
  | ld => exact execLd_keeps h
  | st => exact execSt_keeps h
  | pf => exact execPf_keeps rfl rfl rfl rfl h
  | dbm => exact execDbm_keeps rfl rfl rfl rfl h
  | aadd | amax | amin =>
    delta exec
    exact atomic_keeps h
  | loadReturn => exact execLoadReturn_keeps h
  | tldt | tswap | trun | tdrn | tclr =>
    delta exec
    exact issueT_keeps rfl rfl rfl rfl h
  | br => exact execBr_keeps rfl rfl rfl rfl h
  | jr => exact execJr_keeps rfl rfl rfl rfl h
  | fence => exact execFence_keeps rfl rfl rfl rfl h
  | fenceComplete => exact execFenceComplete_keeps h
  | tfence => exact execTfence_keeps rfl rfl rfl rfl h
  | tfenceComplete => exact execTfenceComplete_keeps rfl h
  | endt => exact execEndt_keeps rfl rfl rfl rfl h
  | endtComplete => exact execEndtComplete_keeps rfl h
  | exit => exact execExit_keeps rfl rfl rfl rfl h
  | exitComplete => exact execExitComplete_keeps rfl h
  | icacheFill => exact execIcacheFill_keeps h
  | icPreloadLine => exact execIcPreloadLine_keeps h
  | tldtStart => exact execTldtStart_keeps rfl h
  | tldtComplete => exact execTldtComplete_keeps rfl rfl rfl h
  | tswapStart => exact execTswapStart_keeps rfl h
  | trunStart => exact execTrunStart_keeps rfl h
  | trunRowEnter => exact execTrunRowEnter_keeps rfl rfl rfl h
  | trunRowUpdate => exact execTrunRowUpdate_keeps rfl rfl rfl h
  | tdrnStart => exact execTdrnStart_keeps rfl h
  | tdrnPush => exact execTdrnPush_keeps rfl rfl rfl h
  | tclrStart => exact execTclrStart_keeps rfl h
  | arrayActive => exact execArrayActive_keeps rfl h
  | holdExpiry => exact execHoldExpiry_keeps rfl h
  | arrayIdle => exact execArrayIdle_keeps rfl h
  | seTimerTrigger => exact execSeTimerTrigger_keeps rfl rfl rfl h
  | seDescFetch => exact execSeDescFetch_keeps h
  | seNop => exact execSeNop_keeps h
  | seCopy => exact execSeCopy_keeps h
  | seFill => exact execSeFill_keeps h
  | seFlush => exact execSeFlush_keeps rfl rfl rfl rfl h
  | seCheck => exact execSeCheck_keeps h
  | seSend => exact execSeSend_keeps h
  | seGuaranteeRequest => exact execSeGuaranteeRequest_keeps rfl rfl h
  | seBurstRead => exact execSeBurstRead_keeps rfl rfl h
  | seBurstArrive => exact execSeBurstArrive_keeps h
  | seBurstWrite => exact execSeBurstWrite_keeps rfl rfl h
  | seBurstAccept => exact execSeBurstAccept_keeps h
  | seStatusWrite => exact execSeStatusWrite_keeps rfl rfl rfl rfl h
  | seOwnWrite => exact execSeOwnWrite_keeps rfl rfl rfl rfl h
  | seAccessTimeout => exact execSeAccessTimeout_keeps rfl rfl rfl h
  | bwrFeedback => exact execBwrFeedback_keeps rfl h
  | bwrRequestServe => exact execBwrRequestServe_keeps rfl h
  | bwrMissWindow => exact execBwrMissWindow_keeps rfl rfl h
  | l1Fill => exact execL1Fill_keeps h
  | l2Fill => exact execL2Fill_keeps h
  | l2WritebackAck => exact execL2WritebackAck_keeps rfl rfl rfl h
  | l1WritebackAck => exact execL1WritebackAck_keeps h
  | hbmRefresh => exact execHbmRefresh_keeps (_m := 0) h
  | hbmTempRead => exact execHbmTempRead_keeps rfl h
  | mergeEntryTimeout => exact execMergeEntryTimeout_keeps h
  | mereScrubRead => exact execMereScrubRead_keeps h
  | hbmPatrolRead => exact execHbmPatrolRead_keeps rfl rfl rfl rfl h
  | hbmEcsPoll => exact execHbmEcsPoll_keeps rfl h
  | loopbackDone => exact execLoopbackDone_keeps rfl rfl rfl rfl h
  | ctrlCopyMask => exact execCtrlCopyMask_keeps rfl rfl h
  | stackLost => exact execStackLost_keeps rfl rfl rfl rfl rfl h
  | repairRecordWrite => exact execRepairRecordWrite_keeps rfl h
  | linkDetect => exact execLinkDetect_keeps h
  | linkTrainDone => exact execLinkTrainDone_keeps h
  | linkTrainFail => exact execLinkTrainFail_keeps rfl h
  | linkAligned => exact execLinkAligned_keeps h
  | linkDownExpiry => exact execLinkDownExpiry_keeps rfl h
  | linkLoss => exact execLinkLoss_keeps rfl h
  | identSend => exact execIdentSend_keeps rfl h
  | ident => exact execIdent_keeps rfl rfl h
  | frameSend => exact execFrameSend_keeps rfl rfl h
  | frameReceive => exact execFrameReceive_keeps rfl h
  | replayTimeout => exact execReplayTimeout_keeps rfl h
  | nakResend => exact execNakResend_keeps rfl h
  | linkWrite => exact execLinkWrite_keeps rfl rfl rfl rfl h
  | linkRead => exact execLinkRead_keeps h
  | rdresp => exact execRdresp_keeps rfl rfl rfl h
  | linkSend => exact execLinkSend_keeps rfl rfl rfl rfl h
  | ack => exact execAck_keeps rfl rfl rfl rfl h
  | nack => exact execNack_keeps rfl rfl rfl rfl h
  | loss => exact execLoss_keeps rfl rfl h
  | messageForward => exact execMessageForward_keeps h
  | stackHoldback => exact execStackHoldback_keeps rfl h
  | holdbackExit => exact execHoldbackExit_keeps rfl h
  | packageHoldback => exact execPackageHoldback_keeps rfl rfl h
  | regulatorSample => exact execRegulatorSample_keeps rfl h
  | shuntClamp => exact execShuntClamp_keeps rfl h
  | domainPowerOn => exact execDomainPowerOn_keeps rfl rfl rfl rfl rfl h
  | slabPowerOff => exact execSlabPowerOff_keeps rfl rfl rfl rfl rfl h
  | leakageEval => exact execLeakageEval_keeps rfl h
  | lendReport => exact execLendReport_keeps rfl rfl rfl h
  | lendRound => exact execLendRound_keeps rfl h
  | lendPhase2 => exact execLendPhase2_keeps rfl rfl h
  | lendDec => exact execLendDec_keeps rfl rfl rfl h
  | lendInc => exact execLendInc_keeps rfl rfl rfl h
  | thermalSample => exact execThermalSample_keeps rfl rfl rfl h
  | hbmThermalRead => exact execHbmThermalRead_keeps rfl rfl h
  | sensorCalibration => exact execSensorCalibration_keeps rfl rfl h
  | claimTake => exact execClaimTake_keeps rfl rfl h
  | coreStopHit => exact execCoreStopHit_keeps rfl rfl rfl h
  | glintSnapshot => exact execGlintSnapshot_keeps rfl rfl h
  | coldReset => exact execColdReset_keeps h
  | warmReset => exact execWarmReset_keeps h
  | computeReset => exact execComputeReset_keeps h
  | hbmTrainDone => exact execHbmTrainDone_keeps rfl h
  | bistDone => exact execBistDone_keeps rfl rfl rfl rfl rfl rfl h
  | packageReady => exact execPackageReady_keeps rfl h
  | autoJobStart => exact execAutoJobStart_keeps h
  | mgmtRegRead => exact execMgmtRegRead_keeps rfl rfl rfl h
  | mgmtRegWrite => exact execMgmtRegWrite_keeps h
  | mgmtMbCmd => exact execMgmtMbCmd_keeps h
  | mgmtReply => exact execMgmtReply_keeps rfl rfl h
  | fault => exact execFault_keeps rfl rfl h
  | hostWindowWrite => exact execHostWindowWrite_keeps rfl rfl rfl rfl h
  | hostWindowRead => exact execHostWindowRead_keeps h
  | pcieCompletionTimeout => exact execPcieCompletionTimeout_keeps rfl rfl h
  | pcieFunctionReset => exact execPcieFunctionReset_keeps (_cause := 0) rfl h
  | msixUnmask => exact execMsixUnmask_keeps h
  | registerWrite => exact execRegisterWrite_keeps h
  | smbSetOffset => exact execSmbSetOffset_keeps rfl h
  | smbRead => exact execSmbRead_keeps rfl rfl h
  | smbWrite => exact execSmbWrite_keeps h
  | smbRead64 => exact execSmbRead64_keeps rfl rfl h
  | smbStatus => exact execSmbStatus_keeps rfl h
  | i3cEntry => exact execI3cEntry_keeps h
  | i3cDaa => exact execI3cDaa_keeps h
  | i3cTargetReset => exact execI3cTargetReset_keeps h
  | smbusTimeout => exact execSmbusTimeout_keeps rfl h
  | mspiRead => exact execMspiRead_keeps rfl rfl h
  | mspiWrite => exact execMspiWrite_keeps h
  | mspiStatus => exact execMspiStatus_keeps rfl h
  | jtagBypass => exact execJtagBypass_keeps h
  | jtagIdcode => exact execJtagIdcode_keeps h
  | jtagSamplePreload => exact execJtagSamplePreload_keeps h
  | jtagExtest => exact execJtagExtest_keeps h
  | jtagExtestPulse => exact execJtagExtestPulse_keeps h
  | jtagExtestTrain => exact execJtagExtestTrain_keeps h
  | jtagClamp => exact execJtagClamp_keeps h
  | jtagHighz => exact execJtagHighz_keeps h
  | jtagTrst => exact execJtagTrst_keeps h
  | powerDown => exact execPowerDown_keeps h
  | vinCoreDip => exact execVinCoreDip_keeps h
  | serdesRefclkLoss => exact execSerdesRefclkLoss_keeps rfl rfl rfl h
  | serdesRefclkReturn => exact execSerdesRefclkReturn_keeps rfl rfl rfl h
  | pcieRefclkLoss => exact execPcieRefclkLoss_keeps rfl rfl h
  | thermtripClear => exact execThermtripClear_keeps h
  | coldBringupStart => exact execColdBringupStart_keeps h
  | warmRstNRelease => exact execWarmRstNRelease_keeps h
  | pcieRefclkReturn => exact execPcieRefclkReturn_keeps rfl rfl h
  | undefinedOpcode => exact execUndefinedOpcode_keeps rfl rfl rfl rfl h
  | reservedTypeMessage => exact execReservedTypeMessage_keeps h

end

/-- Settles O59: a command's next state keeps the queue, as every row's does. -/
theorem commandsLeaveTheQueue : Obligations.CommandsLeaveTheQueue := by
  intro c s t ht
  obtain ⟨hpending, _⟩ := exec_keeps (c := c) Keeps.refl t ht
  exact hpending

/-- Settles O60: a step is a command, with the rest of the queue, or a unit of time; each keeps the form. -/
theorem memoryStaysCanonical : Obligations.MemoryStaysCanonical := by
  intro s t hwf ht
  rw [wf_eq_memWf] at hwf ⊢
  unfold step at ht
  split at ht
  · obtain ⟨_, hmem, _⟩ := (idle_keeps rfl rfl).2 (Keeps.refl (K := {}) (s := s))
    cases ht
    exact hmem hwf
  next rest _ =>
    obtain ⟨_, hmem, _⟩ := exec_keeps (s := { s with pending := rest }) Keeps.refl t ht
    exact hmem hwf

end Sys2Proof.Machine
end

section
/-! V-class instructions that push (Table 4-9): each row runs as a pushing instruction with its result. -/

namespace Sys2Proof.Machine

open Sys2Proof

/-- The row's command is the pushing instruction of its opcode, sources, types and result. -/
def VRow.Runs (r : VRow) : Prop :=
  ∀ (g : Gid) (f : RegForm) (s : State), exec (r.make g f) s = vecQ r.op r.n r.types r.fl g f (r.res f) s

/-- Rows that run as pushing instructions complete. -/
theorem VRow.complete_of_runs {rows : List VRow} (h : ∀ r ∈ rows, r.Runs) : VRow.Complete rows :=
  fun r hr g f s _ hreach => vrow_complete hreach (h r hr g f s)

/-- The number of leading zeros of a word. -/
theorem clz32_eq_clz (a : Word32) : clz32 a = a.clz := by
  unfold clz32 floorLog2
  split
  next h => subst h; decide
  next h =>
    have hlow := BitVec.two_pow_sub_clz_le_toNat_of_ne_zero (by decide) h
    have hhigh := BitVec.toNat_lt_two_pow_sub_clz (x := a)
    have hclz : a.clz.toNat < 32 := BitVec.clz_lt_iff_ne_zero.2 h
    have hlog : a.toNat.log2 = 31 - a.clz.toNat := by
      rw [Nat.log2_eq_iff (by simpa [BitVec.toNat_eq] using h)]
      exact ⟨hlow, by rwa [show 31 - a.clz.toNat + 1 = 32 - a.clz.toNat by omega]⟩
    rw [hlog, Nat.sub_sub_self (by omega), BitVec.ofNat_toNat, BitVec.setWidth_eq]

/-- The one bits of a word, counted over its indices. -/
theorem popc32_eq_length (a : Word32) :
    popc32 a = BitVec.ofNat 32 ((List.finRange 32).filter fun i => a[i]).length := by
  unfold popc32
  rw [← List.countP_eq_length_filter, ← List.map_coe_finRange_eq_range, List.countP_map]
  rfl

/-- The shift counts of a 32-bit shift are the low five bits. -/
theorem toNat_low5 (b : Word32) : (b.extractLsb' 0 5).toNat = b.toNat % 32 := by
  simp

/-- The value by TYPE of a signed comparison. -/
theorem typedValue_le (f : RegForm) (a b : Word32) {x y : Word32} :
    (if typeSigned f then (if a.toInt ≤ b.toInt then x else y) else if a ≤ b then x else y) =
      if typedValue f a ≤ typedValue f b then x else y := by
  simp only [typeSigned, typedValue, beq_iff_eq, BitVec.le_def]
  split <;> simp

theorem mulHigh_eq (f : RegForm) (a b : Word32) :
    mulHigh (typeSigned f) a b = BitVec.ofInt 32 (typedValue f a * typedValue f b / 2 ^ 32) := by
  simp only [mulHigh, typeSigned, typedValue, beq_iff_eq]
  split
  · rfl
  · rw [← BitVec.ofInt_natCast]
    push_cast
    rfl

theorem movesRun : ∀ r ∈ moveRows, r.Runs := by
  simp only [moveRows, List.forall_mem_cons]
  exact ⟨fun _ _ _ => rfl, fun _ _ _ => rfl, fun _ _ _ => rfl, fun _ _ _ => rfl, fun _ _ _ => rfl, by simp⟩

theorem shiftsRun : ∀ r ∈ shiftRows, r.Runs := by
  simp only [shiftRows, toNat_low5, ← clz32_eq_clz, ← popc32_eq_length, List.forall_mem_cons]
  exact ⟨fun _ _ _ => rfl, fun _ _ _ => rfl, fun _ _ _ => rfl, fun _ _ _ => rfl, fun _ _ _ => rfl, by simp⟩

theorem ofNat_add_toNat (a b : Word32) : BitVec.ofNat 32 (a.toNat + b.toNat) = a + b := by
  simp [BitVec.ofNat_add]

theorem ofInt_sub_toNat (a b : Word32) : BitVec.ofInt 32 ((a.toNat : Int) - b.toNat) = a - b := by
  simp [Int.sub_eq_add_neg, BitVec.ofInt_add, BitVec.ofInt_neg, BitVec.sub_eq_add_neg]

theorem ofNat_mul_toNat (a b : Word32) : BitVec.ofNat 32 (a.toNat * b.toNat) = a * b := by
  simp [BitVec.ofNat_mul]

theorem ofNat_mulAdd_toNat (a b c : Word32) : BitVec.ofNat 32 (a.toNat * b.toNat + c.toNat) = a * b + c := by
  simp [BitVec.ofNat_add, BitVec.ofNat_mul]

theorem integersRun : ∀ r ∈ integerRows, r.Runs := by
  simp only [integerRows, ofNat_add_toNat, ofInt_sub_toNat, ofNat_mul_toNat, ofNat_mulAdd_toNat, ← typedValue_le,
    ← mulHigh_eq, List.forall_mem_cons]
  exact ⟨fun _ _ _ => rfl, fun _ _ _ => rfl, fun _ _ _ => rfl, fun _ _ _ => rfl, fun _ _ _ => rfl,
    fun _ _ _ => rfl, fun _ _ _ => rfl, by simp⟩

theorem floatsRun : ∀ r ∈ floatRows, r.Runs := by
  simp only [floatRows, List.forall_mem_cons]
  exact ⟨fun _ _ _ => rfl, fun _ _ _ => rfl, fun _ _ _ => rfl, fun _ _ _ => rfl, fun _ _ _ => rfl,
    fun _ _ _ => rfl, fun _ _ _ => rfl, fun _ _ _ => rfl, fun _ _ _ => rfl, fun _ _ _ => rfl,
    fun _ _ _ => rfl, fun _ _ _ => rfl, fun _ _ _ => rfl, fun _ _ _ => rfl, fun _ _ _ => rfl, by simp⟩

/-- Settles O2: each row runs as a pushing instruction with its result, and such an instruction completes. -/
theorem vectorInstructionsPush : Obligations.VectorInstructionsPush :=
  ⟨VRow.complete_of_runs movesRun, VRow.complete_of_runs shiftsRun, VRow.complete_of_runs integersRun,
    VRow.complete_of_runs floatsRun⟩

end Sys2Proof.Machine
end

section
/-! SELP, CVTW, CVTFI and CVTN (R108, R119, R160, R169). -/

namespace Sys2Proof.Machine

open Sys2Proof

/-- A conversion that reaches its pipe pushes what it makes of its operands, and draws nothing from the generator. -/
theorem Reaches.pushes {g : Gid} {f : RegForm} {w : Word64} {legal : State → Bool} {fs : List (BitVec 7)}
    {fl : List Bool} {q : Nat} {s u : State} (val : (Nat → Nat → Word32) → State → Nat → Word32)
    (hval : ∀ x, val x (popSrcs (gi g) g.g (u.active g f) fs u) = val x u)
    (h : Reaches g w (legal u) fs (u.active g f) (u.active g f) (some q) s u) :
    ∃ t, issue g w legal fs fl (fun x => x.guard f.pred f.pneg) (fun x => x.guard f.pred f.pneg) (some q)
        (fun rd s => pushQ (gi g) g.g (s.active g f) q (val rd s) s) s = .next t ∧
      PushDone g fs (u.active g f) (u.active g f) q (val (operand u g fs fl) u) [] u t ∧
      (t.slot (gi g) g.g).sr = (u.slot (gi g) g.g).sr := by
  have hguard := (movesQueues_popSrcs (gi g) g.g (u.active g f) fs u).guard f.pred f.pneg
  have hissue := Reaches.issue_eq (srcAct := fun x => x.guard f.pred f.pneg) (act := fun x => x.guard f.pred f.pneg)
    (legal := legal) (fl := fl) (body := fun rd s => pushQ (gi g) g.g (s.active g f) q (val rd s) s) h
  refine ⟨_, hissue.trans ?_, pushDone_commit ..⟩
  exact congrArg₂ (fun act v => Host.Outcome.next (commit g (pushQ (gi g) g.g act q v _))) hguard (hval _)

/-- SELP, CVTW and CVTFI push their results. -/
theorem selectAndWidenPush : SelectAndWidenPush := by
  intro g f s u
  refine ⟨fun h => ?selp, fun h => ?cvtw, fun h => ?cvtfi⟩
  case selp =>
    have hmask := (movesQueues_popSrcs (gi g) g.g (u.active g f) (usedSrcs 2 f) u).predMask (modAux f)
    exact h.pushes (fun rd v k => if ((v.slot (gi g) g.g).predMask (modAux f)).getLsbD k then rd 0 k else rd 1 k)
      (fun x => by rw [hmask])
  case cvtw => exact h.pushes (fun rd _ k => widen (modFmt f) (elemOf f (rd 0 k))) (fun _ => rfl)
  case cvtfi => exact h.pushes (fun rd _ k => cvtfi (typeSigned f) (modRnd f == 2) (rd 0 k)) (fun _ => rfl)

/-! ### CVTN -/

/-- The entries a push leaves in the core-wide queues do not depend on the slots. -/
theorem Core.pushWide_setSlot (c : Core) (g : Nat) (x : Slot) (w : WideQ) (e : Entry) :
    (c.setSlot g x).pushWide w e = (c.pushWide w e).setSlot g x := by
  have hset (es) : (c.setSlot g x).setWide w es = (c.setWide w es).setSlot g x := by cases w <;> rfl
  have htake (d : Core) : (d.setSlot g x).loaderTake = d.loaderTake.setSlot g x := by
    unfold Core.loaderTake
    rw [show (d.setSlot g x).tns = d.tns from rfl]
    split
    · rfl
    · split <;> rfl
  have hwide : (c.setSlot g x).wide w = c.wide w := by cases w <;> rfl
  rw [Core.pushWide, Core.pushWide, hwide, hset, htake]

/-- What a push leaves in the core-wide queues does not depend on the slot it is from. -/
theorem pushQ_wide_updSlot (i g : Nat) (act : Word64) (q : Nat) (v : Nat → Word32) (f : Slot → Slot) (s : State) :
    ((pushQ i g act q v (updSlot i g f s)).core i).tns = ((pushQ i g act q v s).core i).tns ∧
      ((pushQ i g act q v (updSlot i g f s)).core i).qi = ((pushQ i g act q v s).core i).qi := by
  have hcore (h : Slot → Slot) (t : State) : (updSlot i g h t).core i = (t.core i).setSlot g (h (t.slot i g)) := by
    unfold updSlot State.setSlot
    rw [State.core_setCore, if_pos rfl]
  unfold pushQ
  rw [show (updSlot i g f s).boundOut i g q = s.boundOut i g q from rfl,
    show (updSlot i g f s).binding i g q = s.binding i g q from rfl]
  split
  · rw [hcore]
    exact ⟨rfl, rfl⟩
  · split
    · simp only [State.core_updCore, if_true, hcore, Core.pushWide_setSlot]
      exact ⟨rfl, rfl⟩
    · simp only [hcore]
      exact ⟨rfl, rfl⟩

section
variable (g : Gid) (fs : List (BitVec 7)) (act : Word64) (u : State)

/-- Pops, a step of the generator, a push and the commit. -/
theorem pushDone_draw_commit (q : Nat) (v : Nat → Word32) (r : BitVec 16 → BitVec 16) :
    let t := commit g (pushQ (gi g) g.g act q v
      (updSlot (gi g) g.g (fun x => { x with sr := r x.sr }) (popSrcs (gi g) g.g act fs u)))
    PushDone g fs act act q v [] u t ∧ (t.slot (gi g) g.g).sr = r (u.slot (gi g) g.g).sr := by
  set p := popSrcs (gi g) g.g act fs u with hp
  set m := updSlot (gi g) g.g (fun x => { x with sr := r x.sr }) p with hm
  have hpops := movesQueues_popSrcs (gi g) g.g act fs u
  have hdraw : MovesSlot (gi g) g.g p m := movesSlot_updSlot rfl
  have hpush := movesQueues_pushQ (gi g) g.g act q v m
  have hslotm : m.slot (gi g) g.g = { p.slot (gi g) g.g with sr := r (p.slot (gi g) g.g).sr } := by
    rw [hm, State.slot_updSlot, if_pos ⟨rfl, rfl⟩]
  have hslot : (commit g (pushQ (gi g) g.g act q v m)).slot (gi g) g.g = { u.slot (gi g) g.g with
      pc := ((commit g (pushQ (gi g) g.g act q v m)).slot (gi g) g.g).pc,
      queues := ((commit g (pushQ (gi g) g.g act q v m)).slot (gi g) g.g).queues,
      sr := r (u.slot (gi g) g.g).sr } := by
    rw [commit, slot_commitTo, if_pos ⟨rfl, rfl⟩, hpush.slot, hslotm, hpops.slot]
  have hsr := congrArg Slot.sr hslot
  refine ⟨⟨issued_commit (hpops.toSlot.trans (hdraw.trans hpush.toSlot)), ⟨fun n k hn hk => ?_, ?_⟩, ?_⟩, hsr⟩
  · have hqueue : (m.slot (gi g) g.g).queue n k = (p.slot (gi g) g.g).queue n k := by rw [hslotm]; rfl
    have hbound : m.boundOut (gi g) g.g n = u.boundOut (gi g) g.g n := hpops.boundOut n
    rw [commit, slot_commitTo, if_pos ⟨rfl, rfl⟩]
    refine (queue_pushQ _ _ _ _ _ _ _ _ hk hn).trans ?_
    rw [hqueue, hbound, queue_popSrcs _ _ _ _ _ _ _ hk hn]
    simp only [Option.some.injEq]
  · obtain ⟨htns, hqi⟩ := pushQ_wide_updSlot (gi g) g.g act q v (fun x => { x with sr := r x.sr }) p
    exact ⟨(core_commitTo_tns ..).trans htns, (core_commitTo_qi ..).trans hqi⟩
  · rw [hsr]
    exact hslot

/-- Pops do not see a counter. -/
theorem popSrcs_count (i h a n : Nat) :
    popSrcs i h act fs (u.count a n) = (popSrcs i h act fs u).count a n := by
  have hone (q : Nat) (s : State) : popOne i h act fs q (s.count a n) = (popOne i h act fs q s).count a n := by
    unfold popOne
    rw [show (s.count a n).boundIn i h q = s.boundIn i h q from rfl]
    split
    · rfl
    · split <;> rfl
  have heach : ∀ (l : List Nat) (s : State),
      forEach l (popOne i h act fs) (s.count a n) = (forEach l (popOne i h act fs) s).count a n := by
    intro l
    induction l with
    | nil => exact fun _ => rfl
    | cons q l ih => exact fun s => (congrArg (forEach l (popOne i h act fs)) (hone q s)).trans (ih _)
  rw [popSrcs_eq, popSrcs_eq, heach]

/-- A push does not see a counter. -/
theorem pushQ_count (i h q a n : Nat) (v : Nat → Word32) :
    pushQ i h act q v (u.count a n) = (pushQ i h act q v u).count a n := by
  unfold pushQ
  rw [show (u.count a n).boundOut i h q = u.boundOut i h q from rfl]
  split
  · rfl
  · split <;> rfl

/-- A counter more that may move. -/
theorem pushDone_weaken {src : Word64} {q : Nat} {v : Nat → Word32} {t : State}
    (h : PushDone g fs src act q v [] u t) (cnt : List Nat) : PushDone g fs src act q v cnt u t := by
  obtain ⟨⟨hpc, hslots, hcores, hcore, hissue, hlive, hrest⟩, hqueues, hslot⟩ := h
  exact ⟨⟨hpc, hslots, hcores, hcore, hissue, fun b hb _ => hlive b hb (by simp), hrest⟩, hqueues, hslot⟩

/-- What issues from a state in which one counter has moved, issues from the state before with that counter. -/
theorem pushDone_of_count {src : Word64} {q a n : Nat} {v : Nat → Word32} {t : State}
    (h : PushDone g fs src act q v [] (u.count a n) t) (ha : Reg.CORE_CNT_ISSUE g.s g.c ≠ a) :
    PushDone g fs src act q v [a] u t := by
  obtain ⟨⟨hpc, hslots, hcores, hcore, hissue, hlive, hreg, hstate⟩, ⟨hqueues, hwide⟩, hslot⟩ := h
  refine ⟨⟨hpc, hslots, hcores, hcore, ?_, fun b hb hba => ?_, hreg, hstate⟩, ⟨hqueues, ?_⟩, hslot⟩
  · rw [hissue, State.liveAt_count, if_neg ha]
  · have hba : b ≠ a := fun e => hba (by simp [e])
    rw [hlive b hb (by simp), State.liveAt_count, if_neg hba]
  · simp only [popSrcs_count, pushQ_count, State.count_core] at hwide
    exact hwide

end

/-- A narrowing in the state `s` whose pops are made: the active threads, whether and from which value the generator is
drawn from, and the mode of an overflow are those it is given (R119, R160, R169). -/
def narrowEffect (g : Gid) (f : RegForm) (rd : Nat → Nat → Word32) (act : Word64) (sr : Bool) (gen : BitVec 16)
    (mode : Bool) (s : State) : State :=
  let rnd (k : Nat) : Rnd := if sr then .sr ((srDraws 64 gen).getD k 0) else if modRnd f = 2 then .rtz else .rne
  let res (k : Nat) : Nat × Bool := narrow (modFmt f) mode (rnd k) (rd 0 k)
  let n := (List.range 64).countP fun k => act.getLsbD k && (res k).2
  let s := if n = 0 then s else s.count (Reg.CORE_CNT_OVF g.s g.c) n
  let s := if sr then updSlot (gi g) g.g (fun x => { x with sr := srAdvance 64 x.sr }) s else s
  pushQ (gi g) g.g act f.dst.toNat (fun k => putElem f (rd 1 k) (res k).1) s

/-- CVTN issues a narrowing by what the state holds once the pops are made. -/
theorem execCvtn_eq (g : Gid) (f : RegForm) (s : State) :
    execCvtn g f s = issue g (encReg 0 0x40 f)
      (fun s => vForm 2 [0] f (fun _ => true) (fun _ => true) (fun r => decide (r < 3)) && elemOk f && dstQ f.dst &&
        !(s.srUsed f && s.exact && !(s.slot (gi g) g.g).seeded))
      (usedSrcs 2 f) [true, false] (fun x => x.guard f.pred f.pneg) (fun x => x.guard f.pred f.pneg) (some f.dst.toNat)
      (fun rd s => narrowEffect g f rd (s.active g f) (s.srUsed f) (s.slot (gi g) g.g).sr
        (s.modeBit F.GCTL_MODE.OVF) s) s := rfl

/-- Pops, a count, a step of the generator where `sr` says so, a push and the commit. -/
theorem pushDone_narrow_commit (g : Gid) (fs : List (BitVec 7)) (act : Word64) (u : State) (q n : Nat)
    (v : Nat → Word32) (sr : Bool) :
    let p := popSrcs (gi g) g.g act fs u
    let c := if n = 0 then p else p.count (Reg.CORE_CNT_OVF g.s g.c) n
    let d := if sr then updSlot (gi g) g.g (fun x => { x with sr := srAdvance 64 x.sr }) c else c
    let t := commit g (pushQ (gi g) g.g act q v d)
    PushDone g fs act act q v [Reg.CORE_CNT_OVF g.s g.c] u t ∧
      t.liveAt (Reg.CORE_CNT_OVF g.s g.c) =
        (if n = 0 then u.liveAt (Reg.CORE_CNT_OVF g.s g.c)
          else min (u.liveAt (Reg.CORE_CNT_OVF g.s g.c) + n) 0xFFFFFFFF) ∧
      (t.slot (gi g) g.g).sr = if sr then srAdvance 64 (u.slot (gi g) g.g).sr else (u.slot (gi g) g.g).sr := by
  intro p c d t
  have hne : Reg.CORE_CNT_OVF g.s g.c ≠ Reg.CORE_CNT_ISSUE g.s g.c := by
    unfold Reg.CORE_CNT_OVF Reg.CORE_CNT_ISSUE
    omega
  have hdone (w : State) (hw : c = popSrcs (gi g) g.g act fs w) (hslot : w.slot (gi g) g.g = u.slot (gi g) g.g) :
      PushDone g fs act act q v [] w t ∧
        (t.slot (gi g) g.g).sr = if sr then srAdvance 64 (u.slot (gi g) g.g).sr else (u.slot (gi g) g.g).sr := by
    rw [← hslot]
    simp only [t, d, hw]
    cases sr with
    | false => exact pushDone_commit ..
    | true => exact pushDone_draw_commit ..
  have hlive {w : State} (h : PushDone g fs act act q v [] w t) :
      t.liveAt (Reg.CORE_CNT_OVF g.s g.c) = w.liveAt (Reg.CORE_CNT_OVF g.s g.c) := by
    obtain ⟨⟨-, -, -, -, -, hlive, -⟩, -⟩ := h
    exact hlive _ hne (by simp)
  by_cases hn : n = 0
  · obtain ⟨hpush, hsr⟩ := hdone u (by simp [c, hn, p]) rfl
    exact ⟨pushDone_weaken _ _ _ _ hpush _, by rw [if_pos hn, hlive hpush], hsr⟩
  · obtain ⟨hpush, hsr⟩ := hdone (u.count (Reg.CORE_CNT_OVF g.s g.c) n) (by simp [c, hn, p, popSrcs_count]) rfl
    exact ⟨pushDone_of_count _ _ _ _ hpush hne.symm, by rw [if_neg hn, hlive hpush, State.liveAt_count, if_pos rfl], hsr⟩

/-- CVTN pushes, counts and draws. -/
theorem narrowingPushesAndCounts : NarrowingPushesAndCounts := by
  intro g f s u i act x sr rnd res ovf h
  have hmoves := movesQueues_popSrcs (gi g) g.g act (usedSrcs 2 f) u
  have hact : (popSrcs (gi g) g.g act (usedSrcs 2 f) u).active g f = act := hmoves.guard ..
  have hmode (y : Fld) : (popSrcs (gi g) g.g act (usedSrcs 2 f) u).modeBit y = u.modeBit y := by
    rw [hmoves.state]
    rfl
  have hgen : ((popSrcs (gi g) g.g act (usedSrcs 2 f) u).slot (gi g) g.g).sr = (u.slot (gi g) g.g).sr := by
    rw [hmoves.slot]
  have hsr : (popSrcs (gi g) g.g act (usedSrcs 2 f) u).srUsed f = sr := congrArg (modRnd f == 1 && ·) (hmode _)
  have harm : exec (.cvtn g f) s = execCvtn g f s := rfl
  have hbody : ∀ p, p = popSrcs (gi g) g.g act (usedSrcs 2 f) u →
      narrowEffect g f x (p.active g f) (p.srUsed f) (p.slot (gi g) g.g).sr (p.modeBit F.GCTL_MODE.OVF) p =
        narrowEffect g f x act sr (u.slot (gi g) g.g).sr (u.modeBit F.GCTL_MODE.OVF) p := by
    rintro _ rfl
    rw [hact, hsr, hgen, hmode]
  exact ⟨_, harm.trans ((execCvtn_eq g f s).trans (h.issue_eq.trans
      (congrArg (fun m => Host.Outcome.next (commit g m)) (hbody _ rfl)))),
    pushDone_narrow_commit g (usedSrcs 2 f) act u f.dst.toNat ovf (fun k => putElem f (x 1 k) (res k).1) sr⟩

/-- Settles O3. -/
theorem conversionsPush : Obligations.ConversionsPush := ⟨selectAndWidenPush, narrowingPushesAndCounts⟩

end Sys2Proof.Machine
end

section
/-! S-class instructions (R81, R82, R109, R117) and branches (R131, R132). -/

namespace Sys2Proof.Machine

open Sys2Proof

/-! ### Sources that are no queues -/

section
variable {fs : List (BitVec 7)} (hfs : fs.all srcScalar = true)
include hfs

theorem isQueue_of_srcScalar {x : BitVec 7} (hx : x ∈ fs) : isQueue x = false := by
  have := List.all_eq_true.1 hfs x hx
  simp only [srcScalar, decide_eq_true_eq] at this
  simp only [isQueue, decide_eq_false_iff_not]
  omega

/-- Nothing is popped of sources that are no queues. -/
theorem popSrcs_scalars (i g : Nat) (act : Word64) (s : State) : popSrcs i g act fs s = s := by
  have hnone : fs.filter (fun x => srcMode x = 0) = [] := by
    refine List.filter_eq_nil_iff.2 fun x hx h0 => ?_
    have hq := isQueue_of_srcScalar hfs hx
    simp only [decide_eq_true_eq] at h0
    simp [isQueue, h0] at hq
  rw [popSrcs_eq, hnone]
  rfl

/-- An instruction whose sources are no queues reaches its pipe with them as without. -/
theorem Reaches.of_scalars {g : Gid} {w : Word64} {legal : Bool} {src act : Word64} {push : Option Nat} {s u : State}
    (h : Reaches g w legal [] src act push s u) (hpush : push = none) : Reaches g w legal fs src act push s u := by
  obtain ⟨henter, hlegal, hbind, hfence, hinner, -, -⟩ := h
  subst hpush
  refine ⟨henter, hlegal, ?_, hfence, hinner, ?_, fun q hq => by cases hq⟩
  · simp only [bindOk, Bool.and_true, List.all_eq_true]
    intro x hx
    simp [isQueue_of_srcScalar hfs hx]
  · have hnone : (fs.zip (positions [] fs)).filter (fun x => isQueue x.1) = [] := by
      refine List.filter_eq_nil_iff.2 fun x hx => ?_
      simp [isQueue_of_srcScalar hfs (List.of_mem_zip hx).1]
    rw [readySrcs, hnone]
    rfl

/-- A write of scalar `d` by an instruction whose sources are no queues. -/
theorem scalarDone_commit (g : Gid) (d : Nat) (v : Word64) (u : State) :
    ScalarDone g d v u (commit g (updSlot (gi g) g.g (fun x => x.setSreg d v) (popSrcs (gi g) g.g 0 fs u))) := by
  have hdone := scalarWritten_commit g [] 0 0 u d v
  rw [popSrcs_scalars hfs]
  exact hdone

end

/-! ### Rows that write a scalar -/

/-- The row's command is the scalar instruction of its opcode and result. -/
def SRow.Runs (r : SRow) : Prop :=
  ∀ (g : Gid) (f : RegForm) (s : State), exec (r.make g f) s = scal r.op 2 g f r.res s

/-- The sources of a legal S-class form are scalars or immediates. -/
theorem scalars_of_sForm {n : Nat} {f : RegForm} {mod : Nat → Bool} {d : Bool} (h : (sForm n f mod && d) = true) :
    (usedSrcs n f).all srcScalar = true := by
  simp only [sForm, Bool.and_eq_true] at h
  obtain ⟨⟨⟨-, hsrcs⟩, -⟩, -⟩ := h
  exact hsrcs

theorem scal_writes {op : Nat} {g : Gid} {f : RegForm} (res : Word64 → Word64 → Word64) {s u : State}
    (h : Reaches g (encReg 1 op f) (sForm 2 f (fun m => m == 0) && dstS f.dst) [] 0 0 none s u) :
    ∃ t, scal op 2 g f res s = .next t ∧ ScalarDone g (f.dst.toNat - 32)
      (res (srcVal64 (u.slot (gi g) g.g) f.a) (srcVal64 (u.slot (gi g) g.g) f.b)) u t := by
  have hfs := scalars_of_sForm h.legal
  have hpop := popSrcs_scalars hfs (gi g) g.g 0 u
  refine ⟨_, (h.of_scalars hfs rfl).issue_eq.trans ?_, scalarDone_commit hfs ..⟩
  exact congrArg (fun m => Host.Outcome.next (commit g m)) (updSlot_congr (by rw [hpop]))

theorem toNat_low6 (b : Word64) : (b.extractLsb' 0 6).toNat = b.toNat % 64 := by
  simp

theorem smin_eq (a b : Word64) : (if a.slt b then a else b) = if a.toInt ≤ b.toInt then a else b := by
  simp only [BitVec.slt_iff_toInt_lt]
  by_cases h : a.toInt = b.toInt
  · rw [BitVec.toInt_inj.1 h]
    simp
  · have : a.toInt < b.toInt ↔ a.toInt ≤ b.toInt := by omega
    simp only [this]

theorem smax_eq (a b : Word64) : (if b.slt a then a else b) = if a.toInt ≤ b.toInt then b else a := by
  simp only [BitVec.slt_iff_toInt_lt, ← Int.not_le, ite_not]

theorem scalarRowsRun : ∀ r ∈ scalarRows, r.Runs := by
  simp only [scalarRows, toNat_low6, smin_eq, smax_eq, List.forall_mem_cons]
  exact ⟨fun _ _ _ => rfl, fun _ _ _ => rfl, fun _ _ _ => rfl, fun _ _ _ => rfl, fun _ _ _ => rfl,
    fun _ _ _ => rfl, fun _ _ _ => rfl, fun _ _ _ => rfl, fun _ _ _ => rfl, fun _ _ _ => rfl,
    fun _ _ _ => rfl, by simp⟩

theorem scalarRowsWriteScalar : ScalarRowsWriteScalar := by
  intro r hr g f s u x h
  rw [scalarRowsRun r hr g f s]
  exact scal_writes r.res h

/-- The row's command is the scalar instruction of its opcode, source and result. -/
def SImmRow.Runs (r : SImmRow) : Prop :=
  ∀ (g : Gid) (f : ImmForm) (s : State), exec (r.make g f) s = scalImm r.op r.useA g f r.res s

theorem scalImm_writes {op : Nat} {useA : Bool} {g : Gid} {f : ImmForm} (res : Word64 → Word64 → Word64 → Word64)
    {s u : State} (h : Reaches g (encImm 1 op f) (sImmForm useA f && dstS f.dst) [] 0 0 none s u) :
    ∃ t, scalImm op useA g f res s = .next t ∧ ScalarDone g (f.dst.toNat - 32)
      (res ((u.slot (gi g) g.g).pc.setWidth 64) (srcVal64 (u.slot (gi g) g.g) f.a) (f.imm.signExtend 64)) u t := by
  have hfs : (if useA then [f.a] else []).all srcScalar = true := by
    have hlegal := h.legal
    cases useA with
    | false => rfl
    | true =>
      simp only [sImmForm, if_true, Bool.and_eq_true] at hlegal
      obtain ⟨⟨⟨-, hsrc⟩, -⟩, -⟩ := hlegal
      simpa using hsrc
  have hpop := popSrcs_scalars hfs (gi g) g.g 0 u
  refine ⟨_, (h.of_scalars hfs rfl).issue_eq.trans ?_, scalarDone_commit hfs ..⟩
  exact congrArg (fun m => Host.Outcome.next (commit g m)) (updSlot_congr (by rw [hpop]))

/-- SLIH puts the low half of its immediate above the low half of its source. -/
theorem slih_eq (a i : Word64) :
    BitVec.ofNat 64 (i.toNat % 2 ^ 32 * 2 ^ 32 + a.toNat % 2 ^ 32) =
      (a &&& (0xFFFFFFFF : Word64)) ||| (i <<< (32 : Nat)) := by
  have hmask : (a &&& (0xFFFFFFFF : Word64)).toNat = a.toNat % 2 ^ 32 := Nat.and_two_pow_sub_one_eq_mod a.toNat 32
  have hi : i.toNat * 2 ^ 32 % 2 ^ 64 = i.toNat % 2 ^ 32 * 2 ^ 32 := Nat.mul_mod_mul_right (2 ^ 32) i.toNat (2 ^ 32)
  apply BitVec.eq_of_toNat_eq
  rw [BitVec.toNat_ofNat, BitVec.toNat_or, hmask, BitVec.toNat_shiftLeft, Nat.shiftLeft_eq, hi, Nat.lor_comm,
    ← Nat.shiftLeft_eq, ← Nat.shiftLeft_add_eq_or_of_lt (Nat.mod_lt _ (by decide)), Nat.shiftLeft_eq]
  exact Nat.mod_eq_of_lt (by omega)

theorem scalarImmRowsRun : ∀ r ∈ scalarImmRows, r.Runs := by
  simp only [scalarImmRows, slih_eq, List.forall_mem_cons]
  exact ⟨fun _ _ _ => rfl, fun _ _ _ => rfl, fun _ _ _ => rfl, fun _ _ _ => rfl, by simp⟩

theorem scalarImmediatesWriteScalar : ScalarImmediatesWriteScalar := by
  intro r hr g f s u x h
  rw [scalarImmRowsRun r hr g f s]
  exact scalImm_writes r.res h

/-! ### Transfers between scalars and predicates -/

/-- The condition codes of a scalar compare (Table 4-8). -/
theorem intCond_eq_scalarCond (c : Nat) (a b : Word64) : c < 8 →
    intCond 64 c true a.toNat b.toNat = scalarCond c a b := by
  have hsigned (x : Word64) : signedOf 64 x.toNat = x.toInt := by
    have := x.isLt
    rw [BitVec.toInt_eq_toNat_cond, signedOf, Nat.mod_eq_of_lt this]
    split <;> split <;> omega
  have heq : (a.toNat == b.toNat) = (a == b) := by
    rw [Bool.eq_iff_iff, beq_iff_eq, beq_iff_eq, BitVec.toNat_inj]
  intro hc
  unfold intCond
  simp only [hsigned, if_true]
  match c, hc with
  | 0, _ => exact heq
  | 1, _ => exact congrArg not heq
  | 2, _ | 3, _ | 4, _ | 5, _ | 6, _ | 7, _ => rfl

/-- SCMP, PGET, PSET and SNOP. -/
theorem scalarTransfersWrite : ScalarTransfersWrite := by
  intro g f s u x
  refine ⟨fun h => ?scmp, fun h => ?pget, fun h => ?pset, fun h => ?snop⟩
  case scmp =>
    have hfs := scalars_of_sForm h.legal
    have hpop := popSrcs_scalars hfs (gi g) g.g 0 u
    have hcode : bitsOf f.mod.toNat 18 4 < 8 := by
      have hlegal := h.legal
      simp only [sForm, Bool.and_eq_true, decide_eq_true_eq] at hlegal
      obtain ⟨⟨-, -, hcode⟩, -⟩ := hlegal
      exact hcode
    have harm : exec (.scmp g f) s = execScmp g f s := rfl
    refine ⟨_, harm.trans ((h.of_scalars hfs rfl).issue_eq.trans ?_), scalarDone_commit hfs ..⟩
    exact congrArg (fun m => Host.Outcome.next (commit g m))
      (updSlot_congr (by rw [hpop, intCond_eq_scalarCond _ _ _ hcode]))
  case pget =>
    have harm : exec (.pget g f) s = execPget g f s := rfl
    exact ⟨_, harm.trans h.issue_eq, scalarDone_commit (fs := []) rfl ..⟩
  case pset =>
    have hfs := scalars_of_sForm h.legal
    have hpop := popSrcs_scalars hfs (gi g) g.g 0 u
    have harm : exec (.pset g f) s = execPset g f s := rfl
    have hdone := predWritten_commit g [] 0 0 u (f.dst.toNat % 8) (srcVal64 x f.a)
    refine ⟨_, harm.trans ((h.of_scalars hfs rfl).issue_eq.trans ?_), hdone⟩
    exact congrArg (fun m => Host.Outcome.next (commit g m)) (by rw [hpop]; rfl)
  case snop =>
    have harm : exec (.snop g f) s = execSnop g f s := rfl
    refine ⟨commit g u, harm.trans h.issue_eq, issued_commit (MovesQueues.refl ..).toSlot, ?_, core_commitTo_tns ..,
      core_commitTo_qi ..⟩
    rw [commit, slot_commitTo, if_pos ⟨rfl, rfl⟩]

/-- Settles O5: the rows of both layouts run as `scal` and `scalImm`, which write their result. -/
theorem scalarInstructionsWrite : Obligations.ScalarInstructionsWrite :=
  ⟨scalarRowsWriteScalar, scalarImmediatesWriteScalar, scalarTransfersWrite⟩

/-! ### Reductions -/

/-- One level of the tree pairs the values of 2 n threads. -/
theorem pairUp_range (c : Word64 → Word64 → Word64) (n : Nat) (v : Nat → Word64) :
    pairUp c ((List.range (2 * n)).map v) = (List.range n).map fun k => c (v (2 * k)) (v (2 * k + 1)) := by
  induction n generalizing v with
  | zero => rfl
  | succ n ih =>
    rw [Nat.mul_succ, List.range_succ_eq_map, List.range_succ_eq_map, List.range_succ_eq_map]
    simp only [List.map_cons, List.map_map, pairUp]
    exact congrArg _ (ih fun k => v (k + 2))

/-- The tree over the 64 values is six pairings. -/
theorem treeX_range (c : Word64 → Word64 → Word64) (v : Nat → Word64) :
    treeX c ((List.range 64).map v) = pairwise64 c v 6 0 := by
  have hlevel (n k : Nat) :
      pairUp c ((List.range (2 * n)).map (pairwise64 c v k)) = (List.range n).map (pairwise64 c v (k + 1)) :=
    pairUp_range c n _
  have h0 : (List.range 64).map v = (List.range (2 * 32)).map (pairwise64 c v 0) := rfl
  rw [treeX, h0, hlevel 32, hlevel 16, hlevel 8, hlevel 4, hlevel 2, hlevel 1]
  rfl

/-- A sum over threads one after the other is the sum of their values. -/
theorem foldl_add_eq_sum (l : List Nat) (v : Nat → Int) : l.foldl (fun z k => z + v k) 0 = (l.map v).sum := by
  rw [List.sum_eq_foldl, List.foldl_map]

/-- The TYPE of a legal X-class form is one its opcode permits. -/
theorem xType_mem {n : Nat} {types : List Nat} {f : RegForm} {b : BitVec 7 → Bool} {d : Bool}
    (h : (xForm n types f b && d) = true) : xType f ∈ types := by
  simp only [xForm, Bool.and_eq_true, List.contains_iff_mem] at h
  obtain ⟨⟨⟨-, htype⟩, -⟩, -⟩ := h
  exact htype

/-- A reduction that reaches its pipe writes the value of all threads' operands and the active threads. -/
theorem reduceX_writes {op : Nat} {types legal : List Nat} {g : Gid} {f : RegForm}
    (res : (Nat → Word32) → Word64 → Word64) {s u : State}
    (h : Reaches g (encReg 5 op f) (xForm 1 legal f (fun _ => true) && dstS f.dst) (usedSrcs 1 f) (BitVec.allOnes 64) 0
      none s u) (hlegal : legal ⊆ types) :
    ∃ t, reduceX op types g f res s = .next t ∧ Issued g ((u.slot (gi g) g.g).pc + 8) [] u t ∧
      QueuesMoved g (usedSrcs 1 f) (BitVec.allOnes 64) 0 none (fun _ => 0) u t ∧
      ScalarWritten g (f.dst.toNat - 32) (res (operand u g (usedSrcs 1 f) [xType f == 2] 0) (u.active g f)) u t := by
  have hform : (xForm 1 types f (fun _ => true) && dstS f.dst) = true := by
    have hl := h.legal
    simp only [xForm, Bool.and_eq_true, List.contains_iff_mem] at hl ⊢
    obtain ⟨⟨⟨hsrc, htype⟩, hmod⟩, hdst⟩ := hl
    exact ⟨⟨⟨hsrc, hlegal htype⟩, hmod⟩, hdst⟩
  have hreach : Reaches g (encReg 5 op f) (xForm 1 types f (fun _ => true) && dstS f.dst) (usedSrcs 1 f)
      (BitVec.allOnes 64) 0 none s u := by
    obtain ⟨henter, -, hrest⟩ := h
    exact ⟨henter, hform, hrest⟩
  have hguard := (movesQueues_popSrcs (gi g) g.g (BitVec.allOnes 64) (usedSrcs 1 f) u).guard f.pred f.pneg
  refine ⟨_, hreach.issue_eq.trans ?_, scalarWritten_commit ..⟩
  exact congrArg (fun m => Host.Outcome.next (commit g m))
    (updSlot_congr (congrArg (fun a => Slot.setSreg _ _ (res _ a)) hguard))

/-- What RSIGN makes of the values and the active threads (R122). -/
def rsignValue (type : Nat) (x : Nat → Word32) (act : Word64) : Word64 :=
  let ts := (List.range 64).filter fun t => act.getLsbD t
  if type = 2 then signF32 (ts.map fun t => decF32 (x t))
  else signWord (ts.foldl (fun z t => z + if type = 0 then (x t).toInt else ((x t).toNat : Int)) 0)

theorem rsignValue_int {type : Nat} (h : type ≠ 2) (x : Nat → Word32) (act : Word64) :
    rsignValue type x act =
      let z : Int := (((List.range 64).filter fun k => act.getLsbD k).map fun k =>
        if type = 0 then (x k).toInt else ((x k).toNat : Int)).sum
      if z < 0 then BitVec.allOnes 64 else if z = 0 then 0 else 1 := by
  simp only [rsignValue, if_neg h, foldl_add_eq_sum]
  rfl

/-- Settles O6: each reduction runs as `reduceX`, which writes its result; the tree of R121 is the one of `treeX_range`. -/
theorem reductionsWriteScalar : Obligations.ReductionsWriteScalar := by
  intro g f s u act all ty x reduces reaches
  have hmem : ([0, 1] : List Nat) ⊆ [0, 1, 2] := by decide
  have hmem2 : ([2] : List Nat) ⊆ [0, 1, 2] := by decide
  refine ⟨fun h => ?rany, fun h => ?rall, fun h => ?rsum, fun h => ?rmax, fun h => ?rsign, fun h => ?rsignF32⟩
  case rany =>
    exact reduceX_writes (op := 0x00) (types := [0])
      (fun x act => if (List.range 64).any fun k => act.getLsbD k && x k != 0 then 1 else 0) h (List.Subset.refl _)
  case rall =>
    have himp (p q : Bool) : decide (p = true → q = true) = (!p || q) := by cases p <;> cases q <;> rfl
    simp only [reduces, himp]
    exact reduceX_writes (op := 0x01) (types := [0])
      (fun x act => if (List.range 64).all fun k => !act.getLsbD k || x k != 0 then 1 else 0) h (List.Subset.refl _)
  case rsum =>
    simp only [reduces, ← treeX_range]
    exact reduceX_writes (op := 0x02) (reduceTree ty (identSum ty) (combineSum ty)) h (List.Subset.refl _)
  case rmax =>
    simp only [reduces, ← treeX_range]
    exact reduceX_writes (op := 0x03) (reduceTree ty (identMax ty) (combineMax ty)) h (List.Subset.refl _)
  case rsign =>
    have htype : ty ≠ 2 := fun h2 => by simpa [show xType f = 2 from h2] using xType_mem h.legal
    have hwrites : reduces (.rsign g f) (rsignValue ty x act) :=
      reduceX_writes (op := 0x04) (types := [0, 1, 2]) (rsignValue ty) h hmem
    rwa [rsignValue_int htype] at hwrites
  case rsignF32 =>
    have htype : ty = 2 := by simpa using xType_mem h.legal
    have hwrites : reduces (.rsign g f) (rsignValue ty x act) :=
      reduceX_writes (op := 0x04) (types := [0, 1, 2]) (rsignValue ty) h hmem2
    rwa [show rsignValue ty x act = rsignValue 2 x act by rw [htype]] at hwrites

/-! ### Branches -/

/-- A control instruction whose sources are no queues does what it does when its word is its group's next, legal and not
held back. -/
theorem Reaches.issueC_eq {g : Gid} {w : Word64} {ok : State → Bool} {go : State → State} {fs : List (BitVec 7)}
    {s u : State} (h : Reaches g w (ok u) [] 0 0 none s u) : issueC g w ok go s fs = .next (go u) := by
  obtain ⟨henter, hlegal, -, hfence, hinner, -, -⟩ := h
  unfold issueC
  rw [withTraps_enter henter]
  simp [henter, hlegal, hfence, readInner_nil hinner]

/-- Settles O8: what `commitTo` does with the next address of each branch. -/
theorem branchesMoveThePc : Obligations.BranchesMoveThePc := by
  refine ⟨?br, ?jr⟩
  case br =>
    intro g f s u x taken h
    have hcode : f.cond.toNat ≤ 8 := by
      have hlegal := h.legal
      simp only [Bool.and_eq_true, decide_eq_true_eq] at hlegal
      exact hlegal.2
    have htaken : intCond 64 f.cond.toNat true (srcVal64 x f.a).toNat 0 = taken := by
      by_cases h8 : f.cond = 8
      · simp only [taken, h8, if_true]
        rfl
      · have hlt : f.cond.toNat < 8 := lt_of_le_of_ne hcode fun e => h8 (BitVec.eq_of_toNat_eq e)
        simp only [taken, h8, if_false]
        exact intCond_eq_scalarCond _ _ 0 hlt
    have harm : exec (.br g f) s = execBr g f s := rfl
    refine ⟨commitTo g (if taken then x.pc + f.imm.signExtend 40 * 8 else x.pc + 8) u, ?_,
      issued_commitTo (MovesQueues.refl ..).toSlot, ?_, core_commitTo_tns .., core_commitTo_qi ..⟩
    · rw [harm, ← htaken]
      exact h.issueC_eq
    · rw [slot_commitTo, if_pos ⟨rfl, rfl⟩]
  case jr =>
    intro g f s u x v h
    have harm : exec (.jr g f) s = execJr g f s := rfl
    refine ⟨commitTo g (v.setWidth 40) u, harm.trans h.issueC_eq, issued_commitTo (MovesQueues.refl ..).toSlot, ?_,
      core_commitTo_tns .., core_commitTo_qi ..⟩
    rw [slot_commitTo, if_pos ⟨rfl, rfl⟩]

end Sys2Proof.Machine
end

section
/-! A step's command. -/

namespace Sys2Proof.Machine

open Sys2Proof

/-- Settles O1: with a command in front, a step is that command's run. -/
theorem stepRunsFront : Obligations.StepRunsFront := fun _ _ _ => rfl

end Sys2Proof.Machine
end

section
/-! FENCE, TFENCE, ENDT and EXIT, and the ends of their waits (R134-R137). -/

namespace Sys2Proof.Machine

open Sys2Proof

/-- A group that waits is past its instruction and issues nothing. -/
theorem waitFor_waits {g : Gid} {w : SlotWait} (hw : (w == .none) = false) (u : State) :
    let t := waitFor g w u
    let x := u.slot (gi g) g.g
    Issued g (x.pc + 8) [] u t ∧ t.slot (gi g) g.g = { x with pc := x.pc + 8, wait := w } ∧
      t.canIssue (gi g) g.g = false ∧ (t.core (gi g)).tns = (u.core (gi g)).tns ∧
      (t.core (gi g)).qi = (u.core (gi g)).qi := by
  have hmoves : MovesSlot (gi g) g.g u (updSlot (gi g) g.g (fun x => { x with wait := w }) u) := movesSlot_updSlot rfl
  have hslot : (waitFor g w u).slot (gi g) g.g =
      { u.slot (gi g) g.g with pc := (u.slot (gi g) g.g).pc + 8, wait := w } := by
    rw [waitFor, commit, slot_commitTo, if_pos ⟨rfl, rfl⟩, State.slot_updSlot, if_pos ⟨rfl, rfl⟩]
  have hcore : (updSlot (gi g) g.g (fun x => { x with wait := w }) u).core (gi g) =
      (u.core (gi g)).setSlot g.g { u.slot (gi g) g.g with wait := w } := by
    unfold updSlot State.setSlot
    rw [State.core_setCore, if_pos rfl]
  refine ⟨issued_commit hmoves, hslot, ?_, ?_, ?_⟩
  · simp only [State.canIssue, hslot, hw, Bool.and_false, Bool.false_and]
  · exact (core_commitTo_tns ..).trans (by rw [hcore]; rfl)
  · exact (core_commitTo_qi ..).trans (by rw [hcore]; rfl)

/-- The MOD field of a legal C-class form is one its opcode permits. -/
theorem mod_of_cForm {n : Nat} {f : RegForm} {mod : Nat → Bool} (h : cForm n f mod = true) :
    mod f.mod.toNat = true := by
  simp only [cForm, Bool.and_eq_true] at h
  exact h.2

/-- A form legal for fewer MOD values is legal. -/
theorem cForm_mono {n : Nat} {f : RegForm} {mod mod' : Nat → Bool} (h : cForm n f mod = true)
    (hmod : mod' f.mod.toNat = true) : cForm n f mod' = true := by
  simp only [cForm, Bool.and_eq_true] at h ⊢
  exact ⟨h.1, hmod⟩

/-- An instruction reaches its pipe in whatever way its form is known to be legal. -/
theorem Reaches.of_legal {g : Gid} {w : Word64} {l l' : Bool} {fs : List (BitVec 7)} {src act : Word64}
    {push : Option Nat} {s u : State} (h : Reaches g w l fs src act push s u) (hl : l' = true) :
    Reaches g w l' fs src act push s u := by
  obtain ⟨henter, -, hrest⟩ := h
  exact ⟨henter, hl, hrest⟩

/-- A completion changes one slot alone. -/
theorem updSlot_onlyCore (i g : Nat) (f : Slot → Slot) (s : State) :
    (updSlot i g f s).slot i g = f (s.slot i g) ∧ (∀ h, h ≠ g → (updSlot i g f s).slot i h = s.slot i h) ∧
      OnlyCore i s (updSlot i g f s) := by
  refine ⟨by rw [State.slot_updSlot, if_pos ⟨rfl, rfl⟩], fun h hh => ?_, fun j hj => ?_, rfl⟩
  · rw [State.slot_updSlot, if_neg (fun e => hh e.2)]
  · unfold updSlot State.setSlot
    rw [State.core_setCore, if_neg hj]

/-- A slot emptied is the only one of its core that changes. -/
theorem emptySlot_onlyCore (i g : Nat) (s : State) :
    (emptySlot i g s).slot i g = Slot.reset ∧ (∀ h, h ≠ g → (emptySlot i g s).slot i h = s.slot i h) ∧
      OnlyCore i s (emptySlot i g s) := by
  have hslots (c : Core) : c.rpSettle.slots = c.slots := by
    unfold Core.rpSettle
    split <;> rfl
  have hslot (h : Nat) : (emptySlot i g s).slot i h = if h = g then Slot.reset else s.slot i h := by
    simp only [State.slot, emptySlot, State.core_updCore, if_true, Core.slot, hslots, Core.setSlot, sget_sset]
  refine ⟨by rw [hslot, if_pos rfl], fun h hh => by rw [hslot, if_neg hh], fun j hj => ?_, rfl⟩
  rw [emptySlot, State.core_updCore, if_neg hj]

/-- A fence whose accesses are finished makes the write-backs of its scope, and completes or waits for a fetch of them. -/
theorem execFenceComplete_eq {g : Gid} {s : State} {scope base len : Nat} (hup : s.down = false)
    (hwait : (s.slot (gi g) g.g).wait = .fence scope base len) (hstate : (s.slot (gi g) g.g).state = .running)
    (hruns : s.coreRuns (gi g) = true) (hbusy : s.slotBusy (gi g) g.g = false) :
    let v := if scope = 0 then s else l1WriteBack (scope == 2) (gi g) s
    exec (.fenceComplete g) s =
      if scope != 0 && v.l2StoreWaits (gi g / 16) (16 * gi g + 8) then .next v
      else .next (updSlot (gi g) g.g (fun x => { x with wait := .none })
        (if scope = 3 then l2FlushRange (gi g / 16) { master := missMaster (gi g) } base len false v else v)) := by
  have harm : exec (.fenceComplete g) s = execFenceComplete g s := rfl
  rw [harm, execFenceComplete, ifUp_eq hup]
  simp only [hwait, hstate, hruns, hbusy]
  rfl

/-- Settles O9: the instructions wait by `waitFor`; each completion changes its slot alone, but for the write-backs of a
fence. -/
theorem waitsBeginAndEnd : Obligations.WaitsBeginAndEnd := by
  refine ⟨?begin, ?complete, ?fences⟩
  case begin =>
    intro g f s u x waits reaches
    refine ⟨fun h => ?fence, fun h => ?fence3, fun h => ?tfence, fun h => ?endt, fun h => ?exit⟩
    case fence =>
      have hmod : f.mod.toNat < 3 := of_decide_eq_true (mod_of_cForm h.legal)
      have hscope : f.mod.toNat % 8 = f.mod.toNat := by omega
      have hne : f.mod.toNat ≠ 3 := by omega
      have hform : cForm (if f.mod.toNat % 8 = 3 then 2 else 0) f (fun m => decide (m < 4)) = true := by
        rw [hscope, if_neg hne]
        exact cForm_mono h.legal (by simp; omega)
      have hexec : exec (.fence g f) s = .next (waitFor g (.fence f.mod.toNat 0 0) u) := by
        refine (show exec (.fence g f) s = execFence g f s from rfl).trans ((h.of_legal hform).issueC_eq.trans ?_)
        simp only [hscope, if_neg hne]
      exact ⟨_, hexec, waitFor_waits rfl u⟩
    case fence3 =>
      have hmod : f.mod.toNat = 3 := eq_of_beq (mod_of_cForm h.legal)
      have hform : cForm (if f.mod.toNat % 8 = 3 then 2 else 0) f (fun m => decide (m < 4)) = true := by
        rw [hmod]
        exact cForm_mono h.legal (by simp [hmod])
      have hexec : exec (.fence g f) s =
          .next (waitFor g (.fence 3 (srcVal64 x f.a).toNat (srcVal64 x f.b).toNat) u) := by
        refine (show exec (.fence g f) s = execFence g f s from rfl).trans ((h.of_legal hform).issueC_eq.trans ?_)
        simp only [hmod]
        rfl
      exact ⟨_, hexec, waitFor_waits rfl u⟩
    case tfence =>
      have hexec : exec (.tfence g f) s = .next (waitFor g (.tfence (f.mod.toNat == 1)) u) :=
        (show exec (.tfence g f) s = execTfence g f s from rfl).trans h.issueC_eq
      exact ⟨_, hexec, waitFor_waits rfl u⟩
    case endt =>
      have hexec : exec (.endt g f) s = .next (waitFor g .endt u) :=
        (show exec (.endt g f) s = execEndt g f s from rfl).trans h.issueC_eq
      exact ⟨_, hexec, waitFor_waits rfl u⟩
    case exit =>
      have hexec : exec (.exit g f) s = .next (waitFor g .exit u) :=
        (show exec (.exit g f) s = execExit g f s from rfl).trans h.issueC_eq
      exact ⟨_, hexec, waitFor_waits rfl u⟩
  case complete =>
    intro g s i x becomes hup
    refine ⟨fun hwait hstate hruns hbusy => ?_,
      fun b (hwait : (s.slot (gi g) g.g).wait = .tfence b) (hstate : (s.slot (gi g) g.g).state = .running)
        (hruns : s.coreRuns (gi g) = true) hdone => ?_,
      fun (hwait : (s.slot (gi g) g.g).wait = .endt) (hdone : s.slotFinished (gi g) g.g = true) => ?_,
      fun (hwait : (s.slot (gi g) g.g).wait = .exit) (hdone : s.slotFinished (gi g) g.g = true) => ?_⟩
    · exact ⟨_, execFenceComplete_eq hup hwait hstate hruns hbusy, updSlot_onlyCore i g.g _ s⟩
    · have hexec : exec (.tfenceComplete g) s = .next (updSlot i g.g (fun x => { x with wait := .none }) s) := by
        rw [show exec (.tfenceComplete g) s = execTfenceComplete g s from rfl, execTfenceComplete, ifUp_eq hup]
        simp only [i] at hdone
        simp [hwait, hstate, hruns, hdone, i]
      exact ⟨_, hexec, updSlot_onlyCore i g.g _ s⟩
    · have hexec : exec (.endtComplete g) s =
          .next (updSlot i g.g (fun x => { x with wait := .none, state := .tickWait }) s) := by
        rw [show exec (.endtComplete g) s = execEndtComplete g s from rfl, execEndtComplete, ifUp_eq hup]
        simp [hwait, hdone, i]
      exact ⟨_, hexec, updSlot_onlyCore i g.g _ s⟩
    · have hexec : exec (.exitComplete g) s = .next (emptySlot i g.g s) := by
        rw [show exec (.exitComplete g) s = execExitComplete g s from rfl, execExitComplete, ifUp_eq hup]
        simp [hwait, hdone, i]
      exact ⟨_, hexec, emptySlot_onlyCore i g.g s⟩
  case fences =>
    intro g s scope base len i hwait hup hstate hruns hbusy hscope v
    have hexec := execFenceComplete_eq hup hwait hstate hruns hbusy
    simp only [if_neg hscope, bne_iff_ne.2 hscope, Bool.true_and] at hexec
    exact ⟨fun h => by rw [hexec]; simp [v, i, h], fun h => by rw [hexec]; simp [v, i, h]⟩

end Sys2Proof.Machine
end

section
/-! Loads, stores, hints and atomics (R125-R130). -/

namespace Sys2Proof.Machine

open Sys2Proof

/-- An M-class instruction that reaches its pipe commits its effect on the operands its sources give. -/
theorem ReachesMem.issue_eq {g : Gid} {f : RegForm} {w : Word64} {legal : Bool} {fs : List (BitVec 7)}
    {push : Option Nat} {s u : State} (h : ReachesMem g w legal fs (u.active g f) push s u)
    (body : (Nat → Nat → Word32) → State → State) :
    issue g w (fun _ => legal) fs [] (fun x => x.guard f.pred f.pneg) (fun x => x.guard f.pred f.pneg) push body s
        (busy := fun s => s.memBusy (gi g)) =
      .next (commit g (body (operand u g fs []) (popSrcs (gi g) g.g (u.active g f) fs u))) := by
  obtain ⟨⟨henter, hlegal, hbind, hfence, hinner, hready, hroom⟩, hbusy⟩ := h
  exact issue_next henter hlegal hbind hfence hinner hbusy hready hroom

/-- What an access does: the trap of its lanes where one fails a check, else its effect. -/
def accessOr (g : Gid) (f : RegForm) (size : Nat) (atomic : Bool)
    (effect : (Nat → Nat → Word32) → List LoadLane → State → State) (rd : Nat → Nat → Word32) (s : State) : State :=
  match laneTrap g size atomic (memLanes g f (rd 1) s) s with
  | some t => t
  | none => effect rd (memLanes g f (rd 1) s) s

theorem accessOr_of_none {g : Gid} {f : RegForm} {size : Nat} {atomic : Bool}
    {effect : (Nat → Nat → Word32) → List LoadLane → State → State} {rd : Nat → Nat → Word32} {s : State}
    (h : laneTrap g size atomic (memLanes g f (rd 1) s) s = none) :
    accessOr g f size atomic effect rd s = effect rd (memLanes g f (rd 1) s) s := by
  rw [accessOr, h]

theorem accessOr_of_some {g : Gid} {f : RegForm} {size : Nat} {atomic : Bool}
    {effect : (Nat → Nat → Word32) → List LoadLane → State → State} {rd : Nat → Nat → Word32} {s v : State}
    (h : laneTrap g size atomic (memLanes g f (rd 1) s) s = some v) : accessOr g f size atomic effect rd s = v := by
  rw [accessOr, h]

/-- LD, ST and the atomics issue the access of their effect. -/
theorem execLd_eq (g : Gid) (f : RegForm) (s : State) :
    exec (.ld g f) s = issue g (encReg 2 0x00 f) (fun _ => memForm 2 true true true f) (usedSrcs 2 f) []
      (fun x => x.guard f.pred f.pneg) (fun x => x.guard f.pred f.pneg) (some f.dst.toNat)
      (accessOr g f (memSize f) false fun _ ls => loadEffect g f ls) s (busy := fun s => s.memBusy (gi g)) := rfl

theorem execSt_eq (g : Gid) (f : RegForm) (s : State) :
    exec (.st g f) s = issue g (encReg 2 0x01 f) (fun _ => memForm 3 false false true f) (usedSrcs 3 f) []
      (fun x => x.guard f.pred f.pneg) (fun x => x.guard f.pred f.pneg) none
      (accessOr g f (memSize f) false fun rd ls => storeEffect g f (rd 2) ls) s
      (busy := fun s => s.memBusy (gi g)) := rfl

theorem atomic_eq (op : Nat) (sx : Bool) (upd : Word32 → Word32 → Word32) (g : Gid) (f : RegForm) (s : State) :
    atomic op sx upd g f s = issue g (encReg 2 op f) (fun _ => memForm 3 true sx false f && memSize f == 4) (usedSrcs 3 f)
      [] (fun x => x.guard f.pred f.pneg) (fun x => x.guard f.pred f.pneg) (some f.dst.toNat)
      (accessOr g f 4 true fun rd ls => atomicEffect g f upd (rd 2) ls) s (busy := fun s => s.memBusy (gi g)) := rfl

/-- Settles O12: with the operands of its sources an access is made where no lane traps, and the trap where one does. -/
theorem loadsAndStoresComplete : Obligations.LoadsAndStoresComplete := by
  intro g f s u i act
  refine ⟨?ld, ?st⟩
  case ld =>
    intro h p ls
    have hexec := (execLd_eq g f s).trans (h.issue_eq _)
    exact ⟨fun hpass => by rw [hexec, accessOr_of_none hpass], fun v hfail => by rw [hexec, accessOr_of_some hfail]⟩
  case st =>
    intro h p ls
    have hexec := (execSt_eq g f s).trans (h.issue_eq _)
    exact ⟨fun hpass => by rw [hexec, accessOr_of_none hpass], fun v hfail => by rw [hexec, accessOr_of_some hfail]⟩

/-! ### Hints -/

/-- A hint with no lane has no effect. -/
theorem prefetchEffect_nil (i : Nat) (f : RegForm) (s : State) : prefetchEffect i f [] s = s := rfl

theorem markEffect_nil (i : Nat) (f : RegForm) (s : State) : markEffect i f [] s = s := rfl

/-! ### Atomics -/

/-- An atomic that reaches its pipe updates where no lane traps, and traps where one does. -/
theorem atomic_updates {op : Nat} {sx : Bool} {upd : Word32 → Word32 → Word32} {g : Gid} {f : RegForm} {s u : State}
    (h : ReachesMem g (encReg 2 op f) (memForm 3 true sx false f && memSize f == 4) (usedSrcs 3 f) (u.active g f)
      (some f.dst.toNat) s u) :
    let p := popSrcs (gi g) g.g (u.active g f) (usedSrcs 3 f) u
    let ls := memLanes g f (operand u g (usedSrcs 3 f) [] 1) p
    (laneTrap g 4 true ls p = none →
      atomic op sx upd g f s = .next (commit g (atomicEffect g f upd (operand u g (usedSrcs 3 f) [] 2) ls p))) ∧
    ∀ v, laneTrap g 4 true ls p = some v → atomic op sx upd g f s = .next (commit g v) := by
  intro p ls
  have hexec := (atomic_eq op sx upd g f s).trans (h.issue_eq _)
  exact ⟨fun hpass => by rw [hexec, accessOr_of_none hpass], fun v hfail => by rw [hexec, accessOr_of_some hfail]⟩

/-- One choice of a value by a condition that itself is chosen. -/
theorem chosen_ite (signed a b : Bool) (x y : Word32) :
    (if signed then (if a then x else y) else if b then x else y) = if (if signed then a else b) then x else y := by
  cases signed <;> rfl

/-- Settles O13: hints and atomics issue with the effect of their lanes, none where no lane is left. -/
theorem hintsAndAtomicsComplete : Obligations.HintsAndAtomicsComplete := by
  intro g f s u i act
  refine ⟨?hints, ?updates⟩
  case hints =>
    intro p ls reaches
    refine ⟨fun h => ?pf, fun h => ?dbm⟩
    case pf =>
      have hexec := h.issue_eq fun rd s => prefetchEffect (gi g) f (hintLanes g f (rd 1) s) s
      exact ⟨commit g (prefetchEffect i f ls p), hexec, rfl, fun hnone => by rw [hnone, prefetchEffect_nil]⟩
    case dbm =>
      have hexec := h.issue_eq fun rd s => markEffect (gi g) f (hintLanes g f (rd 1) s) s
      exact ⟨commit g (markEffect i f ls p), hexec, rfl, fun hnone => by rw [hnone, markEffect_nil]⟩
  case updates =>
    intro p ls updates
    refine ⟨fun h => ?aadd, fun h => ?amax, fun h => ?amin⟩
    case aadd =>
      simp only [ofNat_add_toNat]
      exact atomic_updates h
    case amax =>
      have hupd := fun o d : Word32 => chosen_ite (memSx f) (o.slt d) (o.ult d) d o
      simp only [hupd]
      exact atomic_updates (op := 0x05) (sx := true) h
    case amin =>
      have hupd := fun o d : Word32 => chosen_ite (memSx f) (d.slt o) (d.ult o) d o
      simp only [hupd]
      exact atomic_updates (op := 0x06) (sx := true) h

end Sys2Proof.Machine
end

section
/-! Traps (R92, R93, Table 3-10). -/

namespace Sys2Proof.Machine

open Sys2Proof

/-- What a trap or a stop makes of a slot: a running or tick-wait group halts. -/
def haltSlot (trapped : Bool) (x : Slot) : Slot :=
  if x.state = .running ∨ x.state = .tickWait then { x with state := .halted, trapped := trapped, wait := .none } else x

/-- Slot g of a core halts. -/
def Core.haltOne (trapped : Bool) (c : Core) (g : Nat) : Core :=
  let x := c.slot g
  if x.state = .running ∨ x.state = .tickWait then
    c.setSlot g { x with state := .halted, trapped := trapped, wait := .none }
  else c

theorem haltSlots_eq (trapped : Bool) (i : Nat) (s : State) :
    haltSlots trapped i s = updCore i (fun c => (List.range 8).foldl (Core.haltOne trapped) c) s := rfl

theorem Core.slot_haltOne (trapped : Bool) (c : Core) (g h : Nat) :
    (c.haltOne trapped g).slot h = if h = g then haltSlot trapped (c.slot h) else c.slot h := by
  by_cases hh : h = g
  · subst hh
    simp only [Core.haltOne, haltSlot]
    split
    · simp [Core.slot_setSlot]
    · simp
  · simp only [Core.haltOne, if_neg hh]
    split
    · rw [Core.slot_setSlot, if_neg hh]
    · rfl

/-- The slots below `n` are halted one after the other, each by itself. -/
theorem Core.slot_haltBelow (trapped : Bool) (c : Core) (n g : Nat) :
    ((List.range n).foldl (Core.haltOne trapped) c).slot g =
      if g < n then haltSlot trapped (c.slot g) else c.slot g := by
  induction n with
  | zero => simp
  | succ n ih =>
    rw [List.range_succ, List.foldl_append, List.foldl_cons, List.foldl_nil, Core.slot_haltOne, ih]
    by_cases hg : g = n
    · simp [hg]
    · have : g < n + 1 ↔ g < n := by omega
      simp [hg, this]

theorem Core.tns_haltBelow (trapped : Bool) (c : Core) (n : Nat) :
    ((List.range n).foldl (Core.haltOne trapped) c).tns = c.tns := by
  induction n with
  | zero => rfl
  | succ n ih =>
    rw [List.range_succ, List.foldl_append, List.foldl_cons, List.foldl_nil, ← ih]
    unfold Core.haltOne
    dsimp only
    split <;> rfl

theorem Core.slot_trapSlot (c : Core) (y : Option Nat) (g : Nat) : ({ c with trapSlot := y } : Core).slot g = c.slot g :=
  rfl

theorem State.setFlag_cores (s : State) (a : Nat) (f : Fld) : (s.setFlag a f).cores = s.cores := rfl

theorem Core.tns_trapSlot (c : Core) (y : Option Nat) : ({ c with trapSlot := y } : Core).tns = c.tns := rfl

/-- The capture of a trap changes of its core alone which slot is captured. -/
theorem core_recordTrap (i slot thread : Nat) (cause : Cause) (pc : BitVec 40) (s : State) :
    ∃ y, ∀ j, (recordTrap i slot thread cause pc s).core j =
      if j = i then { s.core i with trapSlot := y } else s.core j := by
  have hcore (y : Option Nat) (v : State) (hv : v.cores = s.cores) (j : Nat) :
      (updCore i (fun c => { c with trapSlot := y }) v).core j =
        if j = i then { s.core i with trapSlot := y } else s.core j := by
    have hsame (k : Nat) : v.core k = s.core k := by rw [State.core, State.core, hv]
    rw [State.core_updCore, hsame, hsame]
  unfold recordTrap
  dsimp only
  split
  · exact ⟨none, hcore none _ (State.setFlag_cores ..)⟩
  · exact ⟨some slot, hcore (some slot) _ (by rw [State.setReg_cores, State.setReg_cores])⟩

/-- What the halt of a core's groups makes of a core. -/
theorem core_haltSlots (trapped : Bool) (i j : Nat) (s : State) :
    (haltSlots trapped i s).core j =
      if j = i then (List.range 8).foldl (Core.haltOne trapped) (s.core i) else s.core j := by
  rw [haltSlots_eq, State.core_updCore]

/-- A trap halts the groups of its core, and changes of it otherwise at most which slot is captured. -/
theorem core_trap (i slot thread : Nat) (cause : Cause) (pc : BitVec 40) (s : State) :
    ∃ y, ∀ j, (trap i slot thread cause pc s).core j =
      if j = i then { (List.range 8).foldl (Core.haltOne true) (s.core i) with trapSlot := y } else s.core j := by
  have hkeeps : Keeps { cores := true } (recordTrap i slot thread cause pc (haltSlots true i s))
      (trap i slot thread cause pc s) :=
    (markInvalid_keeps rfl).2 ((reportLocal_keeps rfl).2 Keeps.refl)
  obtain ⟨-, -, hcores, -⟩ := hkeeps
  obtain ⟨y, hcore⟩ := core_recordTrap i slot thread cause pc (haltSlots true i s)
  refine ⟨y, fun j => ?_⟩
  rw [State.core, hcores rfl]
  refine (hcore j).trans ?_
  rw [core_haltSlots, core_haltSlots]
  by_cases hj : j = i
  · simp only [if_pos hj]
    rfl
  · simp only [if_neg hj]

/-- The groups of its core after a trap. -/
theorem slot_trap (i slot thread : Nat) (cause : Cause) (pc : BitVec 40) (s : State) (g : Nat) (hg : g < 8) :
    (trap i slot thread cause pc s).slot i g = haltSlot true (s.slot i g) := by
  obtain ⟨y, hcore⟩ := core_trap i slot thread cause pc s
  rw [State.slot, hcore, if_pos rfl, Core.slot_trapSlot, Core.slot_haltBelow, if_pos hg]
  rfl

/-- The tensor array of its core after a trap. -/
theorem tns_trap (i slot thread : Nat) (cause : Cause) (pc : BitVec 40) (s : State) :
    ((trap i slot thread cause pc s).core i).tns = (s.core i).tns := by
  obtain ⟨y, hcore⟩ := core_trap i slot thread cause pc s
  rw [hcore, if_pos rfl, Core.tns_trapSlot, Core.tns_haltBelow]

/-- A trap's capture writes registers and its core. -/
theorem state_recordTrap (i slot thread : Nat) (cause : Cause) (pc : BitVec 40) (s : State) :
    recordTrap i slot thread cause pc s = { s with
      regs := (recordTrap i slot thread cause pc s).regs, cores := (recordTrap i slot thread cause pc s).cores } := by
  have hflag (a : Nat) (f : Fld) (y : Option Nat) :
      ∃ r c, updCore i (fun c => { c with trapSlot := y }) (s.setFlag a f) = { s with regs := r, cores := c } :=
    ⟨_, _, rfl⟩
  have hregs (a b : Nat) (v w : Word32) (y : Option Nat) : ∃ r c,
      updCore i (fun c => { c with trapSlot := y }) ((s.setReg a v).setReg b w) = { s with regs := r, cores := c } :=
    ⟨_, _, rfl⟩
  have hstate : ∃ r c, recordTrap i slot thread cause pc s = { s with regs := r, cores := c } := by
    unfold recordTrap
    dsimp only
    split
    · exact hflag ..
    · exact hregs ..
  obtain ⟨r, c, hstate⟩ := hstate
  rw [hstate]

/-- The word of Table 3-10 that a trap is captured in. -/
def trapWord (cause : Cause) (pc : BitVec 40) (slot : SlotId) (thread : Fin 64) : Word32 :=
  BitVec.ofNat 32 (bitsOf pc.toNat 32 8 + 2 ^ 8 * cause.code + 2 ^ 12 * slot + 2 ^ 15 * thread + 2 ^ 31)

theorem trapWord_fields (cause : Cause) (pc : BitVec 40) (slot : SlotId) (thread : Fin 64) :
    F.CORE_TRAP_HI.CAUSE.get (trapWord cause pc slot thread) = cause.code ∧
      F.CORE_TRAP_HI.SLOT.get (trapWord cause pc slot thread) = slot ∧
      F.CORE_TRAP_HI.THREAD.get (trapWord cause pc slot thread) = thread ∧
      F.CORE_TRAP_HI.PC_HI.get (trapWord cause pc slot thread) = pc.toNat / 2 ^ 32 ∧
      (trapWord cause pc slot thread).getLsbD F.CORE_TRAP_HI.VALID.lo = true := by
  have hcode : cause.code < 16 := by cases cause <;> decide
  have hpc := pc.isLt
  have hslot := slot.isLt
  have hthread := thread.isLt
  have htoNat : (trapWord cause pc slot thread).toNat =
      pc.toNat / 2 ^ 32 + 2 ^ 8 * cause.code + 2 ^ 12 * slot + 2 ^ 15 * thread + 2 ^ 31 := by
    rw [trapWord, BitVec.toNat_ofNat, bitsOf, Nat.shiftRight_eq_div_pow]
    omega
  simp only [Fld.get, bitsOf, htoNat, Nat.shiftRight_eq_div_pow, F.CORE_TRAP_HI.CAUSE, F.CORE_TRAP_HI.SLOT,
    F.CORE_TRAP_HI.THREAD, F.CORE_TRAP_HI.PC_HI, F.CORE_TRAP_HI.VALID, BitVec.getLsbD, Nat.testBit_eq_decide_div_mod_eq]
  refine ⟨?_, ?_, ?_, ?_, decide_eq_true ?_⟩ <;> omega

/-- Settles O11: `slot_trap` and `core_trap` say what halts, the two branches of `recordTrap` what is captured. -/
theorem trapsHaltAndAreCaptured : Obligations.TrapsHaltAndAreCaptured := by
  refine ⟨?halt, ?capture⟩
  case halt =>
    intro i slot thread cause pc s t
    have hmem : Keeps { mem := true } s t := by simp [t, trap, Keeps.refl]
    obtain ⟨-, -, -, -, hmem, -⟩ := hmem
    obtain ⟨y, hcore⟩ := core_trap i slot thread cause pc s
    have hslot (g : Nat) (hg : g < 8) : t.slot i g = haltSlot true (s.slot i g) := slot_trap i slot thread cause pc s g hg
    have hother (j : Nat) (hj : j ≠ i) : t.core j = s.core j := (hcore j).trans (if_neg hj)
    have htns : (t.core i).tns = (s.core i).tns := tns_trap ..
    clear_value t
    refine ⟨fun g hg hrun => ?_, fun g hg hrun => ?_, hother, htns, hmem rfl⟩
    · rw [hslot g hg, haltSlot, if_pos hrun]
    · rw [hslot g hg, haltSlot, if_neg hrun]
  case capture =>
    intro c slot thread cause pc s hi lo t
    have hne : lo ≠ hi := by
      simp only [lo, hi, Reg.CORE_TRAP_LO, Reg.CORE_TRAP_HI]
      omega
    refine ⟨fun hvalid => ?free, fun hvalid => ?lost, fun a hhi hlo => ?other, fun j => ?core, ?state⟩
    case free =>
      have hrec : t = updCore (ci c) (fun c => { c with trapSlot := some slot.val })
          ((s.setReg lo (BitVec.ofNat 32 (pc.toNat / 8 * 8))).setReg hi (trapWord cause pc slot thread)) := by
        simp only [t, recordTrap, ci_div, ci_mod]
        rw [if_neg (by rw [hvalid]; decide)]
        rfl
      have hword : t.reg hi = trapWord cause pc slot thread := by
        rw [hrec, updCore_reg, State.reg_setReg_same]
      have hlow : t.reg lo = BitVec.ofNat 32 (pc.toNat / 8 * 8) := by
        rw [hrec, updCore_reg, State.reg_setReg_ne _ _ hne, State.reg_setReg_same]
      obtain ⟨hcause, hslot, hthread, hpc, hflag⟩ := trapWord_fields cause pc slot thread
      rw [← hword] at hcause hslot hthread hpc hflag
      refine ⟨?_, hflag, hcause, hslot, hthread, hpc⟩
      rw [hlow, BitVec.toNat_ofNat]
      omega
    case lost =>
      have hrec : t = updCore (ci c) (fun c => { c with trapSlot := none }) (s.setFlag hi F.CORE_TRAP_HI.LOST) := by
        simp only [t, recordTrap, ci_div, ci_mod]
        rw [if_pos (by rw [hvalid])]
      refine ⟨?_, ?_⟩
      · rw [hrec, updCore_reg, State.reg_setFlag, if_pos rfl]
      · rw [hrec, updCore_reg, State.reg_setFlag, if_neg hne]
    case other =>
      simp only [t, recordTrap, ci_div, ci_mod]
      split
      · rw [updCore_reg, State.reg_setFlag, if_neg hhi]
      · rw [updCore_reg, State.reg_setReg_ne _ _ hhi, State.reg_setReg_ne _ _ hlo]
    case core =>
      obtain ⟨y, hcore⟩ := core_recordTrap (ci c) slot thread cause pc s
      have hj : t.core j = if j = ci c then { s.core (ci c) with trapSlot := y } else s.core j := hcore j
      rw [hj]
      by_cases h : j = ci c
      · rw [if_pos h, h]
      · rw [if_neg h]
    case state =>
      exact state_recordTrap ..

end Sys2Proof.Machine
end

section

/-! ## What an access checks, and what an atomic does (O14) -/

namespace Sys2Proof.Machine

open Sys2Proof

/-- A lane list has no trap exactly where every lane passes the checks of R126. -/
theorem laneTrap_eq_none_iff (g : Gid) (size : Nat) (atomic : Bool) (ls : List LoadLane) (s : State) :
    laneTrap g size atomic ls s = none ↔ ∀ y ∈ ls, laneCheck s (gi g) size atomic y.addr = none := by
  rw [laneTrap]
  split
  next hfails => simpa [List.filterMap_eq_nil_iff] using hfails
  next y e rest hfails =>
    refine ⟨fun h => by simp at h, fun h => ?_⟩
    rw [List.filterMap_eq_nil_iff.2 fun x hx => by rw [h x hx, Option.map_none]] at hfails
    cases hfails

/-- The first lane that fails is the head of the list of failures. -/
theorem laneTrap_first (g : Gid) (size : Nat) (atomic : Bool) (pre post : List LoadLane) (y : LoadLane)
    (cause : Cause) (kind : Option Nat) (s : State)
    (hpre : ∀ x ∈ pre, laneCheck s (gi g) size atomic x.addr = none)
    (hy : laneCheck s (gi g) size atomic y.addr = some (cause, kind)) :
    ∃ v, laneTrap g size atomic (pre ++ y :: post) s =
      some (trap (gi g) g.g y.thread cause (v.slot (gi g) g.g).pc v) ∧ v.cores = s.cores ∧ v.mem = s.mem := by
  have hnone : pre.filterMap (fun y => (laneCheck s (gi g) size atomic y.addr).map fun e => (y, e)) = [] :=
    List.filterMap_eq_nil_iff.2 fun x hx => by rw [hpre x hx, Option.map_none]
  simp only [laneTrap, List.filterMap_append, hnone, List.nil_append, List.filterMap_cons, hy, Option.map_some]
  split
  next a k _ =>
    obtain ⟨-, -, hcores, -, hmem, -⟩ : Keeps { cores := true, mem := true } s (decodeErr
        { master := 0, stack := gi g / 16, core := gi g % 16 } (a % 2 ^ 40) k s) := by simp [Keeps.refl]
    exact ⟨_, rfl, hcores rfl, hmem rfl⟩
  next => exact ⟨s, rfl, rfl, rfl⟩

/-- A stored word whose check byte is right reads as it stands. -/
theorem readCode_right (d : Word64) : readCode d 0#8 0#72 = (0, .clean, d) := by
  have hsynd : (0#8).toNat ^^^ ((0#72).toNat / 2 ^ 64) ^^^
      xorColumns dataColumns ((0#72).toNat % 2 ^ 64) = 0 := by decide
  simp only [readCode, hsynd]
  simp [decodeSynd]

/-- Only the Mere slabs stand behind bonds. -/
theorem crossing_of_not_slab {w : Nat} (s : State) (hw : isSlabWord w = false) : crossing w s = (0, s) := by
  simp [crossing, hw]

theorem judgeWord_right {w : Nat} (how : How) (d : Word64) (s : State) (hw : isSlabWord w = false) :
    judgeWord 0 how w d 0 s = (d, false, s) := by
  have hread : readCode d 0 (0 ^^^ 0) = (0, .clean, d) := readCode_right d
  simp only [judgeWord, judgeCode, crossing_of_not_slab s hw, hread, hw]
  rfl

theorem portWrite_of_not_slab {w : Nat} (v : Word64) (s : State) (hw : isSlabWord w = false) :
    portWrite w v s = putWord w v s := by
  simp [portWrite, crossing_of_not_slab _ hw, flipMem]

/-- Settles O14: the trap is the first failure in lane order, and an atomic on a right word reads and updates it. -/
theorem accessesAreCheckedAndAtomic : Obligations.AccessesAreCheckedAndAtomic := by
  unfold Obligations.AccessesAreCheckedAndAtomic
  refine ⟨fun g size atomic ls s => ⟨laneTrap_eq_none_iff .., ?_⟩, ?_⟩
  · rintro pre post y cause kind rfl hpre hy
    exact laneTrap_first g size atomic pre post y cause kind s hpre hy
  · intro i id op data y s a w v _ hw hdev n m
    have hread : judgeWord 0 { master := missMaster i } w v (s.devAt w) s = (v, false, s) := by
      rw [hdev, judgeWord_right _ _ _ hw]
    calc atomicLane i id op data y s
        = portWrite w (mergeWord v m (placed a (leBytes 4 n.toNat)))
            (deliver i id [y.thread] (fun _ => [{ word := v }]) s) := by
          simp only [atomicLane]
          rw [hread]
          rfl
      _ = _ := portWrite_of_not_slab _ _ hw

end Sys2Proof.Machine
end

section

/-! ## What a returned load delivers (O15) -/

namespace Sys2Proof.Machine

open Sys2Proof

/-- Adding a power of two whose bit is off turns that bit on. -/
theorem getLsbD_add_two_pow {m t k : Nat} (ht : t < 64) (hoff : (BitVec.ofNat 64 m).getLsbD t = false) :
    (BitVec.ofNat 64 (m + 2 ^ t)).getLsbD k = ((BitVec.ofNat 64 m).getLsbD k || decide (k = t)) := by
  have hpow : BitVec.ofNat 64 (2 ^ t) = BitVec.twoPow 64 t := by
    simp [BitVec.toNat_eq, BitVec.twoPow_eq, Nat.shiftLeft_eq]
  have hand : BitVec.ofNat 64 m &&& BitVec.twoPow 64 t = 0#64 := by
    rw [BitVec.and_twoPow, hoff]
    rfl
  rw [BitVec.ofNat_add, hpow, BitVec.add_eq_or_of_and_eq_zero _ _ hand, BitVec.getLsbD_or, BitVec.getLsbD_twoPow]
  by_cases h : k = t
  · subst h; simp [ht]
  · simp [h, Ne.symm h]

theorem getLsbD_foldl_two_pow (ls : List LoadLane) (k : Nat) :
    ∀ m : Nat, (∀ y ∈ ls, y.thread < 64) → (ls.map (·.thread)).Nodup →
      (∀ y ∈ ls, (BitVec.ofNat 64 m).getLsbD y.thread = false) →
      (BitVec.ofNat 64 (ls.foldl (fun m y => m + 2 ^ y.thread) m)).getLsbD k =
        ((BitVec.ofNat 64 m).getLsbD k || ls.any fun y => y.thread == k) := by
  induction ls with
  | nil => intro m _ _ _; simp
  | cons y ls ih =>
    intro m hlt hnodup hoff
    obtain ⟨hnew, hnodup⟩ := List.nodup_cons.1 (List.map_cons ▸ hnodup)
    have hlty := hlt y List.mem_cons_self
    have hbit := fun k => getLsbD_add_two_pow (k := k) hlty (hoff y List.mem_cons_self)
    rw [List.foldl_cons, ih (m + 2 ^ y.thread) (fun x hx => hlt x (List.mem_cons_of_mem _ hx)) hnodup, hbit]
    · simp [Bool.or_assoc, eq_comm, beq_eq_decide]
    · intro x hx
      rw [hbit, hoff x (List.mem_cons_of_mem _ hx), Bool.false_or, decide_eq_false_iff_not]
      rintro h
      exact hnew (h ▸ List.mem_map_of_mem hx)

/-- The mask of a list of lanes has the bits of its threads. -/
theorem lanesMask_bit (ls : List LoadLane) (k : Nat) (hlt : ∀ y ∈ ls, y.thread < 64)
    (hnodup : (ls.map (·.thread)).Nodup) : (lanesMask ls).getLsbD k = ls.any fun y => y.thread == k := by
  rw [lanesMask, getLsbD_foldl_two_pow ls k 0 hlt hnodup (by simp)]
  simp

/-- What a lane list delivers to its queue. -/
theorem queue_deliverLoad (i : Nat) (ld : Load) (ls : List LoadLane) (s : State) (q k : Nat)
    (hb : s.boundOut i ld.slot ld.queue = false) (hk : k < 64) (hlt : ∀ y ∈ ls, y.thread < 64)
    (hnodup : (ls.map (·.thread)).Nodup) :
    ((deliverLoad i ld ls s).slot i ld.slot).queue q k =
      match ls.find? fun y => y.thread == k with
      | some y =>
        if q = ld.queue then
          ((s.slot i ld.slot).queue q k).map fun e => if e = .reserved ld.id then
            .present (loadValue ld.size ld.sx y.addr y.word) else e
        else (s.slot i ld.slot).queue q k
      | none => (s.slot i ld.slot).queue q k := by
  simp only [deliverLoad, hb, Bool.false_eq_true, if_false, State.slot_updSlot, and_self, if_true]
  rw [Slot.queue_mapQueue _ _ _ _ _ _ hk, lanesMask_bit ls k hlt hnodup]
  cases hfind : ls.find? fun y => y.thread == k with
  | none =>
    have hany : (ls.any fun y => y.thread == k) = false := by simpa using hfind
    simp [hany]
  | some y =>
    have hany : (ls.any fun y => y.thread == k) = true :=
      List.any_eq_true.2 ⟨y, List.mem_of_find?_eq_some hfind, by simpa using List.find?_some hfind⟩
    simp [hany]

/-- With no bad lane there is no line of the stack L2 to drop. -/
theorem l2Spoilt_of_clean (i : Nat) (ls : List LoadLane) (s : State) (h : ∀ y ∈ ls, y.bad = false) :
    l2Spoilt i ls s = ([], s) := by
  have hno : ls.filter LoadLane.badL2 = [] := by
    rw [List.filter_eq_nil_iff]
    intro y hy hbad
    simp only [LoadLane.badL2, Bool.and_eq_true, List.any_eq_true] at hbad
    obtain ⟨-, x, hx, hxbad, -⟩ := hbad
    exact absurd (h y hy) (by simpa [LoadLane.bad] using ⟨x, hx, hxbad⟩)
  simp [l2Spoilt, hno]

/-- Judging lanes that have their data leaves each lane its data. -/
theorem judgeLanes_got (up : Upsets) (i : Nat) (ls : List LoadLane) (s : State)
    (hgot : ∀ y ∈ ls, y.got.isSome = true) : ∀ y ∈ (judgeLanes up i ls s).1, y.got.isSome = true := by
  unfold judgeLanes
  extract_lets piece r
  refine List.foldlRecOn 
    (motive := fun b : List LoadLane × List (Nat × Nat × Nat) × State => ∀ y ∈ b.1, y.got.isSome = true)
    ls _ (by simp) ?_
  intro b hb y hy
  simp only
  split
  next hnone => exact absurd (hgot y hy) (by simp [hnone])
  next xs _ =>
    intro z hz
    rcases List.mem_append.1 hz with hz | hz
    · exact hb z hz
    · rw [List.mem_singleton.1 hz]; rfl

/-- Settles O15: a load of clean lanes delivers, and delivery makes its own reserved entries present. -/
theorem loadsReturn : Obligations.LoadsReturn := by
  unfold Obligations.LoadsReturn
  refine ⟨?_, fun i ld ls s q k hb _ hk hlt hnodup => queue_deliverLoad i ld ls s q k hb hk hlt hnodup⟩
  intro c n u s v ld ls i hdown hfind hret hjudge hclean
  have hgot : ∀ y ∈ ls, y.got.isSome = true := by
    have hlanes : ∀ y ∈ ld.lanes, y.got.isSome = true := by
      simp only [Core.returns, Bool.and_eq_true, List.all_eq_true] at hret
      exact hret.1.1
    simpa only [hjudge] using judgeLanes_got u i ld.lanes (upset u s) hlanes
  have hlost : ls.filter (fun y => y.got.isNone) = [] := by
    rw [List.filter_eq_nil_iff]
    intro y hy hnone
    exact absurd (hgot y hy) (by simpa using hnone)
  have hgood : ls.find? LoadLane.bad = none := by simpa using hclean
  have harm : exec (.loadReturn c n u) s = execLoadReturn c n u s := rfl
  rw [harm, execLoadReturn, ifUp_eq hdown]
  simp only [hfind, hret, hjudge, l2Spoilt_of_clean i ls v hclean, i]
  simp [hlost, hgood]

end Sys2Proof.Machine
end

section

/-! ## T-class instructions (O16) -/

namespace Sys2Proof.Machine

open Sys2Proof

/-- Of a tensor array only the inbound and outbound entry queues move. -/
def Tensor.SameCommands (t v : Tensor) : Prop := v = { t with ta := v.ta, tb := v.tb, td := v.td }

theorem Tensor.SameCommands.trans {t v w : Tensor} (h : t.SameCommands v) (k : v.SameCommands w) :
    t.SameCommands w := by
  unfold Tensor.SameCommands at *
  rw [k, h]

theorem Core.setWide_sameCommands (c : Core) (w : WideQ) (es : List Entry) :
    c.tns.SameCommands (c.setWide w es).tns := by
  cases w <;> rfl

/-- Pops move no command of the tensor array. -/
theorem popSrcs_sameCommands (i g : Nat) (act : Word64) (fs : List (BitVec 7)) (s : State) :
    (s.core i).tns.SameCommands ((popSrcs i g act fs s).core i).tns := by
  have hone : ∀ (q : Nat) (s : State), (s.core i).tns.SameCommands ((popOne i g act fs q s).core i).tns := by
    intro q s
    unfold popOne
    split
    · rfl
    · split
      · rw [State.core_updCore, if_pos rfl]
        exact Core.setWide_sameCommands ..
      · show (s.core i).tns.SameCommands ((s.setCore i _).core i).tns
        rw [State.core_setCore, if_pos rfl]
        rfl
  have hall : ∀ (l : List Nat) (s : State),
      (s.core i).tns.SameCommands ((forEach l (popOne i g act fs) s).core i).tns := by
    intro l
    induction l with
    | nil => exact fun _ => rfl
    | cons q l ih => exact fun s => (hone q s).trans (ih _)
  rw [popSrcs_eq]
  exact hall _ s

/-- What a change of core i's tensor array leaves of the core. -/
theorem core_updTns (i : Nat) (f : Tensor → Tensor) (s : State) :
    (updTns i f s).core i = { s.core i with tns := f (s.core i).tns } := by
  show (updCore i _ s).core i = _
  rw [State.core_updCore, if_pos rfl]

/-- A command that wakes the array moves nothing of its core but the ramp. -/
theorem core_rampWake (i : Nat) (s : State) :
    ∃ r h, (rampWake i s).core i = { s.core i with tns := { (s.core i).tns with ramp := r, holding := h } } := by
  unfold rampWake
  split
  next => exact ⟨.up 32, _, core_updTns ..⟩
  next => exact ⟨_, _, rfl⟩
  next => exact ⟨_, false, core_updTns ..⟩
  next n _ => exact ⟨_, _, core_updTns ..⟩

/-- A tensor command goes to the end of the command queue; of its core only the ramp moves besides. -/
theorem core_pushTCmd (i g : Nat) (op : TOp) (s : State) :
    ∃ r h, (pushTCmd i g op s).core i = { s.core i with tns := { (s.core i).tns with
      cmdq := (s.core i).tns.cmdq ++ [{ id := (s.core i).tns.nextId, slot := g, op := op }],
      nextId := (s.core i).tns.nextId + 1, ramp := r, holding := h } } := by
  obtain ⟨r, h, hwake⟩ := core_rampWake i (updTns i (fun t => { t with
    cmdq := t.cmdq ++ [{ id := t.nextId, slot := g, op := op }], nextId := t.nextId + 1 }) s)
  unfold pushTCmd
  simp only
  split
  next => exact ⟨r, h, by rw [hwake, core_updTns]⟩
  next => exact ⟨_, _, core_updTns ..⟩

section
variable {g : Gid} {w : Word64} {o n mask : Nat} {f : RegForm} {ok : Bool} {mk : State → Int → Int → Option TOp}
  {s u : State}

/-- Whether a legal T-class instruction is held back: by a fence, or by a full command queue. -/
def tHeld (u : State) (g : Gid) : Bool := u.fenced (gi g) g.g || decide (16 ≤ (u.core (gi g)).tns.cmdq.length)

/-- What a legal T-class instruction does once it is the group's next. -/
def tOutcome (g : Gid) (f : RegForm) (n : Nat) (cmd : Option TOp) (u : State) : Out :=
  if (u.active g f).getLsbD 0 then
    match readySrcs u (gi g) g.g 1 (usedSrcs n f) with
    | .empty k => .next (trap (gi g) g.g k .queueEmpty (u.slot (gi g) g.g).pc u)
    | .stall => .next u
    | .ok =>
      match cmd with
      | none => .next (trap (gi g) g.g 0 .illegal (u.slot (gi g) g.g).pc u)
      | some op => .next (if tHeld u g then u else
          commit g (pushTCmd (gi g) g.g op (popSrcs (gi g) g.g 1 (usedSrcs n f) u)))
  else .next (if tHeld u g then u else commit g u)

/-- With thread 0 inactive no operand is read. -/
theorem tOutcome_inactive {cmd : Option TOp} (hon : (u.active g f).getLsbD 0 = false) :
    tOutcome g f n cmd u = .next (if tHeld u g then u else commit g u) := by
  unfold tOutcome
  rw [if_neg (by rw [hon]; decide)]

theorem tOutcome_ready {cmd : Option TOp} (hon : (u.active g f).getLsbD 0 = true)
    (hready : readySrcs u (gi g) g.g 1 (usedSrcs n f) = .ok) :
    tOutcome g f n cmd u = match cmd with
      | none => .next (trap (gi g) g.g 0 .illegal (u.slot (gi g) g.g).pc u)
      | some op => .next (if tHeld u g then u else
          commit g (pushTCmd (gi g) g.g op (popSrcs (gi g) g.g 1 (usedSrcs n f) u))) := by
  unfold tOutcome
  rw [if_pos hon, hready]

/-- A T-class instruction of a legal form whose group is next does what `tOutcome` says. -/
theorem issueT_eq (he : enter g (encReg 3 o f) s = .ok u) (hinner : (u.core (gi g)).inner = [])
    (hform : (tForm n f mask && ok && bindOk u (gi g) g.g (usedSrcs n f) none) = true) :
    issueT o n g f mask ok mk s =
      tOutcome g f n (mk u
        (tOperand u (gi g) g.g ((usedSrcs n f).getD 0 unusedSrc) ((positions [] (usedSrcs n f)).getD 0 0))
        (tOperand u (gi g) g.g ((usedSrcs n f).getD 1 unusedSrc) ((positions [] (usedSrcs n f)).getD 1 0))) u := by
  rw [issueT, withTraps_enter he]
  simp only [he, hform, Bool.not_true, Bool.false_eq_true, if_false, readInner_nil hinner, tOutcome]
  by_cases hon : ((u.slot (gi g) g.g).guard f.pred f.pneg).getLsbD 0 = true
  · have hact : (u.active g f).getLsbD 0 = true := hon
    rw [hon, if_pos hact]
    simp only [Bool.not_true, Bool.false_eq_true, if_false]
    cases readySrcs u (gi g) g.g 1 (usedSrcs n f) with
    | empty k => rfl
    | stall => rfl
    | ok =>
      generalize mk u _ _ = cmd
      cases cmd with
      | none => rfl
      | some x => rfl
  · have hact : ¬(u.active g f).getLsbD 0 = true := hon
    rw [Bool.not_eq_true] at hon
    rw [hon, if_neg hact]
    rfl
end

/-- Every T-class row issues by its own command. -/
theorem tensorRows_exec (r : TRow) (hr : r ∈ tensorRows) (g : Gid) (f : RegForm) (s : State) :
    exec (r.make g f) s = issueT r.op r.n g f r.mask (r.ok f) (fun u c k => r.cmd f u g c k) s := by
  have hrange : ∀ (u : State) (m : Nat) (c k : Int) (x : TOp), (if rangeOk u m c k = true then some x else none) =
      if 1 ≤ c ∧ 0 ≤ k ∧ k + m * c ≤ u.accRows then some x else none := by
    intro u m c k x
    simp [rangeOk, and_assoc]
  have hone : ∀ (u : State) (c k : Int) (x : TOp), (if rangeOk u 1 c k = true then some x else none) =
      if 1 ≤ c ∧ 0 ≤ k ∧ k + c ≤ u.accRows then some x else none := by
    intro u c k x
    simpa using hrange u 1 c k x
  simp only [tensorRows, List.mem_cons, List.not_mem_nil, or_false] at hr
  rcases hr with rfl | rfl | rfl | rfl | rfl
  · rfl
  · rfl
  · show execTrun g f s = _
    simp only [execTrun, hrange, Nat.cast_ite, Nat.cast_ofNat, Nat.cast_one]
  · show execTdrn g f s = _
    simp only [execTdrn, hone]
  · show execTclr g f s = _
    simp only [execTclr, hone]

/-- A command that is queued: the command queue, the rest of the array, the slot and the queues popped. -/
theorem tensor_queued (g : Gid) (fs : List (BitVec 7)) (op : TOp) (u : State) :
    let t := commit g (pushTCmd (gi g) g.g op (popSrcs (gi g) g.g 1 fs u))
    let x := u.slot (gi g) g.g
    (t.core (gi g)).tns.cmdq =
        (u.core (gi g)).tns.cmdq ++ [{ id := (u.core (gi g)).tns.nextId, slot := g.g, op := op }] ∧
      (t.core (gi g)).tns.acc = (u.core (gi g)).tns.acc ∧ (t.core (gi g)).tns.front = (u.core (gi g)).tns.front ∧
      (t.slot (gi g) g.g).pc = x.pc + 8 ∧ (t.slot (gi g) g.g).scal = x.scal ∧ (t.slot (gi g) g.g).pred = x.pred ∧
      QueuesPopped g fs 1 u t ∧ t.mem = u.mem := by
  intro t x
  have hpop := movesQueues_popSrcs (gi g) g.g 1 fs u
  have htns := popSrcs_sameCommands (gi g) g.g 1 fs u
  obtain ⟨r, h, hpush⟩ := core_pushTCmd (gi g) g.g op (popSrcs (gi g) g.g 1 fs u)
  have hslot : (pushTCmd (gi g) g.g op (popSrcs (gi g) g.g 1 fs u)).slot (gi g) g.g =
      (popSrcs (gi g) g.g 1 fs u).slot (gi g) g.g := by
    simp only [State.slot, hpush]
    rfl
  have hcore : (t.core (gi g)).tns = (_ : Core).tns := (core_commitTo_tns ..).trans (congrArg Core.tns hpush)
  have hat : t.slot (gi g) g.g = { (popSrcs (gi g) g.g 1 fs u).slot (gi g) g.g with pc := x.pc + 8 } := by
    show (commitTo g _ _).slot (gi g) g.g = _
    rw [slot_commitTo, if_pos ⟨rfl, rfl⟩, hslot, hpop.slot]
  have hmem : Keeps { mem := true } u t := by
    simp [t, Keeps.refl]
  obtain ⟨-, -, -, -, hmem, -⟩ := hmem
  refine ⟨?_, ?_, ?_, ?_, ?_, ?_, ?_, hmem rfl⟩
  · rw [hcore, htns]
  · rw [hcore, htns]
  · rw [hcore, htns]
  · rw [hat]
  · rw [hat, hpop.slot]
  · rw [hat, hpop.slot]
  · intro q k hq hk
    rw [hat]
    exact queue_popSrcs (gi g) g.g 1 fs u q k hk hq

/-- Settles O16: every row issues through `issueT`, whose outcome is read off case by case. -/
theorem tensorInstructionsQueueCommands : Obligations.TensorInstructionsQueueCommands := by
  unfold Obligations.TensorInstructionsQueueCommands
  intro r hr g f s u i x on fs v free he hinner hform
  have hexec : exec (r.make g f) s = tOutcome g f r.n (r.cmd f u g (v 0) (v 1)) u :=
    (tensorRows_exec r hr g f s).trans (issueT_eq he hinner hform)
  have hheldUp : ¬free → tHeld u g = true := by
    simp only [tHeld, free, Bool.or_eq_true, decide_eq_true_eq, not_and_or, Bool.not_eq_false, not_lt]
    exact id
  have hfreed : free → ¬tHeld u g = true := by
    simp only [tHeld, free, Bool.or_eq_true, decide_eq_true_eq, not_or, Bool.not_eq_true, not_le]
    exact id
  rw [hexec]
  refine ⟨fun hon hfree => ?inactive, fun hon hheld => ?inactiveHeld, fun k hon hready => ?empty,
    fun hon hready => ?stall, fun hon hready hcmd => ?range, fun c hon hready hcmd hheld => ?held,
    fun c hon hfree hready hcmd => ?queued⟩
  case inactive => rw [tOutcome_inactive hon, if_neg (hfreed hfree)]
  case inactiveHeld => rw [tOutcome_inactive hon, if_pos (hheldUp hheld)]
  case empty =>
    unfold tOutcome
    rw [if_pos hon, hready]
  case stall =>
    unfold tOutcome
    rw [if_pos hon, hready]
  case range => rw [tOutcome_ready hon hready, hcmd]
  case held =>
    rw [tOutcome_ready hon hready, hcmd]
    simp only [hheldUp hheld, if_true]
  case queued =>
    rw [tOutcome_ready hon hready, hcmd]
    exact ⟨_, by simp only [if_neg (hfreed hfree), fs],  tensor_queued g fs c u⟩

end Sys2Proof.Machine
end

section

/-! ## Tiles, rows, drains and the ramp (O17, O18) -/

namespace Sys2Proof.Machine

open Sys2Proof

/-- A change of one core is a change of that core alone. -/
theorem updCore_onlyCore (i : Nat) (f : Core → Core) (s : State) : OnlyCore i s (updCore i f s) :=
  ⟨fun j hj => by rw [State.core_updCore, if_neg hj], rfl⟩

theorem core_updCore_same (i : Nat) (f : Core → Core) (s : State) : (updCore i f s).core i = f (s.core i) := by
  rw [State.core_updCore, if_pos rfl]

/-- A change of one tensor array is a change of that array alone. -/
theorem updTns_becomes (i : Nat) (f : Tensor → Tensor) (s : State) : TensorBecomes i f s (updTns i f s) :=
  ⟨core_updTns i f s, updCore_onlyCore ..⟩

/-- Changes of one core compose. -/
theorem OnlyCore.trans {i : Nat} {s t u : State} (h : OnlyCore i s t) (k : OnlyCore i t u) : OnlyCore i s u := by
  obtain ⟨hcore, hstate⟩ := h
  obtain ⟨kcore, kstate⟩ := k
  exact ⟨fun j hj => (kcore j hj).trans (hcore j hj), by rw [kstate, hstate]⟩

theorem OnlyCore.refl (i : Nat) (s : State) : OnlyCore i s s := ⟨fun _ _ => rfl, rfl⟩

/-- A hold that begins moves nothing of the core but the array's hold. -/
theorem holdSettle_onlyCore (i : Nat) (s : State) :
    OnlyCore i s (holdSettle i s) ∧ ∃ h n, (holdSettle i s).core i =
      { s.core i with tns := { (s.core i).tns with holding := h, hold := n } } := by
  simp only [holdSettle]
  split
  · exact ⟨updCore_onlyCore .., true, _, core_updTns ..⟩
  · exact ⟨.refl .., _, _, rfl⟩

/-- The loader with nothing to load takes nothing. -/
theorem Core.loaderTake_none {c : Core} (h : c.tns.loading = none) : c.loaderTake = c := by
  simp [Core.loaderTake, h]

/-- A row's updates move accumulator entries and nothing else of the array. -/
theorem Tensor.applyRow_acc (t : Tensor) (pair : Bool) (r : RowFlight) (a : TrunArgs) :
    t.applyRow pair r a = { t with acc := (t.applyRow pair r a).acc } := by
  refine List.foldlRecOn (motive := fun v : Tensor => v = { t with acc := v.acc }) _ _ rfl ?_
  intro v hv x _
  simp only [Tensor.setAcc]
  rw [hv]

section
variable {c : Cid} {s : State}

/-- A tile load starts and takes the entries that are there. -/
theorem tldtStart_starts {id slot n f q : Nat} {rest : List TCmd} (hup : s.down = false)
    (hruns : s.coreRuns (ci c) = true)
    (hcmd : (s.core (ci c)).tns.cmdq = { id := id, slot := slot, op := .tldt n f q } :: rest)
    (hfree : (s.core (ci c)).tns.loading = none) :
    let i := ci c
    let t := (s.core i).tns
    let cmd : TCmd := { id := id, slot := slot, op := .tldt n f q }
    let need := tldtData n f + tldtScales (s.blkB i f) f
    let es := (s.core i).wide (.tb q)
    ∃ u, exec (.tldtStart c) s = .next u ∧ OnlyCore i s u ∧ (u.core i).wide (.tb q) = es.drop need ∧
      (u.core i).tns.loading = some { cmd := cmd, need := need, taken := es.take need } ∧
      (u.core i).tns.cmdq = rest ∧ (u.core i).tns.front = t.front ∧ (u.core i).tns.acc = t.acc ∧
      (u.core i).slots = (s.core i).slots := by
  intro i t cmd need es
  have hexec : exec (.tldtStart c) s = .next (updCore i (fun x => Core.loaderTake { x with
      tns := { x.tns with cmdq := rest, loading := some { cmd := cmd, need := need } } }) s) := by
    rw [show exec (.tldtStart c) s = execTldtStart c s from rfl, execTldtStart, ifUp_eq hup]
    have harray : s.arrayRuns (ci c) = true := hruns
    simp only [hcmd, hfree, harray]
    rfl
  refine ⟨_, hexec, updCore_onlyCore .., ?_⟩
  rw [core_updCore_same]
  simp only [Core.loaderTake, cmd, Core.setWide, Core.wide, List.length_nil, Nat.sub_zero, List.nil_append,
    sget_sset_same, es, t]
  simp

theorem tldtComplete_fills {ld : Loading} {n f q : Nat} (hup : s.down = false) (hruns : s.coreRuns (ci c) = true)
    (hinner : (s.core (ci c)).inner = []) (hld : (s.core (ci c)).tns.loading = some ld)
    (hall : ld.need ≤ ld.taken.length) (hop : ld.cmd.op = .tldt n f q) :
    ∃ u, exec (.tldtComplete c) s = .next u ∧ TensorBecomes (ci c)
      (fun t => { t with loading := none, back := loadTile n f (s.blkB (ci c) f) ld.taken }) s u := by
  refine ⟨_, ?_, updTns_becomes ..⟩
  rw [show exec (.tldtComplete c) s = execTldtComplete c s from rfl, execTldtComplete, ifUp_eq hup]
  have harray : s.arrayRuns (ci c) = true := hruns
  simp only [hld, Nat.not_lt.2 hall, harray, hop, readInner_nil hinner]
  rfl

theorem tswapStart_swaps {id slot : Nat} {rest : List TCmd} (hup : s.down = false) (hruns : s.coreRuns (ci c) = true)
    (hcmd : (s.core (ci c)).tns.cmdq = { id := id, slot := slot, op := .tswap } :: rest)
    (hload : (s.core (ci c)).tns.loading = none) (hstream : (s.core (ci c)).tns.streaming = none) :
    ∃ u, exec (.tswapStart c) s = .next u ∧ TensorBecomes (ci c)
      (fun t => { t with cmdq := rest, front := t.back, back := t.front }) s u := by
  refine ⟨_, ?_, updTns_becomes ..⟩
  rw [show exec (.tswapStart c) s = execTswapStart c s from rfl, execTswapStart, ifUp_eq hup]
  have harray : s.arrayRuns (ci c) = true := hruns
  simp only [hcmd, hload, hstream, harray]
  rfl

theorem trunStart_starts {cmd : TCmd} {rest : List TCmd} (hup : s.down = false) (hruns : s.coreRuns (ci c) = true)
    (hcmd : (s.core (ci c)).tns.cmdq = cmd :: rest) (htrun : cmd.trun?.isSome)
    (hstream : (s.core (ci c)).tns.streaming = none) :
    ∃ u, exec (.trunStart c) s = .next u ∧ TensorBecomes (ci c)
      (fun t => { t with cmdq := rest, streaming := some { cmd := cmd } }) s u := by
  refine ⟨_, ?_, updTns_becomes ..⟩
  rw [show exec (.trunStart c) s = execTrunStart c s from rfl, execTrunStart, ifUp_eq hup]
  have harray : s.arrayRuns (ci c) = true := hruns
  have hsome : cmd.trun?.isNone = false := by
    rw [← Option.not_isSome, htrun]
    rfl
  simp only [hcmd, hsome, hstream, harray]
  rfl

/-- A row enters band 0: its bytes leave TA, it is in flight, and it is counted. -/
theorem trunRowEnter_enters {st : Streaming} {a : TrunArgs} {codes scales : List Nat} {rest : List Entry}
    (hup : s.down = false) (hruns : s.coreRuns (ci c) = true) (hinner : (s.core (ci c)).inner = [])
    (hst : (s.core (ci c)).tns.streaming = some st) (ha : st.cmd.trun? = some a)
    (hramp : (s.core (ci c)).tns.ramp = .active)
    (htake : trunTake a (a.k (s.core (ci c)).tns.front) (s.blkA (ci c) a.fmta) st.entered
      ((s.core (ci c)).wide (.ta a.qsel)) = some (codes, scales, rest))
    (hfree : (a.targets (s.core (ci c)).tns.front st.entered).all ((s.core (ci c)).tns.accFree st.cmd.id) = true) :
    let i := ci c
    let t := (s.core i).tns
    let row : RowFlight := ⟨st.cmd, st.entered, codes, scales, s.blkA i a.fmta, t.front⟩
    ∃ u, exec (.trunRowEnter c) s = .next u ∧ (u.core i).tns.rows = t.rows ++ [row] ∧
      (u.core i).wide (.ta a.qsel) = rest ∧
      (u.core i).tns.streaming =
        (if st.entered + 1 = a.count then none else some { st with entered := st.entered + 1 }) ∧
      (u.core i).tns.acc = t.acc ∧ (u.core i).slots = (s.core i).slots ∧
      u.liveAt (Reg.CORE_CNT_TROW c.s c.c) = min (s.liveAt (Reg.CORE_CNT_TROW c.s c.c) + 1) 0xFFFFFFFF ∧
      (∀ j, j ≠ i → u.core j = s.core j) ∧ u = { s with live := u.live, cores := u.cores } := by
  intro i t row
  have hexec : exec (.trunRowEnter c) s = .next (updTns i (fun t => { t with
      rows := t.rows ++ [row], holding := false,
      streaming := if st.entered + 1 = a.count then none else some { st with entered := st.entered + 1 } })
      (updCore i (fun x => x.setWide (.ta a.qsel) rest) (s.count (Reg.CORE_CNT_TROW c.s c.c)))) := by
    rw [show exec (.trunRowEnter c) s = execTrunRowEnter c s from rfl, execTrunRowEnter, ifUp_eq hup]
    have harray : s.arrayRuns (ci c) = true := hruns
    simp only [hst, ha, hramp, htake, hfree, harray, readInner_nil hinner]
    rfl
  refine ⟨_, hexec, ?_, ?_, ?_, ?_, ?_, ?_, ?_, rfl⟩
  · rw [core_updTns, core_updCore_same]; rfl
  · rw [core_updTns, core_updCore_same]
    exact sget_sset_same ..
  · rw [core_updTns]
  · rw [core_updTns, core_updCore_same]; rfl
  · rw [core_updTns, core_updCore_same]; rfl
  · exact (State.liveAt_count ..).trans (if_pos rfl)
  · intro j hj
    rw [updTns, State.core_updCore, if_neg hj, State.core_updCore, if_neg hj]
    rfl

/-- The oldest row in flight leaves, its updates made. -/
theorem trunRowUpdate_updates {r : RowFlight} {rest : List RowFlight} {a : TrunArgs} (hup : s.down = false)
    (hruns : s.coreRuns (ci c) = true) (hinner : (s.core (ci c)).inner = [])
    (hrows : (s.core (ci c)).tns.rows = r :: rest) (ha : r.cmd.trun? = some a)
    (hclr : (s.core (ci c)).tns.tclr = none) :
    let i := ci c
    ∃ u, exec (.trunRowUpdate c) s = .next u ∧ OnlyCore i s u ∧ (u.core i).tns.rows = rest ∧
      (u.core i).tns.acc =
        (({ (s.core i).tns with rows := rest } : Tensor).applyRow (s.modeBit F.GCTL_MODE.PAIR) r a).acc ∧
      (u.core i).slots = (s.core i).slots := by
  intro i
  have hexec : exec (.trunRowUpdate c) s = .next (holdSettle i (updTns i (fun t => Tensor.tclrSettle
      (({ t with rows := rest } : Tensor).applyRow (s.modeBit F.GCTL_MODE.PAIR) r a)) s)) := by
    rw [show exec (.trunRowUpdate c) s = execTrunRowUpdate c s from rfl, execTrunRowUpdate, ifUp_eq hup]
    have harray : s.arrayRuns (ci c) = true := hruns
    simp only [hrows, harray, readInner_nil hinner, ha]
    rfl
  have hsettle : Tensor.tclrSettle
      (({ (s.core i).tns with rows := rest } : Tensor).applyRow (s.modeBit F.GCTL_MODE.PAIR) r a) =
      ({ (s.core i).tns with rows := rest } : Tensor).applyRow (s.modeBit F.GCTL_MODE.PAIR) r a := by
    rw [Tensor.applyRow_acc, Tensor.tclrSettle]
    simp only [i, hclr]
  obtain ⟨honly, h, n, hcore⟩ := holdSettle_onlyCore i (updTns i (fun t => Tensor.tclrSettle
    (({ t with rows := rest } : Tensor).applyRow (s.modeBit F.GCTL_MODE.PAIR) r a)) s)
  refine ⟨_, hexec, (updCore_onlyCore ..).trans honly, ?_, ?_, ?_⟩
  · rw [hcore, core_updTns, hsettle, Tensor.applyRow_acc]
  · rw [hcore, core_updTns, hsettle]
  · rw [hcore, core_updTns]

end

/-- Settles O17, an event at a time. -/
theorem tensorTilesAndRows : Obligations.TensorTilesAndRows := by
  unfold Obligations.TensorTilesAndRows
  intro c s i t hup hruns hinner
  exact ⟨fun _ _ _ _ _ _ hcmd hfree => tldtStart_starts hup hruns hcmd hfree,
    fun _ _ _ _ hld hall hop => tldtComplete_fills hup hruns hinner hld hall hop,
    fun _ _ _ hcmd hload hstream => tswapStart_swaps hup hruns hcmd hload hstream,
    fun _ _ hcmd htrun hstream => trunStart_starts hup hruns hcmd htrun hstream,
    fun _ _ _ _ _ hst ha hramp htake hfree => trunRowEnter_enters hup hruns hinner hst ha hramp htake hfree,
    fun _ _ _ hrows ha hclr => trunRowUpdate_updates hup hruns hinner hrows ha hclr⟩

end Sys2Proof.Machine
end

section

/-! ## Drains, clears and the ramp (O18) -/

namespace Sys2Proof.Machine

open Sys2Proof

/-- Dropping keys by a test: those read the default, the others stand. -/
theorem sget_sdrop {α : Type} (d : Nat → α) (p : Nat → Bool) (m : SMap α) (k : Nat) :
    sget d (sdrop p m) k = if p k then d k else sget d m k := by
  induction m with
  | nil => simp [sdrop]
  | cons e m ih =>
    simp only [sdrop] at ih ⊢
    rw [List.filter_cons]
    by_cases he : k = e.1
    · subst he
      cases hp : p e.1 <;> simp_all
    · split <;> simp [he, ih]

section
variable {c : Cid} {s : State}

theorem tdrnStart_starts {id slot n r q : Nat} {p : Bool} {rest : List TCmd} (hup : s.down = false)
    (hruns : s.coreRuns (ci c) = true)
    (hcmd : (s.core (ci c)).tns.cmdq = { id := id, slot := slot, op := .tdrn n r p q } :: rest)
    (hdrn : (s.core (ci c)).tns.tdrn = none) (hclr : (s.core (ci c)).tns.tclr = none) :
    ∃ u, exec (.tdrnStart c) s = .next u ∧ TensorBecomes (ci c) (fun t =>
      { t with cmdq := rest, tdrn := some ({ id := id, slot := slot, op := .tdrn n r p q }, 0) }) s u := by
  refine ⟨_, ?_, updTns_becomes ..⟩
  rw [show exec (.tdrnStart c) s = execTdrnStart c s from rfl, execTdrnStart, ifUp_eq hup]
  have harray : s.arrayRuns (ci c) = true := hruns
  simp only [hcmd, hdrn, hclr, harray]
  rfl

/-- A clear that no earlier update holds up makes its rows fresh at once. -/
theorem tclrStart_clears {id slot n r : Nat} {rest : List TCmd} (hup : s.down = false)
    (hruns : s.coreRuns (ci c) = true)
    (hcmd : (s.core (ci c)).tns.cmdq = { id := id, slot := slot, op := .tclr n r } :: rest)
    (hdrn : (s.core (ci c)).tns.tdrn = none) (hclr : (s.core (ci c)).tns.tclr = none)
    (hdone : ∀ k, k < n → ({ (s.core (ci c)).tns with cmdq := rest } : Tensor).pendingUpdate id (r + k) = false) :
    let i := ci c
    ∃ u, exec (.tclrStart c) s = .next u ∧ OnlyCore i s u ∧ (u.core i).tns.cmdq = rest ∧
      (u.core i).tns.tclr = none ∧ (u.core i).slots = (s.core i).slots ∧
      ∀ key, (u.core i).tns.accAt key =
        if 128 * r ≤ key ∧ key < 128 * (r + n) then AccEntry.reset else (s.core i).tns.accAt key := by
  intro i
  have hexec : exec (.tclrStart c) s = .next (updTns i (fun t => Tensor.tclrSettle
      { t with cmdq := rest, tclr := some { id := id, slot := slot, op := .tclr n r } }) s) := by
    rw [show exec (.tclrStart c) s = execTclrStart c s from rfl, execTclrStart, ifUp_eq hup]
    have harray : s.arrayRuns (ci c) = true := hruns
    simp only [hcmd, hdrn, hclr, harray]
    rfl
  have hnone : ((List.range n).any fun k => ({ (s.core i).tns with
      cmdq := rest, tclr := some { id := id, slot := slot, op := .tclr n r } } : Tensor).pendingUpdate id (r + k)) =
      false := by
    rw [List.any_eq_false]
    exact fun k hk => Bool.eq_false_iff.1 (hdone k (List.mem_range.1 hk))
  refine ⟨_, hexec, updCore_onlyCore .., ?_⟩
  rw [core_updTns]
  simp only [Tensor.tclrSettle, hnone, Bool.false_eq_true, if_false, true_and]
  intro key
  rw [Tensor.accAt, sget_sdrop]
  simp [Tensor.accAt]

/-- What the ramp's events leave: the array of core i is `f` of what it was, `n` ramp cycles are counted, and nothing
else differs. -/
def RampMoves (c : Cid) (n : Nat) (f : Tensor → Tensor) (s u : State) : Prop :=
  u.core (ci c) = { s.core (ci c) with tns := f (s.core (ci c)).tns } ∧ (∀ j, j ≠ ci c → u.core j = s.core j) ∧
    u.liveAt (Reg.CORE_CNT_TRAMP c.s c.c) =
      (if n = 0 then s.liveAt (Reg.CORE_CNT_TRAMP c.s c.c)
        else min (s.liveAt (Reg.CORE_CNT_TRAMP c.s c.c) + n) 0xFFFFFFFF) ∧
    u = { s with live := u.live, cores := u.cores }

theorem rampMoves_updTns (c : Cid) (f : Tensor → Tensor) (s : State) : RampMoves c 0 f s (updTns (ci c) f s) := by
  obtain ⟨hother, -⟩ := updCore_onlyCore (ci c) (fun x => { x with tns := f x.tns }) s
  exact ⟨core_updTns .., hother, rfl, rfl⟩

/-- Ramp cycles counted, then a change of the array. -/
theorem rampMoves_count {n : Nat} (hn : 0 < n) (f : Tensor → Tensor) (s : State) :
    RampMoves c n f s (updTns (ci c) f (s.count (Reg.CORE_CNT_TRAMP c.s c.c) n)) := by
  obtain ⟨hother, -⟩ := updCore_onlyCore (ci c) (fun x => { x with tns := f x.tns })
    (s.count (Reg.CORE_CNT_TRAMP c.s c.c) n)
  refine ⟨core_updTns .., hother, ?_, rfl⟩
  rw [if_neg (by omega)]
  exact (State.liveAt_count ..).trans (if_pos rfl)

/-- Two changes of the array in a row are one. -/
theorem RampMoves.then {n : Nat} {f : Tensor → Tensor} {u : State} (h : RampMoves c n f s u) (k : Tensor → Tensor) :
    RampMoves c n (fun t => k (f t)) s (updTns (ci c) k u) := by
  obtain ⟨hcore, hother, hlive, hstate⟩ := h
  obtain ⟨kother, -⟩ := updCore_onlyCore (ci c) (fun x => { x with tns := k x.tns }) u
  refine ⟨by rw [core_updTns, hcore], fun j hj => (kother j hj).trans (hother j hj), hlive, ?_⟩
  show ({ u with cores := _ } : State) = _
  rw [hstate]
  rfl

/-- A hold that does not begin leaves the state alone. -/
theorem holdSettle_of_busy {i : Nat} {v : State} (h : (v.core i).tns.quiet = false) : holdSettle i v = v := by
  simp [holdSettle, h]

/-- Ramp-up ends in the active array; the hold begins at once where nothing more is to come. -/
theorem arrayActive_ramps {n : Nat} (hup : s.down = false) (hruns : s.coreRuns (ci c) = true)
    (hramp : (s.core (ci c)).tns.ramp = .up n) :
    exec (.arrayActive c) s = .next (holdSettle (ci c) (updTns (ci c) (fun t => { t with ramp := .active })
      (s.count (Reg.CORE_CNT_TRAMP c.s c.c) n))) := by
  rw [show exec (.arrayActive c) s = execArrayActive c s from rfl, execArrayActive, ifUp_eq hup]
  have harray : s.arrayRuns (ci c) = true := hruns
  simp only [hramp, harray]
  rfl

/-- The hold that begins as the array becomes active. -/
theorem holdSettle_active {v : State} (hquiet : (v.core (ci c)).tns.quiet = true)
    (hhold : (v.core (ci c)).tns.holding = false) :
    holdSettle (ci c) (updTns (ci c) (fun t => { t with ramp := .active }) v) =
      updTns (ci c) (fun t => { t with holding := true, hold := v.fld (Reg.CORE_TNS_CTL c.s c.c) F.CORE_TNS_CTL.HOLD })
        (updTns (ci c) (fun t => { t with ramp := .active }) v) := by
  have hcond : ∀ x : Tensor, x.quiet = true → x.holding = false → 
      (({ x with ramp := .active } : Tensor).ramp == .active && ({ x with ramp := .active } : Tensor).quiet &&
        !({ x with ramp := .active } : Tensor).holding) = true := by
    intro x hq hh
    have hq' : ({ x with ramp := .active } : Tensor).quiet = true := hq
    rw [hq']
    simp [hh]
  simp only [holdSettle]
  rw [core_updTns, if_pos (hcond _ hquiet hhold), ci_div, ci_mod]
  rfl

theorem holdExpiry_ramps (hup : s.down = false) (hruns : s.coreRuns (ci c) = true)
    (hramp : (s.core (ci c)).tns.ramp = .active) (hhold : (s.core (ci c)).tns.holding = true) :
    exec (.holdExpiry c) s = .next (updTns (ci c) (fun t => { t with ramp := .down 32, holding := false }) s) := by
  rw [show exec (.holdExpiry c) s = execHoldExpiry c s from rfl, execHoldExpiry, ifUp_eq hup]
  have harray : s.arrayRuns (ci c) = true := hruns
  simp only [hramp, hhold, harray]
  rfl

theorem arrayIdle_ramps {n : Nat} (hup : s.down = false) (hramp : (s.core (ci c)).tns.ramp = .down n) :
    exec (.arrayIdle c) s = .next (updTns (ci c) (fun t => { t with ramp := .idle })
      (s.count (Reg.CORE_CNT_TRAMP c.s c.c) n)) := by
  rw [show exec (.arrayIdle c) s = execArrayIdle c s from rfl, execArrayIdle, ifUp_eq hup]
  simp only [hramp]

end

/-! ### The drain -/

section
variable {pair p : Bool} {fold : Option (Nat × Nat)} {core : Core} {cmd : TCmd} {n count row q : Nat}

/-- The core after one entry of its drain has been pushed. -/
structure Drained (pair p : Bool) (fold : Option (Nat × Nat)) (cmd : TCmd) (n count row q : Nat) (c d : Core) :
    Prop where
  wide : d.wide (.td q) = c.wide (.td q) ++ [c.tns.drainEntry p pair (row + n / drainPer p) (n % drainPer p)]
  acc : d.tns.acc = c.tns.acc
  rows : d.tns.rows = c.tns.rows
  front : d.tns.front = c.tns.front
  streaming : d.tns.streaming = c.tns.streaming
  slots : d.slots = c.slots
  tdrn : d.tns.tdrn = if n + 1 = drainPer p * count then none else some (cmd, n + 1)
  glint : fold = none → d.glint = c.glint

/-- Of a core that takes entries into its loader only that loader and its queue move. -/
theorem Core.loaderTake_fields (c : Core) : ∃ ld tb, c.loaderTake =
    { c with tns := { c.tns with loading := ld, tb := tb } } := by
  unfold Core.loaderTake
  split
  · exact ⟨_, _, rfl⟩
  · split
    · exact ⟨_, _, rfl⟩
    · exact ⟨_, _, rfl⟩

theorem drainOne_drained (htdrn : core.tns.tdrn = some (cmd, n)) (hop : cmd.op = .tdrn count row p q)
    (hdone : core.tns.pendingUpdate cmd.id (row + n / drainPer p) = false)
    (hroom : (core.wide (.td q)).length < 16) :
    Drained pair p fold cmd n count row q core (drainOne pair fold core) := by
  have hno : (core.tns.pendingUpdate cmd.id (row + n / drainPer p) ||
      decide (wideCap ≤ (core.wide (.td q)).length)) = false := by
    rw [hdone, Bool.false_or, decide_eq_false_iff_not, wideCap]
    omega
  obtain ⟨ld, tb, hpush⟩ := Core.loaderTake_fields (core.setWide (.td q)
    (core.wide (.td q) ++ [core.tns.drainEntry p pair (row + n / drainPer p) (n % drainPer p)]))
  unfold drainOne
  simp only [htdrn, hop, hno, Bool.false_eq_true, if_false, Core.pushWide, hpush]
  rcases fold with _ | ⟨slot, base⟩
  · exact ⟨sget_sset_same .., rfl, rfl, rfl, rfl, rfl, rfl, fun _ => rfl⟩
  · exact ⟨sget_sset_same .., rfl, rfl, rfl, rfl, rfl, rfl, fun h => by cases h⟩

end

/-- What a drained core says of the updates still to come is what the core before said. -/
theorem Drained.pendingUpdate {pair p : Bool} {fold : Option (Nat × Nat)} {cmd : TCmd} {n count row q : Nat}
    {c d : Core} (h : Drained pair p fold cmd n count row q c d) (id r : Nat) :
    d.tns.pendingUpdate id r = c.tns.pendingUpdate id r := by
  unfold Tensor.pendingUpdate
  rw [h.rows, h.front, h.streaming]

theorem Drained.drainEntry {pair p : Bool} {fold : Option (Nat × Nat)} {cmd : TCmd} {n count row q : Nat}
    {c d : Core} (h : Drained pair p fold cmd n count row q c d) (r k : Nat) :
    d.tns.drainEntry p pair r k = c.tns.drainEntry p pair r k := by
  unfold Tensor.drainEntry Tensor.accAt
  rw [h.acc]

/-- A drain whose next two entries can be read and whose queue has room pushes both. -/
theorem tdrnPush_pushes {c : Cid} {s : State} {cmd : TCmd} {n count row q : Nat} {p : Bool} (hup : s.down = false)
    (hruns : s.coreRuns (ci c) = true) (hinner : (s.core (ci c)).inner = [])
    (htdrn : (s.core (ci c)).tns.tdrn = some (cmd, n)) (hop : cmd.op = .tdrn count row p q)
    (hfirst : (s.core (ci c)).tns.pendingUpdate cmd.id (row + n / drainPer p) = false)
    (hroom : ((s.core (ci c)).wide (.td q)).length < 15) (hmore : n + 2 ≤ drainPer p * count)
    (hsecond : (s.core (ci c)).tns.pendingUpdate cmd.id (row + (n + 1) / drainPer p) = false) :
    let i := ci c
    let t := (s.core i).tns
    let pair := s.modeBit F.GCTL_MODE.PAIR
    ∃ u, exec (.tdrnPush c) s = .next u ∧ OnlyCore i s u ∧ (u.core i).slots = (s.core i).slots ∧
      (u.core i).wide (.td q) = (s.core i).wide (.td q) ++
        [t.drainEntry p pair (row + n / drainPer p) (n % drainPer p),
         t.drainEntry p pair (row + (n + 1) / drainPer p) ((n + 1) % drainPer p)] ∧
      (u.core i).tns.acc = t.acc ∧
      (s.flag (Reg.CORE_GLINT_SEL c.s c.c) F.CORE_GLINT_SEL.EN = false → (u.core i).glint = (s.core i).glint) := by
  intro i t pair
  have harm : exec (.tdrnPush c) s = execTdrnPush c s := rfl
  rw [harm, execTdrnPush, ifUp_eq hup]
  have harray : s.arrayRuns (ci c) = true := hruns
  simp only [harray, Bool.not_true, Bool.false_eq_true, if_false, ci_div, ci_mod, readInner_nil hinner]
  generalize hfold : (if s.flag (Reg.CORE_GLINT_SEL c.s c.c) F.CORE_GLINT_SEL.EN = true then
    some (s.fld (Reg.CORE_GLINT_SEL c.s c.c) F.CORE_GLINT_SEL.SLOT,
      s.fld (Reg.CORE_GLINT_BASE c.s c.c) F.CORE_GLINT_BASE.BASE) else none) = fold
  have hone := drainOne_drained (pair := pair) (fold := fold) htdrn hop hfirst (by omega)
  have htdrn' : (drainOne pair fold (s.core i)).tns.tdrn = some (cmd, n + 1) := by
    rw [hone.tdrn, if_neg (by omega)]
  have htwo := drainOne_drained (pair := pair) (fold := fold) htdrn' hop (by rw [hone.pendingUpdate]; exact hsecond)
    (by rw [hone.wide, List.length_append, List.length_singleton]; omega)
  have hmoved : ((drainOne pair fold (drainOne pair fold (s.core i))).tns.tdrn == (s.core i).tns.tdrn) = false := by
    rw [htwo.tdrn, htdrn, beq_eq_false_iff_ne]
    split
    · exact nofun
    · intro h
      injection h with h
      injection h with _ h
      omega
  rw [if_neg (by rw [hmoved]; decide)]
  refine ⟨_, rfl, updCore_onlyCore .., ?_⟩
  rw [core_updCore_same]
  refine ⟨htwo.slots.trans hone.slots, ?_, htwo.acc.trans hone.acc, fun hoff => ?_⟩
  · rw [htwo.wide, hone.wide, hone.drainEntry, List.append_assoc, List.singleton_append]
  · have hnone : fold = none := by rw [← hfold, hoff]; rfl
    exact (htwo.glint hnone).trans (hone.glint hnone)

/-- Settles O18, an event at a time. -/
theorem tensorDrainsAndRamps : Obligations.TensorDrainsAndRamps := by
  unfold Obligations.TensorDrainsAndRamps
  intro c s i t hup
  refine ⟨fun hruns hinner => ⟨?_, ?_, ?_⟩, ?_, ?_, ?_, ?_⟩
  · exact fun _ _ _ _ _ _ _ hcmd hdrn hclr => tdrnStart_starts hup hruns hcmd hdrn hclr
  · exact fun _ _ _ _ _ _ htdrn hop hfirst hroom hmore hsecond =>
      tdrnPush_pushes hup hruns hinner htdrn hop hfirst hroom hmore hsecond
  · exact fun _ _ _ _ _ hcmd hdrn hclr hdone => tclrStart_clears hup hruns hcmd hdrn hclr hdone
  · intro n hramp hruns hquiet hn
    refine ⟨_, arrayActive_ramps hup hruns hramp, ?_⟩
    rw [holdSettle_of_busy (by rw [core_updTns]; exact hquiet)]
    exact rampMoves_count hn _ s
  · intro n hramp hruns hquiet hhold hn
    refine ⟨_, arrayActive_ramps hup hruns hramp, ?_⟩
    have hsettle := holdSettle_active (c := c) (v := s.count (Reg.CORE_CNT_TRAMP c.s c.c) n) hquiet hhold
    rw [hsettle]
    exact (rampMoves_count hn _ s).then _
  · exact fun hramp hhold hruns => ⟨_, holdExpiry_ramps hup hruns hramp hhold, rampMoves_updTns ..⟩
  · exact fun n hramp hn => ⟨_, arrayIdle_ramps hup hramp, rampMoves_count hn _ s⟩

end Sys2Proof.Machine
end

section

/-! ## Register writes: where a register lies, and the effect its accepted write has -/

namespace Sys2Proof.Machine

open Sys2Proof

/-- An accepted whole write of a register that feeds no vector is its effect on the indices of its row (R463). -/
theorem ifUp_pathWrite_row {p : Path} {a b n : Nat} {st : List (Nat × Nat)} {idx : List Nat} {v : Word32} {s : State}
    {f : List Nat → Word32 → State → State} (hacc : Accepts p a s)
    (hrow : (regRowAt a).map (fun r => (r.base, r.strides)) = some (b, st)) (hidx : rowIdx st (a - b) = idx)
    (heffect : regEffects.find? (fun e => e.1 == b) = some (n, f)) (hfeeds : feeds.find? (fun e => e.1 == b) = none)
    (hrst : a ≠ Reg.GCTL_RST) (hcmd : a ≠ Reg.SVC_MB_CMD) :
    ifUp s (.next (pathWrite p a v s)) = .next (f idx v s) := by
  obtain ⟨r, hr, heq⟩ := Option.map_eq_some_iff.1 hrow
  obtain ⟨rfl, hstrides⟩ := Prod.mk.inj heq
  have hup : s.down = false := hacc.1
  rw [ifUp_eq hup, pathWrite_eq hacc hr hrst hcmd, writeEffect_of heffect (by rw [feedVec, hfeeds]; rfl), hstrides, hidx]

/-! ### Groups of a core -/

/-- A register of the groups of a core has in every core and group the row of group 0 of core 0 of stack 0. -/
theorem ifUp_pathWrite_groupAddr {p : Path} {g : Gid} {v : Word32} {s : State} {b n : Nat}
    {f : List Nat → Word32 → State → State} (hacc : Accepts p (coreAddr (b + g.g * 0x10) g.s g.c) s) (hb : InCore (b + 0x70))
    (hlo : InCore b)
    (hrow : ∀ h : Fin 8, (regRowAt (b + h * 0x10)).map (fun r => (r.base, r.strides)) =
      some (b, [(24, 0x100000), (16, 0x1000), (8, 0x10)]))
    (heffect : regEffects.find? (fun e => e.1 == b) = some (n, f)) (hfeeds : feeds.find? (fun e => e.1 == b) = none) :
    ifUp s (.next (pathWrite p (coreAddr (b + g.g * 0x10) g.s g.c) v s)) = .next (f [g.s.val, g.c.val, g.g.val] v s) := by
  have hin : InCore (b + g.g * 0x10) := by unfold InCore at *; omega
  have hplace : ∀ a, a < 0x1000000 → coreAddr (b + g.g * 0x10) g.s g.c ≠ a := fun a ha => by
    unfold InCore at hin; unfold coreAddr; omega
  refine ifUp_pathWrite_row hacc ((congrArg _ (regRowAt_coreAddr hin g.s.isLt g.c.isLt)).trans (hrow g.g)) ?_ heffect
    hfeeds (hplace _ (by decide)) (hplace _ (by decide))
  have hd : coreAddr (b + g.g * 0x10) g.s g.c - b = g.s * 0x100000 + (g.c * 0x1000 + g.g * 0x10) := by
    unfold coreAddr; omega
  rw [hd, rowIdx, rowIdx, rowIdx, rowIdx]
  exact congrArg₂ List.cons (by omega) (congrArg₂ List.cons (by omega) (congrArg₂ List.cons (by omega) rfl))

end Sys2Proof.Machine
end

section

/-! ## Launch and ABANDON (O19) -/

namespace Sys2Proof.Machine

open Sys2Proof

theorem gi_div (g : Gid) : gi g / 16 = g.s := by unfold gi; omega

theorem gi_mod (g : Gid) : gi g % 16 = g.c := by unfold gi; omega

/-! ### Launches -/

section
variable {p : Path} {g : Gid} {s : State}

/-- An accepted write of a slot's control register (R65). -/
theorem exec_slotCtl (v : Word32) (hacc : Accepts p (Reg.CORE_Gg_CTL g.s g.c g.g) s) :
    ifUp s (.next (pathWrite p (Reg.CORE_Gg_CTL g.s g.c g.g) v s)) = .next (writeSlotCtl (gi g) g.g v s) := by
  have haddr : Reg.CORE_Gg_CTL g.s g.c g.g = coreAddr (0x1040104 + g.g * 0x10) g.s g.c := by
    unfold Reg.CORE_Gg_CTL coreAddr; omega
  rw [haddr] at hacc ⊢
  exact ifUp_pathWrite_groupAddr hacc (by unfold InCore; decide) (by unfold InCore; decide) (by decide) rfl rfl

/-- A launch arms an empty slot of a core that takes launches with valid bindings, or sets the flag of its refusal. -/
theorem launch_cases (how : SlotState) (g : Gid) (s : State) :
    launch how (gi g) g.g s =
      if s.noJob = true ∧ (s.slot (gi g) g.g).state = .empty ∧ s.coreLaunchable (gi g) = true then
        if s.bindValid (gi g) g.g then updSlot (gi g) g.g (fun _ => { Slot.reset with state := how }) s
        else s.setFlag (Reg.CORE_STAT g.s g.c) F.CORE_STAT.BIND_ERR
      else s.setFlag (Reg.CORE_STAT g.s g.c) F.CORE_STAT.LAUNCH_IGN := by
  simp only [launch, gi_div, gi_mod]
  by_cases hfree : s.noJob = true ∧ (s.slot (gi g) g.g).state = .empty ∧ s.coreLaunchable (gi g) = true
  · obtain ⟨hjob, hempty, hcore⟩ := hfree
    cases hbind : s.bindValid (gi g) g.g <;> simp [hjob, hempty, hcore]
  · have hrefused : (!s.noJob || (s.slot (gi g) g.g).state != .empty || !s.coreLaunchable (gi g)) = true := by
      rw [not_and_or, not_and_or] at hfree
      simpa [or_assoc] using hfree
    rw [if_neg hfree, if_pos hrefused]

end

/-! ### ABANDON: what is left of the core -/

/-- Slot g empties where it holds a group or is armed. -/
def Core.emptyOne (c : Core) (g : Nat) : Core :=
  if (c.slot g).state.held || (true && (c.slot g).state.armed) then c.setSlot g Slot.reset else c

theorem Core.slot_emptyOne (c : Core) (g h : Nat) : (c.emptyOne g).slot h =
    if h = g then (if (c.slot h).state = .empty then c.slot h else Slot.reset) else c.slot h := by
  have hheld : ∀ st : SlotState, (st.held || (true && st.armed)) = !decide (st = .empty) := by
    intro st
    cases st <;> rfl
  rw [Core.emptyOne, hheld]
  by_cases hempty : (c.slot g).state = .empty
  · by_cases hh : h = g
    · subst hh; simp [hempty]
    · simp [hempty, hh]
  · by_cases hh : h = g
    · subst hh; simp [hempty, Core.slot_setSlot]
    · simp [hempty, hh, Core.slot_setSlot]

theorem Core.slot_emptyBelow (c : Core) (n h : Nat) : ((List.range n).foldl Core.emptyOne c).slot h =
    if h < n then (if (c.slot h).state = .empty then c.slot h else Slot.reset) else c.slot h := by
  induction n with
  | zero => simp
  | succ n ih =>
    rw [List.range_succ, List.foldl_append, List.foldl_cons, List.foldl_nil, Core.slot_emptyOne, ih]
    by_cases hh : h = n
    · simp [hh]
    · have : h < n + 1 ↔ h < n := by omega
      simp [hh, this]

theorem Core.rpSettle_slot (c : Core) (h : Nat) : c.rpSettle.slot h = c.slot h := by
  unfold Core.rpSettle
  split <;> rfl

/-- Every slot below 8 of an emptied core is empty. -/
theorem slot_emptySlots (i g : Nat) (hg : g < 8) (s : State) : (emptySlots true i s).slot i g =
    if (s.slot i g).state = .empty then s.slot i g else Slot.reset := by
  have hcore : (emptySlots true i s).core i = ((List.range 8).foldl Core.emptyOne (s.core i)).rpSettle :=
    core_updCore_same ..
  rw [State.slot, hcore, Core.rpSettle_slot, Core.slot_emptyBelow, if_pos hg]
  rfl

theorem Core.l1_emptyBelow (c : Core) (n : Nat) : ((List.range n).foldl Core.emptyOne c).l1 = c.l1 := by
  refine List.foldlRecOn (motive := fun d : Core => d.l1 = c.l1) _ _ rfl fun d hd g _ => ?_
  unfold Core.emptyOne
  split
  · exact hd
  · exact hd

/-- The slots that empty leave the L1 alone. -/
theorem l1_emptySlots (i : Nat) (s : State) : ((emptySlots true i s).core i).l1 = (s.core i).l1 := by
  have hcore : (emptySlots true i s).core i = ((List.range 8).foldl Core.emptyOne (s.core i)).rpSettle :=
    core_updCore_same ..
  have hsettle : ∀ c : Core, c.rpSettle.l1 = c.l1 := by
    intro c
    unfold Core.rpSettle
    split <;> rfl
  rw [hcore, hsettle, Core.l1_emptyBelow]

/-- Core i is `c` but for an L1 with no miss register in use and nothing that waits for one. -/
def Drained1 (c : Core) (i : Nat) (t : State) : Prop :=
  ∃ x : L1, t.core i = { c with l1 := x } ∧ x.miss = [] ∧ x.waiting = []

section
variable {c : Core} {i j : Nat} {s t : State}

/-- What leaves the cores alone leaves a drained core drained. -/
theorem Drained1.of_keeps (h : Drained1 c i s) (hk : Keeps { cores := true } s t) : Drained1 c i t := by
  obtain ⟨-, -, hcores, -⟩ := hk
  obtain ⟨x, hx, hempty⟩ := h
  exact ⟨x, by rw [← hx, State.core, hcores rfl]; rfl, hempty⟩

/-- A change of an L1's lines and buffers leaves a drained core drained. -/
theorem Drained1.updL1 {f : L1 → L1} (h : Drained1 c i s)
    (hf : ∀ x : L1, x.miss = [] → x.waiting = [] → (f x).miss = [] ∧ (f x).waiting = []) :
    Drained1 c i (updL1 j f s) := by
  obtain ⟨x, hx, hmiss, hwait⟩ := h
  have hcore : (Machine.updL1 j f s).core i = if i = j then { s.core i with l1 := f (s.core i).l1 } else s.core i := by
    show (updCore j _ s).core i = _
    rw [State.core_updCore]
    split
    next h => rw [h]
    next => rfl
  by_cases hij : i = j
  · exact ⟨f x, by rw [hcore, if_pos hij, hx], hf x hmiss hwait⟩
  · exact ⟨x, by rw [hcore, if_neg hij, hx], hmiss, hwait⟩

theorem Drained1.l1Send {x : CLine} (h : Drained1 c i s) : Drained1 c i (l1Send j x s) :=
  h.of_keeps (l1Send_keeps rfl rfl rfl rfl .refl)

theorem Drained1.pastL1 {ac owner miss : Nat} {last : Bool} {bs : StoreBytes} (h : Drained1 c i s) :
    Drained1 c i (pastL1 j ac owner miss last bs s) :=
  h.of_keeps (pastL1_keeps rfl rfl rfl rfl .refl)

theorem Drained1.l1WbAck (h : Drained1 c i s) : Drained1 c i (l1WbAck j s) := by
  unfold Machine.l1WbAck
  split
  · exact h
  · exact Drained1.l1Send (h.updL1 fun _ hm hw => ⟨hm, hw⟩)

theorem Drained1.l1Evict {x : CLine} (h : Drained1 c i s) : Drained1 c i (l1Evict j x s) := by
  unfold Machine.l1Evict
  split
  · exact h
  · have hread : Drained1 c i (l1ReadDirty j x s).2 := h.of_keeps ((l1ReadDirty_keeps rfl).2 .refl)
    simp only
    refine Drained1.updL1 ?_ fun _ hm hw => ⟨hm, hw⟩
    split
    · exact hread.l1WbAck
    · exact hread

theorem Drained1.l1Install {l ac : Nat} {f : CLine → CLine} (h : Drained1 c i s) :
    Drained1 c i (l1Install j l ac f s) := by
  unfold Machine.l1Install
  simp only
  refine Drained1.updL1 ?_ fun _ hm hw => ⟨hm, hw⟩
  split
  · exact Drained1.l1Evict (h.updL1 fun _ hm hw => ⟨hm, hw⟩)
  · exact h.updL1 fun _ hm hw => ⟨hm, hw⟩

theorem Drained1.l1Update {x : CLine} (h : Drained1 c i s) : Drained1 c i (l1Update j x s) := by
  unfold Machine.l1Update
  split
  · exact h.updL1 fun _ hm hw => ⟨hm, hw⟩
  · exact h.updL1 fun _ hm hw => ⟨hm, hw⟩

theorem Drained1.l1StoreLine {ac owner miss l : Nat} {bs : List (Nat × Byte)} (h : Drained1 c i s) :
    Drained1 c i (l1StoreLine j ac owner miss l bs s) := by
  unfold Machine.l1StoreLine
  simp only
  split
  next x _ =>
    have hput : Drained1 c i (putBytes (l1Merge j x) x bs s).2.2 :=
      h.of_keeps ((putBytes_keeps_iff fun _ _ => l1Merge_keeps rfl).2 .refl)
    split
    · exact hput.l1Update.pastL1
    · exact hput.l1Update
  next =>
    split
    · split
      · exact h.l1Install.pastL1
      · exact h.l1Install
    · exact h.pastL1

theorem Drained1.deadMark {ac a : Nat} (h : Drained1 c i s) : Drained1 c i (deadMark j ac a s) := by
  have hmark : ∀ l, Drained1 c i (l1Mark j ac l s) := by
    intro l
    unfold l1Mark
    repeat' split
    · exact h
    · exact h.updL1 fun _ hm hw => ⟨hm, hw⟩
    · exact h
  unfold Machine.deadMark
  simp only
  split
  · exact h.updL1 fun _ hm hw => ⟨by simp [hm], hw⟩
  · split
    · exact (hmark _).of_keeps ((l2Mark_keeps rfl).2 .refl)
    · exact hmark _

theorem Drained1.forEach {α : Type} {xs : List α} {f : α → State → State}
    (hf : ∀ a v, Drained1 c i v → Drained1 c i (f a v)) (h : Drained1 c i s) : Drained1 c i (forEach xs f s) :=
  List.foldlRecOn xs _ h fun v hv a _ => hf a v hv

end

/-- Stores that still waited take effect, and every request of the core ends. -/
theorem settleStores_drained (i : Nat) (s : State) : Drained1 (s.core i) i (settleStores i s) := by
  have hclear : Drained1 (s.core i) i (updL1 i (fun c => { c with miss := [], waiting := [] }) s) :=
    ⟨_, core_updCore_same .., rfl, rfl⟩
  unfold settleStores
  refine Drained1.forEach (fun x v hv => hv.deadMark) (Drained1.forEach (fun x v hv => ?_) hclear)
  split
  · exact hv.l1StoreLine
  · exact hv

/-- With no store waiting nothing but the requests of the core ends. -/
theorem settleStores_of_idle {i : Nat} {s : State} (hmiss : (s.core i).l1.miss = [])
    (hwait : (s.core i).l1.waiting = []) :
    settleStores i s = updL1 i (fun c => { c with miss := [], waiting := [] }) s := by
  unfold settleStores
  simp [hmiss, hwait, forEach]

/-- The ramp of a core that is emptied moves, and nothing of the core but its array; no memory and no register. -/
structure ArrayOnly (i : Nat) (s t : State) : Prop where
  core : ∃ x, t.core i = { s.core i with tns := x }
  other : ∀ j, j ≠ i → t.core j = s.core j
  mem : t.mem = s.mem
  regs : t.regs = s.regs

theorem ArrayOnly.trans {i : Nat} {s t u : State} (h : ArrayOnly i s t) (k : ArrayOnly i t u) : ArrayOnly i s u where
  core := by
    obtain ⟨x, hx⟩ := h.core
    obtain ⟨y, hy⟩ := k.core
    exact ⟨y, by rw [hy, hx]⟩
  other j hj := (k.other j hj).trans (h.other j hj)
  mem := k.mem.trans h.mem
  regs := k.regs.trans h.regs

theorem arrayOnly_updTns {i : Nat} {s v : State} {f : Tensor → Tensor} (hcores : v.cores = s.cores)
    (hmem : v.mem = s.mem) (hregs : v.regs = s.regs) : ArrayOnly i s (updTns i f v) := by
  have hcore : v.core = s.core := by unfold State.core; rw [hcores]
  refine ⟨⟨_, by rw [core_updTns, hcore]⟩, fun j hj => ?_, hmem, hregs⟩
  show (updCore i _ v).core j = _
  rw [State.core_updCore, if_neg hj, hcore]

theorem ArrayOnly.refl (i : Nat) (s : State) : ArrayOnly i s s := ⟨⟨_, rfl⟩, fun _ _ => rfl, rfl, rfl⟩

theorem arrayOnly_rampPass (i : Nat) (s : State) : ArrayOnly i s (rampPass i s) := by
  unfold rampPass
  simp only
  split
  · exact arrayOnly_updTns rfl rfl rfl
  · exact arrayOnly_updTns rfl rfl rfl
  · exact .refl ..

theorem arrayOnly_tensorReset (i : Nat) (s : State) : ArrayOnly i s (tensorReset i s) := by
  have hdrop : ArrayOnly i s (rampDrop i s) := by
    unfold rampDrop
    split
    · exact .refl ..
    · exact .refl ..
    · exact arrayOnly_updTns rfl rfl rfl
    · exact arrayOnly_updTns rfl rfl rfl
  have hclear : ArrayOnly i (rampDrop i s) (updTns i (fun t => { Tensor.reset with ramp := t.ramp, nextId := t.nextId })
      (rampDrop i s)) := arrayOnly_updTns rfl rfl rfl
  exact hdrop.trans hclear

/-- ABANDON leaves every slot of the core empty and nothing of its loads and requests; where no store waited, it
touches no other core, no memory and no register. -/
theorem abandonCore_empties (i : Nat) (s : State) (hjob : s.noJob = true) :
    let t := abandonCore i s
    (∀ g, g < 8 → t.slot i g = if (s.slot i g).state = .empty then s.slot i g else Slot.reset) ∧
      (t.core i).loads = [] ∧ (t.core i).l1.miss = [] ∧ (t.core i).l1.waiting = [] ∧
      ((s.core i).l1.miss = [] → (s.core i).l1.waiting = [] →
        (∀ j, j ≠ i → t.core j = s.core j) ∧ t.mem = s.mem ∧ t.regs = s.regs) := by
  intro t
  have ht : t = tensorReset i (rampPass i (dropLoads i (emptySlots true i s))) := if_pos hjob
  have htail : ArrayOnly i (dropLoads i (emptySlots true i s)) t :=
    ht ▸ (arrayOnly_rampPass ..).trans (arrayOnly_tensorReset ..)
  obtain ⟨y, hy⟩ := htail.core
  obtain ⟨x, hx, hmiss, hwait⟩ := settleStores_drained i (emptySlots true i s)
  have hcore : t.core i = { (emptySlots true i s).core i with tns := y, l1 := x, loads := [] } := by
    rw [hy, dropLoads, core_updCore_same, hx]
  refine ⟨fun g hg => ?_, by rw [hcore], by rw [hcore]; exact hmiss, by rw [hcore]; exact hwait, fun hm hw => ?_⟩
  · have hslots : (t.core i).slots = ((emptySlots true i s).core i).slots := by rw [hcore]
    rw [← slot_emptySlots i g hg s]
    unfold State.slot Core.slot
    rw [hslots]
  · have hl1 := l1_emptySlots i s
    have hsettle := settleStores_of_idle (i := i) (s := emptySlots true i s) (by rw [hl1, hm]) (by rw [hl1, hw])
    have hempty : OnlyCore i s (emptySlots true i s) := updCore_onlyCore ..
    have hclear : OnlyCore i (emptySlots true i s) (settleStores i (emptySlots true i s)) := by
      rw [hsettle]
      exact updCore_onlyCore ..
    have hloads : OnlyCore i (settleStores i (emptySlots true i s)) (dropLoads i (emptySlots true i s)) :=
      updCore_onlyCore ..
    obtain ⟨hother, hstate⟩ := (hempty.trans hclear).trans hloads
    exact ⟨fun j hj => (htail.other j hj).trans (hother j hj), htail.mem.trans (by rw [hstate]),
      htail.regs.trans (by rw [hstate])⟩

/-- An accepted ABANDON (R69). -/
theorem exec_abandon {p : Path} {c : Cid} {s : State} (hacc : Accepts p (Reg.CORE_CTL c.s c.c) s) :
    exec (.abandon p c) s = .next (abandonCore (ci c) s) :=
  ifUp_pathWrite_coreAddr (b := 0x1040000) hacc (by unfold InCore; decide) (by decide) rfl rfl

/-- Settles O19: the launches by `launch_cases`, ABANDON by `abandonCore_empties`. -/
theorem slotsLaunchAndEmpty : Obligations.SlotsLaunchAndEmpty := by
  unfold Obligations.SlotsLaunchAndEmpty
  refine ⟨?launches, ?abandons⟩
  case launches =>
    intro p g s i stat free launches hacc
    have harms : ∀ ins st, exec ins s = .next (launch st (gi g) g.g s) → launches ins st := by
      intro ins st hexec
      simp only [launches]
      rw [hexec, launch_cases]
      refine ⟨fun hfree hbind => ?_, fun hfree hbind => ?_, fun hfree => ?_⟩
      · refine ⟨_, rfl, ?_⟩
        rw [if_pos hfree, if_pos hbind]
        exact updSlot_onlyCore ..
      · rw [if_pos hfree, if_neg (by rw [hbind]; decide)]
      · rw [if_neg hfree]
    exact ⟨harms _ _ (exec_slotCtl 1 hacc), harms _ _ (exec_slotCtl 2 hacc)⟩
  case abandons =>
    intro p c s hacc
    refine ⟨fun hjob => ⟨_, exec_abandon hacc, abandonCore_empties (ci c) s hjob⟩, fun hjob => ?_⟩
    rw [exec_abandon hacc, abandonCore, if_neg (by rw [hjob]; decide)]

end Sys2Proof.Machine
end

section

/-! ## The instruction cache (O21) -/

namespace Sys2Proof.Machine

open Sys2Proof

/-- A search whose hit is the only one finds it. -/
theorem findSome?_of_unique {α β : Type} [DecidableEq α] {l : List α} {f : α → Option β} {a : α} {b : β} (ha : a ∈ l)
    (hb : f a = some b) (hother : ∀ x ∈ l, x ≠ a → f x = none) : l.findSome? f = some b := by
  induction l with
  | nil => cases ha
  | cons x l ih =>
    rw [List.findSome?_cons]
    by_cases hx : x = a
    · rw [hx, hb]
    · rw [hother x List.mem_cons_self hx]
      exact ih ((List.mem_cons.1 ha).resolve_left (Ne.symm hx)) fun y hy => hother y (List.mem_cons_of_mem _ hy)

theorem firstBelow_lt {n k : Nat} {p : Nat → Bool} (h : firstBelow n p = some k) : k < n :=
  List.mem_range.1 (List.mem_of_find?_eq_some h)

theorem firstBelow_isSome {n k : Nat} {p : Nat → Bool} (hk : k < n) (hp : p k = true) :
    ∃ j, firstBelow n p = some j :=
  Option.isSome_iff_exists.1 (List.find?_isSome.2 ⟨k, List.mem_range.2 hk, hp⟩)

/-- The way a fill takes is one of the set's eight, unless all eight are pinned. -/
theorem ICache.victim_lt (ic : ICache) (t : Nat) (h : ic.pinnedIn t ≤ 7) : ic.victim t < 8 := by
  have hfree : ∃ w, w < 8 ∧ (((ic.way t w).map (·.pinned)).getD false) = false := by
    by_contra hall
    push Not at hall
    have hcount : ic.pinnedIn t = 8 := by
      rw [ICache.pinnedIn, List.countP_eq_length.2 fun w hw => by simpa using hall w (List.mem_range.1 hw)]
      rfl
    omega
  obtain ⟨w, hw, hunpinned⟩ := hfree
  unfold ICache.victim
  simp only
  split
  next k hk => exact firstBelow_lt hk
  next =>
    generalize sget (fun _ => 0) ic.rr t = p
    have hway : (p + (w + 8 - p % 8) % 8) % 8 = w := by omega
    obtain ⟨j, hj⟩ := firstBelow_isSome
      (p := fun n => !((ic.way t ((p + n) % 8)).map (·.pinned)).getD false) (n := 8) (k := (w + 8 - p % 8) % 8)
      (by omega) (by simp only [hway, hunpinned, Bool.not_false])
    rw [hj]
    exact Nat.mod_lt _ (by decide)

/-- A line installed is found, where the set held none of its tag and has a way to take. -/
theorem ICache.find_install (ic : ICache) (a : Nat) (x : ICLine) (htag : x.tag = icTag a) (hnone : ic.find a = none)
    (hpin : ic.pinnedIn (icSet a) ≤ 7) :
    (ic.install a x).find a = some (8 * icSet a + ic.victim (icSet a), x) := by
  have hmiss := List.findSome?_eq_none_iff.1 hnone
  have hways : ∀ w, sget (fun _ => none) (ic.install a x).lines (8 * icSet a + w) =
      if w = ic.victim (icSet a) then some x else sget (fun _ => none) ic.lines (8 * icSet a + w) := by
    intro w
    simp only [ICache.install, hnone]
    rw [sget_sset]
    simp
  refine findSome?_of_unique (List.mem_range.2 (ic.victim_lt _ hpin)) ?_ fun w hw hne => ?_
  · rw [hways, if_pos rfl]
    simp [htag]
  · rw [hways, if_neg hne]
    exact hmiss w hw

/-! ### CORE_IC_CTL -/

section
variable {p : Path} {c : Cid} {s : State}

/-- An accepted write of CORE_IC_CTL (R143, R144). -/
theorem exec_icCtl (v : Word32) (h : Accepts p (Reg.CORE_IC_CTL c.s c.c) s) :
    ifUp s (.next (pathWrite p (Reg.CORE_IC_CTL c.s c.c) v s)) = .next (writeIcCtl (ci c) v s) :=
  ifUp_pathWrite_coreAddr (b := 0x1040200) h (by unfold InCore; decide) (by decide) rfl rfl

/-- A trigger keeps PIN and sets its own bits. -/
theorem trigger_icCtl (s : State) (c : Cid) (bits : Word32) :
    s.trigger (Reg.CORE_IC_CTL c.s c.c) bits = (s.reg (Reg.CORE_IC_CTL c.s c.c) &&& 2) ||| bits := by
  have hrw : (regRowAt 0x1040200).map (·.rw) = some 2 := by decide
  have hrow : regRowAt (Reg.CORE_IC_CTL c.s c.c) = regRowAt 0x1040200 :=
    regRowAt_coreAddr (by unfold InCore; decide) c.s.isLt c.c.isLt
  rw [State.trigger, hrow, hrw]
  rfl

/-- A write of CORE_IC_CTL while a preload runs or a slot holds a group sets IGN. -/
theorem writeIcCtl_refused {v : Word32} (hv : v &&& 0xD ≠ 0) (h : s.icWritable (ci c) = false) :
    writeIcCtl (ci c) v s = s.setFlag (Reg.CORE_IC_STAT c.s c.c) F.CORE_IC_STAT.IGN := by
  unfold writeIcCtl
  rw [if_neg hv, h, Bool.not_false, if_pos rfl, icIgn, ci_div, ci_mod]

/-- What an accepted trigger of CORE_IC_CTL does: INVAL, then UNPIN_ALL, then PRELOAD. -/
theorem writeIcCtl_acts {v : Word32} (hv : v &&& 0xD ≠ 0) (h : s.icWritable (ci c) = true) :
    writeIcCtl (ci c) v s =
      (let s := s.setReg (Reg.CORE_IC_CTL c.s c.c) (v &&& 2)
       let s := if v.getLsbD 3 then icInvalidate (ci c) s else s
       let s := if v.getLsbD 2 then icUnpin (ci c) s else s
       if v.getLsbD 0 then icPreloadStart (v.getLsbD 1) (ci c) s else s) := by
  unfold writeIcCtl
  rw [if_neg hv, h, Bool.not_true, if_neg Bool.false_ne_true, ci_div, ci_mod]

/-- The bits of a trigger but PIN are the trigger's own. -/
theorem getLsbD_icTrigger (r bits : Word32) {i : Nat} (hi : i ≠ 1) :
    ((r &&& 2) ||| bits).getLsbD i = bits.getLsbD i := by
  have hpin : (2#32).getLsbD i = false := by
    rw [BitVec.getLsbD_ofNat, show 2 = 2 ^ 1 from rfl, Nat.testBit_two_pow]
    simp [Ne.symm hi]
  rw [BitVec.getLsbD_or, BitVec.getLsbD_and, BitVec.ofNat_eq_ofNat, hpin, Bool.and_false, Bool.false_or]

/-- A word with one of the trigger bits set triggers. -/
theorem icTrigger_ne_zero {v : Word32} {i : Nat} (hmask : (0xD#32).getLsbD i = true) (hv : v.getLsbD i = true) :
    v &&& 0xD ≠ 0 := by
  intro h
  have hbit : (v &&& 0xD).getLsbD i = true := by
    rw [BitVec.getLsbD_and, hv, BitVec.ofNat_eq_ofNat, hmask]
    rfl
  rw [h] at hbit
  simp at hbit

/-- A field apart from a flag reads the same after the flag is cleared. -/
theorem State.fld_clrFlag_ne (s : State) (a b : Nat) (f g : Fld) (h : f.lo < 32)
    (d : b ≠ a ∨ f.lo < g.lo ∨ g.lo + g.width ≤ f.lo) : (s.setFlag a f false).fld b g = s.fld b g := by
  unfold State.fld
  rw [State.reg_clrFlag]
  by_cases e : b = a
  · subst e
    rw [if_pos rfl]
    apply Fld.get_congr
    intro i h1 h2
    rw [getLsbD_and_bit _ _ _ h]
    simp
    omega
  · simp [e]

theorem updIc_core (i j : Nat) (f : ICache → ICache) (s : State) :
    (updIc i f s).core j = if j = i then { s.core i with ic := f (s.core i).ic } else s.core j :=
  State.core_updCore ..

theorem State.core_setFlag (s : State) (a : Nat) (f : Fld) (b : Bool) (j : Nat) :
    (s.setFlag a f b).core j = s.core j := by
  unfold State.setFlag
  split <;> rfl

theorem updIc_reg (i a : Nat) (f : ICache → ICache) (s : State) : (updIc i f s).reg a = s.reg a := rfl

theorem updIc_mem (i : Nat) (f : ICache → ICache) (s : State) : (updIc i f s).mem = s.mem := rfl

theorem updIc_fld (i a : Nat) (f : ICache → ICache) (g : Fld) (s : State) : (updIc i f s).fld a g = s.fld a g := rfl

theorem updIc_flag (i a : Nat) (f : ICache → ICache) (g : Fld) (s : State) : (updIc i f s).flag a g = s.flag a g := rfl

theorem State.setFlag_mem (s : State) (a : Nat) (f : Fld) (b : Bool) : (s.setFlag a f b).mem = s.mem := by
  unfold State.setFlag
  split <;> rfl

/-- The counts of a preload that starts, and its list of lines. -/
def preloadStarted (stat i : Nat) (lines : List Nat) (pin : Bool) (s : State) : State :=
  updIc i (fun ic => { ic with preload := some lines, preloadPin := pin })
    ((s.setFld stat F.CORE_IC_STAT.UNPINNED 0).setFlag stat F.CORE_IC_STAT.ERR false)

theorem icPreloadStart_eq (pin : Bool) {n : Nat} {v : State}
    (hn : v.fld (Reg.CORE_IC_PL_LEN c.s c.c) F.CORE_IC_PL_LEN.LINES = n) (h1 : 1 ≤ n) (h2 : n ≤ 2048) :
    icPreloadStart pin (ci c) v = preloadStarted (Reg.CORE_IC_STAT c.s c.c) (ci c)
      ((List.range n).map ((v.reg (Reg.CORE_IC_PL_ADDR c.s c.c)).toNat * 2 + ·)) pin v := by
  have hno : ¬(decide (n = 0) || decide (2048 < n)) = true := by
    simp only [Bool.or_eq_true, decide_eq_true_eq]
    omega
  have hfirst : ∀ a : Nat, a * 256 / 128 = a * 2 := fun a => by omega
  unfold icPreloadStart
  dsimp only
  rw [ci_div, ci_mod, hn, if_neg hno, hfirst]
  rfl

/-- A preload that starts: its lines, its counts afresh, and nothing else but its status. -/
theorem preloadStarted_effect (stat i : Nat) (lines : List Nat) (pin : Bool) (v : State) :
    let t := preloadStarted stat i lines pin v
    t.core i = { v.core i with ic := { (v.core i).ic with preload := some lines, preloadPin := pin } } ∧
    t.fld stat F.CORE_IC_STAT.UNPINNED = 0 ∧ t.flag stat F.CORE_IC_STAT.ERR = false ∧
    (∀ j, j ≠ i → t.core j = v.core j) ∧ (∀ a, a ≠ stat → t.reg a = v.reg a) ∧ t.mem = v.mem := by
  have hcore : ∀ j, ((v.setFld stat F.CORE_IC_STAT.UNPINNED 0).setFlag stat F.CORE_IC_STAT.ERR false).core j =
      v.core j := fun j => by rw [State.core_setFlag, State.setFld_core]
  simp only [preloadStarted]
  refine ⟨by rw [updIc_core, if_pos rfl, hcore], ?_, ?_, fun j hj => by rw [updIc_core, if_neg hj, hcore], ?_, ?_⟩
  · rw [updIc_fld, State.fld_clrFlag_ne _ _ _ _ _ (by decide) (.inr (.inr (by decide))),
      State.fld_setFld _ _ _ _ (by decide)]
    rfl
  · rw [updIc_flag, State.flag_eq, State.bit_clrFlag _ _ _ _ _ (by decide)]
    simp
  · intro a hstat
    rw [updIc_reg, State.reg_clrFlag, if_neg hstat, State.reg_setFld_ne _ _ _ hstat]
  · rw [updIc_mem, State.setFlag_mem, State.setFld_mem]

/-- Unpinning leaves each line in its place, pinned no more. -/
theorem icUnpin_unpins (i : Nat) (v : State) :
    ((icUnpin i v).core i).ic.pinned = 0 ∧ ((icUnpin i v).core i).ic.lines.map (·.1) = (v.core i).ic.lines.map (·.1) ∧
      ((icUnpin i v).core i).slots = (v.core i).slots := by
  unfold icUnpin
  rw [updIc_core, if_pos rfl]
  refine ⟨?_, by simp, rfl⟩
  unfold ICache.pinned
  rw [List.countP_eq_zero]
  intro e he
  obtain ⟨x, _, rfl⟩ := List.mem_map.1 he
  cases x.2 <;> simp

/-! ### Lines that arrive -/

/-- A line that a group missed on arrives and is found. -/
theorem icacheFill_installs {line : BitVec 33} {u : Upsets} {f : ICFetch} {tgt : Tgt} {d : List Byte} {v : State}
    (hup : s.down = false)
    (hfetch : ((upset u s).core (ci c)).ic.fetches.find? (fun f => f.line == line.toNat) = some f)
    (hl2 : (upset u s).l2Fetching (ci c / 16) line.toNat = false) (hruns : (upset u s).coreRuns (ci c) = true)
    (hbad : f.bad = none) (hmiss : (v.core (ci c)).ic.find (line.toNat * 128) = none)
    (hpin : (v.core (ci c)).ic.pinnedIn (icSet (line.toNat * 128)) ≤ 7) :
    let w := updIc (ci c) (fun ic => { ic with fetches := ic.fetches.erase f }) (upset u s)
    decodeFetch w (line.toNat * 128) = .ok tgt → readCodeLine (ci c) line.toNat w = (d, none, v) →
    ∃ t y, exec (.icacheFill c line u) s = .next t ∧ (t.core (ci c)).ic.find (line.toNat * 128) = some y ∧
      y.2.words = lineWords d ∧ y.2.pinned = false ∧ (t.core (ci c)).ic.fetches = (v.core (ci c)).ic.fetches ∧
      t = updIc (ci c) (fun _ => (t.core (ci c)).ic) v := by
  intro w hdecode hread
  have hexec : exec (.icacheFill c line u) s = .next (updIc (ci c) (fun ic => ic.install (line.toNat * 128)
      { tag := icTag (line.toNat * 128), pinned := false, words := lineWords d, dev := lineDev u line.toNat,
        refetched := f.refetch }) v) := by
    rw [show exec (.icacheFill c line u) s = execIcacheFill c line u s from rfl, execIcacheFill, ifUp_eq hup]
    simp only [w] at hdecode hread
    simp only [hfetch, hl2, hruns, hdecode, hbad, hread]
    rfl
  have hcore (x : ICLine) := (updIc_core (ci c) (ci c) (fun ic => ic.install (line.toNat * 128) x) v).trans (if_pos rfl)
  have hfind (x : ICLine) (htag : x.tag = icTag (line.toNat * 128)) :=
    ICache.find_install (v.core (ci c)).ic (line.toNat * 128) x htag hmiss hpin
  refine ⟨_, _, hexec, (congrArg (fun k : Core => k.ic.find (line.toNat * 128)) (hcore _)).trans (hfind _ rfl), ?_⟩
  rw [hcore]
  exact ⟨rfl, rfl, rfl, rfl⟩

/-- The next line of a preload is loaded as it was asked. -/
theorem icPreloadLine_loads {u : Upsets} {l : Nat} {rest : List Nat} (hup : s.down = false)
    (hlist : ((upset u s).core (ci c)).ic.preload = some (l :: rest))
    (hready : (upset u s).preloadWaits (ci c) l = false) :
    let w := updIc (ci c) (fun ic => { ic with preload := if rest.isEmpty then none else some rest }) (upset u s)
    exec (.icPreloadLine c u) s = .next (preloadLine u (w.core (ci c)).ic.preloadPin (ci c) l w) := by
  intro w
  rw [show exec (.icPreloadLine c u) s = execIcPreloadLine c u s from rfl, execIcPreloadLine, ifUp_eq hup]
  simp only [hlist, hready]
  rfl

/-- A preload with no line left ends. -/
theorem icPreloadLine_ends {u : Upsets} (hup : s.down = false)
    (hlist : ((upset u s).core (ci c)).ic.preload = some []) :
    exec (.icPreloadLine c u) s = .next (updIc (ci c) (fun ic => { ic with preload := none }) (upset u s)) := by
  rw [show exec (.icPreloadLine c u) s = execIcPreloadLine c u s from rfl, execIcPreloadLine, ifUp_eq hup]
  simp only [hlist]

/-- A line of a preload whose set has 7 pinned ways counts as not pinned. -/
theorem preloadLine_full {u : Upsets} {pin : Bool} {l : Nat} {tgt : Tgt} {w : State}
    (hdecode : decodeFetch w (l * 128) = .ok tgt) (hfull : 7 ≤ (w.core (ci c)).ic.pinnedIn (icSet (l * 128))) :
    preloadLine u pin (ci c) l w = w.bump (Reg.CORE_IC_STAT c.s c.c) F.CORE_IC_STAT.UNPINNED := by
  simp only [preloadLine, hdecode, if_pos hfull, ci_div, ci_mod]

/-- A trigger of CORE_IC_CTL that is accepted. -/
theorem exec_icTrigger (bits : Word32) (h : Accepts p (Reg.CORE_IC_CTL c.s c.c) s) :
    ifUp s (.next (pathTrigger p (Reg.CORE_IC_CTL c.s c.c) bits s)) =
      .next (writeIcCtl (ci c) ((s.reg (Reg.CORE_IC_CTL c.s c.c) &&& 2) ||| bits) s) := by
  rw [pathTrigger, trigger_icCtl]
  exact exec_icCtl _ h

theorem exec_icPreload (pin : Bool) (h : Accepts p (Reg.CORE_IC_CTL c.s c.c) s) :
    exec (.icPreload p c pin) s = .next (writeIcCtl (ci c) (if pin then 3 else 1) s) := exec_icCtl _ h

theorem exec_icInval (h : Accepts p (Reg.CORE_IC_CTL c.s c.c) s) :
    exec (.icInval p c) s = .next (writeIcCtl (ci c) ((s.reg (Reg.CORE_IC_CTL c.s c.c) &&& 2) ||| 8) s) :=
  exec_icTrigger 8 h

theorem exec_icUnpinAll (h : Accepts p (Reg.CORE_IC_CTL c.s c.c) s) :
    exec (.icUnpinAll p c) s = .next (writeIcCtl (ci c) ((s.reg (Reg.CORE_IC_CTL c.s c.c) &&& 2) ||| 4) s) :=
  exec_icTrigger 4 h

/-- The bits of a preload's write. -/
theorem preload_bits (pin : Bool) : (if pin then 3 else 1 : Word32).getLsbD 0 = true ∧
    (if pin then 3 else 1 : Word32).getLsbD 1 = pin ∧ (if pin then 3 else 1 : Word32).getLsbD 2 = false ∧
    (if pin then 3 else 1 : Word32).getLsbD 3 = false := by
  cases pin <;> decide

theorem icPreload_lists {pin : Bool} {n : Nat} (hacc : Accepts p (Reg.CORE_IC_CTL c.s c.c) s)
    (hok : s.icWritable (ci c) = true) (hn : s.fld (Reg.CORE_IC_PL_LEN c.s c.c) F.CORE_IC_PL_LEN.LINES = n)
    (h1 : 1 ≤ n) (h2 : n ≤ 2048) :
    ∃ t, exec (.icPreload p c pin) s = .next t ∧
      t.core (ci c) = { s.core (ci c) with ic := { (s.core (ci c)).ic with
        preload := some ((List.range n).map ((s.reg (Reg.CORE_IC_PL_ADDR c.s c.c)).toNat * 2 + ·)),
        preloadPin := pin } } ∧
      t.fld (Reg.CORE_IC_STAT c.s c.c) F.CORE_IC_STAT.UNPINNED = 0 ∧
      t.flag (Reg.CORE_IC_STAT c.s c.c) F.CORE_IC_STAT.ERR = false ∧ (∀ j, j ≠ ci c → t.core j = s.core j) ∧
      (∀ a, a ≠ Reg.CORE_IC_CTL c.s c.c → a ≠ Reg.CORE_IC_STAT c.s c.c → t.reg a = s.reg a) ∧ t.mem = s.mem := by
  obtain ⟨h0, hpin, hno2, hno3⟩ := preload_bits pin
  have hacts := writeIcCtl_acts (icTrigger_ne_zero (i := 0) (by decide) h0) hok
  rw [h0, hpin, hno2, hno3] at hacts
  have hexec := (exec_icPreload pin hacc).trans (congrArg _ hacts)
  have hlenAddr : Reg.CORE_IC_PL_LEN c.s c.c ≠ Reg.CORE_IC_CTL c.s c.c := by
    unfold Reg.CORE_IC_PL_LEN Reg.CORE_IC_CTL; omega
  have hfirstAddr : Reg.CORE_IC_PL_ADDR c.s c.c ≠ Reg.CORE_IC_CTL c.s c.c := by
    unfold Reg.CORE_IC_PL_ADDR Reg.CORE_IC_CTL; omega
  generalize (if pin then 3 else 1 : Word32) &&& 2 = v at hexec
  have hlen : (s.setReg (Reg.CORE_IC_CTL c.s c.c) v).fld (Reg.CORE_IC_PL_LEN c.s c.c) F.CORE_IC_PL_LEN.LINES = n := by
    rw [← hn, State.fld, State.fld, State.reg_setReg_ne _ _ hlenAddr]
  simp only [Bool.false_eq_true, if_false, if_true] at hexec
  rw [icPreloadStart_eq pin hlen h1 h2, State.reg_setReg_ne _ _ hfirstAddr] at hexec
  obtain ⟨hcore, hcount, herr, hother, hregs, hmem⟩ := preloadStarted_effect (Reg.CORE_IC_STAT c.s c.c) (ci c)
    ((List.range n).map ((s.reg (Reg.CORE_IC_PL_ADDR c.s c.c)).toNat * 2 + ·)) pin
    (s.setReg (Reg.CORE_IC_CTL c.s c.c) v)
  refine ⟨_, hexec, ?_, hcount, herr, fun j hj => ?_, fun a hctl hstat => ?_, ?_⟩
  · rw [hcore, State.setReg_core]
  · rw [hother j hj, State.setReg_core]
  · rw [hregs a hstat, State.reg_setReg_ne _ _ hctl]
  · rw [hmem, State.setReg_mem]

/-- INVAL empties the cache of the core. -/
theorem icInval_empties (hacc : Accepts p (Reg.CORE_IC_CTL c.s c.c) s) (hok : s.icWritable (ci c) = true) :
    ∃ t, exec (.icInval p c) s = .next t ∧ t.core (ci c) = { s.core (ci c) with ic := ICache.reset } ∧
      (∀ j, j ≠ ci c → t.core j = s.core j) ∧ (∀ a, a ≠ Reg.CORE_IC_CTL c.s c.c → t.reg a = s.reg a) ∧
      t.mem = s.mem := by
  have hbit (k : Nat) (hk : k ≠ 1) := getLsbD_icTrigger (s.reg (Reg.CORE_IC_CTL c.s c.c)) 8 hk
  have hacts := writeIcCtl_acts (icTrigger_ne_zero (i := 3) (by decide) ((hbit 3 (by decide)).trans (by decide))) hok
  rw [hbit 0 (by decide), hbit 2 (by decide), hbit 3 (by decide)] at hacts
  have hexec := (exec_icInval hacc).trans (congrArg _ hacts)
  generalize (s.reg (Reg.CORE_IC_CTL c.s c.c) &&& 2 ||| 8) &&& 2 = v at hexec
  have h8 : (8 : Word32).getLsbD 3 = true ∧ (8 : Word32).getLsbD 2 = false ∧ (8 : Word32).getLsbD 0 = false := by decide
  obtain ⟨h3, h2, h0⟩ := h8
  simp only [h3, h2, h0, Bool.false_eq_true, if_false, if_true, icInvalidate] at hexec
  refine ⟨_, hexec, ?_, fun j hj => ?_, fun a ha => ?_, ?_⟩
  · rw [updIc_core, if_pos rfl, State.setReg_core]
  · rw [updIc_core, if_neg hj, State.setReg_core]
  · rw [updIc_reg, State.reg_setReg_ne _ _ ha]
  · rw [updIc_mem, State.setReg_mem]

/-- UNPIN_ALL leaves no line pinned. -/
theorem icUnpinAll_unpins (hacc : Accepts p (Reg.CORE_IC_CTL c.s c.c) s) (hok : s.icWritable (ci c) = true) :
    ∃ t, exec (.icUnpinAll p c) s = .next t ∧ (t.core (ci c)).ic.pinned = 0 ∧
      (t.core (ci c)).ic.lines.map (·.1) = (s.core (ci c)).ic.lines.map (·.1) ∧
      (t.core (ci c)).slots = (s.core (ci c)).slots ∧ (∀ j, j ≠ ci c → t.core j = s.core j) ∧ t.mem = s.mem := by
  have hbit (k : Nat) (hk : k ≠ 1) := getLsbD_icTrigger (s.reg (Reg.CORE_IC_CTL c.s c.c)) 4 hk
  have hacts := writeIcCtl_acts (icTrigger_ne_zero (i := 2) (by decide) ((hbit 2 (by decide)).trans (by decide))) hok
  rw [hbit 0 (by decide), hbit 2 (by decide), hbit 3 (by decide)] at hacts
  have hexec := (exec_icUnpinAll hacc).trans (congrArg _ hacts)
  generalize (s.reg (Reg.CORE_IC_CTL c.s c.c) &&& 2 ||| 4) &&& 2 = v at hexec
  have h4 : (4 : Word32).getLsbD 3 = false ∧ (4 : Word32).getLsbD 2 = true ∧ (4 : Word32).getLsbD 0 = false := by decide
  obtain ⟨h3, h2, h0⟩ := h4
  simp only [h3, h2, h0, Bool.false_eq_true, if_false, if_true] at hexec
  obtain ⟨hpinned, hlines, hslots⟩ := icUnpin_unpins (ci c) (s.setReg (Reg.CORE_IC_CTL c.s c.c) v)
  rw [State.setReg_core] at hlines hslots
  refine ⟨_, hexec, hpinned, hlines, hslots, fun j hj => ?_, ?_⟩
  · rw [icUnpin, updIc_core, if_neg hj, State.setReg_core]
  · rw [icUnpin, updIc_mem, State.setReg_mem]

/-- Each trigger of CORE_IC_CTL sets IGN while a preload runs or a slot holds a group. -/
theorem icCtl_refused {pin : Bool} (hacc : Accepts p (Reg.CORE_IC_CTL c.s c.c) s)
    (hno : s.icWritable (ci c) = false) :
    exec (.icPreload p c pin) s = .next (s.setFlag (Reg.CORE_IC_STAT c.s c.c) F.CORE_IC_STAT.IGN) ∧
      exec (.icInval p c) s = .next (s.setFlag (Reg.CORE_IC_STAT c.s c.c) F.CORE_IC_STAT.IGN) ∧
      exec (.icUnpinAll p c) s = .next (s.setFlag (Reg.CORE_IC_STAT c.s c.c) F.CORE_IC_STAT.IGN) := by
  have hbit (bits : Word32) (i : Nat) (hi : i ≠ 1) (hmask : (0xD#32).getLsbD i = true)
      (hset : bits.getLsbD i = true) :=
    icTrigger_ne_zero hmask ((getLsbD_icTrigger (s.reg (Reg.CORE_IC_CTL c.s c.c)) bits hi).trans hset)
  obtain ⟨h0, -⟩ := preload_bits pin
  rw [exec_icPreload pin hacc, exec_icInval hacc, exec_icUnpinAll hacc,
    writeIcCtl_refused (icTrigger_ne_zero (i := 0) (by decide) h0) hno,
    writeIcCtl_refused (hbit 8 3 (by decide) (by decide) (by decide)) hno,
    writeIcCtl_refused (hbit 4 2 (by decide) (by decide) (by decide)) hno]
  exact ⟨rfl, rfl, rfl⟩

end

/-- Settles O21: the triggers by `writeIcCtl_acts`, a line that arrives by `ICache.find_install`. -/
theorem instructionCacheWorks : Obligations.InstructionCacheWorks := by
  unfold Obligations.InstructionCacheWorks
  refine ⟨?control, ?lines⟩
  case control =>
    intro p c pin s i ctl stat n first hacc
    exact ⟨fun hok h1 h2 => icPreload_lists hacc hok rfl h1 h2, icInval_empties hacc, icUnpinAll_unpins hacc,
      icCtl_refused hacc⟩
  case lines =>
    intro c u s i x hup
    refine ⟨fun line f tgt d v => ?_, fun l rest hlist hready => ⟨?_, ?_⟩, fun hlist => ?_⟩
    · intro l hfetch hl2 hruns hbad hmiss hpin
      exact icacheFill_installs hup hfetch hl2 hruns hbad hmiss hpin
    · exact icPreloadLine_loads hup hlist hready
    · exact fun tgt hdecode hfull => preloadLine_full hdecode hfull
    · exact icPreloadLine_ends hup hlist

end Sys2Proof.Machine
end

section

/-! ## Registers of a stack -/

namespace Sys2Proof.Machine

open Sys2Proof

/-- Where stack `s` has the register that stack 0 has at `b` (Table 1-7). -/
def stackAddr (b s : Nat) : Nat := b + s * 0x100000

/-- Is `b` a register of stack 0 outside its cores? -/
def InStack (b : Nat) : Prop := 0x1000000 ≤ b ∧ b < 0x1100000 ∧ (b < 0x1040000 ∨ 0x1050000 ≤ b)

/-- What a row in its block meets at a register of the stacks is the same in every stack. -/
theorem RegRow.meets_stackAddr {r : RegRow} (h : r.inItsBlock = true) {b : Nat} (hb : InStack b) :
    ∃ m, ∀ s, s < 24 → meets r.strides r.base (stackAddr b s) = m := by
  obtain ⟨base, strides⟩ := r
  obtain ⟨o, rfl⟩ : ∃ o, b = 0x1000000 + o := ⟨b - 0x1000000, by unfold InStack at hb; omega⟩
  have ho : o < 0x100000 := by unfold InStack at hb; omega
  have haddr : ∀ s, stackAddr (0x1000000 + o) s = 0x1000000 + (s * 0x100000 + o) := fun s => by
    unfold stackAddr; omega
  simp only [haddr]
  unfold RegRow.inItsBlock at h
  dsimp only at h ⊢
  split at h
  next t =>
    simp only [Bool.and_eq_true, decide_eq_true_eq] at h
    obtain ⟨k, rfl⟩ : ∃ k, base = 0x1000000 + k := ⟨base - 0x1000000, by omega⟩
    have hreach : strideReach ((16, 0x1000) :: t) = 0xF000 + strideReach t := rfl
    exact ⟨_, fun s hs => meets_stack (by omega) hs ho⟩
  next t _ =>
    simp only [Bool.and_eq_true, Bool.or_eq_true, decide_eq_true_eq] at h
    obtain ⟨k, rfl⟩ : ∃ k, base = 0x1000000 + k := ⟨base - 0x1000000, by omega⟩
    exact ⟨_, fun s hs => meets_stack (by omega) hs ho⟩
  next =>
    simp only [Bool.or_eq_true, decide_eq_true_eq] at h
    exact ⟨false, fun s hs => meets_of_outside (by omega)⟩

/-- A stack's register has the row of the same register of stack 0. -/
theorem regRowAt_stackAddr {b s : Nat} (hb : InStack b) (hs : s < 24) : regRowAt (stackAddr b s) = regRowAt b := by
  rw [regRowAt_eq_find, regRowAt_eq_find]
  refine List.find?_congr fun r hr => ?_
  obtain ⟨m, hm⟩ := RegRow.meets_stackAddr (regRows_inItsBlock r hr) hb
  exact (hm s hs).trans (hm 0 (by omega)).symm

/-- A command that writes a stack's register with an effect of its own has, where the write is accepted, that effect on
the stack. -/
theorem ifUp_pathWrite_stackAddr {p : Path} {k : StackId} {v : Word32} {s : State} {b n : Nat}
    {f : List Nat → Word32 → State → State} (hacc : Accepts p (stackAddr b k) s) (hb : InStack b)
    (hrow : (regRowAt b).map (fun r => (r.base, r.strides)) = some (b, [(24, 0x100000)]))
    (heffect : regEffects.find? (fun e => e.1 == b) = some (n, f)) (hfeeds : feeds.find? (fun e => e.1 == b) = none) :
    ifUp s (.next (pathWrite p (stackAddr b k) v s)) = .next (f [k.val] v s) := by
  have hplace : ∀ a, a < 0x1000000 → stackAddr b k ≠ a := fun a ha => by
    unfold InStack at hb; unfold stackAddr; omega
  refine ifUp_pathWrite_row hacc ((congrArg _ (regRowAt_stackAddr hb k.isLt)).trans hrow) ?_ heffect hfeeds
    (hplace _ (by decide)) (hplace _ (by decide))
  have hd : stackAddr b k - b = k * 0x100000 := by unfold stackAddr; omega
  rw [hd, rowIdx, rowIdx, Nat.mul_div_cancel _ (by decide)]

/-- The same of a register that a stack has once for each of `m` units, `x` bytes apart. -/
theorem ifUp_pathWrite_stackUnit {p : Path} {k : StackId} {m x : Nat} {j : Fin m} {v : Word32} {s : State} {b n : Nat}
    {f : List Nat → Word32 → State → State} (hacc : Accepts p (stackAddr (b + j.val * x) k) s) (hx : 0 < x)
    (hlo : InStack b) (hb : InStack (b + j.val * x)) (hreach : m * x ≤ 0x100000)
    (hrow : (regRowAt (b + j.val * x)).map (fun r => (r.base, r.strides)) = some (b, [(24, 0x100000), (m, x)]))
    (heffect : regEffects.find? (fun e => e.1 == b) = some (n, f)) (hfeeds : feeds.find? (fun e => e.1 == b) = none) :
    ifUp s (.next (pathWrite p (stackAddr (b + j.val * x) k) v s)) = .next (f [k.val, j.val] v s) := by
  have hplace : ∀ a, a < 0x1000000 → stackAddr (b + j.val * x) k ≠ a := fun a ha => by
    unfold InStack at hlo; unfold stackAddr; omega
  refine ifUp_pathWrite_row hacc ((congrArg _ (regRowAt_stackAddr hb k.isLt)).trans hrow) ?_ heffect hfeeds
    (hplace _ (by decide)) (hplace _ (by decide))
  have hd : stackAddr (b + j.val * x) k - b = k * 0x100000 + j.val * x := by unfold stackAddr; omega
  have hjx : j.val * x < 0x100000 := lt_of_lt_of_le ((Nat.mul_lt_mul_right hx).2 j.isLt) hreach
  rw [hd, rowIdx, rowIdx, rowIdx]
  have hdiv : (k * 0x100000 + j.val * x) / 0x100000 = k := by omega
  have hmod : (k * 0x100000 + j.val * x) % 0x100000 = j.val * x := by omega
  rw [hdiv, hmod, Nat.mul_div_cancel _ hx]

end Sys2Proof.Machine
end

section

/-! ## Channels: triggers, ABORT, CLEAR, HEAD and RSV (O22), and halts (O26) -/

namespace Sys2Proof.Machine

open Sys2Proof

-- Proofs in turn: each that waits on others while elaborated at once holds a stack, and the check limits the memory.
set_option Elab.async false

/-! ### One channel of one stack -/

theorem channelOnly_refl (k n : Nat) (s : State) : ChannelOnly k n s s :=
  ⟨fun _ _ => rfl, fun _ _ => rfl, rfl, rfl⟩

theorem channelOnly_trans {k n : Nat} {s t u : State} (h : ChannelOnly k n s t) (i : ChannelOnly k n t u) :
    ChannelOnly k n s u := by
  obtain ⟨hchan, hstk, hcores, hmem⟩ := h
  obtain ⟨ichan, istk, icores, imem⟩ := i
  exact ⟨fun m hm => (ichan m hm).trans (hchan m hm), fun j hj => (istk j hj).trans (hstk j hj),
    icores.trans hcores, imem.trans hmem⟩

/-- What leaves the stacks, the cores and memory alone leaves every channel alone. -/
theorem channelOnly_of_keeps {K : Kept} {k n : Nat} {s t : State} (h : Keeps K s t) (hc : K.cores = true := by rfl)
    (hk : K.stks = true := by rfl) (hm : K.mem = true := by rfl) : ChannelOnly k n s t := by
  obtain ⟨-, -, hcores, hstks, hmem, -⟩ := h
  have hstk : t.stk = s.stk := by
    unfold State.stk
    rw [hstks hk]
  exact ⟨fun m _ => by rw [State.chan, State.chan, hstk], fun j _ => by rw [hstk], hcores hc, hmem hm⟩

theorem chan_updChan (k n : Nat) (f : Chan → Chan) (s : State) : (updChan k n f s).chan k n = f (s.chan k n) := by
  rw [State.chan_updChan, if_pos ⟨rfl, rfl⟩]

theorem channelOnly_updChan (k n : Nat) (f : Chan → Chan) (s : State) : ChannelOnly k n s (updChan k n f s) := by
  refine ⟨fun m hm => ?_, fun j hj => ?_, rfl, rfl⟩
  · rw [State.chan_updChan, if_neg (fun h => hm h.2)]
  · show (s.setStk k _).stk j = _
    rw [State.stk_setStk, if_neg hj]

/-- What changes registers, counters and messages only. -/
abbrev quiet : Kept := { cores := true, stks := true, mem := true }

theorem Keeps.chanOnly {s t : State} (h : Keeps quiet s t) (k n : Nat) :
    t.chan k n = s.chan k n ∧ ChannelOnly k n s t := by
  refine ⟨?_, channelOnly_of_keeps h⟩
  obtain ⟨-, -, -, hstks, -⟩ := h
  rw [State.chan, State.chan, State.stk, State.stk, hstks rfl]

theorem chanOnly_setReg (k n a : Nat) (v : Word32) (s : State) :
    (s.setReg a v).chan k n = s.chan k n ∧ ChannelOnly k n s (s.setReg a v) :=
  ⟨rfl, fun _ _ => rfl, fun _ _ => rfl, rfl, rfl⟩

theorem setReg_regs (a : Nat) (v : Word32) (s : State) : s.setReg a v = { s with regs := (s.setReg a v).regs } := rfl

/-! ### What an activation starts with -/

/-- A channel that waits for its fetch. -/
def fetching (c : Chan) (tags : List Nat) (due : Option Nat) : Chan :=
  { c with phase := .fetch, tags := tags, got := none, due := due }

theorem fetching_fields (c : Chan) (tags : List Nat) (due : Option Nat) :
    (fetching c tags due).phase = .fetch ∧ (fetching c tags due).timer = c.timer ∧
      (fetching c tags due).born = c.born ∧ (fetching c tags due).code = c.code := ⟨rfl, rfl, rfl, rfl⟩

/-- The fetch that is issued: the channel waits for it, and nothing else of the stacks differs. -/
theorem issueFetch_fetches (k n : Nat) (s : State) :
    (∃ tags due, (issueFetch k n s).chan k n = fetching (s.chan k n) tags due) ∧
      ChannelOnly k n s (issueFetch k n s) := by
  have hfirst := channelOnly_updChan k n
    (fun c => { c with phase := .fetch, tags := [], got := none, due := some (s.seDue k) }) s
  have hchan := chan_updChan k n
    (fun c => { c with phase := .fetch, tags := [], got := none, due := some (s.seDue k) }) s
  unfold issueFetch
  simp only
  split
  next pkg b _ =>
    split
    · exact ⟨⟨_, _, hchan⟩, hfirst⟩
    · generalize updChan k n _ s = v at hfirst hchan
      obtain ⟨hsame, honly⟩ := (show Keeps quiet v (seMessage k n 2 pkg b 64 [] v).2 by simp [Keeps.refl]).chanOnly k n
      exact ⟨⟨_, _, by rw [chan_updChan, hsame, hchan]; rfl⟩, channelOnly_trans (channelOnly_trans hfirst honly) (channelOnly_updChan ..)⟩
  next => exact ⟨⟨_, _, hchan⟩, hfirst⟩

/-- The counter and registers of an activation that starts: its status cleared, CUR at HEAD where RELOAD is 1. -/
def activationRegs (k n : Nat) (s : State) : State :=
  let r := (s.count (Reg.STK_SE_CHn_CNT_ACT k n)).setReg (Reg.STK_SE_CHn_STAT k n)
    (s.reg (Reg.STK_SE_CHn_STAT k n) &&& 0x00070000)
  if r.flag (Reg.STK_SE_CHn_CTL k n) F.STK_SE_CHn_CTL.RELOAD then
    r.setPair (Reg.STK_SE_CHn_CUR_LO k n) (r.pair (Reg.STK_SE_CHn_HEAD_LO k n)) else r

theorem activationRegs_keeps (k n : Nat) (s : State) :
    Keeps { cores := true, stks := true, mem := true, tick := true } s (activationRegs k n s) := by
  unfold activationRegs
  simp only
  split <;> simp [Keeps.refl]

/-- The channel of an activation that starts. -/
def activated (timer : Bool) (v : State) (k n : Nat) : Chan → Chan := fun c =>
  { Chan.reset with timer := timer, fired := c.fired, late := c.late, born := v.tick.bnd,
                    budget := v.fld (Reg.STK_SE_CHn_BUDGET k n) F.STK_SE_CHn_BUDGET.LIMIT }

theorem startActivation_eq (k n : Nat) (timer : Bool) (s : State) :
    startActivation k n timer s =
      issueFetch k n (updChan k n (activated timer (activationRegs k n s) k n) (activationRegs k n s)) := by
  unfold startActivation
  extract_lets ctl stat r v
  have hv : activationRegs k n s = v := rfl
  rw [hv]
  clear_value v
  rfl

theorem activated_born {timer : Bool} {v s : State} {k n : Nat} {c : Chan} (h : v.tick = s.tick) :
    (activated timer v k n c).born = s.tick.bnd := congrArg Tick.bnd h

/-- An activation that starts: its first fetch is issued, and nothing else of the stacks differs. -/
theorem startActivation_starts (k n : Nat) (timer : Bool) (s : State) :
    ((startActivation k n timer s).chan k n).phase = .fetch ∧ ((startActivation k n timer s).chan k n).timer = timer ∧
      ((startActivation k n timer s).chan k n).born = s.tick.bnd ∧
      ((startActivation k n timer s).chan k n).code = 0 ∧ ChannelOnly k n s (startActivation k n timer s) := by
  have hkeeps := activationRegs_keeps k n s
  rw [startActivation_eq]
  generalize activationRegs k n s = v at hkeeps
  have hregs : ChannelOnly k n s v := channelOnly_of_keeps hkeeps
  obtain ⟨-, -, -, -, -, -, htick, -⟩ := hkeeps
  obtain ⟨⟨tags, due, hchan⟩, honly⟩ := issueFetch_fetches k n (updChan k n (activated timer v k n) v)
  obtain ⟨hphase, htimer, hborn, hcode⟩ := fetching_fields (activated timer v k n (v.chan k n)) tags due
  rw [chan_updChan] at hchan
  rw [hchan]
  exact ⟨hphase, htimer, hborn.trans (activated_born (htick rfl)), hcode,
    channelOnly_trans (channelOnly_trans hregs (channelOnly_updChan ..)) honly⟩

/-! ### Triggers -/

section
variable {k : StackId} {n : ChanId} {s : State} {timer : Bool}

/-- Does the channel's stack take triggers? -/
def StackInUse (k : Nat) (s : State) : Prop := s.stackAdmitted k = true ∧ (s.stk k).bonds.lost = false

theorem trigger_disabled (hen : s.flag (Reg.STK_SE_CHn_CTL k n) F.STK_SE_CHn_CTL.ENABLE = false) :
    trigger k n timer s = s := by
  unfold trigger
  rw [hen]
  rfl

theorem trigger_lost (hen : s.flag (Reg.STK_SE_CHn_CTL k n) F.STK_SE_CHn_CTL.ENABLE = true)
    (h : ¬StackInUse k s ∨ (s.chan k n).phase = .halted ∨ (s.chan k n).held.isSome) :
    trigger k n timer s = s.setFlag (Reg.STK_SE_CHn_STAT k n) F.STK_SE_CHn_STAT.TRIG_LOST := by
  have hlost : (!s.stackAdmitted k || (s.stk k).bonds.lost || decide ((s.chan k n).phase = .halted) ||
      (s.chan k n).held.isSome) = true := by
    rcases h with h | h | h
    · rw [StackInUse, not_and_or] at h
      rcases h with h | h <;> simp [h]
    · simp [h]
    · simp [h]
  unfold trigger
  dsimp only
  rw [hen, Bool.not_true, if_neg Bool.false_ne_true, if_pos hlost]
  rfl

section
variable (hen : s.flag (Reg.STK_SE_CHn_CTL k n) F.STK_SE_CHn_CTL.ENABLE = true) (huse : StackInUse k s)
  (hheld : (s.chan k n).held = none)
include hen huse hheld

theorem trigger_taken (hphase : (s.chan k n).phase ≠ .halted) :
    trigger k n timer s = if (s.chan k n).phase = .idle ∧ s.waiting = false then startActivation k n timer s
      else updChan k n (fun c => { c with held := some timer }) s := by
  obtain ⟨hadm, hbonds⟩ := huse
  have hnot : (!s.stackAdmitted k || (s.stk k).bonds.lost || decide ((s.chan k n).phase = .halted) ||
      (s.chan k n).held.isSome) = false := by
    simp [hadm, hbonds, hphase, hheld]
  unfold trigger
  dsimp only
  rw [hen, Bool.not_true, if_neg Bool.false_ne_true, hnot, if_neg Bool.false_ne_true]
  simp

end
end

/-! ### Status writes and failures -/

/-- A channel that waits for its status write. -/
def statusing (c : Chan) (tags : List Nat) (due : Option Nat) : Chan :=
  { c with phase := .status, code := if c.abort && c.code = 0 then 1 else c.code, tags := tags, got := none, due := due }

theorem statusing_fields (c : Chan) (tags : List Nat) (due : Option Nat) :
    (statusing c tags due).phase = .status ∧ (statusing c tags due).abort = c.abort ∧
      (statusing c tags due).code = (if c.abort && c.code = 0 then 1 else c.code) := ⟨rfl, rfl, rfl⟩

/-- The status write that is issued: the channel waits for it, and nothing else of the stacks differs. -/
theorem issueStatus_writes (k n : Nat) (s : State) :
    (∃ tags due, (issueStatus k n s).chan k n = statusing (s.chan k n) tags due) ∧
      ChannelOnly k n s (issueStatus k n s) := by
  unfold issueStatus
  extract_lets c code v a
  have hfirst : ChannelOnly k n s v := channelOnly_updChan ..
  have hchan : v.chan k n = statusing (s.chan k n) [] (some (s.seDue k)) := chan_updChan ..
  clear_value v
  split
  next pkg b _ =>
    split
    · exact ⟨⟨_, _, hchan⟩, hfirst⟩
    next st _ _ _ =>
      obtain ⟨hsame, honly⟩ := (show Keeps quiet v (seMessage k n 1 pkg (b + 0x38) 8 (leBytes 8 c.result)
        (seMessage k n 1 pkg (b + 4) 4 (leBytes 4 st) v).2).2 by simp [Keeps.refl]).chanOnly k n
      exact ⟨⟨_, _, by rw [chan_updChan, hsame, hchan]; rfl⟩,
        channelOnly_trans (channelOnly_trans hfirst honly) (channelOnly_updChan ..)⟩
  next => exact ⟨⟨_, _, hchan⟩, hfirst⟩

/-- A channel whose payload has failed waits for its bursts, or goes on to its status write. -/
theorem seSettle_failed {k n : Nat} {s : State} (hphase : (s.chan k n).phase = .exec) (hcode : (s.chan k n).code ≠ 0) :
    ((seSettle k n s).chan k n).abort = (s.chan k n).abort ∧ ((seSettle k n s).chan k n).code = (s.chan k n).code ∧
      (((seSettle k n s).chan k n).phase = .exec ∨ ((seSettle k n s).chan k n).phase = .status) ∧
      ChannelOnly k n s (seSettle k n s) := by
  obtain ⟨hsame, honly⟩ := (show Keeps quiet s (setBytesReg k n s) by simp [Keeps.refl]).chanOnly k n
  unfold seSettle
  extract_lets c v
  have hv : v.chan k n = s.chan k n := hsame
  have hvonly : ChannelOnly k n s v := honly
  clear_value v
  rw [if_neg (by simp [c, hphase]), if_pos (by simpa [c] using hcode)]
  split
  · obtain ⟨⟨tags, due, hchan⟩, hstatus⟩ := issueStatus_writes k n v
    obtain ⟨hstat, habort, hsame⟩ := statusing_fields (v.chan k n) tags due
    rw [← hchan, hv] at hsame habort
    rw [← hchan] at hstat
    refine ⟨habort, hsame.trans (if_neg ?_), .inr hstat, channelOnly_trans hvonly hstatus⟩
    simp [hcode]
  · rw [hv]
    exact ⟨rfl, rfl, .inl hphase, hvonly⟩

/-- What a failure makes of the channel: the first failure's code stands. -/
def failing (code detail epoch : Nat) (p : Burst → Bool) (c : Chan) : Chan :=
  if c.code = 0 then { c with code := code, detail := detail, epoch := epoch, listing := false }.drop p else c

theorem failing_fields (code detail epoch : Nat) (p : Burst → Bool) (c : Chan) :
    (failing code detail epoch p c).phase = c.phase ∧ (failing code detail epoch p c).abort = c.abort ∧
      (failing code detail epoch p c).code = if c.code = 0 then code else c.code := by
  unfold failing
  split <;> exact ⟨rfl, rfl, rfl⟩

theorem seFail_eq (k n code detail : Nat) (s : State) (epoch : Nat) (p : Burst → Bool) :
    seFail k n code detail s epoch p = seSettle k n (updChan k n (failing code detail epoch p) s) := rfl

/-- An executing channel that fails keeps its first failure's code. -/
theorem seFail_fails {k n code detail : Nat} {s : State} {epoch : Nat} {p : Burst → Bool}
    (hphase : (s.chan k n).phase = .exec) (hcode : code ≠ 0) :
    let t := seFail k n code detail s epoch p
    (t.chan k n).abort = (s.chan k n).abort ∧
      (t.chan k n).code = (if (s.chan k n).code = 0 then code else (s.chan k n).code) ∧
      ((t.chan k n).phase = .exec ∨ (t.chan k n).phase = .status) ∧ ChannelOnly k n s t := by
  intro t
  obtain ⟨hph, hab, hco⟩ := failing_fields code detail epoch p (s.chan k n)
  have hchan := chan_updChan k n (failing code detail epoch p) s
  have hne : (failing code detail epoch p (s.chan k n)).code ≠ 0 := by
    rw [hco]
    split
    · exact hcode
    · assumption
  obtain ⟨habort, hcode', hphase', honly⟩ := seSettle_failed (k := k) (n := n)
    (s := updChan k n (failing code detail epoch p) s) (by rw [hchan, hph, hphase]) (by rw [hchan]; exact hne)
  rw [hchan] at habort hcode'
  exact ⟨habort.trans hab, hcode'.trans hco, hphase', channelOnly_trans (channelOnly_updChan ..) honly⟩

/-! ### The registers of a channel -/

section
variable {p : Path} {k : StackId} {n : ChanId} {s : State}

/-- An accepted write of a channel's register with an effect of its own. -/
theorem ifUp_pathWrite_chan {b m : Nat} {v : Word32} {f : List Nat → Word32 → State → State}
    (hacc : Accepts p (stackAddr (b + n.val * 0x40) k) s) (hlo : 0x1010100 ≤ b) (hhi : b < 0x1010140)
    (hrow : ∀ j : Fin 32, (regRowAt (b + j.val * 0x40)).map (fun r => (r.base, r.strides)) =
      some (b, [(24, 0x100000), (32, 0x40)]))
    (heffect : regEffects.find? (fun e => e.1 == b) = some (m, f)) (hfeeds : feeds.find? (fun e => e.1 == b) = none) :
    ifUp s (.next (pathWrite p (stackAddr (b + n.val * 0x40) k) v s)) = .next (f [k.val, n.val] v s) :=
  ifUp_pathWrite_stackUnit hacc (by decide) (by unfold InStack; omega) (by unfold InStack; omega) (by decide)
    (hrow n) heffect hfeeds

theorem exec_seDoorbell (hacc : Accepts p (Reg.STK_SE_CHn_DB k n) s) :
    exec (.seDoorbell p k n) s = .next (trigger k n false s) := by
  have haddr : Reg.STK_SE_CHn_DB k n = stackAddr (0x101011C + n.val * 0x40) k := by
    unfold Reg.STK_SE_CHn_DB stackAddr; omega
  have hwrite : ifUp s (.next (pathWrite p (Reg.STK_SE_CHn_DB k n) 1 s)) = .next (writeChDb k n 1 s) := by
    rw [haddr] at hacc ⊢
    exact ifUp_pathWrite_chan hacc (by decide) (by decide) (by decide) rfl rfl
  exact hwrite

theorem exec_chCtl (v : Word32) (hacc : Accepts p (Reg.STK_SE_CHn_CTL k n) s) :
    ifUp s (.next (pathWrite p (Reg.STK_SE_CHn_CTL k n) v s)) = .next (writeChCtl k n v s) := by
  have haddr : Reg.STK_SE_CHn_CTL k n = stackAddr (0x1010100 + n.val * 0x40) k := by
    unfold Reg.STK_SE_CHn_CTL stackAddr; omega
  rw [haddr] at hacc ⊢
  exact ifUp_pathWrite_chan hacc (by decide) (by decide) (by decide) rfl rfl

theorem exec_seRsvWrite (v : Word32) (hacc : Accepts p (Reg.STK_SE_CHn_RSV k n) s) :
    exec (.seRsvWrite p k n v) s = .next (writeChRsv k n v s) := by
  have haddr : Reg.STK_SE_CHn_RSV k n = stackAddr (0x101012C + n.val * 0x40) k := by
    unfold Reg.STK_SE_CHn_RSV stackAddr; omega
  have hwrite : ifUp s (.next (pathWrite p (Reg.STK_SE_CHn_RSV k n) v s)) = .next (writeChRsv k n v s) := by
    rw [haddr] at hacc ⊢
    exact ifUp_pathWrite_chan hacc (by decide) (by decide) (by decide) rfl rfl
  exact hwrite

theorem headHi_addr (k n : Nat) : Reg.STK_SE_CHn_HEAD_HI k n = Reg.STK_SE_CHn_HEAD_LO k n + 4 := by
  unfold Reg.STK_SE_CHn_HEAD_HI Reg.STK_SE_CHn_HEAD_LO; omega

theorem exec_seHeadWrite (hi : Bool) (v : Word32)
    (hacc : Accepts p (if hi then Reg.STK_SE_CHn_HEAD_LO k n + 4 else Reg.STK_SE_CHn_HEAD_LO k n) s) :
    exec (.seHeadWrite p k n hi v) s = .next (writeChHead k n hi v s) := by
  have hlo : Reg.STK_SE_CHn_HEAD_LO k n = stackAddr (0x1010108 + n.val * 0x40) k := by
    unfold Reg.STK_SE_CHn_HEAD_LO stackAddr; omega
  have hhi : Reg.STK_SE_CHn_HEAD_HI k n = stackAddr (0x101010C + n.val * 0x40) k := by
    unfold Reg.STK_SE_CHn_HEAD_HI stackAddr; omega
  rw [← headHi_addr] at hacc
  have hwrite : ifUp s (.next (pathWrite p (if hi then Reg.STK_SE_CHn_HEAD_HI k n else Reg.STK_SE_CHn_HEAD_LO k n) v s)) =
      .next (writeChHead k n hi v s) := by
    cases hi with
    | true =>
      rw [if_pos rfl, hhi] at hacc ⊢
      exact ifUp_pathWrite_chan hacc (by decide) (by decide) (by decide) rfl rfl
    | false =>
      rw [if_neg Bool.false_ne_true, hlo] at hacc ⊢
      exact ifUp_pathWrite_chan hacc (by decide) (by decide) (by decide) rfl rfl
  exact hwrite

/-- A trigger of a channel's control register keeps its read-write bits. -/
theorem trigger_chCtl (s : State) (k : StackId) (n : ChanId) (bits : Word32) :
    s.trigger (Reg.STK_SE_CHn_CTL k n) bits = (s.reg (Reg.STK_SE_CHn_CTL k n) &&& 0x7FF) ||| bits := by
  have haddr : Reg.STK_SE_CHn_CTL k n = stackAddr (0x1010100 + n.val * 0x40) k := by
    unfold Reg.STK_SE_CHn_CTL stackAddr; omega
  have hrw : ∀ j : Fin 32, (regRowAt (0x1010100 + j.val * 0x40)).map (·.rw) = some 0x7FF := by decide
  have hrow : regRowAt (Reg.STK_SE_CHn_CTL k n) = regRowAt (0x1010100 + n.val * 0x40) := by
    rw [haddr]
    exact regRowAt_stackAddr (by unfold InStack; omega) k.isLt
  rw [State.trigger, hrow, hrw]
  rfl

end

/-! ### ABORT and CLEAR -/

/-- The word a trigger of a channel's control register leaves in it. -/
def ctlWord (old v : Word32) : Word32 :=
  F.STK_SE_CHn_CTL.TRIG.put (v &&& 0x7FF)
    (if F.STK_SE_CHn_CTL.TRIG.get v = 3 then F.STK_SE_CHn_CTL.TRIG.get old else F.STK_SE_CHn_CTL.TRIG.get v)

/-- Below bit 16 a trigger's word has the bits the register had. -/
theorem getLsbD_chTrigger {old bits : Word32} (hbits : ∀ i, i < 16 → bits.getLsbD i = false) {i : Nat} (hi : i < 11) :
    ((old &&& 0x7FF) ||| bits).getLsbD i = old.getLsbD i := by
  have hmask : (0x7FF#32).getLsbD i = true := by
    rw [BitVec.getLsbD_ofNat, show 0x7FF = 2 ^ 11 - 1 from rfl, Nat.testBit_two_pow_sub_one]
    simp
    omega
  rw [BitVec.getLsbD_or, BitVec.getLsbD_and, BitVec.ofNat_eq_ofNat, hmask, hbits i (by omega), Bool.and_true,
    Bool.or_false]

theorem ctlWord_same {old bits : Word32} (hbits : ∀ i, i < 16 → bits.getLsbD i = false) :
    F.STK_SE_CHn_CTL.TRIG.get (ctlWord old ((old &&& 0x7FF) ||| bits)) = F.STK_SE_CHn_CTL.TRIG.get old ∧
      F.STK_SE_CHn_CTL.ENABLE.get (ctlWord old ((old &&& 0x7FF) ||| bits)) = F.STK_SE_CHn_CTL.ENABLE.get old := by
  have htrig : F.STK_SE_CHn_CTL.TRIG.get ((old &&& 0x7FF) ||| bits) = F.STK_SE_CHn_CTL.TRIG.get old :=
    Fld.get_congr _ _ _ fun i h1 h2 => getLsbD_chTrigger hbits (by unfold F.STK_SE_CHn_CTL.TRIG at h1 h2; dsimp only at h1 h2; omega)
  have hmask : ∀ i, i < 11 → (((old &&& 0x7FF) ||| bits) &&& 0x7FF).getLsbD i = old.getLsbD i := by
    intro i hi
    have hmask : (0x7FF#32).getLsbD i = true := by
      rw [BitVec.getLsbD_ofNat, show 0x7FF = 2 ^ 11 - 1 from rfl, Nat.testBit_two_pow_sub_one]
      simp
      omega
    rw [BitVec.getLsbD_and, getLsbD_chTrigger hbits hi, BitVec.ofNat_eq_ofNat, hmask, Bool.and_true]
  unfold ctlWord
  rw [htrig, ite_self, Fld.get_put _ _ _ (by decide), Fld.get_put_ne _ _ _ _ (by decide) (by decide)]
  exact ⟨Nat.mod_eq_of_lt (Nat.mod_lt _ (by decide)), Fld.get_congr _ _ _ fun i h1 h2 =>
    hmask i (by unfold F.STK_SE_CHn_CTL.ENABLE at h1 h2; dsimp only at h1 h2; omega)⟩


section
variable {p : Path} {k : StackId} {n : ChanId} {s : State}

/-- A trigger of a channel's control register that writes `bits` does what they ask for, and no more. -/
theorem writeChCtl_trigger (bits : Word32) (hbits : ∀ i, i < 16 → bits.getLsbD i = false) :
    ∃ v, writeChCtl k n ((s.reg (Reg.STK_SE_CHn_CTL k n) &&& 0x7FF) ||| bits) s =
      let t := s.setReg (Reg.STK_SE_CHn_CTL k n) v
      let t := if bits.getLsbD 16 then abortCh k n t else t
      if bits.getLsbD 17 then clearCh k n t else t := by
  have h16 : ∀ i, 16 ≤ i →
      ((s.reg (Reg.STK_SE_CHn_CTL k n) &&& 0x7FF) ||| bits).getLsbD i = bits.getLsbD i := by
    intro i hi
    rw [BitVec.getLsbD_or, BitVec.getLsbD_and, BitVec.ofNat_eq_ofNat, BitVec.getLsbD_ofNat,
      Nat.testBit_lt_two_pow (lt_of_lt_of_le (by decide : 0x7FF < 2 ^ 16) (Nat.pow_le_pow_right (by decide) hi))]
    simp
  obtain ⟨htrig, hen⟩ := ctlWord_same (old := s.reg (Reg.STK_SE_CHn_CTL k n)) hbits
  refine ⟨ctlWord (s.reg (Reg.STK_SE_CHn_CTL k n)) ((s.reg (Reg.STK_SE_CHn_CTL k n) &&& 0x7FF) ||| bits), ?_⟩
  unfold writeChCtl
  dsimp only
  rw [h16 16 (by decide), h16 17 (by decide)]
  unfold ctlWord at htrig hen ⊢
  rw [htrig, hen, bne_self_eq_false, bne_self_eq_false, Bool.or_self, if_neg Bool.false_ne_true]

/-- An accepted trigger of a channel's control register. -/
theorem exec_chTrigger (bits : Word32) (hbits : ∀ i, i < 16 → bits.getLsbD i = false)
    (hacc : Accepts p (Reg.STK_SE_CHn_CTL k n) s) :
    ∃ v, ifUp s (.next (pathTrigger p (Reg.STK_SE_CHn_CTL k n) bits s)) = .next (
      let t := s.setReg (Reg.STK_SE_CHn_CTL k n) v
      let t := if bits.getLsbD 16 then abortCh k n t else t
      if bits.getLsbD 17 then clearCh k n t else t) := by
  obtain ⟨v, hv⟩ := writeChCtl_trigger (k := k) (n := n) (s := s) bits hbits
  exact ⟨v, by rw [pathTrigger, trigger_chCtl, exec_chCtl _ hacc, hv]⟩

theorem exec_seAbort (hacc : Accepts p (Reg.STK_SE_CHn_CTL k n) s) :
    ∃ v, exec (.seAbort p k n) s = .next (abortCh k n (s.setReg (Reg.STK_SE_CHn_CTL k n) v)) := by
  obtain ⟨v, hv⟩ := exec_chTrigger (k := k) (n := n) (s := s) 0x10000 (fun i hi => by interval_cases i <;> rfl) hacc
  have h16 : (0x10000 : Word32).getLsbD 16 = true := rfl
  have h17 : (0x10000 : Word32).getLsbD 17 = false := rfl
  dsimp only at hv
  rw [h16, h17, if_pos rfl, if_neg Bool.false_ne_true] at hv
  exact ⟨v, by rw [show exec (.seAbort p k n) s = execSeAbort p k n s from rfl, execSeAbort, hv]⟩

theorem exec_seClear (hacc : Accepts p (Reg.STK_SE_CHn_CTL k n) s) :
    ∃ v, exec (.seClear p k n) s = .next (clearCh k n (s.setReg (Reg.STK_SE_CHn_CTL k n) v)) := by
  obtain ⟨v, hv⟩ := exec_chTrigger (k := k) (n := n) (s := s) 0x20000 (fun i hi => by interval_cases i <;> rfl) hacc
  have h16 : (0x20000 : Word32).getLsbD 16 = false := rfl
  have h17 : (0x20000 : Word32).getLsbD 17 = true := rfl
  dsimp only at hv
  rw [h16, h17, if_pos rfl, if_neg Bool.false_ne_true] at hv
  exact ⟨v, by rw [show exec (.seClear p k n) s = execSeClear p k n s from rfl, execSeClear, hv]⟩

/-- An executing channel that is aborted fails with ABORTED, unless it has failed before. -/
theorem abortCh_exec (hphase : (s.chan k n).phase = .exec) :
    ((abortCh k n s).chan k n).abort = true ∧
      ((abortCh k n s).chan k n).code = (if (s.chan k n).code = 0 then 1 else (s.chan k n).code) ∧
      (((abortCh k n s).chan k n).phase = .exec ∨ ((abortCh k n s).chan k n).phase = .status) ∧
      ChannelOnly k n s (abortCh k n s) := by
  have habort : abortCh k n s = seFail k n 1 0 (updChan k n (fun c => { c with abort := true }) s) 0
      fun b => !(s.chan k n).underWay b := by
    unfold abortCh
    dsimp only
    rw [if_neg (by simp [hphase]), if_pos hphase]
  have hchan := chan_updChan k n (fun c => { c with abort := true }) s
  have honly := channelOnly_updChan k n (fun c => { c with abort := true }) s
  rw [habort]
  generalize updChan k n _ s = t at hchan honly
  obtain ⟨hab, hcode, hph, hfail⟩ := seFail_fails (k := k) (n := n) (detail := 0) (epoch := 0)
    (p := fun b => !(s.chan k n).underWay b) (s := t) (show (t.chan k n).phase = .exec by rw [hchan]; exact hphase)
    Nat.one_ne_zero
  rw [hchan] at hab hcode
  exact ⟨hab, hcode, hph, channelOnly_trans honly hfail⟩

theorem abortCh_waits (hidle : (s.chan k n).phase ≠ .idle) (hhalt : (s.chan k n).phase ≠ .halted)
    (hexec : (s.chan k n).phase ≠ .exec) : abortCh k n s = updChan k n (fun c => { c with abort := true }) s := by
  unfold abortCh
  dsimp only
  rw [if_neg (by simp [hidle, hhalt]), if_neg hexec]

theorem abortCh_still (h : (s.chan k n).phase = .idle ∨ (s.chan k n).phase = .halted) : abortCh k n s = s :=
  if_pos h

theorem clearCh_halted (h : (s.chan k n).phase = .halted) :
    clearCh k n s = updChan k n (fun c => { c with phase := .idle }) s :=
  if_pos h

theorem clearCh_running (h : (s.chan k n).phase ≠ .halted) : clearCh k n s = s :=
  if_neg h

end

/-! ### The tick timer -/

/-- Time that passes moves the clocks alone. -/
theorem advance_clocks (t : Nat) (s : State) :
    ∃ now tb tsync, s.advance t = { s with now := now, tb := tb, tsync := tsync } := by
  unfold State.advance
  split
  · split
    · exact ⟨_, _, _, rfl⟩
    · exact ⟨_, _, _, rfl⟩
  · exact ⟨_, _, _, rfl⟩

theorem advanceTb_clocks (t : Nat) (s : State) :
    ∃ now tb tsync, s.advanceTb t = { s with now := now, tb := tb, tsync := tsync } := by
  unfold State.advanceTb
  split
  · obtain ⟨now, tb, tsync, h⟩ := advance_clocks (s.now + s.tsync.wait (t - s.tb)) s
    dsimp only
    rw [h]
    exact ⟨_, _, _, rfl⟩
  · exact ⟨_, _, _, rfl⟩

section
variable {k : StackId} {n : ChanId} {s : State}

section
variable (hup : s.down = false) (htrig : s.fld (Reg.STK_SE_CHn_CTL k n) F.STK_SE_CHn_CTL.TRIG = 1)
  (hfired : (s.chan k n).fired = false) (hlate : (s.chan k n).late = false)
  (hen : s.flag (Reg.STK_SE_CHn_CTL k n) F.STK_SE_CHn_CTL.ENABLE = true)
include hup htrig hfired hlate hen

/-- A timer whose offset the tick does not reach is missed. -/
theorem timer_missed
    (hoff : s.tick.period ≤ s.fld (Reg.STK_SE_CHn_TIMER k n) F.STK_SE_CHn_TIMER.OFFSET) :
    exec (.seTimerTrigger k n) s = .next ((updChan k n (fun c => { c with late := true }) s).setFlag
      (Reg.STK_SE_CHn_STAT k n) F.STK_SE_CHn_STAT.MISSED) := by
  rw [show exec (.seTimerTrigger k n) s = execSeTimerTrigger k n s from rfl, execSeTimerTrigger, ifUp_eq hup]
  dsimp only
  rw [htrig, hfired, hlate, bne_self_eq_false, Bool.or_self, Bool.or_self, if_neg Bool.false_ne_true, if_pos hoff]
  rw [show (updChan k n (fun c => { c with late := true }) s).flag (Reg.STK_SE_CHn_CTL k n)
    F.STK_SE_CHn_CTL.ENABLE = true from hen, if_pos rfl]

theorem timer_fires
    (hoff : s.fld (Reg.STK_SE_CHn_TIMER k n) F.STK_SE_CHn_TIMER.OFFSET < s.tick.period) :
    exec (.seTimerTrigger k n) s = .next (trigger k n true ((updChan k n (fun c => { c with fired := true }) s).advanceTb
      (64 * (s.tick.bnd + s.fld (Reg.STK_SE_CHn_TIMER k n) F.STK_SE_CHn_TIMER.OFFSET)))) := by
  rw [show exec (.seTimerTrigger k n) s = execSeTimerTrigger k n s from rfl, execSeTimerTrigger, ifUp_eq hup]
  dsimp only
  rw [htrig, hfired, hlate, bne_self_eq_false, Bool.or_self, Bool.or_self, if_neg Bool.false_ne_true,
    if_neg (by omega)]
  rfl

/-- The timer of an idle channel starts an activation. -/
theorem timer_starts (huse : StackInUse k s) (hphase : (s.chan k n).phase = .idle) (hheld : (s.chan k n).held = none)
    (hwait : s.waiting = false)
    (hoff : s.fld (Reg.STK_SE_CHn_TIMER k n) F.STK_SE_CHn_TIMER.OFFSET < s.tick.period) :
    ∃ t, exec (.seTimerTrigger k n) s = .next t ∧ (t.chan k n).phase = .fetch ∧ (t.chan k n).timer = true ∧
      (t.chan k n).born = s.tick.bnd ∧ (t.chan k n).code = 0 ∧ ChannelOnly k n s t := by
  rw [timer_fires hup htrig hfired hlate hen hoff]
  generalize 64 * (s.tick.bnd + s.fld (Reg.STK_SE_CHn_TIMER k n) F.STK_SE_CHn_TIMER.OFFSET) = T
  have hchan := chan_updChan k n (fun c => { c with fired := true }) s
  have honly := channelOnly_updChan k n (fun c => { c with fired := true }) s
  have hbonds : ((updChan k n (fun c => { c with fired := true }) s).stk k).bonds = (s.stk k).bonds := by
    show ((s.setStk k _).stk k).bonds = _
    rw [State.stk_setStk, if_pos rfl]
    rfl
  have hregs : (updChan k n (fun c => { c with fired := true }) s).regs = s.regs := rfl
  have hboot : (updChan k n (fun c => { c with fired := true }) s).boot = s.boot := rfl
  have htick : (updChan k n (fun c => { c with fired := true }) s).tick = s.tick := rfl
  generalize updChan k n _ s = u at hchan honly hbonds hregs hboot htick
  obtain ⟨now, tb, tsync, h⟩ := advanceTb_clocks T u
  rw [h]
  have hadvance : ChannelOnly k n u { u with now := now, tb := tb, tsync := tsync } :=
    ⟨fun _ _ => rfl, fun _ _ => rfl, rfl, rfl⟩
  have hsame : State.chan { u with now := now, tb := tb, tsync := tsync } k n = u.chan k n := rfl
  have hreg : ∀ a, State.reg { u with now := now, tb := tb, tsync := tsync } a = s.reg a := fun a => by
    rw [State.reg, State.reg, hregs]
  have huse' : StackInUse k { u with now := now, tb := tb, tsync := tsync } := by
    obtain ⟨hadm, hlost⟩ := huse
    refine ⟨?_, ?_⟩
    · show u.boot.stackIn.contains k.val = true
      rw [hboot]
      exact hadm
    · show (u.stk k).bonds.lost = false
      rw [hbonds]
      exact hlost
  have hwait' : State.waiting { u with now := now, tb := tb, tsync := tsync } = false := by
    unfold State.waiting State.inJob State.tickState State.fld at hwait ⊢
    rw [hreg]
    show (_ && u.tick.doneSent) = false
    rw [htick]
    exact hwait
  have htick' : State.tick { u with now := now, tb := tb, tsync := tsync } = s.tick := htick
  generalize ({ u with now := now, tb := tb, tsync := tsync } : State) = v at hadvance hsame hreg huse' hwait' htick'
  have hchan' := hsame.trans hchan
  have hen' : v.flag (Reg.STK_SE_CHn_CTL k n) F.STK_SE_CHn_CTL.ENABLE = true := by
    rw [State.flag_eq, State.bit, hreg]
    exact hen
  rw [trigger_taken hen' huse' (by rw [hchan']; exact hheld) (by rw [hchan']; simp [hphase]),
    if_pos ⟨by rw [hchan']; exact hphase, hwait'⟩]
  obtain ⟨hph, htimer, hborn, hcode, hstarts⟩ := startActivation_starts k n true v
  exact ⟨_, rfl, hph, htimer, by rw [hborn, htick'], hcode,
    channelOnly_trans (channelOnly_trans honly hadvance) hstarts⟩

end
end

/-! ### HEAD and RSV -/

section
variable {k : StackId} {n : ChanId} {s : State}

theorem pair_setPair (s : State) (a v : Nat) (hv : v < 2 ^ 64) : (s.setPair a v).pair a = v := by
  unfold State.setPair State.pair
  rw [State.reg_setReg_same, State.reg_setReg_ne _ _ (by omega), State.reg_setReg_same, BitVec.toNat_ofNat,
    BitVec.toNat_ofNat]
  omega

theorem pair_lt (s : State) (a : Nat) : s.pair a < 2 ^ 64 := by
  unfold State.pair
  have hlo := (s.reg a).isLt
  have hhi := (s.reg (a + 4)).isLt
  omega

theorem reg_setPair_ne (s : State) (a v : Nat) {b : Nat} (hlo : b ≠ a) (hhi : b ≠ a + 4) :
    (s.setPair a v).reg b = s.reg b := by
  unfold State.setPair
  rw [State.reg_setReg_ne _ _ hhi, State.reg_setReg_ne _ _ hlo]

theorem pair_congr {s t : State} {a : Nat} (hlo : t.reg a = s.reg a) (hhi : t.reg (a + 4) = s.reg (a + 4)) :
    t.pair a = s.pair a := by
  unfold State.pair
  rw [hlo, hhi]

theorem cur_addr (k n : Nat) : Reg.STK_SE_CHn_CUR_LO k n = Reg.STK_SE_CHn_HEAD_LO k n + 8 := by
  unfold Reg.STK_SE_CHn_CUR_LO Reg.STK_SE_CHn_HEAD_LO; omega

/-- A half of HEAD is written, and CUR follows where the channel is idle or halted. -/
theorem writeChHead_sets (hi : Bool) (v : Word32) {head : Nat} (hhead : Reg.STK_SE_CHn_HEAD_LO k n = head) :
    let t := writeChHead k n hi v s
    t.reg (if hi then head + 4 else head) = (if hi then v else v &&& 0xFFFFFFC0) ∧
      t.reg (if hi then head else head + 4) = s.reg (if hi then head else head + 4) ∧
      t.pair (head + 8) = (if (s.chan k n).phase = .idle ∨ (s.chan k n).phase = .halted then t.pair head
        else s.pair (head + 8)) ∧
      (∀ a, a ≠ head → a ≠ head + 4 → a ≠ head + 8 → a ≠ head + 8 + 4 → t.reg a = s.reg a) ∧
      t = { s with regs := t.regs } := by
  intro t
  have ht : t = writeChHead k n hi v s := rfl
  unfold writeChHead at ht
  rw [cur_addr, hhead] at ht
  obtain ⟨u, hu, hhalf, hother, hrest, hregs⟩ : ∃ u,
      (if hi then s.setReg (head + 4) v else s.setReg head (v &&& ~~~0x3F#32)) = u ∧
      u.reg (if hi then head + 4 else head) = (if hi then v else v &&& 0xFFFFFFC0) ∧
      u.reg (if hi then head else head + 4) = s.reg (if hi then head else head + 4) ∧
      (∀ a, a ≠ head → a ≠ head + 4 → u.reg a = s.reg a) ∧ u = { s with regs := u.regs } := by
    refine ⟨_, rfl, ?_⟩
    cases hi with
    | true => exact ⟨State.reg_setReg_same .., State.reg_setReg_ne _ _ (by simp),
        fun a _ h => State.reg_setReg_ne _ _ h, rfl⟩
    | false => exact ⟨State.reg_setReg_same .., State.reg_setReg_ne _ _ (by simp),
        fun a h _ => State.reg_setReg_ne _ _ h, rfl⟩
  dsimp only at ht
  rw [hu] at ht
  have hchan : u.chan k n = s.chan k n := by
    rw [hregs]
    rfl
  rw [hchan] at ht
  have hplace : ∀ b : Bool, (if b then head + 4 else head) ≠ head + 8 ∧ (if b then head + 4 else head) ≠ head + 8 + 4 ∧
      (if b then head else head + 4) ≠ head + 8 ∧ (if b then head else head + 4) ≠ head + 8 + 4 := by
    intro b
    split <;> omega
  obtain ⟨h1, h2, h3, h4⟩ := hplace hi
  split at ht
  next hidle =>
    rw [ht, if_pos hidle, reg_setPair_ne _ _ _ h1 h2, reg_setPair_ne _ _ _ h3 h4, pair_setPair _ _ _ (pair_lt ..),
      pair_congr (a := head) (reg_setPair_ne _ _ _ (by omega) (by omega))
        (reg_setPair_ne _ _ _ (by omega) (by omega))]
    refine ⟨hhalf, hother, rfl, fun a ha hb hc hd => ?_, ?_⟩
    · rw [reg_setPair_ne _ _ _ hc hd, hrest a ha hb]
    · rw [hregs]
      rfl
  next hbusy =>
    rw [ht, if_neg hbusy]
    exact ⟨hhalf, hother, pair_congr (hrest _ (by omega) (by omega)) (hrest _ (by omega) (by omega)),
      fun a ha hb _ _ => hrest a ha hb, hregs⟩

end

/-! ### O22 -/

section
variable {p : Path} {k : StackId} {n : ChanId} {s : State}

/-- The doorbell of an idle channel starts an activation. -/
theorem doorbell_starts (hacc : Accepts p (Reg.STK_SE_CHn_DB k n) s)
    (hen : s.flag (Reg.STK_SE_CHn_CTL k n) F.STK_SE_CHn_CTL.ENABLE = true) (huse : StackInUse k s)
    (hphase : (s.chan k n).phase = .idle) (hheld : (s.chan k n).held = none) (hwait : s.waiting = false) :
    ∃ t, exec (.seDoorbell p k n) s = .next t ∧ (t.chan k n).phase = .fetch ∧ (t.chan k n).timer = false ∧
      (t.chan k n).born = s.tick.bnd ∧ (t.chan k n).code = 0 ∧ ChannelOnly k n s t := by
  rw [exec_seDoorbell hacc, trigger_taken hen huse hheld (by simp [hphase]), if_pos ⟨hphase, hwait⟩]
  exact ⟨_, rfl, startActivation_starts k n false s⟩

/-- The doorbell of a channel that cannot start at once is held. -/
theorem doorbell_held (hacc : Accepts p (Reg.STK_SE_CHn_DB k n) s)
    (hen : s.flag (Reg.STK_SE_CHn_CTL k n) F.STK_SE_CHn_CTL.ENABLE = true) (huse : StackInUse k s)
    (hphase : (s.chan k n).phase ≠ .halted) (hheld : (s.chan k n).held = none)
    (hwait : (s.chan k n).phase ≠ .idle ∨ s.waiting = true) :
    exec (.seDoorbell p k n) s = .next (updChan k n (fun c => { c with held := some false }) s) := by
  rw [exec_seDoorbell hacc, trigger_taken hen huse hheld hphase, if_neg]
  rintro ⟨hidle, hquiet⟩
  rcases hwait with h | h
  · exact h hidle
  · rw [hquiet] at h
    exact Bool.false_ne_true h

theorem timer_missed_flag (hup : s.down = false) (htrig : s.fld (Reg.STK_SE_CHn_CTL k n) F.STK_SE_CHn_CTL.TRIG = 1)
    (hfired : (s.chan k n).fired = false) (hlate : (s.chan k n).late = false)
    (hen : s.flag (Reg.STK_SE_CHn_CTL k n) F.STK_SE_CHn_CTL.ENABLE = true)
    (hoff : s.tick.period ≤ s.fld (Reg.STK_SE_CHn_TIMER k n) F.STK_SE_CHn_TIMER.OFFSET) :
    ∃ t, exec (.seTimerTrigger k n) s = .next t ∧
      t.flag (Reg.STK_SE_CHn_STAT k n) F.STK_SE_CHn_STAT.MISSED = true ∧
      t.chan k n = { s.chan k n with late := true } ∧ ChannelOnly k n s t := by
  rw [timer_missed hup htrig hfired hlate hen hoff]
  have hchan := chan_updChan k n (fun c => { c with late := true }) s
  have honly := channelOnly_updChan k n (fun c => { c with late := true }) s
  generalize updChan k n _ s = u at hchan honly
  obtain ⟨hsame, hquiet⟩ := (show Keeps quiet u (u.setFlag (Reg.STK_SE_CHn_STAT k n) F.STK_SE_CHn_STAT.MISSED) by
    simp [Keeps.refl]).chanOnly k n
  refine ⟨_, rfl, ?_, hsame.trans hchan, channelOnly_trans honly hquiet⟩
  rw [State.flag_eq, State.bit_setFlag _ _ _ _ _ (by decide)]
  simp

/-- ABORT of a channel that does not execute marks it. -/
theorem abort_marks (hacc : Accepts p (Reg.STK_SE_CHn_CTL k n) s)
    (hphase : (s.chan k n).phase = .fetch ∨ (s.chan k n).phase = .status ∨ (s.chan k n).phase = .own) :
    ∃ t, exec (.seAbort p k n) s = .next t ∧ t.chan k n = { s.chan k n with abort := true } ∧
      ChannelOnly k n s t := by
  obtain ⟨v, hexec⟩ := exec_seAbort hacc
  obtain ⟨hsame, honly⟩ := chanOnly_setReg k n (Reg.STK_SE_CHn_CTL k n) v s
  rw [hexec]
  generalize s.setReg (Reg.STK_SE_CHn_CTL k n) v = u at hsame honly
  obtain ⟨hidle, hhalt, hrun⟩ : (u.chan k n).phase ≠ .idle ∧ (u.chan k n).phase ≠ .halted ∧
      (u.chan k n).phase ≠ .exec := by
    rw [hsame]
    rcases hphase with h | h | h <;> simp [h]
  rw [abortCh_waits hidle hhalt hrun]
  exact ⟨_, rfl, by rw [chan_updChan, hsame], channelOnly_trans honly (channelOnly_updChan ..)⟩

/-- ABORT of a channel that executes makes its payload fail with ABORTED. -/
theorem abort_fails (hacc : Accepts p (Reg.STK_SE_CHn_CTL k n) s) (hphase : (s.chan k n).phase = .exec) :
    ∃ t, exec (.seAbort p k n) s = .next t ∧ (t.chan k n).abort = true ∧
      (t.chan k n).code = (if (s.chan k n).code = 0 then 1 else (s.chan k n).code) ∧
      ((t.chan k n).phase = .exec ∨ (t.chan k n).phase = .status) ∧ ChannelOnly k n s t := by
  obtain ⟨v, hexec⟩ := exec_seAbort hacc
  obtain ⟨hsame, honly⟩ := chanOnly_setReg k n (Reg.STK_SE_CHn_CTL k n) v s
  rw [hexec]
  generalize s.setReg (Reg.STK_SE_CHn_CTL k n) v = u at hsame honly
  obtain ⟨habort, hcode, hph, hfail⟩ := abortCh_exec (k := k) (n := n) (s := u) (by rw [hsame]; exact hphase)
  rw [hsame] at hcode
  exact ⟨_, rfl, habort, hcode, hph, channelOnly_trans honly hfail⟩

/-- ABORT of a channel that is not active writes its control register alone. -/
theorem abort_still (hacc : Accepts p (Reg.STK_SE_CHn_CTL k n) s)
    (hphase : (s.chan k n).phase = .idle ∨ (s.chan k n).phase = .halted) :
    ∃ t, exec (.seAbort p k n) s = .next t ∧ t = { s with regs := t.regs } := by
  obtain ⟨v, hexec⟩ := exec_seAbort hacc
  obtain ⟨hsame, -⟩ := chanOnly_setReg k n (Reg.STK_SE_CHn_CTL k n) v s
  rw [hexec, abortCh_still (by rw [hsame]; exact hphase)]
  exact ⟨_, rfl, setReg_regs _ _ _⟩

/-- CLEAR returns a halted channel to idle. -/
theorem clear_halted (hacc : Accepts p (Reg.STK_SE_CHn_CTL k n) s) (hphase : (s.chan k n).phase = .halted) :
    ∃ t, exec (.seClear p k n) s = .next t ∧ t.chan k n = { s.chan k n with phase := .idle } ∧
      ChannelOnly k n s t := by
  obtain ⟨v, hexec⟩ := exec_seClear hacc
  obtain ⟨hsame, honly⟩ := chanOnly_setReg k n (Reg.STK_SE_CHn_CTL k n) v s
  rw [hexec]
  generalize s.setReg (Reg.STK_SE_CHn_CTL k n) v = u at hsame honly
  rw [clearCh_halted (by rw [hsame]; exact hphase)]
  exact ⟨_, rfl, by rw [chan_updChan, hsame], channelOnly_trans honly (channelOnly_updChan ..)⟩

/-- CLEAR of any other channel writes its control register alone. -/
theorem clear_still (hacc : Accepts p (Reg.STK_SE_CHn_CTL k n) s) (hphase : (s.chan k n).phase ≠ .halted) :
    ∃ t, exec (.seClear p k n) s = .next t ∧ t = { s with regs := t.regs } := by
  obtain ⟨v, hexec⟩ := exec_seClear hacc
  obtain ⟨hsame, -⟩ := chanOnly_setReg k n (Reg.STK_SE_CHn_CTL k n) v s
  rw [hexec, clearCh_running (by rw [hsame]; exact hphase)]
  exact ⟨_, rfl, setReg_regs _ _ _⟩

/-- RSV takes a count of slots that fits the channel and the stack. -/
theorem rsv_taken (v : Word32) (hacc : Accepts p (Reg.STK_SE_CHn_RSV k n) s)
    (hone : F.STK_SE_CHn_RSV.SLOTS.get v ≤ 16)
    (hall : (((List.range 32).filter (· != n.val)).map (s.rsv k)).sum + F.STK_SE_CHn_RSV.SLOTS.get v ≤ 192) :
    ∃ t, exec (.seRsvWrite p k n v) s = .next t ∧ RegBecomes (Reg.STK_SE_CHn_RSV k n)
      (F.STK_SE_CHn_RSV.SLOTS.put (s.reg (Reg.STK_SE_CHn_RSV k n)) (F.STK_SE_CHn_RSV.SLOTS.get v)) s t := by
  rw [exec_seRsvWrite v hacc, writeChRsv]
  rw [if_neg (by omega)]
  exact ⟨_, rfl, regBecomes_setReg _ _ _⟩

theorem rsv_refused (v : Word32) (hacc : Accepts p (Reg.STK_SE_CHn_RSV k n) s)
    (h : 16 < F.STK_SE_CHn_RSV.SLOTS.get v ∨
      192 < (((List.range 32).filter (· != n.val)).map (s.rsv k)).sum + F.STK_SE_CHn_RSV.SLOTS.get v) :
    exec (.seRsvWrite p k n v) s = .next s := by
  rw [exec_seRsvWrite v hacc, writeChRsv]
  rw [if_pos h]

end

/-- Settles O22: each command's accepted write has its register's effect, which the lemmas above follow case by case. -/
theorem channelsAreTriggeredAndControlled : Obligations.ChannelsAreTriggeredAndControlled := by
  unfold Obligations.ChannelsAreTriggeredAndControlled
  refine ⟨fun p k n s => ⟨fun hacc => ⟨?_, ?_, ?_, ?_⟩, fun hup htrig hfired hlate hen => ⟨?_, ?_⟩⟩,
    fun p k n hi v s => ⟨fun hacc => ⟨?_, ?_, ?_, ?_, ?_⟩, fun hacc => ?_, fun hacc => ⟨?_, ?_⟩⟩⟩
  · exact fun hen huse hphase hheld hwait => doorbell_starts hacc hen huse hphase hheld hwait
  · exact fun hen huse hphase hheld hwait => doorbell_held hacc hen huse hphase hheld hwait
  · intro hen h
    rw [exec_seDoorbell hacc, trigger_lost hen h]
  · intro hen
    rw [exec_seDoorbell hacc, trigger_disabled hen]
  · exact fun huse hphase hheld hwait hoff => timer_starts hup htrig hfired hlate hen huse hphase hheld hwait hoff
  · exact fun hoff => timer_missed_flag hup htrig hfired hlate hen hoff
  · exact fun hphase => abort_marks hacc hphase
  · exact fun hphase => abort_fails hacc hphase
  · exact fun hphase => abort_still hacc hphase
  · exact fun hphase => clear_halted hacc hphase
  · exact fun hphase => clear_still hacc hphase
  · have hsets := writeChHead_sets (k := k) (n := n) (s := s) hi v rfl
    rw [← cur_addr] at hsets
    exact ⟨_, exec_seHeadWrite hi v hacc, hsets⟩
  · exact fun hone hall => rsv_taken v hacc hone hall
  · exact fun h => rsv_refused v hacc h

end Sys2Proof.Machine
end

section

/-! ## The fault concentrator: what a report touches -/

namespace Sys2Proof.Machine

open Sys2Proof

-- Proofs in turn: each that waits on others while elaborated at once holds a stack, and the check limits the memory.
set_option Elab.async false

/-! ### Register bits that are kept -/

/-- The register bits that `P` names read in `t` as in `s`. -/
def BitsKept (P : Nat → Nat → Prop) (s t : State) : Prop := ∀ a i, P a i → t.bit a i = s.bit a i

section
variable {P : Nat → Nat → Prop} {s t : State}

theorem bitsKept_refl : BitsKept P s s := fun _ _ _ => rfl

theorem bitsKept_of_keeps {K : Kept} (h : Keeps K s t) (hregs : K.regs = true := by rfl) : BitsKept P s t := by
  obtain ⟨-, -, -, -, -, hreg, -⟩ := h
  intro a i _
  rw [State.bit, State.bit, State.reg, State.reg, hreg hregs]

theorem bitsKept_trans {u : State} (h : BitsKept P s t) (k : BitsKept P t u) : BitsKept P s u :=
  fun a i hp => (k a i hp).trans (h a i hp)

theorem bitsKept_setReg {a : Nat} (v : Word32) (ha : ∀ i, ¬P a i) : BitsKept P t (t.setReg a v) := by
  intro b i hp
  rw [State.bit, State.bit, State.reg_setReg_ne _ _ (by rintro rfl; exact ha i hp)]

theorem bitsKept_setFld {a : Nat} {f : Fld} (x : Nat) (ha : ∀ i, f.lo ≤ i → i < f.lo + f.width → ¬P a i) :
    BitsKept P t (t.setFld a f x) := by
  intro b i hp
  by_cases hi : i < 32
  · rw [State.bit_setFld _ _ _ _ _ _ hi, if_neg]
    rintro ⟨rfl, hlo, hhi⟩
    exact ha i hlo hhi hp
  · rw [State.bit, State.bit, BitVec.getLsbD_of_ge _ _ (by omega), BitVec.getLsbD_of_ge _ _ (by omega)]

theorem bitsKept_bump {a : Nat} {f : Fld} (n : Nat) (ha : ∀ i, f.lo ≤ i → i < f.lo + f.width → ¬P a i) :
    BitsKept P t (t.bump a f n) :=
  bitsKept_setFld _ ha

theorem bitsKept_setBit {a n : Nat} (hn : n < 32) (ha : ¬P a n) : BitsKept P t (t.setBit a n) := by
  intro b i hp
  rw [State.bit_setBit _ _ _ _ _ hn, decide_eq_false, Bool.or_false]
  rintro ⟨rfl, rfl⟩
  exact ha hp

theorem bitsKept_setFlag {a : Nat} {f : Fld} (b : Bool) (hf : f.lo < 32) (ha : ¬P a f.lo) :
    BitsKept P t (t.setFlag a f b) := by
  intro c i hp
  have hne : ¬(c = a ∧ i = f.lo) := by
    rintro ⟨rfl, rfl⟩
    exact ha hp
  cases b with
  | true => rw [State.bit_setFlag _ _ _ _ _ hf, decide_eq_false hne, Bool.or_false]
  | false => rw [State.bit_clrFlag _ _ _ _ _ hf, decide_eq_false hne, Bool.not_false, Bool.and_true]

theorem bitsKept_fld {f : Fld} {a : Nat} (h : BitsKept P s t) (hp : ∀ i, f.lo ≤ i → i < f.lo + f.width → P a i) :
    t.fld a f = s.fld a f :=
  Fld.get_congr f _ _ fun i hlo hhi => h a i (hp i hlo hhi)

theorem bitsKept_reg {a : Nat} (h : BitsKept P s t) (hp : ∀ i, P a i) : t.reg a = s.reg a :=
  BitVec.eq_of_getLsbD_eq fun i _ => h a i (hp i)

theorem bitsKept_pair {a : Nat} (h : BitsKept P s t) (hlo : ∀ i, P a i) (hhi : ∀ i, P (a + 4) i) :
    t.pair a = s.pair a :=
  pair_congr (bitsKept_reg h hlo) (bitsKept_reg h hhi)

end

/-! ### What a report touches -/

/-- What counting a report of `who` may touch of the record at `b`: OUTSIDE, the counts, LAST and MAP. -/
def CountTouches (b : Nat) (who : Option Nat) (a i : Nat) : Prop :=
  (a = b + 4 ∧ i = 16) ∨ a = b + 8 ∨ a = b + 0x10 ∨ ∃ m, who = some m ∧ a = b + 0x20 + 4 * (m / 32)

/-- What opening record i for a report of `who` may touch: also DETAIL, the pending bit, and what forwarding notes. -/
def OpenTouches (i : Nat) (who : Option Nat) (a j : Nat) : Prop :=
  CountTouches (Reg.FLT_RECi_SUBJ i) who a j ∨ (a = Reg.FLT_RECi_SUBJ i + 4 ∧ 8 ≤ j ∧ j < 18) ∨
    a = Reg.FLT_PEND_LO + 4 * (i / 32) ∨ a = Reg.FLT_STAT

section
variable {P : Nat → Nat → Prop} {s : State}

theorem markReporter_bits {b : Nat} {who : Option Nat} (hP : ∀ a i, P a i → ¬CountTouches b who a i) :
    BitsKept P s (markReporter b who s) := by
  unfold markReporter
  split
  next m => exact bitsKept_setBit (Nat.mod_lt _ (by decide)) fun h => hP _ _ h (.inr (.inr (.inr ⟨m, rfl, rfl⟩)))
  next => exact bitsKept_setBit (by decide) fun h => hP _ _ h (.inl ⟨rfl, rfl⟩)

theorem countReport_bits {b : Nat} {who : Option Nat} (hP : ∀ a i, P a i → ¬CountTouches b who a i) :
    BitsKept P s (countReport b who s) :=
  bitsKept_trans (bitsKept_trans (bitsKept_bump _ fun i _ _ h => hP _ _ h (.inr (.inl rfl))) (markReporter_bits hP))
    (bitsKept_setReg _ fun i h => hP _ _ h (.inr (.inr (.inl rfl))))

/-- Forwarding a record notes in it, or in FLT_STAT, where nothing is sent. -/
theorem forwardRec_bits {i : Nat} (hcls : ¬P (Reg.FLT_RECi_CLS i) 17) (hstat : ¬P Reg.FLT_STAT 1) :
    BitsKept P s (forwardRec i s) := by
  unfold forwardRec
  extract_lets subj coll ok u w body
  split
  · exact bitsKept_refl
  split
  · exact bitsKept_setFlag true (by decide) hcls
  split
  · exact bitsKept_setFlag true (by decide) hstat
  · refine bitsKept_of_keeps (K := { regs := true }) ?_
    simp [Keeps.refl]

theorem recCls_addr (i : Nat) : Reg.FLT_RECi_CLS i = Reg.FLT_RECi_SUBJ i + 4 := by
  unfold Reg.FLT_RECi_CLS Reg.FLT_RECi_SUBJ; omega

theorem openRec_bits {i : Nat} {r : Report} (hP : ∀ a j, P a j → ¬OpenTouches i r.reporter a j) :
    BitsKept P s (openRec i r s) := by
  unfold openRec
  extract_lets b s1 s2 s3 s4 s5
  have hcount : ∀ a j, P a j → ¬CountTouches b r.reporter a j := fun a j h k => hP a j h (.inl k)
  have h1 : BitsKept P s s1 := bitsKept_setFld _ fun j hlo hhi h =>
    hP _ _ h (.inr (.inl ⟨rfl, hlo, lt_of_lt_of_le hhi (by decide)⟩))
  have h2 : BitsKept P s1 s2 := bitsKept_bump _ fun j _ _ h => hcount _ _ h (.inr (.inl rfl))
  have h3 : BitsKept P s2 s3 := countReport_bits hcount
  have h4 : BitsKept P s3 s4 := bitsKept_of_keeps (K := { regs := true }) (by simp [s4, Keeps.refl])
  have h5 : BitsKept P s4 s5 := bitsKept_setBit (Nat.mod_lt _ (by decide)) fun h => hP _ _ h (.inr (.inr (.inl rfl)))
  have hall : BitsKept P s s5 := bitsKept_trans h1 (bitsKept_trans h2 (bitsKept_trans h3 (bitsKept_trans h4 h5)))
  split
  · exact hall
  · refine bitsKept_trans hall (forwardRec_bits ?_ ?_)
    · rw [recCls_addr]
      exact fun h => hP _ _ h (.inr (.inl ⟨rfl, by decide, by decide⟩))
    · exact fun h => hP _ _ h (.inr (.inr (.inr rfl)))

end

/-! ### Reports leave the registers of other blocks alone -/

/-- The registers outside the fault concentrator's block (Table 1-6). -/
def OffFlt (a _ : Nat) : Prop := a < 0x30000 ∨ 0x40000 ≤ a

section
variable {s : State} {r : Report}

/-- Does the report name a reporter that the records' maps hold? -/
def Report.mapped (r : Report) : Prop := ∀ m, r.reporter = some m → m < 256

theorem firstBelow_lt_of_some {n i : Nat} {p : Nat → Bool} (h : firstBelow n p = some i) : i < n := by
  have hmem := List.mem_of_find?_eq_some h
  exact List.mem_range.mp hmem

theorem countTouches_off {b : Nat} {who : Option Nat} (hb : 0x30000 ≤ b ∧ b + 0x40 ≤ 0x40000) (hwho : ∀ m, who = some m → m < 256) :
    ∀ a i, OffFlt a i → ¬CountTouches b who a i := by
  intro a i ha h
  unfold OffFlt at ha
  obtain ⟨rfl, -⟩ | rfl | rfl | ⟨m, hm, rfl⟩ := h
  · omega
  · omega
  · omega
  · have := hwho m hm
    omega

theorem recSubj_place {i : Nat} (hi : i < 64) :
    0x30000 ≤ Reg.FLT_RECi_SUBJ i ∧ Reg.FLT_RECi_SUBJ i + 0x40 ≤ 0x40000 := by
  unfold Reg.FLT_RECi_SUBJ; omega

theorem openTouches_off {i : Nat} (hi : i < 64) (hr : Report.mapped r) :
    ∀ a j, OffFlt a j → ¬OpenTouches i r.reporter a j := by
  intro a j ha h
  have hlow := recSubj_place hi
  obtain h | ⟨rfl, -, -⟩ | rfl | rfl := h
  · exact countTouches_off hlow hr a j ha h
  · unfold OffFlt at ha; omega
  · unfold OffFlt Reg.FLT_PEND_LO at ha; omega
  · unfold OffFlt Reg.FLT_STAT at ha; omega

theorem foldFlood_bits (hcls : r.cls < 64) (hr : Report.mapped r) : BitsKept OffFlt s (foldFlood r s) := by
  have hlow : 0x30000 ≤ Reg.FLT_FLOODc_SUBJ r.cls ∧ Reg.FLT_FLOODc_SUBJ r.cls + 0x40 ≤ 0x40000 := by unfold Reg.FLT_FLOODc_SUBJ; omega
  have hcount := countTouches_off (b := Reg.FLT_FLOODc_SUBJ r.cls) hlow hr
  have hnot : ∀ a, 0x30000 ≤ a ∧ a < 0x40000 → ∀ i, ¬OffFlt a i := fun a ha i h => by unfold OffFlt at h; omega
  unfold foldFlood
  extract_lets b s1 fresh s2 s3 s4 s5 s6 s7 s8 s9
  have h1 : BitsKept OffFlt s s1 := bitsKept_setFlag true (by decide) (hnot _ (by decide) _)
  split
  · have h2 : BitsKept OffFlt s1 s2 := bitsKept_setReg _ (hnot _ (by omega))
    have h3 : BitsKept OffFlt s2 s3 := bitsKept_setFld _ fun i _ _ => hnot _ (by omega) i
    have h4 : BitsKept OffFlt s3 s4 := bitsKept_setFld _ fun i _ _ => hnot _ (by omega) i
    have h5 : BitsKept OffFlt s4 s5 := bitsKept_setFlag true (by decide) (hnot _ (by omega) _)
    have h6 : BitsKept OffFlt s5 s6 := by
      unfold s6
      split
      · exact bitsKept_setReg _ (hnot _ (by omega))
      · exact bitsKept_refl
    have h7 : BitsKept OffFlt s6 s7 := bitsKept_bump _ fun i _ _ => hnot _ (by omega) i
    have h8 : BitsKept OffFlt s7 s8 := countReport_bits hcount
    have h9 : BitsKept OffFlt s8 s9 := bitsKept_of_keeps (K := { regs := true }) (by simp [s9, setFloodLife, Keeps.refl])
    have h10 := bitsKept_setBit (P := OffFlt) (t := s9) (a := Reg.FLT_FPEND_LO + 4 * (r.cls / 32)) (n := r.cls % 32)
      (Nat.mod_lt _ (by decide)) (hnot _ (by unfold Reg.FLT_FPEND_LO; omega) _)
    exact bitsKept_trans h1 (bitsKept_trans h2 (bitsKept_trans h3 (bitsKept_trans h4 (bitsKept_trans h5
      (bitsKept_trans h6 (bitsKept_trans h7 (bitsKept_trans h8 (bitsKept_trans h9 h10))))))))
  · exact bitsKept_trans h1 (countReport_bits hcount)

theorem intEvent_bits {P : Nat → Nat → Prop} (v : Nat) : BitsKept P s (intEvent v s) :=
  bitsKept_of_keeps (K := { regs := true }) (by simp [Keeps.refl])

/-- A report changes no register of another block. -/
theorem report_bits (hcls : r.cls < 64) (hr : Report.mapped r) : BitsKept OffFlt s (report r s) := by
  have hnot : ∀ a, 0x30000 ≤ a ∧ a < 0x40000 → ∀ i, ¬OffFlt a i := fun a ha i h => by unfold OffFlt at h; omega
  unfold report
  refine bitsKept_trans ?_ (intEvent_bits 0)
  split
  next i hi =>
    have hlt := firstBelow_lt_of_some hi
    split
    · exact countReport_bits (countTouches_off (recSubj_place hlt) hr)
    · exact openRec_bits (openTouches_off hlt hr)
  next =>
    split
    next i hi =>
      have hlt := firstBelow_lt_of_some hi
      have hlow := recSubj_place hlt
      extract_lets b s1 s2 s3 s4
      have h1 : BitsKept OffFlt s s1 := bitsKept_setReg _ (hnot _ (by omega))
      have h2 : BitsKept OffFlt s1 s2 := bitsKept_setReg _ (hnot _ (by omega))
      have h3 : BitsKept OffFlt s2 s3 := bitsKept_setFlag _ (by decide) (hnot _ (by omega) _)
      have h4 : BitsKept OffFlt s3 s4 := bitsKept_setReg _ (hnot _ (by omega))
      exact bitsKept_trans h1 (bitsKept_trans h2 (bitsKept_trans h3 (bitsKept_trans h4
        (openRec_bits (openTouches_off hlt hr)))))
    next => exact foldFlood_bits hcls hr

theorem reportLocal_bits (kind index : Nat) {cls : Nat} (detail : Nat) (hcls : cls < 64) :
    BitsKept OffFlt s (reportLocal kind index cls detail s) :=
  report_bits hcls fun _ hm => firstBelow_lt_of_some (p := fun i => s.member i == some s.pkgId) hm

end

end Sys2Proof.Machine
end

section

/-! ## Halted channels (O26) -/

namespace Sys2Proof.Machine

open Sys2Proof

-- Proofs in turn: each that waits on others while elaborated at once holds a stack, and the check limits the memory.
set_option Elab.async false

/-- A register that is computed when read, as the service controller reads it (R465). -/
theorem readReg_svc_row {a b n : Nat} {st : List (Nat × Nat)} {idx : List Nat} {s : State}
    {f : List Nat → State → Word32}
    (hrow : (regRowAt a).map (fun r => (r.base, r.strides)) = some (b, st)) (hidx : rowIdx st (a - b) = idx)
    (hmeas : measuredRows.contains b = false) (hread : regReads.find? (fun e => e.1 == b) = some (n, f)) :
    readReg .svc a s = f idx s := by
  obtain ⟨r, hr, heq⟩ := Option.map_eq_some_iff.1 hrow
  obtain ⟨rfl, rfl⟩ := Prod.mk.inj heq
  have hlive : readLive a s = f idx s := by
    unfold readLive
    rw [hr]
    dsimp only
    rw [hmeas, if_neg Bool.false_ne_true, hread, hidx]
  have hopen : (!s.blockUp a && Path.svc != Path.svc) = false := by rw [bne_self_eq_false, Bool.and_false]
  unfold readReg
  rw [hopen, if_neg Bool.false_ne_true, hlive]
  rfl

section
variable {k : StackId} {n : ChanId} {s : State}

theorem chStat_addr (k : StackId) (n : ChanId) :
    Reg.STK_SE_CHn_STAT k n = stackAddr (0x1010120 + n.val * 0x40) k := by
  unfold Reg.STK_SE_CHn_STAT stackAddr; omega

theorem readReg_chStat (s : State) : readReg .svc (Reg.STK_SE_CHn_STAT k n) s = readChStat k n s := by
  have hrow : ∀ j : Fin 32, (regRowAt (0x1010120 + j.val * 0x40)).map (fun r => (r.base, r.strides)) =
      some (0x1010120, [(24, 0x100000), (32, 0x40)]) := by decide
  have hin : InStack (0x1010120 + n.val * 0x40) := by unfold InStack; omega
  have hidx : rowIdx [(24, 0x100000), (32, 0x40)] (stackAddr (0x1010120 + n.val * 0x40) k - 0x1010120) =
      [k.val, n.val] := by
    have hd : stackAddr (0x1010120 + n.val * 0x40) k - 0x1010120 = k * 0x100000 + n.val * 0x40 := by
      unfold stackAddr; omega
    rw [hd, rowIdx, rowIdx, rowIdx]
    exact congrArg₂ List.cons (by omega) (congrArg₂ List.cons (by omega) rfl)
  rw [chStat_addr, readReg_svc_row ((congrArg _ (regRowAt_stackAddr hin k.isLt)).trans (hrow n)) hidx (by decide) rfl]
  rfl

/-- STATE of a halted channel reads 2. -/
theorem readChStat_halted (h : (s.chan k n).phase = .halted) : (readChStat k n s).toNat % 4 = 2 := by
  unfold readChStat
  dsimp only
  rw [h]
  generalize (if (s.chan k n).held.isSome then 1 else 0) = x
  have hput : F.STK_SE_CHn_STAT.STATE.get (F.STK_SE_CHn_STAT.PEND.put
      (F.STK_SE_CHn_STAT.STATE.put (s.reg (Reg.STK_SE_CHn_STAT k n)) 2) x) = 2 := by
    rw [Fld.get_put_ne _ _ _ _ (by decide) (by decide), Fld.get_put _ _ _ (by decide)]
    rfl
  exact hput

/-- The registers of a channel that halts. -/
def haltRegs (k n code detail cur xcode : Nat) (s : State) : State :=
  let stat := Reg.STK_SE_CHn_STAT k n
  let s := s.setPair (Reg.STK_SE_CHn_CUR_LO k n) (cur / 64 * 64)
  let s := s.setReg stat (s.reg stat &&& 0x00070000)
  let s := s.setFld stat F.STK_SE_CHn_STAT.CODE code
  let s := s.setFld stat F.STK_SE_CHn_STAT.DETAIL detail
  s.setFld stat F.STK_SE_CHn_STAT.XCODE xcode

theorem haltRegs_keeps (code detail cur xcode : Nat) : Keeps quiet s (haltRegs k n code detail cur xcode s) := by
  simp [haltRegs, Keeps.refl]

section
variable {code detail cur xcode : Nat} (hcode : code < 16) (hdetail : detail < 16) (hxcode : xcode < 16)
  (hcur : cur < 2 ^ 64)
include hcode hdetail hxcode hcur

theorem haltRegs_reads :
    let t := haltRegs k n code detail cur xcode s
    t.fld (Reg.STK_SE_CHn_STAT k n) F.STK_SE_CHn_STAT.CODE = code ∧
      t.fld (Reg.STK_SE_CHn_STAT k n) F.STK_SE_CHn_STAT.DETAIL = detail ∧
      t.fld (Reg.STK_SE_CHn_STAT k n) F.STK_SE_CHn_STAT.XCODE = xcode ∧
      t.pair (Reg.STK_SE_CHn_CUR_LO k n) = cur / 64 * 64 := by
  have hcurLo : Reg.STK_SE_CHn_CUR_LO k n ≠ Reg.STK_SE_CHn_STAT k n := by
    unfold Reg.STK_SE_CHn_CUR_LO Reg.STK_SE_CHn_STAT; omega
  have hcurHi : Reg.STK_SE_CHn_CUR_LO k n + 4 ≠ Reg.STK_SE_CHn_STAT k n := by
    unfold Reg.STK_SE_CHn_CUR_LO Reg.STK_SE_CHn_STAT; omega
  unfold haltRegs
  dsimp only
  generalize Reg.STK_SE_CHn_STAT k n = stat at hcurLo hcurHi ⊢
  refine ⟨?_, ?_, ?_, ?_⟩
  · rw [State.fld_setFld_ne _ _ _ _ _ _ (by decide) (.inr (by decide)),
      State.fld_setFld_ne _ _ _ _ _ _ (by decide) (.inr (by decide)), State.fld_setFld _ _ _ _ (by decide)]
    exact Nat.mod_eq_of_lt hcode
  · rw [State.fld_setFld_ne _ _ _ _ _ _ (by decide) (.inr (by decide)), State.fld_setFld _ _ _ _ (by decide)]
    exact Nat.mod_eq_of_lt hdetail
  · rw [State.fld_setFld _ _ _ _ (by decide)]
    exact Nat.mod_eq_of_lt hxcode
  · refine (pair_congr ?_ ?_).trans (pair_setPair s _ _ (by omega))
    · simp only [State.reg_setFld, State.reg_setReg_ne _ _ hcurLo, if_neg hcurLo]
    · simp only [State.reg_setFld, State.reg_setReg_ne _ _ hcurHi, if_neg hcurHi]

end

/-- The channel that has halted. -/
def haltedChan (c : Chan) : Chan := { Chan.reset with phase := .halted, fired := c.fired, late := c.late }

theorem haltCh_eq (code detail cur xcode : Nat) : haltCh k n code detail cur xcode s =
    let t := intEvent (8 + k) ((updChan k n haltedChan (haltRegs k n code detail cur xcode s)).setBit
      (Reg.STK_SE_IRQ_HALT k) n)
    if code = 1 then t else reportLocal 4 (32 * k + n) (0x10 + code) detail t := rfl

/-- What halting does after the registers: the channel halts, its interrupt is noted, and no other bit of the stack's
registers changes. -/
theorem halt_ends (code detail : Nat) (hcode : code < 16) :
    let u := intEvent (8 + k) ((updChan k n haltedChan s).setBit (Reg.STK_SE_IRQ_HALT k) n)
    let t := if code = 1 then u else reportLocal 4 (32 * k + n) (0x10 + code) detail u
    t.chan k n = haltedChan (s.chan k n) ∧ t.bit (Reg.STK_SE_IRQ_HALT k) n = true ∧
      BitsKept (fun a _ => 0x1000000 ≤ a ∧ a ≠ Reg.STK_SE_IRQ_HALT k) s t ∧ ChannelOnly k n s t := by
  extract_lets u t
  have hhalt : 0x1000000 ≤ Reg.STK_SE_IRQ_HALT k := by unfold Reg.STK_SE_IRQ_HALT; omega
  have hchan := chan_updChan k n haltedChan s
  have honly := channelOnly_updChan k n haltedChan s
  have hregs : ∀ P, BitsKept P s (updChan k n haltedChan s) := fun P _ _ _ => rfl
  have hu : u = intEvent (8 + k) ((updChan k n haltedChan s).setBit (Reg.STK_SE_IRQ_HALT k) n) := rfl
  clear_value u
  generalize updChan k n haltedChan s = w at hchan honly hregs hu
  have hut : BitsKept OffFlt u t := by
    unfold t
    split
    · exact bitsKept_refl
    · exact reportLocal_bits _ _ _ (by omega)
  have htquiet : Keeps quiet u t := by
    unfold t
    split <;> simp [Keeps.refl]
  have hwu : Keeps quiet w u := by
    rw [hu]
    simp [Keeps.refl]
  obtain ⟨hsame, hquiet⟩ := hwu.chanOnly k n
  obtain ⟨hsame', hquiet'⟩ := htquiet.chanOnly k n
  refine ⟨(hsame'.trans hsame).trans hchan, ?_, fun a i ⟨ha, hne⟩ => ?_,
    channelOnly_trans honly (channelOnly_trans hquiet hquiet')⟩
  · rw [hut _ _ (.inr (by omega)), hu, intEvent_bits (P := fun _ _ => True) _ _ _ trivial,
      State.bit_setBit _ _ _ _ _ (show n.val < 32 from n.isLt)]
    simp
  · rw [hut _ _ (.inr (by omega)), hu, intEvent_bits (P := fun _ _ => True) _ _ _ trivial,
      State.bit_setBit _ _ _ _ _ (show n.val < 32 from n.isLt), decide_eq_false (fun h => hne h.1), Bool.or_false,
      hregs (fun _ _ => True) _ _ trivial]

end

/-- Settles O26: the registers are written first, and nothing that follows touches them. -/
theorem haltKeepsItsReason : Obligations.HaltKeepsItsReason := by
  unfold Obligations.HaltKeepsItsReason
  intro k n code detail cur xcode s hcode hdetail hxcode hcur stat t
  have ht : t = _ := haltCh_eq (k := k) (n := n) (s := s) code detail cur xcode
  obtain ⟨hrcode, hrdetail, hrxcode, hrcur⟩ := haltRegs_reads (k := k) (n := n) (s := s) hcode hdetail hxcode hcur
  obtain ⟨hchan, hbit, hbits, honly⟩ :=
    halt_ends (k := k) (n := n) (s := haltRegs k n code detail cur xcode s) code detail hcode
  rw [← ht] at hchan hbit hbits honly
  have hphase : (t.chan k n).phase = .halted := by
    rw [hchan]
    rfl
  have hstat : 0x1000000 ≤ stat ∧ stat ≠ Reg.STK_SE_IRQ_HALT k := by
    unfold stat Reg.STK_SE_CHn_STAT Reg.STK_SE_IRQ_HALT; omega
  have hcurLo : ∀ o, o < 8 → 0x1000000 ≤ Reg.STK_SE_CHn_CUR_LO k n + o ∧
      Reg.STK_SE_CHn_CUR_LO k n + o ≠ Reg.STK_SE_IRQ_HALT k := fun o ho => by
    unfold Reg.STK_SE_CHn_CUR_LO Reg.STK_SE_IRQ_HALT; omega
  have hregs : ChannelOnly k n s (haltRegs k n code detail cur xcode s) :=
    channelOnly_of_keeps (haltRegs_keeps code detail cur xcode)
  exact ⟨hphase, (bitsKept_fld hbits fun _ _ _ => hstat).trans hrcode,
    (bitsKept_fld hbits fun _ _ _ => hstat).trans hrdetail, (bitsKept_fld hbits fun _ _ _ => hstat).trans hrxcode,
    (bitsKept_pair hbits (fun _ => hcurLo 0 (by decide)) fun _ => hcurLo 4 (by decide)).trans hrcur, hbit,
    by rw [readReg_chStat]; exact readChStat_halted hphase, channelOnly_trans hregs honly⟩

end Sys2Proof.Machine
end

section

/-! ## Bursts and the operations of a channel (O23, O24) -/

namespace Sys2Proof.Machine

open Sys2Proof

-- Proofs in turn: each that waits on others while elaborated at once holds a stack, and the check limits the memory.
set_option Elab.async false

/-! ### Bursts by their number -/

/-- The burst of a number, where no two bursts share one. -/
theorem find_burst {bs : List Burst} {b : Burst} {id : Nat} (hb : b ∈ bs) (hid : b.id = id) (hnd : (bs.map (·.id)).Nodup) :
    bs.find? (fun x => x.id == id) = some b := by
  induction bs with
  | nil => cases hb
  | cons x xs ih =>
    rw [List.map_cons, List.nodup_cons] at hnd
    obtain ⟨hx, hxs⟩ := hnd
    rw [List.find?_cons]
    rcases List.mem_cons.mp hb with rfl | hb
    · rw [hid, beq_self_eq_true]
    · have hne : (x.id == id) = false := by
        rw [beq_eq_false_iff_ne]
        intro h
        exact hx (h ▸ hid ▸ List.mem_map_of_mem hb)
      rw [hne]
      exact ih hb hxs

theorem find_burst_none {bs : List Burst} {id : Nat} (h : ∀ b ∈ bs, b.id ≠ id) :
    bs.find? (fun x => x.id == id) = none :=
  List.find?_eq_none.mpr fun b hb => by simpa using h b hb

section
variable {k : StackId} {s : State} (hup : s.down = false)
include hup

theorem exec_seBurstRead : exec (.seBurstRead k) s = .next (engineRead k s) := by
  rw [show exec (.seBurstRead k) s = execSeBurstRead k s from rfl, execSeBurstRead, ifUp_eq hup]

theorem exec_seBurstWrite : exec (.seBurstWrite k) s = .next (engineWrite k s) := by
  rw [show exec (.seBurstWrite k) s = execSeBurstWrite k s from rfl, execSeBurstWrite, ifUp_eq hup]

theorem exec_seBurstArrive {n : ChanId} {id : Nat} {u : Upsets} {o : Option Burst}
    (h : ((upset u s).chan k n).bursts.find? (fun b => b.id == id) = o) :
    exec (.seBurstArrive k n id u) s =
      .next (o.elim (upset u s) fun b => burstArrive k n b (upset u s)) := by
  rw [show exec (.seBurstArrive k n id u) s = execSeBurstArrive k n id u s from rfl, execSeBurstArrive, ifUp_eq hup]
  dsimp only
  rw [h]
  cases o <;> rfl

theorem exec_seBurstAccept {n : ChanId} {id : Nat} {o : Option Burst}
    (h : (s.chan k n).bursts.find? (fun b => b.id == id) = o) :
    exec (.seBurstAccept k n id) s = .next (o.elim s fun b => burstAccept k n b s) := by
  rw [show exec (.seBurstAccept k n id) s = execSeBurstAccept k n id s from rfl, execSeBurstAccept, ifUp_eq hup]
  rw [h]
  cases o <;> rfl

end

theorem engineRead_some {k p n : Nat} {s : State} (h : s.choose k (s.stk k).lastRd (s.readReady k) = some (p, n)) :
    engineRead k s = issueRead k n (seStart k n
      (updStk k (fun x => { x with lastRd := sset (fun _ => 31) x.lastRd p n }) s)) := by
  unfold engineRead
  rw [h]

theorem engineRead_none {k : Nat} {s : State} (h : s.choose k (s.stk k).lastRd (s.readReady k) = none) :
    engineRead k s = s := by
  unfold engineRead
  rw [h]

theorem engineWrite_some {k p n : Nat} {s : State} (h : s.choose k (s.stk k).lastWr (s.writeReady k) = some (p, n)) :
    engineWrite k s =
      issueWrite k n (updStk k (fun x => { x with lastWr := sset (fun _ => 31) x.lastWr p n }) s) := by
  unfold engineWrite
  rw [h]

theorem engineWrite_none {k : Nat} {s : State} (h : s.choose k (s.stk k).lastWr (s.writeReady k) = none) :
    engineWrite k s = s := by
  unfold engineWrite
  rw [h]

/-- Settles O24: each engine command is the engine's step, and each burst's command finds its burst by the number. -/
theorem burstsMove : Obligations.BurstsMove := by
  unfold Obligations.BurstsMove
  intro k s hup
  refine ⟨fun p n h => ?_, fun h => ?_, fun p n h => ?_, fun h => ?_, fun n id u => ⟨?_, ?_, ?_, ?_⟩⟩
  · rw [exec_seBurstRead hup, engineRead_some h]
  · rw [exec_seBurstRead hup, engineRead_none h]
  · rw [exec_seBurstWrite hup, engineWrite_some h]
  · rw [exec_seBurstWrite hup, engineWrite_none h]
  · exact fun b hb hid hnd => exec_seBurstArrive hup (find_burst hb hid hnd)
  · exact fun b hb hid hnd => exec_seBurstAccept hup (find_burst hb hid hnd)
  · exact fun h => exec_seBurstArrive hup (find_burst_none h)
  · exact fun h => exec_seBurstAccept hup (find_burst_none h)

/-! ### Operations -/

theorem seRun_own {op k n : Nat} {x : State} (hphase : (x.chan k n).phase = .exec) (hop : (x.chan k n).desc.op = op) :
    seRun op k n x =
      moveStream k n (8 * ((seLists k n (seStart k n x)).chan k n).total + 2048) (seLists k n (seStart k n x)) := by
  unfold seRun
  dsimp only
  rw [hphase, hop, bne_self_eq_false, bne_self_eq_false, Bool.or_self, if_neg Bool.false_ne_true]

theorem seRun_other {op k n : Nat} {x : State} (h : (x.chan k n).phase ≠ .exec ∨ (x.chan k n).desc.op ≠ op) :
    seRun op k n x = x := by
  unfold seRun
  dsimp only
  rw [if_pos]
  rw [Bool.or_eq_true, bne_iff_ne, bne_iff_ne]
  exact h

theorem issueStatus_status {k n : Nat} {s : State} (habort : (s.chan k n).abort = false) :
    ((issueStatus k n s).chan k n).phase = .status ∧ ((issueStatus k n s).chan k n).code = (s.chan k n).code := by
  obtain ⟨⟨tags, due, hchan⟩, -⟩ := issueStatus_writes k n s
  obtain ⟨hphase, -, hcode⟩ := statusing_fields (s.chan k n) tags due
  rw [hchan, hphase, hcode, habort]
  exact ⟨rfl, rfl⟩

/-- A stream that is moved without a fault ends its descriptor. -/
theorem seSettle_moved {k n : Nat} {s : State} (hphase : (s.chan k n).phase = .exec) (hcode : (s.chan k n).code = 0)
    (hmoved : (s.chan k n).moved = true) (hfin : (s.chan k n).finish.code = 0) (habort : (s.chan k n).finish.abort = false) :
    ((seSettle k n s).chan k n).phase = .status ∧ ((seSettle k n s).chan k n).code = 0 := by
  unfold seSettle
  extract_lets c u
  rw [hphase, hcode, hmoved, bne_self_eq_false, bne_self_eq_false, if_neg Bool.false_ne_true, if_neg Bool.false_ne_true,
    if_pos rfl]
  have hset : (u.setChan k n c.finish).chan k n = c.finish := by rw [State.chan_setChan, if_pos ⟨rfl, rfl⟩]
  obtain ⟨hst, hco⟩ := issueStatus_status (s := u.setChan k n c.finish) (by rw [hset]; exact habort)
  exact ⟨hst, hco.trans (by rw [hset]; exact hfin)⟩

section
variable {k n : Nat} {s : State} {c : Chan} (hc : s.chan k n = c)
include hc

/-- Nothing is left to move of a descriptor of no length and no check value. -/
theorem chan_moved (hlen : c.desc.len = 0) (hcrcm : c.desc.crcm = 0) (hrun : c.running = true) (hpos : c.srcPos = 0)
    (hbursts : c.bursts = []) (hqout : c.qout = []) : (s.chan k n).moved = true := by
  have htotal : c.total = 0 := by
    unfold Chan.total Chan.readLen Chan.writeLen
    rw [hlen, hcrcm]
    rfl
  rw [hc, Chan.moved, hrun, hpos, htotal, hbursts, hqout]
  rfl

theorem chan_finish (hcrcm : c.desc.crcm = 0) (hsrcl : c.desc.srcl = false) (hdstl : c.desc.dstl = false)
    (hcode : c.code = 0) (habort : c.abort = false) :
    (s.chan k n).finish.code = 0 ∧ (s.chan k n).finish.abort = false := by
  rw [hc, Chan.finish]
  rw [hsrcl, hdstl, hcrcm, Bool.false_and, Bool.false_and, Bool.or_self, if_neg Bool.false_ne_true, if_neg (by simp)]
  exact ⟨hcode, habort⟩

end

section
variable {k : StackId} {n : ChanId} {s : State}

/-- A channel whose descriptor can run, has no lists and no check value starts it. -/
theorem seStart_begins (hcan : s.seCanRun k n = true) (hrun : (s.chan k n).running = false)
    (hcrcm : (s.chan k n).desc.crcm = 0) (hsrcl : (s.chan k n).desc.srcl = false)
    (hdstl : (s.chan k n).desc.dstl = false) :
    seStart k n s = seBegin k n (s.setChan k n { s.chan k n with running := true }) := by
  unfold seStart
  dsimp only
  rw [hcan, hrun, hcrcm, hsrcl, hdstl, Bool.not_true, Bool.or_self, if_neg Bool.false_ne_true, if_pos rfl,
    if_neg Bool.false_ne_true]

/-- What begins is settled at once. -/
theorem seBegin_settles (s : State) : ∃ u mix, seBegin k n s = seSettle k n u ∧
    u.chan k n = { s.chan k n with mix := mix } := by
  unfold seBegin
  dsimp only
  split
  · exact ⟨_, _, rfl, by rw [State.chan_setChan, if_pos ⟨rfl, rfl⟩]⟩
  · exact ⟨_, (s.chan k n).mix, rfl, rfl⟩

theorem seLists_still (h : (s.chan k n).phase ≠ .exec) : seLists k n s = s := by
  unfold seLists
  dsimp only
  rw [bne_iff_ne.mpr h, Bool.true_or, Bool.true_or, if_pos rfl]

theorem moveStream_still (h : (s.chan k n).phase ≠ .exec) (f : Nat) : moveStream k n f s = s := by
  cases f with
  | zero => rfl
  | succ f => rw [moveStream, bne_iff_ne.mpr h, if_pos rfl]

theorem seStart_keeps_quiet : Keeps { mem := true } s (seStart k n s) := by
  simp [Keeps.refl]

/-- A descriptor with nothing to move ends as it starts. -/
theorem seStart_ends (hphase : (s.chan k n).phase = .exec) (hcan : s.seCanRun k n = true)
    (hrun : (s.chan k n).running = false) (hlen : (s.chan k n).desc.len = 0) (hcrcm : (s.chan k n).desc.crcm = 0)
    (hsrcl : (s.chan k n).desc.srcl = false) (hdstl : (s.chan k n).desc.dstl = false) (hcode : (s.chan k n).code = 0)
    (habort : (s.chan k n).abort = false) (hpos : (s.chan k n).srcPos = 0) (hbursts : (s.chan k n).bursts = [])
    (hqout : (s.chan k n).qout = []) :
    ((seStart k n s).chan k n).phase = .status ∧ ((seStart k n s).chan k n).code = 0 := by
  rw [seStart_begins hcan hrun hcrcm hsrcl hdstl]
  obtain ⟨u, mix, hu, hchan⟩ := seBegin_settles (k := k) (n := n)
    (s.setChan k n { s.chan k n with running := true })
  rw [State.chan_setChan, if_pos ⟨rfl, rfl⟩] at hchan
  rw [hu]
  obtain ⟨hfin, hfinAbort⟩ := chan_finish hchan hcrcm hsrcl hdstl hcode habort
  exact seSettle_moved (by rw [hchan]; exact hphase) (by rw [hchan]; exact hcode)
    (chan_moved hchan hlen hcrcm rfl hpos hbursts hqout) hfin hfinAbort

end

section
variable {k : StackId} {n : ChanId} {s : State} (hup : s.down = false)
include hup

theorem exec_seFlush_runs (hphase : (s.chan k n).phase = .exec) (hop : (s.chan k n).desc.op = 3)
    (hrun : ((seStart k n s).chan k n).running = true) (hexec : ((seStart k n s).chan k n).phase = .exec) :
    exec (.seFlush k n) s = .next (
      let v := seStart k n s
      let d := (v.chan k n).desc
      seSettle k n (updChan k n (fun c => { c with srcPos := c.total })
        (l2FlushRange k (seHow k n v) (d.dst % 2 ^ 40) d.len (d.ctl 9) v))) := by
  rw [show exec (.seFlush k n) s = execSeFlush k n s from rfl, execSeFlush, ifUp_eq hup]
  dsimp only
  rw [hphase, hop, hrun, hexec, bne_self_eq_false, bne_self_eq_false, Bool.or_self, Bool.not_true, Bool.or_self,
    if_neg Bool.false_ne_true, if_neg Bool.false_ne_true]

section
variable (hphase : (s.chan k n).phase = .exec) (hcode : (s.chan k n).code = 0) (habort : (s.chan k n).abort = false)
  (hget : (s.chan k n).desc.ctl 16 = true) (hgrant : (s.chan k n).granted = false) {v : State} {b : Bool}
  (hreq : requestGuarantee (chMaster k n) (s.chan k n).desc.guar (gPoints k (s.chan k n).desc.gpoint) s = (b, v))
include hphase hcode habort hget hgrant hreq

theorem exec_seGuaranteeRequest : exec (.seGuaranteeRequest k n) s = .next (
    if b then updChan k n (fun c => { c with granted := true, due := none }) v else seFail k n 9 0 v) := by
  rw [show exec (.seGuaranteeRequest k n) s = execSeGuaranteeRequest k n s from rfl, execSeGuaranteeRequest, ifUp_eq hup]
  dsimp only
  rw [hphase, hcode, habort, hget, hgrant, hreq, bne_self_eq_false, bne_self_eq_false, Bool.not_true, Bool.or_self,
    Bool.or_self, Bool.or_self, Bool.or_self, if_neg Bool.false_ne_true]
  cases b with
  | true => rw [if_pos rfl]
  | false => rw [if_neg Bool.false_ne_true]

end
end

section
variable {k : StackId} {n : ChanId} {u : Upsets} {s : State} (hup : s.down = false)
include hup

/-- The commands of the operations that move a stream. -/
theorem exec_seOperations : exec (.seNop k n) s = .next (seRun 0 k n s) ∧
    exec (.seCopy k n u) s = .next (seRun 1 k n (upset u s)) ∧ exec (.seFill k n) s = .next (seRun 2 k n s) ∧
    exec (.seCheck k n u) s = .next (seRun 4 k n (upset u s)) ∧
    exec (.seSend k n u) s = .next (seRun 5 k n (upset u s)) := by
  refine ⟨?_, ?_, ?_, ?_, ?_⟩
  · rw [show exec (.seNop k n) s = execSeNop k n s from rfl, execSeNop, ifUp_eq hup]
  · rw [show exec (.seCopy k n u) s = execSeCopy k n u s from rfl, execSeCopy, ifUp_eq hup]
  · rw [show exec (.seFill k n) s = execSeFill k n s from rfl, execSeFill, ifUp_eq hup]
  · rw [show exec (.seCheck k n u) s = execSeCheck k n u s from rfl, execSeCheck, ifUp_eq hup]
  · rw [show exec (.seSend k n u) s = execSeSend k n u s from rfl, execSeSend, ifUp_eq hup]

end

/-- A command that runs one operation runs the descriptor of that operation and leaves any other alone. -/
theorem runs_of_seRun {ins : Instr} {op k n : Nat} {x s : State} (h : exec ins s = .next (seRun op k n x)) :
    ((x.chan k n).phase = .exec → (x.chan k n).desc.op = op → exec ins s = .next
      (moveStream k n (8 * ((seLists k n (seStart k n x)).chan k n).total + 2048) (seLists k n (seStart k n x)))) ∧
    ((x.chan k n).phase ≠ .exec ∨ (x.chan k n).desc.op ≠ op → exec ins s = .next x) :=
  ⟨fun hphase hop => by rw [h, seRun_own hphase hop], fun hno => by rw [h, seRun_other hno]⟩

/-- A NOP with nothing to move ends as it starts. -/
theorem nop_ends {k : StackId} {n : ChanId} {s : State} (hup : s.down = false) (hphase : (s.chan k n).phase = .exec)
    (hop : (s.chan k n).desc.op = 0) (hstatus : ((seStart k n s).chan k n).phase = .status) :
    exec (.seNop k n) s = .next (seStart k n s) := by
  have hne : ((seStart k n s).chan k n).phase ≠ .exec := by simp [hstatus]
  rw [show exec (.seNop k n) s = execSeNop k n s from rfl, execSeNop, ifUp_eq hup, seRun_own hphase hop, seLists_still hne, moveStream_still hne]

/-- Settles O23: each operation's command is the run of its own operation, and a NOP of the fixed form ends as it
starts. -/
theorem channelOperationsRun : Obligations.ChannelOperationsRun := by
  unfold Obligations.ChannelOperationsRun
  refine ⟨fun k n u s hup => ?_, fun k n s => ?_, fun k n s hup hphase => ⟨?_, ?_⟩⟩
  · obtain ⟨hnop, hcopy, hfill, hcheck, hsend⟩ := exec_seOperations (k := k) (n := n) (u := u) hup
    exact ⟨runs_of_seRun hnop, runs_of_seRun hcopy, runs_of_seRun hfill, runs_of_seRun hcheck, runs_of_seRun hsend⟩
  · intro c hup hphase hop hlen hcrcm hsrcl hdstl hsq hdq hcan hrun hcode habort hlisting hpos hbursts hqout hsl hdl
    obtain ⟨hstatus, hok⟩ := seStart_ends hphase hcan hrun hlen hcrcm hsrcl hdstl hcode habort hpos hbursts hqout
    have hmem : (seStart k n s).mem = s.mem := by
      obtain ⟨-, -, -, -, hmem, -⟩ := seStart_keeps_quiet (k := k) (n := n) (s := s)
      exact hmem rfl
    exact ⟨seStart k n s, nop_ends hup hphase hop hstatus, hstatus, hok, hmem⟩
  · exact fun hop hrun hexec => exec_seFlush_runs hup hphase hop hrun hexec
  · intro c hcode habort hget hgrant v
    refine ⟨fun hreq => ?_, fun hreq => ?_⟩
    · rw [exec_seGuaranteeRequest hup hphase hcode habort hget hgrant hreq, if_pos rfl]
    · rw [exec_seGuaranteeRequest hup hphase hcode habort hget hgrant hreq, if_neg Bool.false_ne_true]

end Sys2Proof.Machine
end

section

/-! ## Fetches, status writes, OWN writes and time-outs (O25) -/

namespace Sys2Proof.Machine

open Sys2Proof

-- Proofs in turn: each that waits on others while elaborated at once holds a stack, and the check limits the memory.
set_option Elab.async false

/-! ### The fetch's answer -/

/-- The channel of a descriptor that has been fetched. -/
def fetchedChan (c : Chan) (d : Desc) (ok : Bool) (due : Option Nat) : Chan :=
  { Chan.reset with
    phase := .exec, held := c.held, timer := c.timer, fired := c.fired, late := c.late, done := c.done + 1,
    budget := c.budget, born := c.born, desc := d, abort := c.abort,
    code := if c.abort then 1 else if ok then 0 else 2, detail := if c.abort || ok then 0 else 2, due := due }

theorem fetchedChan_fields (c : Chan) (d : Desc) (ok : Bool) (due : Option Nat) :
    (fetchedChan c d ok due).phase = .exec ∧ (fetchedChan c d ok due).desc = d ∧
      (fetchedChan c d ok due).done = c.done + 1 ∧ (fetchedChan c d ok due).timer = c.timer ∧
      (fetchedChan c d ok due).bursts = [] ∧ (fetchedChan c d ok due).running = false ∧
      (fetchedChan c d ok due).code = (if c.abort then 1 else if ok then 0 else 2) :=
  ⟨rfl, rfl, rfl, rfl, rfl, rfl, rfl⟩

section
variable {k : StackId} {n : ChanId} {u : Upsets} {s v : State} (hup : s.down = false)
  (hphase : ((upset u s).chan k n).phase = .fetch)
include hup hphase

section
variable {d : Desc} {r : Nat × Nat} (hans : fetchAnswer k n (upset u s) = (some (some d, r), v))
include hans

theorem exec_seDescFetch_owned (hown : d.ctl 31 = true) :
    ∃ due, exec (.seDescFetch k n u) s =
      .next (seSettle k n (v.setChan k n (fetchedChan (v.chan k n) d (wellFormed v d) due))) := by
  refine ⟨if d.ctl 16 then some (v.seDue k) else none, ?_⟩
  rw [show exec (.seDescFetch k n u) s = execSeDescFetch k n u s from rfl, execSeDescFetch, ifUp_eq hup]
  dsimp only
  rw [hphase, bne_self_eq_false, if_neg Bool.false_ne_true, hans]
  dsimp only
  rw [hown, Bool.not_true, if_neg Bool.false_ne_true]
  rfl

theorem exec_seDescFetch_free (hown : d.ctl 31 = false) :
    exec (.seDescFetch k n u) s = .next (if (v.chan k n).abort then
      haltCh k n 1 0 (v.pair (Reg.STK_SE_CHn_CUR_LO k n)) 0 v
      else endOk k n (v.pair (Reg.STK_SE_CHn_CUR_LO k n)) true v) := by
  rw [show exec (.seDescFetch k n u) s = execSeDescFetch k n u s from rfl, execSeDescFetch, ifUp_eq hup]
  dsimp only
  rw [hphase, bne_self_eq_false, if_neg Bool.false_ne_true, hans]
  dsimp only
  rw [hown, Bool.not_false, if_pos rfl]

end

theorem exec_seDescFetch_failed {r : Nat × Nat} (hans : fetchAnswer k n (upset u s) = (some (none, r), v)) :
    exec (.seDescFetch k n u) s = .next (haltCh k n r.1 r.2 (v.pair (Reg.STK_SE_CHn_CUR_LO k n)) 0 v) := by
  rw [show exec (.seDescFetch k n u) s = execSeDescFetch k n u s from rfl, execSeDescFetch, ifUp_eq hup]
  dsimp only
  rw [hphase, bne_self_eq_false, if_neg Bool.false_ne_true, hans]

theorem exec_seDescFetch_waits (hans : fetchAnswer k n (upset u s) = (none, v)) :
    exec (.seDescFetch k n u) s = .next v := by
  rw [show exec (.seDescFetch k n u) s = execSeDescFetch k n u s from rfl, execSeDescFetch, ifUp_eq hup]
  dsimp only
  rw [hphase, bne_self_eq_false, if_neg Bool.false_ne_true, hans]

end

section
variable {k n : Nat} {v : State} {c : Chan} (hphase : c.phase = .exec)
include hphase

/-- A descriptor that has not started and has not failed waits in execution. -/
theorem seSettle_setChan_waits (hcode : c.code = 0) (hrun : c.running = false) :
    (seSettle k n (v.setChan k n c)).chan k n = c ∧ ChannelOnly k n v (seSettle k n (v.setChan k n c)) := by
  have hset : (v.setChan k n c).chan k n = c := by rw [State.chan_setChan, if_pos ⟨rfl, rfl⟩]
  have honly : ChannelOnly k n v (v.setChan k n c) := channelOnly_updChan k n (fun _ => c) v
  generalize v.setChan k n c = w at hset honly
  have hmoved : c.moved = false := by rw [Chan.moved, hrun, Bool.false_and, Bool.false_and, Bool.false_and]
  have hstay : seSettle k n w = setBytesReg k n w := by
    unfold seSettle
    dsimp only
    rw [hset, hphase, hcode, hmoved, bne_self_eq_false, bne_self_eq_false, if_neg Bool.false_ne_true,
      if_neg Bool.false_ne_true, if_neg Bool.false_ne_true]
  rw [hstay]
  obtain ⟨hsame, hquiet⟩ := (show Keeps quiet w (setBytesReg k n w) by simp [Keeps.refl]).chanOnly k n
  exact ⟨hsame.trans hset, channelOnly_trans honly hquiet⟩

/-- A descriptor that has failed, and has no burst under way, goes on to its status write. -/
theorem seSettle_setChan_fails (hcode : c.code ≠ 0) (hbursts : c.bursts = []) :
    ((seSettle k n (v.setChan k n c)).chan k n).phase = .status ∧
      ((seSettle k n (v.setChan k n c)).chan k n).code = c.code := by
  have hset : (v.setChan k n c).chan k n = c := by rw [State.chan_setChan, if_pos ⟨rfl, rfl⟩]
  generalize v.setChan k n c = w at hset
  obtain ⟨hsame, -⟩ := (show Keeps quiet w (setBytesReg k n w) by simp [Keeps.refl]).chanOnly k n
  have hgoes : seSettle k n w = issueStatus k n (setBytesReg k n w) := by
    unfold seSettle
    dsimp only
    rw [hset, hphase, hbursts, bne_self_eq_false, if_neg Bool.false_ne_true, if_pos (bne_iff_ne.mpr hcode),
      List.isEmpty_nil, if_pos rfl]
  rw [hgoes]
  obtain ⟨⟨tags, due, hchan⟩, -⟩ := issueStatus_writes k n (setBytesReg k n w)
  obtain ⟨hph, -, hco⟩ := statusing_fields ((setBytesReg k n w).chan k n) tags due
  rw [hchan, hph, hco, hsame, hset]
  exact ⟨rfl, if_neg (by simp [hcode])⟩

end

/-! ### The status write -/

/-- Is the descriptor in the memory of another package? -/
def farDesc (k n : Nat) (s : State) : Bool :=
  match fabric s (s.pair (Reg.STK_SE_CHn_CUR_LO k n)) with
  | .far _ _ => true
  | _ => false

/-- The code a status write of channel n takes. -/
def statusCode (k n : Nat) (s : State) : Nat :=
  if (s.chan k n).abort && (s.chan k n).code == 0 && !farDesc k n s then 1 else (s.chan k n).code

/-- The words of a status write. -/
def statusParts (k n : Nat) (s : State) : List (Nat × List Byte) :=
  let c := s.chan k n
  [(4, leBytes 4 (statusCode k n s + 16 * c.detail + 2 ^ 15 + 2 ^ 16 * c.epoch)), (0x38, leBytes 8 c.result)]

theorem execSeStatusWrite_eq (k : StackId) (n : ChanId) (s : State) : execSeStatusWrite k n s = ifUp s (
    if (s.chan k n).phase != .status then .next s
    else
      match dwriteAnswer k n (statusParts k n s) s with
      | (none, s) => .next s
      | (some false, s) => .next (dwriteFail k n s)
      | (some true, v) =>
        .next (if ((s.chan k n).abort && (s.chan k n).code == 0) && farDesc k n s then issueStatus k n v
          else issueOwn k n (updChan k n (fun c => { c with code := statusCode k n s }) v))) := rfl

section
variable {k : StackId} {n : ChanId} {s v : State} (hup : s.down = false)
include hup

section
variable (hphase : (s.chan k n).phase = .status)
include hphase

theorem exec_seStatusWrite_accepted (hans : dwriteAnswer k n (statusParts k n s) s = (some true, v)) :
    exec (.seStatusWrite k n) s =
      .next (if ((s.chan k n).abort && (s.chan k n).code == 0) && farDesc k n s then issueStatus k n v
        else issueOwn k n (updChan k n (fun c => { c with code := statusCode k n s }) v)) := by
  rw [show exec (.seStatusWrite k n) s = execSeStatusWrite k n s from rfl, execSeStatusWrite_eq, ifUp_eq hup, hphase,
    bne_self_eq_false, if_neg Bool.false_ne_true, hans]

theorem exec_seStatusWrite_refused (hans : dwriteAnswer k n (statusParts k n s) s = (some false, v)) :
    exec (.seStatusWrite k n) s = .next (dwriteFail k n v) := by
  rw [show exec (.seStatusWrite k n) s = execSeStatusWrite k n s from rfl, execSeStatusWrite_eq, ifUp_eq hup, hphase,
    bne_self_eq_false, if_neg Bool.false_ne_true, hans]

end

/-! ### The OWN write -/

section
variable (hphase : (s.chan k n).phase = .own)
include hphase

theorem exec_seOwnWrite_refused
    (hans : dwriteAnswer k n [(0, leBytes 4 ((s.chan k n).desc.w 0 % 2 ^ 31))] s = (some false, v)) :
    exec (.seOwnWrite k n) s = .next (dwriteFail k n v) := by
  rw [show exec (.seOwnWrite k n) s = execSeOwnWrite k n s from rfl, execSeOwnWrite, ifUp_eq hup]
  dsimp only
  rw [hphase, bne_self_eq_false, if_neg Bool.false_ne_true, hans]

section
variable (hans : dwriteAnswer k n [(0, leBytes 4 ((s.chan k n).desc.w 0 % 2 ^ 31))] s = (some true, v))
include hans

theorem exec_seOwnWrite_failed (hcode : (s.chan k n).code ≠ 0) :
    exec (.seOwnWrite k n) s = .next (haltCh k n (s.chan k n).code (s.chan k n).detail
      (v.pair (Reg.STK_SE_CHn_CUR_LO k n)) 0
      (updChan k n (fun c => { c with crcUnit := none }) (v.count (Reg.STK_SE_CHn_CNT_DESC k n)))) := by
  rw [show exec (.seOwnWrite k n) s = execSeOwnWrite k n s from rfl, execSeOwnWrite, ifUp_eq hup]
  dsimp only
  rw [hphase, bne_self_eq_false, if_neg Bool.false_ne_true, hans]
  dsimp only
  rw [if_pos (bne_iff_ne.mpr hcode)]

theorem exec_seOwnWrite_ok (hcode : (s.chan k n).code = 0) (hirq : (s.chan k n).desc.ctl 8 = false)
    (hglint : (s.chan k n).desc.glint = false) :
    exec (.seOwnWrite k n) s = .next (
      let c := s.chan k n
      let w := updChan k n (fun c => { c with crcUnit := none }) (v.count (Reg.STK_SE_CHn_CNT_DESC k n))
      if c.desc.ctl 7 = false then endOk k n c.desc.next false w
      else if c.done = c.budget then haltCh k n 5 0 c.desc.next 0 w
      else if c.abort then haltCh k n 1 0 c.desc.next 0 w
      else issueFetch k n (w.setPair (Reg.STK_SE_CHn_CUR_LO k n) (c.desc.next / 64 * 64))) := by
  rw [show exec (.seOwnWrite k n) s = execSeOwnWrite k n s from rfl, execSeOwnWrite, ifUp_eq hup]
  dsimp only
  rw [hphase, bne_self_eq_false, if_neg Bool.false_ne_true, hans]
  dsimp only
  rw [hcode, hirq, hglint, bne_self_eq_false, if_neg Bool.false_ne_true, if_neg Bool.false_ne_true,
    if_neg Bool.false_ne_true]
  generalize updChan k n _ (v.count _) = w
  cases hchain : (s.chan k n).desc.ctl 7 with
  | false => rw [Bool.not_false, if_pos rfl, if_pos rfl]
  | true =>
    rw [Bool.not_true, if_neg Bool.false_ne_true, if_neg (show ¬(true = false) by decide)]
    split
    · rfl
    split <;> rfl

end
end

/-! ### Time-outs -/

section
variable {at_ : Nat} {b : Option Burst} (hdue : (s.chan k n).firstDue = some (at_, b))
include hdue

/-- What the time-out of a channel in phase `ph` does. -/
def timedOut (k n : Nat) (c : Chan) (ph : ChPhase) (b : Option Burst) (v : State) : State :=
  match ph, b with
  | .fetch, _ => haltCh k n 3 4 (v.pair (Reg.STK_SE_CHn_CUR_LO k n)) 0 v
  | .status, _ => dwriteFail k n v
  | .own, _ => dwriteFail k n v
  | .exec, none => seFail k n 3 (if c.listing then 1 else 5) v
  | .exec, some b =>
    seSettle k n (seFail k n 3 (if b.written then 2 else 1) (updChan k n (fun c => c.drop fun x => x.id == b.id) v))
  | _, _ => v

theorem exec_seAccessTimeout :
    exec (.seAccessTimeout k n) s = .next (timedOut k n (s.chan k n) (s.chan k n).phase b (s.advance at_)) := by
  rw [show exec (.seAccessTimeout k n) s = execSeAccessTimeout k n s from rfl, execSeAccessTimeout, ifUp_eq hup]
  dsimp only
  rw [hdue]
  dsimp only
  generalize s.advance at_ = v
  cases (s.chan k n).phase <;> cases b <;> rfl

end
end

section
variable {k : StackId} {n : ChanId} {u : Upsets} {s v : State} (hup : s.down = false)
include hup

section
variable (hphase : ((upset u s).chan k n).phase = .fetch) {d : Desc} {r : Nat × Nat}
  (hans : fetchAnswer k n (upset u s) = (some (some d, r), v)) (hown : d.ctl 31 = true)
include hphase hans hown

/-- A well formed descriptor goes to execution. -/
theorem fetch_executes (habort : (v.chan k n).abort = false) (hok : wellFormed v d = true) :
    ∃ t, exec (.seDescFetch k n u) s = .next t ∧ (t.chan k n).phase = .exec ∧ (t.chan k n).desc = d ∧
      (t.chan k n).code = 0 ∧ (t.chan k n).done = (v.chan k n).done + 1 ∧ (t.chan k n).timer = (v.chan k n).timer ∧
      ChannelOnly k n v t := by
  obtain ⟨due, hexec⟩ := exec_seDescFetch_owned hup hphase hans hown
  obtain ⟨hph, hdesc, hdone, htimer, -, hrun, hcode⟩ := fetchedChan_fields (v.chan k n) d (wellFormed v d) due
  replace hcode : (fetchedChan (v.chan k n) d (wellFormed v d) due).code = 0 := by
    rw [hcode, habort, hok, if_neg Bool.false_ne_true, if_pos rfl]
  generalize fetchedChan (v.chan k n) d (wellFormed v d) due = c at hexec hph hdesc hdone htimer hrun hcode
  obtain ⟨hchan, honly⟩ := seSettle_setChan_waits (k := k) (n := n) (v := v) hph hcode hrun
  refine ⟨_, hexec, ?_⟩
  rw [hchan]
  exact ⟨hph, hdesc, hcode, hdone, htimer, honly⟩

/-- A malformed descriptor, or one of an activation that is aborted, goes on to its status write. -/
theorem fetch_fails (hbad : (v.chan k n).abort = true ∨ wellFormed v d = false) :
    ∃ t, exec (.seDescFetch k n u) s = .next t ∧ (t.chan k n).phase = .status ∧
      (t.chan k n).code = (if (v.chan k n).abort then 1 else 2) := by
  obtain ⟨due, hexec⟩ := exec_seDescFetch_owned hup hphase hans hown
  obtain ⟨hph, -, -, -, hbursts, -, hcode⟩ := fetchedChan_fields (v.chan k n) d (wellFormed v d) due
  have hcode' : (fetchedChan (v.chan k n) d (wellFormed v d) due).code = if (v.chan k n).abort then 1 else 2 := by
    rw [hcode]
    split
    · rfl
    next h =>
      rw [if_neg]
      rw [hbad.resolve_left h]
      exact Bool.false_ne_true
  generalize fetchedChan (v.chan k n) d (wellFormed v d) due = c at hexec hph hbursts hcode'
  have hne : c.code ≠ 0 := by
    rw [hcode']
    split <;> decide
  obtain ⟨hstatus, hco⟩ := seSettle_setChan_fails (k := k) (n := n) (v := v) hph hne hbursts
  exact ⟨_, hexec, hstatus, hco.trans hcode'⟩

end

/-- The status write of a descriptor that is not both aborted and in another package goes on to the OWN write. -/
theorem status_goes_on (hphase : (s.chan k n).phase = .status)
    (hans : dwriteAnswer k n (statusParts k n s) s = (some true, v))
    (h : ((s.chan k n).abort && (s.chan k n).code == 0) = false ∨ farDesc k n s = false) :
    exec (.seStatusWrite k n) s =
      .next (issueOwn k n (updChan k n (fun c => { c with code := statusCode k n s }) v)) := by
  rw [exec_seStatusWrite_accepted hup hphase hans, if_neg]
  rcases h with h | h <;> simp [h]

theorem status_again (hphase : (s.chan k n).phase = .status)
    (hans : dwriteAnswer k n (statusParts k n s) s = (some true, v))
    (habort : ((s.chan k n).abort && (s.chan k n).code == 0) = true) (hfar : farDesc k n s = true) :
    exec (.seStatusWrite k n) s = .next (issueStatus k n v) := by
  rw [exec_seStatusWrite_accepted hup hphase hans, habort, hfar, Bool.and_self, if_pos rfl]

end

/-- Settles O25: the fetch by its answer, the writes by theirs, and the time-out by the channel's phase. -/
theorem descriptorsAreFetchedAndEnd : Obligations.DescriptorsAreFetchedAndEnd := by
  unfold Obligations.DescriptorsAreFetchedAndEnd
  refine ⟨?fetch, ?writes, ?timeout⟩
  case fetch =>
    intro k n u s v x c cur hup hphase
    refine ⟨fun d r hans hown habort hok => fetch_executes hup hphase hans hown habort hok,
      fun d r hans hown => exec_seDescFetch_free hup hphase hans hown,
      fun d r hans hown hbad => fetch_fails hup hphase hans hown hbad,
      fun code detail hans => exec_seDescFetch_failed hup hphase hans,
      fun hans => exec_seDescFetch_waits hup hphase hans⟩
  case writes =>
    intro k n s v hup c
    refine ⟨fun hphase => ⟨?_, ?_, ?_⟩, fun hphase => ⟨?_, ?_, ?_⟩⟩
    · exact fun hans h => status_goes_on hup hphase hans h
    · exact fun hans habort hfar => status_again hup hphase hans habort hfar
    · exact fun hans => exec_seStatusWrite_refused hup hphase hans
    · exact fun hans hcode => exec_seOwnWrite_failed hup hphase hans hcode
    · exact fun hans hcode hirq hglint => exec_seOwnWrite_ok hup hphase hans hcode hirq hglint
    · exact fun hans => exec_seOwnWrite_refused hup hphase hans
  case timeout =>
    intro k n s at_ b hup c v hdue
    have hexec := exec_seAccessTimeout hup hdue
    refine ⟨fun hphase => ?_, fun hphase => ?_, fun hphase hb => ?_, fun x hphase hb => ?_⟩
    · rw [hexec, hphase]
      rfl
    · rw [hexec]
      rcases hphase with hphase | hphase <;> rw [hphase] <;> rfl
    · rw [hexec, hphase, hb]
      rfl
    · rw [hexec, hphase, hb]
      rfl

end Sys2Proof.Machine
end

section

/-! ## Boundaries (O27) -/

namespace Sys2Proof.Machine

open Sys2Proof

-- Proofs in turn: each that waits on others while elaborated at once holds a stack, and the check limits the memory.
set_option Elab.async false

theorem tick_of_keeps {s t : State} (h : Keeps { tick := true } s t) : t.tick = s.tick := by
  obtain ⟨-, -, -, -, -, -, htick, -⟩ := h
  exact htick rfl

/-! ### Cores with no request under way -/

/-- No request of core i's L1 is under way. -/
def NoRequests (i : Nat) (s : State) : Prop := ∃ c, Drained1 c i s

section
variable {i j : Nat} {s t : State}

theorem noRequests_iff : NoRequests i s ↔ (s.core i).l1.miss = [] ∧ (s.core i).l1.waiting = [] := by
  constructor
  · rintro ⟨c, x, hx, hmiss, hwait⟩
    rw [hx]
    exact ⟨hmiss, hwait⟩
  · rintro ⟨hmiss, hwait⟩
    exact ⟨s.core i, (s.core i).l1, rfl, hmiss, hwait⟩

theorem NoRequests.of_keeps (h : NoRequests i s) (hk : Keeps { cores := true } s t) : NoRequests i t := by
  obtain ⟨c, hc⟩ := h
  exact ⟨c, hc.of_keeps hk⟩

/-- A change of a core's other parts. -/
theorem NoRequests.updCore {f : Core → Core} (h : NoRequests i s) (hf : ∀ c : Core, (f c).l1 = c.l1) :
    NoRequests i (updCore j f s) := by
  rw [noRequests_iff] at h ⊢
  rw [State.core_updCore]
  split
  next hij => rw [hf, ← hij]; exact h
  next => exact h

theorem NoRequests.updL1 {f : L1 → L1} (h : NoRequests i s)
    (hf : ∀ x : L1, x.miss = [] → x.waiting = [] → (f x).miss = [] ∧ (f x).waiting = []) :
    NoRequests i (updL1 j f s) := by
  obtain ⟨c, hc⟩ := h
  exact ⟨c, hc.updL1 hf⟩

theorem NoRequests.forEach {α : Type} {xs : List α} {f : α → State → State}
    (hf : ∀ a v, NoRequests i v → NoRequests i (f a v)) (h : NoRequests i s) : NoRequests i (forEach xs f s) :=
  List.foldlRecOn xs _ h fun v hv a _ => hf a v hv

theorem NoRequests.settleStores (h : NoRequests i s) : NoRequests i (settleStores j s) := by
  have hclear : NoRequests i (Machine.updL1 j (fun c => { c with miss := [], waiting := [] }) s) :=
    h.updL1 fun _ _ _ => ⟨rfl, rfl⟩
  obtain ⟨c, hc⟩ := hclear
  refine ⟨c, ?_⟩
  unfold Machine.settleStores
  refine Drained1.forEach (fun x v hv => hv.deadMark) (Drained1.forEach (fun x v hv => ?_) hc)
  split
  · exact hv.l1StoreLine
  · exact hv

theorem noRequests_settleStores (i : Nat) (s : State) : NoRequests i (settleStores i s) :=
  ⟨_, settleStores_drained i s⟩

theorem NoRequests.updTns {f : Tensor → Tensor} (h : NoRequests i s) : NoRequests i (updTns j f s) :=
  h.updCore fun _ => rfl

theorem NoRequests.rampPass (h : NoRequests i s) : NoRequests i (rampPass j s) := by
  unfold Machine.rampPass
  simp only
  split
  · exact (h.of_keeps (by simp [Keeps.refl])).updTns
  · exact (h.of_keeps (by simp [Keeps.refl])).updTns
  · exact h

theorem NoRequests.rampDrop (h : NoRequests i s) : NoRequests i (rampDrop j s) := by
  unfold Machine.rampDrop
  split
  · exact h
  · exact h
  · exact h.updTns
  · exact h.updTns

theorem NoRequests.rampForStep (h : NoRequests i s) : NoRequests i (rampForStep j s) := by
  unfold Machine.rampForStep
  simp only
  split
  · exact ((h.rampDrop (j := j)).of_keeps (by simp [Keeps.refl])).updTns
  · exact h.rampDrop

theorem NoRequests.tensorReset (h : NoRequests i s) : NoRequests i (tensorReset j s) :=
  h.rampDrop.updTns

/-- What changes slots in turn changes no L1. -/
theorem l1_foldl_slots {f : Core → Nat → Core} (hf : ∀ c g, (f c g).l1 = c.l1) (gs : List Nat) (c : Core) :
    (gs.foldl f c).l1 = c.l1 := by
  induction gs generalizing c with
  | nil => rfl
  | cons g gs ih => rw [List.foldl_cons, ih, hf]

theorem NoRequests.haltSlots {trapped : Bool} (h : NoRequests i s) : NoRequests i (haltSlots trapped j s) := by
  refine h.updCore fun c => l1_foldl_slots (fun c g => ?_) _ c
  simp only
  split <;> rfl

theorem NoRequests.emptySlots {all : Bool} (h : NoRequests i s) : NoRequests i (emptySlots all j s) := by
  refine h.updCore fun c => ?_
  have hsettle : ∀ c : Core, c.rpSettle.l1 = c.l1 := by
    intro c
    unfold Core.rpSettle
    split <;> rfl
  rw [hsettle]
  refine l1_foldl_slots (fun c g => ?_) _ c
  split <;> rfl

theorem NoRequests.dropLoads (h : NoRequests i s) : NoRequests i (dropLoads j s) :=
  h.settleStores.updCore fun _ => rfl

/-- Loads that are dropped leave the tick unit alone where no store waits. -/
theorem tick_dropLoads (h : NoRequests i s) : (dropLoads i s).tick = s.tick := by
  obtain ⟨hmiss, hwait⟩ := noRequests_iff.1 h
  unfold Machine.dropLoads
  rw [settleStores_of_idle hmiss hwait]
  rfl

theorem NoRequests.l1Clean (h : NoRequests i s) : NoRequests i (l1Clean j s) := by
  unfold Machine.l1Clean
  refine NoRequests.forEach (fun x v hv => ?_) (h.updL1 fun _ hm hw => ⟨hm, hw⟩)
  split
  · exact hv
  · have hread : NoRequests i (l1ReadDirty j x v).2 := hv.of_keeps ((l1ReadDirty_keeps rfl).2 .refl)
    obtain ⟨c, hc⟩ := hread
    exact ⟨c, hc.l1Send⟩

theorem NoRequests.applyL1sz (h : NoRequests i s) : NoRequests i (applyL1sz j s) := by
  unfold Machine.applyL1sz
  split
  · exact h
  · extract_lets base keep s1 s2
    have h2 : NoRequests i s2 := h.of_keeps (by simp [s2, s1, Keeps.refl])
    rw [noRequests_iff] at h2 ⊢
    rw [State.core_updCore]
    split
    next hij => rw [← hij]; exact h2
    next => exact h2

theorem NoRequests.cleanL1s (h : NoRequests i s) : NoRequests i (cleanL1s s) := by
  unfold Machine.cleanL1s
  refine NoRequests.forEach (fun x v hv => NoRequests.applyL1sz ?_) h
  split
  · exact hv.l1Clean
  · exact hv

theorem l1_glintRestart (c : Core) : c.glintRestart.l1 = c.l1 := by
  unfold Core.glintRestart
  split <;> rfl

theorem NoRequests.latchGlint (h : NoRequests i s) : NoRequests i (latchGlint s) := by
  unfold Machine.latchGlint
  refine NoRequests.forEach (fun x v hv => hv.of_keeps (by simp [Keeps.refl]))
    (NoRequests.forEach (fun x v hv => ?_) (h.of_keeps (by simp [Keeps.refl])))
  exact NoRequests.updCore (NoRequests.forEach (fun x v hv => hv.of_keeps (by simp [Keeps.refl])) hv) l1_glintRestart

/-- What a boundary latches leaves a core with no request so. -/
theorem NoRequests.latchTick {b d : Nat} (h : NoRequests i s) : NoRequests i (latchTick b d s) := by
  have hkeeps : Keeps { cores := true } (Machine.latchGlint (latchPeaks (settleTick s))) (Machine.latchTick b d s) := by
    unfold Machine.latchTick
    generalize Machine.latchGlint (latchPeaks (settleTick s)) = u
    simp [Keeps.refl]
  exact ((h.of_keeps (t := latchPeaks (settleTick s)) (by simp [Keeps.refl])).latchGlint).of_keeps hkeeps

theorem NoRequests.setStep (h : NoRequests i s) : NoRequests i (setStep s) := by
  have hchosen : NoRequests i (chooseStep s) := h.of_keeps (by simp [Keeps.refl])
  unfold Machine.setStep
  simp only
  split
  · exact hchosen
  · refine NoRequests.forEach (fun x v hv => hv.rampForStep) ?_
    split
    · exact hchosen.of_keeps (by simp [Keeps.refl])
    · exact hchosen

/-- The channels' timers start anew with the tick. -/
def restartTimers (s : State) : State :=
  forEach s.stks (fun e s => forEach (e.2.chans.map (·.1)) (fun n s =>
    updChan e.1 n (fun c => { c with fired := false, late := false }) s) s) s

theorem restartTimers_keeps {K : Kept} (hstks : K.stks = false) : Keeps K s (restartTimers t) ↔ Keeps K s t :=
  forEach_keeps_iff fun _ _ => forEach_keeps_iff fun _ _ => updChan_keeps hstks

theorem openTick_eq (keep : Bool) (t0 : Nat) (s : State) : openTick keep t0 s =
    let s := updTick (fun t => { t with
      bnd := t0, started := true, rel := if keep then t.rel else none, ready := if keep then t.ready else [],
      done := [], badDone := false, doneSent := false, ovr := false }) s
    let s := updPower (fun p => { p with reported := false }) s
    let s := (s.setFlag Reg.TICK_STAT F.TICK_STAT.OVERRUN false).setFlag Reg.TICK_STAT F.TICK_STAT.WAITING false
    restartTimers (bwrRestart (forEach (s.cores.map (·.1)) (fun i s => updCore i (fun c => { c with stopCount := 0 }) s) s)) := rfl

theorem NoRequests.openTick {keep : Bool} {t0 : Nat} (h : NoRequests i s) : NoRequests i (openTick keep t0 s) := by
  rw [openTick_eq]
  extract_lets s1 s2 s3
  have h3 : NoRequests i s3 := h.of_keeps (by simp [s3, s2, s1, Keeps.refl])
  have h4 := NoRequests.forEach (xs := s3.cores.map (·.1)) (f := fun i s => Machine.updCore i (fun c => { c with stopCount := 0 }) s)
    (fun a v hv => hv.updCore fun _ => rfl) h3
  exact h4.of_keeps ((restartTimers_keeps rfl).2 (by simp [Keeps.refl]))

/-- A tick that opens with no release kept has none. -/
theorem rel_openTick (t0 : Nat) (s : State) : (openTick false t0 s).tick.rel = none := by
  rw [openTick_eq]
  extract_lets s1 s2 s3
  have hkeeps : Keeps { tick := true } s1 (restartTimers (bwrRestart
      (Machine.forEach (s3.cores.map (·.1)) (fun i s => Machine.updCore i (fun c => { c with stopCount := 0 }) s) s3))) :=
    (restartTimers_keeps rfl).2 (by simp [s3, s2, Keeps.refl])
  obtain ⟨-, -, -, -, -, -, htick, -⟩ := hkeeps
  rw [htick rfl]
  rfl

end

/-! ### A stopping boundary -/

theorem sget_of_not_mem {α : Type} {d : Nat → α} {m : SMap α} {k : Nat} (h : k ∉ m.map (·.1)) : sget d m k = d k := by
  induction m with
  | nil => rfl
  | cons e m ih =>
    rw [List.map_cons, List.mem_cons, not_or] at h
    obtain ⟨hne, hm⟩ := h
    rw [sget_cons, if_neg hne, ih hm]

/-- What drains each listed core in turn, and fills none, leaves them all drained. -/
theorem noRequests_forEach {xs : List Nat} {f : Nat → State → State} {s : State}
    (hkeep : ∀ a v i, NoRequests i v → NoRequests i (f a v)) (hmake : ∀ a v, NoRequests a (f a v)) {i : Nat}
    (h : i ∈ xs ∨ NoRequests i s) : NoRequests i (forEach xs f s) := by
  induction xs generalizing s with
  | nil => exact h.resolve_left (List.not_mem_nil)
  | cons a xs ih =>
    refine ih ?_
    rcases h with h | h
    · rcases List.mem_cons.mp h with rfl | h
      · exact .inr (hmake _ _)
      · exact .inl h
    · exact .inr (hkeep _ _ _ h)

/-- A core that is not in the table has no request. -/
theorem noRequests_of_reset {s : State} {i : Nat} (h : i ∉ s.cores.map (·.1)) : NoRequests i s := by
  rw [noRequests_iff, State.core, sget_of_not_mem h]
  exact ⟨rfl, rfl⟩

/-- What leaves the tick unit alone while no store waits, and makes none wait, does so all along a list. -/
theorem tick_forEach {xs : List Nat} {f : Nat → State → State} {s : State}
    (hf : ∀ a v, (∀ i, NoRequests i v) → (∀ i, NoRequests i (f a v)) ∧ (f a v).tick = v.tick)
    (h : ∀ i, NoRequests i s) : (forEach xs f s).tick = s.tick := by
  induction xs generalizing s with
  | nil => rfl
  | cons a xs ih =>
    obtain ⟨hkeep, htick⟩ := hf a s h
    exact (ih hkeep).trans htick

/-- A core whose loads are dropped with no store waiting leaves the tick unit alone. -/
theorem tick_dropCore (i : Nat) (s : State) (h : ∀ i, NoRequests i s) :
    (∀ j, NoRequests j (dropLoads i (tensorReset i (emptySlots false i s)))) ∧
      (dropLoads i (tensorReset i (emptySlots false i s))).tick = s.tick := by
  have hstep : ∀ j, NoRequests j (tensorReset i (emptySlots false i s)) := fun j => (h j).emptySlots.tensorReset
  obtain ⟨-, -, -, -, -, -, htick, -⟩ := show Keeps { tick := true } s (tensorReset i (emptySlots false i s)) by
    simp [Keeps.refl]
  exact ⟨fun j => (hstep j).dropLoads, (tick_dropLoads (hstep i)).trans (htick rfl)⟩

/-- The registers outside the stacks (Table 1-7). -/
def LowBits (a _ : Nat) : Prop := a < 0x1000000

theorem bitsKept_setPair {P : Nat → Nat → Prop} {s : State} {a : Nat} (v : Nat) (hlo : ∀ i, ¬P a i)
    (hhi : ∀ i, ¬P (a + 4) i) : BitsKept P s (s.setPair a v) :=
  bitsKept_trans (bitsKept_setReg _ hlo) (bitsKept_setReg _ hhi)

theorem activationRegs_bits (k n : Nat) (s : State) : BitsKept LowBits s (activationRegs k n s) := by
  have hhigh : ∀ a, 0x1000000 ≤ a → ∀ i, ¬LowBits a i := fun a ha i h => by unfold LowBits at h; omega
  unfold activationRegs
  extract_lets r
  have hr : BitsKept LowBits s r :=
    bitsKept_trans (bitsKept_of_keeps (K := { regs := true }) (by simp [Keeps.refl]))
      (bitsKept_setReg _ (hhigh _ (by unfold Reg.STK_SE_CHn_STAT; omega)))
  clear_value r
  split
  · exact bitsKept_trans hr (bitsKept_setPair _ (hhigh _ (by unfold Reg.STK_SE_CHn_CUR_LO; omega))
      (hhigh _ (by unfold Reg.STK_SE_CHn_CUR_LO; omega)))
  · exact hr

/-- A channel that starts what it holds changes no register outside the stacks. -/
theorem startHeld_bits (k n : Nat) (s : State) : BitsKept LowBits s (startHeld k n s) := by
  unfold startHeld
  dsimp only
  split
  next t _ =>
    split
    · have hset : BitsKept LowBits s (s.setChan k n { s.chan k n with held := none }) :=
        bitsKept_of_keeps (K := { regs := true }) (by simp [Keeps.refl])
      generalize s.setChan k n _ = u at hset
      have hact : BitsKept LowBits u (activationRegs k n u) := activationRegs_bits k n u
      rw [startActivation_eq]
      refine bitsKept_trans (bitsKept_trans hset hact) (bitsKept_of_keeps (K := { regs := true }) ?_)
      simp [Keeps.refl]
    · exact bitsKept_refl
  next => exact bitsKept_refl

/-- TICK_STAT.STATE (Table 2-8). -/
def StateBits (a i : Nat) : Prop := a = Reg.TICK_STAT ∧ i < 2

theorem stateBits_of_low {s t : State} (h : BitsKept LowBits s t) : BitsKept StateBits s t :=
  fun _ _ ⟨ha, _⟩ => h _ _ (ha ▸ by unfold LowBits; decide)

theorem tickState_congr {s t : State} (h : BitsKept StateBits s t) : t.tickState = s.tickState :=
  bitsKept_fld h fun _ _ hi => ⟨rfl, hi⟩

theorem bitsKept_forEach {α : Type} {P : Nat → Nat → Prop} {xs : List α} {f : α → State → State}
    (hf : ∀ a v, BitsKept P v (f a v)) (s : State) : BitsKept P s (forEach xs f s) :=
  List.foldlRecOn xs _ bitsKept_refl fun v hv a _ => bitsKept_trans hv (hf a v)

/-- The cores after a stop: none has a request under way. -/
theorem noRequests_stopped {s : State} : ∀ i, NoRequests i
    (forEach (s.cores.map (·.1)) (fun i s => rampPass i (settleStores i (haltSlots false i s))) s) := by
  intro i
  refine noRequests_forEach (fun a v j hv => hv.haltSlots.settleStores.rampPass)
    (fun a v => (noRequests_settleStores a _).rampPass) ?_
  by_cases hi : i ∈ s.cores.map (·.1)
  · exact .inl hi
  · exact .inr (noRequests_of_reset hi)

/-- The tick unit's flags and registers at a stopping boundary, and the power unit's lending. -/
def stopFlags (r : Release) (invalid : Bool) (s : State) : State :=
  let s := setTickState 3 s
  let s := if r.fault then s.setFlag Reg.TICK_STAT F.TICK_STAT.FAULT else s
  let s := if r.invalid || invalid then s.setFlag Reg.TICK_STAT F.TICK_STAT.INVALID else s
  let s := s.setReg Reg.TICK_CTL (s.reg Reg.TICK_CTL &&& ~~~3#32)
  s.setFlag Reg.TICK_STOP_CTL F.TICK_STOP_CTL.END_EN (s.flag Reg.TICK_STOP_CTL F.TICK_STOP_CTL.END_EN && !r.byEnd)

/-- The tick unit and the power unit after a stopping boundary. -/
def stopUnits (r : Release) (s : State) : State :=
  updPower (fun p => { p with dec := none, inc := none, round := none, pool := 0, reports := [], incSent := [] })
    (updTick (fun t => { t with
      restart := true, unreach := [], invalid := false, fromFree := false,
      pend := if s.tickRoot || r.period = t.period then t.pend else some r.period }) s)

/-- What a stopping boundary does up to the opening of the next tick. -/
def stopTick (r : Release) (s : State) : State :=
  let s := forEach (s.cores.map (·.1)) stopCore (s.advanceTb (64 * r.time))
  let d := r.time - s.nominalEnd
  let s := forEach (s.cores.map (·.1)) (fun i s => rampPass i (settleStores i (haltSlots false i s))) s
  let s := forEach s.stks (fun e s => forEach (e.2.chans.map (·.1)) (fun n s => abortCh e.1 n s) s) s
  let s := cleanL1s (latchTick r.index d s)
  let s := setStep (recount (applyRoutes s))
  let s := openTick false r.time (endTick (noteLate d s))
  let s := forEach (s.cores.map (·.1)) (fun i s => dropLoads i (tensorReset i (emptySlots false i s))) s
  forEach s.stks (fun e s => forEach (List.range 4) (fun q s => claimRearm e.1 q s) s) s

/-- The channels' triggers that were held start. -/
def startHelds (s : State) : State :=
  forEach s.stks (fun e s => forEach (e.2.chans.map (·.1)) (fun n s => startHeld e.1 n s) s) s

theorem stopBoundary_eq (r : Release) (s : State) :
    ∃ invalid, stopBoundary r s = startHelds (stopUnits r (stopFlags r invalid (stopTick r s))) := ⟨_, rfl⟩

theorem stopFlags_state (r : Release) (invalid : Bool) (s : State) : (stopFlags r invalid s).tickState = 3 := by
  have hset : ∀ (c : Bool) (f : Fld) (v : State), 2 ≤ f.lo → f.lo < 32 →
      BitsKept StateBits v (if c then v.setFlag Reg.TICK_STAT f else v) := by
    intro c f v hlo hhi
    split
    · exact bitsKept_setFlag true hhi fun h => absurd h.2 (by omega)
    · exact bitsKept_refl
  have hstate : (setTickState 3 s).tickState = 3 := State.fld_setFld _ _ _ _ (by decide)
  unfold stopFlags
  extract_lets state fault inval ctl
  have hfault : BitsKept StateBits state fault := hset _ _ _ (by decide) (by decide)
  have hinval : BitsKept StateBits fault inval := hset _ _ _ (by decide) (by decide)
  have hctl : BitsKept StateBits inval ctl := bitsKept_setReg _ fun i h => absurd h.1 (by decide)
  refine (tickState_congr (s := state) (bitsKept_trans (bitsKept_trans hfault (bitsKept_trans hinval hctl)) ?_)).trans hstate
  exact bitsKept_setFlag _ (by decide) fun h => absurd h.1 (by decide)

theorem stopFlags_tick (r : Release) (invalid : Bool) (s : State) : (stopFlags r invalid s).tick = s.tick := by
  refine tick_of_keeps ?_
  simp only [stopFlags]
  split <;> split <;> simp [setTickState, Keeps.refl]

/-- The tick that a stopping boundary opens has no release. -/
theorem rel_stopTick (r : Release) (s : State) : (stopTick r s).tick.rel = none := by
  unfold stopTick
  extract_lets stopped d ramped aborted cleaned step opened emptied
  have hramped : ∀ i, NoRequests i ramped := noRequests_stopped
  clear_value ramped
  have haborted : ∀ i, NoRequests i aborted := fun i => (hramped i).of_keeps
    ((forEach_keeps_iff fun e v => forEach_keeps_iff fun n v => abortCh_keeps rfl rfl).2 .refl)
  clear_value aborted
  have hcleaned : ∀ i, NoRequests i cleaned := fun i => (haborted i).latchTick.cleanL1s
  clear_value cleaned
  have hstep : ∀ i, NoRequests i step := fun i =>
    ((hcleaned i).of_keeps (recount_keeps rfl rfl rfl rfl (by simp [Keeps.refl]))).setStep
  clear_value step
  have hopened : ∀ i, NoRequests i opened := fun i =>
    ((hstep i).of_keeps (t := endTick (noteLate d step)) (by simp [Keeps.refl])).openTick
  have hrel : opened.tick.rel = none := rel_openTick ..
  clear_value opened
  have hemptied : emptied.tick = opened.tick := tick_forEach tick_dropCore hopened
  clear_value emptied
  have hrearmed := tick_of_keeps (s := emptied) ((forEach_keeps_iff (xs := emptied.stks)
    (f := fun e s => forEach (List.range 4) (fun q s => claimRearm e.1 q s) s)
    fun e v => forEach_keeps_iff fun q v => claimRearm_keeps rfl).2 .refl)
  exact (congrArg Tick.rel (hrearmed.trans hemptied)).trans hrel

theorem stopUnits_tick (r : Release) (s : State) :
    (stopUnits r s).tick.restart = true ∧ (stopUnits r s).tick.rel = s.tick.rel ∧
      (stopUnits r s).tickState = s.tickState := ⟨rfl, rfl, rfl⟩

theorem startHelds_bits (s : State) : BitsKept LowBits s (startHelds s) := by
  unfold startHelds
  refine bitsKept_forEach (f := fun (e : Nat × Stack) s => forEach (e.2.chans.map (·.1)) (fun n s => startHeld e.1 n s) s)
    (fun e v => ?_) s
  exact bitsKept_forEach (f := fun n s => startHeld e.1 n s) (fun n w => startHeld_bits e.1 n w) v

theorem startHelds_tick (s : State) : (startHelds s).tick = s.tick :=
  tick_of_keeps ((startHelds_keeps rfl rfl).2 .refl)

/-- A stopping boundary leaves state 3, the index to restart and no release. -/
theorem stopBoundary_stops (r : Release) (s : State) :
    (stopBoundary r s).tickState = 3 ∧ (stopBoundary r s).tick.restart = true ∧
      (stopBoundary r s).tick.rel = none := by
  obtain ⟨invalid, h⟩ := stopBoundary_eq r s
  obtain ⟨hrestart, hrel, hunits⟩ := stopUnits_tick r (stopFlags r invalid (stopTick r s))
  rw [h, tickState_congr (stateBits_of_low (startHelds_bits _)), startHelds_tick, hunits, stopFlags_state, hrestart, hrel, stopFlags_tick, rel_stopTick]
  exact ⟨rfl, rfl, rfl⟩

/-! ### O27 -/

section
variable {vin : Nat} {s : State} (hup : s.down = false)
include hup

theorem exec_tickBoundary (hreset : s.boot.resetting = none) : exec (.tickBoundary vin) s = .next (
    if s.freeDue then serviceBoundary (tickBoundary vin s) else tickBoundary vin s) := by
  rw [show exec (.tickBoundary vin) s = execTickBoundary vin s from rfl, execTickBoundary, ifUp_eq hup, hreset]
  rfl

theorem exec_stoppingBoundary {r : Release} (hrel : s.tick.rel = some r) (hjob : s.inJob = true) (hstop : r.stop = true) :
    exec (.stoppingBoundary vin) s = .next (stopBoundary r s) := by
  rw [show exec (.stoppingBoundary vin) s = execStoppingBoundary vin s from rfl, execStoppingBoundary, ifUp_eq hup, hrel]
  dsimp only
  rw [hjob, hstop, Bool.and_self, if_pos rfl]

end

section
variable {vin : Nat} {s : State}

/-- The boundary that is due in free mode. -/
theorem tickBoundary_free (hfree : s.freeDue = true) :
    tickBoundary vin s = boundary .free s.nextFree s.nominalEnd (s.tick.pend.getD s.tick.period) vin s := by
  unfold State.freeDue at hfree
  unfold tickBoundary
  cases hrel : s.tick.rel with
  | none =>
    rw [hrel] at hfree
    have hjob : s.inJob = false := by simpa using hfree
    dsimp only
    rw [hjob, if_neg Bool.false_ne_true]
  | some r =>
    rw [hrel] at hfree
    dsimp only at hfree
    rw [Bool.and_eq_true, Bool.not_eq_true', Bool.not_eq_true'] at hfree
    obtain ⟨hjob, hstart⟩ := hfree
    dsimp only
    rw [hjob, if_neg Bool.false_ne_true, hstart, if_neg Bool.false_ne_true]

variable {r : Release} (hrel : s.tick.rel = some r)
include hrel

theorem tickBoundary_job0 (hjob : s.inJob = false) (hstart : s.inStarting = true) (htime : r.time ≤ s.nominalEnd) :
    tickBoundary vin s = boundary .job0 0 r.time r.period vin s := by
  unfold tickBoundary
  rw [hrel]
  dsimp only
  rw [hjob, if_neg Bool.false_ne_true, hstart, decide_eq_true htime, Bool.and_self, if_pos rfl]

theorem tickBoundary_job (hjob : s.inJob = true) (hstop : r.stop = false) :
    tickBoundary vin s = boundary .job r.index r.time r.period vin s := by
  unfold tickBoundary
  rw [hrel]
  dsimp only
  rw [hjob, if_pos rfl, hstop, if_neg Bool.false_ne_true]

end

/-- Settles O27: the boundary by its kind; a stopping one ends with STATE 3 and no release. -/
theorem boundariesOpen : Obligations.BoundariesOpen := by
  unfold Obligations.BoundariesOpen
  intro vin s hup
  refine ⟨fun hreset => ⟨fun hfree => ?_, fun r hrel hstart htime => ?_, fun r hrel hjob hstop => ?_⟩,
    fun r hrel hjob hstop => ?_, fun hjob hrel => ?_⟩
  · rw [exec_tickBoundary hup hreset, if_pos hfree, tickBoundary_free hfree]
  · have hjob : s.inJob = false := by
      unfold State.inStarting at hstart
      unfold State.inJob
      rw [beq_iff_eq] at hstart
      rw [hstart]
      rfl
    have hnot : s.freeDue = false := by
      unfold State.freeDue
      rw [hrel]
      dsimp only
      rw [hjob, hstart, decide_eq_true htime]
      rfl
    rw [exec_tickBoundary hup hreset, hnot, if_neg Bool.false_ne_true, tickBoundary_job0 hrel hjob hstart htime]
  · have hnot : s.freeDue = false := by
      unfold State.freeDue
      rw [hrel]
      dsimp only
      rw [hjob]
      rfl
    rw [exec_tickBoundary hup hreset, hnot, if_neg Bool.false_ne_true, tickBoundary_job hrel hjob hstop]
  · exact ⟨_, exec_stoppingBoundary hup hrel hjob hstop, rfl, stopBoundary_stops r s⟩
  · rw [show exec .releaseLost s = execReleaseLost s from rfl, execReleaseLost, ifUp_eq hup, hjob, hrel]
    rfl

end Sys2Proof.Machine
end

section

/-! ## Messages that are taken from a link -/

namespace Sys2Proof.Machine

open Sys2Proof

-- Proofs in turn: each that waits on others while elaborated at once holds a stack, and the check limits the memory.
set_option Elab.async false

section
variable {type : Nat} {l : InLink} {m : Msg} {s v : State}

theorem takeMsg_accepts {i : Nat} {p : Msg → Bool} {w : State} (h : takeMsg i p s = some (m, w)) : p m = true := by
  unfold takeMsg at h
  split at h
  · cases h
  next e he =>
    obtain ⟨rfl, -⟩ := Prod.mk.inj (Option.some.inj h)
    have hp := List.find?_some he
    rw [Bool.and_eq_true] at hp
    exact hp.2

theorem Takes.up (h : Takes type l m s v) : s.down = false := h.1

/-- A message that is taken is answered in the state without it. -/
theorem Takes.receive (h : Takes type l m s v) (f : Msg → State → State) : receive l type f s = .next (f m v) := by
  obtain ⟨-, w, htake, hreset, hstale, hv, hrole⟩ := h
  have htype : m.type = type := by
    have hp := takeMsg_accepts htake
    rw [Bool.and_eq_true, beq_iff_eq] at hp
    exact hp.1
  have hlocal : (w.inReset && !linkLocal m.type) = false := by
    rw [htype]
    rcases hreset with h | h <;> rw [h] <;> simp
  have hgen : (decide (l.val < 32) && w.staleGen m) = false := by
    by_cases hl : l.val < 32
    · rw [hstale hl, Bool.and_false]
    · rw [decide_eq_false hl, Bool.false_and]
  have hfresh : (if (decide (l.val < 32) && w.freshGen m) = true then memberLost [m.src] w else w) = v := by
    simp only [hv, Bool.and_eq_true, decide_eq_true_eq]
  have hstand : (decide (0x10 ≤ type ∧ type ≤ 0x14) && v.roleStale m) = false := by
    by_cases ht : 0x10 ≤ type ∧ type ≤ 0x14
    · rw [hrole ht.1 ht.2, Bool.and_false]
    · rw [decide_eq_false ht, Bool.false_and]
  unfold Machine.receive
  rw [htake]
  dsimp only
  rw [hlocal, if_neg Bool.false_ne_true, hgen, if_neg Bool.false_ne_true, hfresh, hstand, if_neg Bool.false_ne_true]

theorem TakesKind.up {kind : Nat} (h : TakesKind type kind l m s v) : s.down = false := by
  obtain ⟨e, -, htakes⟩ := h
  exact htakes.up

/-- A message of the tick unit that is taken. -/
theorem TakesKind.receiveTick {kind : Nat} (h : TakesKind 0x13 kind l m s v) (f : Msg → State → State) :
    receiveTick kind f l s = .next (f m v) := by
  obtain ⟨e, hfind, htakes⟩ := h
  unfold Machine.receiveTick
  rw [hfind]
  exact htakes.receive f

end

end Sys2Proof.Machine
end

section

/-! ## Messages of the tick unit (O28) -/

namespace Sys2Proof.Machine

open Sys2Proof

-- Proofs in turn: each that waits on others while elaborated at once holds a stack, and the check limits the memory.
set_option Elab.async false

theorem outside_of_keeps {K : Kept} {s t : State} (h : Keeps K s t) (hc : K.cores = true := by rfl)
    (hk : K.stks = true := by rfl) (hm : K.mem = true := by rfl) : OutsideSame s t := by
  obtain ⟨-, -, hcores, hstks, hmem, -⟩ := h
  exact ⟨hcores hc, hstks hk, hmem hm⟩

theorem OutsideSame.trans {s t u : State} (h : OutsideSame s t) (k : OutsideSame t u) : OutsideSame s u := by
  obtain ⟨hcores, hstks, hmem⟩ := h
  obtain ⟨kcores, kstks, kmem⟩ := k
  exact ⟨kcores.trans hcores, kstks.trans hstks, kmem.trans hmem⟩

theorem regs_of_keeps {K : Kept} {s t : State} (h : Keeps K s t) (hr : K.regs = true := by rfl) : t.regs = s.regs := by
  obtain ⟨-, -, -, -, -, hregs, -⟩ := h
  exact hregs hr

/-- What sends messages only. -/
abbrev sending : Kept := { cores := true, stks := true, mem := true, regs := true, tick := true }

theorem outside_of_sending {s t : State} (h : Keeps sending s t) : OutsideSame s t := outside_of_keeps h

theorem tick_of_sending {s t : State} (h : Keeps sending s t) : t.tick = s.tick := by
  obtain ⟨-, -, -, -, -, -, htick, -⟩ := h
  exact htick rfl

theorem bitOf_eq_testBit (v i : Nat) : bitOf v i = v.testBit i := by
  rw [bitOf, Nat.testBit_eq_decide_div_mod_eq, Nat.shiftRight_eq_div_pow]
  exact Bool.beq_eq_decide_eq _ _

/-- A field of a whole word is the register. -/
theorem fld_word (s : State) (a : Nat) : s.fld a ⟨0, 32⟩ = (s.reg a).toNat := by
  apply Nat.eq_of_testBit_eq
  intro i
  unfold State.fld Fld.get
  rw [bitsOf_testBit, Nat.zero_add]
  by_cases hi : i < 32
  · rw [decide_eq_true hi, Bool.true_and]
  · rw [decide_eq_false hi, Bool.false_and, BitVec.testBit_toNat, BitVec.getLsbD_of_ge _ _ (by omega)]

section
variable {l : InLink} {m : Msg} {s v : State}

theorem exec_tickReady (h : TakesKind 0x13 0 l m s v) (hroot : v.tickRoot = true) (hstart : v.inStarting = true)
    (hrel : v.tick.rel = none) :
    exec (.tickReady l) s = .next (
      let w := updTick (fun t => { t with ready := insertNat m.src t.ready }) v
      if v.memberPkgs.all (insertNat m.src v.tick.ready).contains then
        formRelease { index := 0, time := v.edge + v.relLat, period := v.tick.pend.getD v.tick.period, stop := false } w
      else w) := by
  rw [show exec (.tickReady l) s = execTickReady l s from rfl, execTickReady, ifUp_eq h.up, h.receiveTick]
  rw [hroot, Bool.not_true, if_neg Bool.false_ne_true]
  generalize hw : updTick (fun t => { t with ready := insertNat m.src t.ready }) v = w
  have hstart' : w.inStarting = true := by rw [← hw]; exact hstart
  have hrel' : w.tick.rel = none := by rw [← hw]; exact hrel
  dsimp only
  rw [hstart', hrel', Option.isNone_none, Bool.true_and, Bool.true_and, ← hw]
  rfl

theorem exec_tickRelease (h : TakesKind 0x13 2 l m s v) (hsrc : m.src = v.rootPkg) (hrel : v.tick.rel = none)
    (hindex : (v.inStarting = true ∧ m.bodyAt 40 8 = 0) ∨ (v.inJob = true ∧ m.bodyAt 40 8 = v.tick.index + 1)) :
    exec (.tickRelease l) s = .next { v with tick := { v.tick with rel := some {
      index := m.bodyAt 40 8, time := m.bodyAt 48 8, period := m.bodyAt 56 4,
      stop := (m.bodyAt 60 1).testBit 0, fault := (m.bodyAt 60 1).testBit 1,
      invalid := (m.bodyAt 60 1).testBit 2 } } } := by
  have hok : ((v.inStarting && m.bodyAt 40 8 == 0) || (v.inJob && m.bodyAt 40 8 == v.tick.index + 1)) = true := by
    rcases hindex with ⟨hstart, hi⟩ | ⟨hjob, hi⟩
    · rw [hstart, hi, beq_self_eq_true, Bool.and_self, Bool.true_or]
    · rw [hjob, hi, beq_self_eq_true, Bool.and_self, Bool.or_true]
  rw [show exec (.tickRelease l) s = execTickRelease l s from rfl, execTickRelease, ifUp_eq h.up, h.receiveTick]
  dsimp only
  rw [hok, hsrc, hrel, beq_self_eq_true, Option.isNone_none, Bool.and_self, Bool.and_self, if_pos rfl, bitOf_eq_testBit,
    bitOf_eq_testBit, bitOf_eq_testBit]
  rfl

end

/-! ### Done messages -/

/-- The tick unit as it notes a done message of `src`. -/
def doneTick (src : Nat) (bad : Bool) (t : Tick) : Tick :=
  { t with done := insertNat src t.done, badDone := t.badDone || bad }

/-- The release that the last done message makes. -/
def doneRelease (w : State) : Release where
  index := w.tick.index + 1
  time := max w.nominalEnd (w.edge + w.relLat)
  period := w.tick.pend.getD w.tick.period
  stop := w.stopWanted || w.endWanted
  invalid := w.tick.badDone || w.tick.invalid
  byEnd := w.endWanted

theorem execTickDone_eq (l : InLink) (s : State) : execTickDone l s = ifUp s (
    receiveTick 1 (fun m s =>
      if !s.tickRoot then notRoot m s
      else if !s.inJob || m.bodyAt 40 8 != s.tick.index then s
      else
        let w := updTick (doneTick m.src (m.bodyAt 60 1 % 2 == 1)) s
        if w.tick.rel.isNone && w.memberPkgs.all w.tick.done.contains then
          formRelease (doneRelease w) (updTick (fun t => { t with rel := some (doneRelease w) }) w)
        else w) l s) := rfl

section
variable {l : InLink} {m : Msg} {s v : State}

theorem exec_tickDone (h : TakesKind 0x13 1 l m s v) (hroot : v.tickRoot = true) (hjob : v.inJob = true)
    (hindex : m.bodyAt 40 8 = v.tick.index) (hrel : v.tick.rel = none) :
    ∃ t, exec (.tickDone l) s = .next t ∧ t.tick.done = insertNat m.src v.tick.done ∧ t.regs = v.regs ∧
      OutsideSame v t ∧ t.tick.rel = if v.memberPkgs.all (insertNat m.src v.tick.done).contains then
        some (doneRelease (updTick (doneTick m.src (m.bodyAt 60 1 % 2 == 1)) v)) else none := by
  rw [show exec (.tickDone l) s = execTickDone l s from rfl, execTickDone_eq, ifUp_eq h.up, h.receiveTick]
  rw [hroot, hjob, hindex, bne_self_eq_false, Bool.not_true, Bool.or_self, if_neg Bool.false_ne_true,
    if_neg Bool.false_ne_true]
  generalize hw : updTick (doneTick m.src (m.bodyAt 60 1 % 2 == 1)) v = w
  have hrel' : w.tick.rel = none := by rw [← hw]; exact hrel
  have hdone : w.tick.done = insertNat m.src v.tick.done := by rw [← hw]; rfl
  have hpkgs : w.memberPkgs = v.memberPkgs := by rw [← hw]; rfl
  have hregs : w.regs = v.regs := by rw [← hw]; rfl
  have hout : OutsideSame v w := by rw [← hw]; exact ⟨rfl, rfl, rfl⟩
  dsimp only
  rw [hrel', hdone, hpkgs, Option.isNone_none, Bool.true_and]
  split
  next hall =>
    have hkeeps : Keeps sending (updTick (fun t => { t with rel := some (doneRelease w) }) w)
        (formRelease (doneRelease w) (updTick (fun t => { t with rel := some (doneRelease w) }) w)) := by
      simp [Keeps.refl]
    generalize formRelease (doneRelease w) (updTick (fun t => { t with rel := some (doneRelease w) }) w) = t at hkeeps
    have htick := tick_of_sending hkeeps
    have hquiet : OutsideSame w t :=
      OutsideSame.trans (t := updTick (fun t => { t with rel := some (doneRelease w) }) w) ⟨rfl, rfl, rfl⟩
        (outside_of_sending hkeeps)
    exact ⟨t, rfl, (congrArg Tick.done htick).trans hdone, (regs_of_keeps hkeeps).trans hregs,
      hout.trans hquiet, congrArg Tick.rel htick⟩
  next => exact ⟨w, rfl, hdone, hregs, hout, hrel'⟩

end

/-! ### The done message and the overrun -/

section
variable {s : State} (hup : s.down = false) (hjob : s.inJob = true) (hsent : s.tick.doneSent = false)
include hup hjob hsent

/-- A package whose cores and channels are done says so. -/
theorem exec_packageDone (hcores : ∀ e ∈ s.cores, s.coreDone e.1 = true) (hbusy : s.seBusy = false) :
    ∃ t, exec .packageDone s = .next t ∧ t.tick = { s.tick with doneSent := true } ∧
      t.flag Reg.TICK_STAT F.TICK_STAT.WAITING = true ∧ t.flag Reg.TICK_STAT F.TICK_STAT.OVERRUN = false ∧
      OutsideSame s t := by
  have hall : s.cores.any (fun e => !s.coreDone e.1) = false := by
    rw [List.any_eq_false]
    intro e he
    simp [hcores e he]
  rw [show exec .packageDone s = execPackageDone s from rfl, execPackageDone, ifUp_eq hup, hjob, hsent, hall, hbusy,
    Bool.not_true, Bool.or_self, Bool.or_self, Bool.or_self, if_neg Bool.false_ne_true]
  extract_lets bad slack s1 s2 s3
  have htick : s3.tick = { s.tick with doneSent := true } :=
    (tick_of_keeps (s := s2) (by simp [s3, Keeps.refl])).trans rfl
  have hout : OutsideSame s s3 := outside_of_keeps (K := quiet) (by simp [s3, s2, s1, Keeps.refl])
  have hwait : s3.flag Reg.TICK_STAT F.TICK_STAT.WAITING = true := by
    unfold s3
    rw [State.flag_eq, State.bit_clrFlag _ _ _ _ _ (by decide), State.bit_setFlag _ _ _ _ _ (by decide),
      decide_eq_true ⟨rfl, rfl⟩, Bool.or_true, decide_eq_false (by decide)]
    rfl
  have hover : s3.flag Reg.TICK_STAT F.TICK_STAT.OVERRUN = false := by
    unfold s3
    rw [State.flag_eq, State.bit_clrFlag _ _ _ _ _ (by decide)]
    simp
  clear_value s3
  have hkeeps : Keeps sending s3 (sendTick 1 s3.rootPkg s3.tick.index 0 0 bad s3) := by simp [Keeps.refl]
  have hregs := regs_of_keeps hkeeps
  refine ⟨_, rfl, (tick_of_sending hkeeps).trans htick, ?_, ?_, hout.trans (outside_of_sending hkeeps)⟩
  · rw [State.flag, State.bit, State.reg, hregs]
    exact hwait
  · rw [State.flag, State.bit, State.reg, hregs]
    exact hover

/-- The overrun is noted once, and counted. -/
theorem exec_tickOverrun (hovr : s.tick.ovr = false) :
    ∃ v, exec .tickOverrun s =
        .next (if s.flag Reg.TICK_CTL F.TICK_CTL.OVR_INT_EN then reportLocal 0 0 0x03 0 v else v) ∧
      v.tick = { s.tick with ovr := true } ∧ v.flag Reg.TICK_STAT F.TICK_STAT.OVERRUN = true ∧
      v.flag Reg.TICK_STAT F.TICK_STAT.OVR_SEEN = true ∧
      (v.reg Reg.TICK_OVR_CNT).toNat = min ((s.reg Reg.TICK_OVR_CNT).toNat + 1) 0xFFFFFFFF ∧ OutsideSame s v := by
  rw [show exec .tickOverrun s = execTickOverrun s from rfl, execTickOverrun, ifUp_eq hup, hjob, hsent, hovr,
    Bool.not_true, Bool.or_self, Bool.or_self, if_neg Bool.false_ne_true]
  extract_lets s1 s2 s3 s4
  have hclock : Keeps sending s s1 := (State.advanceTb_keeps rfl).2 .refl
  have htick1 := tick_of_sending hclock
  have hregs1 : ∀ a, s1.reg a = s.reg a := fun a => by rw [State.reg, State.reg, regs_of_keeps hclock]
  have hout1 := outside_of_sending hclock
  clear_value s1
  have htick : s4.tick = { s.tick with ovr := true } :=
    (tick_of_keeps (s := s2) (by simp [s4, s3, Keeps.refl])).trans (by rw [← htick1]; rfl)
  have hout : OutsideSame s1 s4 := outside_of_keeps (K := quiet) (by simp [s4, s3, s2, Keeps.refl])
  have hcnt : (s4.reg Reg.TICK_OVR_CNT).toNat = min ((s.reg Reg.TICK_OVR_CNT).toNat + 1) 0xFFFFFFFF := by
    have hreg3 : s3.reg Reg.TICK_OVR_CNT = s.reg Reg.TICK_OVR_CNT := by
      unfold s3
      rw [State.reg_setFlag, if_neg (by decide), State.reg_setFlag, if_neg (by decide)]
      exact hregs1 _
    have hput : s4.fld Reg.TICK_OVR_CNT F.TICK_OVR_CNT.COUNT = _ := State.fld_setFld _ _ _ _ (by decide)
    rw [show F.TICK_OVR_CNT.COUNT = ⟨0, 32⟩ from rfl, fld_word, fld_word, hreg3] at hput
    rw [hput]
    have := (s.reg Reg.TICK_OVR_CNT).isLt
    dsimp only
    omega
  have hflag : ∀ f : Fld, s3.flag Reg.TICK_STAT f = true → s4.flag Reg.TICK_STAT f = true := by
    intro f hf
    have hreg : s4.reg Reg.TICK_STAT = s3.reg Reg.TICK_STAT := by
      unfold s4
      rw [State.reg_bump, if_neg (by decide)]
    rw [State.flag, State.bit, hreg]
    exact hf
  have hover : s3.flag Reg.TICK_STAT F.TICK_STAT.OVERRUN = true := by
    unfold s3
    rw [State.flag_eq, State.bit_setFlag _ _ _ _ _ (by decide), State.bit_setFlag _ _ _ _ _ (by decide),
      decide_eq_true ⟨rfl, rfl⟩, Bool.or_true, Bool.true_or]
  have hseen : s3.flag Reg.TICK_STAT F.TICK_STAT.OVR_SEEN = true := by
    unfold s3
    rw [State.flag_eq, State.bit_setFlag _ _ _ _ _ (by decide), decide_eq_true ⟨rfl, rfl⟩, Bool.or_true]
  have hint : s4.flag Reg.TICK_CTL F.TICK_CTL.OVR_INT_EN = s.flag Reg.TICK_CTL F.TICK_CTL.OVR_INT_EN := by
    have hreg : s4.reg Reg.TICK_CTL = s.reg Reg.TICK_CTL := by
      unfold s4
      rw [State.reg_bump, if_neg (by decide)]
      unfold s3
      rw [State.reg_setFlag, if_neg (by decide), State.reg_setFlag, if_neg (by decide)]
      exact hregs1 _
    rw [State.flag, State.bit, hreg]
    rfl
  refine ⟨s4, ?_, htick, hflag _ hover, hflag _ hseen, hcnt, hout1.trans hout⟩
  rw [hint]

end

/-- Settles O28: a message that is taken is answered in the state without it; sending changes no register. -/
theorem tickMessagesAgree : Obligations.TickMessagesAgree := by
  unfold Obligations.TickMessagesAgree
  refine ⟨fun l m s v => ⟨?_, ?_, ?_⟩, fun s hup hjob hsent => ⟨?_, ?_⟩⟩
  · exact fun h hroot hstart hrel => exec_tickReady h hroot hstart hrel
  · intro h hroot hjob hindex hrel done bad atEnd
    obtain ⟨t, hexec, hdone, hregs, hout, ht⟩ := exec_tickDone h hroot hjob hindex hrel
    refine ⟨t, hexec, hdone, hregs, hout, ht.trans ?_⟩
    have hrelease : doneRelease (updTick (doneTick m.src (m.bodyAt 60 1 % 2 == 1)) v) =
        { index := v.tick.index + 1, time := max v.nominalEnd (v.edge + v.relLat),
          period := v.tick.pend.getD v.tick.period, stop := v.flag Reg.TICK_CTL F.TICK_CTL.STOP || bad || atEnd,
          invalid := bad, byEnd := atEnd } := by
      rw [← Bool.or_assoc (v.flag Reg.TICK_CTL F.TICK_CTL.STOP)]
      rfl
    rw [hrelease]
  · exact fun h hsrc hrel hindex => exec_tickRelease h hsrc hrel hindex
  · exact fun hcores hbusy => exec_packageDone hup hjob hsent hcores hbusy
  · exact fun hovr => exec_tickOverrun hup hjob hsent hovr

end Sys2Proof.Machine
end

section

/-! ## Starts and ticks that fail (O29) -/

namespace Sys2Proof.Machine

open Sys2Proof

-- Proofs in turn: each that waits on others while elaborated at once holds a stack, and the check limits the memory.
set_option Elab.async false

/-! ### Starts that are given up -/

/-- A start that is given up: STATE returns to what it was, START reads 0, and no release or READY is kept. -/
theorem abandonStart_gives (s : State) :
    (abandonStart s).tickState = (if s.tick.fromFree then 0 else 3) ∧
      (abandonStart s).flag Reg.TICK_CTL F.TICK_CTL.START = false ∧ (abandonStart s).tick.rel = none ∧
      (abandonStart s).tick.ready = [] ∧ OutsideSame s (abandonStart s) := by
  refine ⟨?_, ?_, rfl, rfl, ⟨rfl, rfl, rfl⟩⟩
  · have hput : (abandonStart s).tickState = _ := State.fld_setFld _ _ _ _ (by decide)
    rw [hput]
    show (if s.tick.fromFree then 0 else 3) % 4 = _
    split <;> rfl
  · unfold abandonStart setTickState
    rw [State.flag_eq, State.bit_setFld _ _ _ _ _ _ (by decide), if_neg (fun h => absurd h.1 (by decide))]
    show (s.setFlag Reg.TICK_CTL F.TICK_CTL.START false).bit _ _ = _
    rw [State.bit_clrFlag _ _ _ _ _ (by decide), decide_eq_true ⟨rfl, rfl⟩, Bool.not_true, Bool.and_false]

theorem outside_setFld (s : State) (a x : Nat) (f : Fld) : OutsideSame s (s.setFld a f x) := ⟨rfl, rfl, rfl⟩

/-- Time that passes changes nothing that a start depends on. -/
theorem advance_same (t : Nat) (s : State) :
    (s.advance t).tick = s.tick ∧ (s.advance t).regs = s.regs ∧ OutsideSame s (s.advance t) := by
  have hkeeps : Keeps sending s (s.advance t) := (State.advance_keeps rfl).2 .refl
  exact ⟨tick_of_sending hkeeps, regs_of_keeps hkeeps, outside_of_sending hkeeps⟩

section
variable {s : State} (hup : s.down = false) (hstart : s.inStarting = true) (hrel : s.tick.rel = none)
include hup hstart hrel

theorem exec_startTimeout : exec .startTimeout s = .next (reportLocal 0 0 0x0D 6
    ((abandonStart (s.advance (s.tick.startAt + msec 200))).setFld Reg.GCTL_MEMB_STAT
      F.GCTL_MEMB_STAT.REASON 6)) := by
  rw [show exec .startTimeout s = execStartTimeout s from rfl, execStartTimeout, ifUp_eq hup, hstart, hrel]
  rfl

theorem exec_startAbandon (hroot : s.tickRoot = true)
    (hsilent : (s.memberPkgs.filter fun d => !s.tick.ready.contains d) ≠ []) :
    exec .startAbandon s = .next (forEach (s.memberPkgs.filter fun d => !s.tick.ready.contains d)
      (fun d s => reportPkg d 0x0D 7 s) (abandonStart (s.advance (s.tick.startAt + msec 100)))) := by
  rw [show exec .startAbandon s = execStartAbandon s from rfl, execStartAbandon, ifUp_eq hup]
  generalize s.memberPkgs.filter _ = silent at hsilent
  have hsome : silent.isEmpty = false := by
    cases silent with
    | nil => exact absurd rfl hsilent
    | cons => rfl
  dsimp only
  rw [hstart, hroot, hrel, hsome]
  rfl

end

/-! ### Ticks that fail -/

theorem exec_tickFaultTimeout {s : State} (hup : s.down = false) (hjob : s.inJob = true) (hroot : s.tickRoot = true)
    (hrel : s.tick.rel = none) :
    exec .tickFaultTimeout s = .next (
      let v := s.advanceTb (64 * (s.nominalEnd + 4 * s.tick.period))
      declareFault (forEach (v.memberPkgs.filter fun d => !v.tick.done.contains d)
        (fun d s => reportPkg d 0x04 1 s) v)) := by
  rw [show exec .tickFaultTimeout s = execTickFaultTimeout s from rfl, execTickFaultTimeout, ifUp_eq hup, hjob, hroot,
    hrel]
  rfl

theorem exec_loss {l : InLink} {m : Msg} {s v : State} (h : Takes 0x14 l m s v) (hjob : v.inJob = true)
    (hroot : v.tickRoot = true) :
    exec (.loss l) s = .next (
      let new_ := m.lossIds.dedup.filter fun d => v.memberPkgs.contains d && !v.tick.unreach.contains d
      if new_ = [] then v else declareFault (forEach new_ (fun d s => reportPkg d 0x04 2 s)
        (updTick (fun t => { t with unreach := t.unreach ++ new_ }) v))) := by
  rw [show exec (.loss l) s = execLoss l s from rfl, execLoss, ifUp_eq h.up, h.receive, memberLost]
  generalize m.lossIds.dedup.filter _ = lost
  dsimp only
  rw [hjob, hroot, Bool.not_true, Bool.or_self, Bool.false_or]
  cases lost with
  | nil => rw [List.isEmpty_nil, if_pos rfl, if_pos rfl]
  | cons d ds => rw [List.isEmpty_cons, if_neg Bool.false_ne_true, if_neg (List.cons_ne_nil d ds)]

/-- A fault that is declared makes the release of a stopping boundary. -/
theorem declareFault_releases {s : State} (hrel : s.tick.rel = none) :
    OutsideSame s (declareFault s) ∧ (declareFault s).regs = s.regs ∧ (declareFault s).tick.rel =
      some { index := s.tick.index + 1, time := s.edge + s.relLat, period := s.tick.pend.getD s.tick.period,
             stop := true, fault := true, invalid := s.tick.badDone || s.tick.invalid } := by
  unfold declareFault
  rw [hrel, Option.isSome_none, if_neg Bool.false_ne_true]
  extract_lets r
  generalize hu : updTick (fun t => { t with rel := some r }) s = u
  have hout : OutsideSame s u := hu ▸ ⟨rfl, rfl, rfl⟩
  have hregs : u.regs = s.regs := by rw [← hu]; rfl
  have hsome : u.tick.rel = some r := by rw [← hu]; rfl
  have hkeeps : Keeps sending u (formRelease r u) := by simp [Keeps.refl]
  generalize formRelease r u = t at hkeeps
  exact ⟨hout.trans (outside_of_sending hkeeps), (regs_of_keeps hkeeps).trans hregs,
    (congrArg Tick.rel (tick_of_sending hkeeps)).trans hsome⟩

/-- Settles O29: what is given up is given up before it is reported. -/
theorem startsAndTicksFail : Obligations.StartsAndTicksFail := by
  unfold Obligations.StartsAndTicksFail
  refine ⟨fun s hup => ?_, fun l m s v h hjob hroot => exec_loss h hjob hroot, fun s hrel => ?_⟩
  · intro given silent
    have hgiven : ∀ t, given (abandonStart (s.advance t)) := by
      intro t
      obtain ⟨htick, -, hout⟩ := advance_same t s
      obtain ⟨hstate, hstart, hrel, hready, hsame⟩ := abandonStart_gives (s.advance t)
      rw [htick] at hstate
      exact ⟨hstate, hstart, hrel, hready, hout.trans hsame⟩
    refine ⟨fun hstart hrel => ?_, fun hstart hroot hrel hsilent => ?_, fun hjob hroot hrel => ?_⟩
    · obtain ⟨hstate, hflag, hnone, hready, hout⟩ := hgiven (s.tick.startAt + msec 200)
      refine ⟨_, exec_startTimeout hup hstart hrel, ⟨?_, ?_, ?_, ?_, hout.trans (outside_setFld ..)⟩, ?_⟩
      · have hne : Reg.TICK_STAT ≠ Reg.GCTL_MEMB_STAT := by unfold Reg.TICK_STAT Reg.GCTL_MEMB_STAT; omega
        rw [State.tickState, State.fld_setFld_ne _ _ _ _ _ _ (by decide) (.inl hne)]
        exact hstate
      · rw [State.flag_eq, State.bit_setFld _ _ _ _ _ _ (by decide), if_neg (fun h => absurd h.1 (by decide))]
        exact hflag
      · rw [State.setFld_tick, hnone]
      · rw [State.setFld_tick, hready]
      · rw [State.fld_setFld _ _ _ _ (by decide)]
        rfl
    · exact ⟨_, exec_startAbandon hup hstart hrel hroot hsilent, hgiven _⟩
    · exact exec_tickFaultTimeout hup hjob hroot hrel
  · obtain ⟨hout, hregs, hsome⟩ := declareFault_releases hrel
    exact ⟨_, rfl, hout, hregs, hsome⟩

end Sys2Proof.Machine
end

section

/-! ## The tick unit's registers (O30) -/

namespace Sys2Proof.Machine

open Sys2Proof

-- Proofs in turn: each that waits on others while elaborated at once holds a stack, and the check limits the memory.
set_option Elab.async false

/-! ### TICK_CTL -/

/-- Every register reads in `t` as in `s`, and nothing else differs. -/
def SameRegs (s t : State) : Prop := (∀ a, t.reg a = s.reg a) ∧ t = { s with regs := t.regs }

section
variable {s t : State}

theorem SameRegs.trans {u : State} (h : SameRegs s t) (k : SameRegs t u) : SameRegs s u := by
  obtain ⟨hreg, hrest⟩ := h
  obtain ⟨kreg, krest⟩ := k
  exact ⟨fun a => (kreg a).trans (hreg a), by rw [krest, hrest]⟩

/-- A register that takes the value it has. -/
theorem sameRegs_setReg {a : Nat} {v : Word32} (h : v = s.reg a) : SameRegs s (s.setReg a v) := by
  refine ⟨fun b => ?_, rfl⟩
  rw [State.reg_setReg]
  split
  next hb => rw [h, hb]
  next => rfl

/-- A bit that is set to what it is. -/
theorem sameRegs_setFlag {a : Nat} {f : Fld} {b : Bool} (hf : f.lo < 32) (h : s.bit a f.lo = b) :
    SameRegs s (s.setFlag a f b) := by
  have hbits : ∀ i, (s.setFlag a f b).bit a i = s.bit a i := by
    intro i
    cases b with
    | true =>
      rw [State.bit_setFlag _ _ _ _ _ hf]
      by_cases hi : i = f.lo
      · rw [hi, h, Bool.true_or]
      · rw [decide_eq_false (fun e => hi e.2), Bool.or_false]
    | false =>
      rw [State.bit_clrFlag _ _ _ _ _ hf]
      by_cases hi : i = f.lo
      · rw [hi, h, Bool.false_and]
      · rw [decide_eq_false (fun e => hi e.2), Bool.not_false, Bool.and_true]
  refine ⟨fun c => ?_, by cases b <;> rfl⟩
  by_cases hc : c = a
  · rw [hc]
    exact BitVec.eq_of_getLsbD_eq fun i _ => hbits i
  · cases b with
    | true => rw [State.reg_setFlag, if_neg hc]
    | false => rw [State.reg_clrFlag, if_neg hc]

theorem SameRegs.noJob (h : SameRegs s t) : t.noJob = s.noJob := by
  unfold State.noJob State.tickState State.fld
  rw [h.1]

theorem SameRegs.inJob (h : SameRegs s t) : t.inJob = s.inJob := by
  unfold State.inJob State.tickState State.fld
  rw [h.1]

theorem SameRegs.tickRoot (h : SameRegs s t) : t.tickRoot = s.tickRoot := by
  unfold State.tickRoot State.flag State.bit
  rw [h.1]

theorem SameRegs.startReason (h : SameRegs s t) : t.startReason = s.startReason := by
  obtain ⟨hreg, hrest⟩ := h
  have hroles : t.roles = s.roles := by rw [hrest]
  unfold State.startReason State.selfIndex State.tickRoot State.members State.memberIndex State.member State.exact
    State.modeBit State.pkgId State.flag State.fld State.bit State.membLo State.membHi
  simp only [hreg, hroles]

end

/-- What sends messages keeps the power unit too. -/
abbrev sendingOnly : Kept :=
  { cores := true, stks := true, mem := true, regs := true, tick := true, power := true }

/-- A start of an accepted job: STATE 1, START set, the job's sum clear, and no other register changed. -/
theorem startJob_starts {s : State} (hreason : s.startReason = none) :
    let t := startJob s
    t.tickState = 1 ∧ t.flag Reg.TICK_CTL F.TICK_CTL.START = true ∧ t.power.eJob = 0 ∧ t.tick.startAt = s.now ∧
      t.tick.fromFree = (s.tickState == 0) ∧ t.tick.rel = none ∧ OutsideSame s t ∧
      ∀ a, a ≠ Reg.TICK_CTL → a ≠ Reg.TICK_STAT → t.reg a = s.reg a := by
  unfold startJob
  rw [hreason]
  extract_lets _ s1 s2 t
  have ht : t = sendTick 0 s2.rootPkg 0 0 0 0 (updPower (fun p => { p with eJob := 0 }) s2) := rfl
  clear_value t
  have hout2 : OutsideSame s s2 := outside_of_keeps (K := quiet) (by simp [s2, s1, setTickState, Keeps.refl])
  have hstate : s2.tickState = 1 := State.fld_setFld _ _ _ _ (by decide)
  have hstart : s2.flag Reg.TICK_CTL F.TICK_CTL.START = true := by
    unfold s2 setTickState
    rw [State.flag_eq, State.bit_setFld _ _ _ _ _ _ (by decide), if_neg (fun h => absurd h.1 (by decide)),
      State.bit_setFlag _ _ _ _ _ (by decide), decide_eq_true ⟨rfl, rfl⟩, Bool.or_true]
  have htick : s2.tick = s1.tick := tick_of_keeps (by simp [s2, setTickState, Keeps.refl])
  have hregs : ∀ a, a ≠ Reg.TICK_CTL → a ≠ Reg.TICK_STAT → s2.reg a = s.reg a := by
    intro a hctl hstat
    unfold s2 setTickState
    rw [State.reg_setFld, if_neg hstat, State.reg_setFlag, if_neg hctl]
    rfl
  have htick1 : s1.tick.startAt = s.now ∧ s1.tick.fromFree = (s.tickState == 0) ∧ s1.tick.rel = none := ⟨rfl, rfl, rfl⟩
  clear_value s2
  generalize hu : updPower (fun p => { p with eJob := 0 }) s2 = u
  have hpow : u.power.eJob = 0 := by rw [← hu]; rfl
  have hout : OutsideSame s2 u := hu ▸ ⟨rfl, rfl, rfl⟩
  have hureg : ∀ a, u.reg a = s2.reg a := fun a => by rw [← hu]; rfl
  have hutick : u.tick = s2.tick := by rw [← hu]; rfl
  have hkeeps : Keeps sendingOnly u t := by
    rw [ht, hu]
    simp [Keeps.refl]
  have hquiet : OutsideSame u t := outside_of_keeps hkeeps
  obtain ⟨-, -, -, -, -, hregsT, htickT, hpowT, -⟩ := hkeeps
  have hreg : ∀ a, t.reg a = s2.reg a := fun a => by
    rw [← hureg, State.reg, State.reg, hregsT rfl]
  have htickAll : t.tick = s1.tick := (htickT rfl).trans (hutick.trans htick)
  obtain ⟨hat, hfrom, hrel⟩ := htick1
  refine ⟨?_, ?_, by rw [hpowT rfl, hpow], by rw [htickAll, hat], by rw [htickAll, hfrom], by rw [htickAll, hrel],
    hout2.trans (hout.trans hquiet), fun a hctl hstat => (hreg a).trans (hregs a hctl hstat)⟩
  · rw [State.tickState, State.fld, hreg]
    exact hstate
  · rw [State.flag, State.bit, hreg]
    exact hstart

section
variable {p : Path} {s : State}

/-- A trigger of TICK_CTL writes back its read-write bits. -/
theorem trigger_tickCtl (s : State) (bits : Word32) :
    s.trigger Reg.TICK_CTL bits = (s.reg Reg.TICK_CTL &&& 0x3C) ||| bits := by
  have hrw : (regRowAt Reg.TICK_CTL).map (·.rw) = some 0x3C := by decide
  rw [State.trigger, hrw]
  rfl

/-- The bits a trigger of TICK_CTL may set: START, STOP and CNT_CLR. -/
def TickTrigger (bits : Word32) : Prop := ∀ i, 2 ≤ i → i < 6 → bits.getLsbD i = false

theorem getLsbD_tickTrigger {old bits : Word32} {i : Nat} (hi : i < 32) :
    ((old &&& 0x3C) ||| bits).getLsbD i = (old.getLsbD i && decide (2 ≤ i ∧ i < 6) || bits.getLsbD i) := by
  have hmask : ∀ j : Fin 32, (0x3C#32).getLsbD j = decide (2 ≤ j.val ∧ j.val < 6) := by decide
  rw [BitVec.getLsbD_or, BitVec.getLsbD_and, BitVec.ofNat_eq_ofNat, hmask ⟨i, hi⟩]

/-- What a trigger of TICK_CTL writes back is what was there. -/
theorem tickCtl_same {old bits : Word32} (hbits : TickTrigger bits) :
    (old &&& ~~~0x38#32) ||| (((old &&& 0x3C) ||| bits) &&& 0x38) = old := by
  have hmask : ∀ j : Fin 32, (0x38#32).getLsbD j = decide (3 ≤ j.val ∧ j.val < 6) := by decide
  have hword : (0x38 : Word32) = 0x38#32 := rfl
  refine BitVec.eq_of_getLsbD_eq fun i hi => ?_
  rw [BitVec.getLsbD_or, BitVec.getLsbD_and, BitVec.getLsbD_and, BitVec.getLsbD_not, hword,
    hmask ⟨i, hi⟩, getLsbD_tickTrigger hi, decide_eq_true hi, Bool.true_and]
  by_cases h : 3 ≤ i ∧ i < 6
  · rw [decide_eq_true h, hbits i (by omega) h.2, decide_eq_true ⟨by omega, h.2⟩]
    simp
  · rw [decide_eq_false h]
    simp

/-- A trigger of TICK_CTL does what its bits ask for, and no more. -/
theorem writeTickCtl_trigger {bits : Word32} (hbits : TickTrigger bits) : ∃ w, SameRegs s w ∧
    writeTickCtl ((s.reg Reg.TICK_CTL &&& 0x3C) ||| bits) s =
      let w := if bits.getLsbD 6 then (w.setReg Reg.TICK_OVR_CNT 0).setReg Reg.TICK_LATE_CNT 0 else w
      let w := if bits.getLsbD 1 && w.tickRoot && w.inJob then w.setFlag Reg.TICK_CTL F.TICK_CTL.STOP else w
      if bits.getLsbD 0 && w.noJob then startJob w else w := by
  have hbit : ∀ i, i < 32 → ¬(2 ≤ i ∧ i < 6) →
      ((s.reg Reg.TICK_CTL &&& 0x3C) ||| bits).getLsbD i = bits.getLsbD i := by
    intro i hi hout
    rw [getLsbD_tickTrigger hi, decide_eq_false hout, Bool.and_false, Bool.false_or]
  have hroot : ((s.reg Reg.TICK_CTL &&& 0x3C) ||| bits).getLsbD 2 = s.bit Reg.TICK_CTL 2 := by
    rw [getLsbD_tickTrigger (by decide), hbits 2 (by decide) (by decide), decide_eq_true ⟨by decide, by decide⟩,
      Bool.and_true, Bool.or_false]
    rfl
  unfold writeTickCtl
  rw [hbit 6 (by decide) (by decide), hbit 1 (by decide) (by decide), hbit 0 (by decide) (by decide), hroot]
  extract_lets a s1 s2
  have h1 : SameRegs s s1 := sameRegs_setReg (tickCtl_same hbits)
  have h2 : SameRegs s1 s2 := by
    unfold s2
    split
    · exact sameRegs_setFlag (by decide) (by rw [State.bit, h1.1]; rfl)
    · exact ⟨fun _ => rfl, rfl⟩
  exact ⟨s2, h1.trans h2, rfl⟩

theorem exec_tickTrigger {bits : Word32} (hbits : TickTrigger bits) (hacc : Accepts p Reg.TICK_CTL s) :
    ∃ w, SameRegs s w ∧ ifUp s (.next (pathTrigger p Reg.TICK_CTL bits s)) = .next (
      let w := if bits.getLsbD 6 then (w.setReg Reg.TICK_OVR_CNT 0).setReg Reg.TICK_LATE_CNT 0 else w
      let w := if bits.getLsbD 1 && w.tickRoot && w.inJob then w.setFlag Reg.TICK_CTL F.TICK_CTL.STOP else w
      if bits.getLsbD 0 && w.noJob then startJob w else w) := by
  obtain ⟨w, hw, heq⟩ := writeTickCtl_trigger (s := s) hbits
  refine ⟨w, hw, ?_⟩
  rw [pathTrigger, trigger_tickCtl, ifUp_pathWrite_single hacc (by decide) rfl rfl (by decide) (by decide), heq]

theorem exec_tickStart (hacc : Accepts p Reg.TICK_CTL s) (hjob : s.noJob = true) (hreason : s.startReason = none) :
    ∃ w, SameRegs s w ∧ exec (.tickStart p) s = .next (startJob w) := by
  obtain ⟨w, hw, heq⟩ := exec_tickTrigger (bits := 1) (fun i h2 h6 => by interval_cases i <;> rfl) hacc
  have h6 : (1 : Word32).getLsbD 6 = false := rfl
  have h1 : (1 : Word32).getLsbD 1 = false := rfl
  have h0 : (1 : Word32).getLsbD 0 = true := rfl
  dsimp only at heq
  rw [h6, h1, h0, if_neg Bool.false_ne_true, Bool.false_and, Bool.false_and, if_neg Bool.false_ne_true, hw.noJob, hjob,
    Bool.and_self, if_pos rfl] at heq
  exact ⟨w, hw, by rw [show exec (.tickStart p) s = execTickStart p s from rfl, execTickStart, heq]⟩

theorem exec_tickStop (hacc : Accepts p Reg.TICK_CTL s) (hroot : s.tickRoot = true) (hjob : s.inJob = true) :
    ∃ w, SameRegs s w ∧ exec (.tickStop p) s = .next (w.setFlag Reg.TICK_CTL F.TICK_CTL.STOP) := by
  obtain ⟨w, hw, heq⟩ := exec_tickTrigger (bits := 2) (fun i h2 h6 => by interval_cases i <;> rfl) hacc
  have h6 : (2 : Word32).getLsbD 6 = false := rfl
  have h1 : (2 : Word32).getLsbD 1 = true := rfl
  have h0 : (2 : Word32).getLsbD 0 = false := rfl
  dsimp only at heq
  rw [h6, h1, h0, if_neg Bool.false_ne_true, hw.tickRoot, hroot, hw.inJob, hjob, Bool.and_self, Bool.and_self,
    if_pos rfl, Bool.false_and, if_neg Bool.false_ne_true] at heq
  exact ⟨w, hw, by rw [show exec (.tickStop p) s = execTickStop p s from rfl, execTickStop, heq]⟩

theorem exec_tickCntClr (hacc : Accepts p Reg.TICK_CTL s) : ∃ w, SameRegs s w ∧
    exec (.tickCntClr p) s = .next ((w.setReg Reg.TICK_OVR_CNT 0).setReg Reg.TICK_LATE_CNT 0) := by
  obtain ⟨w, hw, heq⟩ := exec_tickTrigger (bits := 0x40) (fun i h2 h6 => by interval_cases i <;> rfl) hacc
  have h6 : (0x40 : Word32).getLsbD 6 = true := rfl
  have h1 : (0x40 : Word32).getLsbD 1 = false := rfl
  have h0 : (0x40 : Word32).getLsbD 0 = false := rfl
  dsimp only at heq
  rw [h6, h1, h0, if_pos rfl, Bool.false_and, Bool.false_and, if_neg Bool.false_ne_true, Bool.false_and,
    if_neg Bool.false_ne_true] at heq
  exact ⟨w, hw, by rw [show exec (.tickCntClr p) s = execTickCntClr p s from rfl, execTickCntClr, heq]⟩

end

/-! ### TICK_PERIOD, TICK_REL_LAT and TICK_SNAP_CTL -/

section
variable {p : Path} {s : State} {v : Word32}

/-- The low bits of a word, as a field and as a slice. -/
theorem fld_extract (v : Word32) (n : Nat) : (⟨0, n⟩ : Fld).get v = (v.extractLsb' 0 n).toNat := by
  apply Nat.eq_of_testBit_eq
  intro i
  unfold Fld.get
  rw [bitsOf_testBit, BitVec.testBit_toNat, BitVec.testBit_toNat, BitVec.getLsbD_extractLsb']

theorem exec_tickPeriodWrite (hacc : Accepts p Reg.TICK_PERIOD s) :
    exec (.tickPeriodWrite p v) s = .next (writeTickPeriod v s) := by
  rw [show exec (.tickPeriodWrite p v) s = execTickPeriodWrite p v s from rfl, execTickPeriodWrite,
    ifUp_pathWrite_single hacc (by decide) rfl rfl (by decide) (by decide)]

/-- A register that is set with the period that comes next. -/
theorem setPend_sets (a u : Nat) (w : Word32) (s : State) :
    let t := updTick (fun t => { t with pend := some u }) (s.setReg a w)
    t.tick = { s.tick with pend := some u } ∧ t.reg a = w ∧ (∀ b, b ≠ a → t.reg b = s.reg b) ∧
      t = { s with regs := t.regs, tick := t.tick } :=
  ⟨rfl, State.reg_setReg_same .., fun _ hb => State.reg_setReg_ne _ _ hb, rfl⟩

/-- A period in range is taken, pending. -/
theorem writeTickPeriod_takes (hlo : 250 ≤ (v.extractLsb' 0 21).toNat) (hhi : (v.extractLsb' 0 21).toNat ≤ 2048000)
    (hroot : s.tickRoot = true ∨ s.inJob = false) :
    writeTickPeriod v s = updTick (fun t => { t with pend := some (v.extractLsb' 0 21).toNat })
      (s.setReg Reg.TICK_PERIOD (BitVec.ofNat 32 ((v.extractLsb' 0 21).toNat + 2 ^ 31))) := by
  have hget : F.TICK_PERIOD.UNITS.get v = (v.extractLsb' 0 21).toNat := fld_extract v 21
  have hok : (s.tickRoot || !s.inJob) = true := by rcases hroot with h | h <;> simp [h]
  unfold writeTickPeriod
  dsimp only
  rw [hget, decide_eq_true hlo, decide_eq_true hhi, hok, Bool.and_self, Bool.and_self, if_pos rfl]

theorem writeTickPeriod_refuses (h : (v.extractLsb' 0 21).toNat < 250 ∨ 2048000 < (v.extractLsb' 0 21).toNat) :
    writeTickPeriod v s = s.setFlag Reg.TICK_STAT F.TICK_STAT.PERIOD_ERR := by
  have hget : F.TICK_PERIOD.UNITS.get v = (v.extractLsb' 0 21).toNat := fld_extract v 21
  unfold writeTickPeriod
  dsimp only
  rw [hget, if_neg]
  intro hok
  simp only [Bool.and_eq_true, decide_eq_true_eq] at hok
  omega

theorem exec_tickRelLatWrite (hacc : Accepts p Reg.TICK_REL_LAT s) :
    exec (.tickRelLatWrite p v) s = .next (writeRelLat v s) := by
  rw [show exec (.tickRelLatWrite p v) s = execTickRelLatWrite p v s from rfl, execTickRelLatWrite,
    ifUp_pathWrite_single hacc (by decide) rfl rfl (by decide) (by decide)]

theorem exec_tickSnapFreeze (hacc : Accepts p Reg.TICK_SNAP_CTL s) :
    exec (.tickSnapFreeze p v) s = .next (writeSnapCtl v s) := by
  rw [show exec (.tickSnapFreeze p v) s = execTickSnapFreeze p v s from rfl, execTickSnapFreeze,
    ifUp_pathWrite_single hacc (by decide) rfl rfl (by decide) (by decide)]

theorem bit_setFlag_same (s : State) (a : Nat) (f : Fld) (b : Bool) (hf : f.lo < 32) :
    (s.setFlag a f b).bit a f.lo = b := by
  cases b with
  | true => rw [State.bit_setFlag _ _ _ _ _ hf, decide_eq_true ⟨rfl, rfl⟩, Bool.or_true]
  | false => rw [State.bit_clrFlag _ _ _ _ _ hf, decide_eq_true ⟨rfl, rfl⟩, Bool.not_true, Bool.and_false]

theorem bit_setFlag_ne (s : State) (a i : Nat) (f : Fld) (b : Bool) (hf : f.lo < 32) (hi : i ≠ f.lo) :
    (s.setFlag a f b).bit a i = s.bit a i :=
  bitsKept_setFlag (P := fun _ j => j ≠ f.lo) b hf (fun h => h rfl) a i hi

theorem reg_setFlag_ne (s : State) {a c : Nat} (f : Fld) (b : Bool) (h : c ≠ a) : (s.setFlag a f b).reg c = s.reg c := by
  cases b with
  | true => rw [State.reg_setFlag, if_neg h]
  | false => rw [State.reg_clrFlag, if_neg h]

/-- What a write of the freezes, at `a`, may change: its register, and what the two views hold. -/
def SnapOnly (a : Nat) (s t : State) : Prop :=
  (∀ b, b ≠ a → t.reg b = s.reg b) ∧
    t = { s with regs := t.regs, frozenHost := t.frozenHost, frozenMgmt := t.frozenMgmt }

section
variable {a : Nat}

theorem SnapOnly.refl : SnapOnly a s s := ⟨fun _ _ => rfl, rfl⟩

theorem SnapOnly.trans {t u : State} (h : SnapOnly a s t) (k : SnapOnly a t u) : SnapOnly a s u := by
  obtain ⟨hreg, hrest⟩ := h
  obtain ⟨kreg, krest⟩ := k
  exact ⟨fun b hb => (kreg b hb).trans (hreg b hb), by rw [krest, hrest]⟩

theorem snapOnly_setFld (f : Fld) (x : Nat) : SnapOnly a s (s.setFld a f x) :=
  ⟨fun _ hb => State.reg_setFld_ne _ _ _ hb, rfl⟩

theorem snapOnly_host (x : Option Frozen) : SnapOnly a s { s with frozenHost := x } := ⟨fun _ _ => rfl, rfl⟩

theorem snapOnly_mgmt (x : Option Frozen) : SnapOnly a s { s with frozenMgmt := x } := ⟨fun _ _ => rfl, rfl⟩

theorem setFlag_frozen (f : Fld) (b : Bool) : (s.setFlag a f b).frozenHost = s.frozenHost ∧
    (s.setFlag a f b).frozenMgmt = s.frozenMgmt := by
  cases b <;> exact ⟨rfl, rfl⟩

theorem snapOnly_setFlag (f : Fld) (b : Bool) : SnapOnly a s (s.setFlag a f b) :=
  ⟨fun _ ha => reg_setFlag_ne _ _ _ ha, by cases b <;> rfl⟩

/-- The host's view begins to freeze: its count of missed boundaries is cleared, and it holds the registers as they
stand. -/
def freezeHost (a : Nat) (held : Frozen) (s : State) : State :=
  { s.setFld a F.TICK_SNAP_CTL.MISSED_HOST 0 with frozenHost := some held }

/-- The same of management's view. -/
def freezeMgmt (a : Nat) (held : Frozen) (s : State) : State :=
  { s.setFld a F.TICK_SNAP_CTL.MISSED_MGMT 0 with frozenMgmt := some held }

theorem freezeHost_freezes (held : Frozen) : SnapOnly a s (freezeHost a held s) ∧
    (freezeHost a held s).bit a 1 = s.bit a 1 ∧ (freezeHost a held s).frozenMgmt = s.frozenMgmt ∧
      (freezeHost a held s).frozenHost = some held := by
  refine ⟨(snapOnly_setFld F.TICK_SNAP_CTL.MISSED_HOST 0).trans (snapOnly_host (some held)), ?_, rfl, rfl⟩
  show (s.setFld a F.TICK_SNAP_CTL.MISSED_HOST 0).bit a 1 = _
  rw [State.bit_setFld _ _ _ _ _ _ (by decide), if_neg (fun h => absurd h.2.1 (by decide))]

theorem freezeMgmt_freezes (held : Frozen) : SnapOnly a s (freezeMgmt a held s) ∧
    (freezeMgmt a held s).frozenHost = s.frozenHost ∧ (freezeMgmt a held s).frozenMgmt = some held := by
  have hhost : (s.setFld a F.TICK_SNAP_CTL.MISSED_MGMT 0).frozenHost = s.frozenHost := State.setReg_frozenHost ..
  unfold freezeMgmt
  have hset := snapOnly_setFld (a := a) (s := s) F.TICK_SNAP_CTL.MISSED_MGMT 0
  generalize s.setFld a F.TICK_SNAP_CTL.MISSED_MGMT 0 = t at hset hhost ⊢
  exact ⟨hset.trans (snapOnly_mgmt (some held)), hhost, rfl⟩

end

/-- What a write of TICK_SNAP_CTL does, with the register at `a`. -/
def snapWrite (a : Nat) (v : Word32) (s : State) : State :=
  let t := if v.getLsbD 0 && !s.bit a 0 then freezeHost a s.frozenNow s else s
  let t := if v.getLsbD 1 && !t.bit a 1 then freezeMgmt a s.frozenNow t else t
  let t := if v.getLsbD 0 then t else { t with frozenHost := none }
  let t := if v.getLsbD 1 then t else { t with frozenMgmt := none }
  (t.setFlag a F.TICK_SNAP_CTL.FREEZE_HOST (v.getLsbD 0)).setFlag a F.TICK_SNAP_CTL.FREEZE_MGMT (v.getLsbD 1)

theorem writeSnapCtl_eq : writeSnapCtl v s = snapWrite Reg.TICK_SNAP_CTL v s := rfl

theorem snapWrite_freezes (a : Nat) : SnapOnly a s (snapWrite a v s) ∧
    (snapWrite a v s).bit a 0 = v.getLsbD 0 ∧ (snapWrite a v s).bit a 1 = v.getLsbD 1 ∧
    (snapWrite a v s).frozenHost =
      (if v.getLsbD 0 then if s.bit a 0 then s.frozenHost else some s.frozenNow else none) ∧
    (snapWrite a v s).frozenMgmt =
      (if v.getLsbD 1 then if s.bit a 1 then s.frozenMgmt else some s.frozenNow else none) := by
  unfold snapWrite
  extract_lets t1 t2 t3 t4
  have h1 : SnapOnly a s t1 ∧ t1.bit a 1 = s.bit a 1 ∧ t1.frozenMgmt = s.frozenMgmt ∧
      t1.frozenHost = if v.getLsbD 0 && !s.bit a 0 then some s.frozenNow else s.frozenHost := by
    unfold t1
    split
    · exact freezeHost_freezes _
    · exact ⟨.refl, rfl, rfl, rfl⟩
  obtain ⟨honly1, hbit1, hmgmt1, hhost1⟩ := h1
  have h2 : SnapOnly a t1 t2 ∧ t2.frozenHost = t1.frozenHost ∧
      t2.frozenMgmt = if v.getLsbD 1 && !s.bit a 1 then some s.frozenNow else s.frozenMgmt := by
    unfold t2
    rw [hbit1]
    split
    · exact freezeMgmt_freezes _
    · exact ⟨.refl, rfl, hmgmt1⟩
  obtain ⟨honly2, hhost2, hmgmt2⟩ := h2
  have h3 : SnapOnly a t2 t3 ∧ t3.frozenMgmt = t2.frozenMgmt ∧
      t3.frozenHost = if v.getLsbD 0 then t2.frozenHost else none := by
    unfold t3
    split
    · exact ⟨.refl, rfl, rfl⟩
    · exact ⟨snapOnly_host none, rfl, rfl⟩
  obtain ⟨honly3, hmgmt3, hhost3⟩ := h3
  have h4 : SnapOnly a t3 t4 ∧ t4.frozenHost = t3.frozenHost ∧
      t4.frozenMgmt = if v.getLsbD 1 then t3.frozenMgmt else none := by
    unfold t4
    split
    · exact ⟨.refl, rfl, rfl⟩
    · exact ⟨snapOnly_mgmt none, rfl, rfl⟩
  obtain ⟨honly4, hhost4, hmgmt4⟩ := h4
  clear_value t1 t2 t3 t4
  refine ⟨(((honly1.trans honly2).trans honly3).trans honly4).trans
    ((snapOnly_setFlag _ _).trans (snapOnly_setFlag _ _)), ?_,
    bit_setFlag_same _ _ F.TICK_SNAP_CTL.FREEZE_MGMT _ (by decide), ?_, ?_⟩
  · rw [bit_setFlag_ne _ _ _ _ _ (by decide) (by decide)]
    exact bit_setFlag_same _ _ F.TICK_SNAP_CTL.FREEZE_HOST _ (by decide)
  · rw [(setFlag_frozen _ _).1, (setFlag_frozen _ _).1, hhost4, hhost3, hhost2, hhost1]
    cases v.getLsbD 0 <;> cases s.bit a 0 <;> rfl
  · rw [(setFlag_frozen _ _).2, (setFlag_frozen _ _).2, hmgmt4, hmgmt3, hmgmt2]
    cases v.getLsbD 1 <;> cases s.bit a 1 <;> rfl

end

/-! ### The edges of TICK_IN -/

/-- The multiples of `p` next to `tb`, and how far the nearer one is. -/
theorem nearest_multiple {tb p : Nat} (hp : 0 < p) :
    (tb - tb % p) % p = 0 ∧ (tb - tb % p + p) % p = 0 ∧ tb % p < p ∧ tb % p ≤ tb := by
  have hdvd : p ∣ tb - tb % p := Nat.dvd_sub_mod tb
  exact ⟨Nat.mod_eq_zero_of_dvd hdvd, by rw [Nat.add_mod_right]; exact Nat.mod_eq_zero_of_dvd hdvd, Nat.mod_lt _ hp,
    Nat.mod_le _ _⟩

/-- Is an edge too near the last one? -/
def tickInHeld (s : State) : Bool :=
  match s.lands.tickInAt with
  | some t => decide (s.now < t + usec 2)
  | none => false

theorem execTickInEdge_eq {s : State} (hup : s.down = false) : execTickInEdge s =
    if !s.tickInRoot || tickInHeld s then .next s
    else
      let w := { s with lands := { s.lands with tickInAt := some s.now } }
      let p := 64 * s.tick.period
      let down := s.tb - s.tb % p
      if 2 * (s.tb % p) < p then .next { w with tb := down }
      else if p < 2 * (s.tb % p) then .next { w with tb := down + p }
      else .next { w with freeCtr := s.freeCtr + 1, tb := if (w.draw 1).1 = 0 then down else down + p } := by
  rw [execTickInEdge, ifUp_eq hup]
  rfl

/-- An edge that counts moves the timebase to the nearest multiple of the period. -/
theorem exec_tickInEdge {s : State} (hup : s.down = false) (hroot : s.tickInRoot = true) (hper : 0 < s.tick.period)
    (hold : ∀ t0, s.lands.tickInAt = some t0 → t0 + usec 2 ≤ s.now) :
    ∃ t, exec .tickInEdge s = .next t ∧ t.tb % (64 * s.tick.period) = 0 ∧
      2 * (t.tb - s.tb) ≤ 64 * s.tick.period ∧ 2 * (s.tb - t.tb) ≤ 64 * s.tick.period ∧
      t = { s with tb := t.tb, lands := { s.lands with tickInAt := some s.now }, freeCtr := t.freeCtr } := by
  obtain ⟨hdown, hnext, hlt, hle⟩ := nearest_multiple (tb := s.tb) (show 0 < 64 * s.tick.period by omega)
  rw [show exec .tickInEdge s = execTickInEdge s from rfl]
  have hclose : tickInHeld s = false := by
    unfold tickInHeld
    split
    next t ht => exact decide_eq_false (by have := hold t ht; omega)
    next => rfl
  rw [execTickInEdge_eq hup, hroot, hclose, Bool.not_true, Bool.or_self, if_neg Bool.false_ne_true]
  dsimp only
  generalize 64 * s.tick.period = p at hdown hnext hlt hle ⊢
  generalize hr : s.tb % p = r at hdown hnext hlt hle ⊢
  split
  · exact ⟨_, rfl, hdown, by dsimp only; omega, by dsimp only; omega, rfl⟩
  split
  · exact ⟨_, rfl, hnext, by dsimp only; omega, by dsimp only; omega, rfl⟩
  generalize (State.draw _ 1).1 = u
  by_cases hu : u = 0
  · rw [if_pos hu]
    exact ⟨_, rfl, hdown, by dsimp only; omega, by dsimp only; omega, rfl⟩
  · rw [if_neg hu]
    exact ⟨_, rfl, hnext, by dsimp only; omega, by dsimp only; omega, rfl⟩

/-- Settles O30: each register's write is its effect, and a trigger of TICK_CTL writes back what was there. -/
theorem tickRegistersAct : Obligations.TickRegistersAct := by
  unfold Obligations.TickRegistersAct
  refine ⟨fun p v s => ⟨fun hacc => ⟨?_, ?_, ?_⟩, fun hacc => ⟨?_, ?_⟩, fun hacc => ?_, fun hacc => ?_⟩,
    fun s hup hroot hper hold => exec_tickInEdge hup hroot hper hold⟩
  · intro hjob hreason
    obtain ⟨w, hw, hexec⟩ := exec_tickStart hacc hjob hreason
    obtain ⟨hstate, hstart, hsum, hat, hfrom, hrel, hout, hregs⟩ := startJob_starts (hw.startReason.trans hreason)
    have hsame : w.tickState = s.tickState ∧ w.now = s.now ∧ OutsideSame s w := by
      obtain ⟨hreg, hrest⟩ := hw
      refine ⟨by rw [State.tickState, State.tickState, State.fld, State.fld, hreg], ?_, ?_⟩
      · rw [hrest]
      · rw [hrest]
        exact ⟨rfl, rfl, rfl⟩
    obtain ⟨hstateW, hnow, houtW⟩ := hsame
    exact ⟨_, hexec, hstate, hstart, hsum, hat.trans hnow, hfrom.trans (by rw [hstateW]), hrel, houtW.trans hout,
      fun a hctl hstat => (hregs a hctl hstat).trans (hw.1 a)⟩
  · intro hroot hjob
    obtain ⟨w, ⟨hreg, hrest⟩, hexec⟩ := exec_tickStop hacc hroot hjob
    refine ⟨_, hexec, ?_, fun b hb => ?_, ?_⟩
    · rw [State.reg_setFlag, if_pos rfl, hreg]
      rfl
    · rw [reg_setFlag_ne _ _ _ hb, hreg]
    · rw [hrest]
      rfl
  · obtain ⟨w, ⟨hreg, hrest⟩, hexec⟩ := exec_tickCntClr hacc
    refine ⟨_, hexec, ?_, State.reg_setReg_same .., fun a hovr hlate => ?_, ?_⟩
    · rw [State.reg_setReg_ne _ _ (by decide), State.reg_setReg_same]
    · rw [State.reg_setReg_ne _ _ hlate, State.reg_setReg_ne _ _ hovr, hreg]
    · rw [hrest]
      rfl
  · intro hlo hhi hroot
    rw [exec_tickPeriodWrite hacc, writeTickPeriod_takes hlo hhi hroot]
    exact ⟨_, rfl, setPend_sets ..⟩
  · intro h
    rw [exec_tickPeriodWrite hacc, writeTickPeriod_refuses h]
  · exact exec_tickRelLatWrite hacc
  · obtain ⟨⟨hreg, hrest⟩, h0, h1, hhost, hmgmt⟩ := snapWrite_freezes (s := s) (v := v) Reg.TICK_SNAP_CTL
    exact ⟨_, (exec_tickSnapFreeze hacc).trans (congrArg _ writeSnapCtl_eq), h0, h1, ⟨hhost, hmgmt⟩, hreg, hrest⟩

end Sys2Proof.Machine
end

section

/-! ## Time synchronisation (O31) -/

namespace Sys2Proof.Machine

open Sys2Proof

-- Proofs in turn: each that waits on others while elaborated at once holds a stack, and the check limits the memory.
set_option Elab.async false

/-! ### Asking and answering -/

theorem exec_tsyncInterval {s : State} {l : Nat} (hup : s.down = false) (hlink : s.syncLink = some l) :
    exec .tsyncInterval s = .next (
      let v := if s.tsync.sentAt = 0 then s
        else s.advance (s.tsync.sentAt + usec (8 * s.fld Reg.LNK_TSYNC F.LNK_TSYNC.INTERVAL))
      let w := newTag 0x489 { v with tsync := { v.tsync with sentAt := v.now } }
      queueOn l 0x489
        { w.2.newMsg 0x11 (s.fld (Reg.LNKp_PIDk (l / 4) (l % 4)) F.LNKp_PIDk.PKG) with tag := w.1 } w.2) := by
  rw [show exec .tsyncInterval s = execTsyncInterval s from rfl, execTsyncInterval, ifUp_eq hup, hlink]
  dsimp only
  generalize hv : (if s.tsync.sentAt = 0 then s
    else s.advance (s.tsync.sentAt + usec (8 * s.fld Reg.LNK_TSYNC F.LNK_TSYNC.INTERVAL))) = v
  have hregs : v.regs = s.regs := by
    rw [← hv]
    split
    · rfl
    · exact (advance_same _ s).2.1
  have hpkg : ∀ a f, State.fld (newTag 0x489 { v with tsync := { v.tsync with sentAt := v.now } }).2 a f =
      s.fld a f := fun a f => by
    unfold State.fld State.reg
    show f.get (sget _ v.regs a) = _
    rw [hregs]
  rw [← hpkg]

theorem exec_tsyncReq {l : InLink} {m : Msg} {s v : State} (h : Takes 0x11 l m s v) (hl : l.val < 32) :
    exec (.tsyncReq l) s = .next (
      let own := if v.flag Reg.TICK_CTL F.TICK_CTL.ROOT then 0 else v.tsync.offset
      let body := bodyPut 32 (m.bodyAt 32 8) + bodyPut 40 m.stamp + bodyPut 56 (bodyInt 4 own)
      let w := newTag 0x489 v
      queueOn l 0x489 { w.2.newMsg 0x12 m.src with tag := w.1, body := body } w.2) := by
  rw [show exec (.tsyncReq l) s = execTsyncReq l s from rfl, execTsyncReq, ifUp_eq h.up, h.receive, if_pos hl]

/-! ### The answer that was waited for -/

/-- The registers of an exchange: the offset, the round trip and an alignment error. -/
def syncRegs (l : Nat) (offset delta : Int) (s : State) : State :=
  let s := s.setFld Reg.TICK_SYNC F.TICK_SYNC.OFFSET ((offset.tdiv 8) % 65536).toNat
  let s := s.setFld (Reg.LNKp_RTTk (l / 4) (l % 4)) F.LNKp_RTTk.RTT (min ((2 * delta + 4) / 8).toNat 65535)
  if 128 < offset.natAbs then
    reportLocal 0 0 0x02 0 (s.setFlag Reg.TICK_STAT F.TICK_STAT.ALIGN_ERR)
  else s

/-- What is kept of the clocks. -/
abbrev clocked : Kept := { cores := true, stks := true, mem := true, clock := true }

theorem syncRegs_keeps (l : Nat) (offset delta : Int) (s : State) : Keeps clocked s (syncRegs l offset delta s) := by
  unfold syncRegs
  extract_lets s1 s2
  split <;> simp [s2, s1, Keeps.refl]

/-- STATE stands through an exchange. -/
theorem syncRegs_state {l : Nat} (offset delta : Int) (s : State) :
    BitsKept StateBits s (syncRegs l offset delta s) := by
  have hrtt : ∀ l, Reg.LNKp_RTTk (l / 4) (l % 4) ≠ Reg.TICK_STAT := by
    intro l
    unfold Reg.LNKp_RTTk Reg.TICK_STAT
    omega
  have hoff : ∀ a i, StateBits a i → OffFlt a i := fun a i h => .inl (by rw [h.1]; decide)
  unfold syncRegs
  extract_lets s1 s2
  have h1 : BitsKept StateBits s s1 := bitsKept_setFld _ fun i _ _ h => absurd h.1 (by decide)
  have h2 : BitsKept StateBits s1 s2 := bitsKept_setFld _ fun i _ _ h => hrtt l h.1
  split
  · have h3 : BitsKept StateBits s2 (s2.setFlag Reg.TICK_STAT F.TICK_STAT.ALIGN_ERR) :=
      bitsKept_setFlag true (by decide) fun h => absurd h.2 (by decide)
    exact bitsKept_trans h1 (bitsKept_trans h2 (bitsKept_trans h3 fun a i h =>
      reportLocal_bits 0 0 0 (by decide) a i (hoff a i h)))
  · exact bitsKept_trans h1 h2

/-- The correction of an exchange: a step outside a job by a large error, else a slew. -/
def syncTrim (theta offset : Int) (span : Nat) (s : State) : State :=
  let x := { s.tsync.trim theta span with waiting := false, offset := offset }
  if !s.inJob && decide (2048 < theta.natAbs) then
    { s with tb := s.tb + theta.toNat, tsync := { x with hold := x.hold + (-theta).toNat, last := some 0 } }
  else { s with tsync := { x with slew := max (-32) (min 32 theta), left := x.span, last := some theta } }

/-- The error that an answer shows. -/
def syncTheta (m : Msg) : Int :=
  (((m.bodyAt 40 8 : Int) - m.bodyAt 32 8) - ((m.stamp : Int) - m.bodyAt 48 8)).tdiv 2

theorem syncResult_eq (l : Nat) (m : Msg) (s : State) : ∃ delta span,
    syncResult l m s = syncTrim (syncTheta m) (signedOf 32 (m.bodyAt 56 4) - syncTheta m) span
      (syncRegs l (signedOf 32 (m.bodyAt 56 4) - syncTheta m) delta s) := ⟨_, _, rfl⟩

theorem syncTrim_gives (theta offset : Int) (span : Nat) (s : State) :
    let t := syncTrim theta offset span s
    t.tsync.waiting = false ∧ t.tsync.offset = offset ∧ OutsideSame s t ∧
      (s.inJob = false ∧ 2048 < theta.natAbs → t.tb = s.tb + theta.toNat ∧ t.tsync.slew = 0 ∧
        t.tsync.hold = s.tsync.hold + (-theta).toNat) ∧
      (s.inJob = true ∨ theta.natAbs ≤ 2048 → t.tb = s.tb ∧ t.tsync.hold = s.tsync.hold ∧
        t.tsync.slew = max (-32) (min 32 theta) ∧ t.tsync.left = t.tsync.span) := by
  unfold syncTrim
  dsimp only
  split
  next hstep =>
    have h : s.inJob = false ∧ 2048 < theta.natAbs := by
      rw [Bool.and_eq_true, Bool.not_eq_true', decide_eq_true_eq] at hstep
      exact hstep
    refine ⟨rfl, rfl, ⟨rfl, rfl, rfl⟩, fun _ => ⟨rfl, rfl, rfl⟩, fun hslew => ?_⟩
    rcases hslew with hjob | hsmall
    · rw [h.1] at hjob
      exact absurd hjob Bool.false_ne_true
    · omega
  next hslew =>
    refine ⟨rfl, rfl, ⟨rfl, rfl, rfl⟩, fun h => absurd ?_ hslew, fun _ => ⟨rfl, rfl, rfl, rfl⟩⟩
    rw [h.1, decide_eq_true h.2]
    rfl

section
variable {l : InLink} {m : Msg} {s v : State} (h : Takes 0x12 l m s v)
include h

theorem exec_tsyncRsp_taken (hwait : v.tsync.waiting = true) (hlink : v.syncLink = some l.val)
    (hstamp : m.bodyAt 32 8 = v.tsync.t1) : exec (.tsyncRsp l) s = .next (syncResult l m v) := by
  rw [show exec (.tsyncRsp l) s = execTsyncRsp l s from rfl, execTsyncRsp, ifUp_eq h.up, h.receive, hwait, hlink, hstamp,
    beq_self_eq_true, beq_self_eq_true, Bool.and_self, Bool.and_self, if_pos rfl]

theorem exec_tsyncRsp_dropped (hwait : v.tsync.waiting = false) : exec (.tsyncRsp l) s = .next v := by
  rw [show exec (.tsyncRsp l) s = execTsyncRsp l s from rfl, execTsyncRsp, ifUp_eq h.up, h.receive, hwait,
    Bool.false_and, Bool.false_and, if_neg Bool.false_ne_true]

end

/-- Settles O31: the answer's registers leave STATE and the clocks alone, which its correction then moves. -/
theorem timeSyncExchanges : Obligations.TimeSyncExchanges := by
  unfold Obligations.TimeSyncExchanges
  refine ⟨fun s l hup hlink => exec_tsyncInterval hup hlink, fun l m s v => ⟨fun h hl => exec_tsyncReq h hl, ?_⟩⟩
  intro h θ
  refine ⟨fun hwait hlink hstamp => ?_, fun hwait => exec_tsyncRsp_dropped h hwait⟩
  obtain ⟨delta, span, heq⟩ := syncResult_eq l m v
  have hkeeps := syncRegs_keeps l (signedOf 32 (m.bodyAt 56 4) - syncTheta m) delta v
  have hstate := tickState_congr (syncRegs_state (l := l) (signedOf 32 (m.bodyAt 56 4) - syncTheta m) delta v)
  rw [exec_tsyncRsp_taken h hwait hlink hstamp, heq]
  generalize syncRegs l (signedOf 32 (m.bodyAt 56 4) - syncTheta m) delta v = w at hkeeps hstate
  have hout : OutsideSame v w := outside_of_keeps hkeeps
  have hjob : w.inJob = v.inJob := by rw [State.inJob, State.inJob, hstate]
  obtain ⟨-, -, -, -, -, -, -, -, -, -, hclock⟩ := hkeeps
  obtain ⟨-, htb, htsync⟩ := hclock rfl
  obtain ⟨hwaiting, hoffset, hsame, hstep, hslew⟩ :=
    syncTrim_gives (syncTheta m) (signedOf 32 (m.bodyAt 56 4) - syncTheta m) span w
  rw [hjob, htb, htsync] at hstep hslew
  exact ⟨_, rfl, hwaiting, hoffset, hout.trans hsame, hstep, hslew⟩

end Sys2Proof.Machine
end

section

/-! ## Right after reset (O58) -/

namespace Sys2Proof.Machine

open Sys2Proof

-- Proofs in turn: each that waits on others while elaborated at once holds a stack, and the check limits the memory.
set_option Elab.async false

theorem reg_reset (a : Nat) : State.reset.reg a = regReset a := rfl

/-- The reset value of a register depends on its row and, for the points' table, on its address alone. -/
theorem regReset_of_row {a : Nat} {r : RegRow} (h : regRowAt a = some r) (hpoint : r.base ≠ 0x60104)
    (hvf : r.base ≠ 0x40004) : regReset a = r.reset := by
  unfold regReset
  rw [h]
  dsimp only
  rw [beq_eq_false_iff_ne.mpr hpoint, Bool.false_and, if_neg Bool.false_ne_true, beq_eq_false_iff_ne.mpr hvf,
    if_neg Bool.false_ne_true]

/-- A register of the cores whose row resets to 0 reads 0 in every core. -/
theorem reg_reset_coreAddr {b : Nat} (hb : InCore b) (s : StackId) (c : CoreId)
    (hrow : (regRowAt b).map (fun r => (r.base != 0x60104 && r.base != 0x40004, r.reset)) = some (true, 0)) :
    State.reset.reg (coreAddr b s c) = 0 := by
  obtain ⟨r, hr, heq⟩ := Option.map_eq_some_iff.1 hrow
  obtain ⟨hbase, hzero⟩ := Prod.mk.inj heq
  rw [Bool.and_eq_true, bne_iff_ne, bne_iff_ne] at hbase
  rw [reg_reset, regReset_of_row ((regRowAt_coreAddr hb s.isLt c.isLt).trans hr) hbase.1 hbase.2, hzero]

/-- Settles O58: a state that lists nothing reads its defaults. -/
theorem resetLeavesItsValues : Obligations.ResetLeavesItsValues := by
  unfold Obligations.ResetLeavesItsValues
  have htrap : ∀ c : Cid, Reg.CORE_TRAP_HI c.s c.c = coreAddr (Reg.CORE_TRAP_HI 0 0) c.s c.c := fun c => by
    unfold Reg.CORE_TRAP_HI coreAddr; omega
  have hnum : ∀ c : Cid, Reg.CORE_NUM_CTL c.s c.c = coreAddr (Reg.CORE_NUM_CTL 0 0) c.s c.c := fun c => by
    unfold Reg.CORE_NUM_CTL coreAddr; omega
  have hlinks : ∀ p : Fin 8, regReset (Reg.LNKp_CTL p) = 8 := by decide
  have hpoints : ∀ q : Fin 40, regReset (Reg.BWR_Pp_CFG q) = if q.val < 8 then 0xC0 else 0x60 := by decide
  have htick : regReset Reg.TICK_PERIOD = 12500 ∧ regReset Reg.TICK_REL_LAT = 8 ∧ regReset Reg.TICK_CTL = 0x20 := by
    decide +kernel
  have hstat : State.reset.tickState = 0 := by decide
  obtain ⟨hperiod, hlat, hctl⟩ := htick
  refine ⟨fun i g => ⟨rfl, rfl⟩, fun k n => rfl, fun l => rfl, rfl, rfl, hstat, hperiod, rfl, hlat, hctl,
    fun c => ⟨?_, ?_⟩, hlinks, hpoints⟩
  · rw [htrap]
    exact reg_reset_coreAddr (by unfold InCore; decide) _ _ (by decide)
  · rw [hnum]
    exact reg_reset_coreAddr (by unfold InCore; decide) _ _ (by decide)

end Sys2Proof.Machine
end

section

/-! ## Links: what operations outside a link's own events leave of it -/

namespace Sys2Proof.Machine

open Sys2Proof

-- Proofs in turn: each that waits on others while elaborated at once holds a stack, and the check limits the memory.
set_option Elab.async false

/-! ### Only queues of ACTIVE links grow -/

/-- Of the links only queues of ACTIVE ones differ, and the inbox holds nothing new but what the package sends to itself. -/
def LinksQueue (s t : State) : Prop :=
  (∀ j, ∃ q, t.link j = { s.link j with queue := q }) ∧ (∀ j, (s.link j).state ≠ .active → t.link j = s.link j) ∧
    ∀ e ∈ t.inbox, e ∈ s.inbox ∨ e.1 = 32

section
variable {s t u : State}

theorem linksQueue_of_same (hlinks : t.links = s.links) (hinbox : t.inbox = s.inbox) : LinksQueue s t := by
  have hlink : ∀ j, t.link j = s.link j := fun j => by rw [State.link, State.link, hlinks]
  exact ⟨fun j => ⟨_, hlink j⟩, fun j _ => hlink j, fun e he => .inl (hinbox ▸ he)⟩

theorem linksQueue_refl : LinksQueue s s := linksQueue_of_same rfl rfl

theorem LinksQueue.state (h : LinksQueue s t) (j : Nat) : (t.link j).state = (s.link j).state := by
  obtain ⟨q, hq⟩ := h.1 j
  rw [hq]

theorem LinksQueue.trans (h : LinksQueue s t) (k : LinksQueue t u) : LinksQueue s u := by
  refine ⟨fun j => ?_, fun j hj => ?_, fun e he => ?_⟩
  · obtain ⟨q, hq⟩ := h.1 j
    obtain ⟨r, hr⟩ := k.1 j
    exact ⟨r, by rw [hr, hq]⟩
  · rw [k.2.1 j (by rwa [h.state]), h.2.1 j hj]
  · rcases k.2.2 e he with hmem | hself
    · exact h.2.2 e hmem
    · exact .inr hself

theorem linksQueue_setFlag {a : Nat} {f : Fld} {b : Bool} : LinksQueue s (s.setFlag a f b) := by
  cases b <;> exact linksQueue_of_same rfl rfl

theorem linksQueue_setReg {a : Nat} {v : Word32} : LinksQueue s (s.setReg a v) := linksQueue_of_same rfl rfl

theorem linksQueue_setFld {a : Nat} {f : Fld} {x : Nat} : LinksQueue s (s.setFld a f x) := linksQueue_of_same rfl rfl

theorem linksQueue_bump {a : Nat} {f : Fld} {n : Nat} : LinksQueue s (s.bump a f n) := linksQueue_of_same rfl rfl

theorem linksQueue_setBit {a i : Nat} : LinksQueue s (s.setBit a i) := linksQueue_of_same rfl rfl

theorem linksQueue_count {a n : Nat} : LinksQueue s (s.count a n) := linksQueue_of_same rfl rfl

theorem linksQueue_newTag {mst : Nat} : LinksQueue s (newTag mst s).2 := linksQueue_of_same rfl rfl

theorem linksQueue_setRecLife {i : Nat} {x : RecLife} : LinksQueue s (setRecLife i x s) := linksQueue_of_same rfl rfl

theorem linksQueue_setFloodLife {i : Nat} {x : RecLife} : LinksQueue s (setFloodLife i x s) :=
  linksQueue_of_same rfl rfl

theorem linksQueue_awaitAnswer {tag type role : Nat} : LinksQueue s (s.awaitAnswer tag type role) :=
  linksQueue_of_same rfl rfl

theorem linksQueue_intEvent {v : Nat} : LinksQueue s (intEvent v s) := linksQueue_of_same rfl rfl

theorem linksQueue_forEach {α : Type} {xs : List α} {f : α → State → State} (hf : ∀ x v, LinksQueue v (f x v)) :
    LinksQueue s (forEach xs f s) := by
  induction xs generalizing s with
  | nil => exact linksQueue_refl
  | cons x xs ih => exact (hf x s).trans ih

/-! ### Sending a message -/

/-- A route to a link leads over one that is up. -/
theorem route_up {d l : Nat} (h : s.route d = .link l) : s.linkUp l = true := by
  unfold State.route at h
  extract_lets prim c at h
  split at h
  · cases h
  split at h
  · cases h
  split at h
  · split at h
    next hup =>
      injection h with h
      rwa [← h]
    next => exact absurd h nofun
  · have hup : ∀ x ∈ c, s.linkUp x = true := fun x hx => (Bool.and_eq_true_iff.1 (List.mem_filter.1 hx).2).1
    clear_value c
    cases c with
    | nil => exact absurd h nofun
    | cons a t =>
      injection h with h
      rw [← h]
      refine hup _ (List.foldlRecOn (motive := (· ∈ a :: t)) t _ List.mem_cons_self fun b hb x hx => ?_)
      split
      · exact List.mem_cons_of_mem _ hx
      · exact hb

theorem linksQueue_bwrSend {p m bytes : Nat} {deadline issued : Option Nat} :
    LinksQueue s (bwrSend p m bytes deadline s issued) := by
  unfold bwrSend
  split
  · exact linksQueue_refl
  · dsimp only
    split <;> split <;> exact linksQueue_of_same rfl rfl

theorem linksQueue_append {l : Nat} {m : Msg} (hup : s.linkUp l = true) :
    LinksQueue s (updLink l (fun x => { x with queue := x.queue ++ [m] }) s) := by
  refine ⟨fun j => ?_, fun j hj => ?_, fun e he => .inl he⟩
  · rw [State.link_updLink]
    split
    next h => exact ⟨_, by rw [h]⟩
    next => exact ⟨_, rfl⟩
  · rw [State.link_updLink, if_neg]
    rintro rfl
    exact hj (eq_of_beq hup)

theorem LinksQueue.linkUp {t : State} (h : LinksQueue s t) (l : Nat) : t.linkUp l = s.linkUp l := by
  rw [State.linkUp, h.state, State.linkUp]

theorem linksQueue_queueOn {l mst : Nat} {m : Msg} (hup : s.linkUp l = true) : LinksQueue s (queueOn l mst m s) := by
  unfold queueOn
  extract_lets p asks req s1 m'
  have h1 : LinksQueue s s1 := by
    show LinksQueue s (if asks then _ else _)
    split
    · exact linksQueue_bwrSend
    · exact linksQueue_refl
  exact h1.trans (linksQueue_append (by rwa [h1.linkUp]))

theorem linksQueue_sendMsg {m : Msg} {via : Option Nat} : LinksQueue s (sendMsg m s via) := by
  unfold sendMsg
  split
  next =>
    refine ⟨fun j => ⟨_, rfl⟩, fun j _ => rfl, fun e he => ?_⟩
    rcases List.mem_append.1 he with hmem | hself
    · exact .inl hmem
    · exact .inr (by rw [List.mem_singleton.1 hself])
  next => exact linksQueue_count
  next => exact linksQueue_count
  next l hr =>
    split
    · exact linksQueue_refl
    extract_lets mst s1
    have h1 : LinksQueue s s1 := by
      show LinksQueue s (match masterStack mst with | some k => _ | none => _)
      split
      · exact linksQueue_bwrSend
      · exact linksQueue_refl
    exact h1.trans (linksQueue_queueOn (by rw [h1.linkUp, route_up hr]))

theorem linksQueue_sendLosses {n : Nat} {ds : List Nat} : LinksQueue s (sendLosses n ds s) := by
  induction n generalizing ds s with
  | zero => exact linksQueue_refl
  | succ n ih =>
    cases ds with
    | nil => exact linksQueue_refl
    | cons d ds => exact (linksQueue_newTag (mst := 0x489)).trans (linksQueue_sendMsg.trans ih)

/-! ### Reporting a fault -/

theorem linksQueue_countReport {b : Nat} {who : Option Nat} : LinksQueue s (countReport b who s) := by
  unfold countReport markReporter
  dsimp only
  split <;> exact linksQueue_of_same rfl rfl

theorem linksQueue_forwardRec {i : Nat} : LinksQueue s (forwardRec i s) := by
  unfold forwardRec
  extract_lets subj coll ok
  split
  · exact linksQueue_refl
  split
  · exact linksQueue_setFlag
  split
  · exact linksQueue_setFlag
  · exact (linksQueue_newTag (mst := 0x489)).trans (linksQueue_sendMsg.trans (linksQueue_awaitAnswer.trans linksQueue_setRecLife))

theorem linksQueue_openRec {i : Nat} {r : Report} : LinksQueue s (openRec i r s) := by
  unfold openRec
  extract_lets b s1 s2 s3 s4 s5
  have h3 : LinksQueue s s3 := linksQueue_setFld.trans (linksQueue_bump.trans linksQueue_countReport)
  have h5 : LinksQueue s s5 := h3.trans (linksQueue_setRecLife.trans linksQueue_setBit)
  split
  · exact h5
  · exact h5.trans linksQueue_forwardRec

theorem linksQueue_foldFlood {r : Report} : LinksQueue s (foldFlood r s) := by
  unfold foldFlood
  extract_lets b s1 fresh s2 s3 s4 s5 s6 s7 s8 s9
  have h1 : LinksQueue s s1 := linksQueue_setFlag
  split
  · have h5 : LinksQueue s s5 :=
      h1.trans (linksQueue_setReg.trans (linksQueue_setFld.trans (linksQueue_setFld.trans linksQueue_setFlag)))
    have h6 : LinksQueue s s6 := by
      show LinksQueue s (if fresh then _ else _)
      split
      · exact h5.trans linksQueue_setReg
      · exact h5
    exact h6.trans (linksQueue_bump.trans (linksQueue_countReport.trans
      (linksQueue_setFloodLife.trans linksQueue_setBit)))
  · exact h1.trans linksQueue_countReport

theorem linksQueue_report {r : Report} : LinksQueue s (report r s) := by
  unfold report
  refine LinksQueue.trans ?_ linksQueue_intEvent
  split
  · split
    · exact linksQueue_countReport
    · exact linksQueue_openRec
  · split
    · exact linksQueue_setReg.trans (linksQueue_setReg.trans (linksQueue_setFlag.trans
        (linksQueue_setReg.trans linksQueue_openRec)))
    · exact linksQueue_foldFlood

theorem linksQueue_reportLocal {kind index cls detail : Nat} : LinksQueue s (reportLocal kind index cls detail s) :=
  linksQueue_report

end

/-! ### A link that is left -/

section
variable {s : State} {l : Nat} {next : LinkState} {loss : Bool}

theorem linksQueue_lnkEvt {f : Fld} : LinksQueue s (lnkEvt f l s) :=
  (linksQueue_setBit (i := f.lo + l % 4)).trans linksQueue_intEvent

theorem linksQueue_setNbr {x : Nbr} : LinksQueue s (setNbr l x s) :=
  (linksQueue_of_same (t := { s with boot := { s.boot with nbrs := sset (fun _ => Nbr.reset) s.boot.nbrs l x } })
    rfl rfl).trans (linksQueue_setFlag.trans linksQueue_intEvent)

theorem linksQueue_policyLoss : LinksQueue s (policyLoss l s) := by
  unfold policyLoss
  split
  · exact linksQueue_refl
  refine linksQueue_forEach fun d v => ?_
  extract_lets lo hi rest
  split
  · split <;> exact linksQueue_of_same rfl rfl
  · split <;> exact linksQueue_of_same rfl rfl

/-- Link `x` as it is left for state `next` at time `now`: nothing of what it held but that it was lost while ACTIVE. -/
def leftLink (next : LinkState) (now : Nat) (x : Link) : Link :=
  { Link.reset with state := next, since := now, lost := x.lost || (x.state == .active) }

theorem linkLeave_becomes : ∃ v, LinksQueue v (linkLeave l next loss s) ∧
    (∀ j, j ≠ l → v.link j = s.link j) ∧ (∀ e ∈ v.inbox, e ∈ s.inbox ∧ e.1 ≠ l) ∧
    v.link l = leftLink next s.now (s.link l) := by
  have hdisc : (discardLink l s).links = s.links ∧ (discardLink l s).inbox = s.inbox.filter (fun e => e.1 != l) ∧
    (discardLink l s).now = s.now := ⟨rfl, rfl, rfl⟩
  have hlink : ∀ j, (discardLink l s).link j = s.link j := fun j => by rw [State.link, State.link, hdisc.1]
  refine ⟨updLink l (fun x => { leftLink next (discardLink l s).now x with
                                lost := x.lost || ((s.link l).state == .active) }) (discardLink l s), ?_, fun j hj => ?_, fun e he => ?_, ?_⟩
  · unfold linkLeave
    extract_lets was s1 src s2 s3 s4 s5 nbr s6 s7
    have h3 : LinksQueue s2 s3 := linksQueue_setFld
    split
    · exact h3
    have h5 : LinksQueue s2 s5 := by
      show LinksQueue s2 (if loss then _ else _)
      split
      · exact h3.trans (linksQueue_lnkEvt.trans (linksQueue_count.trans linksQueue_reportLocal))
      · exact h3.trans linksQueue_lnkEvt
    have h7 : LinksQueue s2 s7 := h5.trans (linksQueue_setNbr.trans linksQueue_policyLoss)
    split
    · exact h7.trans linksQueue_sendLosses
    · exact h7
  · rw [State.link_updLink, if_neg hj, hlink]
  · rw [updLink_inbox, hdisc.2.1] at he
    obtain ⟨hmem, hne⟩ := List.mem_filter.1 he
    exact ⟨hmem, by simpa using hne⟩
  · rw [State.link_updLink, if_pos rfl, hlink, hdisc.2.2]
    rfl

theorem linkLeave_state (j : Nat) :
    ((linkLeave l next loss s).link j).state = if j = l then next else (s.link j).state := by
  obtain ⟨v, hv, hne, -, hl⟩ := linkLeave_becomes (s := s) (l := l) (next := next) (loss := loss)
  rw [hv.state]
  split
  next h => rw [h, hl, leftLink]
  next h => rw [hne j h]

end

end Sys2Proof.Machine
end

section

/-! ## The reference clocks -/

namespace Sys2Proof.Machine

open Sys2Proof

-- Proofs in turn: each that waits on others while elaborated at once holds a stack, and the check limits the memory.
set_option Elab.async false

/-! ### What a link that is left touches -/

/-- The registers outside the blocks of the fault concentrator and of the links (Table 1-6) and the ports' control
registers, and not SVC_EVT. -/
def OffLinks (a i : Nat) : Prop := OffFlt a i ∧ (a < 0x80000 ∨ a % 0x10000 < 8) ∧ a ≠ Reg.SVC_EVT

/-- What losing links leaves alone. -/
def linkLoss : Kept := { cores := true, stks := true, mem := true, lands := true, clock := true }

section
variable {s : State}

theorem reportLocal_offLinks {kind index cls detail : Nat} (hcls : cls < 64) :
    BitsKept OffLinks s (reportLocal kind index cls detail s) :=
  fun a i hp => reportLocal_bits kind index detail hcls a i hp.1

theorem bitsKept_lnkEvt {f : Fld} {l : Nat} (hf : f.lo + l % 4 < 32) : BitsKept OffLinks s (lnkEvt f l s) := by
  have hset : BitsKept OffLinks s (s.setBit (Reg.LNKp_EVT (l / 4)) (f.lo + l % 4)) :=
    bitsKept_setBit hf fun h => by unfold OffLinks Reg.LNKp_EVT at h; omega
  refine bitsKept_trans hset (bitsKept_of_keeps (K := { regs := true }) ?_)
  simp [lnkEvt, Keeps.refl]

/-- The neighbour table shows in SVC_EVT and in nothing else of the registers. -/
theorem bitsKept_setNbr {l : Nat} {x : Nbr} : BitsKept OffLinks s (setNbr l x s) := by
  unfold setNbr
  extract_lets boot s1
  have h1 : BitsKept OffLinks s s1 :=
    bitsKept_of_keeps (K := { regs := true }) (by simp [s1, Keeps.refl])
  have h2 := bitsKept_trans h1 (bitsKept_setFlag (a := Reg.SVC_EVT) (f := F.SVC_EVT.NBR) true (by decide)
    fun h => h.2.2 rfl)
  refine bitsKept_trans h2 (bitsKept_of_keeps (K := { regs := true }) ?_)
  simp [Keeps.refl]

theorem linkLeave_bits {l : Nat} {next : LinkState} {loss : Bool} :
    BitsKept OffLinks s (linkLeave l next loss s) := by
  unfold linkLeave
  extract_lets was s1 src s2 s3 s4 s5 nbr s6 s7
  have h2 : BitsKept OffLinks s s2 := bitsKept_of_keeps (K := { regs := true }) (by simp [s2, s1, Keeps.refl])
  have h3 : BitsKept OffLinks s s3 := bitsKept_trans h2 (bitsKept_setFld _ fun i _ _ h => by
    unfold OffLinks Reg.LNKp_LSTATk at h; omega)
  split
  · exact h3
  have h4 : BitsKept OffLinks s s4 := bitsKept_trans h3 (bitsKept_lnkEvt (by show 4 + l % 4 < 32; omega))
  have h5 : BitsKept OffLinks s s5 := by
    show BitsKept OffLinks s (if loss then _ else _)
    split
    · have hcount : BitsKept OffLinks s4 (s4.count (Reg.LNKp_CNT_DOWN (l / 4))) :=
        bitsKept_of_keeps (K := { regs := true }) (by simp [Keeps.refl])
      exact bitsKept_trans h4 (bitsKept_trans hcount (reportLocal_offLinks (by decide)))
    · exact h4
  have h7 : BitsKept OffLinks s s7 := by
    have h6 : BitsKept OffLinks s s6 := bitsKept_trans h5 bitsKept_setNbr
    refine bitsKept_trans h6 (bitsKept_of_keeps (K := { regs := true }) ?_)
    simp [s7, Keeps.refl]
  split
  · refine bitsKept_trans h7 (bitsKept_of_keeps (K := { regs := true }) ?_)
    simp [Keeps.refl]
  · exact h7

end

/-! ### Every link goes down -/

/-- A link that is lost with its clock: down, unless it is so or DISABLED. -/
def loseClock (l : Nat) (s : State) : State :=
  if (s.link l).state == .disabled || (s.link l).state == .down then s else linkLeave l .down true s

/-- The state of a link whose clock is lost. -/
def clockless (x : LinkState) : LinkState := if x = .disabled then .disabled else .down

section
variable {s : State}

theorem clockless_idem (x : LinkState) : clockless (clockless x) = clockless x := by cases x <;> rfl

theorem loseClock_state (l j : Nat) :
    ((loseClock l s).link j).state = if j = l then clockless (s.link l).state else (s.link j).state := by
  unfold loseClock
  split
  next h =>
    split
    next hj =>
      rw [hj]
      rcases Bool.or_eq_true_iff.1 h with h | h <;> rw [eq_of_beq h] <;> rfl
    next => rfl
  next h =>
    have hne : (s.link l).state ≠ .disabled := fun hd => h (by rw [hd]; rfl)
    rw [linkLeave_state, clockless, if_neg hne]

theorem loseClock_bits {l : Nat} : BitsKept OffLinks s (loseClock l s) := by
  unfold loseClock
  split
  · exact bitsKept_refl
  · exact linkLeave_bits

theorem loseClock_keeps {t : State} {l : Nat} (h : Keeps linkLoss s t) : Keeps linkLoss s (loseClock l t) := by
  unfold loseClock
  split
  · exact h
  · exact (linkLeave_keeps rfl).2 h

theorem forEach_loseClock_state (xs : List Nat) (j : Nat) :
    ((forEach xs loseClock s).link j).state = if j ∈ xs then clockless (s.link j).state else (s.link j).state := by
  induction xs generalizing s with
  | nil => rfl
  | cons l xs ih =>
    have hstep : forEach (l :: xs) loseClock s = forEach xs loseClock (loseClock l s) := rfl
    rw [hstep, ih, loseClock_state]
    by_cases hj : j = l
    · subst hj
      rw [if_pos rfl, clockless_idem, ite_self, if_pos List.mem_cons_self]
    · simp only [hj, if_false, List.mem_cons, false_or]

end

/-! ### What the clock status shows -/

section
variable {s : State} {lost seen : Fld}

theorem clkLost_false : clkLost lost seen false s = s.setFlag Reg.GCTL_CLK_STAT lost false := rfl

theorem clkLost_true :
    clkLost lost seen true s = (s.setFlag Reg.GCTL_CLK_STAT lost true).setFlag Reg.GCTL_CLK_STAT seen true := rfl

theorem flag_clkLost {b : Bool} (hlost : lost.lo < 32) (hseen : seen.lo < 32) (hne : lost.lo ≠ seen.lo) :
    (clkLost lost seen b s).flag Reg.GCTL_CLK_STAT lost = b := by
  cases b with
  | false => rw [clkLost_false, State.flag_eq, bit_setFlag_same _ _ _ _ hlost]
  | true => rw [clkLost_true, State.flag_eq, bit_setFlag_ne _ _ _ _ _ hseen hne, bit_setFlag_same _ _ _ _ hlost]

theorem flag_clkSeen (hseen : seen.lo < 32) : (clkLost lost seen true s).flag Reg.GCTL_CLK_STAT seen = true := by
  rw [clkLost_true, State.flag_eq, bit_setFlag_same _ _ _ _ hseen]

theorem reg_clkLost {b : Bool} {a : Nat} (ha : a ≠ Reg.GCTL_CLK_STAT) : (clkLost lost seen b s).reg a = s.reg a := by
  cases b with
  | false => rw [clkLost_false, reg_setFlag_ne _ _ _ ha]
  | true => rw [clkLost_true, reg_setFlag_ne _ _ _ ha, reg_setFlag_ne _ _ _ ha]

theorem clkLost_regs {b : Bool} : clkLost lost seen b s = { s with regs := (clkLost lost seen b s).regs } := by
  cases b <;> rfl

theorem clkLost_link {b : Bool} (j : Nat) : (clkLost lost seen b s).link j = s.link j := by
  cases b <;> rfl

theorem endpointReset_regs :
    endpointReset s = { s with regs := (endpointReset s).regs, pcie := (endpointReset s).pcie } := rfl

theorem endpointReset_window {w : Nat} (hw : w < 4) : (endpointReset s).reg (Reg.GCTL_HWINw w) = 0 := by
  have hfold : (endpointReset s).reg (Reg.GCTL_HWINw w) =
    ((((s.setReg (Reg.GCTL_HWINw 0) 0).setReg (Reg.GCTL_HWINw 1) 0).setReg (Reg.GCTL_HWINw 2) 0).setReg
      (Reg.GCTL_HWINw 3) 0).reg (Reg.GCTL_HWINw w) := rfl
  rw [hfold]
  simp only [State.reg_setReg]
  interval_cases w <;> rfl

end

/-! ### The loss of SERDES_REFCLK -/

section
variable {s : State}

/-- The state as SERDES_REFCLK stops: the package's own oscillator runs the timebase, off by a free value. -/
def onOscillator (s : State) : State :=
  let v := ({ s with lands := { s.lands with intOsc := true } } : State).draw 9
  { v.2 with tsync := { v.2.tsync with osc := ((v.1.toNat % 401 : Nat) : Int) - 200 } }

theorem serdesLoss_eq (hup : s.down = false) : exec .serdesRefclkLoss s =
    .next (forEach (List.range 32) loseClock
      (clkLost F.GCTL_CLK_STAT.SRDS_LOST F.GCTL_CLK_STAT.SRDS_SEEN true (onOscillator s))) := by
  rw [show exec .serdesRefclkLoss s = execSerdesRefclkLoss s from rfl, execSerdesRefclkLoss]
  exact if_neg (ne_true_of_eq_false hup)

theorem serdesLoss_holds (hup : s.down = false) : ∃ t, exec .serdesRefclkLoss s = .next t ∧ t.lands.intOsc = true ∧
    t.flag Reg.GCTL_CLK_STAT F.GCTL_CLK_STAT.SRDS_LOST = true ∧
    t.flag Reg.GCTL_CLK_STAT F.GCTL_CLK_STAT.SRDS_SEEN = true ∧
    (∀ l, l < 32 → (t.link l).state = if (s.link l).state = .disabled then .disabled else .down) ∧
    t.tb = s.tb ∧ -200 ≤ t.tsync.osc ∧ t.tsync.osc ≤ 200 ∧ OutsideSame s t := by
  refine ⟨_, serdesLoss_eq hup, ?_⟩
  generalize hv : clkLost F.GCTL_CLK_STAT.SRDS_LOST F.GCTL_CLK_STAT.SRDS_SEEN true (onOscillator s) = v
  have hkeeps : Keeps linkLoss (onOscillator s) (forEach (List.range 32) loseClock v) :=
    forEach_keeps (fun _ _ h => loseClock_keeps h) (by simp [← hv, linkLoss, Keeps.refl])
  have hbits : BitsKept OffLinks v (forEach (List.range 32) loseClock v) := bitsKept_forEach (fun _ _ => loseClock_bits) v
  have hon : ∀ f : Fld, v.flag Reg.GCTL_CLK_STAT f = true →
      (forEach (List.range 32) loseClock v).flag Reg.GCTL_CLK_STAT f = true := fun f hf =>
    (hbits _ _ (by unfold OffLinks OffFlt; decide)).trans hf
  obtain ⟨-, -, hcores, hstks, hmem, -, -, -, -, hlands, hclock⟩ := hkeeps
  obtain ⟨-, htb, htsync⟩ := hclock rfl
  refine ⟨by rw [hlands rfl]; rfl, hon _ (hv ▸ flag_clkLost (by decide) (by decide) (by decide)),
    hon _ (hv ▸ flag_clkSeen (by decide)), fun l hl => ?_, htb, ?_, ?_, hcores rfl, hstks rfl, hmem rfl⟩
  · rw [forEach_loseClock_state, if_pos (List.mem_range.2 hl), ← hv, clkLost_link]
    rfl
  all_goals
    rw [htsync]
    unfold onOscillator
    dsimp only
    omega

theorem serdesReturn_eq (hup : s.down = false) : exec .serdesRefclkReturn s =
    .next (clkLost F.GCTL_CLK_STAT.SRDS_LOST F.GCTL_CLK_STAT.SRDS_SEEN false
      { s with lands := { s.lands with intOsc := false }, tsync := { s.tsync with osc := 0 } }) := by
  rw [show exec .serdesRefclkReturn s = execSerdesRefclkReturn s from rfl, execSerdesRefclkReturn]
  exact congrArg _ (if_neg (ne_true_of_eq_false hup))

theorem pcieLoss_eq (hup : s.down = false) : exec .pcieRefclkLoss s =
    .next (
      let v := clkLost F.GCTL_CLK_STAT.PCIE_LOST F.GCTL_CLK_STAT.PCIE_SEEN true
        (endpointReset { s with lands := { s.lands with pcieLost := true } })
      { v with pcie := { v.pcie with up := false } }) := by
  rw [show exec .pcieRefclkLoss s = execPcieRefclkLoss s from rfl, execPcieRefclkLoss]
  exact if_neg (ne_true_of_eq_false hup)

theorem pcieReturn_eq (hup : s.down = false) : exec .pcieRefclkReturn s =
    .next (
      let v := clkLost F.GCTL_CLK_STAT.PCIE_LOST F.GCTL_CLK_STAT.PCIE_SEEN false
        { s with lands := { s.lands with pcieLost := false } }
      { v with pcie := { v.pcie with up := true } }) := by
  rw [show exec .pcieRefclkReturn s = execPcieRefclkReturn s from rfl, execPcieRefclkReturn]
  exact if_neg (ne_true_of_eq_false hup)

end

/-- Settles O57: every link that leaves for DOWN takes only the queues of links that stay up with it, so the states are a fold of
`clockless`. -/
theorem clocksAreLostAndReturn : Obligations.ClocksAreLostAndReturn := by
  unfold Obligations.ClocksAreLostAndReturn
  intro s clk
  refine ⟨serdesLoss_holds, fun hup => ⟨_, serdesReturn_eq hup, rfl, ?_, fun a ha => ?_, rfl⟩,
    fun hup => ⟨_, pcieLoss_eq hup, rfl, ?_, ?_, fun w hw => ?_, ?_⟩,
    fun hup => ⟨_, pcieReturn_eq hup, rfl, ?_, rfl⟩, fun hdown => ⟨if_pos hdown, if_pos hdown⟩⟩
  · exact flag_clkLost (by decide) (by decide) (by decide)
  · exact reg_clkLost ha
  · exact flag_clkLost (by decide) (by decide) (by decide)
  · exact flag_clkSeen (by decide)
  · refine (reg_clkLost ?_).trans (endpointReset_window hw)
    unfold Reg.GCTL_HWINw Reg.GCTL_CLK_STAT
    omega
  · rfl
  · exact flag_clkLost (by decide) (by decide) (by decide)

end Sys2Proof.Machine
end

section

/-! ## The fault concentrator's records -/

namespace Sys2Proof.Machine

open Sys2Proof

-- Proofs in turn: each that waits on others while elaborated at once holds a stack, and the check limits the memory.
set_option Elab.async false

/-! ### Writes of registers that feed a vector -/

/-- An accepted whole write of a register that feeds vector n: its effect, and then the vector's level again. -/
theorem ifUp_pathWrite_feeding {p : Path} {a b k n : Nat} {st : List (Nat × Nat)} {idx : List Nat} {v : Word32} {s : State}
    {f : List Nat → Word32 → State → State} (hacc : Accepts p a s)
    (hrow : (regRowAt a).map (fun r => (r.base, r.strides)) = some (b, st)) (hidx : rowIdx st (a - b) = idx)
    (heffect : regEffects.find? (fun e => e.1 == b) = some (k, f)) (hfeeds : feedVec b idx = some n)
    (hrst : a ≠ Reg.GCTL_RST) (hcmd : a ≠ Reg.SVC_MB_CMD) :
    ifUp s (.next (pathWrite p a v s)) = .next (intSettle1 (f idx v s) (s.intCond n) n) := by
  obtain ⟨r, hr, heq⟩ := Option.map_eq_some_iff.1 hrow
  obtain ⟨rfl, hstrides⟩ := Prod.mk.inj heq
  have hup : s.down = false := hacc.1
  have hix : rowIdx r.strides (a - r.base) = idx := hstrides ▸ hidx
  rw [ifUp_eq hup, pathWrite_eq hacc hr hrst hcmd]
  unfold writeEffect
  simp only [hix, hfeeds, heffect]

/-! ### Registers that read zero unless written -/

/-- Where every row that reaches into the range resets to 0, so does every register of it. -/
theorem regReset_zero {lo hi a : Nat} (hlo : lo ≤ a) (hhi : a < hi)
    (hrows : regRows.all (fun r => decide (r.base + strideReach r.strides < lo) || decide (hi ≤ r.base) ||
      (r.base != 0x60104 && r.base != 0x40004 && r.reset == 0)) = true) : regReset a = 0 := by
  unfold regReset
  split
  · rfl
  next r hr =>
    have hmem := List.mem_of_find?_eq_some hr
    have hmeets : meets r.strides r.base a = true := List.find?_some (p := fun r : RegRow => meets r.strides r.base a) hr
    have hrow := List.all_eq_true.1 hrows r hmem
    simp only [Bool.or_eq_true, Bool.and_eq_true, decide_eq_true_eq, bne_iff_ne, beq_iff_eq] at hrow
    rcases hrow with (hbelow | habove) | ⟨⟨hpoint, hvf⟩, hzero⟩
    · rw [meets_of_outside (.inr (by omega))] at hmeets
      cases hmeets
    · rw [meets_of_outside (.inl (by omega))] at hmeets
      cases hmeets
    · rw [beq_eq_false_iff_ne.mpr hpoint, Bool.false_and, if_neg Bool.false_ne_true, beq_eq_false_iff_ne.mpr hvf,
        if_neg Bool.false_ne_true, hzero]

/-- The records of the fault concentrator read zero unless written (Table 17-10). -/
theorem regReset_record {a : Nat} (hlo : 0x31000 ≤ a) (hhi : a < 0x33000) : regReset a = 0 :=
  regReset_zero hlo hhi (by decide +kernel)

/-! ### A record is freed -/

/-- The record's first register. -/
def recordAt (flood : Bool) (i : Nat) : Nat := if flood then Reg.FLT_FLOODc_SUBJ i else Reg.FLT_RECi_SUBJ i

/-- The register of the record's pending bit. -/
def pendAt (flood : Bool) (i : Nat) : Nat := (if flood then Reg.FLT_FPEND_LO else Reg.FLT_PEND_LO) + 4 * (i / 32)

section
variable {s : State} {flood : Bool} {i a : Nat}

theorem recordAt_range (hi : i < 64) : 0x31000 ≤ recordAt flood i ∧ recordAt flood i + 64 ≤ 0x33000 := by
  unfold recordAt Reg.FLT_FLOODc_SUBJ Reg.FLT_RECi_SUBJ
  split <;> omega

theorem pendAt_range (hi : i < 64) : pendAt flood i < 0x31000 := by
  unfold pendAt Reg.FLT_FPEND_LO Reg.FLT_PEND_LO
  split <;> omega

/-- The registers without the record. -/
def withoutRecord (flood : Bool) (i : Nat) (s : State) : State :=
  { s with regs := sdrop (fun a => decide (recordAt flood i ≤ a) && decide (a < recordAt flood i + 0x40)) s.regs }

theorem reg_withoutRecord (hi : i < 64) (a : Nat) : (withoutRecord flood i s).reg a =
    if recordAt flood i ≤ a ∧ a < recordAt flood i + 64 then 0 else s.reg a := by
  obtain ⟨hlo, hhi⟩ := recordAt_range (flood := flood) hi
  have hget : (withoutRecord flood i s).reg a = sget regReset (sdrop (fun a => decide (recordAt flood i ≤ a) &&
    decide (a < recordAt flood i + 0x40)) s.regs) a := rfl
  rw [hget, sget_sdrop, ← Bool.decide_and]
  by_cases hin : recordAt flood i ≤ a ∧ a < recordAt flood i + 64
  · rw [if_pos (decide_eq_true hin), if_pos hin, regReset_record (by omega) (by omega)]
  · rw [if_neg (by rw [decide_eq_false hin]; decide), if_neg hin, State.reg]

/-- What is left for software of a record that is freed: nothing of it, and its pending bit clear. -/
theorem reg_freeRecord (hi : i < 64) (a : Nat) : (freeRecord flood i 0x80000000 s).reg a =
    if a = pendAt flood i then s.reg a &&& ~~~BitVec.ofNat 32 (2 ^ (i % 32))
    else if recordAt flood i ≤ a ∧ a < recordAt flood i + 64 then 0 else s.reg a := by
  obtain ⟨hlo, hhi⟩ := recordAt_range (flood := flood) hi
  have hpend := pendAt_range (flood := flood) hi
  have hregs : (freeRecord flood i 0x80000000 s).reg a =
      ((withoutRecord flood i s).clrBit (pendAt flood i) (i % 32)).reg a := by
    cases flood <;> rfl
  rw [hregs, State.reg_clrBit]
  split
  next h => rw [reg_withoutRecord hi, if_neg (by omega), h]
  next => exact reg_withoutRecord hi a

theorem freeRecord_parts : freeRecord flood i 0x80000000 s =
    { s with regs := (freeRecord flood i 0x80000000 s).regs, faults := (freeRecord flood i 0x80000000 s).faults,
             pcie := (freeRecord flood i 0x80000000 s).pcie } := by
  cases flood <;> rfl

end

/-! ### A record is opened -/

section
variable {r : Report} {i : Nat} {s : State}

/-- What of record i an opened report leaves as it wrote it: SUBJ, CLASS and VALID. -/
def NamesRecord (i a j : Nat) : Prop :=
  a = Reg.FLT_RECi_SUBJ i ∨ (a = Reg.FLT_RECi_CLS i ∧ (j < 8 ∨ j = 31))

theorem openRec_names (hi : i < 64) : BitsKept (NamesRecord i) s (openRec i r s) :=
  openRec_bits fun a j hp ht => by
    unfold NamesRecord at hp
    unfold OpenTouches CountTouches at ht
    unfold Reg.FLT_RECi_SUBJ Reg.FLT_PEND_LO Reg.FLT_STAT at *
    unfold Reg.FLT_RECi_CLS at hp
    rcases ht with (h | h | h | ⟨m, -, h⟩) | h | h | h <;> omega

/-- The record as a report of a new subject and class names it. -/
def namedRecord (i : Nat) (r : Report) (s : State) : State :=
  let b := Reg.FLT_RECi_SUBJ i
  let s := s.setReg b (BitVec.ofNat 32 r.subj)
  let s := s.setReg (b + 4) (BitVec.ofNat 32 (r.cls + 2 ^ 31))
  let s := s.setFlag (b + 4) F.FLT_RECi_CLS.FORWARDED r.remote
  s.setReg (b + 0xC) s.tickLo

theorem report_new (hnew : s.findRec r.subj r.cls = none) (hfree : s.freeRec = some i) :
    report r s = intEvent 0 (openRec i r (namedRecord i r s)) := by
  rw [report, hnew]
  dsimp only
  rw [hfree]
  rfl

theorem pendBit_openRec (hi : i < 64) : (openRec i r s).bit (Reg.FLT_PEND_LO + 4 * (i / 32)) (i % 32) = true := by
  unfold openRec
  extract_lets b s1 s2 s3 s4 s5
  have h5 : s5.bit (Reg.FLT_PEND_LO + 4 * (i / 32)) (i % 32) = true := by
    show (s4.setBit _ _).bit _ _ = true
    rw [State.bit_setBit _ _ _ _ _ (Nat.mod_lt _ (by decide)), decide_eq_true ⟨rfl, rfl⟩, Bool.or_true]
  split
  · exact h5
  · refine (forwardRec_bits (P := fun a _ => a = Reg.FLT_PEND_LO + 4 * (i / 32)) ?_ ?_ _ _ rfl).trans h5
    all_goals
      unfold Reg.FLT_PEND_LO
      first
        | unfold Reg.FLT_RECi_CLS; omega
        | unfold Reg.FLT_STAT; omega

theorem reg_namedRecord_subj : (namedRecord i r s).reg (Reg.FLT_RECi_SUBJ i) = BitVec.ofNat 32 r.subj := by
  unfold namedRecord
  extract_lets b s1 s2 s3
  rw [State.reg_setReg_ne _ _ (by show b ≠ b + 0xC; omega), reg_setFlag_ne _ _ _ (by show b ≠ b + 4; omega),
    State.reg_setReg_ne _ _ (by show b ≠ b + 4; omega)]
  exact State.reg_setReg_same ..

/-- FORWARDED is no bit of CLASS or VALID. -/
theorem bit_namedRecord_cls {j : Nat} (hj : j < 8 ∨ j = 31) : (namedRecord i r s).bit (Reg.FLT_RECi_CLS i) j =
    (BitVec.ofNat 32 (r.cls + 2 ^ 31)).getLsbD j := by
  rw [recCls_addr]
  unfold namedRecord
  extract_lets b s1 s2 s3
  have hflag : s3.bit (b + 4) j = s2.bit (b + 4) j :=
    bit_setFlag_ne _ _ _ _ _ (by decide) (by show j ≠ 18; omega)
  rw [State.bit, State.reg_setReg_ne _ _ (by show b + 4 ≠ b + 0xC; omega)]
  refine hflag.trans ?_
  rw [State.bit, State.reg_setReg_same]

end

/-! ### The statement -/

section
variable {r : Report} {i : Nat} {s : State}

theorem report_names (hnew : s.findRec r.subj r.cls = none) (hfree : s.freeRec = some i) (hcls : r.cls < 64)
    (hsubj : r.subj < 2 ^ 32) :
    let t := report r s
    (t.reg (Reg.FLT_RECi_SUBJ i)).toNat = r.subj ∧ t.fld (Reg.FLT_RECi_CLS i) F.FLT_RECi_CLS.CLASS = r.cls ∧
      t.flag (Reg.FLT_RECi_CLS i) F.FLT_RECi_CLS.VALID = true ∧
      t.bit (Reg.FLT_PEND_LO + 4 * (i / 32)) (i % 32) = true ∧ OutsideSame s t := by
  intro t
  have hi : i < 64 := firstBelow_lt_of_some hfree
  have ht : t = intEvent 0 (openRec i r (namedRecord i r s)) := report_new hnew hfree
  have hregs : ∀ a, t.reg a = (openRec i r (namedRecord i r s)).reg a := fun a => by rw [ht]; rfl
  have hnames : BitsKept (NamesRecord i) (namedRecord i r s) t := fun a j hp => by
    rw [State.bit, hregs]
    exact openRec_names hi a j hp
  refine ⟨?_, ?_, ?_, ?_, ?_⟩
  · rw [bitsKept_reg hnames fun j => .inl rfl, reg_namedRecord_subj, BitVec.toNat_ofNat, Nat.mod_eq_of_lt hsubj]
  · have hget : F.FLT_RECi_CLS.CLASS.get (t.reg (Reg.FLT_RECi_CLS i)) =
        F.FLT_RECi_CLS.CLASS.get (BitVec.ofNat 32 (r.cls + 2 ^ 31)) :=
      Fld.get_congr _ _ _ fun j _ hj => (hnames _ _ (.inr ⟨rfl, .inl hj⟩)).trans (bit_namedRecord_cls (.inl hj))
    refine hget.trans ?_
    rw [show F.FLT_RECi_CLS.CLASS = ⟨0, 8⟩ from rfl, Fld.get, bitsOf, BitVec.toNat_ofNat]
    dsimp only
    omega
  · have hvalid := (hnames _ 31 (.inr ⟨rfl, .inr rfl⟩)).trans (bit_namedRecord_cls (r := r) (s := s) (.inr rfl))
    refine hvalid.trans ?_
    rw [BitVec.getLsbD_ofNat, Nat.add_comm, Nat.testBit_two_pow_add_eq, Nat.testBit_lt_two_pow (by omega)]
    rfl
  · rw [State.bit, hregs]
    exact pendBit_openRec hi
  · exact outside_of_keeps (K := quiet) (by simp [t, quiet, Keeps.refl])

end

section
variable {p : Path} {s : State}

theorem rowIdx_record {a b i : Nat} (h : a = b + i * 0x40) : rowIdx [(64, 0x40)] (a - b) = [i] := by
  rw [rowIdx, rowIdx, h, Nat.add_sub_cancel_left, Nat.mul_div_cancel _ (by decide)]

/-- A write of VALID of record r, or of flood record r − 64, frees it and settles vector 0 (R449, R462). -/
theorem exec_recordFree (r : Fin 128) (hacc : Accepts p (recordAt (decide (64 ≤ r.val)) (r.val % 64) + 4) s) :
    ∃ w, exec (.faultRecordFree p r) s = .next w ∧
      w = { freeRecord (decide (64 ≤ r.val)) (r.val % 64) 0x80000000 s with pcie := w.pcie } := by
  have hrows : ∀ i : Fin 64, (regRowAt (Reg.FLT_RECi_CLS i)).map (fun r => (r.base, r.strides)) =
      some (0x31004, [(64, 0x40)]) ∧ (regRowAt (Reg.FLT_FLOODc_CLS i)).map (fun r => (r.base, r.strides)) =
      some (0x32004, [(64, 0x40)]) := by decide
  by_cases hr : r.val < 64
  · have haddr : recordAt (decide (64 ≤ r.val)) (r.val % 64) + 4 = Reg.FLT_RECi_CLS r.val := by
      rw [decide_eq_false (by omega), Nat.mod_eq_of_lt hr, recordAt, if_neg (by decide), Reg.FLT_RECi_SUBJ,
        Reg.FLT_RECi_CLS]
      omega
    rw [haddr] at hacc
    have hne : ∀ a, a < 0x31000 → Reg.FLT_RECi_CLS r.val ≠ a := fun a ha => by unfold Reg.FLT_RECi_CLS; omega
    refine ⟨intSettle1 (freeRecord false r.val 0x80000000 s) (s.intCond 0) 0, ?_, ?_⟩
    · have hexec : exec (.faultRecordFree p r) s = ifUp s (.next (pathWrite p (Reg.FLT_RECi_CLS r.val) 0x80000000 s)) :=
        by rw [show exec (.faultRecordFree p r) s = execFaultRecordFree p r s from rfl, execFaultRecordFree, if_pos hr]
      refine hexec.trans ?_
      have heffect : ∃ k, regEffects.find? (fun e => e.1 == 0x31004) = some (k, fun ix => freeRecord false (ixAt ix 0)) :=
        ⟨_, rfl⟩
      obtain ⟨k, heffect⟩ := heffect
      have hfeeds : feedVec 0x31004 [r.val] = some 0 := rfl
      exact ifUp_pathWrite_feeding hacc (hrows ⟨r.val, hr⟩).1 (rowIdx_record rfl) heffect hfeeds (hne _ (by decide))
        (hne _ (by decide))
    · rw [decide_eq_false (by omega), Nat.mod_eq_of_lt hr]
      rfl
  · have hi : r.val - 64 < 64 := by omega
    have haddr : recordAt (decide (64 ≤ r.val)) (r.val % 64) + 4 = Reg.FLT_FLOODc_CLS (r.val - 64) := by
      rw [decide_eq_true (by omega), recordAt, if_pos rfl, Reg.FLT_FLOODc_SUBJ, Reg.FLT_FLOODc_CLS]
      omega
    rw [haddr] at hacc
    have hne : ∀ a, a < 0x31000 → Reg.FLT_FLOODc_CLS (r.val - 64) ≠ a := fun a ha => by
      unfold Reg.FLT_FLOODc_CLS; omega
    refine ⟨freeRecord true (r.val - 64) 0x80000000 s, ?_, ?_⟩
    · have hexec : exec (.faultRecordFree p r) s =
          ifUp s (.next (pathWrite p (Reg.FLT_FLOODc_CLS (r.val - 64)) 0x80000000 s)) :=
        by rw [show exec (.faultRecordFree p r) s = execFaultRecordFree p r s from rfl, execFaultRecordFree, if_neg hr]
      refine hexec.trans ?_
      have heffect : ∃ k, regEffects.find? (fun e => e.1 == 0x32004) = some (k, fun ix => freeRecord true (ixAt ix 0)) :=
        ⟨_, rfl⟩
      obtain ⟨k, heffect⟩ := heffect
      have hfeeds : feeds.find? (fun e => e.1 == 0x32004) = none := rfl
      exact ifUp_pathWrite_row hacc (hrows ⟨r.val - 64, hi⟩).2 (rowIdx_record rfl) heffect hfeeds (hne _ (by decide))
        (hne _ (by decide))
    · rw [decide_eq_true (by omega), show r.val % 64 = r.val - 64 by omega]

end

/-- Settles O50: what a record opens with is none of what counting and forwarding note in it (`openRec_names`). -/
theorem faultsAreRecorded : Obligations.FaultsAreRecorded := by
  unfold Obligations.FaultsAreRecorded
  refine ⟨fun r i s hnew hfree hcls hsubj => report_names hnew hfree hcls hsubj, fun l m s v htakes => ?_,
    fun p r s => ?_⟩
  · have hexec : exec (.fault l) s = .next (match v.refuseReason m with
        | some r => sendNack l r m v
        | none => sendAck l m (report ⟨m.bodyAt 32 4, m.bodyAt 36 1 % 64, m.bodyAt 37 1,
            if v.selfIndex.isSome then v.memberIndex m.src else none, true⟩ v)) :=
      (ifUp_eq htakes.up _).trans (htakes.receive _)
    exact ⟨fun h => by rw [hexec, h], fun r h => by rw [hexec, h]⟩
  · intro flood i b pend hacc
    have hb : b = recordAt (decide flood) i := by
      show (if flood then _ else _) = if (decide flood) = true then _ else _
      simp only [decide_eq_true_eq]
    have hpend : pend = pendAt (decide flood) i := by
      show (if flood then _ else _) + _ = (if (decide flood) = true then _ else _) + _
      simp only [decide_eq_true_eq]
    rw [hb] at hacc ⊢
    obtain ⟨w, hw, hparts⟩ := exec_recordFree r hacc
    have hi : i < 64 := Nat.mod_lt _ (by decide)
    have hrange := recordAt_range (flood := decide flood) hi
    have hlow := pendAt_range (flood := decide flood) hi
    have hreg : ∀ a, w.reg a = (freeRecord (decide flood) i 0x80000000 s).reg a := fun a => by rw [hparts]; rfl
    rw [hpend]
    refine ⟨w, hw, fun a hlo hhi => ?_, ?_, fun a hout hne => ?_, ?_⟩
    · rw [hreg, reg_freeRecord hi, if_neg (by omega), if_pos ⟨hlo, hhi⟩]
    · rw [hreg, reg_freeRecord hi, if_pos rfl]
    · rw [hreg, reg_freeRecord hi, if_neg hne, if_neg (by omega)]
    · rw [hparts, freeRecord_parts]

end Sys2Proof.Machine
end

section

/-! ## Messages for this package and for others -/

namespace Sys2Proof.Machine

open Sys2Proof

-- Proofs in turn: each that waits on others while elaborated at once holds a stack, and the check limits the memory.
set_option Elab.async false

section
variable {l : InLink} {m : Msg} {s v : State}

/-- A WRITE or SEND is answered by what stands in its way, or stored (R341). -/
theorem ingressWrite_cases (l : Nat) (m : Msg) (v : State) :
    (∀ r, v.refuseReason m = some r → ingressWrite l m v = sendNack l r m v) ∧
    (∀ e, v.refuseReason m = none → v.ingressErr m.addr m.data.length = some e → ingressWrite l m v = refuseAddr l e m v) ∧
    (v.refuseReason m = none → v.ingressErr m.addr m.data.length = none → ingressWrite l m v = sendAck l m
      (claimArrive m.addr m.data.length (directStore (ingressMaster l) m.addr m.data (v.msgDeadline m) v))) := by
  unfold ingressWrite
  refine ⟨fun r h => by rw [h], fun e h he => ?_, fun h he => ?_⟩
  · rw [h]
    dsimp only
    rw [he]
  · rw [h]
    dsimp only
    rw [he]

theorem featOn_bwrSend (p m' bytes : Nat) (deadline issued : Option Nat) (v : State) (e b : Nat) :
    (bwrSend p m' bytes deadline v issued).featOn e b = v.featOn e b := by
  unfold bwrSend
  split
  · rfl
  · dsimp only
    split <;> split <;> rfl

theorem link_bwrSend (p m' bytes : Nat) (deadline issued : Option Nat) (v : State) (e : Nat) :
    (bwrSend p m' bytes deadline v issued).link e = v.link e := by
  unfold bwrSend
  split
  · rfl
  · dsimp only
    split <;> split <;> rfl

/-- The link point's request of a message that is queued on link e asks with the point's next age. -/
theorem queue_queueOn (e mst : Nat) (m : Msg) (v : State) :
    ((queueOn e mst m v).link e).queue = (v.link e).queue ++
      [{ m with deadline := if v.featOn e 2 then m.deadline else 0,
                req := if !bypasses m.type && listed (8 + e / 4) mst then some (v.point (8 + e / 4)).seen else none }] := by
  unfold queueOn
  extract_lets p asks req v1 m'
  have hfeat : v1.featOn e 2 = v.featOn e 2 := by
    show State.featOn (if asks then _ else _) e 2 = _
    split
    · exact featOn_bwrSend ..
    · rfl
  have hlink : v1.link e = v.link e := by
    show State.link (if asks then _ else _) e = _
    split
    · exact link_bwrSend ..
    · rfl
  rw [State.link_updLink, if_pos rfl, hlink]
  show _ ++ [{ m with deadline := if v1.featOn e 2 then m.deadline else 0, req := req }] = _
  rw [hfeat]

theorem masterStack_ingress (l : Nat) : masterStack (ingressMaster l) = none := by
  unfold masterStack ingressMaster
  split <;> rw [if_neg (by omega), if_neg (by omega)]

theorem sendMsg_onLink {e : Nat} {w : State} {mst : Nat} (hroute : w.route m.dst = .link e)
    (htype : w.typeOn e m.type = true) (hmst : masterStack mst = none) : sendMsg m w (some mst) = queueOn e mst m w := by
  rw [sendMsg, hroute]
  dsimp only
  rw [htype, Bool.not_true, if_neg Bool.false_ne_true, Option.getD_some, hmst]

end

/-- Settles O40: each message that is taken is handled in the state without it. -/
theorem messagesAreServed : Obligations.MessagesAreServed := by
  unfold Obligations.MessagesAreServed
  refine ⟨fun l u m s v => ?_, fun l m s v hup => ⟨fun htake => ?_, fun htake => ?_⟩⟩
  · dsimp only
    have hwrites : ∀ type ins, exec ins s = ifUp s (receive l type (ingressWrite l) s) → Takes type l m s v →
        exec ins s = .next (ingressWrite l m v) := fun type ins hins htakes => by
      rw [hins, ifUp_eq htakes.up, htakes.receive]
    obtain ⟨hrefuse, hill, hstore⟩ := ingressWrite_cases l m v
    refine ⟨fun htakes => ?_, fun htakes => ?_, fun htakes hok haddr bytes bad w hload => ?_, fun r htakes hr => ?_,
      fun htakes htag => ?_, fun htakes htag => ?_, fun htakes htag => ?_⟩
    · rw [hwrites 1 (.linkWrite l) rfl htakes]
      exact ⟨fun r h => by rw [hrefuse r h], fun e h he => by rw [hill e h he], fun h he => by rw [hstore h he]⟩
    · rw [hwrites 4 (.linkSend l) rfl htakes]
      exact ⟨fun r h => by rw [hrefuse r h], fun e h he => by rw [hill e h he], fun h he => by rw [hstore h he]⟩
    · rw [show exec (.linkRead l u) s = execLinkRead l u s from rfl, execLinkRead, ifUp_eq htakes.up, htakes.receive, hok]
      dsimp only
      rw [haddr]
      dsimp only
      rw [hload]
    · rw [show exec (.linkRead l u) s = execLinkRead l u s from rfl, execLinkRead, ifUp_eq htakes.up, htakes.receive, hr]
    · rw [show exec (.rdresp l) s = execRdresp l s from rfl, execRdresp, ifUp_eq htakes.up, htakes.receive]
      dsimp only
      rw [if_pos htag, Nat.mod_mod_of_dvd _ (by decide)]
    · rw [show exec (.ack l) s = execAck l s from rfl, execAck, ifUp_eq htakes.up, htakes.receive]
      dsimp only
      rw [if_pos htag, Nat.mod_mod_of_dvd _ (by decide)]
    · rw [show exec (.nack l) s = execNack l s from rfl, execNack, ifUp_eq htakes.up, htakes.receive]
      dsimp only
      rw [if_pos htag, Nat.mod_mod_of_dvd _ (by decide)]
  · have hforward : exec (.messageForward l) s =
        if m.hops = 0 then .next (v.count (Reg.LNKp_CNT_HOPDROP (portOfLink l)))
        else .next (sendMsg { m with hops := m.hops - 1 } v (some (ingressMaster l))) := by
      rw [show exec (.messageForward l) s = execMessageForward l s from rfl, execMessageForward, ifUp_eq hup, htake]
    refine ⟨fun h => by rw [hforward, if_pos h], fun h => by rw [hforward, if_neg h], fun e h hroute htype => ?_⟩
    dsimp only
    refine ⟨_, by rw [hforward, if_neg h], ?_, ?_⟩
    · exact outside_of_keeps (K := quiet) (by simp [quiet, Keeps.refl])
    · rw [sendMsg_onLink (m := { m with hops := m.hops - 1 }) hroute htype (masterStack_ingress l), queue_queueOn]
  · rw [show exec (.reservedTypeMessage l) s = execReservedTypeMessage l s from rfl, execReservedTypeMessage, ifUp_eq hup,
      htake]

end Sys2Proof.Machine
end

section

/-! ## Messages of the management unit -/

namespace Sys2Proof.Machine

open Sys2Proof

-- Proofs in turn: each that waits on others while elaborated at once holds a stack, and the check limits the memory.
set_option Elab.async false

section
variable {kind : Nat} {l : InLink} {m : Msg} {s v : State}

/-- A message of the management unit that is taken and not refused: acknowledged and acted on where its package is allowed. -/
theorem TakesKind.receiveMgmt (h : TakesKind 0x17 kind l m s v) (hok : v.refuseReason m = none)
    (f : Msg → State → State) : receiveMgmt kind f l s =
      .next (if v.boot.mgmtAllow.contains m.src then f m (sendAck l m v) else sendNack l 3 m v) := by
  obtain ⟨e, hfind, htakes⟩ := h
  unfold Machine.receiveMgmt
  rw [hfind]
  refine (htakes.receive _).trans ?_
  rw [hok]

end

/-- Settles O51: the four operations differ in what they do once their package is allowed. -/
theorem managementMessagesAreServed : Obligations.ManagementMessagesAreServed := by
  unfold Obligations.ManagementMessagesAreServed
  intro l m s v hok
  dsimp only
  have hallowed : ∀ {k ins f}, v.boot.mgmtAllow.contains m.src = true → TakesKind 0x17 k l m s v →
      exec ins s = ifUp s (receiveMgmt k f l s) → exec ins s = .next (f m (sendAck l m v)) := fun hallow h hins => by
    rw [hins, ifUp_eq h.up, h.receiveMgmt hok, if_pos hallow]
  have hother : ∀ {k ins f}, v.boot.mgmtAllow.contains m.src = false → TakesKind 0x17 k l m s v →
      exec ins s = ifUp s (receiveMgmt k f l s) → exec ins s = .next (sendNack l 3 m v) := fun hallow h hins => by
    rw [hins, ifUp_eq h.up, h.receiveMgmt hok, hallow, if_neg Bool.false_ne_true]
  refine ⟨fun h hallow bs x hread => ?_, fun h hallow => by rw [hallowed hallow h rfl],
    fun h hallow => ?_, fun h hallow => hallowed (f := fun _ s => s) hallow h rfl,
    fun hallow => ⟨fun h => hother hallow h rfl, fun h => hother hallow h rfl, fun h => hother hallow h rfl,
      fun h => hother hallow h rfl⟩⟩
  · rw [hallowed hallow h rfl, hread]
  · rw [hallowed hallow h rfl]
    generalize sendAck l m v = w
    by_cases hbusy : w.flag Reg.SVC_MB_STAT F.SVC_MB_STAT.BUSY = true
    · rw [if_pos hbusy, if_pos hbusy, if_neg fun hc => Bool.false_ne_true (hc.1.symm.trans hbusy)]
    · rw [if_neg hbusy, if_neg hbusy]
      dsimp only
      split
      next hrun => rw [if_pos ⟨eq_false_of_ne_true hbusy, hrun⟩, updBoot]
      next hrun => rw [if_neg fun hc => hrun hc.2]

end Sys2Proof.Machine
end

section

/-! ## The host's accesses: windows and registers -/

namespace Sys2Proof.Machine

open Sys2Proof

-- Proofs in turn: each that waits on others while elaborated at once holds a stack, and the check limits the memory.
set_option Elab.async false

/-! ### The record of a refused access -/

section
variable {p : Path} {kind off : Nat} {s : State}

theorem accErr_regs : ∃ r, accErr p kind off s = { s with regs := r } := by
  unfold accErr
  extract_lets hi
  split
  · exact ⟨_, rfl⟩
  · exact ⟨_, rfl⟩

theorem now_accErr : (accErr p kind off s).now = s.now := by
  obtain ⟨r, hr⟩ := accErr_regs (p := p) (kind := kind) (off := off) (s := s)
  rw [hr]

theorem outside_accErr : OutsideSame s (accErr p kind off s) := by
  obtain ⟨r, hr⟩ := accErr_regs (p := p) (kind := kind) (off := off) (s := s)
  rw [hr]
  exact ⟨rfl, rfl, rfl⟩

/-- The word that records a refused access: VALID is its bit 31. -/
theorem getLsbD_record {w : Nat} (hw : w < 2 ^ 31) : (BitVec.ofNat 32 (w + 2 ^ 31)).getLsbD 31 = true := by
  rw [BitVec.getLsbD_ofNat, Nat.add_comm, Nat.testBit_two_pow_add_eq, Nat.testBit_lt_two_pow hw]
  decide

theorem Path.code_lt (p : Path) : p.code < 8 := by cases p <;> decide

/-- A refused access is on record, as the first one or counted with it. -/
theorem accErr_valid (hkind : kind < 16) :
    (accErr p kind off s).flag Reg.GCTL_ACC_ERR_HI F.GCTL_ACC_ERR_HI.VALID = true := by
  unfold accErr
  extract_lets hi
  split
  next hvalid =>
    exact (bitsKept_bump (P := fun _ i => i = 31) 1 (fun i _ hhi (h : i = 31) => by
      rw [h] at hhi; exact absurd hhi (by decide)) _ _ rfl).trans hvalid
  next =>
    have hcode := p.code_lt
    rw [State.flag_eq, State.bit, State.reg_setReg_same]
    exact getLsbD_record (by omega)

/-- The first refused access is on record with its offset and its kind. -/
theorem accErr_first (hfree : s.flag Reg.GCTL_ACC_ERR_HI F.GCTL_ACC_ERR_HI.VALID = false) (hkind : kind < 16) :
    (accErr p kind off s).reg Reg.GCTL_ACC_ERR_LO = BitVec.ofNat 32 (off % 2 ^ 26) ∧
      (accErr p kind off s).fld Reg.GCTL_ACC_ERR_HI F.GCTL_ACC_ERR_HI.KIND = kind := by
  have hcode := p.code_lt
  rw [accErr, hfree, if_neg Bool.false_ne_true]
  refine ⟨?_, ?_⟩
  · rw [State.reg_setReg_ne _ _ (by decide), State.reg_setReg_same]
  · rw [State.fld, State.reg_setReg_same, show F.GCTL_ACC_ERR_HI.KIND = ⟨0, 4⟩ from rfl, Fld.get, bitsOf,
      BitVec.toNat_ofNat]
    dsimp only
    omega

end

/-! ### Accesses through a host window -/

section
variable {off : Word32} {n a : Nat} {s : State} {f : Nat → State → State}

theorem hostWindow_off (hup : s.pcie.up = true) (hn : n ≠ 0) (hoff : s.windowAddr off = none) :
    hostWindow off n f s = .next { s with answer := .ur } := by
  rw [hostWindow, hup, if_neg (by simpa using hn), hoff]
  rfl

theorem hostWindow_refused {e : Nat} (hup : s.pcie.up = true) (hn : n ≠ 0) (haddr : s.windowAddr off = some a)
    (herr : s.svcErr a n = some e) :
    hostWindow off n f s = .next { decodeErr { master := 4 } a e s with answer := .ca } := by
  rw [hostWindow, hup, if_neg (by simpa using hn), haddr]
  dsimp only
  rw [herr]
  rfl

theorem hostWindow_on (hup : s.pcie.up = true) (hn : n ≠ 0) (haddr : s.windowAddr off = some a)
    (hok : s.svcErr a n = none) : hostWindow off n f s = .next (f a s) := by
  rw [hostWindow, hup, if_neg (by simpa using hn), haddr]
  dsimp only
  rw [hok]

theorem advance_now (hup : s.down = false) {t : Nat} (ht : s.now < t) : (s.advance t).now = t := by
  rw [State.advance, if_pos ht, hup, if_neg Bool.false_ne_true]

theorem flag_answer (x : Answer) (s : State) (a : Nat) (f : Fld) : (answer x s).flag a f = s.flag a f := rfl

theorem now_answer (x : Answer) (s : State) : (answer x s).now = s.now := rfl

theorem outside_answer (x : Answer) (s : State) : OutsideSame s (answer x s) := ⟨rfl, rfl, rfl⟩

theorem timeout_eq (hup : s.down = false) : exec (.pcieCompletionTimeout off) s =
    hostWindow off 1 (fun a s => answer .ca (accErr .pcie 3 a (s.advance (s.now + msec 1)))) s := by
  rw [show exec (.pcieCompletionTimeout off) s = execPcieCompletionTimeout off s from rfl, execPcieCompletionTimeout,
    ifUp_eq hup]

theorem timeout_on (hup : s.down = false) (hpcie : s.pcie.up = true) (haddr : s.windowAddr off = some a)
    (hok : s.svcErr a 1 = none) : ∃ t, exec (.pcieCompletionTimeout off) s = .next t ∧ t.answer = .ca ∧
      t.now = s.now + 8000000 ∧ t.flag Reg.GCTL_ACC_ERR_HI F.GCTL_ACC_ERR_HI.VALID = true ∧ OutsideSame s t := by
  have hmsec : msec 1 = 8000000 := by rw [msec, Nat.mul_one]
  rw [timeout_eq hup, hostWindow_on hpcie (by decide) haddr hok]
  have hnow := advance_now hup (t := s.now + msec 1) (by rw [hmsec]; omega)
  have hsame := (advance_same (s.now + msec 1) s).2.2
  rw [hmsec] at hnow hsame ⊢
  generalize s.advance (s.now + 8000000) = v at hnow hsame ⊢
  have hlate : (accErr .pcie 3 a v).now = s.now + 8000000 := now_accErr.trans hnow
  have hvalid : (accErr .pcie 3 a v).flag Reg.GCTL_ACC_ERR_HI F.GCTL_ACC_ERR_HI.VALID = true := accErr_valid (by decide)
  have hout : OutsideSame s (accErr .pcie 3 a v) := hsame.trans outside_accErr
  exact ⟨_, rfl, rfl, (now_answer ..).trans hlate, (flag_answer ..).trans hvalid, hout.trans (outside_answer ..)⟩

end

/-- Settles O52: the window gives the address, and the service controller's decoder the outcome. -/
theorem hostWindowsTranslate : Obligations.HostWindowsTranslate := by
  unfold Obligations.HostWindowsTranslate
  intro off data len u s hup hpcie hdata hlen
  dsimp only
  have hdata' : data.length ≠ 0 := fun h => hdata (List.length_eq_zero_iff.1 h)
  have hwrite : exec (.hostWindowWrite off data) s = _ := ifUp_eq hup _
  have hread : exec (.hostWindowRead off len u) s = _ := ifUp_eq hup _
  refine ⟨fun hoff => ?_, fun hon => ?_⟩
  · have hnone : s.windowAddr off = none := if_neg hoff
    exact ⟨hwrite.trans (hostWindow_off hpcie hdata' hnone), hread.trans (hostWindow_off hpcie hlen hnone),
      (timeout_eq hup).trans (hostWindow_off hpcie (by decide) hnone)⟩
  · have haddr : s.windowAddr off = some _ := if_pos hon
    refine ⟨fun hok => hwrite.trans (hostWindow_on hpcie hdata' haddr hok),
      fun e he => hwrite.trans (hostWindow_refused hpcie hdata' haddr he), fun bs bad v hok hload => ?_,
      fun e he => hread.trans (hostWindow_refused hpcie hlen haddr he), fun hok => ?_⟩
    · refine hread.trans ((hostWindow_on hpcie hlen haddr hok).trans ?_)
      rw [hload]
      rfl
    · exact timeout_on hup hpcie haddr hok

end Sys2Proof.Machine
end

section

/-! ## The host's commands (O53) -/

namespace Sys2Proof.Machine

open Sys2Proof

-- Proofs in turn: each that waits on others while elaborated at once holds a stack, and the check limits the memory.
set_option Elab.async false

/-! ### The endpoint after a function reset -/

section
variable {s : State}

theorem functionReset_eq (c : Fin 3) (hup : s.down = false) : exec (.pcieFunctionReset c) s = .next (endpointReset s) :=
  ifUp_eq hup _

/-- The four windows closed, one after the other. -/
def closeWindows (s : State) : State := (List.range 4).foldl (fun s w => s.setReg (Reg.GCTL_HWINw w) 0) s

theorem closeWindows_reg {a : Nat} (ha : ∀ w, w < 4 → a ≠ Reg.GCTL_HWINw w) : (closeWindows s).reg a = s.reg a :=
  List.foldlRecOn (motive := fun v : State => v.reg a = s.reg a) (List.range 4) _ rfl fun v hv w hw => by
    rw [State.reg_setReg_ne _ _ (ha w (List.mem_range.1 hw)), hv]

theorem endpointReset_reg {a : Nat} (ha : ∀ w, w < 4 → a ≠ Reg.GCTL_HWINw w) : (endpointReset s).reg a = s.reg a :=
  closeWindows_reg ha

theorem endpointReset_parts : endpointReset s = { s with
    regs := (endpointReset s).regs,
    pcie := { s.pcie with
      ident := s.pcieIdent, bars := (endpointReset s).pcie.bars, table := [], unmasked := [], pba := [] } } := by
  have hid : (closeWindows s).reg Reg.GCTL_ID = s.reg Reg.GCTL_ID := closeWindows_reg fun w _ => by
    unfold Reg.GCTL_HWINw Reg.GCTL_ID; omega
  have hident : (closeWindows s).pcieIdent = s.pcieIdent := by
    unfold State.pcieIdent State.fld State.flag State.bit
    rw [hid]
  rw [← hident]
  rfl

end

/-! ### Register writes of any width -/

theorem reg_answer (x : Answer) (s : State) (a : Nat) : (answer x s).reg a = s.reg a := rfl

theorem fld_answer (x : Answer) (s : State) (a : Nat) (f : Fld) : (answer x s).fld a f = s.fld a f := rfl

section
variable {p : Path} {off : BitVec 26} {data : List Byte} {s : State}

theorem registerWrite_eq (hup : s.down = false) (hopen : s.pathOpen p off.toNat = true) (hne : data ≠ [])
    (hlen : data.length ≤ 64) : exec (.registerWrite p off data) s =
      .next { (writeAccess p off.toNat data s).2 with
              answer := accAnswer p (writeAccess p off.toNat data s).1 } := by
  rw [show exec (.registerWrite p off data) s = execRegisterWrite p off data s from rfl, execRegisterWrite, ifUp_eq hup]
  have hgo : (data.isEmpty || decide (64 < data.length) || !s.pathOpen p off.toNat) = false := by
    rw [hopen, decide_eq_false (by omega), List.isEmpty_eq_false_iff.2 hne]
    rfl
  rw [hgo, if_neg Bool.false_ne_true]

theorem writeAccess_whole (hne : data ≠ []) (hin : crosses off.toNat data.length = false) :
    writeAccess p off.toNat data s = (true, forEach (partsOf off.toNat data) (fun w s => writeReg p w.1 w.2.1 w.2.2 s) s) := by
  rw [writeAccess, List.isEmpty_eq_false_iff.2 hne, if_neg Bool.false_ne_true, hin, if_neg Bool.false_ne_true]

theorem writeAccess_crosses (hne : data ≠ []) (hout : crosses off.toNat data.length = true) :
    writeAccess p off.toNat data s = (false, accErr p 2 off.toNat s) := by
  rw [writeAccess, List.isEmpty_eq_false_iff.2 hne, if_neg Bool.false_ne_true, hout, if_pos rfl]

/-- Four bytes at an aligned address are one register, whole. -/
theorem partsOf_word {a : Nat} (ha : a % 4 = 0) (v : Word32) : partsOf a (leBytes 4 v.toNat) = [(a, 15, v)] := by
  have hwords : wordsOf a 4 = [a] := by
    rw [wordsOf, show (a + 4 + 3) / 4 - a / 4 = 1 by omega]
    exact congrArg (fun x => [x]) (show 4 * (a / 4 + 0) = a by omega)
  have hin : ∀ i, i < 4 → (a ≤ a + i ∧ a + i < a + 4) := fun i hi => by omega
  have hbytes : (List.range 4).map (fun i => if a ≤ a + i ∧ a + i < a + 4 then
      (true, (leBytes 4 v.toNat).getD (a + i - a) 0) else (false, 0)) =
      [(true, (leBytes 4 v.toNat).getD 0 0), (true, (leBytes 4 v.toNat).getD 1 0), (true, (leBytes 4 v.toNat).getD 2 0),
        (true, (leBytes 4 v.toNat).getD 3 0)] := by
    simp only [List.range_succ, List.range_zero, List.nil_append, List.cons_append, List.map_cons, List.map_nil,
      Nat.add_sub_cancel_left, if_pos (hin 0 (by omega)), if_pos (hin 1 (by omega)), if_pos (hin 2 (by omega)),
      if_pos (hin 3 (by omega))]
  unfold partsOf
  rw [show (leBytes 4 v.toNat).length = 4 from rfl, hwords, List.map_singleton]
  dsimp only
  rw [hbytes]
  refine congrArg (fun x => [(a, 15, x)]) (BitVec.eq_of_toNat_eq ?_)
  have hv := v.isLt
  have hnat : leNat (leBytes 4 v.toNat) = v.toNat := by
    simp only [leBytes, leNat, BitVec.toNat_ofNat]
    omega
  exact (congrArg (fun x => (BitVec.ofNat 32 x).toNat) hnat).trans (by rw [BitVec.toNat_ofNat, Nat.mod_eq_of_lt hv])

theorem crosses_word {a : Nat} (ha : a % 4 = 0) : crosses a 4 = false := by
  unfold crosses
  rw [bne_eq_false_iff_eq]
  omega

end

/-- Settles O53: a write is refused as a whole or is its parts, of which an aligned word has one. -/
theorem hostCommandsAct : Obligations.HostCommandsAct := by
  unfold Obligations.HostCommandsAct
  refine ⟨fun c s hup => ?_, fun v s hup => ?_, fun p off data s hup hopen hne hlen => ⟨fun hin => ?_, fun hout => ?_⟩,
    fun p off v s hup hopen halign => ?_⟩
  · exact ⟨_, functionReset_eq c hup, fun w hw => endpointReset_window hw, fun a ha => endpointReset_reg ha,
      endpointReset_parts, rfl⟩
  · rw [show exec (.msixUnmask v) s = execMsixUnmask v s from rfl, execMsixUnmask, ifUp_eq hup]
  · rw [registerWrite_eq hup hopen hne hlen, writeAccess_whole hne hin]
    rfl
  · rw [registerWrite_eq hup hopen hne hlen, writeAccess_crosses hne hout]
    have hsame : OutsideSame s (accErr p 2 off.toNat s) := outside_accErr
    refine ⟨_, rfl, ?_, hsame.trans (outside_answer ..), fun hfree => ?_⟩
    · cases p <;> rfl
    · obtain ⟨hlo, hkind⟩ := accErr_first (p := p) (off := off.toNat) hfree (by decide : 2 < 16)
      rw [Nat.mod_eq_of_lt off.isLt] at hlo
      exact ⟨(reg_answer ..).trans hlo, (fld_answer ..).trans hkind⟩
  · have hne : leBytes 4 v.toNat ≠ [] := nofun
    rw [registerWrite_eq hup hopen hne (show 4 ≤ 64 by decide), writeAccess_whole hne (crosses_word halign),
      partsOf_word halign, pathWrite, if_pos hopen]
    rfl

end Sys2Proof.Machine
end

section

/-! ## The management interfaces: SMBus, I3C and SPI -/

namespace Sys2Proof.Machine

open Sys2Proof

-- Proofs in turn: each that waits on others while elaborated at once holds a stack, and the check limits the memory.
set_option Elab.async false

/-! ### SMBus and I3C transactions -/

section
variable {x : SmbXfer} {s : State} {count written : Nat} {f : State → State}

/-- The packet error check does not stand in the transaction's way. -/
def PecPasses (x : SmbXfer) (s : State) : Prop :=
  s.smb.i3c = true ∨ s.flag Reg.MSMB_CFG F.MSMB_CFG.PEC_EN = false ∨ x.pecOk = true

/-- The transaction has the command and the bytes that it is to have. -/
def XferFits (x : SmbXfer) (s : State) (count written : Nat) : Prop :=
  x.knownCode = true ∧ (s.smb.i3c = true → x.hasCode = true) ∧ (s.smb.i3c = false → x.count = count) ∧
    x.bytes.length = written

theorem pecPasses_iff : PecPasses x s ↔
    (!s.smb.i3c && s.flag Reg.MSMB_CFG F.MSMB_CFG.PEC_EN && !x.pecOk) = false := by
  unfold PecPasses
  rw [Bool.and_eq_false_iff, Bool.and_eq_false_iff, Bool.not_eq_false', Bool.not_eq_false', or_assoc]

theorem xferFits_iff : XferFits x s count written ↔
    (!x.knownCode || (s.smb.i3c && !x.hasCode) || (!s.smb.i3c && x.count != count) || x.bytes.length != written) =
      false := by
  unfold XferFits
  rw [Bool.or_eq_false_iff, Bool.or_eq_false_iff, Bool.or_eq_false_iff, and_assoc, and_assoc, Bool.not_eq_false',
    bne_eq_false_iff_eq]
  cases s.smb.i3c <;> simp

theorem smbServe_pec (h : ¬PecPasses x s) : smbServe x count written f s = .next (smbRefuse F.MSMB_STAT.PEC_ERR s) := by
  rw [pecPasses_iff, Bool.not_eq_false] at h
  rw [smbServe, if_pos h]

theorem smbServe_proto (h : PecPasses x s) (hfits : ¬XferFits x s count written) :
    smbServe x count written f s = .next (smbRefuse F.MSMB_STAT.PROTO_ERR s) := by
  rw [xferFits_iff, Bool.not_eq_false] at hfits
  rw [smbServe, pecPasses_iff.1 h, if_neg Bool.false_ne_true, if_pos hfits]

theorem smbServe_serves (h : PecPasses x s) (hfits : XferFits x s count written) :
    smbServe x count written f s = .next (f s) := by
  rw [smbServe, pecPasses_iff.1 h, if_neg Bool.false_ne_true, xferFits_iff.1 hfits, if_neg Bool.false_ne_true]

theorem smbOff_setSmbOff (c d v : Nat) (s : State) :
    (setSmbOff c v s).smbOff d = if d = c then v % 2 ^ 26 else s.smbOff d := sget_sset ..

theorem smbOff_answer (y : Answer) (s : State) (c : Nat) : (answer y s).smbOff c = s.smbOff c := rfl

/-- The offset of every command that has one is set. -/
theorem smbOff_setSmbOffs (v : Nat) {c : Nat} (hc : c = 2 ∨ c = 3 ∨ c = 5) :
    (setSmbOff 5 v (setSmbOff 3 v (setSmbOff 2 v s))).smbOff c = v % 2 ^ 26 := by
  rw [smbOff_setSmbOff, smbOff_setSmbOff, smbOff_setSmbOff]
  rcases hc with rfl | rfl | rfl
  · rw [if_neg (by decide), if_neg (by decide), if_pos rfl]
  · rw [if_neg (by decide), if_pos rfl]
  · rw [if_pos rfl]

/-- Only the answer and the unit's own state differ. -/
def SmbOnly (s t : State) : Prop := ∃ y m, t = { s with answer := y, smb := m }

theorem smbOnly_setSmbOff (c v : Nat) (s : State) : SmbOnly s (setSmbOff c v s) := ⟨_, _, rfl⟩

theorem smbOnly_answer (y : Answer) (s : State) : SmbOnly s (answer y s) := ⟨_, _, rfl⟩

theorem SmbOnly.trans {t u : State} (h : SmbOnly s t) (k : SmbOnly t u) : SmbOnly s u := by
  obtain ⟨y, m, rfl⟩ := h
  obtain ⟨z, n, rfl⟩ := k
  exact ⟨z, n, rfl⟩

theorem SmbOnly.eq {t : State} (h : SmbOnly s t) : t = { s with answer := t.answer, smb := t.smb } := by
  obtain ⟨y, m, rfl⟩ := h
  rfl

theorem smbOnly_setSmbOffs (y : Answer) (v : Nat) :
    SmbOnly s (answer y (setSmbOff 5 v (setSmbOff 3 v (setSmbOff 2 v s)))) :=
  (smbOnly_setSmbOff 2 v s).trans ((smbOnly_setSmbOff 3 v _).trans ((smbOnly_setSmbOff 5 v _).trans (smbOnly_answer y _)))

/-- A read that is served returns its bytes and moves its command's offset on. -/
theorem smbFetch_read {code n : Nat} {bs : List Byte} {v : State}
    (hread : readAccess .smb hostClaimer (s.smbOff code) n s = (some bs, v)) :
    smbFetch code n s = answer (.data bs) (setSmbOff code (s.smbOff code + n) v) := by
  rw [smbFetch, hread]

end

/-- Settles O54: what differs between the commands is what they do once they are served. -/
theorem smbTransactionsAreServed : Obligations.SmbTransactionsAreServed := by
  unfold Obligations.SmbTransactionsAreServed
  refine ⟨fun x s hup => ?_, fun s hup => ⟨ifUp_eq hup _, ifUp_eq hup _, fun setdasa st dyn => ?_, ?_⟩⟩
  · dsimp only
    have hserves : ∀ (ins : Instr) (count written : Nat) (f : State → State) (served : Prop),
        exec ins s = ifUp s (smbServe x count written f s) → (exec ins s = .next (f s) → served) →
        (¬PecPasses x s → exec ins s = .next (smbRefuse F.MSMB_STAT.PEC_ERR s)) ∧
        (PecPasses x s → ¬XferFits x s count written → exec ins s = .next (smbRefuse F.MSMB_STAT.PROTO_ERR s)) ∧
        (PecPasses x s → XferFits x s count written → served) := fun ins count written f served hins hserved => by
      rw [ifUp_eq hup] at hins
      exact ⟨fun h => hins.trans (smbServe_pec h), fun h hf => hins.trans (smbServe_proto h hf),
        fun h hf => hserved (hins.trans (smbServe_serves h hf))⟩
    have hreads : ∀ (ins : Instr) (code n : Nat), exec ins s = .next (smbFetch code n s) → ∀ bs v,
        readAccess .smb hostClaimer (s.smbOff code) n s = (some bs, v) → ∃ t, exec ins s = .next t ∧
          t.answer = .data bs ∧ t.smbOff code = (s.smbOff code + n) % 2 ^ 26 ∧
          t = { v with answer := t.answer, smb := t.smb } := fun ins code n hins bs v hread =>
      ⟨_, hins.trans (congrArg _ (smbFetch_read hread)), rfl,
        by rw [smbOff_answer, smbOff_setSmbOff, if_pos rfl], rfl⟩
    refine ⟨hserves (.smbSetOffset x) 4 4 _ _ rfl fun h => ?_, hserves (.smbRead x) 4 0 _ _ rfl fun h => ?_,
      hserves (.smbRead64 x) 8 0 _ _ rfl fun h => ?_, hserves (.smbWrite x) 4 4 _ _ rfl fun h => ?_,
      hserves (.smbStatus x) 4 0 _ _ rfl fun h => h⟩
    · exact ⟨_, h, rfl, fun c hc => (smbOff_answer ..).trans (smbOff_setSmbOffs _ hc), (smbOnly_setSmbOffs _ _).eq⟩
    · exact hreads _ 2 4 h
    · exact hreads _ 5 8 h
    · intro v hwrite
      refine ⟨answer .done (setSmbOff 3 (s.smbOff 3 + 4) v), ?_, rfl, ?_, rfl⟩
      · rw [h]
        dsimp only
        rw [hwrite]
        rfl
      · rw [smbOff_answer, smbOff_setSmbOff, if_pos rfl]
  · rw [show exec (.i3cDaa setdasa st dyn) s = execI3cDaa setdasa st dyn s from rfl, execI3cDaa, ifUp_eq hup]
    have hjudge : (s.smb.i3c && (!setdasa || st.toNat == s.fld Reg.MSMB_CFG F.MSMB_CFG.ADDR)) = true ↔
        s.smb.i3c = true ∧ (setdasa = true → st.toNat = s.fld Reg.MSMB_CFG F.MSMB_CFG.ADDR) := by
      rw [Bool.and_eq_true, Bool.or_eq_true, beq_iff_eq, Bool.not_eq_true', ← Bool.not_eq_true, imp_iff_not_or]
    simp only [hjudge]
    split
    · cases setdasa <;> rfl
    · rfl
  · rw [show exec .smbusTimeout s = execSmbusTimeout s from rfl, execSmbusTimeout, ifUp_eq hup]
    split
    · exact ⟨_, rfl, rfl⟩
    · obtain ⟨now, tb, tsync, h⟩ := advance_clocks (s.now + msec 25) s
      exact ⟨_, congrArg _ h, rfl⟩

end Sys2Proof.Machine
end

section

/-! ## Management SPI frames (O55) -/

namespace Sys2Proof.Machine

open Sys2Proof

-- Proofs in turn: each that waits on others while elaborated at once holds a stack, and the check limits the memory.
set_option Elab.async false

section
variable {h : MspiHead} {op hb db : Nat} {f : State → State} {s : State}

theorem mspiServe_unknown (hop : mspiKnown h.op = false) : mspiServe h op hb db f s = .next (mspiUnknown s) := by
  rw [mspiServe, hop]
  rfl

theorem mspiServe_serves (hop : mspiKnown h.op = true) (heq : h.op.toNat = op) (hedges : h.edges = 8 * (hb + db)) :
    mspiServe h op hb db f s = .next (f s) := by
  rw [mspiServe, hop, Bool.not_true, if_neg Bool.false_ne_true, if_neg (not_not.2 heq), if_neg (not_not.2 hedges)]

theorem mspiServe_discards (hop : mspiKnown h.op = true) (heq : h.op.toNat = op) (hedges : h.edges ≠ 8 * (hb + db)) :
    mspiServe h op hb db f s = .next (mspiDiscard s) := by
  rw [mspiServe, hop, Bool.not_true, if_neg Bool.false_ne_true, if_neg (not_not.2 heq), if_pos hedges]

theorem mspiKnown_of {n : Nat} (hop : h.op = BitVec.ofNat 4 n) (hlo : 1 ≤ n) (hhi : n ≤ 3) :
    mspiKnown h.op = true ∧ h.op.toNat = n := by
  have hn : h.op.toNat = n := by rw [hop, BitVec.toNat_ofNat, Nat.mod_eq_of_lt (by omega)]
  exact ⟨decide_eq_true (by omega), hn⟩

/-- A frame of no known operation shows OP_ERR and is discarded. -/
theorem mspiUnknown_shows : (mspiUnknown s).flag Reg.MSPI_STAT F.MSPI_STAT.OP_ERR = true ∧
    (mspiUnknown s).answer = .error ∧ OutsideSame s (mspiUnknown s) := by
  have hkept : BitsKept (fun a i => a = Reg.MSPI_STAT ∧ i = 1) (s.setFlag Reg.MSPI_STAT F.MSPI_STAT.OP_ERR)
      (((s.setFlag Reg.MSPI_STAT F.MSPI_STAT.OP_ERR).setFlag Reg.MSPI_STAT F.MSPI_STAT.FRAME_ERR).bump Reg.MSPI_STAT
        F.MSPI_STAT.FRAMES) :=
    bitsKept_trans (bitsKept_setFlag true (by decide) fun hp => absurd hp.2 (by decide))
      (bitsKept_bump 1 fun i (hlo : 8 ≤ i) _ hp => by omega)
  refine ⟨(flag_answer ..).trans ((hkept _ _ ⟨rfl, rfl⟩).trans (bit_setFlag_same _ _ _ _ (by decide))), rfl, ?_⟩
  exact outside_of_keeps (K := quiet) (by simp [mspiUnknown, mspiDiscard, answer, quiet, Keeps.refl])

end

/-- Settles O55: a frame is judged by its operation and its edges before it is served. -/
theorem mspiFramesAreServed : Obligations.MspiFramesAreServed := by
  unfold Obligations.MspiFramesAreServed
  intro h words s hup
  dsimp only
  have hread : exec (.mspiRead h) s = _ := ifUp_eq hup _
  have hwrite : exec (.mspiWrite h words) s = _ := ifUp_eq hup _
  have hstatus : exec (.mspiStatus h) s = _ := ifUp_eq hup _
  rw [show MspiHead.words h = h.len.toNat + 1 from rfl, show MspiHead.addr h = 4 * h.off.toNat from rfl] at hread hwrite
  refine ⟨fun hop hedges hin => ⟨fun bs v hlate hacc => ?_, fun hlate => ?_⟩, fun hop hedges hout => ?_,
    fun hop hedges hlen hin v hacc => ?_, fun hop hlen hoff hedges => ?_, ⟨fun hop hedges => ?_, fun hop hedges => ?_⟩,
    fun hop => ?_⟩
  · obtain ⟨hknown, hone⟩ := mspiKnown_of (n := 1) hop (by decide) (by decide)
    rw [hread, mspiServe_serves hknown hone hedges, hin, if_neg Bool.false_ne_true, hlate, if_neg Bool.false_ne_true, hacc]
    rfl
  · obtain ⟨hknown, hone⟩ := mspiKnown_of (n := 1) hop (by decide) (by decide)
    rw [hread, mspiServe_serves hknown hone hedges, hin, if_neg Bool.false_ne_true, if_pos hlate]
    rfl
  · obtain ⟨hknown, hone⟩ := mspiKnown_of (n := 1) hop (by decide) (by decide)
    rw [hread, mspiServe_serves hknown hone hedges, if_pos hout]
    rfl
  · obtain ⟨hknown, htwo⟩ := mspiKnown_of (n := 2) hop (by decide) (by decide)
    rw [hwrite, mspiServe_serves hknown htwo hedges, if_neg (not_not.2 hlen), hin, if_neg Bool.false_ne_true, hacc]
    rfl
  · obtain ⟨hknown, hthree⟩ := mspiKnown_of (n := 3) hop (by decide) (by decide)
    rw [hstatus, if_neg fun hc => hc.2.elim (· hlen) (· hoff), mspiServe_serves hknown hthree hedges]
    rfl
  · obtain ⟨hknown, hone⟩ := mspiKnown_of (n := 1) hop (by decide) (by decide)
    rw [hread, mspiServe_discards hknown hone hedges]
    rfl
  · obtain ⟨hknown, htwo⟩ := mspiKnown_of (n := 2) hop (by decide) (by decide)
    rw [hwrite, mspiServe_discards hknown htwo hedges]
    rfl
  · have hunknown : mspiKnown h.op = false := decide_eq_false fun hc => by
      rcases hop with hzero | hhigh
      · rw [hzero] at hc
        exact absurd hc.1 (by decide)
      · omega
    exact ⟨_, hread.trans (mspiServe_unknown hunknown), hwrite.trans (mspiServe_unknown hunknown), mspiUnknown_shows⟩

end Sys2Proof.Machine
end

section

/-! ## Identities, frames and training of links -/

namespace Sys2Proof.Machine

open Sys2Proof

-- Proofs in turn: each that waits on others while elaborated at once holds a stack, and the check limits the memory.
set_option Elab.async false

/-! ### A link that becomes active -/

section
variable {s : State} {l : Nat}

theorem linksQueue_of_link {t : State} (hlink : ∀ j, t.link j = s.link j) (hinbox : t.inbox = s.inbox) :
    LinksQueue s t :=
  ⟨fun j => ⟨_, hlink j⟩, fun j _ => hlink j, fun e he => .inl (hinbox ▸ he)⟩

theorem linksQueue_noteNbr : LinksQueue s (noteNbr l s) := by
  unfold noteNbr
  extract_lets old src new first changed s1
  have h1 : LinksQueue s s1 := linksQueue_setNbr
  split
  · exact h1.trans linksQueue_lnkEvt
  · exact h1

/-- Link `x` as it becomes ACTIVE at time `now`. -/
def activeLink (now : Nat) (x : Link) : Link :=
  { x with state := .active, since := now, freed := [0, 0, 0, 0], credit := [0, 0, 0, 0], sent := [0, 0, 0, 0],
           identLeft := 0, lastGood := now }

/-- Does the link become ACTIVE: both its identities are acknowledged. -/
def Link.activates (x : Link) : Bool := x.state == .ident && x.gotAcked && x.sentAcked

theorem linkActivate_stays (h : (s.link l).activates = false) : linkActivate l s = s := by
  unfold Link.activates at h
  refine if_pos ?_
  rw [bne, ← Bool.not_and, ← Bool.not_and, h]
  rfl

theorem linkActivate_becomes (h : (s.link l).activates = true) : ∃ v, LinksQueue v (linkActivate l s) ∧
    v.inbox = s.inbox ∧ ∀ j, v.link j = if j = l then activeLink s.now (s.link l) else s.link j := by
  unfold Link.activates at h
  have hgo : ((s.link l).state != .ident || !(s.link l).gotAcked || !(s.link l).sentAcked) = false := by
    rw [bne, ← Bool.not_and, ← Bool.not_and, h]
    rfl
  refine ⟨updLink l (activeLink s.now) s, ?_, rfl, fun j => State.link_updLink ..⟩
  unfold linkActivate
  extract_lets x s1 back s2
  rw [hgo, if_neg Bool.false_ne_true]
  have h1 : LinksQueue (updLink l (activeLink s.now) s) s1 := by
    refine linksQueue_of_link (fun j => ?_) rfl
    show (linkEnter l .active _).link j = _
    rw [linkEnter, State.link_updLink, State.link_updLink, State.link_updLink, State.link_updLink, if_pos rfl]
    by_cases hj : j = l
    · rw [if_pos hj, if_pos hj]
      rfl
    · rw [if_neg hj, if_neg hj, if_neg hj]
  have h2 : LinksQueue (updLink l (activeLink s.now) s) s2 := h1.trans (linksQueue_noteNbr.trans linksQueue_lnkEvt)
  split
  · exact h2.trans (linksQueue_forEach fun r v => linksQueue_of_same rfl rfl)
  · exact h2

end

/-! ### Routes -/

/-- Strides that repeat every `x` meet nothing between their reach in block 0 and block 1. -/
theorem meets_gap {n x base a : Nat} {t : List (Nat × Nat)} (hlo : base + strideReach t < a) (hhi : a < base + x) :
    meets ((n, x) :: t) base a = false := by
  have hdiv : (a - base) / x = 0 := Nat.div_eq_of_lt (by omega)
  have hmod : (a - base) % x = a - base := Nat.mod_eq_of_lt (by omega)
  rw [meets, strideHit, hdiv, hmod]
  refine Bool.and_eq_false_imp.2 fun _ => Bool.and_eq_false_imp.2 fun _ => Bool.eq_false_iff.2 fun hit => ?_
  have hle := le_strideReach hit
  omega

/-- Does the row lie outside the routes' table: below it, above it, or in blocks of which none reaches into it? -/
def RegRow.offRoutes (r : RegRow) : Bool :=
  decide (r.base + strideReach r.strides < 0x88000) || decide (0x90000 ≤ r.base) ||
    match r.strides with
    | (_, x) :: t => decide (r.base + strideReach t < 0x88000) && decide (0x90000 ≤ r.base + x)
    | [] => false

theorem RegRow.meets_offRoutes {r : RegRow} (h : r.offRoutes = true) {a : Nat} (hlo : 0x88000 ≤ a) (hhi : a < 0x90000) :
    meets r.strides r.base a = false := by
  obtain ⟨base, strides⟩ := r
  unfold RegRow.offRoutes at h
  dsimp only at h ⊢
  simp only [Bool.or_eq_true, decide_eq_true_eq] at h
  rcases h with (hbelow | habove) | hgap
  · exact meets_of_outside (.inr (by omega))
  · exact meets_of_outside (.inl (by omega))
  · split at hgap
    next n x t =>
      rw [Bool.and_eq_true, decide_eq_true_eq, decide_eq_true_eq] at hgap
      exact meets_gap (by omega) (by omega)
    next => cases hgap

/-- The table of the routes has two rows, of LO and of HI. -/
theorem regRows_routes : (regRows.all fun r => r.offRoutes || ((r.base == 0x88000 || r.base == 0x88004) &&
    r.strides == [(4096, 8)])) = true ∧ (regRows.any fun r => r.base == 0x88004 && r.strides == [(4096, 8)]) = true := by
  decide +kernel

theorem meets_route (b : Nat) (d : Fin 4096) : meets [(4096, 8)] b (b + d * 8) = true := by
  rw [meets, strideHit, strideHit, Nat.add_sub_cancel_left, Nat.mul_div_cancel _ (by decide), Nat.mul_mod_left,
    decide_eq_true d.isLt, decide_eq_true (Nat.le_add_right _ _)]
  rfl

/-- The high half of a route's entry has the row of its table. -/
theorem regRowAt_route (d : Fin 4096) :
    (regRowAt (Reg.LNK_RTd_HI d)).map (fun r => (r.base, r.strides)) = some (0x88004, [(4096, 8)]) := by
  obtain ⟨hall, hany⟩ := regRows_routes
  obtain ⟨r, hr, hrow⟩ := List.any_eq_true.1 hany
  rw [Bool.and_eq_true, beq_iff_eq, beq_iff_eq] at hrow
  have hsome : (regRowAt (Reg.LNK_RTd_HI d)).isSome := by
    rw [regRowAt_eq_find, List.find?_isSome]
    exact ⟨r, hr, by rw [hrow.1, hrow.2]; exact meets_route 0x88004 d⟩
  obtain ⟨q, hq⟩ := Option.isSome_iff_exists.1 hsome
  have hmeets : meets q.strides q.base (Reg.LNK_RTd_HI d) = true :=
    List.find?_some (p := fun r : RegRow => meets r.strides r.base (Reg.LNK_RTd_HI d)) hq
  have hplace : Reg.LNK_RTd_HI d = 0x88004 + d * 8 := rfl
  have hd := d.isLt
  have hrows := List.all_eq_true.1 hall q (List.mem_of_find?_eq_some hq)
  rw [Bool.or_eq_true, Bool.and_eq_true, Bool.or_eq_true, beq_iff_eq, beq_iff_eq, beq_iff_eq] at hrows
  rw [hq, Option.map_some]
  rcases hrows with hoff | ⟨hlo | hhi, hstrides⟩
  · rw [q.meets_offRoutes hoff (by omega) (by omega)] at hmeets
    cases hmeets
  · rw [hlo, hstrides, meets, strideHit, strideHit, Bool.and_eq_true, Bool.and_eq_true, beq_iff_eq] at hmeets
    omega
  · rw [hhi, hstrides]

theorem exec_routeStage {p : Path} {d : Fin 4096} {v : Word32} {s : State} (hacc : Accepts p (Reg.LNK_RTd_HI d) s) :
    exec (.routeStage p d v) s = .next (writeRouteHi d v s) := by
  have hne : ∀ a, a < 0x88004 → Reg.LNK_RTd_HI d ≠ a := fun a ha => by unfold Reg.LNK_RTd_HI; omega
  have heffect : ∃ k, regEffects.find? (fun e => e.1 == 0x88004) = some (k, fun ix => writeRouteHi (ixAt ix 0)) := ⟨_, rfl⟩
  obtain ⟨k, heffect⟩ := heffect
  have hfeeds : feeds.find? (fun e => e.1 == 0x88004) = none := rfl
  have hidx : rowIdx [(4096, 8)] (Reg.LNK_RTd_HI d - 0x88004) = [d.val] := by
    rw [show Reg.LNK_RTd_HI d = 0x88004 + d * 8 from rfl, rowIdx, rowIdx, Nat.add_sub_cancel_left,
      Nat.mul_div_cancel _ (by decide)]
  exact ifUp_pathWrite_row hacc (regRowAt_route d) hidx heffect hfeeds (hne _ (by decide)) (hne _ (by decide))

/-- Settles O38: what follows the change of a link's state touches queues of ACTIVE links alone (`LinksQueue`). -/
theorem linksIdentify : Obligations.LinksIdentify := by
  unfold Obligations.LinksIdentify
  refine ⟨fun l s hup hdue => ?_, fun l m s v htakes hl hstate => ⟨?_, fun hrev => ?_⟩, fun l s hident hgot hsent => ?_,
    fun p d v s hacc => ?_⟩
  · rw [show exec (.identSend l) s = execIdentSend l s from rfl, execIdentSend, ifUp_eq hup]
    refine if_pos ?_
    rcases hdue with h | ⟨h, hleft⟩
    · rw [h]; rfl
    · rw [h, Bool.or_eq_true]
      exact .inr (by rw [Bool.and_eq_true, bne_iff_ne]; exact ⟨rfl, hleft⟩)
  · rw [show exec (.ident l) s = execIdent l s from rfl, execIdent, ifUp_eq htakes.up, htakes.receive, if_pos ⟨hl, hstate⟩]
  · unfold takeIdent
    rw [if_pos hrev]
    exact ((linksQueue_lnkEvt.trans linksQueue_reportLocal).state _).trans ((linkLeave_state _).trans (if_pos rfl))
  · have hactive : (s.link l).activates = true := by
      rw [Link.activates, hident, hgot, hsent]
      rfl
    obtain ⟨v, hv, -, hlink⟩ := linkActivate_becomes hactive
    rw [hv.state, hlink, if_pos rfl, activeLink]
  · intro lo
    have hwrite : exec (.routeStage p d v) s = .next (writeRouteHi d v s) := exec_routeStage hacc
    refine ⟨_, hwrite, sget_sset_same (fun _ => none) s.routeStaged d (some (lo.toNat, (v &&& 0x3F).toNat)),
      sget_sset_same (fun _ => none) s.routeLo d none, rfl,
      fun n hn => ?_⟩
    exact sget_sset_ne (fun _ => none) s.routeStaged (some (lo.toNat, (v &&& 0x3F).toNat)) hn

end Sys2Proof.Machine
end

section

/-! ## Frames and training of links -/

namespace Sys2Proof.Machine

open Sys2Proof

-- Proofs in turn: each that waits on others while elaborated at once holds a stack, and the check limits the memory.
set_option Elab.async false

/-! ### A link that changes alone -/

section
variable {s : State} {l : Nat}

/-- One update of a link as time may pass is all that differs. -/
theorem linkBecomes_of {t : State} {x : Link} {now tb : Nat} {tsync : Tsync} (f : Link → Link)
    (ht : t = updLink l f { s with now := now, tb := tb, tsync := tsync }) (hx : f (s.link l) = x) : LinkBecomes l x s t := by
  subst ht
  refine ⟨?_, fun j hj => ?_, rfl⟩
  · rw [State.link_updLink, if_pos rfl, ← hx]
    rfl
  · rw [State.link_updLink, if_neg hj]
    rfl

theorem advance_now_max (hup : s.down = false) (t : Nat) : (s.advance t).now = max s.now t := by
  by_cases ht : s.now < t
  · rw [advance_now hup ht]
    omega
  · rw [State.advance, if_neg ht]
    omega

end

/-! ### Filling a frame -/

section
variable {s : State} {l : Nat}

/-- Filling a slot moves what waits on the link to the wire, and nothing else of it. -/
def FillsFrom (x y : Link) : Prop :=
  y = { x with queue := y.queue, wire := y.wire, wireVc := y.wireVc, sent := y.sent }

theorem fillsFrom_refl (x : Link) : FillsFrom x x := rfl

theorem FillsFrom.trans {x y z : Link} (h : FillsFrom x y) (k : FillsFrom y z) : FillsFrom x z := by
  unfold FillsFrom at *
  rw [k, h]

/-- What filling a frame leaves: the link but for its wire, and the time. -/
def Filled (l : Nat) (s t : State) : Prop := FillsFrom (s.link l) (t.link l) ∧ t.now = s.now

theorem filled_refl : Filled l s s := ⟨fillsFrom_refl _, rfl⟩

theorem Filled.trans {t u : State} (h : Filled l s t) (k : Filled l t u) : Filled l s u :=
  ⟨h.1.trans k.1, k.2.trans h.2⟩

theorem filled_of_links {t : State} (hlinks : t.links = s.links) (hnow : t.now = s.now) : Filled l s t := by
  refine ⟨?_, hnow⟩
  rw [State.link, State.link, hlinks]
  exact fillsFrom_refl _

theorem bwrMiss_filled (kind m p : Nat) : Filled l s (bwrMiss kind m p s) := by
  unfold bwrMiss
  extract_lets s1 s2 s3
  have h2 : Filled l s s2 := filled_of_links rfl rfl
  have h3 : Filled l s2 s3 := by
    show Filled l s2 (if s2.flag Reg.BWR_LASTMISS F.BWR_LASTMISS.VALID then s2 else _)
    split
    · exact filled_refl
    · exact filled_of_links rfl rfl
  exact h2.trans (h3.trans (filled_of_links rfl rfl))

theorem bwrServe_filled (p : Nat) (r : BwrReq) : Filled l s (bwrServe p r s) := by
  unfold bwrServe
  extract_lets late s1
  have h1 : Filled l s s1 := filled_of_links rfl rfl
  split
  · exact h1.trans (bwrMiss_filled _ _ _)
  · exact h1

theorem loadWire_filled (vcs : List Nat) : Filled l s (loadWire l vcs s) := by
  unfold loadWire
  split
  · exact filled_refl
  split
  · exact filled_refl
  next m r hnext =>
    extract_lets out v s1 src s2
    have h1 : Filled l s s1 := by
      cases r with
      | none => exact filled_refl
      | some r => exact bwrServe_filled _ r
    have h2 : Filled l s1 s2 := by
      show Filled l s1 (if m.type = 0x11 then _ else s1)
      split <;> exact filled_refl
    refine h1.trans (h2.trans ⟨?_, rfl⟩)
    rw [State.link_updLink, if_pos rfl]
    rfl

theorem fillSlot_filled (i : Nat) : Filled l s (fillSlot l i s).2 := by
  unfold fillSlot
  extract_lets vcs s1 x
  have h1 : Filled l s s1 := loadWire_filled vcs
  split
  · exact h1
  split
  · refine h1.trans ⟨?_, rfl⟩
    rw [State.link_updLink, if_pos rfl]
    rfl
  · exact h1

/-- The slots of a frame of new flits and the state after it is filled. -/
def fillFrame (l : Nat) (s : State) : List (Option Flit) × State :=
  (List.range 16).foldl (fun (acc : List (Option Flit) × State) i =>
    let (f, s) := fillSlot l i acc.2
    (acc.1 ++ [f], s)) ([], s)

theorem fillFrame_filled : (fillFrame l s).1.length = 16 ∧ Filled l s (fillFrame l s).2 := by
  have hfold : ∀ (is : List Nat) (acc : List (Option Flit) × State), Filled l s acc.2 →
      (is.foldl (fun (acc : List (Option Flit) × State) i =>
        let (f, s) := fillSlot l i acc.2
        (acc.1 ++ [f], s)) acc).1.length = acc.1.length + is.length ∧
      Filled l s (is.foldl (fun (acc : List (Option Flit) × State) i =>
        let (f, s) := fillSlot l i acc.2
        (acc.1 ++ [f], s)) acc).2 := by
    intro is
    induction is with
    | nil => exact fun acc h => ⟨rfl, h⟩
    | cons i is ih =>
      intro acc h
      obtain ⟨hlen, hfill⟩ := ih (acc.1 ++ [(fillSlot l i acc.2).1], (fillSlot l i acc.2).2) (h.trans (fillSlot_filled i))
      refine ⟨hlen.trans ?_, hfill⟩
      rw [List.length_append, List.length_singleton, List.length_cons]
      omega
  exact hfold (List.range 16) ([], s) filled_refl

end

/-! ### Sending a frame -/

section
variable {s : State} {l : LinkId}

/-- A frame as the link of `x` stamps it for the package that `d` tells. -/
def stamped (x : Link) (d : Nat) (f : Frame) : Frame :=
  { f with ackseq := (x.expect + 65535) % 65536, nak := x.nakDue, credit := x.freed,
           crc := Frame.check { f with ackseq := (x.expect + 65535) % 65536, nak := x.nakDue, credit := x.freed } d }

theorem stamped_fields (x : Link) (d : Nat) (f : Frame) : (stamped x d f).ackseq = (x.expect + 65535) % 65536 ∧
    (stamped x d f).nak = x.nakDue ∧ (stamped x d f).credit = x.freed := by
  rw [stamped]
  exact ⟨rfl, rfl, rfl⟩

theorem stamped_slots (x : Link) (d : Nat) (f : Frame) : (stamped x d f).slots = f.slots := by rw [stamped]

theorem stamped_seq (x : Link) (d : Nat) (f : Frame) : (stamped x d f).seq = f.seq := by rw [stamped]

/-- The checksum of a frame is not over itself. -/
theorem stamped_crc (x : Link) (d : Nat) (f : Frame) : (stamped x d f).crc = (stamped x d f).check d := rfl

theorem stamped_congr {x y : Link} (d : Nat) (f : Frame) (h : FillsFrom x y) : stamped y d f = stamped x d f := by
  unfold FillsFrom at h
  rw [h, stamped, stamped]

/-- The package that the CRC of the link's frames is for. -/
def crcFor (l : LinkId) (s : State) : Nat :=
  s.crcPkg l (s.fld (Reg.LNKp_PIDk (l.val / 4) (l.val % 4)) F.LNKp_PIDk.PKG)

/-- The slots of the link's next frame: none while its replay buffer is full. -/
def nextSlots (l : LinkId) (s : State) : List (Option Flit) × State :=
  if decide (512 / s.linksOf (l.val / 4) ≤ (s.link l).replay.length) then (List.replicate 16 none, s) else fillFrame l s

theorem nextSlots_filled : (nextSlots l s).1.length = 16 ∧ Filled l s (nextSlots l s).2 := by
  unfold nextSlots
  split
  · exact ⟨List.length_replicate, filled_refl⟩
  · exact fillFrame_filled

/-- The link's next frame of new flits. -/
def newFrame (l : LinkId) (s : State) : Frame :=
  stamped ((nextSlots l s).2.link l) (crcFor l s) { slots := (nextSlots l s).1, seq := (s.link l).nextSeq, ackseq := 0 }

/-- Link `x` after the new frame `f` is sent at time `now`. -/
def sentNew (now : Nat) (f : Frame) (x : Link) : Link :=
  { x with
    nakDue := false, last := some f, nextSeq := if f.null then x.nextSeq else (x.nextSeq + 1) % 65536,
    replay := if f.null then x.replay else x.replay ++ [(now, f)] }

theorem frameSend_new (hup : s.down = false) (hframed : (s.link l).state.framed = true)
    (hnone : ((s.link l).resend.findSome? fun q => (s.link l).replay.find? fun f => f.2.seq == q) = none) :
    exec (.frameSend l) s = .next (updLink l (sentNew (nextSlots l s).2.now (newFrame l s)) ((nextSlots l s).2.count (Reg.LNKp_CNT_TXFLIT (l.val / 4)) ((nextSlots l s).1.countP (·.isSome)))) := by
  rw [show exec (.frameSend l) s = execFrameSend l s from rfl, execFrameSend, ifUp_eq hup]
  dsimp only
  rw [hframed, Bool.not_true, if_neg Bool.false_ne_true, hnone]
  rfl

theorem frameSend_carries (hup : s.down = false) (hframed : (s.link l).state.framed = true)
    (hnone : ((s.link l).resend.findSome? fun q => (s.link l).replay.find? fun f => f.2.seq == q) = none) :
    ∃ t f, exec (.frameSend l) s = .next t ∧ (t.link l).last = some f ∧ f.slots.length = 16 ∧ f.seq = (s.link l).nextSeq ∧
      f.ackseq = ((s.link l).expect + 65535) % 65536 ∧ f.nak = (s.link l).nakDue ∧ f.credit = (s.link l).freed ∧
      f.crc = f.check (crcFor l s) ∧ (t.link l).nakDue = false ∧
      (t.link l).nextSeq = (if f.null then (s.link l).nextSeq else ((s.link l).nextSeq + 1) % 65536) ∧
      (t.link l).replay = (if f.null then (s.link l).replay else (s.link l).replay ++ [(s.now, f)]) ∧ OutsideSame s t := by
  obtain ⟨hlen, hfill, hnow⟩ := nextSlots_filled (s := s) (l := l)
  have hexec := frameSend_new hup hframed hnone
  have hframe : newFrame l s =
      stamped (s.link l) (crcFor l s) { slots := (nextSlots l s).1, seq := (s.link l).nextSeq, ackseq := 0 } :=
    stamped_congr _ _ hfill
  obtain ⟨hack, hnak, hcredit⟩ := stamped_fields (s.link l) (crcFor l s)
    { slots := (nextSlots l s).1, seq := (s.link l).nextSeq, ackseq := 0 }
  have hcrc := stamped_crc (s.link l) (crcFor l s)
    { slots := (nextSlots l s).1, seq := (s.link l).nextSeq, ackseq := 0 }
  have hslots := stamped_slots (s.link l) (crcFor l s)
    { slots := (nextSlots l s).1, seq := (s.link l).nextSeq, ackseq := 0 }
  have hseq := stamped_seq (s.link l) (crcFor l s)
    { slots := (nextSlots l s).1, seq := (s.link l).nextSeq, ackseq := 0 }
  rw [← hframe] at hack hnak hcredit hcrc hslots hseq
  have hout : ∀ t, exec (.frameSend l) s = .next t → OutsideSame s t := fun t ht =>
    outside_of_keeps (K := quiet) (execFrameSend_keeps (K := quiet) rfl rfl .refl t ht)
  unfold FillsFrom at hfill
  have hnext : ((nextSlots l s).2.link l).nextSeq = (s.link l).nextSeq := (congrArg Link.nextSeq hfill :)
  have hreplay : ((nextSlots l s).2.link l).replay = (s.link l).replay := (congrArg Link.replay hfill :)
  have hlink : ∀ n a, (updLink l (sentNew (nextSlots l s).2.now (newFrame l s)) ((nextSlots l s).2.count a n)).link l =
      sentNew s.now (newFrame l s) ((nextSlots l s).2.link l) := fun n a => by
    rw [State.link_updLink, if_pos rfl, hnow]
    rfl
  refine ⟨_, newFrame l s, hexec, ?_⟩
  rw [hlink]
  refine ⟨rfl, hslots ▸ hlen, hseq, hack, hnak, hcredit, hcrc, rfl, ?_, ?_, hout _ hexec⟩
  · rw [sentNew, hnext]
  · rw [sentNew, hreplay]

/-- Link `x` after frame `f` is sent again, as `g`, at time `now`. -/
def sentAgain (now : Nat) (f g : Frame) (x : Link) : Link :=
  { x with
    resend := (x.resend.dropWhile (· != f.seq)).tail, nakDue := false, last := some g,
    replays := sset (fun _ => 0) x.replays f.seq (sget (fun _ => 0) x.replays f.seq + 1),
    replay := x.replay.map fun h => if h.2.seq = f.seq then (now, g) else h }

theorem frameSend_again {at_ : Nat} {f : Frame} (hup : s.down = false) (hframed : (s.link l).state.framed = true)
    (hsome : ((s.link l).resend.findSome? fun q => (s.link l).replay.find? fun f => f.2.seq == q) = some (at_, f))
    (hfew : sget (fun _ => 0) (s.link l).replays f.seq < 7) :
    exec (.frameSend l) s = .next (updLink l (sentAgain s.now f (stamped (s.link l) (crcFor l s) f))
      (s.count (Reg.LNKp_CNT_REPLAY (l.val / 4)))) := by
  rw [show exec (.frameSend l) s = execFrameSend l s from rfl, execFrameSend, ifUp_eq hup]
  dsimp only
  rw [hframed, Bool.not_true, if_neg Bool.false_ne_true, hsome]
  dsimp only
  have hn : decide (8 ≤ sget (fun _ => 0) (s.link l).replays f.seq + 1) = false := decide_eq_false (by omega)
  rw [hn, Bool.false_and, if_neg Bool.false_ne_true]
  rfl

end

/-! ### Receiving a frame -/

section
variable {s : State} {l : LinkId} {fr : Frame} {fixed : Nat} {bad : Bool}

/-- A frame that fails its checks is counted, and draws a NAK. -/
theorem frameReceive_bad (hup : s.down = false) (hframed : (s.link l).state.framed = true)
    (hbad : (!bad && s.crcFits l fr) = false) : ∃ v, exec (.frameReceive l fr fixed bad) s =
      .next (startNak l (v.count (Reg.LNKp_CNT_CRC (l.val / 4)))) ∧
      v.liveAt (Reg.LNKp_CNT_CRC (l.val / 4)) = s.liveAt (Reg.LNKp_CNT_CRC (l.val / 4)) ∧ v.link l = s.link l ∧
      v.now = s.now ∧ OutsideSame s v := by
  have hcond : ∀ v : State, v.crcFits l fr = s.crcFits l fr → (bad || !v.crcFits l fr) = true := fun v hv => by
    rw [hv]
    rcases Bool.and_eq_false_iff.1 hbad with h | h
    · rw [(Bool.not_eq_false' _).mp h, Bool.true_or]
    · rw [h, Bool.not_false, Bool.or_true]
  have hlive : ∀ (v : State) (a n : Nat), Reg.LNKp_CNT_CRC (l.val / 4) ≠ a →
      (v.count a n).liveAt (Reg.LNKp_CNT_CRC (l.val / 4)) = v.liveAt (Reg.LNKp_CNT_CRC (l.val / 4)) := fun v a n ha => by
    rw [State.liveAt_count, if_neg ha]
  have hfecc : Reg.LNKp_CNT_CRC (l.val / 4) ≠ Reg.LNKp_CNT_FECC (l.val / 4) := by
    unfold Reg.LNKp_CNT_CRC Reg.LNKp_CNT_FECC; omega
  have hfecu : Reg.LNKp_CNT_CRC (l.val / 4) ≠ Reg.LNKp_CNT_FECU (l.val / 4) := by
    unfold Reg.LNKp_CNT_CRC Reg.LNKp_CNT_FECU; omega
  rw [show exec (.frameReceive l fr fixed bad) s = execFrameReceive l fr fixed bad s from rfl, execFrameReceive, ifUp_eq hup]
  dsimp only
  rw [hframed, Bool.not_true, if_neg Bool.false_ne_true]
  cases bad with
  | true =>
    rw [if_pos rfl, Bool.true_or, if_pos rfl]
    exact ⟨_, rfl, (hlive _ _ _ hfecu).trans (hlive _ _ _ hfecc), rfl, rfl, rfl, rfl, rfl⟩
  | false =>
    rw [if_neg Bool.false_ne_true, if_pos (hcond (s.count (Reg.LNKp_CNT_FECC (l.val / 4)) fixed) rfl)]
    exact ⟨_, rfl, hlive _ _ _ hfecc, rfl, rfl, rfl, rfl, rfl⟩

/-- A frame that passes its checks: its trailer is taken, and its flits if it is the expected one. -/
theorem frameReceive_good (hup : s.down = false) (hframed : (s.link l).state.framed = true)
    (hgood : (!bad && s.crcFits l fr) = true) :
    let v := linkActivate l (takeTrailer l fr (s.count (Reg.LNKp_CNT_FECC (l.val / 4)) fixed))
    let flits := fr.slots.filterMap id
    exec (.frameReceive l fr fixed bad) s = .next (if fr.null then v else if fr.seq ≠ (v.link l).expect then startNak l v
      else forEach flits (takeFlit l) ((updLink l (fun x =>
        { x with expect := (x.expect + 1) % 65536, nakWait := false, nakDue := false }) v).count
          (Reg.LNKp_CNT_RXFLIT (l.val / 4)) flits.length)) := by
  intro v flits
  obtain ⟨hbad, hfits⟩ := Bool.and_eq_true_iff.1 hgood
  have hfits' : (s.count (Reg.LNKp_CNT_FECC (l.val / 4)) fixed).crcFits l fr = true := hfits
  rw [show exec (.frameReceive l fr fixed bad) s = execFrameReceive l fr fixed bad s from rfl, execFrameReceive, ifUp_eq hup]
  dsimp only
  rw [hframed, Bool.not_true, if_neg Bool.false_ne_true, (Bool.not_eq_true' _).mp hbad, if_neg Bool.false_ne_true, hfits',
    Bool.not_true, Bool.or_false, if_neg Bool.false_ne_true]
  simp only [bne_iff_ne]
  split
  · rfl
  · split <;> rfl

theorem expect_linkActivate : ((linkActivate l s).link l).expect = (s.link l).expect := by
  cases h : (s.link l).activates with
  | false => rw [linkActivate_stays h]
  | true =>
    obtain ⟨v, hv, -, hlink⟩ := linkActivate_becomes h
    obtain ⟨q, hq⟩ := hv.1 l
    rw [hq, hlink, if_pos rfl, activeLink]

theorem expect_takeTrailer : ((takeTrailer l fr s).link l).expect = (s.link l).expect := by
  unfold takeTrailer
  rw [State.link_updLink, if_pos rfl]

end

/-- Settles O39: filling a frame moves messages to the wire and leaves the rest of the link (`FillsFrom`). -/
theorem framesCarryFlits : Obligations.FramesCarryFlits := by
  unfold Obligations.FramesCarryFlits
  intro l s hup
  dsimp only
  refine ⟨fun hframed hnone => ?_, fun at_ f hframed hsome hfew => ?_, fun fr fixed bad hframed => ?_,
    fun f rest hreplay => ?_, fun hwait => ?_⟩
  · exact frameSend_carries hup hframed hnone
  · refine ⟨_, stamped (s.link l) (crcFor l s) f, frameSend_again hup hframed hsome hfew, ?_⟩
    rw [State.link_updLink, if_pos rfl]
    exact ⟨rfl, stamped_slots .., stamped_seq .., rfl, rfl, rfl, rfl⟩
  · have hexpect : ∀ v, v = linkActivate l (takeTrailer l fr (s.count (Reg.LNKp_CNT_FECC (l.val / 4)) fixed)) →
        (v.link l).expect = (s.link l).expect := fun v hv => by
      rw [hv, expect_linkActivate, expect_takeTrailer]
      rfl
    refine ⟨fun hbad => ?_, fun hgood hnull => ?_, fun hgood hnull hseq => ?_, fun hgood hnull hseq => ?_⟩
    · obtain ⟨v, hexec, hlive, hlink, hnow, hout⟩ := frameReceive_bad (fixed := fixed) hup hframed hbad
      refine ⟨_, hexec, hout, ?_, ?_⟩
      · have hnak : ∀ a, (startNak l (v.count (Reg.LNKp_CNT_CRC (l.val / 4)))).liveAt a =
            (v.count (Reg.LNKp_CNT_CRC (l.val / 4))).liveAt a := fun a => updLink_liveAt ..
        rw [hnak, State.liveAt_count, if_pos rfl, hlive]
      · rw [startNak, State.link_updLink, if_pos rfl]
        have hl : (v.count (Reg.LNKp_CNT_CRC (l.val / 4))).link l = s.link l := hlink
        have hn : (v.count (Reg.LNKp_CNT_CRC (l.val / 4))).now = s.now := hnow
        rw [hl, hn]
    · rw [frameReceive_good hup hframed hgood, if_pos hnull]
    · rw [frameReceive_good hup hframed hgood, hnull, if_neg Bool.false_ne_true, hexpect _ rfl, if_pos hseq]
    · rw [frameReceive_good hup hframed hgood, hnull, if_neg Bool.false_ne_true, hexpect _ rfl, if_neg (not_not.2 hseq)]
  · have hexec : exec (.replayTimeout l) s = .next (updLink l (fun x => { x with resend := x.replay.map (·.2.seq) })
        (s.advance (f.1 + usec (s.fld Reg.LNK_TSYNC F.LNK_TSYNC.RTO)))) := by
      rw [show exec (.replayTimeout l) s = execReplayTimeout l s from rfl, execReplayTimeout, ifUp_eq hup]
      dsimp only
      rw [hreplay]
    obtain ⟨now, tb, tsync, h⟩ := advance_clocks (f.1 + usec (s.fld Reg.LNK_TSYNC F.LNK_TSYNC.RTO)) s
    rw [h] at hexec
    exact ⟨_, hexec, linkBecomes_of (fun x => { x with resend := x.replay.map (·.2.seq) }) rfl rfl⟩
  · have hexec : exec (.nakResend l) s = .next (updLink l (fun x =>
        { x with nakAt := (s.advance ((s.link l).nakAt + 2048)).now, nakDue := true })
        (s.advance ((s.link l).nakAt + 2048))) := by
      rw [show exec (.nakResend l) s = execNakResend l s from rfl, execNakResend, ifUp_eq hup]
      dsimp only
      rw [hwait, Bool.not_true, if_neg Bool.false_ne_true]
    have hnow := advance_now_max hup ((s.link l).nakAt + 2048)
    obtain ⟨now, tb, tsync, h⟩ := advance_clocks ((s.link l).nakAt + 2048) s
    rw [h] at hnow hexec
    exact ⟨_, hexec, hnow, linkBecomes_of (fun x => { x with nakAt := now, nakDue := true }) rfl rfl⟩

end Sys2Proof.Machine
end

section

/-! ## Training, loss and control of links (O37) -/

namespace Sys2Proof.Machine

open Sys2Proof

-- Proofs in turn: each that waits on others while elaborated at once holds a stack, and the check limits the memory.
set_option Elab.async false

/-! ### Training -/

section
variable {s : State} {l : Nat}

/-- A link that enters a state after an update of its own: one update of the link. -/
theorem linkEnter_updLink (st : LinkState) (f : Link → Link) (v : State) :
    LinkBecomes l { f (v.link l) with state := st, since := v.now } v (linkEnter l st (updLink l f v)) := by
  refine ⟨?_, fun j hj => ?_, rfl⟩
  · rw [linkEnter, State.link_updLink, if_pos rfl, State.link_updLink, if_pos rfl]
    rfl
  · rw [linkEnter, State.link_updLink, if_neg hj, State.link_updLink, if_neg hj]

theorem trains {ins : Instr} {st : LinkState} {f : Link → Link} (h : exec ins s = .next (linkEnter l st (updLink l f s))) :
    ∃ t, exec ins s = .next t ∧ t.now = s.now ∧ LinkBecomes l { f (s.link l) with state := st, since := s.now } s t :=
  ⟨_, h, rfl, linkEnter_updLink st f s⟩

end

section
variable {l : LinkId} {s : State}

theorem linkDetect_trains (hup : s.down = false) (hstate : (s.link l).state = .detect) (hclock : s.lands.intOsc = false) :
    exec (.linkDetect l) s = .next (linkEnter l .train (updLink l (fun x => { x with
      tryLanes := (laneSets (16 / s.linksOf (l.val / 4))).headD [],
      tries := if s.flag (Reg.LNKp_CTL (l.val / 4)) F.LNKp_CTL.DEGRADE_EN && s.degradeOn l
        then (laneSets (16 / s.linksOf (l.val / 4))).tail else [] }) s)) := by
  rw [show exec (.linkDetect l) s = execLinkDetect l s from rfl, execLinkDetect, ifUp_eq hup, hstate, hclock]
  rfl

theorem linkTrainDone_aligns (hup : s.down = false) (hstate : (s.link l).state = .train) :
    exec (.linkTrainDone l) s =
      .next (linkEnter l .align (updLink l (fun x => { x with lanes := x.tryLanes.length, tries := [] }) s)) := by
  rw [show exec (.linkTrainDone l) s = execLinkTrainDone l s from rfl, execLinkTrainDone, ifUp_eq hup, hstate]
  rfl

theorem linkTrainFail_narrows {set : List Nat} {rest : List (List Nat)} (hup : s.down = false)
    (hstate : (s.link l).state = .train) (htries : (s.link l).tries = set :: rest) :
    exec (.linkTrainFail l false) s =
      .next (linkEnter l .train (updLink l (fun x => { x with tryLanes := set, tries := rest }) s)) := by
  rw [show exec (.linkTrainFail l false) s = execLinkTrainFail l false s from rfl, execLinkTrainFail, ifUp_eq hup, hstate,
    if_neg (by decide), if_neg Bool.false_ne_true]
  dsimp only
  rw [htries]

theorem linkTrainFail_gives (bad : Bool) (hup : s.down = false) (hstate : (s.link l).state = .train)
    (htries : (s.link l).tries = []) : exec (.linkTrainFail l bad) s =
      .next (linkLeave l .down false (if bad then splitErr (l.val / 4) s else s)) := by
  have hlink : (if bad then splitErr (l.val / 4) s else s).link l = s.link l := by
    cases bad <;> rfl
  rw [show exec (.linkTrainFail l bad) s = execLinkTrainFail l bad s from rfl, execLinkTrainFail, ifUp_eq hup, hstate,
    if_neg (by decide)]
  dsimp only
  rw [hlink, htries]

theorem linkDownExpiry_eq (hup : s.down = false) (hstate : (s.link l).state = .down) :
    exec (.linkDownExpiry l) s = .next (linkEnter l (if s.portOn (l.val / 4) && s.linkExists l then .detect else .disabled)
      (s.advance ((s.link l).since + msec 10))) := by
  rw [show exec (.linkDownExpiry l) s = execLinkDownExpiry l s from rfl, execLinkDownExpiry, ifUp_eq hup]
  dsimp only
  rw [hstate, if_neg (by decide)]
  obtain ⟨now, tb, tsync, h⟩ := advance_clocks ((s.link l).since + msec 10) s
  rw [h]
  rfl

theorem linkDownExpiry_restarts (hup : s.down = false) (hstate : (s.link l).state = .down) :
    ∃ t, exec (.linkDownExpiry l) s = .next t ∧ t.now = max s.now ((s.link l).since + 80000000) ∧
      LinkBecomes l { s.link l with
        state := if s.portOn (l.val / 4) && s.linkExists l then .detect else .disabled, since := t.now } s t := by
  have hmsec : msec 10 = 80000000 := by rw [msec]
  have hexec := linkDownExpiry_eq hup hstate
  rw [hmsec] at hexec
  have hnow := advance_now_max hup ((s.link l).since + 80000000)
  obtain ⟨now, tb, tsync, h⟩ := advance_clocks ((s.link l).since + 80000000) s
  rw [h] at hexec hnow
  exact ⟨_, hexec, hnow, linkBecomes_of (fun x => { x with
    state := if s.portOn (l.val / 4) && s.linkExists l then .detect else .disabled, since := now }) rfl rfl⟩

theorem linkAligned_idents (hup : s.down = false) (hstate : (s.link l).state = .align) :
    exec (.linkAligned l) s = .next (linkEnter l .ident (updLink l (fun x =>
      { x with identAt := s.now, identLeft := 1, lastGood := s.now }) s)) := by
  rw [show exec (.linkAligned l) s = execLinkAligned l s from rfl, execLinkAligned, ifUp_eq hup, hstate]
  rfl

theorem linkLoss_clears (hup : s.down = false) (hstate : (s.link l).state = .active) : ∃ t,
    exec (.linkLoss l) s = .next t ∧ t.link l = { Link.reset with state := .down, since := s.now, lost := true } ∧
      (∀ e ∈ t.inbox, e.1 ≠ l.val) ∧ OutsideSame s t := by
  have hexec : exec (.linkLoss l) s = .next (linkLeave l .down true s) := by
    rw [show exec (.linkLoss l) s = execLinkLoss l s from rfl, execLinkLoss, ifUp_eq hup, hstate]
    rfl
  obtain ⟨v, hv, -, hinbox, hlink⟩ := linkLeave_becomes (s := s) (l := l.val) (next := .down) (loss := true)
  have hdown : (v.link l).state ≠ .active := by
    rw [hlink, leftLink]
    exact LinkState.noConfusion
  refine ⟨_, hexec, ?_, fun e he => ?_, outside_of_keeps (K := quiet) (by simp [quiet, Keeps.refl])⟩
  · rw [hv.2.1 _ hdown, hlink, leftLink, hstate, beq_self_eq_true, Bool.or_true]
  · rcases hv.2.2 e he with hmem | hself
    · exact (hinbox e hmem).2
    · have hl := l.isLt
      omega

end

/-! ### A port's control register -/

section
variable {s : State} {xs : List Nat}

/-- Every link of the list is left for state `next`. -/
theorem state_leaveAll {next : LinkState} (j : Nat) :
    ((forEach xs (fun l s => linkLeave l next false s) s).link j).state =
      if j ∈ xs then next else (s.link j).state := by
  induction xs generalizing s with
  | nil => rfl
  | cons l xs ih =>
    have hstep : forEach (l :: xs) (fun l s => linkLeave l next false s) s =
      forEach xs (fun l s => linkLeave l next false s) (linkLeave l next false s) := rfl
    rw [hstep, ih, linkLeave_state]
    by_cases hj : j = l
    · rw [if_pos hj, ite_self, if_pos (hj ▸ List.mem_cons_self)]
    · rw [if_neg hj]
      simp only [List.mem_cons, hj, false_or]

/-- A DISABLED link of a port that is enabled lets itself be detected. -/
def detectIf (l : Nat) (s : State) : State := if (s.link l).state == .disabled then linkEnter l .detect s else s

theorem detectIf_parts (l : Nat) : detectIf l s = { s with links := (detectIf l s).links } := by
  unfold detectIf
  split <;> rfl

theorem detectIf_link (l j : Nat) : (detectIf l s).link j =
    if j = l ∧ (s.link j).state = .disabled then { s.link j with state := .detect, since := s.now } else s.link j := by
  unfold detectIf
  split
  next h =>
    rw [linkEnter, State.link_updLink]
    by_cases hj : j = l
    · rw [if_pos hj, if_pos ⟨hj, hj ▸ eq_of_beq h⟩, hj]
    · rw [if_neg hj, if_neg fun hc => hj hc.1]
  next h =>
    rw [if_neg]
    rintro ⟨rfl, hd⟩
    exact h (beq_iff_eq.2 hd)

theorem forEach_detectIf_link (j : Nat) : (forEach xs detectIf s).link j =
    if j ∈ xs ∧ (s.link j).state = .disabled then { s.link j with state := .detect, since := s.now } else s.link j := by
  induction xs generalizing s with
  | nil => simp [forEach]
  | cons l xs ih =>
    have hstep : forEach (l :: xs) detectIf s = forEach xs detectIf (detectIf l s) := rfl
    have hnow : (detectIf l s).now = s.now := by rw [detectIf_parts]
    rw [hstep, ih, hnow, detectIf_link]
    by_cases hd : (s.link j).state = .disabled
    · by_cases hj : j = l
      · rw [if_pos (⟨hj, hd⟩ : j = l ∧ _), if_neg fun hc => LinkState.noConfusion hc.2,
          if_pos (⟨hj ▸ List.mem_cons_self, hd⟩ : j ∈ l :: xs ∧ _)]
      · rw [if_neg (fun hc => hj hc.1 : ¬(j = l ∧ _))]
        simp only [List.mem_cons, hj, false_or]
    · rw [if_neg (fun hc => hd hc.2 : ¬(j = l ∧ _)), if_neg fun hc => hd hc.2, if_neg fun hc => hd hc.2]

end

/-! ### Writes of a port's control register -/

section
variable {s : State} {p : Nat} {v : Word32}

/-- The value the port's control register takes: IE, DEGRADE_EN and ENABLE as written, SPLIT only while the port is off. -/
def lnkCtlWord (p : Nat) (v : Word32) (s : State) : Word32 :=
  let w := (s.reg (Reg.LNKp_CTL p) &&& 0x6) ||| (v &&& 0x29)
  if !s.portOn p && !v.getLsbD 0 && F.LNKp_CTL.SPLIT.get v != 3 then F.LNKp_CTL.SPLIT.put w (F.LNKp_CTL.SPLIT.get v) else w

/-- The port's links as they follow its ENABLE. -/
def followEnable (was on : Bool) (xs : List Nat) (s : State) : State :=
  if was && !on then forEach xs (fun l s => linkLeave l .disabled false s) s
  else if !was && on then forEach xs detectIf s else s

/-- The links of port p that its split makes. -/
def portLinks (p : Nat) (s : State) : List Nat := (List.range (s.linksOf p)).map (4 * p + ·)

theorem writeLnkCtl_eq : writeLnkCtl p v s =
    (let t := s.setReg (Reg.LNKp_CTL p) (lnkCtlWord p v s)
     let u := followEnable (s.portOn p) (v.getLsbD 0) (portLinks p t) t
     if v.getLsbD 4 then forEach (portLinks p t) (fun l s => linkLeave l .down false s) u else intEvent 6 u) := by
  unfold writeLnkCtl
  extract_lets a was on split w0 w1 t mine u1
  have hsame : u1 = followEnable was on mine t := by
    show forEach mine _ t = _
    unfold followEnable
    cases was with
    | true =>
      cases on with
      | true => exact List.foldl_fixed' (fun _ => rfl) _
      | false => rfl
    | false =>
      cases on with
      | true => rfl
      | false => exact List.foldl_fixed' (fun _ => rfl) _
  rw [hsame]
  rfl

theorem lnkCtlWord_low {i : Nat} (hi : i < 1 ∨ 3 ≤ i ∧ i < 32) :
    (lnkCtlWord p v s).getLsbD i = ((s.reg (Reg.LNKp_CTL p) &&& 0x6) ||| (v &&& 0x29)).getLsbD i := by
  unfold lnkCtlWord
  extract_lets w
  split
  · rw [Fld.put_getLsbD _ _ _ _ (by omega), if_neg]
    show ¬(1 ≤ i ∧ i < 1 + 2)
    omega
  · rfl

theorem lnkCtlWord_enable : (lnkCtlWord p v s).getLsbD 0 = v.getLsbD 0 := by
  rw [lnkCtlWord_low (.inl (by decide)), BitVec.getLsbD_or, BitVec.getLsbD_and, BitVec.getLsbD_and,
    show (0x6 : Word32).getLsbD 0 = false from rfl, show (0x29 : Word32).getLsbD 0 = true from rfl, Bool.and_false,
    Bool.false_or, Bool.and_true]

/-- SPLIT stays unless the port is off and stays off, with another SPLIT written. -/
theorem lnkCtlWord_split (h : s.portOn p = true ∨ v.getLsbD 0 = true ∨
      F.LNKp_CTL.SPLIT.get v = F.LNKp_CTL.SPLIT.get (s.reg (Reg.LNKp_CTL p))) :
    F.LNKp_CTL.SPLIT.get (lnkCtlWord p v s) = F.LNKp_CTL.SPLIT.get (s.reg (Reg.LNKp_CTL p)) := by
  have hbase : F.LNKp_CTL.SPLIT.get ((s.reg (Reg.LNKp_CTL p) &&& 0x6) ||| (v &&& 0x29)) =
      F.LNKp_CTL.SPLIT.get (s.reg (Reg.LNKp_CTL p)) := by
    refine Fld.get_congr _ _ _ fun i (hlo : 1 ≤ i) (hhi : i < 3) => ?_
    have hi : i = 1 ∨ i = 2 := by omega
    rw [BitVec.getLsbD_or, BitVec.getLsbD_and, BitVec.getLsbD_and]
    rcases hi with rfl | rfl
    · rw [show (0x6 : Word32).getLsbD 1 = true from rfl, show (0x29 : Word32).getLsbD 1 = false from rfl, Bool.and_true,
        Bool.and_false, Bool.or_false]
    · rw [show (0x6 : Word32).getLsbD 2 = true from rfl, show (0x29 : Word32).getLsbD 2 = false from rfl, Bool.and_true,
        Bool.and_false, Bool.or_false]
  unfold lnkCtlWord
  extract_lets w
  split
  next hc =>
    rw [Bool.and_eq_true, Bool.and_eq_true, Bool.not_eq_true', Bool.not_eq_true'] at hc
    obtain ⟨⟨hwas, hon⟩, -⟩ := hc
    rcases h with h | h | h
    · rw [hwas] at h; cases h
    · rw [hon] at h; cases h
    · rw [Fld.get_put _ _ _ (by decide), h, Fld.get, bitsOf, Nat.mod_mod]
  next => exact hbase

/-- Where SPLIT stays the port's links are the same. -/
theorem linksOf_setReg (h : F.LNKp_CTL.SPLIT.get (lnkCtlWord p v s) = F.LNKp_CTL.SPLIT.get (s.reg (Reg.LNKp_CTL p))) :
    (s.setReg (Reg.LNKp_CTL p) (lnkCtlWord p v s)).linksOf p = s.linksOf p := by
  rw [State.linksOf, State.fld, State.reg_setReg_same, h, State.linksOf, State.fld]

theorem mem_portLinks {l : Nat} (hp : l / 4 = p) (hl : l % 4 < s.linksOf p) : l ∈ portLinks p s :=
  List.mem_map.2 ⟨l % 4, List.mem_range.2 hl, by omega⟩

theorem leaveAll_bits {xs : List Nat} {next : LinkState} :
    BitsKept OffLinks s (forEach xs (fun l s => linkLeave l next false s) s) :=
  bitsKept_forEach (fun _ _ => linkLeave_bits) s

theorem followEnable_bits {was on : Bool} {xs : List Nat} : BitsKept OffLinks s (followEnable was on xs s) := by
  unfold followEnable
  split
  · exact leaveAll_bits
  split
  · refine bitsKept_forEach (fun l v => ?_) s
    rw [detectIf_parts]
    exact fun _ _ _ => rfl
  · exact bitsKept_refl

theorem portOn_congr {t : State} (h : BitsKept OffLinks s t) (hp : p < 8) : t.portOn p = s.portOn p :=
  h _ 0 (by unfold OffLinks OffFlt Reg.LNKp_CTL Reg.SVC_EVT; omega)

/-- A write of a port's control register that leaves RETRAIN at 0. -/
theorem writeLnkCtl_gives {l : Nat} (hp : p < 8) (hl : l ∈ portLinks p s) (hretrain : v.getLsbD 4 = false) :
    let t := writeLnkCtl p v s
    t.portOn p = v.getLsbD 0 ∧ (s.portOn p = false → v.getLsbD 0 = true → (s.link l).state = .disabled →
        t.link l = { s.link l with state := .detect, since := s.now }) ∧
      (s.portOn p = true → v.getLsbD 0 = false → (t.link l).state = .disabled) := by
  intro t
  have ht : t = intEvent 6 (followEnable (s.portOn p) (v.getLsbD 0)
      (portLinks p (s.setReg (Reg.LNKp_CTL p) (lnkCtlWord p v s))) (s.setReg (Reg.LNKp_CTL p) (lnkCtlWord p v s))) := by
    show writeLnkCtl p v s = _
    rw [writeLnkCtl_eq]
    dsimp only
    rw [hretrain, if_neg Bool.false_ne_true]
  have hmine : s.portOn p = true ∨ v.getLsbD 0 = true →
      l ∈ portLinks p (s.setReg (Reg.LNKp_CTL p) (lnkCtlWord p v s)) := fun h => by
    unfold portLinks
    rw [linksOf_setReg (lnkCtlWord_split (h.imp_right .inl))]
    exact hl
  have hlink : ∀ (u : State) j, (intEvent 6 u).link j = u.link j := fun _ _ => rfl
  have hset : ∀ j, (s.setReg (Reg.LNKp_CTL p) (lnkCtlWord p v s)).link j = s.link j := fun _ => rfl
  rw [ht]
  refine ⟨?_, fun hwas hon hdis => ?_, fun hwas hon => ?_⟩
  · have hint : ∀ u : State, (intEvent 6 u).portOn p = u.portOn p := fun _ => rfl
    rw [hint, portOn_congr followEnable_bits hp, State.portOn, State.flag_eq, State.bit, State.reg_setReg_same]
    exact lnkCtlWord_enable
  · rw [hlink, hwas, hon]
    refine (forEach_detectIf_link l).trans ?_
    rw [hset, if_pos ⟨hmine (.inr hon), hdis⟩]
    rfl
  · rw [hlink, hwas, hon]
    exact (state_leaveAll l).trans (if_pos (hmine (.inl hwas)))

/-- RETRAIN sends every link of the port to DOWN and leaves ENABLE and SPLIT. -/
theorem writeLnkCtl_retrains {l : Nat} (hp : p < 8) (hl : l ∈ portLinks p s) (hretrain : v.getLsbD 4 = true)
    (henable : v.getLsbD 0 = s.portOn p)
    (hsplit : F.LNKp_CTL.SPLIT.get v = F.LNKp_CTL.SPLIT.get (s.reg (Reg.LNKp_CTL p))) :
    (writeLnkCtl p v s).portOn p = s.portOn p ∧ ((writeLnkCtl p v s).link l).state = .down := by
  rw [writeLnkCtl_eq]
  dsimp only
  rw [hretrain, if_pos rfl]
  refine ⟨?_, (state_leaveAll l).trans (if_pos ?_)⟩
  · rw [portOn_congr leaveAll_bits hp, portOn_congr followEnable_bits hp, State.portOn, State.flag_eq, State.bit,
      State.reg_setReg_same]
    exact lnkCtlWord_enable.trans henable
  · unfold portLinks
    rw [linksOf_setReg (lnkCtlWord_split (.inr (.inr hsplit)))]
    exact hl

end

section
variable {p : Path} {port : Fin 8} {s : State}

/-- An accepted write of a port's control register is its effect, and vector 6 follows its level (R462). -/
theorem exec_lnkCtl (v : Word32) (hacc : Accepts p (Reg.LNKp_CTL port) s)
    (hexcl : s.boot.exclPorts.contains port.val = false) : ifUp s (.next (pathWrite p (Reg.LNKp_CTL port) v s)) =
      .next (intSettle1 (writeLnkCtl port v s) (s.intCond 6) 6) := by
  have hrow : ∀ q : Fin 8, (regRowAt (Reg.LNKp_CTL q)).map (fun r => (r.base, r.strides)) =
      some (0x80000, [(8, 0x10000)]) := by decide
  have heffect : ∃ k, regEffects.find? (fun e => e.1 == 0x80000) = some (k, fun ix v s =>
      writeLnkCtl (ixAt ix 0) (if s.boot.exclPorts.contains (ixAt ix 0) then v &&& ~~~1#32 else v) s) := ⟨_, rfl⟩
  obtain ⟨k, heffect⟩ := heffect
  have hfeeds : feedVec 0x80000 [port.val] = some 6 := rfl
  have hidx : rowIdx [(8, 0x10000)] (Reg.LNKp_CTL port - 0x80000) = [port.val] := by
    rw [show Reg.LNKp_CTL port = 0x80000 + port * 0x10000 from rfl, rowIdx, rowIdx, Nat.add_sub_cancel_left,
      Nat.mul_div_cancel _ (by decide)]
  have hne : ∀ a, a < 0x80000 → Reg.LNKp_CTL port ≠ a := fun a ha => by unfold Reg.LNKp_CTL; omega
  rw [ifUp_pathWrite_feeding hacc (hrow port) hidx heffect hfeeds (hne _ (by decide)) (hne _ (by decide))]
  show Host.Outcome.next (intSettle1 (writeLnkCtl port (if s.boot.exclPorts.contains port.val then _ else v) s) _ _) = _
  rw [hexcl, if_neg Bool.false_ne_true]

end

theorem outside_lnkCtl {p n : Nat} {v : Word32} {fed : Bool} {s : State} :
    OutsideSame s (intSettle1 (writeLnkCtl p v s) fed n) :=
  outside_of_keeps (K := quiet) (by simp [quiet, Keeps.refl])

/-- A trigger of a port's control register writes its read-write bits back. -/
theorem trigger_lnkCtl (s : State) (port : Fin 8) : s.trigger (Reg.LNKp_CTL port) 0x10 =
    (s.reg (Reg.LNKp_CTL port) &&& 0x2F) ||| 0x10 := by
  have hrw : ∀ q : Fin 8, (regRowAt (Reg.LNKp_CTL q)).map (·.rw) = some 0x2F := by decide
  rw [State.trigger, hrw]
  rfl

theorem getLsbD_trigger (w : Word32) {i : Nat} (hi : i < 3) : ((w &&& 0x2F) ||| 0x10).getLsbD i = w.getLsbD i := by
  have hmask : ∀ j : Fin 3, (0x2F : Word32).getLsbD j = true ∧ (0x10 : Word32).getLsbD j = false := by decide
  obtain ⟨hkeep, hset⟩ := hmask ⟨i, hi⟩
  rw [BitVec.getLsbD_or, BitVec.getLsbD_and, hkeep, hset, Bool.and_true, Bool.or_false]

/-- Settles O37: a link that is left takes only the queues of ACTIVE links with it (`linkLeave_becomes`), so the links of a
port follow its control register one by one. -/
theorem linksTrainAndFall : Obligations.LinksTrainAndFall := by
  unfold Obligations.LinksTrainAndFall
  refine ⟨fun l s hup => ?_, fun p port v s l hacc hexcl hport hl => ⟨fun hretrain => ?_, ?_⟩⟩
  · dsimp only
    exact ⟨fun hstate hclock => trains (linkDetect_trains hup hstate hclock),
      fun hstate => trains (linkTrainDone_aligns hup hstate),
      fun set rest hstate htries => hstate ▸ trains (linkTrainFail_narrows hup hstate htries),
      fun bad hstate htries => linkTrainFail_gives bad hup hstate htries,
      fun hstate => trains (linkAligned_idents hup hstate), fun hstate => linkDownExpiry_restarts hup hstate,
      fun hstate => linkLoss_clears hup hstate⟩
  · obtain ⟨hon, hdetect, hdisable⟩ := writeLnkCtl_gives (v := v) port.isLt (mem_portLinks hport hl) hretrain
    exact ⟨_, exec_lnkCtl v hacc hexcl, hon, outside_lnkCtl, hdetect, hdisable⟩
  · have hbit4 : (s.trigger (Reg.LNKp_CTL port) 0x10).getLsbD 4 = true := by
      rw [trigger_lnkCtl, BitVec.getLsbD_or, show (0x10 : Word32).getLsbD 4 = true from rfl, Bool.or_true]
    have henable : (s.trigger (Reg.LNKp_CTL port) 0x10).getLsbD 0 = s.portOn port := by
      rw [trigger_lnkCtl, getLsbD_trigger _ (by decide)]
      rfl
    have hsplit : F.LNKp_CTL.SPLIT.get (s.trigger (Reg.LNKp_CTL port) 0x10) =
        F.LNKp_CTL.SPLIT.get (s.reg (Reg.LNKp_CTL port)) := by
      rw [trigger_lnkCtl]
      exact Fld.get_congr _ _ _ fun i _ (hi : i < 3) => getLsbD_trigger _ hi
    obtain ⟨hon, hdown⟩ := writeLnkCtl_retrains port.isLt (mem_portLinks hport hl) hbit4 henable hsplit
    exact ⟨_, exec_lnkCtl _ hacc hexcl, hon, outside_lnkCtl, hdown⟩

end Sys2Proof.Machine
end

section

/-! ## Mailbox commands (O48) -/

namespace Sys2Proof.Machine

open Sys2Proof

-- Proofs in turn: each that waits on others while elaborated at once holds a stack, and the check limits the memory.
set_option Elab.async false

section
variable {p : Path} {s : State}

/-- A write of the mailbox's command register runs the command. -/
theorem ifUp_pathWrite_mailbox (c : Word32) (hup : s.down = false) (hopen : s.pathOpen p Reg.SVC_MB_CMD = true) :
    ifUp s (.next (pathWrite p Reg.SVC_MB_CMD c s)) = .next (mailbox (c.toNat % 256) s) := by
  rw [ifUp_eq hup, pathWrite, if_pos hopen, writeReg, if_neg (fun h => absurd h.1 (by decide)), if_pos rfl,
    if_pos (by decide)]

theorem mailbox_busy (c : Nat) (hbusy : s.flag Reg.SVC_MB_STAT F.SVC_MB_STAT.BUSY = true) : mailbox c s = s :=
  if_pos (by rw [hbusy, Bool.true_or])

end

/-- A command that is refused under one condition and else ends with DONE. -/
theorem ends_of_ite {bad good : Prop} [Decidable bad] {v s : State} {o : Out}
    (ho : o = .next (if bad then mbEnd false none s else mbEnd true none v)) (h : good ↔ ¬bad) :
    (good → o = .next (mbEnd true none v)) ∧ (¬good → o = .next (mbEnd false none s)) := by
  subst ho
  exact ⟨fun hg => by rw [if_neg (h.1 hg)], fun hg => by rw [if_pos (not_not.1 (mt h.2 hg))]⟩

/-- Settles O48: the command register dispatches to one function for each command, and that to one of its endings. -/
theorem mailboxCommandsRun : Obligations.MailboxCommandsRun := by
  unfold Obligations.MailboxCommandsRun
  intro p s hup hopen hreset
  dsimp only
  have hwrite := fun c : Word32 => ifUp_pathWrite_mailbox (p := p) c hup hopen
  refine ⟨fun hbusy c hc => ?_, fun hidle => ?_⟩
  · simp only [List.mem_cons, List.not_mem_nil, or_false] at hc
    have hstay : ∀ c : Word32, ifUp s (.next (pathWrite p Reg.SVC_MB_CMD c s)) = .next s := fun c => by
      rw [hwrite, mailbox_busy _ hbusy]
    rcases hc with rfl | rfl | rfl | rfl | rfl | rfl | rfl | rfl | rfl | rfl <;> exact hstay _
  have hgo : ¬(s.flag Reg.SVC_MB_STAT F.SVC_MB_STAT.BUSY || s.boot.resetting.isSome) = true := by
    rw [hidle, hreset]
    decide
  have hbegin : exec (.imgBegin p) s = .next (mbImgBegin s) := (hwrite 0x01).trans (congrArg _ (if_neg hgo))
  have hdata : exec (.imgData p) s = .next (mbImgData s) := (hwrite 0x02).trans (congrArg _ (if_neg hgo))
  have hend : exec (.imgEnd p) s = .next (mbImgEnd s) := (hwrite 0x03).trans (congrArg _ (if_neg hgo))
  have hboot : exec (.imgBoot p) s = .next (mbImgBoot s) := (hwrite 0x04).trans (congrArg _ (if_neg hgo))
  have hnbr : exec (.nbrRead p) s = .next (mbNbrRead s) := (hwrite 0x10).trans (congrArg _ (if_neg hgo))
  have hretire : exec (.retireDelete p) s = .next (mbRetireDelete s) := (hwrite 0x11).trans (congrArg _ (if_neg hgo))
  have hrecord : exec (.recordRead p) s = .next (mbRecordRead s) := (hwrite 0x12).trans (congrArg _ (if_neg hgo))
  have hsvn : exec (.svnRaise p) s = .next (mbSvnRaise s) := (hwrite 0x13).trans (congrArg _ (if_neg hgo))
  have hjob : exec (.jobStart p) s = .next (mbJobStart s) := (hwrite 0x20).trans (congrArg _ (if_neg hgo))
  have htake : exec (.hostTake p) s = .next (mbHostTake s) := (hwrite 0x21).trans (congrArg _ (if_neg hgo))
  have hchunk : ∀ a b c : Nat, (b ≤ 4096 ∧ a + b ≤ c) ↔ ¬(4096 < b ∨ c < a + b) := fun a b c => by omega
  refine ⟨ends_of_ite hbegin (by omega), fun n hn => ?_, fun hnone => ⟨?_, ?_⟩, fun n hn => ⟨fun he => ?_, fun he => ?_⟩,
    fun hstage => ?_, fun hstage harg => ?_, fun hstage harg hcheck => ?_, ⟨fun _ => hnbr, fun h => absurd trivial h⟩,
    ⟨fun _ => hretire, fun h => absurd trivial h⟩, ⟨fun _ => hrecord, fun h => absurd trivial h⟩, ends_of_ite hsvn ?_,
    ends_of_ite htake ?_, fun hfree hstep => ?_, fun h => ?_⟩
  · refine ends_of_ite (hdata.trans ?_) (hchunk ..)
    rw [mbImgData, hn]
  · rw [hdata, mbImgData, hnone]
  · rw [hend, mbImgEnd, hnone]
  · rw [hend, mbImgEnd, hn]
    dsimp only
    rw [if_neg (not_not.2 he)]
  · rw [hend, mbImgEnd, hn]
    dsimp only
    rw [if_pos he]
  · rw [hboot, mbImgBoot, if_pos hstage]
  · refine ends_of_ite (hboot.trans ?_) (hchunk ..)
    rw [mbImgBoot, if_neg (not_not.2 hstage)]
    dsimp only
    rw [if_pos harg]
  · rw [hboot, mbImgBoot, if_neg (not_not.2 hstage)]
    dsimp only
    rw [if_neg harg, if_neg (not_not.2 hcheck)]
  · rw [Option.isNone_iff_eq_none, Option.isSome_iff_ne_none]
  · rw [Bool.not_eq_true', Bool.not_eq_false]
  · rw [hjob, mbJobStart, hfree, hstep]
    rfl
  · have hrefused : (!s.noJob || s.boot.autoStep.isSome) = true := by
      rw [Bool.or_eq_true, Bool.not_eq_true']
      exact h
    rw [hjob, mbJobStart, if_pos hrefused]

end Sys2Proof.Machine
end

section

/-! ## The scrubbers and the counts of the devices (O34) -/

namespace Sys2Proof.Machine

open Sys2Proof

-- Proofs in turn: each that waits on others while elaborated at once holds a stack, and the check limits the memory.
set_option Elab.async false

/-! ### The Mere scrubber -/

section
variable {s : State} {k : StackId} {u : Upsets}

/-- The state in which the Mere scrubber has moved its position on (R290). -/
def scrubMoved (k : StackId) (u : Upsets) (s : State) : State :=
  updStk k (fun y => { y with scrubPos := (((upset u s).stk k).scrubPos + 1) % (16 * slabWords) }) (upset u s)

/-- What the scrubber does with the word it read, which `st` stores (R290). -/
def scrubJudged (k : StackId) (slab off w : Nat) (st : Stored) (d : Word64) (code : Code) (y : State) : State :=
  match code with
  | .clean => y
  | .corrected _ =>
    if y.slabRetired k slab off then y
    else flipWord w (crossing w (setRawWord w d 0 y)).1 (crossing w (setRawWord w d 0 y)).2
  | .bad =>
    match st with
    | .plain => y
    | .line key line _ =>
      let drop := updStk k (fun q => { q with l2 := { q.l2 with lines := sdel q.l2.lines key } })
      if line.dirty = 0 then l2Refetch k line.aclass line.line (drop y)
      else drop (poisonStore k slab line.dirtyBytes y)

theorem mereScrubRead_skips (hup : s.down = false)
    (hon : ¬((upset u s).fld (Reg.STK_MERE_SCRUB k) F.STK_MERE_SCRUB.PERIOD = 0 ∨ ((upset u s).stk k).bonds.lost = true))
    (hout : ((scrubMoved k u s).slabRetired k (((upset u s).stk k).scrubPos % 16)
        (((upset u s).stk k).scrubPos / 16 * 8) ||
      !((scrubMoved k u s).gate (16 * k + ((upset u s).stk k).scrubPos % 16)).slabOn) = true) :
    exec (.mereScrubRead k u) s = .next (scrubMoved k u s) := by
  rw [show exec (.mereScrubRead k u) s = execMereScrubRead k u s from rfl, execMereScrubRead, ifUp_eq hup]
  exact (if_neg hon).trans (if_pos hout)

/-- The word of a slab that is there is read and judged. -/
theorem mereScrubRead_judges {slab off w : Nat} {f y : State} {d : Word64} {code : Code} (hup : s.down = false)
    (hon : ¬((upset u s).fld (Reg.STK_MERE_SCRUB k) F.STK_MERE_SCRUB.PERIOD = 0 ∨ ((upset u s).stk k).bonds.lost = true))
    (hslab : slab = ((upset u s).stk k).scrubPos % 16) (hoff : off = ((upset u s).stk k).scrubPos / 16 * 8)
    (hw : w = (slabBase k slab + off) / 8) (hf : f = flushWord w (scrubMoved k u s))
    (hout : ((scrubMoved k u s).slabRetired k slab off || !((scrubMoved k u s).gate (16 * k + slab)).slabOn) = false)
    (hjudge : judgeCode 0 { scrub := true } w (f.rawWord w) (f.devAt w) f = (d, code, y)) :
    exec (.mereScrubRead k u) s = .next (scrubJudged k slab off w (f.storedAt k slab off) d code y) := by
  subst hslab hoff hw hf
  rw [show exec (.mereScrubRead k u) s = execMereScrubRead k u s from rfl, execMereScrubRead, ifUp_eq hup]
  refine (if_neg hon).trans ((if_neg (Bool.eq_false_iff.1 hout)).trans ?_)
  extract_lets w f st
  rw [show judgeCode 0 { scrub := true } w (f.rawWord w) (f.devAt w) f = (d, code, y) from hjudge]
  cases code with
  | clean => rfl
  | corrected b =>
    change (if y.slabRetired _ _ _ = true then Host.Outcome.next y else _) = Host.Outcome.next (if _ then y else _)
    generalize crossing w (setRawWord w d 0 y) = z
    obtain ⟨x, v⟩ := z
    exact (apply_ite Host.Outcome.next _ _ _).symm
  | bad =>
    change _ = Host.Outcome.next (scrubJudged k _ _ w st d .bad y)
    cases st with
    | plain => rfl
    | line key line o => rfl

end

/-! ### The patrol scrubber -/

section
variable {s : State} {m : HbmId} {u : Upsets}

/-- The state in which the patrol scrubber has moved its position on (R291). -/
def patrolMoved (m : HbmId) (u : Upsets) (s : State) : State :=
  (upset u s).setMc m { (upset u s).mc m with patrol := (((upset u s).mc m).patrol + 1) % hbmLines }

/-- What the patrol scrubber does with the line at `a` it read (R291). -/
def patrolJudged (m : HbmId) (a : Nat) (found : Line) (line : List Byte × Bool × State) : State :=
  match found with
  | .corrected _ _ =>
    if line.2.1 then line.2.2 else setSyms a [] ((line.2.2.count (Reg.MCm_CNT_WR m)).setBytes a line.1)
  | _ => line.2.2

theorem patrolJudged_keeps {a : Nat} {found : Line} {line : List Byte × Bool × State}
    (h : line.2.1 = true ∨ ∀ i e, found ≠ .corrected i e) : patrolJudged m a found line = line.2.2 := by
  cases found with
  | clean => rfl
  | corrected i y => exact if_pos (h.resolve_right fun hne => hne i y rfl)
  | bad => rfl

/-- The page of a line's bytes is the line's index over 64. -/
theorem page_of_line (p : Nat) : 64 * p / 4096 = p / 64 := Nat.mul_div_mul_left p 64 (by decide)

theorem hbmPatrolRead_skips (hup : s.down = false)
    (hon : ¬((upset u s).fld (Reg.MCm_SCRUB m) F.MCm_SCRUB.HOURS = 0 ∨ (upset u s).hbmExcluded m = true))
    (hskip : ((patrolMoved m u s).bankOff m (64 * ((upset u s).mc m).patrol) ||
      ((patrolMoved m u s).remaps m).any fun e => e.1 == ((upset u s).mc m).patrol / 64) = true) :
    exec (.hbmPatrolRead m u) s = .next (patrolMoved m u s) := by
  rw [← page_of_line] at hskip
  rw [show exec (.hbmPatrolRead m u) s = execHbmPatrolRead m u s from rfl, execHbmPatrolRead, ifUp_eq hup]
  exact (if_neg hon).trans (if_pos hskip)

/-- A line of a bank and a page in use is read and judged. -/
theorem hbmPatrolRead_judges (hup : s.down = false)
    (hon : ¬((upset u s).fld (Reg.MCm_SCRUB m) F.MCm_SCRUB.HOURS = 0 ∨ (upset u s).hbmExcluded m = true))
    (hskip : ((patrolMoved m u s).bankOff m (64 * ((upset u s).mc m).patrol) ||
      ((patrolMoved m u s).remaps m).any fun e => e.1 == ((upset u s).mc m).patrol / 64) = false) :
    exec (.hbmPatrolRead m u) s = .next (patrolJudged m (dramAddr m (64 * ((upset u s).mc m).patrol))
      (rsDecode ((patrolMoved m u s).symsAt (dramAddr m (64 * ((upset u s).mc m).patrol))))
      (readLine { scrub := true } (dramAddr m (64 * ((upset u s).mc m).patrol)) (patrolMoved m u s))) := by
  rw [← page_of_line] at hskip
  rw [show exec (.hbmPatrolRead m u) s = execHbmPatrolRead m u s from rfl, execHbmPatrolRead, ifUp_eq hup]
  refine (if_neg hon).trans ((if_neg (Bool.eq_false_iff.1 hskip)).trans ?_)
  extract_lets a src e
  change _ = Host.Outcome.next (patrolJudged m a (rsDecode e) (readLine { scrub := true } a ((upset u s).setMc m
    { src with patrol := (((upset u s).mc m).patrol + 1) % hbmLines })))
  generalize readLine { scrub := true } a _ = line
  generalize rsDecode e = found
  obtain ⟨d, bad, v⟩ := line
  cases found with
  | clean => rfl
  | corrected i y => rfl
  | bad => rfl

end

/-! ### The counts of the devices -/

section
variable {s : State} {m : Nat}

/-- The count read of a device is kept. -/
def ecsKept (m : Nat) (x : Nat × Nat) (s : State) : State :=
  s.setMc m { s.mc m with ecs := sset (fun _ => 0) (s.mc m).ecs x.2 x.1 }

/-- A rise of a device's count is logged, with fields no rule gives (R288). -/
def ecsLogged (m : Nat) (s : State) : State :=
  let y := s.draw 8
  let b := y.2.draw 7
  let c := b.2.draw 7
  logErr { src := 7, sev := 3, unit := m, synd := y.1.toNat, bit := b.1.toNat, count := c.1.toNat } c.2

/-- The reading of one device. -/
def ecsRead (m : Nat) (x : Nat × Nat) (s : State) : State :=
  if x.1 ≤ sget (fun _ => 0) (s.mc m).ecs x.2 then ecsKept m x s else ecsLogged m (ecsKept m x s)

theorem hbmEcsPoll_eq {m : HbmId} {counts : List Nat} (hup : s.down = false) :
    exec (.hbmEcsPoll m counts) s = .next (forEach counts.zipIdx (ecsRead m) s) :=
  ifUp_eq hup _

theorem logWrite_hbm (e : ErrEntry) : (logWrite e s).hbm = s.hbm := by
  unfold logWrite
  split <;> rfl

theorem ecsRead_hbm (x : Nat × Nat) : (ecsRead m x s).hbm = (ecsKept m x s).hbm := by
  unfold ecsRead
  split
  · rfl
  · exact logWrite_hbm _

theorem ecsRead_count (x : Nat × Nat) (i : Nat) : sget (fun _ => 0) ((ecsRead m x s).mc m).ecs i =
    if i = x.2 then x.1 else sget (fun _ => 0) (s.mc m).ecs i := by
  rw [State.mc, ecsRead_hbm, ← State.mc, ecsKept, State.mc_setMc, if_pos rfl]
  exact sget_sset _ _ _ _ _

theorem ecsRead_keeps {u : State} (x : Nat × Nat) (h : Keeps quiet u s) : Keeps quiet u (ecsRead m x s) := by
  unfold ecsRead
  split
  · simp [ecsKept, h]
  · simp [ecsLogged, ecsKept, h]

/-- The counts of the devices from `n` on, read in turn. -/
theorem ecsReads_count (counts : List Nat) (n i : Nat) (s : State) :
    sget (fun _ => 0) ((forEach (counts.zipIdx n) (ecsRead m) s).mc m).ecs i =
      if n ≤ i ∧ i < n + counts.length then counts.getD (i - n) 0 else sget (fun _ => 0) (s.mc m).ecs i := by
  induction counts generalizing n s with
  | nil => simp [forEach]
  | cons c counts ih =>
    change sget _ ((forEach (counts.zipIdx (n + 1)) (ecsRead m) (ecsRead m (c, n) s)).mc m).ecs i = _
    rw [ih, ecsRead_count]
    rcases Nat.lt_trichotomy i n with hlt | rfl | hgt
    · rw [if_neg (by omega), if_neg (by omega), if_neg (by omega)]
    · rw [if_neg (by omega), if_pos rfl, if_pos (by simp), Nat.sub_self, List.getD_cons_zero]
    · obtain ⟨j, rfl⟩ : ∃ j, i = n + 1 + j := ⟨i - (n + 1), by omega⟩
      have hj : n + 1 + j - n = j + 1 := by omega
      simp only [List.length_cons, hj, List.getD_cons_succ, Nat.add_sub_cancel_left]
      by_cases h : j < counts.length
      · rw [if_pos (by omega), if_pos (by omega)]
      · rw [if_neg (by omega), if_neg (by omega), if_neg (by omega)]

/-- With no rise nothing but the counts changes. -/
theorem ecsReads_quiet (counts : List Nat) (n : Nat) (s : State)
    (h : ∀ i, i < counts.length → counts.getD i 0 ≤ sget (fun _ => 0) (s.mc m).ecs (n + i)) :
    ∃ hbm, forEach (counts.zipIdx n) (ecsRead m) s = { s with hbm := hbm } := by
  induction counts generalizing n s with
  | nil => exact ⟨s.hbm, rfl⟩
  | cons c counts ih =>
    have hfirst : ecsRead m (c, n) s = ecsKept m (c, n) s := if_pos (h 0 (Nat.zero_lt_succ _))
    obtain ⟨hbm, hrest⟩ := ih (n + 1) (ecsRead m (c, n) s) fun i hi => by
      rw [ecsRead_count, if_neg (by dsimp only; omega), Nat.add_right_comm]
      exact h (i + 1) (Nat.succ_lt_succ hi)
    rw [hfirst] at hrest
    refine ⟨hbm, ?_⟩
    change forEach (counts.zipIdx (n + 1)) (ecsRead m) (ecsRead m (c, n) s) = _
    rw [hfirst, hrest]
    rfl

end

/-- Settles O34: the step of each scrubber is one equation of the word or line it read and judged, and the counts of the
devices by induction over the devices. -/
theorem scrubbersRead : Obligations.ScrubbersRead := by
  refine ⟨fun k u s => ?_, fun m u s => ?_, fun m counts s hup => ?_⟩
  · intro x p slab off v w out f hup hperiod hlost
    have hon : ¬((upset u s).fld (Reg.STK_MERE_SCRUB k) F.STK_MERE_SCRUB.PERIOD = 0 ∨
        ((upset u s).stk k).bonds.lost = true) := fun h => h.elim hperiod (Bool.eq_false_iff.1 hlost)
    have hmoved : scrubMoved k u s = v := rfl
    refine ⟨fun hout => mereScrubRead_skips hup hon hout, fun d code y hout hjudge => ?_⟩
    have hexec := mereScrubRead_judges hup hon rfl rfl rfl rfl hout hjudge
    refine ⟨?_, fun bit => ?_, fun hcode hst => ?_, fun key line o hcode hst => ?_⟩
    · rintro rfl
      exact hexec
    · rintro rfl
      exact hexec
    · subst hcode
      rw [hexec]
      change Host.Outcome.next (scrubJudged k slab off w (f.storedAt k slab off) d .bad y) = _
      rw [hst]
      rfl
    · subst hcode
      rw [hexec]
      change Host.Outcome.next (scrubJudged k slab off w (f.storedAt k slab off) d .bad y) = _
      rw [hst]
      rfl
  · intro x p v skip a r hup hhours hexcl
    have hon : ¬((upset u s).fld (Reg.MCm_SCRUB m) F.MCm_SCRUB.HOURS = 0 ∨ (upset u s).hbmExcluded m = true) :=
      fun h => h.elim hhours (Bool.eq_false_iff.1 hexcl)
    refine ⟨fun hskip => hbmPatrolRead_skips hup hon hskip, fun hskip hclean => ?_, fun i e hskip hgood hfound => ?_⟩
    · exact (hbmPatrolRead_judges hup hon hskip).trans (congrArg _ (patrolJudged_keeps hclean))
    · refine (hbmPatrolRead_judges hup hon hskip).trans (congrArg _ ?_)
      change patrolJudged m a (rsDecode (v.symsAt a)) r = _
      rw [hfound]
      exact if_neg (Bool.eq_false_iff.1 hgood)
  · refine ⟨_, hbmEcsPoll_eq hup, outside_of_keeps (K := quiet)
      (forEach_keeps (fun x _ h => ecsRead_keeps x h) Keeps.refl), fun i hi => ?_, fun h => ?_⟩
    · rw [ecsReads_count, if_pos ⟨Nat.zero_le _, by omega⟩, Nat.sub_zero]
    · obtain ⟨hbm, hquiet⟩ := ecsReads_quiet counts 0 s fun i hi => by rw [Nat.zero_add]; exact h i hi
      rw [hquiet]

end Sys2Proof.Machine
end

section

/-! ## The checker window, the error log and the repair registers (O35) -/

namespace Sys2Proof.Machine

open Sys2Proof

-- Proofs in turn: each that waits on others while elaborated at once holds a stack, and the check limits the memory.
set_option Elab.async false

/-! ### Units and tables of the register map -/

/-- Does the row meet nothing from `lo` to `hi`: does it lie below, above, or in blocks of which none reaches into it? -/
def RegRow.outside (lo hi : Nat) (r : RegRow) : Bool :=
  decide (r.base + strideReach r.strides < lo) || decide (hi ≤ r.base) ||
    match r.strides with
    | (_, x) :: t => decide (r.base + strideReach t < lo) && decide (hi ≤ r.base + x)
    | [] => false

theorem RegRow.meets_outside {r : RegRow} {lo hi a : Nat} (h : r.outside lo hi = true) (hlo : lo ≤ a) (hhi : a < hi) :
    meets r.strides r.base a = false := by
  obtain ⟨base, strides⟩ := r
  unfold RegRow.outside at h
  dsimp only at h ⊢
  simp only [Bool.or_eq_true, decide_eq_true_eq] at h
  rcases h with (hbelow | habove) | hgap
  · exact meets_of_outside (.inr (by omega))
  · exact meets_of_outside (.inl (by omega))
  · split at hgap
    next n x t =>
      rw [Bool.and_eq_true, decide_eq_true_eq, decide_eq_true_eq] at hgap
      exact meets_gap (by omega) (by omega)
    next => cases hgap

/-- Does the row lie in each of the `n` units of `x` bytes from `b`, or outside them all? -/
def RegRow.inUnits (b n x : Nat) (r : RegRow) : Bool :=
  r.outside b (b + n * x) ||
    match r.strides with
    | (m, y) :: t => m == n && y == x && decide (b ≤ r.base) && decide (r.base + strideReach t < b + x)
    | [] => false

theorem RegRow.meets_inUnits {r : RegRow} {b n x : Nat} (h : r.inUnits b n x = true) {o : Nat} (ho : o < x) :
    ∃ m, ∀ u, u < n → meets r.strides r.base (b + (u * x + o)) = m := by
  unfold RegRow.inUnits at h
  rw [Bool.or_eq_true] at h
  rcases h with hout | hin
  · refine ⟨false, fun u hu => RegRow.meets_outside hout (Nat.le_add_right _ _) ?_⟩
    have hnext : (u + 1) * x ≤ n * x := Nat.mul_le_mul_right x hu
    rw [Nat.succ_mul] at hnext
    omega
  · obtain ⟨base, strides⟩ := r
    dsimp only at hin ⊢
    split at hin
    next m y t =>
      simp only [Bool.and_eq_true, beq_iff_eq, decide_eq_true_eq] at hin
      obtain ⟨⟨⟨rfl, rfl⟩, hlo⟩, hhi⟩ := hin
      obtain ⟨k, rfl⟩ : ∃ k, base = b + k := ⟨base - b, by omega⟩
      exact ⟨_, fun u hu => (meets_add ..).trans (meets_block hu (by omega) ho)⟩
    next => cases hin

/-- A unit's register has the row of the same register of unit 0. -/
theorem regRowAt_unit {b n x u o : Nat} (h : (regRows.all (·.inUnits b n x)) = true) (hu : u < n) (ho : o < x) :
    regRowAt (b + (u * x + o)) = regRowAt (b + o) := by
  rw [regRowAt_eq_find, regRowAt_eq_find]
  refine List.find?_congr fun r hr => ?_
  obtain ⟨m, hm⟩ := RegRow.meets_inUnits (List.all_eq_true.1 h r hr) ho
  exact (hm u hu).trans (by rw [← hm 0 (by omega), Nat.zero_mul, Nat.zero_add])

/-- The registers of the check-value units. -/
theorem regRows_crcUnits : (regRows.all (·.inUnits 0x300000 56 0x1000)) = true := by decide +kernel

/-- The registers of the memory controllers. -/
theorem regRows_mcUnits : (regRows.all (·.inUnits 0x100000 8 0x10000)) = true := by decide +kernel

/-- The remap table of a controller has two rows, of LO and of HI. -/
theorem regRows_remap : (regRows.all fun r => r.outside 0x100100 0x100900 ||
    ((r.base == 0x100100 || r.base == 0x100104) && r.strides == [(8, 0x10000), (256, 8)])) = true ∧
    (regRows.any fun r => r.base == 0x100104 && r.strides == [(8, 0x10000), (256, 8)]) = true := by
  decide +kernel

/-- The high half of a remap entry of controller 0 has the row of its table. -/
theorem regRowAt_remap (i : Fin 256) :
    (regRowAt (0x100104 + i * 8)).map (fun r => (r.base, r.strides)) = some (0x100104, [(8, 0x10000), (256, 8)]) := by
  obtain ⟨hall, hany⟩ := regRows_remap
  obtain ⟨r, hr, hrow⟩ := List.any_eq_true.1 hany
  rw [Bool.and_eq_true, beq_iff_eq, beq_iff_eq] at hrow
  have hi := i.isLt
  have hhit : ∀ d, d < 0x10000 → strideHit [(8, 0x10000), (256, 8)] d =
      (decide (d / 8 < 256) && decide (d % 8 = 0)) := fun d hd => by
    rw [strideHit, strideHit, strideHit, Nat.div_eq_of_lt hd, Nat.mod_eq_of_lt hd]
    rfl
  have hsome : (regRowAt (0x100104 + i * 8)).isSome := by
    rw [regRowAt_eq_find, List.find?_isSome]
    refine ⟨r, hr, ?_⟩
    rw [hrow.1, hrow.2, meets, hhit _ (by omega), Bool.and_eq_true, Bool.and_eq_true, decide_eq_true_eq,
      decide_eq_true_eq, decide_eq_true_eq]
    omega
  obtain ⟨q, hq⟩ := Option.isSome_iff_exists.1 hsome
  have hmeets : meets q.strides q.base (0x100104 + i * 8) = true :=
    List.find?_some (p := fun r : RegRow => meets r.strides r.base (0x100104 + i * 8)) hq
  have hrows := List.all_eq_true.1 hall q (List.mem_of_find?_eq_some hq)
  rw [Bool.or_eq_true, Bool.and_eq_true, Bool.or_eq_true, beq_iff_eq, beq_iff_eq, beq_iff_eq] at hrows
  rw [hq, Option.map_some]
  rcases hrows with hoff | ⟨hlo | hhi, hstrides⟩
  · rw [RegRow.meets_outside hoff (by omega) (by omega)] at hmeets
    cases hmeets
  · rw [hlo, hstrides, meets, hhit _ (by omega), Bool.and_eq_true, Bool.and_eq_true, decide_eq_true_eq,
      decide_eq_true_eq, decide_eq_true_eq] at hmeets
    omega
  · rw [hhi, hstrides]

/-! ### The checker window -/

section
variable {s t : State} {p : Path} {k : StackId}

theorem SameRegs.chkFenced (h : SameRegs s t) (k : Nat) : t.chkFenced k = s.chkFenced k := by
  obtain ⟨hreg, hrest⟩ := h
  have hret : ∀ k c r, t.regionRetired k c r = s.regionRetired k c r := fun k c r => by rw [hrest]; rfl
  unfold State.chkFenced State.chkWord State.fld
  simp only [hreg, hret]

/-- A trigger of the checker window's register keeps CHK_EN. -/
theorem trigger_chkCtl (s : State) (k : StackId) (bits : Word32) :
    s.trigger (Reg.STK_MERE_CHK_CTL k) bits = (s.reg (Reg.STK_MERE_CHK_CTL k) &&& 1) ||| bits := by
  have hrw : (regRowAt 0x1020030).map (·.rw) = some 1 := by decide
  have hrow : regRowAt (Reg.STK_MERE_CHK_CTL k) = regRowAt 0x1020030 :=
    regRowAt_stackAddr (by unfold InStack; decide) k.isLt
  rw [State.trigger, hrow, hrw]
  rfl

theorem exec_chkCtl (v : Word32) (hacc : Accepts p (Reg.STK_MERE_CHK_CTL k) s) :
    ifUp s (.next (pathWrite p (Reg.STK_MERE_CHK_CTL k) v s)) = .next (writeChkCtl k v s) :=
  ifUp_pathWrite_stackAddr (b := 0x1020030) hacc (by unfold InStack; decide) (by decide) rfl rfl

/-- What a trigger of the checker window does with its word written back. -/
theorem writeChkCtl_trigger (s : State) (k : StackId) : ∃ w, SameRegs s w ∧ ∀ bits : Word32, bits = 2 ∨ bits = 4 →
    writeChkCtl k ((s.reg (Reg.STK_MERE_CHK_CTL k) &&& 1) ||| bits) s =
      if !s.flag (Reg.STK_MERE_CHK_CTL k) F.STK_MERE_CHK_CTL.CHK_EN || !s.noJob || s.chkFenced k then
        w.setFlag (Reg.STK_MERE_CHK_CTL k) F.STK_MERE_CHK_CTL.IGN
      else if bits.getLsbD 1 then rawWrite k w else rawRead k w := by
  have hsame : SameRegs s (s.setFlag (Reg.STK_MERE_CHK_CTL k) F.STK_MERE_CHK_CTL.CHK_EN
      (s.bit (Reg.STK_MERE_CHK_CTL k) 0)) := sameRegs_setFlag (by decide) rfl
  refine ⟨_, hsame, fun bits hbits => ?_⟩
  have hone : (1 : Word32).getLsbD 0 = true ∧ (1 : Word32).getLsbD 1 = false ∧ (1 : Word32).getLsbD 2 = false ∧
      (1 : Word32).getLsbD 3 = false := by decide
  obtain ⟨h0, h1, h2, h3⟩ := hone
  have hbit : bits.getLsbD 0 = false ∧ bits.getLsbD 3 = false ∧ bits.getLsbD 2 = !bits.getLsbD 1 := by
    rcases hbits with rfl | rfl <;> decide
  obtain ⟨b0, b3, b2⟩ := hbit
  have hword : ∀ i, ((s.reg (Reg.STK_MERE_CHK_CTL k) &&& 1) ||| bits).getLsbD i =
      ((s.bit (Reg.STK_MERE_CHK_CTL k) i && (1 : Word32).getLsbD i) || bits.getLsbD i) := fun i => by
    rw [BitVec.getLsbD_or, BitVec.getLsbD_and]
    rfl
  unfold writeChkCtl
  simp only [hword, h0, h1, h2, h3, b0, b2, b3, Bool.and_false, Bool.and_true, Bool.or_false, Bool.false_or,
    Bool.false_eq_true, if_false, Bool.or_not_self, Bool.not_true, Bool.and_not_self, hsame.noJob, hsame.chkFenced]

/-- An accepted trigger of the checker window. -/
theorem exec_chkTrigger (hacc : Accepts p (Reg.STK_MERE_CHK_CTL k) s) : ∃ w, SameRegs s w ∧
    exec (.chkRawWrite p k) s = .next (
      if !s.flag (Reg.STK_MERE_CHK_CTL k) F.STK_MERE_CHK_CTL.CHK_EN || !s.noJob || s.chkFenced k then
        w.setFlag (Reg.STK_MERE_CHK_CTL k) F.STK_MERE_CHK_CTL.IGN
      else rawWrite k w) ∧
    exec (.chkRawRead p k) s = .next (
      if !s.flag (Reg.STK_MERE_CHK_CTL k) F.STK_MERE_CHK_CTL.CHK_EN || !s.noJob || s.chkFenced k then
        w.setFlag (Reg.STK_MERE_CHK_CTL k) F.STK_MERE_CHK_CTL.IGN
      else rawRead k w) := by
  obtain ⟨w, hw, heq⟩ := writeChkCtl_trigger s k
  refine ⟨w, hw, ?_, ?_⟩
  · rw [show exec (.chkRawWrite p k) s = execChkRawWrite p k s from rfl, execChkRawWrite, pathTrigger, trigger_chkCtl,
      exec_chkCtl _ hacc, heq 2 (.inl rfl), if_pos (show (2 : Word32).getLsbD 1 = true by decide)]
  · rw [show exec (.chkRawRead p k) s = execChkRawRead p k s from rfl, execChkRawRead, pathTrigger, trigger_chkCtl,
      exec_chkCtl _ hacc, heq 4 (.inr rfl),
      if_neg (show ¬(4 : Word32).getLsbD 1 = true by decide)]

theorem regBecomes_chkIgn {w : State} (hw : SameRegs s w) : RegBecomes (Reg.STK_MERE_CHK_CTL k)
    (s.reg (Reg.STK_MERE_CHK_CTL k) ||| 8) s (w.setFlag (Reg.STK_MERE_CHK_CTL k) F.STK_MERE_CHK_CTL.IGN) := by
  obtain ⟨hreg, hrest⟩ := hw
  refine ⟨?_, fun b hb => ?_, ?_⟩
  · rw [State.reg_setFlag, if_pos rfl, hreg]
    rfl
  · rw [State.reg_setFlag, if_neg hb, hreg]
  · rw [hrest]
    rfl

end

/-! ### The error log and the scrubber's period -/

section
variable {s : State} {p : Path} {k : StackId}

theorem exec_scrubPeriod (v : Word32) (hacc : Accepts p (Reg.STK_MERE_SCRUB k) s) :
    exec (.scrubPeriodWrite p k v) s = .next (writeScrub k v s) :=
  ifUp_pathWrite_stackAddr (b := 0x1020010) hacc (by unfold InStack; decide) (by decide) rfl rfl

/-- A write of ERL_RD changes the registers, the log's filter and the vector of the log's interrupt alone. -/
theorem exec_erlRd (v : Word32) (hacc : Accepts p Reg.ERL_RD s) :
    exec (.erlRdWrite p v) s = .next (intSettle1 (writeErlRd v s) (s.intCond 1) 1) :=
  ifUp_pathWrite_feeding (b := 0x20000C) (st := []) (idx := []) hacc (by decide) rfl
    (show regEffects.find? (fun e => e.1 == 0x20000C) = some (_, fun _ => writeErlRd) from rfl) rfl (by decide) (by decide)

end
/-! ### Granules, remap entries, check-value units and the split: the writes that are accepted -/

section
variable {s : State} {p : Path}

theorem exec_granule {k : StackId} {i : Fin 64} (v : Word32) (hacc : Accepts p (Reg.STK_MERE_GRETi k i) s) :
    exec (.granuleRetireWrite p k i v) s = .next (writeGret k i v s) := by
  have haddr : Reg.STK_MERE_GRETi k i = stackAddr (0x1020100 + i.val * 4) k := by
    unfold Reg.STK_MERE_GRETi stackAddr; omega
  have hrow : ∀ j : Fin 64, (regRowAt (0x1020100 + j.val * 4)).map (fun r => (r.base, r.strides)) =
      some (0x1020100, [(24, 0x100000), (64, 4)]) := by decide
  have hexec : exec (.granuleRetireWrite p k i v) s = ifUp s (.next (pathWrite p (Reg.STK_MERE_GRETi k i) v s)) := rfl
  rw [haddr] at hacc hexec
  exact hexec.trans (ifUp_pathWrite_stackUnit hacc (by decide) (by unfold InStack; decide) (by unfold InStack; omega)
    (by decide) (hrow i) rfl rfl)

theorem exec_remap {m : HbmId} {i : Fin 256} (v : Word32) (hacc : Accepts p (Reg.MCm_REMAPi_HI m i) s) :
    exec (.remapWrite p m i v) s = .next (writeRemapHi m i v s) := by
  have haddr : Reg.MCm_REMAPi_HI m i = 0x100000 + (m.val * 0x10000 + (0x104 + i.val * 8)) := by
    unfold Reg.MCm_REMAPi_HI; omega
  have hrow : (regRowAt (Reg.MCm_REMAPi_HI m i)).map (fun r => (r.base, r.strides)) =
      some (0x100104, [(8, 0x10000), (256, 8)]) := by
    rw [haddr, regRowAt_unit regRows_mcUnits m.isLt (by omega), ← Nat.add_assoc]
    exact regRowAt_remap i
  have hidx : rowIdx [(8, 0x10000), (256, 8)] (Reg.MCm_REMAPi_HI m i - 0x100104) = [m.val, i.val] := by
    have hplace : Reg.MCm_REMAPi_HI m i - 0x100104 = m.val * 0x10000 + i.val * 8 := by unfold Reg.MCm_REMAPi_HI; omega
    rw [hplace, rowIdx, rowIdx, rowIdx]
    have hm : (m.val * 0x10000 + i.val * 8) / 0x10000 = m.val := by omega
    have hi : (m.val * 0x10000 + i.val * 8) % 0x10000 / 8 = i.val := by omega
    rw [hm, hi]
  have hne : ∀ a, a < 0x100000 → Reg.MCm_REMAPi_HI m i ≠ a := fun a ha => by rw [haddr]; omega
  exact ifUp_pathWrite_row hacc hrow hidx rfl rfl (hne _ (by decide)) (hne _ (by decide))

theorem exec_bankDisable {m : HbmId} {hi : Bool} (v : Word32)
    (hacc : Accepts p (if hi then Reg.MCm_BANK_DIS_HI m else Reg.MCm_BANK_DIS_LO m) s) :
    exec (.bankDisableWrite p m hi v) s = .next (writeBankDis m hi v s) := by
  have hm := m.isLt
  cases hi with
  | true =>
    have hrow : ∀ m : Fin 8, (regRowAt (Reg.MCm_BANK_DIS_HI m)).map (fun r => (r.base, r.strides)) =
      some (0x100024, [(8, 0x10000)]) := by decide
    have hidx : rowIdx [(8, 0x10000)] (Reg.MCm_BANK_DIS_HI m - 0x100024) = [m.val] := by
      rw [Reg.MCm_BANK_DIS_HI, Nat.add_sub_cancel_left, rowIdx, rowIdx, Nat.mul_div_cancel _ (by decide)]
    have hne : ∀ a, a < 0x100000 → Reg.MCm_BANK_DIS_HI m ≠ a := fun a ha => by unfold Reg.MCm_BANK_DIS_HI; omega
    exact ifUp_pathWrite_row hacc (hrow m) hidx rfl rfl (hne _ (by decide)) (hne _ (by decide))
  | false =>
    have hrow : ∀ m : Fin 8, (regRowAt (Reg.MCm_BANK_DIS_LO m)).map (fun r => (r.base, r.strides)) =
      some (0x100020, [(8, 0x10000)]) := by decide
    have hidx : rowIdx [(8, 0x10000)] (Reg.MCm_BANK_DIS_LO m - 0x100020) = [m.val] := by
      rw [Reg.MCm_BANK_DIS_LO, Nat.add_sub_cancel_left, rowIdx, rowIdx, Nat.mul_div_cancel _ (by decide)]
    have hne : ∀ a, a < 0x100000 → Reg.MCm_BANK_DIS_LO m ≠ a := fun a ha => by unfold Reg.MCm_BANK_DIS_LO; omega
    exact ifUp_pathWrite_row hacc (hrow m) hidx rfl rfl (hne _ (by decide)) (hne _ (by decide))

/-- The parameters of a check-value unit have an effect each, and feed no interrupt. -/
theorem effect_crc : ∀ r : Fin 8, r ≠ 1 → (∃ n, regEffects.find? (fun e => e.1 == 0x300000 + 4 * r.val) =
    some (n, fun ix => writeCrcCfg (ixAt ix 0) r.val)) ∧ feeds.find? (fun e => e.1 == 0x300000 + 4 * r.val) = none
  | 0, _ => ⟨⟨_, rfl⟩, rfl⟩
  | 2, _ => ⟨⟨_, rfl⟩, rfl⟩
  | 3, _ => ⟨⟨_, rfl⟩, rfl⟩
  | 4, _ => ⟨⟨_, rfl⟩, rfl⟩
  | 5, _ => ⟨⟨_, rfl⟩, rfl⟩
  | 6, _ => ⟨⟨_, rfl⟩, rfl⟩
  | 7, _ => ⟨⟨_, rfl⟩, rfl⟩

theorem exec_crcCfg {u : Fin 56} {r : Fin 8} (v : Word32) (hr : r ≠ 1)
    (hacc : Accepts p (Reg.CRC_u_CFG u + 4 * r.val) s) :
    exec (.crcCfgWrite p u r v) s = .next (writeCrcCfg u r v s) := by
  have haddr : Reg.CRC_u_CFG u + 4 * r.val = 0x300000 + (u.val * 0x1000 + 4 * r.val) := by unfold Reg.CRC_u_CFG; omega
  have hrows : ∀ r : Fin 8, r ≠ 1 → (regRowAt (0x300000 + 4 * r.val)).map (fun r => (r.base, r.strides)) =
      some (0x300000 + 4 * r.val, [(56, 0x1000)]) := by decide
  have hrow : (regRowAt (Reg.CRC_u_CFG u + 4 * r.val)).map (fun r => (r.base, r.strides)) =
      some (0x300000 + 4 * r.val, [(56, 0x1000)]) := by
    rw [haddr, regRowAt_unit regRows_crcUnits u.isLt (by omega)]
    exact hrows r hr
  have hidx : rowIdx [(56, 0x1000)] (Reg.CRC_u_CFG u + 4 * r.val - (0x300000 + 4 * r.val)) = [u.val] := by
    have hplace : Reg.CRC_u_CFG u + 4 * r.val - (0x300000 + 4 * r.val) = u.val * 0x1000 := by omega
    rw [hplace, rowIdx, rowIdx, Nat.mul_div_cancel _ (by decide)]
  have hne : ∀ a, a < 0x100000 → Reg.CRC_u_CFG u + 4 * r.val ≠ a := fun a ha => by rw [haddr]; omega
  obtain ⟨⟨n, heffect⟩, hfeeds⟩ := effect_crc r hr
  exact ifUp_pathWrite_row hacc hrow hidx heffect hfeeds (hne _ (by decide)) (hne _ (by decide))

theorem exec_mereSplit {k : StackId} (v : Word32) (hacc : Accepts p (Reg.STK_MERE_SPLIT k) s) :
    exec (.mereSplitWrite p k v) s = .next (writeSplit k v s) :=
  ifUp_pathWrite_stackAddr (b := 0x1020000) hacc (by unfold InStack; decide) (by decide) rfl rfl

end
/-! ### What the writes do -/

section
variable {s : State} {k : StackId} {v : Word32}

theorem writeErlRd_refused (h : s.erlFill < (v.toNat % 65536 + 65536 - (s.reg Reg.ERL_RD).toNat) % 65536) :
    writeErlRd v s = s.setFlag Reg.ERL_STAT F.ERL_STAT.IGN := if_pos h

/-- Entries consumed leave the log's filter, and the log's interrupt is judged anew. -/
theorem writeErlRd_consumes (h : (v.toNat % 65536 + 65536 - (s.reg Reg.ERL_RD).toNat) % 65536 ≤ s.erlFill) :
    ∃ erl pcie, writeErlRd v s = { s.setReg Reg.ERL_RD (v &&& 0xFFFF) with erl := erl, pcie := pcie } :=
  ⟨_, _, if_neg (Nat.not_lt.2 h)⟩

theorem writeGret_invalid {i : Nat} (h : (s.reg (Reg.STK_MERE_GRETi k i)).getLsbD 31 = false) : writeGret k i v s =
    if v.getLsbD 31 then l2RetireGranule k (F.STK_MERE_GRETi.SLAB.get (v &&& 0x80003FFF))
      (F.STK_MERE_GRETi.GRAN.get (v &&& 0x80003FFF)) (s.setReg (Reg.STK_MERE_GRETi k i) (v &&& 0x80003FFF))
    else s.setReg (Reg.STK_MERE_GRETi k i) (v &&& 0x80003FFF) := by
  have hbit : (v &&& 0x80003FFF).getLsbD 31 = v.getLsbD 31 := by
    rw [BitVec.getLsbD_and, show (0x80003FFF : Word32).getLsbD 31 = true by decide, Bool.and_true]
  unfold writeGret
  simp only [h, hbit, Bool.false_eq_true, if_false]

/-- The low bits of a word under a mask are those that were put there. -/
theorem and_merged (x b m : Word32) (h : b &&& m = b) : ((x &&& ~~~m) ||| b) &&& m = b := by
  have hclear : m &&& ~~~m = 0#32 := BitVec.and_not_self m
  rw [BitVec.and_or_distrib_right, BitVec.and_assoc, BitVec.and_comm (~~~m), hclear, BitVec.and_zero, h, BitVec.zero_or]

/-- A write of the split that is accepted pends for the next boundary (R216). -/
theorem writeSplit_pends (h : s.noJob = true ∧ (∀ c, c < 16 → s.slotsIdle (16 * k + c) = true) ∧
      (v.extractLsb' 0 4).toNat ≤ 8) : writeSplit k v s =
    updL2 k (fun c => { c with resPend := some (v.extractLsb' 0 4).toNat })
      (((if v.getLsbD 31 then s.setFlag (Reg.STK_MERE_SPLIT k) F.STK_MERE_SPLIT.IGN false else s).setFld
        (Reg.STK_MERE_SPLIT k) F.STK_MERE_SPLIT.RES (v.extractLsb' 0 4).toNat).setFlag
          (Reg.STK_MERE_SPLIT k) F.STK_MERE_SPLIT.PENDING) := by
  obtain ⟨hjob, hidle, hz⟩ := h
  refine if_pos ?_
  rw [Bool.and_eq_true, Bool.and_eq_true, List.all_eq_true, decide_eq_true_eq]
  exact ⟨⟨hjob, fun c hc => hidle c (List.mem_range.1 hc)⟩, hz⟩

theorem writeSplit_refused (h : ¬(s.noJob = true ∧ (∀ c, c < 16 → s.slotsIdle (16 * k + c) = true) ∧
      (v.extractLsb' 0 4).toNat ≤ 8)) :
    writeSplit k v s = s.setFlag (Reg.STK_MERE_SPLIT k) F.STK_MERE_SPLIT.IGN := by
  refine if_neg fun hok => h ?_
  rw [Bool.and_eq_true, Bool.and_eq_true, List.all_eq_true, decide_eq_true_eq] at hok
  obtain ⟨⟨hjob, hidle⟩, hz⟩ := hok
  exact ⟨hjob, fun c hc => hidle c (List.mem_range.2 hc), hz⟩

end

section
variable {s : State} {m : HbmId} {hi : Bool} {v : Word32}

/-- Where a half of the disabled banks stands. -/
def bankReg (m : Nat) (hi : Bool) : Nat := if hi then Reg.MCm_BANK_DIS_HI m else Reg.MCm_BANK_DIS_LO m

/-- The bits of a half that name banks. -/
def bankMask (hi : Bool) : Word32 := if hi then 0xFFFF else 0xFFFFFFFF

/-- The banks of a half that a write leaves disabled (R304). -/
def bankBits (hi : Bool) (old v : Word32) (ok : Bool) : Word32 :=
  if ok then v &&& bankMask hi else (old &&& bankMask hi) ||| (v &&& bankMask hi)

theorem bankBits_masked (old : Word32) (ok : Bool) : bankBits hi old v ok &&& bankMask hi = bankBits hi old v ok := by
  unfold bankBits
  split
  · rw [BitVec.and_assoc, BitVec.and_self]
  · rw [← BitVec.and_or_distrib_right, BitVec.and_assoc, BitVec.and_self]

/-- Does a write of a half clear no bit, or come outside a job? -/
def bankOk (m : Nat) (hi : Bool) (v : Word32) (s : State) : Bool :=
  s.noJob || decide (s.reg (bankReg m hi) &&& bankMask hi &&& ~~~v = 0)

theorem bankReg_lt (m : HbmId) (hi : Bool) : 0x100000 ≤ bankReg m hi := by
  unfold bankReg Reg.MCm_BANK_DIS_HI Reg.MCm_BANK_DIS_LO
  split <;> omega

theorem noJob_of_reg {s t : State} (h : t.reg Reg.TICK_STAT = s.reg Reg.TICK_STAT) : t.noJob = s.noJob := by
  unfold State.noJob State.tickState State.fld
  rw [h]

/-- A write of a half of the disabled banks: its register, IGN and the controller's own state. -/
theorem writeBankDis_eq : ∃ (w : State) (mc : Hbm), (∀ b, b ≠ bankReg m hi → w.reg b = s.reg b) ∧ w = { s with regs := w.regs } ∧
    writeBankDis m hi v s =
      (let t := (w.setMc m mc).setReg (bankReg m hi) ((w.reg (bankReg m hi) &&& ~~~bankMask hi) |||
        bankBits hi (s.reg (bankReg m hi)) v (bankOk m hi v s))
      if bankOk m hi v s then t else remapIgn m t) := by
  unfold writeBankDis
  extract_lets a base mask old new gone w ok bits h back leaving t
  have hreg : ∀ b, b ≠ a → w.reg b = s.reg b := fun b hb => by
    unfold w
    split
    · exact reg_setFlag_ne s _ _ hb
    · rfl
  have hrest : w = { s with regs := w.regs } := by
    unfold w
    split <;> rfl
  have hjob : w.noJob = s.noJob := noJob_of_reg (hreg _ (by
    have := bankReg_lt m hi
    have ha : a = bankReg m hi := rfl
    have htick : Reg.TICK_STAT < 0x100000 := by decide
    omega))
  have hgone : gone = s.reg a &&& mask &&& ~~~v := by
    unfold gone new old
    have hclear : mask &&& ~~~mask = 0#32 := BitVec.and_not_self mask
    rw [BitVec.not_and, BitVec.and_or_distrib_left, BitVec.and_assoc _ mask (~~~mask), hclear, BitVec.and_zero,
      BitVec.or_zero]
  have hok : ok = bankOk m hi v s := by
    unfold ok
    rw [hjob, hgone]
    rfl
  refine ⟨w, { h with banksLeaving := leaving }, hreg, hrest, ?_⟩
  have hbits : bits = bankBits hi (s.reg (bankReg m hi)) v (bankOk m hi v s) := by
    rw [← hok]
    rfl
  rw [← hbits, ← hok]
  rfl

end

/-! ### The obligation -/

section
variable {s : State} {p : Path} {v : Word32}

theorem erlRdWrite_acts (hacc : Accepts p Reg.ERL_RD s) :
    let n := (v.toNat % 65536 + 65536 - (s.reg Reg.ERL_RD).toNat) % 65536
    ∃ t, exec (.erlRdWrite p v) s = .next t ∧ OutsideSame s t ∧ (s.erlFill < n → t.erl = s.erl ∧
        t.reg Reg.ERL_STAT = s.reg Reg.ERL_STAT ||| 2 ∧ ∀ a, a ≠ Reg.ERL_STAT → t.reg a = s.reg a) ∧
      (n ≤ s.erlFill → t.reg Reg.ERL_RD = v &&& 0xFFFF ∧ ∀ a, a ≠ Reg.ERL_RD → t.reg a = s.reg a) := by
  intro n
  have hregs : ∀ (u : State) f, (intSettle1 u f 1).regs = u.regs := fun _ _ => rfl
  have hparts : ∀ (u : State) f, OutsideSame u (intSettle1 u f 1) ∧ (intSettle1 u f 1).erl = u.erl :=
    fun _ _ => ⟨⟨rfl, rfl, rfl⟩, rfl⟩
  refine ⟨_, exec_erlRd v hacc, ?_⟩
  obtain ⟨hout, herl⟩ := hparts (writeErlRd v s) (s.intCond 1)
  simp only [State.reg, hregs, herl]
  rcases Nat.lt_or_ge s.erlFill n with hlt | hge
  · have hw := writeErlRd_refused hlt
    have hsame : OutsideSame s (writeErlRd v s) := by rw [hw]; exact ⟨rfl, rfl, rfl⟩
    refine ⟨hsame.trans hout, fun _ => ?_, fun h => absurd h (by omega)⟩
    rw [hw]
    exact ⟨rfl, (State.reg_setFlag ..).trans (if_pos rfl), fun a ha => (State.reg_setFlag ..).trans (if_neg ha)⟩
  · obtain ⟨erl, pcie, hw⟩ := writeErlRd_consumes hge
    have hsame : OutsideSame s (writeErlRd v s) := by rw [hw]; exact ⟨rfl, rfl, rfl⟩
    refine ⟨hsame.trans hout, fun h => absurd h (by omega), fun _ => ?_⟩
    rw [hw]
    exact ⟨State.reg_setReg_same s Reg.ERL_RD _, fun a ha => State.reg_setReg_ne s _ ha⟩

theorem bankDisableWrite_acts {m : HbmId} {hi : Bool} (hacc : Accepts p (bankReg m hi) s) :
    ∃ t, exec (.bankDisableWrite p m hi v) s = .next t ∧ OutsideSame s t ∧
      (bankOk m hi v s = true → t.reg (bankReg m hi) &&& bankMask hi = v &&& bankMask hi) ∧
      (bankOk m hi v s = false → t.reg (bankReg m hi) &&& bankMask hi = (s.reg (bankReg m hi) ||| v) &&& bankMask hi ∧
        t.flag (Reg.MCm_BANK_DIS_HI m) F.MCm_BANK_DIS_HI.IGN = true) ∧
      (∀ b, b ≠ bankReg m hi → b ≠ Reg.MCm_BANK_DIS_HI m → t.reg b = s.reg b) ∧ ∀ n, n ≠ m.val → t.mc n = s.mc n := by
  obtain ⟨w, mc, hreg, hrest, heq⟩ := writeBankDis_eq (s := s) (m := m) (hi := hi) (v := v)
  refine ⟨_, exec_bankDisable v hacc, ?_⟩
  generalize hbits : (w.reg (bankReg m hi) &&& ~~~bankMask hi) |||
    bankBits hi (s.reg (bankReg m hi)) v (bankOk m hi v s) = x at heq
  have hx : x &&& bankMask hi = bankBits hi (s.reg (bankReg m hi)) v (bankOk m hi v s) := by
    rw [← hbits]
    exact and_merged _ _ _ (bankBits_masked _ _)
  have hmc : ∀ n, n ≠ m.val → (w.setMc m mc).mc n = s.mc n := fun n hn => by
    rw [State.mc_setMc, if_neg hn, hrest]
    rfl
  have hregs : ∀ b, b ≠ bankReg m hi → ((w.setMc m mc).setReg (bankReg m hi) x).reg b = s.reg b := fun b hb => by
    rw [State.reg_setReg, if_neg hb]
    exact hreg b hb
  rw [heq]
  cases hok : bankOk m hi v s with
  | true =>
    rw [hok] at hx
    refine ⟨?_, fun _ => ?_, fun h => (by cases h), fun b hb _ => hregs b hb, hmc⟩
    · rw [hrest]
      exact ⟨rfl, rfl, rfl⟩
    · exact (congrArg (· &&& bankMask hi) (State.reg_setReg_same _ _ _)).trans hx
  | false =>
    rw [hok] at hx
    refine ⟨?_, fun h => (by cases h), fun _ => ⟨?_, ?_⟩, fun b hb hn => ?_, hmc⟩
    · rw [hrest]
      exact ⟨rfl, rfl, rfl⟩
    · have hkeep : (remapIgn m ((w.setMc m mc).setReg (bankReg m hi) x)).reg (bankReg m hi) &&& bankMask hi =
          x &&& bankMask hi := by
        rw [remapIgn, State.reg_setFlag, State.reg_setReg_same]
        cases hi with
        | false => rw [if_neg (by unfold bankReg Reg.MCm_BANK_DIS_HI Reg.MCm_BANK_DIS_LO; simp)]
        | true =>
          have hoff : BitVec.ofNat 32 (2 ^ F.MCm_BANK_DIS_HI.IGN.lo) &&& bankMask true = 0#32 := by decide
          rw [show Reg.MCm_BANK_DIS_HI m = bankReg m true from rfl, if_pos rfl, State.reg_setReg_same,
            BitVec.and_or_distrib_right, hoff, BitVec.or_zero]
      refine hkeep.trans (hx.trans ?_)
      unfold bankBits
      rw [if_neg Bool.false_ne_true, BitVec.and_or_distrib_right]
    · refine (State.flag_eq ..).trans ?_
      exact bit_setFlag_same _ _ _ true (by decide)
    · exact (State.reg_setFlag ..).trans ((if_neg hn).trans (hregs b hb))

/-- What follows the fields of the split's register, wherever it stands. -/
theorem updL2_parts (k z a : Nat) (f g : Fld) (w : State) :
    let t := updL2 k (fun c => { c with resPend := some z }) ((w.setFld a f z).setFlag a g)
    t.regs = ((w.setFld a f z).setFlag a g).regs ∧ t.cores = w.cores ∧ t.mem = w.mem ∧
      (t.stk k).l2 = { (w.stk k).l2 with resPend := some z } := by
  refine ⟨rfl, rfl, rfl, ?_⟩
  rw [updL2, State.stk_updStk, if_pos rfl]
  rfl

theorem mereSplitWrite_pends {k : StackId} (hacc : Accepts p (Reg.STK_MERE_SPLIT k) s)
    (h : s.noJob = true ∧ (∀ c, c < 16 → s.slotsIdle (16 * k + c) = true) ∧ (v.extractLsb' 0 4).toNat ≤ 8) :
    ∃ t, exec (.mereSplitWrite p k v) s = .next t ∧
      t.fld (Reg.STK_MERE_SPLIT k) F.STK_MERE_SPLIT.RES = (v.extractLsb' 0 4).toNat ∧
      t.flag (Reg.STK_MERE_SPLIT k) F.STK_MERE_SPLIT.PENDING = true ∧
      (t.stk k).l2 = { (s.stk k).l2 with resPend := some (v.extractLsb' 0 4).toNat } ∧
      (∀ b, b ≠ Reg.STK_MERE_SPLIT k → t.reg b = s.reg b) ∧ t.cores = s.cores ∧ t.mem = s.mem := by
  have hz := h.2.2
  refine ⟨_, (exec_mereSplit v hacc).trans (congrArg _ (writeSplit_pends h)), ?_⟩
  generalize (v.extractLsb' 0 4).toNat = z at hz ⊢
  generalize hs : (if v.getLsbD 31 then s.setFlag (Reg.STK_MERE_SPLIT k) F.STK_MERE_SPLIT.IGN false else s) = w
  have hw : (∀ b, b ≠ Reg.STK_MERE_SPLIT k → w.reg b = s.reg b) ∧ w = { s with regs := w.regs } := by
    rw [← hs]
    split
    · exact ⟨fun b hb => reg_setFlag_ne s _ _ hb, rfl⟩
    · exact ⟨fun _ _ => rfl, rfl⟩
  obtain ⟨hreg, hrest⟩ := hw
  obtain ⟨hregs, hcores, hmem, hl2⟩ := updL2_parts k z (Reg.STK_MERE_SPLIT k) F.STK_MERE_SPLIT.RES
    F.STK_MERE_SPLIT.PENDING w
  have hparts : w.cores = s.cores ∧ w.mem = s.mem ∧ ∀ k, w.stk k = s.stk k := by
    rw [hrest]
    exact ⟨rfl, rfl, fun _ => rfl⟩
  obtain ⟨hc, hm, hk⟩ := hparts
  refine ⟨?_, ?_, hl2.trans (by rw [hk]), fun b hb => ?_, hcores.trans hc, hmem.trans hm⟩
  · rw [State.fld, State.reg, hregs, ← State.reg, ← State.fld, State.fld_setFlag_ne _ _ _ _ _ (by decide)
      (.inr (.inr (by decide))), State.fld_setFld _ _ _ _ (by decide)]
    exact Nat.mod_eq_of_lt (Nat.lt_of_le_of_lt hz (by decide))
  · rw [State.flag_eq, State.bit, State.reg, hregs, ← State.reg, ← State.bit]
    exact bit_setFlag_same _ _ _ true (by decide)
  · rw [State.reg, hregs, ← State.reg, reg_setFlag_ne _ _ _ hb, State.reg_setFld_ne _ _ _ hb, hreg b hb]

end

/-- Settles O35: each write is one equation of the model's own effect; what the equation leaves open is the register of
the write itself. -/
theorem integrityAndRepairRegistersAct : Obligations.IntegrityAndRepairRegistersAct := by
  refine ⟨fun p k v s => ?_, fun p v s => ⟨fun m i hacc => ?_, fun m hi hacc => ?_, fun u r hu hacc => ?_,
    fun k hacc => ?_⟩⟩
  · intro chk on
    refine ⟨fun hacc => ⟨fun hon hjob hfence => ?_, fun hoff => ?_⟩, fun hacc => erlRdWrite_acts hacc,
      fun hacc => exec_scrubPeriod v hacc, fun i hacc => ?_⟩
    · obtain ⟨w, ⟨hreg, hrest⟩, hwrite, hread⟩ := exec_chkTrigger hacc
      have hopen : ¬(!on || !s.noJob || s.chkFenced k) = true := by rw [hon, hjob, hfence]; decide
      exact ⟨w, w, hreg, hrest, hreg, hrest, by rw [hwrite, if_neg hopen], by rw [hread, if_neg hopen]⟩
    · obtain ⟨w, hw, hwrite, hread⟩ := exec_chkTrigger hacc
      have hshut : (!on || !s.noJob || s.chkFenced k) = true := by
        rcases hoff with h | h | h <;> simp [h]
      exact ⟨_, _, by rw [hwrite, if_pos hshut], by rw [hread, if_pos hshut], regBecomes_chkIgn hw, regBecomes_chkIgn hw⟩
    · intro a old x slab gran
      exact ⟨fun hold => (exec_granule v hacc).trans (congrArg _ (writeGret_invalid hold)),
        fun hold => (exec_granule v hacc).trans (congrArg _ (if_pos hold))⟩
  · intro a x from_ dest used clash ign
    have hbit : x.getLsbD 31 = v.getLsbD 31 := by
      rw [BitVec.getLsbD_and, show (0x80FFFFFF : Word32).getLsbD 31 = true by decide, Bool.and_true]
    refine ⟨fun hv => ?_, fun hv hold => ?_, fun hv hold hjob => ?_, fun hv hold hjob => ?_⟩
    · exact (exec_remap v hacc).trans (congrArg _ (if_pos (hbit.trans hv)))
    · exact (exec_remap v hacc).trans (congrArg _ ((if_neg (Bool.eq_false_iff.1 (hbit.trans hv))).trans
        (if_neg (Bool.eq_false_iff.1 hold))))
    · exact (exec_remap v hacc).trans (congrArg _ ((if_neg (Bool.eq_false_iff.1 (hbit.trans hv))).trans
        ((if_pos hold).trans (if_neg (Bool.eq_false_iff.1 hjob)))))
    · exact (exec_remap v hacc).trans (congrArg _ ((if_neg (Bool.eq_false_iff.1 (hbit.trans hv))).trans
        ((if_pos hold).trans (if_pos hjob))))
  · intro a mask ok
    obtain ⟨t, hexec, hout, hdone, hrefused, hreg, hmc⟩ := bankDisableWrite_acts (v := v) hacc
    have hok : bankOk m hi v s = true ↔ ok := by
      unfold bankOk
      rw [Bool.or_eq_true, decide_eq_true_eq]
      exact Iff.rfl
    exact ⟨t, hexec, hout, fun h => hdone (hok.2 h), fun h => hrefused (Bool.eq_false_iff.2 fun e => h (hok.1 e)), hreg,
      hmc⟩
  · intro w
    have hunit : ¬48 ≤ u.val := Nat.not_le.2 hu
    refine ⟨fun hr => ?_, fun hr => ?_⟩
    · subst hr
      refine (exec_crcCfg v (by decide) hacc).trans (congrArg _ ((if_neg hunit).trans ((if_pos rfl).trans ?_)))
      change (if w < 8 ∨ 64 < w then _ else _) = _
      by_cases hw : 8 ≤ w ∧ w ≤ 64
      · rw [if_neg (by omega), if_pos hw]
      · rw [if_pos (by omega), if_neg hw]
    · have hne : r ≠ 1 := fun h => by rw [h] at hr; exact absurd hr (by decide)
      have hrlt := r.isLt
      exact (exec_crcCfg v hne hacc).trans (congrArg _ ((if_neg hunit).trans ((if_neg (by omega)).trans
        (if_pos (by omega)))))
  · intro a z ok
    exact ⟨fun h => mereSplitWrite_pends hacc h, fun h => (exec_mereSplit v hacc).trans (congrArg _ (writeSplit_refused h))⟩

end Sys2Proof.Machine
end

section

/-! ## Hold-back, regulators, clamps and leakage (O42) -/

namespace Sys2Proof.Machine

open Sys2Proof

-- Proofs in turn: each that waits on others while elaborated at once holds a stack, and the check limits the memory.
set_option Elab.async false

/-! ### Hold-back -/

section
variable {s : State} {k : Nat}

/-- The counting of hold-back cycles begins or ends with what holds the stack back. -/
theorem holdCount_counts : ∃ t, holdCount k s = t ∧
    t = { s with power := { s.power with holdFrom := t.power.holdFrom }, live := t.live } ∧
    (sget (fun _ => none) t.power.holdFrom k).isSome = (s.power.hold.contains k || s.power.shaded.contains k) ∧
    ∀ b, sget (fun _ => none) s.power.holdFrom k = some b → t.liveAt (Reg.STK_CNT_HOLD k) =
      min (s.liveAt (Reg.STK_CNT_HOLD k) + s.cyclesIn (s.now - b)) 0xFFFFFFFF := by
  have hon : (sget (fun _ => none) (holdCount k s).power.holdFrom k).isSome =
      (s.power.hold.contains k || s.power.shaded.contains k) := by
    refine (congrArg Option.isSome (sget_sset_same (fun _ => none) s.power.holdFrom k _)).trans ?_
    cases s.power.hold.contains k || s.power.shaded.contains k <;> rfl
  refine ⟨_, rfl, ?_, hon, fun b hb => ?_⟩
  · unfold holdCount
    cases sget (fun _ => none) s.power.holdFrom k <;> rfl
  · unfold holdCount
    rw [hb]
    exact (State.liveAt_count s _ _ _).trans (if_pos rfl)

end

/-! ### Regulators -/

section
variable {s : State} {d : Fin 816} {sensors : List Nat}

/-- The output of a regulator after a sample whose lowest sensor reads `low` (R358). -/
def regulated (old target : Nat) (low : Int) : Nat := ((old : Int) + max (-8) (min 8 ((target : Int) - low))).toNat

/-- The lowest of the sensors is one of them. -/
theorem exists_lowest (h : sensors ≠ []) : ∃ v ∈ sensors, ∀ x ∈ sensors, v ≤ x := by
  obtain ⟨v, hv⟩ := Option.isSome_iff_exists.1 (List.isSome_min?_of_ne_nil h)
  exact ⟨v, List.min?_eq_some_iff.1 hv⟩

theorem foldl_min_cast {v low : Nat} {vs : List Nat} (hmem : low ∈ v :: vs) (hlow : ∀ x ∈ v :: vs, low ≤ x) :
    List.foldl min (v : Int) (vs >>= fun a => pure (a : Int)) = low := by
  have hmap : (vs >>= fun a => pure (a : Int)) = vs.map (fun a : Nat => (a : Int)) := (map_eq_pure_bind _ vs).symm
  have hmin : ((v :: vs).map fun a : Nat => (a : Int)).min? = some (low : Int) := by
    refine List.min?_eq_some_iff.2 ⟨List.mem_map_of_mem hmem, fun b hb => ?_⟩
    obtain ⟨x, hx, rfl⟩ := List.mem_map.1 hb
    exact Int.ofNat_le.2 (hlow x hx)
  rw [hmap]
  exact Option.some.inj (List.min?_cons'.symm.trans hmin)

/-- The output of regulator `d` becomes `out`. -/
def putVout (d out : Nat) (s : State) : State := updPower (fun p => { p with vout := sset (fun _ => 0) p.vout d out }) s

theorem vout_putVout (d out : Nat) (s : State) : sget (fun _ => 0) (putVout d out s).power.vout d = out :=
  sget_sset_same (fun _ => 0) s.power.vout d out

theorem regulatorSample_eq {low : Nat} (hup : s.down = false) (hmem : low ∈ sensors) (hlow : ∀ x ∈ sensors, low ≤ x) :
    exec (.regulatorSample d sensors) s = .next (putVout d
      (if (s.domain d).1 then regulated (sget (fun _ => 0) s.power.vout d) (s.domain d).2 low else 0) s) := by
  rw [show exec (.regulatorSample d sensors) s = execRegulatorSample d sensors s from rfl]
  unfold execRegulatorSample
  rw [ifUp_eq hup]
  cases sensors with
  | nil => exact absurd hmem List.not_mem_nil
  | cons v vs =>
    generalize s.domain d = dom
    obtain ⟨on, target⟩ := dom
    cases on with
    | true =>
      dsimp only
      rw [foldl_min_cast hmem hlow]
      rfl
    | false => rfl

theorem regulatorSample_moves (hup : s.down = false) (hsensors : sensors ≠ []) :
    let old := sget (fun _ => 0) s.power.vout d
    ∃ t, exec (.regulatorSample d sensors) s = .next t ∧
      t = { s with power := { s.power with vout := t.power.vout } } ∧
      (∀ e, e ≠ d.val → sget (fun _ => 0) t.power.vout e = sget (fun _ => 0) s.power.vout e) ∧
      ((s.domain d).1 = false → sget (fun _ => 0) t.power.vout d = 0) ∧
      ((s.domain d).1 = true → sget (fun _ => 0) t.power.vout d ≤ old + 8 ∧
        old ≤ sget (fun _ => 0) t.power.vout d + 8 ∧
        ((∀ v ∈ sensors, v = (s.domain d).2) → sget (fun _ => 0) t.power.vout d = old) ∧
        ((∃ v ∈ sensors, v < (s.domain d).2) → old < sget (fun _ => 0) t.power.vout d)) := by
  intro old
  obtain ⟨low, hmem, hlow⟩ := exists_lowest hsensors
  refine ⟨_, regulatorSample_eq hup hmem hlow, rfl, fun e he => sget_sset_ne _ _ _ he, ?_⟩
  rw [vout_putVout]
  refine ⟨fun hoff => by rw [hoff]; rfl, fun hon => ?_⟩
  rw [if_pos hon]
  unfold regulated
  refine ⟨by omega, by omega, fun heq => ?_, fun ⟨v, hv, hlt⟩ => ?_⟩
  · have := heq low hmem
    omega
  · have := hlow v hv
    omega

end

/-! ### Clamps and the clock's skipping -/

theorem mem_insertNat {x y : Nat} : ∀ {l : List Nat}, y ∈ insertNat x l ↔ y = x ∨ y ∈ l
  | [] => by rw [insertNat, List.mem_singleton, or_iff_left List.not_mem_nil]
  | z :: l => by
    rw [insertNat]
    split
    next h => rw [h, List.mem_cons]; tauto
    next =>
      split
      · rw [List.mem_cons]
      · rw [List.mem_cons, mem_insertNat, List.mem_cons]; tauto

section
variable {s : State} {i target : Nat} {sensors : List Nat}

theorem any_iff (n : Nat) : (sensors.any fun v => decide (v + n < target)) = true ↔ ∃ v ∈ sensors, v + n < target := by
  simp only [List.any_eq_true, decide_eq_true_eq]

/-- What of the package follows the skipping of core i's clock. -/
theorem skipCount_parts (go : Bool) :
    skipCount i go s = { s with live := (skipCount i go s).live, power := { s.power with
      skipFrom := sset (fun _ => none) s.power.skipFrom i (if go then some s.now else none) } } ∧
    (∀ b, sget (fun _ => none) s.power.skipFrom i = some b → ∀ a, (skipCount i go s).liveAt a =
      if a = Reg.CORE_CNT_STRETCH (i / 16) (i % 16) then min (s.liveAt a + s.cyclesIn (s.now - b)) 0xFFFFFFFF
      else s.liveAt a) ∧
    (sget (fun _ => none) s.power.skipFrom i = none → (skipCount i go s).live = s.live) := by
  unfold skipCount
  cases hfrom : sget (fun _ => none) s.power.skipFrom i with
  | none => exact ⟨rfl, fun b hb => (by cases hb), fun _ => rfl⟩
  | some t =>
    refine ⟨rfl, fun b hb a => ?_, fun h => (by cases h)⟩
    cases hb
    refine (State.liveAt_count s _ a _).trans ?_
    split
    next h => rw [h]
    next => rfl

/-- The clock of core i skips from more than 50 mV below target to within 30 mV (R359). -/
theorem stretchClock_parts :
    (∃ x, stretchClock i target sensors s = { s with live := (stretchClock i target sensors s).live, power := { s.power with
      skipFrom := x } }) ∧
    (∀ a, a ≠ Reg.CORE_CNT_STRETCH (i / 16) (i % 16) → (stretchClock i target sensors s).liveAt a = s.liveAt a) ∧
    sget (fun _ => none) (stretchClock i target sensors s).power.skipFrom i =
      (if (sget (fun _ => none) s.power.skipFrom i).isSome then
        if ∀ v ∈ sensors, target ≤ v + 30 then none else sget (fun _ => none) s.power.skipFrom i
      else if ∃ v ∈ sensors, v + 50 < target then some s.now else none) ∧
    ∀ b, sget (fun _ => none) s.power.skipFrom i = some b → (∀ v ∈ sensors, target ≤ v + 30) →
      (stretchClock i target sensors s).liveAt (Reg.CORE_CNT_STRETCH (i / 16) (i % 16)) =
        min (s.liveAt (Reg.CORE_CNT_STRETCH (i / 16) (i % 16)) + s.cyclesIn (s.now - b)) 0xFFFFFFFF := by
  have hall : (sensors.all fun v => decide (target ≤ v + 30)) = true ↔ ∀ v ∈ sensors, target ≤ v + 30 := by
    simp only [List.all_eq_true, decide_eq_true_eq]
  have hcount : ∀ go, (∃ x, skipCount i go s = { s with live := (skipCount i go s).live, power := { s.power with
      skipFrom := x } }) ∧ sget (fun _ => none) (skipCount i go s).power.skipFrom i = if go then some s.now else none := by
    intro go
    obtain ⟨hparts, -, -⟩ := skipCount_parts (s := s) (i := i) go
    refine ⟨⟨_, hparts⟩, ?_⟩
    rw [hparts]
    exact sget_sset_same (fun _ => none) s.power.skipFrom i _
  cases hfrom : sget (fun _ => none) s.power.skipFrom i with
  | none =>
    have hsome : ¬(none : Option Nat).isSome = true := Bool.false_ne_true
    by_cases hlow : ∃ v ∈ sensors, v + 50 < target
    · have heq : stretchClock i target sensors s = skipCount i true s := by
        unfold stretchClock
        rw [hfrom, if_neg hsome, if_pos ((any_iff 50).2 hlow)]
      obtain ⟨-, -, hlive⟩ := skipCount_parts (s := s) (i := i) true
      obtain ⟨hparts, hskip⟩ := hcount true
      rw [heq, if_neg hsome, if_pos hlow]
      exact ⟨hparts, fun a _ => by rw [State.liveAt, hlive hfrom]; rfl, hskip, fun b hb => (by cases hb)⟩
    · have heq : stretchClock i target sensors s = s := by
        unfold stretchClock
        rw [hfrom, if_neg hsome, if_neg fun h => hlow ((any_iff 50).1 h)]
      rw [heq, if_neg hsome, if_neg hlow]
      exact ⟨⟨_, rfl⟩, fun _ _ => rfl, hfrom, fun b hb => (by cases hb)⟩
  | some t =>
    have hsome : (some t).isSome = true := rfl
    by_cases hhigh : ∀ v ∈ sensors, target ≤ v + 30
    · have heq : stretchClock i target sensors s = skipCount i false s := by
        unfold stretchClock
        rw [hfrom, if_pos hsome, if_pos (hall.2 hhigh)]
      obtain ⟨-, hlive, -⟩ := skipCount_parts (s := s) (i := i) false
      obtain ⟨hparts, hskip⟩ := hcount false
      rw [heq, if_pos hsome, if_pos hhigh]
      refine ⟨hparts, fun a ha => (hlive t hfrom a).trans (if_neg ha), hskip, fun b hb _ => ?_⟩
      cases hb
      exact (hlive t hfrom _).trans (if_pos rfl)
    · have heq : stretchClock i target sensors s = s := by
        unfold stretchClock
        rw [hfrom, if_pos hsome, if_neg fun h => hhigh (hall.1 h)]
      rw [heq, if_pos hsome, if_neg hhigh]
      exact ⟨⟨_, rfl⟩, fun _ _ => rfl, hfrom, fun b _ h => absurd h hhigh⟩

/-- Clamp i engages more than 30 mV below target, and releases after 16 ns within 10 mV (R359). -/
theorem clampCore_parts :
    let on := s.power.clamped.contains i = true
    let engages := ¬on ∧ ∃ v ∈ sensors, v + 30 < target
    let calm := ∀ v ∈ sensors, target ≤ v + 10 ∧ v ≤ target + 10
    let since := sget (fun _ => none) s.power.calmFrom i
    let t := clampCore i target sensors s
    (∃ x y, t = { s with live := t.live, power := { s.power with clamped := x, calmFrom := y } }) ∧
    (i ∈ t.power.clamped ↔ engages ∨ (on ∧ ¬(calm ∧ ∃ b, since = some b ∧ b + 128 ≤ s.now))) ∧
    (∀ j, j ≠ i → (j ∈ t.power.clamped ↔ j ∈ s.power.clamped)) ∧
    (on → sget (fun _ => none) t.power.calmFrom i = if calm ∧ (∀ b, since = some b → s.now < b + 128) then
      some (since.getD s.now) else none) ∧
    (∀ a, t.liveAt a = if a = Reg.CORE_CNT_CLAMP (i / 16) (i % 16) ∧ engages then min (s.liveAt a + 1) 0xFFFFFFFF
      else s.liveAt a) := by
  intro on engages calm since
  have hcalm : (sensors.all fun v => decide (target ≤ v + 10 ∧ v ≤ target + 10)) = true ↔ calm := by
    simp only [List.all_eq_true, decide_eq_true_eq, calm]
  have hmem : i ∈ s.power.clamped ↔ on := List.contains_iff_mem.symm
  unfold clampCore
  by_cases hon : on
  · have hnone : ¬engages := fun h => h.1 hon
    have hlive : ∀ a, s.liveAt a = if a = Reg.CORE_CNT_CLAMP (i / 16) (i % 16) ∧ engages then
        min (s.liveAt a + 1) 0xFFFFFFFF else s.liveAt a := fun a => (if_neg fun h => hnone h.2).symm
    rw [if_neg (by rw [show s.power.clamped.contains i = true from hon]; decide)]
    by_cases hquiet : calm
    · rw [if_neg (by rw [hcalm.2 hquiet]; decide)]
      cases hsince : sget (fun _ => none) s.power.calmFrom i with
      | none =>
        have hstay : ∀ b, since ≠ some b := fun b hb => by rw [show since = none from hsince] at hb; cases hb
        refine ⟨⟨_, _, rfl⟩, ?_, fun _ _ => Iff.rfl, fun _ => ?_, hlive⟩
        · exact ⟨fun _ => .inr ⟨hon, fun ⟨_, b, hb, _⟩ => hstay b hb⟩, fun _ => hmem.2 hon⟩
        · rw [if_pos ⟨hquiet, fun b hb => absurd hb (hstay b)⟩, show since = none from hsince]
          exact sget_sset_same (fun _ => none) s.power.calmFrom i (some s.now)
      | some b =>
        have hb : since = some b := hsince
        by_cases hlt : s.now < b + 128
        · dsimp only
          rw [if_pos hlt]
          refine ⟨⟨_, _, rfl⟩, ?_, fun _ _ => Iff.rfl, fun _ => ?_, hlive⟩
          · refine ⟨fun _ => .inr ⟨hon, fun ⟨_, c, hc, hle⟩ => ?_⟩, fun _ => hmem.2 hon⟩
            rw [hb] at hc
            cases hc
            omega
          · rw [if_pos ⟨hquiet, fun c hc => by rw [hb] at hc; cases hc; exact hlt⟩, hb]
            exact hsince
        · dsimp only
          rw [if_neg hlt]
          refine ⟨⟨_, _, rfl⟩, ?_, fun j hj => ?_, fun _ => ?_, hlive⟩
          · refine ⟨fun h => absurd (List.mem_filter.1 h).2 (by simp), fun h => ?_⟩
            rcases h with h | ⟨-, h⟩
            · exact absurd h hnone
            · exact absurd ⟨hquiet, b, hb, by omega⟩ h
          · exact List.mem_filter.trans (and_iff_left (bne_iff_ne.2 hj))
          · rw [if_neg fun h => hlt (h.2 b hb)]
            exact sget_sset_same (fun _ => none) s.power.calmFrom i none
    · rw [if_pos (by rw [Bool.eq_false_iff.2 fun h => hquiet (hcalm.1 h)]; rfl)]
      refine ⟨⟨_, _, rfl⟩, ?_, fun _ _ => Iff.rfl, fun _ => ?_, hlive⟩
      · exact ⟨fun _ => .inr ⟨hon, fun h => hquiet h.1⟩, fun _ => hmem.2 hon⟩
      · rw [if_neg fun h => hquiet h.1]
        exact sget_sset_same (fun _ => none) s.power.calmFrom i none
  · have hoff : s.power.clamped.contains i = false := Bool.eq_false_iff.2 hon
    rw [if_pos (by rw [hoff]; rfl)]
    by_cases hlow : ∃ v ∈ sensors, v + 30 < target
    · rw [if_pos ((any_iff 30).2 hlow)]
      refine ⟨⟨_, _, rfl⟩, ⟨fun _ => .inl ⟨hon, hlow⟩, fun _ => mem_insertNat.2 (.inl rfl)⟩,
        fun j hj => mem_insertNat.trans (or_iff_right hj), fun h => absurd h hon, fun a => ?_⟩
      refine (State.liveAt_count _ _ _ _).trans ?_
      by_cases ha : a = Reg.CORE_CNT_CLAMP (i / 16) (i % 16)
      · rw [if_pos ha, if_pos ⟨ha, hon, hlow⟩, ha]
        rfl
      · rw [if_neg ha, if_neg fun h => ha h.1]
        rfl
    · rw [if_neg fun h => hlow ((any_iff 30).1 h)]
      exact ⟨⟨_, _, rfl⟩, ⟨fun h => absurd (hmem.1 h) hon, fun h => h.elim (fun e => absurd e.2 hlow)
        fun e => absurd e.1 hon⟩, fun _ _ => Iff.rfl, fun h => absurd h hon, fun a => (if_neg fun h => hlow h.2.2).symm⟩

end

theorem shuntClamp_eq {s : State} {c : Cid} {sensors : List Nat} (hup : s.down = false)
    (hon : (s.domain (ci c)).1 = true) : exec (.shuntClamp c sensors) s =
      .next (clampCore (ci c) (s.domain (ci c)).2 sensors (stretchClock (ci c) (s.domain (ci c)).2 sensors s)) := by
  rw [show exec (.shuntClamp c sensors) s = execShuntClamp c sensors s from rfl]
  unfold execShuntClamp
  rw [ifUp_eq hup]
  generalize s.domain (ci c) = dom at hon
  obtain ⟨on, target⟩ := dom
  cases hon
  rfl

/-! ### Leakage -/

theorem sget_of_above {d : Nat → Nat} {m : SMap Nat} {b k : Nat} (h : swfFrom d (some b) m = true) (hk : k ≤ b) :
    sget d m k = d k := by
  induction m generalizing b with
  | nil => rfl
  | cons e m ih =>
    obtain ⟨j, v⟩ := e
    obtain ⟨hj, -, hm⟩ := (swfFrom_cons d (some b) j v m).1 h
    have hlt := hj b rfl
    rw [sget_cons, if_neg (by dsimp only; omega)]
    exact ih hm (by omega)

/-- What is added entry by entry of a canonical table is added at each key. -/
theorem sget_foldl_add (dt : Nat) {m : SMap Nat} {lo : Option Nat} (h : swfFrom (fun _ => 0) lo m = true) (acc : SMap Nat)
    (k : Nat) : sget (fun _ => 0) (m.foldl (fun a e => sset (fun _ => 0) a e.1 (sget (fun _ => 0) a e.1 + e.2 * dt)) acc) k =
      sget (fun _ => 0) acc k + sget (fun _ => 0) m k * dt := by
  induction m generalizing lo acc with
  | nil => simp
  | cons e m ih =>
    obtain ⟨j, v⟩ := e
    obtain ⟨-, -, hm⟩ := (swfFrom_cons (fun _ => 0) lo j v m).1 h
    rw [List.foldl_cons, ih hm, sget_sset, sget_cons]
    by_cases hk : k = j
    · rw [if_pos hk, if_pos hk, hk, sget_of_above hm (Nat.le_refl j), Nat.zero_mul, Nat.add_zero]
    · rw [if_neg hk, if_neg hk]

/-- A table filled from a list of keys reads at each of them what was put there. -/
theorem sget_foldl_fill (f : Nat → Nat) (l : List Nat) (acc : SMap Nat) (k : Nat) :
    sget (fun _ => 0) (l.foldl (fun m d => sset (fun _ => 0) m d (f d)) acc) k =
      if k ∈ l then f k else sget (fun _ => 0) acc k := by
  induction l generalizing acc with
  | nil => simp
  | cons j l ih =>
    rw [List.foldl_cons, ih, sget_sset]
    by_cases hl : k ∈ l
    · rw [if_pos hl, if_pos (List.mem_cons_of_mem _ hl)]
    · by_cases hj : k = j
      · rw [if_neg hl, if_pos hj, hj, if_pos List.mem_cons_self]
      · rw [if_neg hl, if_neg hj, if_neg fun h => (List.mem_cons.1 h).elim hj hl]

/-- The leakage energy is settled, and the leakages become `leak`. -/
def leakFilled (leak : SMap Nat) (s : State) : State := updPower (fun p => { p with leak := leak }) (leakSettle s)

theorem leakFilled_parts (leak : SMap Nat) (s : State) :
    leakFilled leak s = { s with power := { s.power with
      leak := leak, leakJ := (leakFilled leak s).power.leakJ, leakFrom := s.now } } := rfl

theorem leakageEval_evaluates {s : State} (hup : s.down = false) : ∃ t, exec .leakageEval s = .next t ∧
    t.power.leakFrom = s.now ∧
    t = { s with power := { s.power with leak := t.power.leak, leakJ := t.power.leakJ, leakFrom := t.power.leakFrom } } ∧
    (∀ d, d < 816 → sget (fun _ => 0) t.power.leak d =
      if (s.domain d).1 then Config.leakage d (s.domain d).2 (s.domainTemp d) else 0) ∧
    (swf (fun _ => 0) s.power.leak = true → ∀ d, sget (fun _ => 0) t.power.leakJ d =
      sget (fun _ => 0) s.power.leakJ d + sget (fun _ => 0) s.power.leak d * (s.now - s.power.leakFrom)) := by
  have hexec : exec .leakageEval s = .next (leakFilled ((List.range 816).foldl (fun m d =>
      sset (fun _ => 0) m d ((leakSettle s).leakAt d ((leakSettle s).domain d).2)) []) s) := ifUp_eq hup _
  have hleak : ∀ d, d < 816 → sget (fun _ => 0) ((List.range 816).foldl (fun m d =>
      sset (fun _ => 0) m d ((leakSettle s).leakAt d ((leakSettle s).domain d).2)) []) d =
        if (s.domain d).1 then Config.leakage d (s.domain d).2 (s.domainTemp d) else 0 := fun d hd =>
    (sget_foldl_fill (fun d => (leakSettle s).leakAt d ((leakSettle s).domain d).2) (List.range 816) [] d).trans
      (if_pos (List.mem_range.2 hd))
  generalize (List.range 816).foldl _ _ = leak at hexec hleak
  have hparts := leakFilled_parts leak s
  refine ⟨_, hexec, ?_, ?_, ?_, fun hwf d => sget_foldl_add (s.now - s.power.leakFrom) hwf s.power.leakJ d⟩
  · rw [hparts]
  · rw [hparts]
  · rw [hparts]
    exact hleak

/-- Settles O42: the regulator's step is at most 8 mV of the lowest sensor's error; a clamp's sample is the clock's part
and the clamp's part, each by its own cases. -/
theorem powerIsSupervised : Obligations.PowerIsSupervised := by
  intro s hup
  refine ⟨fun k mw => ⟨ifUp_eq hup _, ?_⟩, fun mw ma => ?_, fun k => holdCount_counts,
    fun d sensors hsensors => regulatorSample_moves hup hsensors, fun c sensors hon => ?_, leakageEval_evaluates hup⟩
  · exact (ifUp_eq hup _).trans (apply_ite Host.Outcome.next _ _ _).symm
  · exact (ifUp_eq hup _).trans (apply_ite Host.Outcome.next _ _ _).symm
  · intro i target on engages calm since skips clamps skipped
    obtain ⟨⟨x, hw⟩, hlive, hskip, hcount⟩ := stretchClock_parts (s := s) (i := i) (target := target) (sensors := sensors)
    generalize hwdef : stretchClock i target sensors s = w at hw hlive hskip hcount
    have hexec : exec (.shuntClamp c sensors) s = .next (clampCore i target sensors w) :=
      (shuntClamp_eq hup hon).trans (by rw [← hwdef])
    obtain ⟨⟨y, z, ht⟩, hclamped, hothers, hcalm, hcounts⟩ :=
      clampCore_parts (s := w) (i := i) (target := target) (sensors := sensors)
    have hparts : w.power.clamped = s.power.clamped ∧ w.power.calmFrom = s.power.calmFrom ∧ w.now = s.now := by
      rw [hw]
      exact ⟨rfl, rfl, rfl⟩
    obtain ⟨hc, hf, hnow⟩ := hparts
    rw [hc, hf, hnow] at hclamped hcalm
    rw [hc] at hothers hcounts
    have hpair : clamps = Reg.CORE_CNT_CLAMP (i / 16) (i % 16) ∧ skipped = Reg.CORE_CNT_STRETCH (i / 16) (i % 16) := by
      rw [ci_div, ci_mod]
      exact ⟨rfl, rfl⟩
    have hne : clamps ≠ skipped := by
      unfold clamps skipped Reg.CORE_CNT_CLAMP Reg.CORE_CNT_STRETCH
      omega
    refine ⟨_, hexec, hclamped, hcalm, ?_, ?_, ?_, hothers, ?_⟩
    · rw [hcounts, hlive _ (by rw [← hpair.2]; exact hne)]
      exact if_congr (and_iff_right hpair.1) rfl rfl
    · rw [ht]
      exact hskip
    · intro b hb hhigh
      rw [hcounts, if_neg fun h => hne (hpair.1.trans h.1.symm), hpair.2]
      exact hcount b hb hhigh
    · rw [ht, hw]

end Sys2Proof.Machine
end

section

/-! ## Power lending (O43) -/

namespace Sys2Proof.Machine

open Sys2Proof

-- Proofs in turn: each that waits on others while elaborated at once holds a stack, and the check limits the memory.
set_option Elab.async false

/-! ### Reports, DECs and INCs received -/

section
variable {kind : Nat} {l : InLink} {m : Msg} {s v : State}

/-- A message of power lending that is taken and not refused is acknowledged as it takes effect. -/
theorem TakesKind.receiveLend (h : TakesKind 0x15 kind l m s v) (hok : v.refuseReason m = none)
    (f : Msg → State → State) : receiveLend kind f l s = .next (sendAck l m (f m v)) := by
  obtain ⟨e, hfind, htakes⟩ := h
  unfold Machine.receiveLend
  rw [hfind]
  refine (htakes.receive _).trans ?_
  rw [hok]

end

/-! ### A round -/

section
variable {s : State}

theorem next_of_keeps {o : Out} {t : State} (h : NextKeeps quiet s o) (ho : o = .next t) : OutsideSame s t :=
  outside_of_keeps (h t ho)

/-- A member that a round takes is in want and has too little slack (R376). -/
theorem lendRound_takes (hup : s.down = false) (hcoord : s.coordinator = true)
    (hround : ∀ r, s.power.round = some r → r.bound ≠ s.tick.index + 1) :
    ∃ t r, exec .lendRound s = .next t ∧ t.power.round = some r ∧ r.bound = s.tick.index + 1 ∧ r.phase2 = false ∧
      r.recv.length ≤ 8 ∧ t.power.pool = -(((s.members.map (·.2)).dedup.map s.deltaOf).sum) ∧
      (∀ d n, (d, n) ∈ r.recv → ∃ x, s.freshReport d = some x ∧ x.need = n ∧ 0 < n ∧
        256 * x.slack < (s.fld Reg.PWR_LEND_CFG F.PWR_LEND_CFG.LO * (8 * s.tick.period) : Nat)) := by
  have hopen : ¬(!s.coordinator || (s.power.round.any fun r => r.bound == s.tick.index + 1)) = true := by
    rw [hcoord]
    cases hr : s.power.round with
    | none => exact Bool.false_ne_true
    | some r =>
      have hne := beq_eq_false_iff_ne.2 (hround r hr)
      rw [Option.any_some, hne]
      decide
  refine ⟨_, _, (ifUp_eq hup _).trans (if_neg hopen), rfl, rfl, rfl, ?_, rfl, fun d n hmem => ?_⟩
  · rw [List.length_map]
    exact List.length_take_le _ _
  · obtain ⟨⟨e, x⟩, hx, heq⟩ := List.mem_map.1 hmem
    have hfilter := List.mem_mergeSort.1 (List.mem_of_mem_take hx)
    obtain ⟨hfresh, hneed⟩ := List.mem_filter.1 hfilter
    obtain ⟨e', -, he⟩ := List.mem_filterMap.1 hfresh
    obtain ⟨x', hreport, hpair⟩ := Option.map_eq_some_iff.1 he
    cases hpair
    cases heq
    obtain ⟨hpos, hslack⟩ := of_decide_eq_true hneed
    exact ⟨x, hreport, rfl, hpos, by push_cast; exact hslack⟩

/-- What the second phase gives one receiver (R376). -/
def lendGive (lat bound : Nat) (e : Nat × Nat) (s : State) : State :=
  match s.freshReport e.1 with
  | none => s
  | some x =>
    if decide ((e.2 : Int) ≤ s.power.pool) && decide (x.delta + e.2 ≤ (x.limit : Int) - x.base) &&
        decide (s.tb ≤ 64 * (s.comingAt - lat)) then
      let s := (sendLend 3 e.1 bound (x.delta + e.2) s).2
      updPower (fun p => { p with pool := p.pool - e.2, incSent := sput p.incSent e.1 (x.delta + e.2) }) s
    else s

/-- What the lending of a round in its second phase keeps: the round, and no more given than the pool `pool` held. -/
def LendsFrom (round : Option LendRound) (pool : Int) (t : State) : Prop :=
  t.power.round = round ∧ t.power.pool ≤ pool ∧ (0 ≤ pool → 0 ≤ t.power.pool)

theorem lendGive_lendsFrom {round : Option LendRound} {pool : Int} {lat bound : Nat} (e : Nat × Nat)
    (h : LendsFrom round pool s) : LendsFrom round pool (lendGive lat bound e s) := by
  unfold lendGive
  split
  · exact h
  next x _ =>
    split
    next hgive =>
      have hpower : (sendLend 3 e.1 bound (x.delta + e.2) s).2.power = s.power := by
        obtain ⟨-, -, -, -, -, -, -, hpower, -⟩ :=
          (show Keeps { power := true } s (sendLend 3 e.1 bound (x.delta + e.2) s).2 by simp [Keeps.refl])
        exact hpower rfl
      obtain ⟨hround, hle, hpos⟩ := h
      rw [Bool.and_eq_true, Bool.and_eq_true, decide_eq_true_eq] at hgive
      obtain ⟨⟨hneed, -⟩, -⟩ := hgive
      generalize hu : (sendLend 3 e.1 bound (x.delta + e.2) s).2 = u at hpower
      refine ⟨(congrArg Power.round hpower).trans hround, ?_, fun h0 => ?_⟩
      · change u.power.pool - e.2 ≤ pool
        rw [hpower]
        omega
      · change 0 ≤ u.power.pool - e.2
        rw [hpower]
        omega
    next => exact h

theorem forEach_lendsFrom {round : Option LendRound} {pool : Int} {lat bound : Nat} (es : List (Nat × Nat))
    (h : LendsFrom round pool s) : LendsFrom round pool (forEach es (lendGive lat bound) s) := by
  induction es generalizing s with
  | nil => exact h
  | cons e es ih => exact ih (lendGive_lendsFrom e h)

theorem lendPhase2_gives {r : LendRound} (hup : s.down = false) (hr : s.power.round = some r) (h2 : r.phase2 = false)
    (hcoord : s.coordinator = true) (hbound : r.bound = s.tick.index + 1) :
    ∃ t, exec .lendPhase2 s = .next t ∧ LendsFrom (some { r with phase2 := true }) s.power.pool t := by
  have hopen : ¬(r.phase2 || !s.coordinator || r.bound != s.tick.index + 1) = true := by
    rw [h2, hcoord, hbound, bne_self_eq_false]
    decide
  have hexec : exec .lendPhase2 s = .next (forEach r.recv (lendGive (s.fld Reg.TICK_REL_LAT F.TICK_REL_LAT.UNITS) r.bound)
      (updPower (fun p => { p with round := some { r with phase2 := true } }) (if r.decs.isEmpty then s else
        s.advanceTb (64 * (s.comingAt - 2 * s.fld Reg.TICK_REL_LAT F.TICK_REL_LAT.UNITS))))) := by
    rw [show exec .lendPhase2 s = execLendPhase2 s from rfl]
    unfold execLendPhase2
    rw [ifUp_eq hup, hr]
    exact if_neg hopen
  have hpower : ∀ b t, (if b = true then s else s.advanceTb t).power = s.power := fun b t => by
    split
    · rfl
    · obtain ⟨now, tb, tsync, h⟩ := advanceTb_clocks t s
      rw [h]
  generalize hw : (if r.decs.isEmpty = true then s else _) = w at hexec
  have hw' : w.power = s.power := by rw [← hw]; exact hpower _ _
  refine ⟨_, hexec, forEach_lendsFrom _ ⟨rfl, ?_, fun h => ?_⟩⟩
  · exact (congrArg Power.pool hw').le
  · exact h.trans_eq (congrArg Power.pool hw').symm

end

/-- Settles O43: a round's receivers are those its own filter let through; each gift of the second phase is within what
the pool still holds (`LendsFrom`). -/
theorem powerIsLent : Obligations.PowerIsLent := by
  refine ⟨fun s hup => ⟨fun l hjob hfirst hsend => ?_, fun hcoord hround => ?_, fun r hr h2 hcoord hbound => ?_⟩,
    fun l m s v hok => ⟨fun h => ?_, ?_⟩⟩
  · intro v
    have hdue : (s.inJob && !s.power.reported && s.canSend s.rootPkg 3) = true := by
      rw [hjob, hfirst, hsend]
      rfl
    exact (ifUp_eq hup _).trans ((if_pos rfl).trans (if_pos hdue))
  · obtain ⟨t, r, hexec, hrest⟩ := lendRound_takes hup hcoord hround
    obtain ⟨hsome, hbound, hphase, hlen, hpool, hrecv⟩ := hrest
    exact ⟨t, r, hexec, hsome, hbound, hphase, hlen, hpool, hrecv,
      next_of_keeps (execLendRound_keeps rfl .refl) hexec⟩
  · obtain ⟨t, hexec, hround, hle, hpos⟩ := lendPhase2_gives hup hr h2 hcoord hbound
    exact ⟨t, hexec, hround, hle, hpos, next_of_keeps (execLendPhase2_keeps rfl rfl .refl) hexec⟩
  · exact (ifUp_eq h.up _).trans (h.receiveLend hok _)
  · intro b x late
    refine ⟨fun h => (ifUp_eq h.up _).trans ((h.receiveLend hok _).trans ?_),
      fun h => (ifUp_eq h.up _).trans ((h.receiveLend hok _).trans ?_)⟩
    · rfl
    · rfl

end Sys2Proof.Machine
end

section

/-! ## The thermal block (O44) -/

namespace Sys2Proof.Machine

open Sys2Proof

-- Proofs in turn: each that waits on others while elaborated at once holds a stack, and the check limits the memory.
set_option Elab.async false

/-! ### The levels stay through a sample of the sensors -/

/-- The levels and the time are as before. -/
def SameLevels (s t : State) : Prop := t.thermal.lv = s.thermal.lv ∧ t.now = s.now

section
variable {s t u : State}

theorem SameLevels.trans (h : SameLevels s t) (k : SameLevels t u) : SameLevels s u := by
  obtain ⟨hlv, hnow⟩ := h
  obtain ⟨klv, know⟩ := k
  exact ⟨klv.trans hlv, know.trans hnow⟩

theorem SameLevels.lv (h : SameLevels s t) (i : Nat) : t.lv i = s.lv i := by
  unfold State.lv
  rw [h.1]

/-- An event or a report shows in none of it. -/
theorem sameLevels_of_keeps (h : Keeps { thermal := true, clock := true } s t) : SameLevels s t := by
  obtain ⟨-, -, -, -, -, -, -, -, hthermal, -, hclock⟩ := h
  exact ⟨congrArg _ (hthermal rfl), (hclock rfl).1⟩

theorem sameLevels_setDie (d : Nat) (x : Die) : SameLevels s (setDie d x s) := ⟨rfl, rfl⟩

theorem sameLevels_forEach {α : Type} {f : α → State → State} (hf : ∀ a t, SameLevels t (f a t)) (l : List α) (s : State) :
    SameLevels s (forEach l f s) := by
  induction l generalizing s with
  | nil => exact ⟨rfl, rfl⟩
  | cons a l ih => exact (hf a s).trans (ih _)

theorem sameLevels_sensorBroken (d : Nat) (x : Die) : SameLevels s (sensorBroken d (setDie d x s)) :=
  (sameLevels_setDie d x).trans (sameLevels_of_keeps (by simp [Keeps.refl]))

theorem sameLevels_markBroken (d : Nat) (r : DieRead) : SameLevels s (markBroken d r s) := by
  unfold markBroken
  refine SameLevels.trans ?_ (sameLevels_forEach (fun a t => ?_) _ _)
  · split
    · exact sameLevels_sensorBroken d _
    · exact ⟨rfl, rfl⟩
  · obtain ⟨j, n⟩ := a
    dsimp only
    split
    · exact sameLevels_sensorBroken d _
    · exact ⟨rfl, rfl⟩

theorem sameLevels_sampleDie (d : Nat) (r : DieRead) : SameLevels s (sampleDie d r s) := by
  unfold sampleDie
  extract_lets v temp x w v1 v2
  have hbroken : SameLevels s v := sameLevels_markBroken d r
  have hwarn : SameLevels v1 v2 := by
    unfold v2
    split
    · exact sameLevels_of_keeps (by simp [Keeps.refl])
    · exact ⟨rfl, rfl⟩
  exact hbroken.trans ((sameLevels_setDie d _).trans (hwarn.trans (sameLevels_of_keeps (by simp [Keeps.refl]))))

end

/-! ### A sample while a cold reset is held -/

section
variable {s : State}

theorem State.die_setDie (s : State) (d e : Nat) (x : Die) : (setDie d x s).die e = if e = d then x else s.die e :=
  sget_sset ..

/-- The diode of one die, read while a cold reset is held (R381). -/
def diodeRead (e : Nat × DieRead) (s : State) : State :=
  let x := { s.die e.1 with diodeBad := (s.die e.1).diodeBad || decide (e.2.diode < -160) || decide (600 < e.2.diode) }
  setDie e.1 { x with reading := (setDie e.1 x s).dieReading e.1 e.2 } s

theorem diodeCheck_eq (ds : List Nat) (reads : List DieRead) : diodeCheck ds reads s =
    if ds.any fun d => decide (472 ≤ ((forEach (ds.zip reads) diodeRead s).die d).reading) then
      shutdown (forEach (ds.zip reads) diodeRead s)
    else forEach (ds.zip reads) diodeRead s := rfl

/-- A die reads at least what its diode reads. -/
theorem diode_le_dieReading {d : Nat} {r : DieRead} (h : (s.die d).diodeBad = false) : r.diode ≤ s.dieReading d r := by
  unfold State.dieReading
  extract_lets x osc good bad
  have hgood : good = r.diode :: (osc.filter fun o => !x.broken.contains o.1).map fun o => s.oscTemp d o.1 o.2 := by
    unfold good
    rw [show x.diodeBad = false from h]
    rfl
  rw [hgood]
  have hmax : ∀ (ts : List Int) (m : Int), m ≤ ts.foldl max m := fun ts m =>
    List.max?_eq_some_iff.1 (List.max?_cons' (x := m) (xs := ts)) |>.2 m List.mem_cons_self
  dsimp only
  split
  · exact (hmax _ _).trans (Int.le_max_left _ _)
  · exact hmax _ _

theorem diodeReads_other {l : List (Nat × DieRead)} {d : Nat} (h : d ∉ l.map (·.1)) (s : State) :
    (forEach l diodeRead s).die d = s.die d := by
  induction l generalizing s with
  | nil => rfl
  | cons e l ih =>
    rw [List.map_cons, List.mem_cons, not_or] at h
    obtain ⟨hne, hrest⟩ := h
    refine (ih hrest (diodeRead e s)).trans ?_
    rw [diodeRead, State.die_setDie, if_neg hne]

/-- A die whose diode is in range reads at least what it reads. -/
theorem diodeReads_reading {l : List (Nat × DieRead)} {d : Nat} {r : DieRead} (hdies : (l.map (·.1)).Nodup)
    (hmem : (d, r) ∈ l) (hgood : (s.die d).diodeBad = false) (hlo : -160 ≤ r.diode) (hhi : r.diode ≤ 600) :
    r.diode ≤ ((forEach l diodeRead s).die d).reading := by
  induction l generalizing s with
  | nil => exact absurd hmem List.not_mem_nil
  | cons e l ih =>
    rw [List.map_cons, List.nodup_cons] at hdies
    obtain ⟨hnot, hdies⟩ := hdies
    have hstep : forEach (e :: l) diodeRead s = forEach l diodeRead (diodeRead e s) := rfl
    rw [hstep]
    rcases List.mem_cons.1 hmem with rfl | hmem
    · rw [diodeReads_other hnot, diodeRead, State.die_setDie, if_pos rfl]
      refine diode_le_dieReading ?_
      rw [State.die_setDie, if_pos rfl]
      dsimp only
      rw [hgood, decide_eq_false (by omega), decide_eq_false (by omega)]
      rfl
    · have hne : d ≠ e.1 := fun h => hnot (h ▸ List.mem_map_of_mem (f := (·.1)) hmem)
      refine ih hdies hmem ?_
      rw [diodeRead, State.die_setDie, if_neg hne]
      exact hgood

theorem diesOf_nodup (i : Nat) : (diesOf i).Nodup := by
  unfold diesOf
  split
  · exact List.nodup_cons.2 ⟨fun h => by have := List.mem_singleton.1 h; omega, List.nodup_singleton _⟩
  · exact List.nodup_singleton _

theorem thermalSample_reset {i : Fin 40} {reads : List DieRead} (hshut : s.thermal.shut = false)
    (hvin : s.lands.vinOk = true) (hdown : s.down = true) (hlen : reads.length = (diesOf i).length) :
    exec (.thermalSample i reads) s = .next (diodeCheck (diesOf i) reads s) := by
  refine (if_neg ?_).trans (if_pos hdown)
  rw [hshut, hvin, show (reads.length != (dieGroup i).length) = false from bne_eq_false_iff_eq.2 hlen]
  decide

theorem diodeCheck_shuts {i : Nat} {reads : List DieRead} {d : Nat} {r : DieRead}
    (hlen : reads.length = (diesOf i).length) (hmem : (d, r) ∈ (diesOf i).zip reads) (hgood : (s.die d).diodeBad = false)
    (hlo : 472 ≤ r.diode) (hhi : r.diode ≤ 600) : (diodeCheck (diesOf i) reads s).thermal.shut = true := by
  have hdies : (((diesOf i).zip reads).map (·.1)).Nodup := by
    rw [List.map_fst_zip hlen.ge]
    exact diesOf_nodup i
  have hread := diodeReads_reading (s := s) hdies hmem hgood (by omega) hhi
  rw [diodeCheck_eq, if_pos]
  · rfl
  · exact List.any_eq_true.2 ⟨d, (List.of_mem_zip hmem).1, decide_eq_true (by omega)⟩

end

/-! ### A sample -/

section
variable {s : State} {i : Fin 40} {reads : List DieRead}

/-- The dies of a group note whether the group is hot (R383). -/
def noteFast (t0 : Int) (ds : List Nat) (s : State) : State :=
  forEach ds (fun d s =>
    let x := s.die d
    setDie d { x with fast := decide (388 ≤ t0) || (x.fast && decide (384 ≤ t0)) } s) s

/-- Unit i's new level, with its event, its report and its hold-back where the unit is a stack (R388, R389). -/
def levelled (i : Fin 40) (new : Level) (s : State) : State :=
  if i.val < 24 then
    shadeHold i (if (s.lv i).level = 0 ∧ new.level = 1 then
      reportLocal 1 i 0x0B 0 (thmEvt F.THM_EVT.THROTTLE (setLv i new s))
    else setLv i new s)
  else setLv i new s

theorem thermalSample_eq (hup : s.down = false) (hvin : s.lands.vinOk = true)
    (hlen : reads.length = (diesOf i).length) {v w : State} {t0 : Int}
    (hv : v = forEach ((diesOf i).zip reads) (fun (d, r) s => sampleDie d r s) s)
    (ht0 : t0 = ((diesOf i).map fun d => (v.die d).reading).foldl max (v.die ((diesOf i).headD 0)).reading)
    (hw : w = noteFast t0 (diesOf i) v) :
    exec (.thermalSample i reads) s = .next (if 472 ≤ t0 then shutdown w
      else levelled i ((w.lv i).sample 420 400 (msec 1) w.now t0) w) := by
  subst hv ht0 hw
  have hshut : s.thermal.shut = false := (Bool.or_eq_false_iff.1 hup).1
  refine (if_neg ?_).trans ((if_neg (Bool.eq_false_iff.1 hup)).trans ?_)
  · rw [hshut, hvin, show (reads.length != (dieGroup i).length) = false from bne_eq_false_iff_eq.2 hlen]
    decide
  · refine Eq.trans ?_ (apply_ite Host.Outcome.next _ _ _).symm
    refine if_congr Iff.rfl rfl ?_
    · unfold levelled
      by_cases hstack : i.val < 24
      · exact (if_pos hstack).trans (congrArg _ (if_pos hstack).symm)
      · exact (if_neg hstack).trans (congrArg _ (if_neg hstack).symm)

theorem sameLevels_samples (l : List (Nat × DieRead)) :
    SameLevels s (forEach l (fun (d, r) s => sampleDie d r s) s) :=
  sameLevels_forEach (fun ⟨d, r⟩ _ => sameLevels_sampleDie d r) l s

theorem sameLevels_noteFast (t0 : Int) (ds : List Nat) : SameLevels s (noteFast t0 ds s) :=
  sameLevels_forEach (fun d _ => sameLevels_setDie d _) ds s

theorem State.lv_setLv (s : State) (i j : Nat) (x : Level) : (setLv i x s).lv j = if j = i then x else s.lv j :=
  sget_sset ..

theorem levelled_lv (new : Level) (j : Nat) : (levelled i new s).lv j = if j = i.val then new else s.lv j := by
  have hsame : SameLevels (setLv i new s) (levelled i new s) := by
    unfold levelled
    split
    · refine sameLevels_of_keeps ?_
      split <;> simp [Keeps.refl]
    · exact ⟨rfl, rfl⟩
  rw [hsame.lv, State.lv_setLv]

/-- The first level of a stack is shown. -/
theorem levelled_throttle {new : Level} (hi : i.val < 24) (h0 : (s.lv i).level = 0) (h1 : new.level = 1) :
    (levelled i new s).flag Reg.THM_EVT F.THM_EVT.THROTTLE = true := by
  unfold levelled
  rw [if_pos hi, if_pos ⟨h0, h1⟩, State.flag_eq]
  generalize setLv i new s = w
  have hhold : (shadeHold i (reportLocal 1 i 0x0B 0 (thmEvt F.THM_EVT.THROTTLE w))).regs =
      (reportLocal 1 i 0x0B 0 (thmEvt F.THM_EVT.THROTTLE w)).regs :=
    regs_of_keeps (K := { regs := true }) (by simp [Keeps.refl])
  rw [State.bit, State.reg, hhold, ← State.reg, ← State.bit]
  refine (reportLocal_bits 1 i 0 (by decide) _ _ (.inr (by decide))).trans ?_
  exact bit_setFlag_same _ _ _ true (by decide)

end

/-! ### The HBM stacks -/

section
variable {s : State} {m : HbmId}

/-- What a reading of an HBM stack leaves to be judged (R385, R387). -/
def hbmRead (m : HbmId) (t0 : Int) (s : State) : State :=
  let w := warnNext (s.thermal.hbmWarn.contains m) 360 t0
  let v := { s with thermal := { s.thermal with
    hbmFails := sset (fun _ => 0) s.thermal.hbmFails m 0,
    hbmTemp := sset (fun _ => 0) s.thermal.hbmTemp m t0,
    hbmWarn := if w then insertNat m s.thermal.hbmWarn else s.thermal.hbmWarn.filter (· != m.val) } }
  if w && !s.thermal.hbmWarn.contains m then thmEvt F.THM_EVT.WARN v else v

theorem hbmThermalRead_eq {t0 : Int} (hup : s.down = false) : exec (.hbmThermalRead m (some t0)) s =
    if 440 ≤ t0 then .next (shutdown (hbmRead m t0 s))
    else .next (setLv (40 + m) (((hbmRead m t0 s).lv (40 + m)).sample 400 380 (msec 10) (hbmRead m t0 s).now t0)
      (hbmRead m t0 s)) := ifUp_eq hup _

theorem hbmRead_parts (t0 : Int) : SameLevels s (hbmRead m t0 s) ∧
    (hbmRead m t0 s).thermal.hbmTemp = sset (fun _ => 0) s.thermal.hbmTemp m t0 ∧
    (hbmRead m t0 s).thermal.hbmFails = sset (fun _ => 0) s.thermal.hbmFails m 0 := by
  unfold hbmRead
  dsimp only
  split <;> exact ⟨⟨rfl, rfl⟩, rfl, rfl⟩

/-- A readout that fails is counted, up to 3. -/
def hbmFailed (m : HbmId) (n : Nat) (s : State) : State :=
  { s with thermal := { s.thermal with hbmFails := sset (fun _ => 0) s.thermal.hbmFails m n } }

theorem hbmThermalRead_failed (hup : s.down = false) {n : Nat}
    (hn : n = min (sget (fun _ => 0) s.thermal.hbmFails m + 1) 3) : exec (.hbmThermalRead m none) s =
    if n < 3 then .next (hbmFailed m n s)
    else .next (if sget (fun _ => 0) s.thermal.hbmFails m < 3 then
      thmEvt F.THM_EVT.HBM_FAIL (setLv (40 + m) { level := 4, rise := 0, fall := none } (hbmFailed m n s))
      else setLv (40 + m) { level := 4, rise := 0, fall := none } (hbmFailed m n s)) := by
  subst hn
  exact ifUp_eq hup _

end

/-! ### Calibration -/

section
variable {s v : State} {d : Fin 64} {r : DieRead}

/-- The oscillators nearest the diode that a sample reads. -/
def State.nearest (s : State) (d : Fin 64) (r : DieRead) : List (Nat × Nat) :=
  (s.oscReads d r).filter fun o => decide (o.1 < 2) && !(s.die d).broken.contains o.1

/-- The step of a calibration, in 1/8 °C (R382). -/
def State.calStep (s : State) (d : Fin 64) (r : DieRead) : Int :=
  max (-2) (min 2 (((s.nearest d r).map fun o => 2 * r.diode - s.oscEighths d o.1 o.2).sum.tdiv (s.nearest d r).length))

theorem calStep_agreed (h : ∀ o ∈ s.nearest d r, s.oscEighths d o.1 o.2 = 2 * r.diode) : s.calStep d r = 0 := by
  have hsum : ((s.nearest d r).map fun o => 2 * r.diode - s.oscEighths d o.1 o.2).sum = 0 :=
    List.sum_eq_zero fun x hx => by
      obtain ⟨o, ho, rfl⟩ := List.mem_map.1 hx
      rw [h o ho, Int.sub_self]
  unfold State.calStep
  rw [hsum, Int.zero_tdiv]
  rfl

/-- Every oscillator below `n` moves by the step, and no other. -/
theorem sget_foldl_step (step : Int) (n : Nat) (m : SMap Int) (j : Nat) :
    sget (fun _ => 0) ((List.range n).foldl (fun m j => sset (fun _ => 0) m j (sget (fun _ => 0) m j + step)) m) j =
      if j < n then sget (fun _ => 0) m j + step else sget (fun _ => 0) m j := by
  induction n generalizing j with
  | zero => rfl
  | succ n ih =>
    rw [List.range_succ, List.foldl_append, List.foldl_cons, List.foldl_nil, sget_sset, ih, ih, if_neg (Nat.lt_irrefl n)]
    by_cases h : j = n
    · rw [if_pos h, if_pos (by omega), h]
    · rw [if_neg h]
      exact if_congr (by omega) rfl rfl

theorem sensorCalibration_eq (hup : s.down = false) (hv : v = markBroken d r s) :
    exec (.sensorCalibration d r) s =
      if (v.die d).diodeBad || (v.die d).boot.isNone || (v.nearest d r).isEmpty then .next v
      else .next (setDie d { v.die d with offs := (List.range (oscCount d)).foldl (fun m j =>
        sset (fun _ => 0) m j (sget (fun _ => 0) m j + v.calStep d r)) (v.die d).offs } v) := by
  subst hv
  exact ifUp_eq hup _

end

/-! ### The obligation -/

section
variable {s : State}

theorem thermalSample_acts {i : Fin 40} {reads : List DieRead} (hup : s.down = false) (hvin : s.lands.vinOk = true)
    (hlen : reads.length = (diesOf i).length) :
    let v := forEach ((diesOf i).zip reads) (fun (d, r) s => sampleDie d r s) s
    let t0 := ((diesOf i).map fun d => (v.die d).reading).foldl max (v.die ((diesOf i).headD 0)).reading
    (472 ≤ t0 → ∃ t, exec (.thermalSample i reads) s = .next t ∧ t.thermal.shut = true ∧ t.pcie.up = false ∧
      t.down = true ∧ OutsideSame s t) ∧
    (t0 < 472 → ∃ t, exec (.thermalSample i reads) s = .next t ∧
      t.lv i = (s.lv i).sample 420 400 (msec 1) s.now t0 ∧ (∀ j, j ≠ i.val → t.lv j = s.lv j) ∧
      (i.val < 24 → (s.lv i).level = 0 → (t.lv i).level = 1 → t.flag Reg.THM_EVT F.THM_EVT.THROTTLE = true) ∧
      OutsideSame s t) := by
  intro v t0
  have hout : ∀ t, exec (.thermalSample i reads) s = .next t → OutsideSame s t := fun t ht =>
    next_of_keeps (execThermalSample_keeps (K := quiet) rfl rfl rfl .refl) ht
  have hlevels : SameLevels s (noteFast t0 (diesOf i) v) := (sameLevels_samples _).trans (sameLevels_noteFast _ _)
  have hexec := thermalSample_eq hup hvin hlen (v := v) (t0 := t0) (w := noteFast t0 (diesOf i) v) rfl rfl rfl
  clear_value t0
  generalize noteFast t0 (diesOf i) v = w at hexec hlevels
  have hnow : w.now = s.now := hlevels.2
  refine ⟨fun hhot => ?_, fun hcool => ?_⟩
  · have hnext : exec (.thermalSample i reads) s = .next (shutdown w) := hexec.trans (congrArg _ (if_pos hhot))
    exact ⟨_, hnext, rfl, rfl, rfl, hout _ hnext⟩
  · have hnext : exec (.thermalSample i reads) s =
        .next (levelled i ((s.lv i).sample 420 400 (msec 1) s.now t0) w) := by
      rw [hexec, if_neg (by omega), hlevels.lv, hnow]
    refine ⟨_, hnext, ?_, fun j hj => ?_, fun hi h0 h1 => ?_, hout _ hnext⟩
    · rw [levelled_lv, if_pos rfl]
    · rw [levelled_lv, if_neg hj, hlevels.lv]
    · rw [levelled_lv, if_pos rfl] at h1
      exact levelled_throttle hi (by rw [hlevels.lv]; exact h0) h1

theorem hbmThermalRead_acts {m : HbmId} (hup : s.down = false) :
    let lv := 40 + m.val
    (∀ t0 : Int, t0 < 440 → ∃ t, exec (.hbmThermalRead m (some t0)) s = .next t ∧
      t.lv lv = (s.lv lv).sample 400 380 (msec 10) s.now t0 ∧ sget (fun _ => 0) t.thermal.hbmTemp m = t0 ∧
      sget (fun _ => 0) t.thermal.hbmFails m = 0 ∧ OutsideSame s t) ∧
    (∀ t0 : Int, 440 ≤ t0 → ∃ t, exec (.hbmThermalRead m (some t0)) s = .next t ∧ t.thermal.shut = true ∧
      OutsideSame s t) ∧
    (sget (fun _ => 0) s.thermal.hbmFails m < 2 → ∃ t, exec (.hbmThermalRead m none) s = .next t ∧
      sget (fun _ => 0) t.thermal.hbmFails m = sget (fun _ => 0) s.thermal.hbmFails m + 1 ∧
      t = { s with thermal := { s.thermal with hbmFails := t.thermal.hbmFails } }) ∧
    (2 ≤ sget (fun _ => 0) s.thermal.hbmFails m → ∃ t, exec (.hbmThermalRead m none) s = .next t ∧
      (t.lv lv).level = 4 ∧ sget (fun _ => 0) t.thermal.hbmFails m = 3 ∧ OutsideSame s t) := by
  intro lv
  have hout : ∀ x t, exec (.hbmThermalRead m x) s = .next t → OutsideSame s t := fun x t ht =>
    next_of_keeps (execHbmThermalRead_keeps (K := quiet) rfl rfl .refl) ht
  refine ⟨fun t0 hcool => ?_, fun t0 hhot => ?_, fun hfew => ?_, fun hmany => ?_⟩
  · obtain ⟨hlevels, htemp, hfails⟩ := hbmRead_parts (s := s) (m := m) t0
    have hnext := (hbmThermalRead_eq (m := m) (t0 := t0) hup).trans (if_neg (by omega))
    have hnow : (hbmRead m t0 s).now = s.now := hlevels.2
    refine ⟨_, hnext, ?_, ?_, ?_, hout _ _ hnext⟩
    · rw [State.lv_setLv, if_pos rfl, hlevels.lv, hnow]
    · exact (congrArg (sget _ · _) htemp).trans (sget_sset_same (fun _ => 0) _ _ _)
    · exact (congrArg (sget _ · _) hfails).trans (sget_sset_same (fun _ => 0) _ _ _)
  · have hnext := (hbmThermalRead_eq (m := m) (t0 := t0) hup).trans (if_pos hhot)
    exact ⟨_, hnext, rfl, hout _ _ hnext⟩
  · have hn : sget (fun _ => 0) s.thermal.hbmFails m + 1 = min (sget (fun _ => 0) s.thermal.hbmFails m + 1) 3 := by omega
    exact ⟨_, (hbmThermalRead_failed hup hn).trans (if_pos (by omega)),
      sget_sset_same (fun _ => 0) s.thermal.hbmFails m (sget (fun _ => 0) s.thermal.hbmFails m + 1), rfl⟩
  · have hn : 3 = min (sget (fun _ => 0) s.thermal.hbmFails m + 1) 3 := by omega
    have hnext := (hbmThermalRead_failed hup hn).trans (if_neg (Nat.lt_irrefl 3))
    generalize hw : setLv (40 + m) { level := 4, rise := 0, fall := none } (hbmFailed m 3 s) = w at hnext
    have hlv : (w.lv lv).level = 4 := by
      rw [← hw, State.lv_setLv, if_pos rfl]
    have hfails : sget (fun _ => 0) w.thermal.hbmFails m = 3 := by
      rw [← hw]
      exact sget_sset_same (fun _ => 0) s.thermal.hbmFails m 3
    have hsame : ∀ b : Prop, [Decidable b] → (if b then thmEvt F.THM_EVT.HBM_FAIL w else w).thermal = w.thermal := by
      intro b _
      split <;> rfl
    refine ⟨_, hnext, ?_, ?_, hout _ _ hnext⟩
    · rw [State.lv, hsame]
      exact hlv
    · rw [hsame]
      exact hfails

theorem sensorCalibration_acts {d : Fin 64} {r : DieRead} (hup : s.down = false) :
    let v := markBroken d r s
    let possible := (v.die d).diodeBad = false ∧ (v.die d).boot.isSome = true ∧ v.nearest d r ≠ []
    (¬possible → exec (.sensorCalibration d r) s = .next v) ∧
    (possible → ∃ t step, exec (.sensorCalibration d r) s = .next t ∧ -2 ≤ step ∧ step ≤ 2 ∧
      t = { v with thermal := { v.thermal with dies := t.thermal.dies } } ∧
      (∀ j, j < oscCount d → sget (fun _ => 0) (t.die d).offs j = sget (fun _ => 0) (v.die d).offs j + step) ∧
      (∀ j, oscCount d ≤ j → sget (fun _ => 0) (t.die d).offs j = sget (fun _ => 0) (v.die d).offs j) ∧
      ((∀ o ∈ v.nearest d r, v.oscEighths d o.1 o.2 = 2 * r.diode) → step = 0)) := by
  intro v possible
  have hexec := sensorCalibration_eq (v := v) (d := d) (r := r) hup rfl
  have hguard : ((v.die d).diodeBad || (v.die d).boot.isNone || (v.nearest d r).isEmpty) = true ↔ ¬possible := by
    unfold possible
    rw [Bool.or_eq_true, Bool.or_eq_true, List.isEmpty_iff, Option.isNone_iff_eq_none, Option.isSome_iff_ne_none]
    cases (v.die d).diodeBad <;> simp [or_iff_not_imp_left]
  refine ⟨fun h => hexec.trans (if_pos (hguard.2 h)), fun h => ?_⟩
  have hoffs : ∀ (m : SMap Int) j, sget (fun _ => 0) ((setDie d { v.die d with offs := m } v).die d).offs j =
      sget (fun _ => 0) m j := fun m j => by rw [State.die_setDie, if_pos rfl]
  refine ⟨_, v.calStep d r, hexec.trans (if_neg fun hg => hguard.1 hg h), ?_, ?_, rfl, fun j hj => ?_, fun j hj => ?_,
    calStep_agreed⟩
  · unfold State.calStep
    omega
  · unfold State.calStep
    omega
  · rw [hoffs, sget_foldl_step, if_pos hj]
  · rw [hoffs, sget_foldl_step, if_neg (Nat.not_lt.2 hj)]

end

/-- Settles O44: no event or report of a sample shows in the levels (`SameLevels`), so that the level moves once, by the
rules of R388. -/
theorem temperaturesAct : Obligations.TemperaturesAct := by
  refine ⟨fun i reads s hshut hvin hdown hlen => ?_, fun i reads s hup hvin hlen => thermalSample_acts hup hvin hlen,
    fun m s hup => hbmThermalRead_acts hup, fun d r s hup => sensorCalibration_acts hup⟩
  have hnext := thermalSample_reset hshut hvin hdown hlen
  have hkeeps : Keeps { cores := true, stks := true, mem := true, regs := true } s (diodeCheck (diesOf i) reads s) := by
    simp [Keeps.refl]
  exact ⟨_, hnext, outside_of_keeps hkeeps, regs_of_keeps hkeeps,
    fun d r hmem hgood hlo hhi => diodeCheck_shuts hlen hmem hgood hlo hhi⟩

end Sys2Proof.Machine
end

section

/-! ## Claim queues and stop points (O45) -/

namespace Sys2Proof.Machine

open Sys2Proof

-- Proofs in turn: each that waits on others while elaborated at once holds a stack, and the check limits the memory.
set_option Elab.async false

/-! ### Claims -/

section
variable {s : State} {k : StackId} {q : Fin 4} {core : Fin 17}

theorem claimQ_setClaimQ (k q j : Nat) (x : ClaimQ) (s : State) :
    (setClaimQ k q x s).claimQ k j = if j = q then x else s.claimQ k j := by
  rw [State.claimQ, setClaimQ, State.stk_updStk, if_pos rfl]
  exact sget_sset ..

theorem claimTake_eq {w : Word32} {v : State} (hup : s.down = false) (h : takeClaim k q core s = (w, v)) :
    exec (.claimTake k q core) s = .next { v with answer := .data (leBytes 4 w.toNat) } := by
  rw [show exec (.claimTake k q core) s = execClaimTake k q core s from rfl, execClaimTake, ifUp_eq hup, h]

/-- A queue of the stack is in use, and its stack serves (R395). -/
def claimOpen (k q : Nat) (s : State) : Prop :=
  s.claimN k q ≠ 0 ∧ s.stackExcluded k = false ∧ s.stackAdmitted k = true ∧ s.stackLive k = true

/-- Core `c` is among the queue's own, or it is the host (R395). -/
def claimMember (k q c : Nat) (s : State) : Prop :=
  c = 16 ∨ bitOf (s.fld (Reg.STK_CLAIMq_CORES k q) F.STK_CLAIMq_CORES.CORES) c = true

/-- A core that is not among the queue's own claims of it, or the host of one that keeps exact order. -/
def claimStranger (k q c : Nat) (s : State) : Bool :=
  (decide (c < 16) && !bitOf (s.fld (Reg.STK_CLAIMq_CORES k q) F.STK_CLAIMq_CORES.CORES) c) || (c == 16 && s.exact)

theorem claimShut_iff (k q : Nat) : (decide (s.claimN k q = 0) || s.stackExcluded k || !s.stackAdmitted k ||
    !s.stackLive k) = true ↔ ¬claimOpen k q s := by
  unfold claimOpen
  simp only [Bool.or_eq_true, decide_eq_true_eq, Bool.not_eq_true', not_and_or, not_not, Bool.not_eq_false,
    Bool.not_eq_true, or_assoc]

theorem claimOf_shut (h : ¬claimOpen k q s) : s.claimOf k q core = .none :=
  if_pos ((claimShut_iff k q).2 h)

theorem claimOf_stranger (h : claimStranger k q core s = true) : s.claimOf k q core = .none := by
  by_cases ho : claimOpen k q s
  · exact (if_neg fun hs => (claimShut_iff k q).1 hs ho).trans (if_pos h)
  · exact claimOf_shut ho

theorem claimOf_next (ho : claimOpen k q s) (hin : claimStranger k q core s = false) (hexact : s.exact = false)
    (hkind : s.flag (Reg.STK_CLAIMq_CFG k q) F.STK_CLAIMq_CFG.KIND = false)
    (hleft : (s.claimQ k q).returned < s.claimN k q) : s.claimOf k q core = .item (s.claimQ k q).returned :=
  (if_neg fun hs => (claimShut_iff k q).1 hs ho).trans ((if_neg (Bool.eq_false_iff.1 hin)).trans
    ((if_neg (Bool.eq_false_iff.1 hexact)).trans ((if_neg (Bool.eq_false_iff.1 hkind)).trans (if_pos hleft))))

/-- A claim that returns no item notes a stranger and changes nothing else. -/
theorem takeClaim_none (h : s.claimOf k q core = .none) : takeClaim k q core s = (0x80000000#32,
    if claimStranger k q core s then s.setFlag (Reg.STK_CLAIMq_STAT k q) F.STK_CLAIMq_STAT.NOTCORE else s) := by
  unfold takeClaim
  rw [h]
  rfl

/-- A claim that returns item `i`, by a core of the queue's own: the item counts, and the last one re-arms the queue. -/
theorem takeClaim_item {i : Nat} (h : s.claimOf k q core = .item i) (hin : claimStranger k q core s = false) :
    ∃ x, x.returned = (s.claimQ k q).returned + 1 ∧ takeClaim k q core s = (BitVec.ofNat 32 i,
      if x.returned = s.claimN k q then claimRearm k q s else setClaimQ k q x s) := by
  unfold takeClaim
  rw [h]
  dsimp only
  rw [claimStranger] at hin
  rw [if_neg (Bool.eq_false_iff.1 hin)]
  exact ⟨{ s.claimQ k q with
    returned := (s.claimQ k q).returned + 1,
    perCore := sset (fun _ => 0) (s.claimQ k q).perCore core (sget (fun _ => 0) (s.claimQ k q).perCore core + 1),
    posted := (s.claimQ k q).posted.filter (· != i) }, rfl, rfl⟩

theorem claimN_lt (k q : Nat) : s.claimN k q < 2 ^ 16 := Nat.mod_lt _ (by decide)

theorem claimTake_gives (hup : s.down = false) (ho : claimOpen k q s) (hmember : claimMember k q core s)
    (hexact : s.exact = false) (hkind : s.flag (Reg.STK_CLAIMq_CFG k q) F.STK_CLAIMq_CFG.KIND = false)
    (hleft : (s.claimQ k q).returned < s.claimN k q) :
    ∃ t, exec (.claimTake k q core) s = .next t ∧ t.answer = .data (leBytes 4 (s.claimQ k q).returned) ∧
      (t.claimQ k q).returned = (if (s.claimQ k q).returned + 1 = s.claimN k q then 0
        else (s.claimQ k q).returned + 1) ∧ t.regs = s.regs ∧
      (∀ j, j ≠ q.val → t.claimQ k j = s.claimQ k j) ∧ t.cores = s.cores ∧ t.mem = s.mem := by
  have hin : claimStranger k q core s = false := by
    unfold claimStranger
    rw [hexact, Bool.and_false, Bool.or_false]
    rcases hmember with h | h
    · rw [h]
      rfl
    · rw [h, Bool.not_true, Bool.and_false]
  obtain ⟨x, hx, htake⟩ := takeClaim_item (claimOf_next ho hin hexact hkind hleft) hin
  have hlt := claimN_lt (s := s) k q
  have hword : (BitVec.ofNat 32 (s.claimQ k q).returned).toNat = (s.claimQ k q).returned :=
    (BitVec.toNat_ofNat ..).trans (Nat.mod_eq_of_lt (by omega))
  rw [hx] at htake
  by_cases hlast : (s.claimQ k q).returned + 1 = s.claimN k q
  · rw [if_pos hlast] at htake
    rw [if_pos hlast]
    refine ⟨_, claimTake_eq hup htake, by rw [hword], ?_, rfl, fun j hj => ?_, rfl, rfl⟩
    · exact congrArg ClaimQ.returned ((claimQ_setClaimQ k q q _ s).trans (if_pos rfl))
    · exact (claimQ_setClaimQ k q j _ s).trans (if_neg hj)
  · rw [if_neg hlast] at htake
    rw [if_neg hlast]
    refine ⟨_, claimTake_eq hup htake, by rw [hword], ?_, rfl, fun j hj => ?_, rfl, rfl⟩
    · exact (congrArg ClaimQ.returned ((claimQ_setClaimQ k q q _ s).trans (if_pos rfl))).trans hx
    · exact (claimQ_setClaimQ k q j _ s).trans (if_neg hj)

/-- What a claim that returns NONE leaves: the registers differ at most in NOTCORE. -/
theorem claimTake_none (hup : s.down = false) (h : s.claimOf k q core = .none) :
    ∃ t, exec (.claimTake k q core) s = .next t ∧ t.answer = .data (leBytes 4 0x80000000) ∧
      (claimStranger k q core s = true → t.flag (Reg.STK_CLAIMq_STAT k q) F.STK_CLAIMq_STAT.NOTCORE = true) ∧
      t.claimQ k q = s.claimQ k q ∧ OutsideSame s t := by
  have hexec := claimTake_eq hup (takeClaim_none h)
  generalize hw : (if claimStranger k q core s = true then
    s.setFlag (Reg.STK_CLAIMq_STAT k q) F.STK_CLAIMq_STAT.NOTCORE else s) = w at hexec
  have hflag : claimStranger k q core s = true →
      w.flag (Reg.STK_CLAIMq_STAT k q) F.STK_CLAIMq_STAT.NOTCORE = true := fun hin => by
    rw [← hw, if_pos hin]
    exact (State.flag_eq ..).trans (bit_setFlag_same s (Reg.STK_CLAIMq_STAT k q) _ true (by decide))
  have hout : OutsideSame s w := by
    rw [← hw]
    refine outside_of_keeps (K := quiet) ?_
    split <;> simp [Keeps.refl]
  have hqueue : w.claimQ k q = s.claimQ k q := by
    unfold State.claimQ State.stk
    rw [hout.2.1]
  exact ⟨answer (.data (leBytes 4 0x80000000)) w, hexec, rfl, fun hin => (flag_answer ..).trans (hflag hin), hqueue,
    hout.trans (outside_answer _ _)⟩

end

/-! ### Writes of the queues' registers -/

section
variable {s : State} {p : Path} {k : StackId} {q r : Fin 4}

theorem exec_claimStat (v : Word32) (hacc : Accepts p (Reg.STK_CLAIMq_STAT k q) s) :
    ifUp s (.next (pathWrite p (Reg.STK_CLAIMq_STAT k q) v s)) = .next (writeClaimStat k q v s) := by
  have haddr : Reg.STK_CLAIMq_STAT k q = stackAddr (0x1000414 + q.val * 0x20) k := by
    unfold Reg.STK_CLAIMq_STAT stackAddr; omega
  have hrow : ∀ j : Fin 4, (regRowAt (0x1000414 + j.val * 0x20)).map (fun r => (r.base, r.strides)) =
      some (0x1000414, [(24, 0x100000), (4, 0x20)]) := by decide
  rw [haddr] at hacc ⊢
  exact ifUp_pathWrite_stackUnit hacc (by decide) (by unfold InStack; decide) (by unfold InStack; omega) (by decide)
    (hrow q) rfl rfl

theorem writeClaimStat_rearms {v : Word32} (h : v.getLsbD 20 = true) : writeClaimStat k q v s =
    claimRearm k q (s.setReg (Reg.STK_CLAIMq_STAT k q) (s.reg (Reg.STK_CLAIMq_STAT k q) &&& ~~~(v &&& 0xF0000#32))) :=
  if_pos h

theorem claimRearm_parts {w : State} (h : SameRegs s w) : (claimRearm k q w).claimQ k q = ClaimQ.reset ∧
    (∀ a, (claimRearm k q w).reg a = s.reg a) ∧ (∀ j, j ≠ q.val → (claimRearm k q w).claimQ k j = s.claimQ k j) ∧
    (claimRearm k q w).cores = s.cores ∧ (claimRearm k q w).mem = s.mem := by
  obtain ⟨hreg, hrest⟩ := h
  have hqueue : ∀ j, w.claimQ k j = s.claimQ k j := fun j => by rw [hrest]; rfl
  refine ⟨(claimQ_setClaimQ k q q _ w).trans (if_pos rfl), hreg, fun j hj => ?_, ?_, ?_⟩
  · exact (claimQ_setClaimQ k q j _ w).trans ((if_neg hj).trans (hqueue j))
  · rw [hrest]
    rfl
  · rw [hrest]
    rfl

/-- A queue that is armed anew, of its registers nothing else. -/
theorem claimRearm_rearms (hacc : Accepts p (Reg.STK_CLAIMq_STAT k q) s) :
    ∃ t, exec (.claimRearm p k q) s = .next t ∧ t.claimQ k q = ClaimQ.reset ∧ (∀ a, t.reg a = s.reg a) ∧
      (∀ j, j ≠ q.val → t.claimQ k j = s.claimQ k j) ∧ t.cores = s.cores ∧ t.mem = s.mem := by
  have hword : s.reg (Reg.STK_CLAIMq_STAT k q) &&& ~~~((0x100000 : Word32) &&& 0xF0000#32) =
      s.reg (Reg.STK_CLAIMq_STAT k q) := by
    rw [show ~~~((0x100000 : Word32) &&& 0xF0000#32) = BitVec.allOnes 32 by decide, BitVec.and_allOnes]
  have hexec : exec (.claimRearm p k q) s = .next (claimRearm k q (s.setReg (Reg.STK_CLAIMq_STAT k q)
      (s.reg (Reg.STK_CLAIMq_STAT k q) &&& ~~~((0x100000 : Word32) &&& 0xF0000#32)))) :=
    (exec_claimStat 0x100000 hacc).trans (congrArg _ (writeClaimStat_rearms (by decide)))
  exact ⟨_, hexec, claimRearm_parts (sameRegs_setReg hword)⟩

/-- CFG, CORES and BASE have an effect each, and feed no interrupt. -/
theorem effect_claimCfg : ∀ r : Fin 4, (∃ n, regEffects.find? (fun e => e.1 == 0x1000400 + 4 * r.val) =
    some (n, fun ix => writeClaimCfg (ixAt ix 0) (ixAt ix 1) r.val)) ∧
    feeds.find? (fun e => e.1 == 0x1000400 + 4 * r.val) = none
  | 0 => ⟨⟨_, rfl⟩, rfl⟩
  | 1 => ⟨⟨_, rfl⟩, rfl⟩
  | 2 => ⟨⟨_, rfl⟩, rfl⟩
  | 3 => ⟨⟨_, rfl⟩, rfl⟩

theorem exec_claimCfg (v : Word32) (hacc : Accepts p (Reg.STK_CLAIMq_CFG k q + 4 * r.val) s) :
    exec (.claimCfgWrite p k q r v) s = .next (writeClaimCfg k q r v s) := by
  have haddr : Reg.STK_CLAIMq_CFG k q + 4 * r.val = stackAddr (0x1000400 + 4 * r.val + q.val * 0x20) k := by
    unfold Reg.STK_CLAIMq_CFG stackAddr; omega
  have hrow : ∀ r j : Fin 4, (regRowAt (0x1000400 + 4 * r.val + j.val * 0x20)).map (fun r => (r.base, r.strides)) =
      some (0x1000400 + 4 * r.val, [(24, 0x100000), (4, 0x20)]) := by decide
  have hexec : exec (.claimCfgWrite p k q r v) s =
    ifUp s (.next (pathWrite p (Reg.STK_CLAIMq_CFG k q + 4 * r.val) v s)) := rfl
  rw [haddr] at hacc hexec
  obtain ⟨⟨n, heffect⟩, hfeeds⟩ := effect_claimCfg r
  exact hexec.trans (ifUp_pathWrite_stackUnit hacc (by decide) (by unfold InStack; omega) (by unfold InStack; omega)
    (by decide) (hrow r q) heffect hfeeds)

theorem claimCfgWrite_acts (v : Word32) (hacc : Accepts p (Reg.STK_CLAIMq_CFG k q + 4 * r.val) s) :
    let ok := s.noJob = true ∧ (r.val = 0 → (v.extractLsb' 1 4).toNat ≤ 10)
    let m : Word32 := if r.val = 0 then 0xFFFF001F else if r.val = 1 then 0xFFFF else
      if r.val = 2 then 0xFFFFFFC0 else 0xFF
    (ok → exec (.claimCfgWrite p k q r v) s =
      .next (claimRearm k q (s.setReg (Reg.STK_CLAIMq_CFG k q + 4 * r.val) (v &&& m)))) ∧
    (¬ok → exec (.claimCfgWrite p k q r v) s =
      .next (s.setFlag (Reg.STK_CLAIMq_STAT k q) F.STK_CLAIMq_STAT.IGN)) := by
  intro ok m
  have hguard : (!s.noJob || (r.val == 0 && decide (10 < F.STK_CLAIMq_CFG.SZ.get v))) = true ↔ ¬ok := by
    have hsize : (v.extractLsb' 1 4).toNat = F.STK_CLAIMq_CFG.SZ.get v := rfl
    unfold ok
    rw [hsize, Bool.or_eq_true, Bool.and_eq_true, Bool.not_eq_true', beq_iff_eq, decide_eq_true_eq, not_and_or,
      Bool.not_eq_true, Classical.not_imp, Nat.not_le]
  exact ⟨fun h => (exec_claimCfg v hacc).trans (congrArg _ (if_neg fun hg => hguard.1 hg h)),
    fun h => (exec_claimCfg v hacc).trans (congrArg _ (if_pos (hguard.2 h)))⟩

end

/-! ### Stop points -/

section
variable {s : State} {c : Cid}

/-- The K-th instruction of the counted slot sets the stop, and its address is kept (R410). -/
theorem commitTo_stops {g : Gid} {next : BitVec 40} (hg : gi g = ci c) (hon : s.stopOn (ci c) = true)
    (hslot : s.fld (Reg.CORE_STOP_CTL c.s c.c) F.CORE_STOP_CTL.SLOT = g.g)
    (hcount : (s.core (ci c)).stopCount + 1 = (s.reg (Reg.CORE_STOP_CNT c.s c.c)).toNat) :
    ((commitTo g next s).core (ci c)).stopNow = true ∧
      (commitTo g next s).pair (Reg.CORE_STOP_PC_LO c.s c.c) = (s.slot (ci c) g.g).pc.toNat := by
  have hdiv := gi_div g
  have hmod := gi_mod g
  rw [hg, ci_div] at hdiv
  rw [hg, ci_mod] at hmod
  have hcore : (updSlot (gi g) g.g (fun x => { x with pc := next }) s).core (gi g) =
      (s.core (gi g)).setSlot g.g { s.slot (gi g) g.g with pc := next } :=
    (State.core_setCore ..).trans (if_pos rfl)
  have hcommit : ∃ k m, (∀ c, m c = true) ∧ commitTo g next s = (commitBody g next ((g.g.val + 1) % 8) k m s).setPair
      (Reg.CORE_STOP_PC_LO g.s g.c) (s.slot (gi g) g.g).pc.toNat := by
    unfold commitTo
    extract_lets i pc s1 s2 counted n hit s3
    have hregs : ∀ a, s2.reg a = s.reg a := fun _ => rfl
    have htick : s2.tick = s.tick := rfl
    have hcounted : counted = true := by
      have hon' : s2.stopOn i = s.stopOn (gi g) := by
        unfold State.stopOn State.flag State.bit State.pair
        simp only [hregs, htick, i]
      have hfld : s2.fld (Reg.CORE_STOP_CTL g.s g.c) F.CORE_STOP_CTL.SLOT = g.g := by
        rw [State.fld, hregs, ← State.fld, ← hdiv, ← hmod]
        exact hslot
      unfold counted
      rw [hon', hg, hon, hfld, beq_self_eq_true]
      rfl
    have hn : n = (s.core (gi g)).stopCount + 1 := congrArg (·.stopCount + 1) hcore
    have hhit : hit = true := by
      unfold hit
      rw [hcounted, hn, hregs, hg, ← hdiv, ← hmod, hcount, beq_self_eq_true]
      rfl
    exact ⟨fun c => if counted then n else c.stopCount, fun c => hit || c.stopNow, fun c => by rw [hhit]; rfl,
      if_pos hhit⟩
  obtain ⟨k, m, hm, hcommit⟩ := hcommit
  rw [hcommit, ← hg, hdiv, hmod]
  refine ⟨?_, pair_setPair _ _ _ (Nat.lt_of_lt_of_le (s.slot (gi g) g.g).pc.isLt (by decide))⟩
  rw [State.setPair_core, core_commitBody, if_pos rfl]
  exact hm _

theorem setFlag_other (a : Nat) (f : Fld) (w : State) : (∀ j, (w.setFlag a f).core j = w.core j) ∧
    (w.setFlag a f).mem = w.mem := ⟨fun _ => rfl, rfl⟩

/-- The groups of a core halt. -/
def Core.halted (c : Core) : Core := (List.range 8).foldl (Core.haltOne true) c

/-- A core notes that it has stopped and drains. -/
def Core.draining (c : Core) : Core := { c with stopDrain := true, stopNow := false, trapSlot := none }

theorem Core.draining_slot (x : Core) (g : Nat) : x.draining.slot g = x.slot g := rfl

theorem Core.halted_slot (x : Core) {g : Nat} (hg : g < 8) : x.halted.slot g = haltSlot true (x.slot g) :=
  (Core.slot_haltBelow true x 8 g).trans (if_pos hg)

theorem haltSlot_state (x : Slot) :
    (haltSlot true x).state = if x.state = .running ∨ x.state = .tickWait then .halted else x.state := by
  unfold haltSlot
  split <;> rfl

/-- The state of a package whose core i has halted at its stop, its flags not yet set. -/
def stopHalted (i : Nat) (s : State) : State := updCore i Core.draining (haltSlots true i s)

theorem core_stopHalted (i j : Nat) :
    (stopHalted i s).core j = if j = i then (s.core i).halted.draining else s.core j := by
  rw [stopHalted, State.core_updCore, core_haltSlots, core_haltSlots, ← Core.halted]
  by_cases h : j = i
  · rw [if_pos h, if_pos h, if_pos rfl]
  · rw [if_neg h, if_neg h, if_neg h]

theorem stopHalted_other (i : Nat) (s : State) : (stopHalted i s).regs = s.regs ∧ (stopHalted i s).mem = s.mem := by
  have hupd : ∀ f (w : State), (updCore i f w).regs = w.regs ∧ (updCore i f w).mem = w.mem := fun _ _ => ⟨rfl, rfl⟩
  rw [stopHalted, haltSlots_eq]
  exact ⟨(hupd _ _).1.trans (hupd _ _).1, (hupd _ _).2.trans (hupd _ _).2⟩

theorem stopCore_eq {i : Nat} (h : (s.core i).stopNow = true) : stopCore i s =
    (markInvalid ((stopHalted i s).setFlag (Reg.CORE_STOP_CTL (i / 16) (i % 16)) F.CORE_STOP_CTL.HIT)).setFlag
      Reg.TICK_STAT F.TICK_STAT.INVALID :=
  if_neg (by rw [h]; decide)

theorem coreStopHit_stops (hup : s.down = false) (hnow : (s.core (ci c)).stopNow = true) :
    ∃ t, exec (.coreStopHit c) s = .next t ∧
      t.flag (Reg.CORE_STOP_CTL c.s c.c) F.CORE_STOP_CTL.HIT = true ∧
      t.flag Reg.TICK_STAT F.TICK_STAT.INVALID = true ∧
      (t.core (ci c)).stopNow = false ∧ (t.core (ci c)).stopDrain = true ∧
      (∀ g, g < 8 → (t.slot (ci c) g).state = (if (s.slot (ci c) g).state = .running ∨
        (s.slot (ci c) g).state = .tickWait then .halted else (s.slot (ci c) g).state)) ∧
      (∀ j, j ≠ ci c → t.core j = s.core j) ∧
      (∀ a, a ≠ Reg.CORE_STOP_CTL c.s c.c → a ≠ Reg.TICK_STAT → t.reg a = s.reg a) ∧ t.mem = s.mem := by
  have hexec : exec (.coreStopHit c) s = .next (stopCore (ci c) s) := ifUp_eq hup _
  rw [stopCore_eq hnow, ci_div, ci_mod] at hexec
  have hne : Reg.CORE_STOP_CTL c.s c.c ≠ Reg.TICK_STAT := by
    unfold Reg.CORE_STOP_CTL Reg.TICK_STAT
    omega
  generalize hu : (stopHalted (ci c) s).setFlag (Reg.CORE_STOP_CTL c.s c.c) F.CORE_STOP_CTL.HIT = u at hexec
  have hhit : u.bit (Reg.CORE_STOP_CTL c.s c.c) F.CORE_STOP_CTL.HIT.lo = true := by
    rw [← hu]
    exact bit_setFlag_same _ _ _ true (by decide)
  have hureg : ∀ a, a ≠ Reg.CORE_STOP_CTL c.s c.c → u.reg a = s.reg a := fun a ha => by
    rw [← hu, reg_setFlag_ne _ _ _ ha, State.reg, (stopHalted_other (ci c) s).1, ← State.reg]
  have hucore : ∀ j, u.core j = if j = ci c then (s.core (ci c)).halted.draining else s.core j := fun j => by
    rw [← hu]
    exact ((setFlag_other _ _ _).1 j).trans (core_stopHalted (ci c) j)
  have humem : u.mem = s.mem := by
    rw [← hu]
    exact (setFlag_other _ _ _).2.trans (stopHalted_other (ci c) s).2
  have hkeeps : Keeps { cores := true, mem := true, regs := true } u (markInvalid u) := (markInvalid_keeps rfl).2 .refl
  obtain ⟨-, -, hcores, -, hmem, hregs, -⟩ := hkeeps
  generalize markInvalid u = w at hexec hcores hmem hregs
  have hcore : ∀ j, (w.setFlag Reg.TICK_STAT F.TICK_STAT.INVALID).core j =
      if j = ci c then (s.core (ci c)).halted.draining else s.core j := fun j =>
    (((setFlag_other _ _ w).1 j).trans (by rw [State.core, hcores rfl, ← State.core])).trans (hucore j)
  have hreg : ∀ a, a ≠ Reg.TICK_STAT → (w.setFlag Reg.TICK_STAT F.TICK_STAT.INVALID).reg a = u.reg a := fun a ha => by
    rw [reg_setFlag_ne _ _ _ ha, State.reg, hregs rfl, ← State.reg]
  refine ⟨_, hexec, ?_, ?_, ?_, ?_, fun g hg => ?_, fun j hj => ?_, fun a ha htick => ?_,
    (setFlag_other _ _ w).2.trans ((hmem rfl).trans humem)⟩
  · rw [State.flag_eq, State.bit, hreg _ hne, ← State.bit]
    exact hhit
  · rw [State.flag_eq]
    exact bit_setFlag_same _ _ _ true (by decide)
  · rw [hcore, if_pos rfl]
    rfl
  · rw [hcore, if_pos rfl]
    rfl
  · rw [State.slot, hcore, if_pos rfl, Core.draining_slot, Core.halted_slot _ hg,
      haltSlot_state]
    rfl
  · rw [hcore, if_neg hj]
  · rw [hreg a htick, hureg a ha]

theorem updCore_other (i : Nat) (f : Core → Core) (w : State) : (updCore i f w).mem = w.mem ∧
    ∀ a, (updCore i f w).pair a = w.pair a := ⟨rfl, fun _ => rfl⟩

/-- One live digest is copied (R411). -/
def copyDigest (i : Nat) (k : Nat) (s : State) : State :=
  s.setPair (Reg.CORE_GLINT_STOPk_LO (i / 16) (i % 16) k)
    (sget (fun _ => 0) (s.core i).kept k + sget (fun _ => 0) (s.core i).glint k).toNat

theorem takeSnapshot_eq (i : Nat) : takeSnapshot i s =
    updCore i (fun c => { c with stopDrain := false, kept := [] }) (forEach (List.range 16) (copyDigest i) s) := rfl

theorem forEach_cons {α : Type} (a : α) (l : List α) (f : α → State → State) (v : State) :
    forEach (a :: l) f v = forEach l f (f a v) := rfl

theorem copyDigests_parts (i : Nat) (l : List Nat) : ∀ s : State, (forEach l (copyDigest i) s).cores = s.cores ∧
    (forEach l (copyDigest i) s).mem = s.mem ∧ ∀ k, (forEach l (copyDigest i) s).pair
      (Reg.CORE_GLINT_STOPk_LO (i / 16) (i % 16) k) = if k ∈ l then
        (sget (fun _ => 0) (s.core i).kept k + sget (fun _ => 0) (s.core i).glint k).toNat
      else s.pair (Reg.CORE_GLINT_STOPk_LO (i / 16) (i % 16) k) := by
  induction l with
  | nil => exact fun s => ⟨rfl, rfl, fun k => (if_neg List.not_mem_nil).symm⟩
  | cons j l ih =>
    intro s
    obtain ⟨hcores, hmem, hpair⟩ := ih (copyDigest i j s)
    have hcore : (copyDigest i j s).core i = s.core i := by rw [copyDigest, State.setPair_core]
    have hparts : (copyDigest i j s).cores = s.cores ∧ (copyDigest i j s).mem = s.mem := by
      rw [copyDigest, state_setPair]
      exact ⟨rfl, rfl⟩
    rw [forEach_cons]
    refine ⟨hcores.trans hparts.1, hmem.trans hparts.2, fun k => ?_⟩
    rw [hpair, hcore]
    by_cases hk : k ∈ l
    · rw [if_pos hk, if_pos (List.mem_cons_of_mem _ hk)]
    · rw [if_neg hk]
      by_cases hj : k = j
      · rw [if_pos (List.mem_cons.2 (.inl hj)), hj, copyDigest]
        exact pair_setPair _ _ _ (BitVec.isLt _)
      · rw [if_neg fun h => (List.mem_cons.1 h).elim hj hk]
        unfold copyDigest
        refine pair_congr ?_ ?_ <;> refine reg_setPair_ne _ _ _ ?_ ?_ <;> unfold Reg.CORE_GLINT_STOPk_LO <;> omega

theorem takeSnapshot_parts (i : Nat) (s : State) : ((takeSnapshot i s).core i) = { s.core i with stopDrain := false, kept := [] } ∧
    (∀ j, j ≠ i → (takeSnapshot i s).core j = s.core j) ∧ (takeSnapshot i s).mem = s.mem ∧
    ∀ k, k < 16 → (takeSnapshot i s).pair (Reg.CORE_GLINT_STOPk_LO (i / 16) (i % 16) k) =
      (sget (fun _ => 0) (s.core i).kept k + sget (fun _ => 0) (s.core i).glint k).toNat := by
  obtain ⟨hcores, hmem, hpair⟩ := copyDigests_parts i (List.range 16) s
  have hcore : ∀ j, (forEach (List.range 16) (copyDigest i) s).core j = s.core j := fun j => by
    rw [State.core, hcores]
    rfl
  rw [takeSnapshot_eq]
  generalize forEach (List.range 16) (copyDigest i) s = w at hmem hpair hcore
  obtain ⟨humem, hupair⟩ := updCore_other i (fun c => { c with stopDrain := false, kept := [] }) w
  refine ⟨?_, fun j hj => ?_, humem.trans hmem,
    fun k hk => (hupair _).trans ((hpair k).trans (if_pos (List.mem_range.2 hk)))⟩
  · rw [State.core_updCore, if_pos rfl, hcore]
  · rw [State.core_updCore, if_neg hj, hcore]

theorem glintSnapshot_copies {late : Bool} (hup : s.down = false) (hdrain : (s.core (ci c)).stopDrain = true)
    (hdue : s.coreDrained (ci c) = true ∨ late = true) :
    ∃ t, exec (.glintSnapshot c late) s = .next t ∧ (t.core (ci c)).stopDrain = false ∧
      (∀ k, k < 16 → t.pair (Reg.CORE_GLINT_STOPk_LO c.s c.c k) =
        (sget (fun _ => 0) (s.core (ci c)).kept k + sget (fun _ => 0) (s.core (ci c)).glint k).toNat) ∧
      (s.coreDrained (ci c) = false → t.flag (Reg.CORE_STOP_CTL c.s c.c) F.CORE_STOP_CTL.PARTIAL = true) ∧
      (t.core (ci c)).glint = (s.core (ci c)).glint ∧ (∀ j, j ≠ ci c → t.core j = s.core j) ∧ t.mem = s.mem := by
  obtain ⟨hcore, hothers, hmem, hpair⟩ := takeSnapshot_parts (ci c) s
  rw [ci_div, ci_mod] at hpair
  have hexec : exec (.glintSnapshot c late) s = if !(s.core (ci c)).stopDrain then .next s
      else if s.coreDrained (ci c) then .next (takeSnapshot (ci c) s)
      else if late then .next ((takeSnapshot (ci c) s).setFlag (Reg.CORE_STOP_CTL c.s c.c) F.CORE_STOP_CTL.PARTIAL)
      else .next s := ifUp_eq hup _
  rw [hdrain, if_neg (by decide)] at hexec
  generalize takeSnapshot (ci c) s = w at hexec hcore hothers hmem hpair
  cases hd : s.coreDrained (ci c) with
  | true =>
    rw [hd, if_pos rfl] at hexec
    exact ⟨_, hexec, by rw [hcore], hpair, fun h => (by cases h), by rw [hcore], hothers, hmem⟩
  | false =>
    rw [hd] at hdue
    rw [hd, if_neg Bool.false_ne_true, if_pos (hdue.resolve_left Bool.false_ne_true)] at hexec
    obtain ⟨hsame, hwmem⟩ := setFlag_other (Reg.CORE_STOP_CTL c.s c.c) F.CORE_STOP_CTL.PARTIAL w
    refine ⟨_, hexec, ?_, fun k hk => ?_, fun _ => ?_, ?_, fun j hj => ?_, ?_⟩
    · exact (congrArg Core.stopDrain (hsame _)).trans (by rw [hcore])
    · refine (pair_congr (reg_setFlag_ne _ _ _ ?_) (reg_setFlag_ne _ _ _ ?_)).trans (hpair k hk) <;>
        unfold Reg.CORE_GLINT_STOPk_LO Reg.CORE_STOP_CTL <;> omega
    · exact (State.flag_eq ..).trans (bit_setFlag_same _ _ _ true (by decide))
    · exact (congrArg Core.glint (hsame _)).trans (by rw [hcore])
    · exact (hsame j).trans (hothers j hj)
    · exact hwmem.trans hmem

end

/-- Settles O45: a claim's answer is decided before it is recorded (`claimOf`), and a stop is one equation of its core and
its two flags. -/
theorem claimsAndStopsAct : Obligations.ClaimsAndStopsAct := by
  refine ⟨fun p k q r core v s => ?_, fun c s hup => ?_⟩
  · intro n x cfg stat open_ member
    refine ⟨fun hup => ⟨fun ho hmember hexact hkind hleft => claimTake_gives hup ho hmember hexact hkind hleft,
      fun ho => ?_, fun hcore hmember => ?_⟩, fun hacc => claimRearm_rearms hacc, fun hacc => claimCfgWrite_acts v hacc⟩
    · obtain ⟨t, hexec, hans, -, hqueue, hout⟩ := claimTake_none hup (claimOf_shut (core := core) ho)
      exact ⟨t, hexec, hans, hqueue, hout⟩
    · have hstranger : claimStranger k q core s = true := by
        unfold claimStranger
        rw [decide_eq_true hcore, Bool.eq_false_iff.2 fun h => hmember (.inr h)]
        rfl
      obtain ⟨t, hexec, hans, hflag, hqueue, hout⟩ := claimTake_none hup (claimOf_stranger hstranger)
      exact ⟨t, hexec, hans, hflag hstranger, hqueue, hout⟩
  · intro i ctl
    refine ⟨fun g next hg hon hslot hcount => commitTo_stops hg hon hslot hcount, fun hnow => ?_,
      fun hnow => coreStopHit_stops hup hnow, fun late hdrain hdue => glintSnapshot_copies hup hdrain hdue⟩
    have hexec : exec (.coreStopHit c) s = .next (stopCore i s) := ifUp_eq hup _
    rw [hexec]
    unfold stopCore
    rw [hnow]
    rfl

end Sys2Proof.Machine
end

section

/-! ## The domains of cores and slabs (O41) -/

namespace Sys2Proof.Machine

open Sys2Proof

-- Proofs in turn: each that waits on others while elaborated at once holds a stack, and the check limits the memory.
set_option Elab.async false

/-! ### Gates and what a stack still has to turn on -/

section
variable {s t u : State} {i j k : Nat}

theorem State.gate_setGate (s : State) (i j : Nat) (g : Gate) :
    (setGate i g s).gate j = if j = i then g else s.gate j := sget_sset ..

theorem core_setGate (i : Nat) (g : Gate) (s : State) : (setGate i g s).core i = s.core i := rfl

/-- Of the package only the power unit, the boot unit, core i and its gate differ. -/
def OnlyDomain (i : Nat) (s t : State) : Prop :=
  t.regs = s.regs ∧ t.mem = s.mem ∧ t.stks = s.stks ∧ ∀ j, j ≠ i → t.core j = s.core j ∧ t.gate j = s.gate j

theorem OnlyDomain.refl : OnlyDomain i s s := ⟨rfl, rfl, rfl, fun _ _ => ⟨rfl, rfl⟩⟩

theorem OnlyDomain.trans (h : OnlyDomain i s t) (h' : OnlyDomain i t u) : OnlyDomain i s u := by
  obtain ⟨hregs, hmem, hstks, hrest⟩ := h
  obtain ⟨hregs', hmem', hstks', hrest'⟩ := h'
  exact ⟨hregs'.trans hregs, hmem'.trans hmem, hstks'.trans hstks, fun j hj =>
    ⟨(hrest' j hj).1.trans (hrest j hj).1, (hrest' j hj).2.trans (hrest j hj).2⟩⟩

theorem onlyDomain_setGate (g : Gate) : OnlyDomain i s (setGate i g s) :=
  ⟨rfl, rfl, rfl, fun _ hj => ⟨rfl, (State.gate_setGate ..).trans (if_neg hj)⟩⟩

theorem onlyDomain_setStaged (xs : List (Bool × Nat)) : OnlyDomain i s (setStaged k xs s) :=
  ⟨rfl, rfl, rfl, fun _ _ => ⟨rfl, rfl⟩⟩

theorem State.staged_setStaged (s : State) (k : Nat) (xs : List (Bool × Nat)) : (setStaged k xs s).staged k = xs :=
  sget_sset_same (fun _ => []) s.power.staging k xs

/-- A request changes the stack's queue of domains alone, loses none, and stands in it. -/
theorem stageOn_parts (k : Nat) (x : Bool × Nat) (s : State) : OnlyDomain i s (stageOn k x s) ∧
    (stageOn k x s).core i = s.core i ∧ (stageOn k x s).gate i = s.gate i ∧ x ∈ (stageOn k x s).staged k := by
  unfold stageOn
  split
  · exact ⟨onlyDomain_setStaged _, rfl, rfl, by rw [State.staged_setStaged]; exact List.mem_singleton.2 rfl⟩
  next h t hst =>
    split
    next hin => exact ⟨.refl, rfl, rfl, by rw [hst]; exact List.contains_iff_mem.1 hin⟩
    next =>
      refine ⟨onlyDomain_setStaged _, rfl, rfl, ?_⟩
      rw [State.staged_setStaged]
      exact List.mem_cons_of_mem _ (List.mem_append_left _ (List.mem_append_right _ (List.mem_singleton.2 rfl)))

/-- A request keeps those that stand. -/
theorem mem_stageOn {y : Bool × Nat} (x : Bool × Nat) (h : y ∈ s.staged k) : y ∈ (stageOn k x s).staged k := by
  unfold stageOn
  split
  next hst => rw [hst] at h; exact absurd h List.not_mem_nil
  next z t hst =>
    split
    · exact h
    · rw [State.staged_setStaged]
      rw [hst] at h
      rcases List.mem_cons.1 h with rfl | hy
      · exact List.mem_cons_self
      · refine List.mem_cons_of_mem _ ?_
        cases hb : stageBefore y x with
        | true => exact List.mem_append_left _ (List.mem_append_left _ (List.mem_filter.2 ⟨hy, hb⟩))
        | false => exact List.mem_append_right _ (List.mem_filter.2 ⟨hy, by rw [hb]; rfl⟩)

/-- The core domain goes off: what the core held is gone. -/
theorem coreOff_parts (i : Nat) (s : State) : OnlyDomain i s (coreOff i s) ∧ (coreOff i s).core i = (s.core i).cleared ∧
    (coreOff i s).gate i = { s.gate i with coreOn := false } := by
  have hgate : ∀ j, (coreOff i s).gate j = if j = i then { s.gate i with coreOn := false } else s.gate j :=
    fun j => State.gate_setGate s i j { s.gate i with coreOn := false }
  have hcore : ∀ j, (coreOff i s).core j = if j = i then (s.core i).cleared else s.core j :=
    fun j => State.core_setCore _ i j _
  refine ⟨⟨rfl, rfl, rfl, fun j hj => ⟨?_, ?_⟩⟩, ?_, ?_⟩
  · rw [hcore, if_neg hj]
  · rw [hgate, if_neg hj]
  · rw [hcore, if_pos rfl]
  · rw [hgate, if_pos rfl]

end

/-! ### CORE_PWR_CTL -/

section
variable {s : State} {i : Nat}

/-- A slab that is to go off closes, if it is on. -/
def slabOff (i : Nat) (s : State) : State :=
  setGate i { s.gate i with slabClosing := (s.gate i).slabOn } (stageDrop (i / 16) (true, i % 16) s)

/-- A slab that is to come on stops closing, or waits its turn. -/
def slabOn (i : Nat) (s : State) : State :=
  let s := setGate i { s.gate i with slabClosing := false } s
  if (s.gate i).slabOn then s else stageOn (i / 16) (true, i % 16) s

theorem slabOff_parts (i : Nat) (s : State) : OnlyDomain i s (slabOff i s) ∧ (slabOff i s).core i = s.core i ∧
    (slabOff i s).gate i = { s.gate i with slabClosing := (s.gate i).slabOn } :=
  ⟨(onlyDomain_setStaged _).trans (onlyDomain_setGate _), rfl, (State.gate_setGate ..).trans (if_pos rfl)⟩

theorem slabOn_parts (i : Nat) (s : State) : OnlyDomain i s (slabOn i s) ∧ (slabOn i s).core i = s.core i ∧
    (slabOn i s).gate i = { s.gate i with slabClosing := false } ∧
    ((s.gate i).slabOn = false → (true, i % 16) ∈ (slabOn i s).staged (i / 16)) := by
  have hgate : (setGate i { s.gate i with slabClosing := false } s).gate i = { s.gate i with slabClosing := false } :=
    (State.gate_setGate ..).trans (if_pos rfl)
  have hdom : OnlyDomain i s (setGate i { s.gate i with slabClosing := false } s) := onlyDomain_setGate _
  have hcore := core_setGate i { s.gate i with slabClosing := false } s
  unfold slabOn
  dsimp only
  generalize setGate i { s.gate i with slabClosing := false } s = w at hgate hdom hcore
  rw [hgate]
  split
  next hon => exact ⟨hdom, hcore, hgate, fun h => absurd (hon.symm.trans h) (by decide)⟩
  next =>
    obtain ⟨hstage, hscore, hsgate, hin⟩ := stageOn_parts (i := i) (i / 16) (true, i % 16) w
    exact ⟨hdom.trans hstage, hscore.trans hcore, hsgate.trans hgate, fun _ => hin⟩

/-- What an accepted write of CORE_PWR_CTL does once its register is written: the core's part and the slab's (R360). -/
def corePwrDone (i : Nat) (g g0 b b0 : Bool) (s : State) : State :=
  let s := if g && !g0 then coreOff i s else s
  let s := if b && !b0 then slabOff i s else s
  let s := if !b && b0 then slabOn i s else s
  if !g && g0 then stageOn (i / 16) (false, i % 16) s else s

theorem writeCorePwr_refused {v : Word32} (h : ((v.getLsbD 0 && !s.bit (Reg.CORE_PWR_CTL (i / 16) (i % 16)) 0 &&
    !(!((s.core i).anySlot fun x => x.state != .empty) && s.noJob)) || (v.getLsbD 1 && !v.getLsbD 0) ||
    !s.stackLive (i / 16)) = true) :
    writeCorePwr i v s = s.setFlag (Reg.CORE_PWR_CTL (i / 16) (i % 16)) F.CORE_PWR_CTL.IGN := if_pos h

/-- The register of an accepted write. -/
def corePwrReg (i : Nat) (v : Word32) (s : State) : State :=
  let a := Reg.CORE_PWR_CTL (i / 16) (i % 16)
  let s := if v.getLsbD 4 then s.setFlag a F.CORE_PWR_CTL.IGN false else s
  (s.setFlag a F.CORE_PWR_CTL.GATE (v.getLsbD 0)).setFlag a F.CORE_PWR_CTL.SLAB_GATE (v.getLsbD 1)

theorem writeCorePwr_accepted {v : Word32} (h : ((v.getLsbD 0 && !s.bit (Reg.CORE_PWR_CTL (i / 16) (i % 16)) 0 &&
    !(!((s.core i).anySlot fun x => x.state != .empty) && s.noJob)) || (v.getLsbD 1 && !v.getLsbD 0) ||
    !s.stackLive (i / 16)) = false) :
    writeCorePwr i v s = corePwrDone i (v.getLsbD 0) (s.bit (Reg.CORE_PWR_CTL (i / 16) (i % 16)) 0) (v.getLsbD 1)
      (s.bit (Reg.CORE_PWR_CTL (i / 16) (i % 16)) 1) (corePwrReg i v s) := if_neg (Bool.eq_false_iff.1 h)

theorem onlyDomain_ite {c : Bool} {t : State} (h : OnlyDomain i s t) : OnlyDomain i s (if c then t else s) := by
  cases c with
  | true => exact h
  | false => exact .refl

/-- What an accepted write does to its domains. -/
theorem corePwrDone_parts (i : Nat) (g g0 b b0 : Bool) (s : State) :
    let t := corePwrDone i g g0 b b0 s
    OnlyDomain i s t ∧
    ((g && !g0) = true → (t.gate i).coreOn = false ∧ t.core i = (s.core i).cleared) ∧
    ((g && !g0) = false → t.core i = s.core i ∧ (t.gate i).coreOn = (s.gate i).coreOn) ∧
    ((b && !b0) = true → (t.gate i).slabClosing = (s.gate i).slabOn) ∧
    ((!g && g0) = true → (false, i % 16) ∈ t.staged (i / 16)) ∧
    ((!b && b0) = true → (s.gate i).slabOn = false → (true, i % 16) ∈ t.staged (i / 16)) := by
  unfold corePwrDone
  extract_lets u1 u2 u3 t
  obtain ⟨hoff, hoffCore, hoffGate⟩ := coreOff_parts i s
  obtain ⟨hsoff, hsoffCore, hsoffGate⟩ := slabOff_parts i u1
  obtain ⟨hson, hsonCore, hsonGate, hsonIn⟩ := slabOn_parts i u2
  obtain ⟨hstage, hstageCore, hstageGate, hstageIn⟩ := stageOn_parts (i := i) (i / 16) (false, i % 16) u3
  have hdom : OnlyDomain i s u3 := ((onlyDomain_ite hoff).trans (onlyDomain_ite hsoff)).trans (onlyDomain_ite hson)
  have hslab1 : (u1.gate i).slabOn = (s.gate i).slabOn := by
    unfold u1
    split
    · rw [hoffGate]
    · rfl
  have hcore2 : u2.core i = u1.core i ∧ (u2.gate i).coreOn = (u1.gate i).coreOn ∧
      (u2.gate i).slabOn = (u1.gate i).slabOn := by
    unfold u2
    split
    · exact ⟨hsoffCore, by rw [hsoffGate], by rw [hsoffGate]⟩
    · exact ⟨rfl, rfl, rfl⟩
  have hcore3 : u3.core i = u2.core i ∧ (u3.gate i).coreOn = (u2.gate i).coreOn := by
    unfold u3
    split
    · exact ⟨hsonCore, by rw [hsonGate]⟩
    · exact ⟨rfl, rfl⟩
  have hlast : t.core i = u3.core i ∧ t.gate i = u3.gate i := by
    unfold t
    split
    · exact ⟨hstageCore, hstageGate⟩
    · exact ⟨rfl, rfl⟩
  obtain ⟨hlcore, hlgate⟩ := hlast
  rw [hlcore, hlgate, hcore3.1, hcore3.2, hcore2.1, hcore2.2.1]
  refine ⟨hdom.trans (onlyDomain_ite hstage), fun h => ?_, fun h => ?_, fun h => ?_, fun h => ?_, fun h hslab => ?_⟩
  · rw [show u1 = coreOff i s from if_pos h, hoffGate]
    exact ⟨rfl, hoffCore⟩
  · rw [show u1 = s from if_neg (Bool.eq_false_iff.1 h)]
    exact ⟨rfl, rfl⟩
  · have hopen : (!b && b0) = false := by
      rw [Bool.and_eq_true] at h
      rw [h.1]
      rfl
    rw [show u3 = u2 from if_neg (Bool.eq_false_iff.1 hopen), show u2 = slabOff i u1 from if_pos h, hsoffGate]
    exact hslab1
  · rw [show t = stageOn (i / 16) (false, i % 16) u3 from if_pos h]
    exact hstageIn
  · have hin : (true, i % 16) ∈ u3.staged (i / 16) := by
      rw [show u3 = slabOn i u2 from if_pos h]
      exact hsonIn ((hcore2.2.2.trans hslab1).trans hslab)
    unfold t
    split
    · exact mem_stageOn _ hin
    · exact hin

theorem onlyReg_setFlag (a : Nat) (f : Fld) (b : Bool) (s : State) : OnlyReg a s (s.setFlag a f b) :=
  by cases b <;> exact onlyReg_setReg a _ s

theorem onlyReg_clears (a : Nat) (f : Fld) (c : Bool) (s : State) :
    OnlyReg a s (if c then s.setFlag a f false else s) := by
  split
  · exact onlyReg_setFlag a f false s
  · exact ⟨fun _ _ => rfl, rfl⟩

/-- A register takes its two lowest flags, and no other register changes. -/
theorem twoFlags_parts {a : Nat} {s w : State} (g b : Bool) (h : OnlyReg a s w) :
    ((w.setFlag a F.CORE_PWR_CTL.GATE g).setFlag a F.CORE_PWR_CTL.SLAB_GATE b).bit a 0 = g ∧
      ((w.setFlag a F.CORE_PWR_CTL.GATE g).setFlag a F.CORE_PWR_CTL.SLAB_GATE b).bit a 1 = b ∧
      OnlyReg a s ((w.setFlag a F.CORE_PWR_CTL.GATE g).setFlag a F.CORE_PWR_CTL.SLAB_GATE b) := by
  refine ⟨?_, ?_, (h.trans (onlyReg_setFlag a _ g w)).trans (onlyReg_setFlag a _ b _)⟩
  · rw [bit_setFlag_ne _ _ _ _ _ (by decide) (by decide)]
    exact bit_setFlag_same w a F.CORE_PWR_CTL.GATE _ (by decide)
  · exact bit_setFlag_same _ a F.CORE_PWR_CTL.SLAB_GATE _ (by decide)

/-- The register of an accepted write takes its two bits, and no other register changes. -/
theorem corePwrReg_parts (i : Nat) (v : Word32) (s : State) :
    (corePwrReg i v s).bit (Reg.CORE_PWR_CTL (i / 16) (i % 16)) 0 = v.getLsbD 0 ∧
      (corePwrReg i v s).bit (Reg.CORE_PWR_CTL (i / 16) (i % 16)) 1 = v.getLsbD 1 ∧
      OnlyReg (Reg.CORE_PWR_CTL (i / 16) (i % 16)) s (corePwrReg i v s) :=
  twoFlags_parts _ _ (onlyReg_clears _ _ _ s)

theorem exec_corePwr {p : Path} {c : Cid} (v : Word32) (hacc : Accepts p (Reg.CORE_PWR_CTL c.s c.c) s) :
    exec (.corePwrGate p c v) s = .next (writeCorePwr (ci c) v s) :=
  ifUp_pathWrite_coreAddr (b := 0x1040600) hacc (by unfold InCore; decide) (by decide) rfl rfl

end

/-! ### Slabs and domains -/

section
variable {s : State}

/-- The L2 lines of a slab. -/
def slabKey (c : Cid) (key : Nat) : Bool := key / 32 / 16384 == c.c.val

/-- A slab that closes writes its lines back and leaves none; the power unit shows none of it. -/
theorem slabPowerOff_eq {c : Cid} (hup : s.down = false) (hclosing : (s.gate (ci c)).slabClosing = true) :
    ∃ w, w.power = s.power ∧ exec (.slabPowerOff c) s = .next
      (setGate (ci c) { (updL2 c.s (fun x => { x with lines := sdrop (slabKey c) x.lines }) w).gate (ci c) with
        slabOn := false, slabClosing := false } (updL2 c.s (fun x => { x with lines := sdrop (slabKey c) x.lines }) w)) := by
  refine ⟨_, ?_, (ifUp_eq hup _).trans (if_neg (by rw [hclosing]; decide))⟩
  have hkeeps : Keeps { power := true } s (forEach (((forEach ((s.stk c.s).l2.lines.filter fun e => slabKey c e.1) (fun e s =>
      match e.2 with
      | some x => l2Flush c.s {} true e.1 x s
      | none => s) s).stk c.s).l2.wb.filter fun e => e.slab == c.c.val) (fun _ s => l2WbAck c.s c.c s)
      (forEach ((s.stk c.s).l2.lines.filter fun e => slabKey c e.1) (fun e s =>
      match e.2 with
      | some x => l2Flush c.s {} true e.1 x s
      | none => s) s)) := by
    refine forEach_keeps (fun _ _ h => l2WbAck_keeps rfl rfl rfl h) (forEach_keeps (fun e t h => ?_) .refl)
    split
    · exact l2Flush_keeps rfl rfl rfl rfl h
    · exact h
  obtain ⟨-, -, -, -, -, -, -, hpower, -⟩ := hkeeps
  exact hpower rfl

theorem slabPowerOff_goes {c : Cid} (hup : s.down = false) (hclosing : (s.gate (ci c)).slabClosing = true) :
    ∃ t, exec (.slabPowerOff c) s = .next t ∧
      (t.gate (ci c)).slabOn = false ∧ (t.gate (ci c)).slabClosing = false ∧
      (t.gate (ci c)).coreOn = (s.gate (ci c)).coreOn ∧ (∀ j, j ≠ ci c → t.gate j = s.gate j) ∧
      ∀ key, key / 32 / 16384 = c.c → sget (fun _ => none) (t.stk c.s).l2.lines key = none := by
  obtain ⟨w, hpower, hexec⟩ := slabPowerOff_eq hup hclosing
  have hgates : ∀ j, (updL2 c.s (fun x => { x with lines := sdrop (slabKey c) x.lines }) w).gate j = s.gate j := fun j => by
    unfold State.gate
    rw [← hpower]
    rfl
  have hlines : ((updL2 c.s (fun x => { x with lines := sdrop (slabKey c) x.lines }) w).stk c.s).l2.lines =
      sdrop (slabKey c) (w.stk c.s).l2.lines := by
    rw [updL2, State.stk_updStk, if_pos rfl]
  generalize updL2 c.s (fun x => { x with lines := sdrop (slabKey c) x.lines }) w = u at hexec hgates hlines
  refine ⟨_, hexec, ?_, ?_, ?_, fun j hj => ?_, fun key hkey => ?_⟩
  · rw [State.gate_setGate, if_pos rfl]
  · rw [State.gate_setGate, if_pos rfl]
  · rw [State.gate_setGate, if_pos rfl, hgates]
  · rw [State.gate_setGate, if_neg hj, hgates]
  · refine (congrArg (sget (fun _ => none) · key) hlines).trans ?_
    have hslab : slabKey c key = true := by
      have hzero : ∀ x : CoreId, x / 32 / 16384 = 0 := by decide
      rw [slabKey, ← hkey, hzero key, beq_iff_eq, Nat.div_div_eq_div_mul]
      exact Nat.div_eq_of_lt (by omega)
    rw [sget_sdrop, if_pos hslab]

/-- A slab that is back reads zero (R236). -/
theorem domainPowerOn_slab {k : StackId} {n : Nat} {rest : List (Bool × Nat)} (hup : s.down = false)
    (hst : s.staged k = (true, n) :: rest) : ∃ t, exec (.domainPowerOn k) s = .next t ∧
      (t.gate (16 * k.val + n)).slabOn = true ∧ t.staged k = rest ∧ t.cores = s.cores ∧
      ∀ x, x < 0x4000000 → t.byteAt (slabBase k n + x) = 0 := by
  have hexec : exec (.domainPowerOn k) s = .next (slabReturn k n (setGate (16 * k.val + n)
      { (setStaged k rest s).gate (16 * k.val + n) with slabOn := true, slabClosing := false } (setStaged k rest s))) := by
    rw [show exec (.domainPowerOn k) s = execDomainPowerOn k s from rfl, execDomainPowerOn, ifUp_eq hup, hst]
    rfl
  have hparts : ∀ w : State, (slabReturn k n w).power = w.power ∧ (slabReturn k n w).cores = w.cores ∧
      (slabReturn k n w).mem = sdrop (fun x => decide (slabBase k n ≤ x) && decide (x < slabBase k n + 0x4000000)) w.mem :=
    fun _ => ⟨rfl, rfl, rfl⟩
  generalize hw : setGate (16 * k.val + n) { (setStaged k rest s).gate (16 * k.val + n) with
    slabOn := true, slabClosing := false } (setStaged k rest s) = w at hexec
  obtain ⟨hpower, hcores, hmem⟩ := hparts w
  refine ⟨_, hexec, ?_, ?_, ?_, fun x hx => ?_⟩
  · rw [State.gate, hpower, ← State.gate, ← hw, State.gate_setGate, if_pos rfl]
  · rw [State.staged, hpower, ← hw]
    exact State.staged_setStaged s k rest
  · rw [hcores, ← hw]
    rfl
  · rw [State.byteAt, hmem, sget_sdrop, if_pos]
    · rfl
    · rw [Bool.and_eq_true, decide_eq_true_eq, decide_eq_true_eq]
      omega

theorem domainPowerOn_core {k : StackId} {n : Nat} {rest : List (Bool × Nat)} (hup : s.down = false)
    (hst : s.staged k = (false, n) :: rest) : exec (.domainPowerOn k) s = .next (coreReturn (16 * k.val + n)
      (setGate (16 * k.val + n) { (setStaged k rest s).gate (16 * k.val + n) with coreOn := true }
        (setStaged k rest s))) := by
  rw [show exec (.domainPowerOn k) s = execDomainPowerOn k s from rfl, execDomainPowerOn, ifUp_eq hup, hst]
  rfl

end

/-- Settles O41: an accepted write of CORE_PWR_CTL is its register and four parts in turn, each of which moves its own
domain alone (`OnlyDomain`). -/
theorem domainsGoOffAndOn : Obligations.DomainsGoOffAndOn := by
  intro p c v s i a g b idle refused
  refine ⟨fun hacc => ⟨fun href => ?_, fun href => ?_⟩, fun hup hclosing => slabPowerOff_goes hup hclosing,
    fun k n rest hup hn => ?_⟩
  · have hwrite := writeCorePwr_refused (s := s) (i := ci c) (v := v) (by rw [ci_div, ci_mod]; exact href)
    rw [ci_div, ci_mod] at hwrite
    exact (exec_corePwr v hacc).trans (congrArg _ hwrite)
  · have hwrite := writeCorePwr_accepted (s := s) (i := ci c) (v := v) (by rw [ci_div, ci_mod]; exact href)
    obtain ⟨hbit0, hbit1, hregs, hrest⟩ := corePwrReg_parts (ci c) v s
    rw [ci_div, ci_mod] at hwrite hbit0 hbit1 hregs
    generalize corePwrReg (ci c) v s = w at hwrite hbit0 hbit1 hregs hrest
    obtain ⟨⟨hdregs, hdmem, hdstks, hothers⟩, hoff, hstay, hclose, hstage, hslab⟩ :=
      corePwrDone_parts (ci c) g (s.bit a 0) b (s.bit a 1) w
    have hsame : w.mem = s.mem ∧ w.stks = s.stks ∧ (∀ j, w.core j = s.core j) ∧ ∀ j, w.gate j = s.gate j := by
      rw [hrest]
      exact ⟨rfl, rfl, fun _ => rfl, fun _ => rfl⟩
    obtain ⟨hmem, hstks, hcore, hgate⟩ := hsame
    rw [ci_div, ci_mod] at hstage hslab
    have hreg : ∀ r, (corePwrDone (ci c) g (s.bit a 0) b (s.bit a 1) w).reg r = w.reg r := fun r => by
      rw [State.reg, hdregs, ← State.reg]
    refine ⟨_, (exec_corePwr v hacc).trans (congrArg _ hwrite), ?_, ?_, hdmem.trans hmem, hdstks.trans hstks,
      fun j hj => ⟨(hothers j hj).1.trans (hcore j), (hothers j hj).2.trans (hgate j)⟩, fun r hr => (hreg r).trans (hregs r hr),
      fun hg h0 => ?_, fun hng => ?_, fun hb h1 => ?_, fun hg h0 => ?_, fun hb h1 hson => ?_⟩
    · exact (congrArg (·.getLsbD 0) (hreg a)).trans hbit0
    · exact (congrArg (·.getLsbD 1) (hreg a)).trans hbit1
    · obtain ⟨hg', hc'⟩ := hoff (by rw [hg, h0]; rfl)
      exact ⟨hg', hc'.trans (by rw [hcore]; rfl)⟩
    · have hnot : (g && !s.bit a 0) = false := by
        rw [Bool.eq_false_iff]
        intro h
        rw [Bool.and_eq_true, Bool.not_eq_true'] at h
        exact hng h
      obtain ⟨hc', hg'⟩ := hstay hnot
      exact ⟨hc'.trans (hcore _), hg'.trans (by rw [hgate])⟩
    · exact (hclose (by rw [hb, h1]; rfl)).trans (by rw [hgate])
    · exact hstage (by rw [hg, h0]; rfl)
    · exact hslab (by rw [hb, h1]; rfl) (by rw [hgate]; exact hson)
  · intro j w
    exact ⟨fun hst => domainPowerOn_slab hup hst, fun hst => domainPowerOn_core hup hst⟩

end Sys2Proof.Machine
end
